-- ==== Sys2Proof/Word.lean ====
section
/-! DEFINITION. The words of the KX3 and the sparse map that holds its memories and register files. -/

namespace Sys2Proof

/-- One byte of memory. -/
abbrev Byte := BitVec 8

/-- A 64-bit word: a scalar register, a syllable, a control register. -/
abbrev Word := BitVec 64

/-- A name, R58: tensor ID [95:72], c3 to c0 [71:32], tag [31:8], plane [7:0]. -/
abbrev Name := BitVec 96

/-- A sparse map: keys strictly rising, the canonical form of every memory and register file of the model. -/
abbrev Map (α : Type) := List (Nat × α)

end Sys2Proof
end

