-- ==== Sys2Proof/Machine/Flags.lean ====
section
/-! DEFINITION. The exception flags of ctl.fflags (R127, R185). -/

namespace Sys2Proof.Machine

/-- nv, dz, of, uf, nx in bits 4 to 0 (Table 5.5). -/
abbrev Flags := BitVec 5

/-- Invalid operation. -/
def flagNv : Flags := 16
/-- Division by zero. -/
def flagDz : Flags := 8
/-- Overflow. -/
def flagOf : Flags := 4
/-- Underflow. -/
def flagUf : Flags := 2
/-- Inexact. -/
def flagNx : Flags := 1

/-- A flag when a condition holds. -/
def flagIf (c : Bool) (f : Flags) : Flags := if c then f else 0

/-- The OR of the flags of several lanes. -/
def orFlags (l : List Flags) : Flags := l.foldl (· ||| ·) 0

end Sys2Proof.Machine
end

