-- ==== Sys2Proof/Config.lean ====
section
/-! DEFINITION. What an implementation fixes: sizes and counts of the spec's tables, and the free values. -/

namespace Sys2Proof.Config

/-- The free value of log entry 7: the byte held by data that arrives poisoned from nowhere (an unreachable device,
an untrained stack, a dead site, an operation whose source no rule gives). Nothing can evaluate it. -/
opaque freeByte : Nat → Byte

/-- The free value of log entry 9: the fraction of a NaN scale that a conversion of the pattern writes. -/
opaque nanFrac : Nat → BitVec 12

/-- The free value of log entry 26: the word that an event log entry of kind 3 holds for a probe's reply, whose form no rule
gives: 0 for no reply, else by its fields. -/
opaque probeWord : Nat → Word

/-- The free value of log entry 27: the size that a host chose for BAR2 of a port, as the power of two past 1 GiB. -/
opaque bar2Size : Nat → Nat

/-- The free value of log entry 77: the Cufort port that an access to an address of the peer window leaves by, or the first one after it
whose link is up. -/
opaque peerPort : Nat → Fin 144

/-- The free value of log entry 79: whether system software left a frame of 8 KiB, by its number, in the free pool of the
evictor. -/
opaque freeFrame : Nat → Bool

/-- The free value of log entry 79: how many frames of bonded DRAM (0) and of HBM (1) are in that pool. -/
opaque freeCount : Nat → BitVec 32

/-- The free value of log entry 87: which of the ports of a checkpoint carries a line of memory. -/
opaque ckptPort : Nat → Nat

/-- The free value of log entry 81: the bytes of the retire region of a pier, in its reserved area of 2 GiB. -/
opaque retireSize : Nat → BitVec 31

/-- Grid width and height (R11). -/
def grid : Nat := 160
/-- Tile sites (R12). -/
def sites : Nat := 21504
/-- The core number of the keystone in `State.cores` and of its threads: the first one after the tile indices. -/
def ks : Nat := 25600
/-- Handler and task slots of a core (R105). -/
def slots : Nat := 16
/-- Matrix queue entries (R215). -/
def mqSize : Nat := 8
/-- Commands an engine queue holds (R288). -/
def engSize : Nat := 8
/-- Matching store entries (R70). -/
def matchSize : Nat := 1024
/-- Name-match table entries of a router (R73). -/
def nmSize : Nat := 4096
/-- Bytes of a publication cache (R76). -/
def cacheSize : Nat := 524288
/-- Outstanding requests of a network interface (R243). -/
def niSize : Nat := 256
/-- Tile TLB and span TLB entries (R306). -/
def tlbSize : Nat := 256
/-- Span TLB entries (R306). -/
def spanTlbSize : Nat := 4096
/-- Records of the pending-launch pool (R97). -/
def poolSize : Nat := 65536

end Sys2Proof.Config
end

