-- ==== Sys2Proof/Syntax.lean ====
section
/-! DEFINITION. The instructions of the KX3: one constructor per row of the operation table, 142 syllables of
R148 to R154 (some with more than one form) and the steps of the device that carry no encoding. -/

namespace Sys2Proof

/-- s0 to s63. -/
abbrev SReg := BitVec 6
/-- v0 to v31. -/
abbrev VReg := BitVec 5
/-- p0 to p15. -/
abbrev PReg := BitVec 4
/-- ac0 to ac15. -/
abbrev AcReg := BitVec 4
/-- sh0 to sh7. -/
abbrev ShReg := BitVec 3
/-- g0 to g15. -/
abbrev GReg := BitVec 4
/-- ob0 to ob3. -/
abbrev ObReg := BitVec 2
/-- k0 to k3. -/
abbrev KReg := BitVec 2
/-- A name pair s(2n), s(2n+1) by its n (R144). -/
abbrev NPair := BitVec 5

/-- Types of Table 6.3 (R142). -/
inductive Ty where
  | u8 | i8 | u16 | i16 | u32 | i32 | u64 | i64 | e4m3 | e5m2 | f16 | bf16 | f32 | s20 | cb2
  deriving DecidableEq, Repr

/-- The rmx field of Table 6.4 (R142); `dyn` is code 0, the mode of ctl.rm. -/
inductive Rm where
  | dyn | rne | rtz | rup | rdn | rna | sr
  deriving DecidableEq, Repr

/-- The ord field of Table 6.4. -/
inductive Ord where
  | none | acq | rel | acqrel
  deriving DecidableEq, Repr

/-- Scope codes of R10 and Table 6.4. -/
inductive Scope where
  | tile | span | wafer | system
  deriving DecidableEq, Repr

/-- Conditions of Table 6.9 (R150). -/
inductive Cond where
  | eq | ne | lt | le | gt | ge | un | nun
  deriving DecidableEq, Repr

/-- Reductions of Table 6.9 (R150). -/
inductive Red where
  | add | min | max | and | or | xor
  deriving DecidableEq, Repr

/-- AMO operations of R152. -/
inductive AmoOp where
  | add | fadd | min | max | and | or | xor | swap
  deriving DecidableEq, Repr

/-- Files of the frozen-state instructions (R154, R324). -/
inductive File where
  | s | v | p | ac | sh | g | ctl | rq
  deriving DecidableEq, Repr

/-- Predicate tests of BRP (R154). -/
inductive PTest where
  | any | all | none
  deriving DecidableEq, Repr

/-- STRM ports of Table 6.13. -/
inductive Port where
  | bnd | rim | hname | view | ob0 | ob1 | ob2 | ob3
  deriving DecidableEq, Repr

/-- GSET fields of Table 6.13. -/
inductive GField where
  | base | n0 | n1 | n2 | n3 | st0 | st1 | st2 | st3 | esz
  deriving DecidableEq, Repr

/-- The 24-bit immediate of an F1 syllable and the payload of its X syllable (R146, R147). -/
structure Imm where
  lo : BitVec 24
  x : Option (BitVec 40)
  deriving DecidableEq, Repr

/-- The 18-bit offset of an F2 syllable and the payload of its X syllable. -/
structure Off where
  lo : BitVec 18
  x : Option (BitVec 35)
  deriving DecidableEq, Repr

/-- The 12-bit offset of an F3 syllable and the payload of its X syllable. -/
structure OffA where
  lo : BitVec 12
  x : Option (BitVec 41)
  deriving DecidableEq, Repr

/-- The 12-bit offset of MSHAPE, which no X syllable widens. -/
abbrev Off12 := BitVec 12

/-- What the outside world answers to a request of the device: bytes, whether they are poisoned (EP), and whether the
request failed (R246, R247). -/
structure Ext where
  bytes : List Byte
  ep : Bool
  err : Bool
  deriving DecidableEq, Repr

/-- The PCI Express AtomicOps that BAR2 completes (R351). -/
inductive HostAtomic where
  | fetchAdd | swap | cas
  deriving DecidableEq, Repr

/-- What an access arriving over Cufort asks for (R353, R354). -/
inductive PeerKind where
  | load
  | store
  | amo (op : AmoOp) (ty : Ty)
  | acas (ty : Ty)
  deriving DecidableEq, Repr

/-- A byte of a Cufort packet: one that the request leaves alone, one marked poisoned, or a value (R247). -/
inductive PByte where
  | keep
  | bad
  | val (b : Byte)
  deriving DecidableEq, Repr

/-- One access arriving over Cufort: its source and sequence number, its offset in the peer-visible window, its bytes
and the operands of an atomic. -/
structure Peer where
  dev : Nat
  seq : Nat
  off : Nat
  len : Nat
  kind : PeerKind
  bytes : List PByte
  b : Word
  c : Word
  deriving DecidableEq, Repr

/-- The instructions: the syllables of classes S, V, M, L, N and C, each with its guard `g` (R138), and after them the
device's own steps. -/
inductive Instr where
  | add (g : PReg) (ty : Ty) (d : SReg) (a : SReg) (b : SReg)
  | addImmediate (g : PReg) (ty : Ty) (d : SReg) (a : SReg) (imm : Imm)
  | sub (g : PReg) (ty : Ty) (d : SReg) (a : SReg) (b : SReg)
  | subImmediate (g : PReg) (ty : Ty) (d : SReg) (a : SReg) (imm : Imm)
  | mul (g : PReg) (ty : Ty) (d : SReg) (a : SReg) (b : SReg)
  | mulImmediate (g : PReg) (ty : Ty) (d : SReg) (a : SReg) (imm : Imm)
  | mulh (g : PReg) (ty : Ty) (d : SReg) (a : SReg) (b : SReg)
  | mulhImmediate (g : PReg) (ty : Ty) (d : SReg) (a : SReg) (imm : Imm)
  | divS (g : PReg) (ty : Ty) (d : SReg) (a : SReg) (b : SReg)
  | divSImmediate (g : PReg) (ty : Ty) (d : SReg) (a : SReg) (imm : Imm)
  | rem (g : PReg) (ty : Ty) (d : SReg) (a : SReg) (b : SReg)
  | remImmediate (g : PReg) (ty : Ty) (d : SReg) (a : SReg) (imm : Imm)
  | andS (g : PReg) (ty : Ty) (d : SReg) (a : SReg) (b : SReg)
  | andSImmediate (g : PReg) (ty : Ty) (d : SReg) (a : SReg) (imm : Imm)
  | orS (g : PReg) (ty : Ty) (d : SReg) (a : SReg) (b : SReg)
  | orSImmediate (g : PReg) (ty : Ty) (d : SReg) (a : SReg) (imm : Imm)
  | xor (g : PReg) (ty : Ty) (d : SReg) (a : SReg) (b : SReg)
  | xorImmediate (g : PReg) (ty : Ty) (d : SReg) (a : SReg) (imm : Imm)
  | andn (g : PReg) (ty : Ty) (d : SReg) (a : SReg) (b : SReg)
  | andnImmediate (g : PReg) (ty : Ty) (d : SReg) (a : SReg) (imm : Imm)
  | shl (g : PReg) (ty : Ty) (d : SReg) (a : SReg) (b : SReg)
  | shlImmediate (g : PReg) (ty : Ty) (d : SReg) (a : SReg) (imm : Imm)
  | shr (g : PReg) (ty : Ty) (d : SReg) (a : SReg) (b : SReg)
  | shrImmediate (g : PReg) (ty : Ty) (d : SReg) (a : SReg) (imm : Imm)
  | sra (g : PReg) (ty : Ty) (d : SReg) (a : SReg) (b : SReg)
  | sraImmediate (g : PReg) (ty : Ty) (d : SReg) (a : SReg) (imm : Imm)
  | minS (g : PReg) (ty : Ty) (d : SReg) (a : SReg) (b : SReg)
  | minSImmediate (g : PReg) (ty : Ty) (d : SReg) (a : SReg) (imm : Imm)
  | maxS (g : PReg) (ty : Ty) (d : SReg) (a : SReg) (b : SReg)
  | maxSImmediate (g : PReg) (ty : Ty) (d : SReg) (a : SReg) (imm : Imm)
  | cmp (g : PReg) (ty : Ty) (cond : Cond) (d : PReg) (a : SReg) (b : SReg)
  | cmpImmediate (g : PReg) (ty : Ty) (cond : Cond) (d : PReg) (a : SReg) (imm : Imm)
  | sel (g : PReg) (d : SReg) (q : PReg) (a : SReg) (b : SReg)
  | limm (g : PReg) (d : SReg) (imm : Imm)
  | clz (g : PReg) (ty : Ty) (d : SReg) (a : SReg)
  | popc (g : PReg) (ty : Ty) (d : SReg) (a : SReg)
  | bfx (g : PReg) (ty : Ty) (d : SReg) (a : SReg) (pos : BitVec 6) (len : BitVec 6)
  | bfi (g : PReg) (ty : Ty) (d : SReg) (a : SReg) (pos : BitVec 6) (len : BitVec 6)
  | fadd (g : PReg) (ty : Ty) (rm : Rm) (d : SReg) (a : SReg) (b : SReg)
  | fsub (g : PReg) (ty : Ty) (rm : Rm) (d : SReg) (a : SReg) (b : SReg)
  | fmul (g : PReg) (ty : Ty) (rm : Rm) (d : SReg) (a : SReg) (b : SReg)
  | ffma (g : PReg) (ty : Ty) (rm : Rm) (d : SReg) (a : SReg) (b : SReg) (c : SReg)
  | fmin (g : PReg) (ty : Ty) (d : SReg) (a : SReg) (b : SReg)
  | fmax (g : PReg) (ty : Ty) (d : SReg) (a : SReg) (b : SReg)
  | fcmp (g : PReg) (ty : Ty) (cond : Cond) (d : PReg) (a : SReg) (b : SReg)
  | fcvt (g : PReg) (ty : Ty) (src : Ty) (rm : Rm) (fin : Bool) (sat : Bool) (d : SReg) (a : SReg)
  | pand (g : PReg) (d : PReg) (a : PReg) (b : PReg)
  | por (g : PReg) (d : PReg) (a : PReg) (b : PReg)
  | pxor (g : PReg) (d : PReg) (a : PReg) (b : PReg)
  | pnot (g : PReg) (d : PReg) (a : PReg)
  | pcnt (g : PReg) (d : SReg) (a : PReg)
  | pfirst (g : PReg) (d : PReg) (a : PReg)
  | pmov (g : PReg) (d : PReg) (a : PReg)
  | pmovFromScalar (g : PReg) (d : PReg) (a : SReg)
  | pmovToScalar (g : PReg) (d : SReg) (a : PReg)
  | vadd (g : PReg) (ty : Ty) (rm : Rm) (d : VReg) (a : VReg) (b : VReg)
  | vsub (g : PReg) (ty : Ty) (rm : Rm) (d : VReg) (a : VReg) (b : VReg)
  | vmul (g : PReg) (ty : Ty) (rm : Rm) (d : VReg) (a : VReg) (b : VReg)
  | vmulh (g : PReg) (ty : Ty) (d : VReg) (a : VReg) (b : VReg)
  | vmin (g : PReg) (ty : Ty) (d : VReg) (a : VReg) (b : VReg)
  | vmax (g : PReg) (ty : Ty) (d : VReg) (a : VReg) (b : VReg)
  | vand (g : PReg) (ty : Ty) (d : VReg) (a : VReg) (b : VReg)
  | vor (g : PReg) (ty : Ty) (d : VReg) (a : VReg) (b : VReg)
  | vxor (g : PReg) (ty : Ty) (d : VReg) (a : VReg) (b : VReg)
  | vshl (g : PReg) (ty : Ty) (d : VReg) (a : VReg) (b : VReg)
  | vshr (g : PReg) (ty : Ty) (d : VReg) (a : VReg) (b : VReg)
  | vsra (g : PReg) (ty : Ty) (d : VReg) (a : VReg) (b : VReg)
  | vfma (g : PReg) (ty : Ty) (rm : Rm) (d : VReg) (a : VReg) (b : VReg) (c : VReg)
  | vabs (g : PReg) (ty : Ty) (d : VReg) (a : VReg)
  | vneg (g : PReg) (ty : Ty) (d : VReg) (a : VReg)
  | vmov (g : PReg) (ty : Ty) (d : VReg) (a : VReg)
  | vclass (g : PReg) (ty : Ty) (d : VReg) (a : VReg)
  | vrcp (g : PReg) (ty : Ty) (rm : Rm) (d : VReg) (a : VReg)
  | vrsq (g : PReg) (ty : Ty) (rm : Rm) (d : VReg) (a : VReg)
  | vexp2 (g : PReg) (ty : Ty) (rm : Rm) (d : VReg) (a : VReg)
  | vlog2 (g : PReg) (ty : Ty) (rm : Rm) (d : VReg) (a : VReg)
  | vcmp (g : PReg) (ty : Ty) (cond : Cond) (d : PReg) (a : VReg) (b : VReg)
  | vsel (g : PReg) (d : VReg) (q : PReg) (a : VReg) (b : VReg)
  | vbcast (g : PReg) (ty : Ty) (d : VReg) (a : SReg)
  | viota (g : PReg) (ty : Ty) (d : VReg) (a : SReg)
  | vperm (g : PReg) (d : VReg) (a : VReg) (b : VReg)
  | vcomp (g : PReg) (d : VReg) (q : PReg) (a : VReg)
  | vred (g : PReg) (ty : Ty) (op : Red) (rm : Rm) (d : SReg) (a : VReg)
  | vscan (g : PReg) (ty : Ty) (op : Red) (rm : Rm) (d : VReg) (a : VReg)
  | vcvt (g : PReg) (ty : Ty) (src : Ty) (rm : Rm) (fin : Bool) (sat : Bool) (d : VReg) (a : VReg)
  | vext (g : PReg) (ty : Ty) (d : SReg) (a : VReg) (b : SReg)
  | vins (g : PReg) (ty : Ty) (d : VReg) (a : SReg) (b : SReg)
  | vqnt (g : PReg) (ty : Ty) (rm : Rm) (fin : Bool) (sat : Bool) (d : VReg) (c : VReg) (a : VReg)
  | vdqnt (g : PReg) (ty : Ty) (d : VReg) (a : VReg) (b : VReg)
  | vcbd (g : PReg) (wt : Bool) (d : VReg) (a : VReg) (b : VReg)
  | vpack (g : PReg) (ty : Ty) (src : Ty) (rm : Rm) (fin : Bool) (sat : Bool) (d : VReg) (a : VReg) (b : VReg)
  | vunpk (g : PReg) (ty : Ty) (src : Ty) (hi : Bool) (d : VReg) (a : VReg)
  | mma (g : PReg) (ty : Ty) (rm : Rm) (acd : AcReg) (sh : ShReg) (oba : ObReg) (obb : ObReg)
  | mmacb (g : PReg) (ty : Ty) (rm : Rm) (wt : Bool) (acd : AcReg) (sh : ShReg) (oba : ObReg) (obb : ObReg)
  | mzero (g : PReg) (acd : AcReg)
  | mrd (g : PReg) (v : VReg) (aca : AcReg) (b : SReg)
  | mwr (g : PReg) (acd : AcReg) (v : VReg) (b : SReg)
  | mshape (g : PReg) (sh : ShReg) (b : SReg) (off : Off12)
  | ld (g : PReg) (ty : Ty) (d : SReg) (a : SReg) (b : SReg) (off : Off)
  | st (g : PReg) (ty : Ty) (d : SReg) (a : SReg) (b : SReg) (off : Off)
  | vld (g : PReg) (ty : Ty) (d : VReg) (a : SReg) (b : SReg) (off : Off)
  | vst (g : PReg) (ty : Ty) (d : VReg) (a : SReg) (b : SReg) (off : Off)
  | vgather (g : PReg) (ty : Ty) (d : VReg) (a : SReg) (b : VReg) (off : Off)
  | vscatter (g : PReg) (ty : Ty) (d : VReg) (a : SReg) (b : VReg) (off : Off)
  | vscadd (g : PReg) (ty : Ty) (d : VReg) (a : SReg) (b : VReg) (off : Off)
  | binapp (g : PReg) (ty : Ty) (d : VReg) (a : SReg) (b : VReg) (off : Off)
  | binrst (g : PReg) (a : SReg) (off : Off)
  | pref (g : PReg) (a : SReg) (b : SReg) (off : Off)
  | fence (g : PReg) (scp : Scope) (sets : BitVec 3)
  | amo (g : PReg) (op : AmoOp) (ty : Ty) (scp : Scope) (ord : Ord) (d : SReg) (a : SReg) (off : OffA) (b : SReg)
  | acas (g : PReg) (ty : Ty) (scp : Scope) (ord : Ord) (d : SReg) (a : SReg) (off : OffA) (b : SReg) (c : SReg)
  | pub (g : PReg) (scp : Scope) (rel : Bool) (n : NPair) (b : SReg) (c : SReg)
  | subs (g : PReg) (scp : Scope) (n : NPair)
  | unsub (g : PReg) (n : NPair)
  | drop (g : PReg) (n : NPair)
  | await (g : PReg) (p : Bool) (n : NPair) (b : SReg)
  | strm (g : PReg) (port : Port) (dir : Bool) (eng : Bool) (scp : Scope) (ordf : Bool) (cons : Bool) (cv : Bool) (rm : Rm) (ty : Ty) (d : SReg) (gr : GReg) (a : SReg) (n : NPair)
  | swait (g : PReg) (a : SReg)
  | scancel (g : PReg) (a : SReg)
  | gset (g : PReg) (gr : GReg) (sel : GField) (a : SReg)
  | spawn (g : PReg) (d : SReg) (c : SReg) (b : SReg)
  | bar (g : PReg) (n : BitVec 4)
  | barx (g : PReg) (k : KReg) (n : BitVec 4)
  | br (g : PReg) (off : BitVec 28)
  | brp (g : PReg) (t : PTest) (q : PReg) (off : BitVec 28)
  | jmp (g : PReg) (a : SReg)
  | call (g : PReg) (a : SReg) (off : BitVec 28)
  | ret (g : PReg) (a : SReg)
  | loop (g : PReg) (a : SReg) (off : BitVec 28)
  | nop (g : PReg)
  | tend (g : PReg)
  | yieldC (g : PReg)
  | trap (g : PReg) (code : BitVec 24)
  | csrr (g : PReg) (d : SReg) (n : BitVec 12)
  | csrw (g : PReg) (n : BitVec 12) (a : SReg)
  | frzrd (g : PReg) (file : File) (d : BitVec 6) (k : KReg) (b : SReg)
  | frzwr (g : PReg) (file : File) (k : KReg) (b : SReg) (a : BitVec 6)
  | frzinf (g : PReg) (d : SReg) (k : KReg) (b : SReg)
  | resume (g : PReg) (k : KReg)
  | resumeAtPc (g : PReg) (k : KReg) (a : SReg)
  | kill (g : PReg) (k : KReg)
  | tlbinv (g : PReg) (a : SReg)
  | tlbinvAll (g : PReg) (a : SReg)
  | clsrd (g : PReg) (d : SReg) (a : SReg)
  | sleep (g : PReg) (n : BitVec 24)
  | issueCycle (tile : Nat)
  | boostThread (key : Nat)
  | bundleCommit (key : Nat)
  | memoryResponse (id : Nat) (ext : Ext)
  | sleepExpiry (key : Nat)
  | rngRefill (tile : Nat)
  | bankServe (tile : Nat) (bank : Nat) (bad : Bool)
  | accessAtOwningPoint (id : Nat) (elem : Nat) (bad : Bool)
  | rmwPerform (id : Nat) (elem : Nat)
  | translationWalkDone (tile : Nat) (ctx : Nat) (va : Nat)
  | tlbDrainAck (key : Nat)
  | scrubLine (line : Nat) (bad : Bool)
  | streamDispatch (tile : Nat)
  | streamChunkStart (tile : Nat) (eng : Nat)
  | streamChunkDone (tile : Nat) (eng : Nat) (chunk : Nat)
  | tailPublish (tile : Nat)
  | matrixOpStart (tile : Nat)
  | matrixOperandConsume (tile : Nat)
  | matrixRowRead (tile : Nat) (row : Nat)
  | matrixRowWrite (tile : Nat) (row : Nat)
  | asyncFaultArrival (i : Nat)
  | launchWindowWrite (port : Nat) (off : Nat) (bytes : List Byte)
  | launchSlotRead (port : Nat) (slot : Nat)
  | admission
  | stageLoad (ctx : Nat)
  | stageEnd (ctx : Nat)
  | publicationArrival (i : Nat)
  | subscriptionArrival (i : Nat)
  | multicastCopy (i : Nat)
  | nameMatchFree (i : Nat)
  | publicationDelivery (i : Nat)
  | deferMessage (i : Nat)
  | resumeMessage (i : Nat)
  | inputCopyDone (key : Nat)
  | dynamicDelivery (i : Nat)
  | dropArrival (i : Nat)
  | unsubArrival (i : Nat)
  | pierSubscriptionArrival (i : Nat)
  | pierTileReadDone (i : Nat)
  | residencyFill
  | residencyPin
  | residencyUnpin
  | residencyEvict
  | fillComplete (tid : Nat)
  | evictRefcZero (tid : Nat)
  | classLoweringRequest (v : Word)
  | sliceFailureReport (site : Nat)
  | loweringRouterDrained
  | resetToken (i : Nat)
  | abortFlit (i : Nat)
  | lostTransactionTimeout (id : Nat)
  | heartbeatBeat (site : Nat)
  | heartbeatTimeout (site : Nat)
  | probeReply (site : Nat) (rtr : Bool) (core : Bool) (eff : Nat) (strn : Bool)
  | probeTimeout (site : Nat)
  | probeRetry (site : Nat)
  | keystoneProbe (ok : Bool)
  | sensorUpdate (reg : Nat) (reading : BitVec 16)
  | throttleApply (tile : Nat)
  | droopStretch (bay : Nat)
  | powerGood
  | stageAdvance
  | safeBayReady
  | waferTablesLoaded
  | hbmTrainingEnd (stack : Nat) (ok : Bool)
  | fullWafer
  | bayWakeRequest (bay : Nat)
  | wakeComplete (bay : Nat)
  | bayGateRequest (bay : Nat)
  | vacateRequest (v : Word) (host : Option Nat)
  | vacateRelease (v : Word) (host : Option Nat)
  | graceExpiry (ctx : Nat) (tile : Nat)
  | threadSave (key : Nat)
  | saveComplete (uid : Nat)
  | rehomePhase
  | foldPhase
  | restoreThread (uid : Nat)
  | checkpointRequest (v : Word)
  | checkpointEnd (res : Nat)
  | evictorTrigger (ctx : Nat) (va : Nat) (frame : Nat)
  | evictorPageMove
  | bar2Read (port : Nat) (off : Nat) (len : Nat)
  | bar2Write (port : Nat) (off : Nat) (bytes : List Byte) (ep : Bool)
  | bar2Atomicop (port : Nat) (off : Nat) (op : HostAtomic) (size : Nat) (a : Word) (b : Word)
  | registerWrite (port : Nat) (n : Nat) (v : Word) (be : BitVec 8)
  | peerAccessArrival (p : Peer)
  | peerAckArrival (id : Nat) (err : Bool)
  | cufortResendTimeout (id : Nat)
  | linkReplay (port : Nat)
  | msixUnmask (port : Nat) (vec : Nat)
  | cufortLinkUpDown (port : Nat) (up : Bool)
  deriving DecidableEq, Repr

end Sys2Proof
end

