-- ==== Sys2Proof/Decode.lean ====
section
/-! DEFINITION. The decoder and the encoder: the eight operand formats (Table 6.5), the opcode map (R148 to R154) and
the checks of Table 6.15 that one syllable carries. The checks of a whole bundle stand in Machine/Issue.lean. -/

namespace Sys2Proof

/-- Table 6.15: why a bundle is ILLEGAL. -/
inductive Illegal where
  | cls | opcode | extension | unended | limit | register | modifier | nonzero | doubleWrite | bank | matrixInHandler | csr
  deriving DecidableEq, Repr

/-- The reason code of Table 6.15. -/
def Illegal.why : Illegal → Nat
  | .cls => 1 | .opcode => 2 | .extension => 3 | .unended => 4 | .limit => 5 | .register => 6 | .modifier => 7
  | .nonzero => 8 | .doubleWrite => 9 | .bank => 10 | .matrixInHandler => 11 | .csr => 12

/-- The code of a Ty. -/
def Ty.code : Ty → BitVec 4
  | .u8 => 0
  | .i8 => 1
  | .u16 => 2
  | .i16 => 3
  | .u32 => 4
  | .i32 => 5
  | .u64 => 6
  | .i64 => 7
  | .e4m3 => 8
  | .e5m2 => 9
  | .f16 => 10
  | .bf16 => 11
  | .f32 => 12
  | .s20 => 13
  | .cb2 => 14
/-- The Ty of a code; an unassigned code gives .cb2, and decode refuses it. -/
def Ty.ofCode (c : BitVec 4) : Ty :=
  match c.toNat with
  | 0 => .u8
  | 1 => .i8
  | 2 => .u16
  | 3 => .i16
  | 4 => .u32
  | 5 => .i32
  | 6 => .u64
  | 7 => .i64
  | 8 => .e4m3
  | 9 => .e5m2
  | 10 => .f16
  | 11 => .bf16
  | 12 => .f32
  | 13 => .s20
  | _ => .cb2

/-- The code of a Rm. -/
def Rm.code : Rm → BitVec 3
  | .dyn => 0
  | .rne => 1
  | .rtz => 2
  | .rup => 3
  | .rdn => 4
  | .rna => 5
  | .sr => 6
/-- The Rm of a code; an unassigned code gives .sr, and decode refuses it. -/
def Rm.ofCode (c : BitVec 3) : Rm :=
  match c.toNat with
  | 0 => .dyn
  | 1 => .rne
  | 2 => .rtz
  | 3 => .rup
  | 4 => .rdn
  | 5 => .rna
  | _ => .sr

/-- The code of a Ord. -/
def Ord.code : Ord → BitVec 2
  | .none => 0
  | .acq => 1
  | .rel => 2
  | .acqrel => 3
/-- The Ord of a code; an unassigned code gives .acqrel, and decode refuses it. -/
def Ord.ofCode (c : BitVec 2) : Ord :=
  match c.toNat with
  | 0 => .none
  | 1 => .acq
  | 2 => .rel
  | _ => .acqrel

/-- The code of a Scope. -/
def Scope.code : Scope → BitVec 2
  | .tile => 0
  | .span => 1
  | .wafer => 2
  | .system => 3
/-- The Scope of a code; an unassigned code gives .system, and decode refuses it. -/
def Scope.ofCode (c : BitVec 2) : Scope :=
  match c.toNat with
  | 0 => .tile
  | 1 => .span
  | 2 => .wafer
  | _ => .system

/-- The code of a Cond. -/
def Cond.code : Cond → BitVec 3
  | .eq => 0
  | .ne => 1
  | .lt => 2
  | .le => 3
  | .gt => 4
  | .ge => 5
  | .un => 6
  | .nun => 7
/-- The Cond of a code; an unassigned code gives .nun, and decode refuses it. -/
def Cond.ofCode (c : BitVec 3) : Cond :=
  match c.toNat with
  | 0 => .eq
  | 1 => .ne
  | 2 => .lt
  | 3 => .le
  | 4 => .gt
  | 5 => .ge
  | 6 => .un
  | _ => .nun

/-- The code of a Red. -/
def Red.code : Red → BitVec 3
  | .add => 0
  | .min => 1
  | .max => 2
  | .and => 3
  | .or => 4
  | .xor => 5
/-- The Red of a code; an unassigned code gives .xor, and decode refuses it. -/
def Red.ofCode (c : BitVec 3) : Red :=
  match c.toNat with
  | 0 => .add
  | 1 => .min
  | 2 => .max
  | 3 => .and
  | 4 => .or
  | _ => .xor

/-- The code of a AmoOp. -/
def AmoOp.code : AmoOp → BitVec 3
  | .add => 0
  | .fadd => 1
  | .min => 2
  | .max => 3
  | .and => 4
  | .or => 5
  | .xor => 6
  | .swap => 7
/-- The AmoOp of a code; an unassigned code gives .swap, and decode refuses it. -/
def AmoOp.ofCode (c : BitVec 3) : AmoOp :=
  match c.toNat with
  | 0 => .add
  | 1 => .fadd
  | 2 => .min
  | 3 => .max
  | 4 => .and
  | 5 => .or
  | 6 => .xor
  | _ => .swap

/-- The code of a File. -/
def File.code : File → BitVec 3
  | .s => 0
  | .v => 1
  | .p => 2
  | .ac => 3
  | .sh => 4
  | .g => 5
  | .ctl => 6
  | .rq => 7
/-- The File of a code; an unassigned code gives .rq, and decode refuses it. -/
def File.ofCode (c : BitVec 3) : File :=
  match c.toNat with
  | 0 => .s
  | 1 => .v
  | 2 => .p
  | 3 => .ac
  | 4 => .sh
  | 5 => .g
  | 6 => .ctl
  | _ => .rq

/-- The code of a PTest. -/
def PTest.code : PTest → BitVec 2
  | .any => 0
  | .all => 1
  | .none => 2
/-- The PTest of a code; an unassigned code gives .none, and decode refuses it. -/
def PTest.ofCode (c : BitVec 2) : PTest :=
  match c.toNat with
  | 0 => .any
  | 1 => .all
  | _ => .none

/-- The code of a Port. -/
def Port.code : Port → BitVec 4
  | .bnd => 0
  | .rim => 1
  | .hname => 2
  | .view => 3
  | .ob0 => 4
  | .ob1 => 5
  | .ob2 => 6
  | .ob3 => 7
/-- The Port of a code; an unassigned code gives .ob3, and decode refuses it. -/
def Port.ofCode (c : BitVec 4) : Port :=
  match c.toNat with
  | 0 => .bnd
  | 1 => .rim
  | 2 => .hname
  | 3 => .view
  | 4 => .ob0
  | 5 => .ob1
  | 6 => .ob2
  | _ => .ob3

/-- The code of a GField. -/
def GField.code : GField → BitVec 4
  | .base => 0
  | .n0 => 1
  | .n1 => 2
  | .n2 => 3
  | .n3 => 4
  | .st0 => 5
  | .st1 => 6
  | .st2 => 7
  | .st3 => 8
  | .esz => 9
/-- The GField of a code; an unassigned code gives .esz, and decode refuses it. -/
def GField.ofCode (c : BitVec 4) : GField :=
  match c.toNat with
  | 0 => .base
  | 1 => .n0
  | 2 => .n1
  | 3 => .n2
  | 4 => .n3
  | 5 => .st0
  | 6 => .st1
  | 7 => .st2
  | 8 => .st3
  | _ => .esz

/-- Whether the type code `c` is in the set `m` of type codes, one bit each. -/
def tyIn (m : BitVec 16) (c : BitVec 4) : Bool := m.getLsbD c.toNat

/-- Table 17.3: the types each AMO operation accepts. -/
def AmoOp.accepts (op : AmoOp) (ty : Ty) : Bool :=
  match op with
  | .fadd => tyIn 0x1000 ty.code
  | .swap => tyIn 0x10F0 ty.code
  | _ => tyIn 0x00F0 ty.code

/-- The files whose operand is a vector register (R154). -/
def File.isVector : File → Bool
  | .v => true
  | .ac => true
  | _ => false

/-- Table 20.8: the pairs VUNPK accepts. -/
def unpkPair (src dst : BitVec 4) : Bool :=
  (src.toNat < 4 && (dst == 4 || dst == 5)) || ((src == 8 || src == 9) && (dst == 10 || dst == 11 || dst == 12)) ||
  ((src == 10 || src == 11) && dst == 12)

/-- Format F0 of Table 6.5. -/
structure F0 where
  d : BitVec 6 := 0
  a : BitVec 6 := 0
  b : BitVec 6 := 0
  c : BitVec 6 := 0
  q : BitVec 4 := 0
  ty : BitVec 4 := 0
  rmx : BitVec 3 := 0
  fn : BitVec 5 := 0
  fin : BitVec 1 := 0
  sat : BitVec 1 := 0
  z : BitVec 6 := 0
  deriving DecidableEq, Repr

/-- The fields of a body of format F0. -/
def F0.unpack (b : BitVec 48) : F0 :=
  ⟨b.extractLsb' 42 6, b.extractLsb' 36 6, b.extractLsb' 30 6, b.extractLsb' 24 6, b.extractLsb' 20 4, b.extractLsb' 16 4, b.extractLsb' 13 3, b.extractLsb' 8 5, b.extractLsb' 7 1, b.extractLsb' 6 1, b.extractLsb' 0 6⟩

/-- The body of format F0 that holds the fields. -/
def F0.pack (f : F0) : BitVec 48 :=
  f.d ++ f.a ++ f.b ++ f.c ++ f.q ++ f.ty ++ f.rmx ++ f.fn ++ f.fin ++ f.sat ++ f.z

/-- Format F1 of Table 6.5. -/
structure F1 where
  d : BitVec 6 := 0
  a : BitVec 6 := 0
  imm : BitVec 24 := 0
  ty : BitVec 4 := 0
  fn : BitVec 5 := 0
  z : BitVec 3 := 0
  deriving DecidableEq, Repr

/-- The fields of a body of format F1. -/
def F1.unpack (b : BitVec 48) : F1 :=
  ⟨b.extractLsb' 42 6, b.extractLsb' 36 6, b.extractLsb' 12 24, b.extractLsb' 8 4, b.extractLsb' 3 5, b.extractLsb' 0 3⟩

/-- The body of format F1 that holds the fields. -/
def F1.pack (f : F1) : BitVec 48 :=
  f.d ++ f.a ++ f.imm ++ f.ty ++ f.fn ++ f.z

/-- Format F2 of Table 6.5. -/
structure F2 where
  d : BitVec 6 := 0
  a : BitVec 6 := 0
  b : BitVec 6 := 0
  off : BitVec 18 := 0
  ty : BitVec 4 := 0
  scp : BitVec 2 := 0
  ord : BitVec 2 := 0
  fn : BitVec 4 := 0
  deriving DecidableEq, Repr

/-- The fields of a body of format F2. -/
def F2.unpack (b : BitVec 48) : F2 :=
  ⟨b.extractLsb' 42 6, b.extractLsb' 36 6, b.extractLsb' 30 6, b.extractLsb' 12 18, b.extractLsb' 8 4, b.extractLsb' 6 2, b.extractLsb' 4 2, b.extractLsb' 0 4⟩

/-- The body of format F2 that holds the fields. -/
def F2.pack (f : F2) : BitVec 48 :=
  f.d ++ f.a ++ f.b ++ f.off ++ f.ty ++ f.scp ++ f.ord ++ f.fn

/-- Format F3 of Table 6.5. -/
structure F3 where
  d : BitVec 6 := 0
  a : BitVec 6 := 0
  b : BitVec 6 := 0
  c : BitVec 6 := 0
  off : BitVec 12 := 0
  ty : BitVec 4 := 0
  scp : BitVec 2 := 0
  ord : BitVec 2 := 0
  fn : BitVec 4 := 0
  deriving DecidableEq, Repr

/-- The fields of a body of format F3. -/
def F3.unpack (b : BitVec 48) : F3 :=
  ⟨b.extractLsb' 42 6, b.extractLsb' 36 6, b.extractLsb' 30 6, b.extractLsb' 24 6, b.extractLsb' 12 12, b.extractLsb' 8 4, b.extractLsb' 6 2, b.extractLsb' 4 2, b.extractLsb' 0 4⟩

/-- The body of format F3 that holds the fields. -/
def F3.pack (f : F3) : BitVec 48 :=
  f.d ++ f.a ++ f.b ++ f.c ++ f.off ++ f.ty ++ f.scp ++ f.ord ++ f.fn

/-- Format F4 of Table 6.5. -/
structure F4 where
  a : BitVec 6 := 0
  b : BitVec 6 := 0
  c : BitVec 6 := 0
  d : BitVec 6 := 0
  scp : BitVec 2 := 0
  ord : BitVec 2 := 0
  fl : BitVec 4 := 0
  imm : BitVec 16 := 0
  deriving DecidableEq, Repr

/-- The fields of a body of format F4. -/
def F4.unpack (b : BitVec 48) : F4 :=
  ⟨b.extractLsb' 42 6, b.extractLsb' 36 6, b.extractLsb' 30 6, b.extractLsb' 24 6, b.extractLsb' 22 2, b.extractLsb' 20 2, b.extractLsb' 16 4, b.extractLsb' 0 16⟩

/-- The body of format F4 that holds the fields. -/
def F4.pack (f : F4) : BitVec 48 :=
  f.a ++ f.b ++ f.c ++ f.d ++ f.scp ++ f.ord ++ f.fl ++ f.imm

/-- Format F5 of Table 6.5. -/
structure F5 where
  g : BitVec 4 := 0
  sel : BitVec 4 := 0
  dir : BitVec 1 := 0
  eng : BitVec 1 := 0
  z2 : BitVec 2 := 0
  a : BitVec 6 := 0
  b : BitVec 6 := 0
  d : BitVec 6 := 0
  scp : BitVec 2 := 0
  ordf : BitVec 1 := 0
  cons : BitVec 1 := 0
  cv : BitVec 1 := 0
  rmx : BitVec 3 := 0
  ty : BitVec 4 := 0
  z : BitVec 6 := 0
  deriving DecidableEq, Repr

/-- The fields of a body of format F5. -/
def F5.unpack (b : BitVec 48) : F5 :=
  ⟨b.extractLsb' 44 4, b.extractLsb' 40 4, b.extractLsb' 39 1, b.extractLsb' 38 1, b.extractLsb' 36 2, b.extractLsb' 30 6, b.extractLsb' 24 6, b.extractLsb' 18 6, b.extractLsb' 16 2, b.extractLsb' 15 1, b.extractLsb' 14 1, b.extractLsb' 13 1, b.extractLsb' 10 3, b.extractLsb' 6 4, b.extractLsb' 0 6⟩

/-- The body of format F5 that holds the fields. -/
def F5.pack (f : F5) : BitVec 48 :=
  f.g ++ f.sel ++ f.dir ++ f.eng ++ f.z2 ++ f.a ++ f.b ++ f.d ++ f.scp ++ f.ordf ++ f.cons ++ f.cv ++ f.rmx ++ f.ty ++ f.z

/-- Format F6 of Table 6.5. -/
structure F6 where
  acd : BitVec 4 := 0
  aca : BitVec 4 := 0
  sh : BitVec 3 := 0
  oba : BitVec 2 := 0
  obb : BitVec 2 := 0
  v : BitVec 6 := 0
  s : BitVec 6 := 0
  off : BitVec 12 := 0
  ty : BitVec 4 := 0
  rmx : BitVec 3 := 0
  fl : BitVec 2 := 0
  deriving DecidableEq, Repr

/-- The fields of a body of format F6. -/
def F6.unpack (b : BitVec 48) : F6 :=
  ⟨b.extractLsb' 44 4, b.extractLsb' 40 4, b.extractLsb' 37 3, b.extractLsb' 35 2, b.extractLsb' 33 2, b.extractLsb' 27 6, b.extractLsb' 21 6, b.extractLsb' 9 12, b.extractLsb' 5 4, b.extractLsb' 2 3, b.extractLsb' 0 2⟩

/-- The body of format F6 that holds the fields. -/
def F6.pack (f : F6) : BitVec 48 :=
  f.acd ++ f.aca ++ f.sh ++ f.oba ++ f.obb ++ f.v ++ f.s ++ f.off ++ f.ty ++ f.rmx ++ f.fl

/-- Format F7 of Table 6.5. -/
structure F7 where
  off : BitVec 28 := 0
  a : BitVec 6 := 0
  q : BitVec 4 := 0
  fn : BitVec 2 := 0
  z : BitVec 8 := 0
  deriving DecidableEq, Repr

/-- The fields of a body of format F7. -/
def F7.unpack (b : BitVec 48) : F7 :=
  ⟨b.extractLsb' 20 28, b.extractLsb' 14 6, b.extractLsb' 10 4, b.extractLsb' 8 2, b.extractLsb' 0 8⟩

/-- The body of format F7 that holds the fields. -/
def F7.pack (f : F7) : BitVec 48 :=
  f.off ++ f.a ++ f.q ++ f.fn ++ f.z

/-- Whether 16·by + bx names a present bay (R12). -/
def baySlot (n : Nat) : Bool :=
  let bx := n % 16
  let by' := n / 16
  bx < 10 && by' < 10 && !((bx < 2 || 8 ≤ bx) && (by' < 2 || 8 ≤ by'))

/-- Whether a control register number is assigned (R123, Table 16.1). -/
def csrAssigned (c : BitVec 12) : Bool :=
  let n := c.toNat
  (1 ≤ n && n ≤ 5) || (0x10 ≤ n && n ≤ 0x14) || (0x800 ≤ n && n ≤ 0x80C) || (0x810 ≤ n && n ≤ 0x818) ||
  n == 0x820 || n == 0x821 || n == 0x830 || n == 0x831 || (0x900 ≤ n && n < 0x9A0 && baySlot (n - 0x900)) ||
  (0x9A0 ≤ n && n < 0x9C0) || (0x9C0 ≤ n && n < 0x9C8) || (0xA00 ≤ n && n < 0xAA0 && baySlot (n - 0xA00))

/-- R464: the field values of STRM that raise reason 7. -/
def strmBad (f : F5) : Bool :=
  8 ≤ f.sel.toNat || (4 ≤ f.sel.toNat && f.dir == 0) || (f.sel == 2 && (f.dir == 1 || f.b == 0)) ||
  (f.cons == 1 && f.sel.toNat < 4) || (f.cv == 0 && (f.ty != 0 || f.rmx != 0)) ||
  (f.cv == 1 && (!tyIn 0x0F00 f.ty || 6 ≤ f.rmx.toNat))

/-- The lowest of the reasons 6, 7 and 8 that one syllable breaks, or the instruction. -/
def chk (r6 r7 r8 : Bool) (i : Instr) : Except Illegal Instr :=
  if r6 then .error .register else if r7 then .error .modifier else if r8 then .error .nonzero else .ok i

/-- Class S of the opcode map (R148): the operand fields read, and the checks of Table 6.15 that the row carries. -/
def decodeS (op : BitVec 8) (g : PReg) (b : BitVec 48) (x : Option (BitVec 60)) : Except Illegal Instr :=
  match op.toNat with
  | 0x00 => let f := F0.unpack b; chk false (!tyIn 0x00FF f.ty) (f.c != 0 || f.q != 0 || f.rmx != 0 || f.fn != 0 || f.fin != 0 || f.sat != 0 || f.z != 0) (.add g (Ty.ofCode f.ty) f.d f.a f.b)
  | 0x40 => let f := F1.unpack b; chk false (!tyIn 0x00FF f.ty) (f.fn != 0 || f.z != 0) (.addImmediate g (Ty.ofCode f.ty) f.d f.a ⟨f.imm, x.map (·.setWidth 40)⟩)
  | 0x01 => let f := F0.unpack b; chk false (!tyIn 0x00FF f.ty) (f.c != 0 || f.q != 0 || f.rmx != 0 || f.fn != 0 || f.fin != 0 || f.sat != 0 || f.z != 0) (.sub g (Ty.ofCode f.ty) f.d f.a f.b)
  | 0x41 => let f := F1.unpack b; chk false (!tyIn 0x00FF f.ty) (f.fn != 0 || f.z != 0) (.subImmediate g (Ty.ofCode f.ty) f.d f.a ⟨f.imm, x.map (·.setWidth 40)⟩)
  | 0x02 => let f := F0.unpack b; chk false (!tyIn 0x00FF f.ty) (f.c != 0 || f.q != 0 || f.rmx != 0 || f.fn != 0 || f.fin != 0 || f.sat != 0 || f.z != 0) (.mul g (Ty.ofCode f.ty) f.d f.a f.b)
  | 0x42 => let f := F1.unpack b; chk false (!tyIn 0x00FF f.ty) (f.fn != 0 || f.z != 0) (.mulImmediate g (Ty.ofCode f.ty) f.d f.a ⟨f.imm, x.map (·.setWidth 40)⟩)
  | 0x03 => let f := F0.unpack b; chk false (!tyIn 0x00FF f.ty) (f.c != 0 || f.q != 0 || f.rmx != 0 || f.fn != 0 || f.fin != 0 || f.sat != 0 || f.z != 0) (.mulh g (Ty.ofCode f.ty) f.d f.a f.b)
  | 0x43 => let f := F1.unpack b; chk false (!tyIn 0x00FF f.ty) (f.fn != 0 || f.z != 0) (.mulhImmediate g (Ty.ofCode f.ty) f.d f.a ⟨f.imm, x.map (·.setWidth 40)⟩)
  | 0x04 => let f := F0.unpack b; chk false (!tyIn 0x00FF f.ty) (f.c != 0 || f.q != 0 || f.rmx != 0 || f.fn != 0 || f.fin != 0 || f.sat != 0 || f.z != 0) (.divS g (Ty.ofCode f.ty) f.d f.a f.b)
  | 0x44 => let f := F1.unpack b; chk false (!tyIn 0x00FF f.ty) (f.fn != 0 || f.z != 0) (.divSImmediate g (Ty.ofCode f.ty) f.d f.a ⟨f.imm, x.map (·.setWidth 40)⟩)
  | 0x05 => let f := F0.unpack b; chk false (!tyIn 0x00FF f.ty) (f.c != 0 || f.q != 0 || f.rmx != 0 || f.fn != 0 || f.fin != 0 || f.sat != 0 || f.z != 0) (.rem g (Ty.ofCode f.ty) f.d f.a f.b)
  | 0x45 => let f := F1.unpack b; chk false (!tyIn 0x00FF f.ty) (f.fn != 0 || f.z != 0) (.remImmediate g (Ty.ofCode f.ty) f.d f.a ⟨f.imm, x.map (·.setWidth 40)⟩)
  | 0x06 => let f := F0.unpack b; chk false (!tyIn 0x00FF f.ty) (f.c != 0 || f.q != 0 || f.rmx != 0 || f.fn != 0 || f.fin != 0 || f.sat != 0 || f.z != 0) (.andS g (Ty.ofCode f.ty) f.d f.a f.b)
  | 0x46 => let f := F1.unpack b; chk false (!tyIn 0x00FF f.ty) (f.fn != 0 || f.z != 0) (.andSImmediate g (Ty.ofCode f.ty) f.d f.a ⟨f.imm, x.map (·.setWidth 40)⟩)
  | 0x07 => let f := F0.unpack b; chk false (!tyIn 0x00FF f.ty) (f.c != 0 || f.q != 0 || f.rmx != 0 || f.fn != 0 || f.fin != 0 || f.sat != 0 || f.z != 0) (.orS g (Ty.ofCode f.ty) f.d f.a f.b)
  | 0x47 => let f := F1.unpack b; chk false (!tyIn 0x00FF f.ty) (f.fn != 0 || f.z != 0) (.orSImmediate g (Ty.ofCode f.ty) f.d f.a ⟨f.imm, x.map (·.setWidth 40)⟩)
  | 0x08 => let f := F0.unpack b; chk false (!tyIn 0x00FF f.ty) (f.c != 0 || f.q != 0 || f.rmx != 0 || f.fn != 0 || f.fin != 0 || f.sat != 0 || f.z != 0) (.xor g (Ty.ofCode f.ty) f.d f.a f.b)
  | 0x48 => let f := F1.unpack b; chk false (!tyIn 0x00FF f.ty) (f.fn != 0 || f.z != 0) (.xorImmediate g (Ty.ofCode f.ty) f.d f.a ⟨f.imm, x.map (·.setWidth 40)⟩)
  | 0x09 => let f := F0.unpack b; chk false (!tyIn 0x00FF f.ty) (f.c != 0 || f.q != 0 || f.rmx != 0 || f.fn != 0 || f.fin != 0 || f.sat != 0 || f.z != 0) (.andn g (Ty.ofCode f.ty) f.d f.a f.b)
  | 0x49 => let f := F1.unpack b; chk false (!tyIn 0x00FF f.ty) (f.fn != 0 || f.z != 0) (.andnImmediate g (Ty.ofCode f.ty) f.d f.a ⟨f.imm, x.map (·.setWidth 40)⟩)
  | 0x0A => let f := F0.unpack b; chk false (!tyIn 0x00FF f.ty) (f.c != 0 || f.q != 0 || f.rmx != 0 || f.fn != 0 || f.fin != 0 || f.sat != 0 || f.z != 0) (.shl g (Ty.ofCode f.ty) f.d f.a f.b)
  | 0x4A => let f := F1.unpack b; chk false (!tyIn 0x00FF f.ty) (f.fn != 0 || f.z != 0) (.shlImmediate g (Ty.ofCode f.ty) f.d f.a ⟨f.imm, x.map (·.setWidth 40)⟩)
  | 0x0B => let f := F0.unpack b; chk false (!tyIn 0x00FF f.ty) (f.c != 0 || f.q != 0 || f.rmx != 0 || f.fn != 0 || f.fin != 0 || f.sat != 0 || f.z != 0) (.shr g (Ty.ofCode f.ty) f.d f.a f.b)
  | 0x4B => let f := F1.unpack b; chk false (!tyIn 0x00FF f.ty) (f.fn != 0 || f.z != 0) (.shrImmediate g (Ty.ofCode f.ty) f.d f.a ⟨f.imm, x.map (·.setWidth 40)⟩)
  | 0x0C => let f := F0.unpack b; chk false (!tyIn 0x00FF f.ty) (f.c != 0 || f.q != 0 || f.rmx != 0 || f.fn != 0 || f.fin != 0 || f.sat != 0 || f.z != 0) (.sra g (Ty.ofCode f.ty) f.d f.a f.b)
  | 0x4C => let f := F1.unpack b; chk false (!tyIn 0x00FF f.ty) (f.fn != 0 || f.z != 0) (.sraImmediate g (Ty.ofCode f.ty) f.d f.a ⟨f.imm, x.map (·.setWidth 40)⟩)
  | 0x0D => let f := F0.unpack b; chk false (!tyIn 0x00FF f.ty) (f.c != 0 || f.q != 0 || f.rmx != 0 || f.fn != 0 || f.fin != 0 || f.sat != 0 || f.z != 0) (.minS g (Ty.ofCode f.ty) f.d f.a f.b)
  | 0x4D => let f := F1.unpack b; chk false (!tyIn 0x00FF f.ty) (f.fn != 0 || f.z != 0) (.minSImmediate g (Ty.ofCode f.ty) f.d f.a ⟨f.imm, x.map (·.setWidth 40)⟩)
  | 0x0E => let f := F0.unpack b; chk false (!tyIn 0x00FF f.ty) (f.c != 0 || f.q != 0 || f.rmx != 0 || f.fn != 0 || f.fin != 0 || f.sat != 0 || f.z != 0) (.maxS g (Ty.ofCode f.ty) f.d f.a f.b)
  | 0x4E => let f := F1.unpack b; chk false (!tyIn 0x00FF f.ty) (f.fn != 0 || f.z != 0) (.maxSImmediate g (Ty.ofCode f.ty) f.d f.a ⟨f.imm, x.map (·.setWidth 40)⟩)
  | 0x0F => let f := F0.unpack b; chk (16 ≤ f.d.toNat) (!tyIn 0x00FF f.ty || 6 ≤ f.fn.toNat) (f.c != 0 || f.q != 0 || f.rmx != 0 || f.fin != 0 || f.sat != 0 || f.z != 0) (.cmp g (Ty.ofCode f.ty) (Cond.ofCode (f.fn.setWidth 3)) (f.d.setWidth 4) f.a f.b)
  | 0x4F => let f := F1.unpack b; chk (16 ≤ f.d.toNat) (!tyIn 0x00FF f.ty || 6 ≤ f.fn.toNat) (f.z != 0) (.cmpImmediate g (Ty.ofCode f.ty) (Cond.ofCode (f.fn.setWidth 3)) (f.d.setWidth 4) f.a ⟨f.imm, x.map (·.setWidth 40)⟩)
  | 0x10 => let f := F0.unpack b; chk false false (f.c != 0 || f.ty != 0 || f.rmx != 0 || f.fn != 0 || f.fin != 0 || f.sat != 0 || f.z != 0) (.sel g f.d f.q f.a f.b)
  | 0x11 => let f := F1.unpack b; chk false false (f.a != 0 || f.ty != 0 || f.fn != 0 || f.z != 0) (.limm g f.d ⟨f.imm, x.map (·.setWidth 40)⟩)
  | 0x12 => let f := F0.unpack b; chk false (!tyIn 0x00FF f.ty) (f.b != 0 || f.c != 0 || f.q != 0 || f.rmx != 0 || f.fn != 0 || f.fin != 0 || f.sat != 0 || f.z != 0) (.clz g (Ty.ofCode f.ty) f.d f.a)
  | 0x13 => let f := F0.unpack b; chk false (!tyIn 0x00FF f.ty) (f.b != 0 || f.c != 0 || f.q != 0 || f.rmx != 0 || f.fn != 0 || f.fin != 0 || f.sat != 0 || f.z != 0) (.popc g (Ty.ofCode f.ty) f.d f.a)
  | 0x14 => let f := F1.unpack b; chk false (!tyIn 0x00C0 f.ty) (f.imm.extractLsb' 12 12 != 0 || f.fn != 0 || f.z != 0) (.bfx g (Ty.ofCode f.ty) f.d f.a (f.imm.extractLsb' 0 6) (f.imm.extractLsb' 6 6))
  | 0x15 => let f := F1.unpack b; chk false (!tyIn 0x0040 f.ty) (f.imm.extractLsb' 12 12 != 0 || f.fn != 0 || f.z != 0) (.bfi g (Ty.ofCode f.ty) f.d f.a (f.imm.extractLsb' 0 6) (f.imm.extractLsb' 6 6))
  | 0x20 => let f := F0.unpack b; chk false (!tyIn 0x1C00 f.ty || f.rmx == 7) (f.c != 0 || f.q != 0 || f.fn != 0 || f.fin != 0 || f.sat != 0 || f.z != 0) (.fadd g (Ty.ofCode f.ty) (Rm.ofCode f.rmx) f.d f.a f.b)
  | 0x21 => let f := F0.unpack b; chk false (!tyIn 0x1C00 f.ty || f.rmx == 7) (f.c != 0 || f.q != 0 || f.fn != 0 || f.fin != 0 || f.sat != 0 || f.z != 0) (.fsub g (Ty.ofCode f.ty) (Rm.ofCode f.rmx) f.d f.a f.b)
  | 0x22 => let f := F0.unpack b; chk false (!tyIn 0x1C00 f.ty || f.rmx == 7) (f.c != 0 || f.q != 0 || f.fn != 0 || f.fin != 0 || f.sat != 0 || f.z != 0) (.fmul g (Ty.ofCode f.ty) (Rm.ofCode f.rmx) f.d f.a f.b)
  | 0x23 => let f := F0.unpack b; chk false (!tyIn 0x1C00 f.ty || f.rmx == 7) (f.q != 0 || f.fn != 0 || f.fin != 0 || f.sat != 0 || f.z != 0) (.ffma g (Ty.ofCode f.ty) (Rm.ofCode f.rmx) f.d f.a f.b f.c)
  | 0x24 => let f := F0.unpack b; chk false (!tyIn 0x1C00 f.ty) (f.c != 0 || f.q != 0 || f.rmx != 0 || f.fn != 0 || f.fin != 0 || f.sat != 0 || f.z != 0) (.fmin g (Ty.ofCode f.ty) f.d f.a f.b)
  | 0x25 => let f := F0.unpack b; chk false (!tyIn 0x1C00 f.ty) (f.c != 0 || f.q != 0 || f.rmx != 0 || f.fn != 0 || f.fin != 0 || f.sat != 0 || f.z != 0) (.fmax g (Ty.ofCode f.ty) f.d f.a f.b)
  | 0x26 => let f := F0.unpack b; chk (16 ≤ f.d.toNat) (!tyIn 0x1C00 f.ty || 8 ≤ f.fn.toNat) (f.c != 0 || f.q != 0 || f.rmx != 0 || f.fin != 0 || f.sat != 0 || f.z != 0) (.fcmp g (Ty.ofCode f.ty) (Cond.ofCode (f.fn.setWidth 3)) (f.d.setWidth 4) f.a f.b)
  | 0x27 => let f := F0.unpack b; chk false (!tyIn 0x3FFF f.ty || !tyIn 0x3FFF (f.fn.setWidth 4) || f.rmx == 7) (f.b != 0 || f.c != 0 || f.q != 0 || f.fn.getLsbD 4 || f.z != 0) (.fcvt g (Ty.ofCode f.ty) (Ty.ofCode (f.fn.setWidth 4)) (Rm.ofCode f.rmx) (f.fin == 1) (f.sat == 1) f.d f.a)
  | 0x30 => let f := F0.unpack b; chk (16 ≤ f.d.toNat || 16 ≤ f.a.toNat || 16 ≤ f.b.toNat) false (f.c != 0 || f.q != 0 || f.ty != 0 || f.rmx != 0 || f.fn != 0 || f.fin != 0 || f.sat != 0 || f.z != 0) (.pand g (f.d.setWidth 4) (f.a.setWidth 4) (f.b.setWidth 4))
  | 0x31 => let f := F0.unpack b; chk (16 ≤ f.d.toNat || 16 ≤ f.a.toNat || 16 ≤ f.b.toNat) false (f.c != 0 || f.q != 0 || f.ty != 0 || f.rmx != 0 || f.fn != 0 || f.fin != 0 || f.sat != 0 || f.z != 0) (.por g (f.d.setWidth 4) (f.a.setWidth 4) (f.b.setWidth 4))
  | 0x32 => let f := F0.unpack b; chk (16 ≤ f.d.toNat || 16 ≤ f.a.toNat || 16 ≤ f.b.toNat) false (f.c != 0 || f.q != 0 || f.ty != 0 || f.rmx != 0 || f.fn != 0 || f.fin != 0 || f.sat != 0 || f.z != 0) (.pxor g (f.d.setWidth 4) (f.a.setWidth 4) (f.b.setWidth 4))
  | 0x33 => let f := F0.unpack b; chk (16 ≤ f.d.toNat || 16 ≤ f.a.toNat) false (f.b != 0 || f.c != 0 || f.q != 0 || f.ty != 0 || f.rmx != 0 || f.fn != 0 || f.fin != 0 || f.sat != 0 || f.z != 0) (.pnot g (f.d.setWidth 4) (f.a.setWidth 4))
  | 0x34 => let f := F0.unpack b; chk (16 ≤ f.a.toNat) false (f.b != 0 || f.c != 0 || f.q != 0 || f.ty != 0 || f.rmx != 0 || f.fn != 0 || f.fin != 0 || f.sat != 0 || f.z != 0) (.pcnt g f.d (f.a.setWidth 4))
  | 0x35 => let f := F0.unpack b; chk (16 ≤ f.d.toNat || 16 ≤ f.a.toNat) false (f.b != 0 || f.c != 0 || f.q != 0 || f.ty != 0 || f.rmx != 0 || f.fn != 0 || f.fin != 0 || f.sat != 0 || f.z != 0) (.pfirst g (f.d.setWidth 4) (f.a.setWidth 4))
  | 0x36 =>
    let f := F0.unpack b
    match f.fn.toNat with
    | 0 => chk (16 ≤ f.d.toNat || 16 ≤ f.a.toNat) false (f.b != 0 || f.c != 0 || f.q != 0 || f.ty != 0 || f.rmx != 0 || f.fin != 0 || f.sat != 0 || f.z != 0) (.pmov g (f.d.setWidth 4) (f.a.setWidth 4))
    | 1 => chk (16 ≤ f.d.toNat) false (f.b != 0 || f.c != 0 || f.q != 0 || f.ty != 0 || f.rmx != 0 || f.fin != 0 || f.sat != 0 || f.z != 0) (.pmovFromScalar g (f.d.setWidth 4) f.a)
    | 2 => chk (16 ≤ f.a.toNat) false (f.b != 0 || f.c != 0 || f.q != 0 || f.ty != 0 || f.rmx != 0 || f.fin != 0 || f.sat != 0 || f.z != 0) (.pmovToScalar g f.d (f.a.setWidth 4))
    | _ => .error .modifier
  | _ => .error .opcode

/-- Class V of the opcode map (R149): the operand fields read, and the checks of Table 6.15 that the row carries. -/
def decodeV (op : BitVec 8) (g : PReg) (b : BitVec 48) : Except Illegal Instr :=
  match op.toNat with
  | 0x00 => let f := F0.unpack b; chk (32 ≤ f.d.toNat || 32 ≤ f.a.toNat || 32 ≤ f.b.toNat) (!tyIn 0x1C3F f.ty || f.rmx == 7 || (f.rmx != 0 && !tyIn 0x1C00 f.ty)) (f.c != 0 || f.q != 0 || f.fn != 0 || f.fin != 0 || f.sat != 0 || f.z != 0) (.vadd g (Ty.ofCode f.ty) (Rm.ofCode f.rmx) (f.d.setWidth 5) (f.a.setWidth 5) (f.b.setWidth 5))
  | 0x01 => let f := F0.unpack b; chk (32 ≤ f.d.toNat || 32 ≤ f.a.toNat || 32 ≤ f.b.toNat) (!tyIn 0x1C3F f.ty || f.rmx == 7 || (f.rmx != 0 && !tyIn 0x1C00 f.ty)) (f.c != 0 || f.q != 0 || f.fn != 0 || f.fin != 0 || f.sat != 0 || f.z != 0) (.vsub g (Ty.ofCode f.ty) (Rm.ofCode f.rmx) (f.d.setWidth 5) (f.a.setWidth 5) (f.b.setWidth 5))
  | 0x02 => let f := F0.unpack b; chk (32 ≤ f.d.toNat || 32 ≤ f.a.toNat || 32 ≤ f.b.toNat) (!tyIn 0x1C3F f.ty || f.rmx == 7 || (f.rmx != 0 && !tyIn 0x1C00 f.ty)) (f.c != 0 || f.q != 0 || f.fn != 0 || f.fin != 0 || f.sat != 0 || f.z != 0) (.vmul g (Ty.ofCode f.ty) (Rm.ofCode f.rmx) (f.d.setWidth 5) (f.a.setWidth 5) (f.b.setWidth 5))
  | 0x03 => let f := F0.unpack b; chk (32 ≤ f.d.toNat || 32 ≤ f.a.toNat || 32 ≤ f.b.toNat) (!tyIn 0x003F f.ty) (f.c != 0 || f.q != 0 || f.rmx != 0 || f.fn != 0 || f.fin != 0 || f.sat != 0 || f.z != 0) (.vmulh g (Ty.ofCode f.ty) (f.d.setWidth 5) (f.a.setWidth 5) (f.b.setWidth 5))
  | 0x05 => let f := F0.unpack b; chk (32 ≤ f.d.toNat || 32 ≤ f.a.toNat || 32 ≤ f.b.toNat) (!tyIn 0x1C3F f.ty) (f.c != 0 || f.q != 0 || f.rmx != 0 || f.fn != 0 || f.fin != 0 || f.sat != 0 || f.z != 0) (.vmin g (Ty.ofCode f.ty) (f.d.setWidth 5) (f.a.setWidth 5) (f.b.setWidth 5))
  | 0x06 => let f := F0.unpack b; chk (32 ≤ f.d.toNat || 32 ≤ f.a.toNat || 32 ≤ f.b.toNat) (!tyIn 0x1C3F f.ty) (f.c != 0 || f.q != 0 || f.rmx != 0 || f.fn != 0 || f.fin != 0 || f.sat != 0 || f.z != 0) (.vmax g (Ty.ofCode f.ty) (f.d.setWidth 5) (f.a.setWidth 5) (f.b.setWidth 5))
  | 0x09 => let f := F0.unpack b; chk (32 ≤ f.d.toNat || 32 ≤ f.a.toNat || 32 ≤ f.b.toNat) (!tyIn 0x003F f.ty) (f.c != 0 || f.q != 0 || f.rmx != 0 || f.fn != 0 || f.fin != 0 || f.sat != 0 || f.z != 0) (.vand g (Ty.ofCode f.ty) (f.d.setWidth 5) (f.a.setWidth 5) (f.b.setWidth 5))
  | 0x0A => let f := F0.unpack b; chk (32 ≤ f.d.toNat || 32 ≤ f.a.toNat || 32 ≤ f.b.toNat) (!tyIn 0x003F f.ty) (f.c != 0 || f.q != 0 || f.rmx != 0 || f.fn != 0 || f.fin != 0 || f.sat != 0 || f.z != 0) (.vor g (Ty.ofCode f.ty) (f.d.setWidth 5) (f.a.setWidth 5) (f.b.setWidth 5))
  | 0x0B => let f := F0.unpack b; chk (32 ≤ f.d.toNat || 32 ≤ f.a.toNat || 32 ≤ f.b.toNat) (!tyIn 0x003F f.ty) (f.c != 0 || f.q != 0 || f.rmx != 0 || f.fn != 0 || f.fin != 0 || f.sat != 0 || f.z != 0) (.vxor g (Ty.ofCode f.ty) (f.d.setWidth 5) (f.a.setWidth 5) (f.b.setWidth 5))
  | 0x0C => let f := F0.unpack b; chk (32 ≤ f.d.toNat || 32 ≤ f.a.toNat || 32 ≤ f.b.toNat) (!tyIn 0x003F f.ty) (f.c != 0 || f.q != 0 || f.rmx != 0 || f.fn != 0 || f.fin != 0 || f.sat != 0 || f.z != 0) (.vshl g (Ty.ofCode f.ty) (f.d.setWidth 5) (f.a.setWidth 5) (f.b.setWidth 5))
  | 0x0D => let f := F0.unpack b; chk (32 ≤ f.d.toNat || 32 ≤ f.a.toNat || 32 ≤ f.b.toNat) (!tyIn 0x003F f.ty) (f.c != 0 || f.q != 0 || f.rmx != 0 || f.fn != 0 || f.fin != 0 || f.sat != 0 || f.z != 0) (.vshr g (Ty.ofCode f.ty) (f.d.setWidth 5) (f.a.setWidth 5) (f.b.setWidth 5))
  | 0x0E => let f := F0.unpack b; chk (32 ≤ f.d.toNat || 32 ≤ f.a.toNat || 32 ≤ f.b.toNat) (!tyIn 0x003F f.ty) (f.c != 0 || f.q != 0 || f.rmx != 0 || f.fn != 0 || f.fin != 0 || f.sat != 0 || f.z != 0) (.vsra g (Ty.ofCode f.ty) (f.d.setWidth 5) (f.a.setWidth 5) (f.b.setWidth 5))
  | 0x04 => let f := F0.unpack b; chk (32 ≤ f.d.toNat || 32 ≤ f.a.toNat || 32 ≤ f.b.toNat || 32 ≤ f.c.toNat) (!tyIn 0x1C3F f.ty || f.rmx == 7 || (f.rmx != 0 && !tyIn 0x1C00 f.ty)) (f.q != 0 || f.fn != 0 || f.fin != 0 || f.sat != 0 || f.z != 0) (.vfma g (Ty.ofCode f.ty) (Rm.ofCode f.rmx) (f.d.setWidth 5) (f.a.setWidth 5) (f.b.setWidth 5) (f.c.setWidth 5))
  | 0x07 => let f := F0.unpack b; chk (32 ≤ f.d.toNat || 32 ≤ f.a.toNat) (!tyIn 0x1C3F f.ty) (f.b != 0 || f.c != 0 || f.q != 0 || f.rmx != 0 || f.fn != 0 || f.fin != 0 || f.sat != 0 || f.z != 0) (.vabs g (Ty.ofCode f.ty) (f.d.setWidth 5) (f.a.setWidth 5))
  | 0x08 => let f := F0.unpack b; chk (32 ≤ f.d.toNat || 32 ≤ f.a.toNat) (!tyIn 0x1C3F f.ty) (f.b != 0 || f.c != 0 || f.q != 0 || f.rmx != 0 || f.fn != 0 || f.fin != 0 || f.sat != 0 || f.z != 0) (.vneg g (Ty.ofCode f.ty) (f.d.setWidth 5) (f.a.setWidth 5))
  | 0x11 => let f := F0.unpack b; chk (32 ≤ f.d.toNat || 32 ≤ f.a.toNat) (!tyIn 0x7F3F f.ty) (f.b != 0 || f.c != 0 || f.q != 0 || f.rmx != 0 || f.fn != 0 || f.fin != 0 || f.sat != 0 || f.z != 0) (.vmov g (Ty.ofCode f.ty) (f.d.setWidth 5) (f.a.setWidth 5))
  | 0x1D => let f := F0.unpack b; chk (32 ≤ f.d.toNat || 32 ≤ f.a.toNat) (!tyIn 0x1F00 f.ty) (f.b != 0 || f.c != 0 || f.q != 0 || f.rmx != 0 || f.fn != 0 || f.fin != 0 || f.sat != 0 || f.z != 0) (.vclass g (Ty.ofCode f.ty) (f.d.setWidth 5) (f.a.setWidth 5))
  | 0x19 => let f := F0.unpack b; chk (32 ≤ f.d.toNat || 32 ≤ f.a.toNat) (!tyIn 0x1C00 f.ty || f.rmx == 7) (f.b != 0 || f.c != 0 || f.q != 0 || f.fn != 0 || f.fin != 0 || f.sat != 0 || f.z != 0) (.vrcp g (Ty.ofCode f.ty) (Rm.ofCode f.rmx) (f.d.setWidth 5) (f.a.setWidth 5))
  | 0x1A => let f := F0.unpack b; chk (32 ≤ f.d.toNat || 32 ≤ f.a.toNat) (!tyIn 0x1C00 f.ty || f.rmx == 7) (f.b != 0 || f.c != 0 || f.q != 0 || f.fn != 0 || f.fin != 0 || f.sat != 0 || f.z != 0) (.vrsq g (Ty.ofCode f.ty) (Rm.ofCode f.rmx) (f.d.setWidth 5) (f.a.setWidth 5))
  | 0x1B => let f := F0.unpack b; chk (32 ≤ f.d.toNat || 32 ≤ f.a.toNat) (!tyIn 0x1C00 f.ty || f.rmx == 7) (f.b != 0 || f.c != 0 || f.q != 0 || f.fn != 0 || f.fin != 0 || f.sat != 0 || f.z != 0) (.vexp2 g (Ty.ofCode f.ty) (Rm.ofCode f.rmx) (f.d.setWidth 5) (f.a.setWidth 5))
  | 0x1C => let f := F0.unpack b; chk (32 ≤ f.d.toNat || 32 ≤ f.a.toNat) (!tyIn 0x1C00 f.ty || f.rmx == 7) (f.b != 0 || f.c != 0 || f.q != 0 || f.fn != 0 || f.fin != 0 || f.sat != 0 || f.z != 0) (.vlog2 g (Ty.ofCode f.ty) (Rm.ofCode f.rmx) (f.d.setWidth 5) (f.a.setWidth 5))
  | 0x0F => let f := F0.unpack b; chk (16 ≤ f.d.toNat || 32 ≤ f.a.toNat || 32 ≤ f.b.toNat) (!tyIn 0x1C3F f.ty || (if tyIn 0x1C00 f.ty then 8 else 6) ≤ f.fn.toNat) (f.c != 0 || f.q != 0 || f.rmx != 0 || f.fin != 0 || f.sat != 0 || f.z != 0) (.vcmp g (Ty.ofCode f.ty) (Cond.ofCode (f.fn.setWidth 3)) (f.d.setWidth 4) (f.a.setWidth 5) (f.b.setWidth 5))
  | 0x10 => let f := F0.unpack b; chk (32 ≤ f.d.toNat || 32 ≤ f.a.toNat || 32 ≤ f.b.toNat) false (f.c != 0 || f.ty != 0 || f.rmx != 0 || f.fn != 0 || f.fin != 0 || f.sat != 0 || f.z != 0) (.vsel g (f.d.setWidth 5) f.q (f.a.setWidth 5) (f.b.setWidth 5))
  | 0x12 => let f := F0.unpack b; chk (32 ≤ f.d.toNat) (!tyIn 0x7F3F f.ty) (f.b != 0 || f.c != 0 || f.q != 0 || f.rmx != 0 || f.fn != 0 || f.fin != 0 || f.sat != 0 || f.z != 0) (.vbcast g (Ty.ofCode f.ty) (f.d.setWidth 5) f.a)
  | 0x13 => let f := F0.unpack b; chk (32 ≤ f.d.toNat) (!tyIn 0x003F f.ty) (f.b != 0 || f.c != 0 || f.q != 0 || f.rmx != 0 || f.fn != 0 || f.fin != 0 || f.sat != 0 || f.z != 0) (.viota g (Ty.ofCode f.ty) (f.d.setWidth 5) f.a)
  | 0x14 => let f := F0.unpack b; chk (32 ≤ f.d.toNat || 32 ≤ f.a.toNat || 32 ≤ f.b.toNat) false (f.c != 0 || f.q != 0 || f.ty != 0 || f.rmx != 0 || f.fn != 0 || f.fin != 0 || f.sat != 0 || f.z != 0) (.vperm g (f.d.setWidth 5) (f.a.setWidth 5) (f.b.setWidth 5))
  | 0x15 => let f := F0.unpack b; chk (32 ≤ f.d.toNat || 32 ≤ f.a.toNat) false (f.b != 0 || f.c != 0 || f.ty != 0 || f.rmx != 0 || f.fn != 0 || f.fin != 0 || f.sat != 0 || f.z != 0) (.vcomp g (f.d.setWidth 5) f.q (f.a.setWidth 5))
  | 0x16 => let f := F0.unpack b; chk (32 ≤ f.a.toNat) (!tyIn 0x1C3F f.ty || 6 ≤ f.fn.toNat || (3 ≤ f.fn.toNat && tyIn 0x1C00 f.ty) || (f.rmx != 0 && !(f.fn == 0 && tyIn 0x1C00 f.ty)) || f.rmx == 7) (f.b != 0 || f.c != 0 || f.q != 0 || f.fin != 0 || f.sat != 0 || f.z != 0) (.vred g (Ty.ofCode f.ty) (Red.ofCode (f.fn.setWidth 3)) (Rm.ofCode f.rmx) f.d (f.a.setWidth 5))
  | 0x17 => let f := F0.unpack b; chk (32 ≤ f.d.toNat || 32 ≤ f.a.toNat) (!tyIn 0x1C3F f.ty || 6 ≤ f.fn.toNat || (3 ≤ f.fn.toNat && tyIn 0x1C00 f.ty) || (f.rmx != 0 && !(f.fn == 0 && tyIn 0x1C00 f.ty)) || f.rmx == 7) (f.b != 0 || f.c != 0 || f.q != 0 || f.fin != 0 || f.sat != 0 || f.z != 0) (.vscan g (Ty.ofCode f.ty) (Red.ofCode (f.fn.setWidth 3)) (Rm.ofCode f.rmx) (f.d.setWidth 5) (f.a.setWidth 5))
  | 0x18 => let f := F0.unpack b; chk (32 ≤ f.d.toNat || 32 ≤ f.a.toNat) (!tyIn 0x3F3F f.ty || !tyIn 0x3F3F (f.fn.setWidth 4) || f.rmx == 7) (f.b != 0 || f.c != 0 || f.q != 0 || f.fn.getLsbD 4 || f.z != 0) (.vcvt g (Ty.ofCode f.ty) (Ty.ofCode (f.fn.setWidth 4)) (Rm.ofCode f.rmx) (f.fin == 1) (f.sat == 1) (f.d.setWidth 5) (f.a.setWidth 5))
  | 0x1E => let f := F0.unpack b; chk (32 ≤ f.a.toNat) (!tyIn 0x7F3F f.ty) (f.c != 0 || f.q != 0 || f.rmx != 0 || f.fn != 0 || f.fin != 0 || f.sat != 0 || f.z != 0) (.vext g (Ty.ofCode f.ty) f.d (f.a.setWidth 5) f.b)
  | 0x1F => let f := F0.unpack b; chk (32 ≤ f.d.toNat) (!tyIn 0x7F3F f.ty) (f.c != 0 || f.q != 0 || f.rmx != 0 || f.fn != 0 || f.fin != 0 || f.sat != 0 || f.z != 0) (.vins g (Ty.ofCode f.ty) (f.d.setWidth 5) f.a f.b)
  | 0x20 => let f := F0.unpack b; chk (32 ≤ f.d.toNat || 32 ≤ f.c.toNat || 32 ≤ f.a.toNat) (!tyIn 0x0302 f.ty || f.rmx == 7) (f.b != 0 || f.q != 0 || f.fn != 0 || f.z != 0) (.vqnt g (Ty.ofCode f.ty) (Rm.ofCode f.rmx) (f.fin == 1) (f.sat == 1) (f.d.setWidth 5) (f.c.setWidth 5) (f.a.setWidth 5))
  | 0x21 => let f := F0.unpack b; chk (32 ≤ f.d.toNat || 32 ≤ f.a.toNat || 32 ≤ f.b.toNat) (!tyIn 0x0302 f.ty) (f.c != 0 || f.q != 0 || f.rmx != 0 || f.fn != 0 || f.fin != 0 || f.sat != 0 || f.z != 0) (.vdqnt g (Ty.ofCode f.ty) (f.d.setWidth 5) (f.a.setWidth 5) (f.b.setWidth 5))
  | 0x22 => let f := F0.unpack b; chk (32 ≤ f.d.toNat || 32 ≤ f.a.toNat || 32 ≤ f.b.toNat) (2 ≤ f.fn.toNat) (f.c != 0 || f.q != 0 || f.ty != 0 || f.rmx != 0 || f.fin != 0 || f.sat != 0 || f.z != 0) (.vcbd g (f.fn == 1) (f.d.setWidth 5) (f.a.setWidth 5) (f.b.setWidth 5))
  | 0x23 => let f := F0.unpack b; chk (32 ≤ f.d.toNat || 32 ≤ f.a.toNat || 32 ≤ f.b.toNat) (!tyIn 0x0F0F f.ty || !tyIn 0x1C3F (f.fn.setWidth 4) || f.rmx == 7) (f.c != 0 || f.q != 0 || f.fn.getLsbD 4 || f.z != 0) (.vpack g (Ty.ofCode f.ty) (Ty.ofCode (f.fn.setWidth 4)) (Rm.ofCode f.rmx) (f.fin == 1) (f.sat == 1) (f.d.setWidth 5) (f.a.setWidth 5) (f.b.setWidth 5))
  | 0x24 => let f := F0.unpack b; chk (32 ≤ f.d.toNat || 32 ≤ f.a.toNat) (!unpkPair (f.fn.setWidth 4) f.ty) (f.b != 0 || f.c != 0 || f.q != 0 || f.rmx != 0 || f.fin != 0 || f.sat != 0 || f.z != 0) (.vunpk g (Ty.ofCode f.ty) (Ty.ofCode (f.fn.setWidth 4)) (f.fn.getLsbD 4) (f.d.setWidth 5) (f.a.setWidth 5))
  | _ => .error .opcode

/-- Class M of the opcode map (R151): the operand fields read, and the checks of Table 6.15 that the row carries. -/
def decodeM (op : BitVec 8) (g : PReg) (b : BitVec 48) : Except Illegal Instr :=
  match op.toNat with
  | 0x00 => let f := F6.unpack b; chk false (!tyIn 0x0F00 f.ty || f.rmx == 7) (f.aca != 0 || f.v != 0 || f.s != 0 || f.off != 0 || f.fl != 0) (.mma g (Ty.ofCode f.ty) (Rm.ofCode f.rmx) f.acd f.sh f.oba f.obb)
  | 0x01 => let f := F6.unpack b; chk false (!tyIn 0x0300 f.ty || f.rmx == 7) (f.aca != 0 || f.v != 0 || f.s != 0 || f.off != 0 || f.fl.extractLsb' 1 1 != 0) (.mmacb g (Ty.ofCode f.ty) (Rm.ofCode f.rmx) (f.fl.getLsbD 0) f.acd f.sh f.oba f.obb)
  | 0x02 => let f := F6.unpack b; chk false false (f.aca != 0 || f.sh != 0 || f.oba != 0 || f.obb != 0 || f.v != 0 || f.s != 0 || f.off != 0 || f.ty != 0 || f.rmx != 0 || f.fl != 0) (.mzero g f.acd)
  | 0x03 => let f := F6.unpack b; chk (32 ≤ f.v.toNat) false (f.acd != 0 || f.sh != 0 || f.oba != 0 || f.obb != 0 || f.off != 0 || f.ty != 0 || f.rmx != 0 || f.fl != 0) (.mrd g (f.v.setWidth 5) f.aca f.s)
  | 0x04 => let f := F6.unpack b; chk (32 ≤ f.v.toNat) false (f.aca != 0 || f.sh != 0 || f.oba != 0 || f.obb != 0 || f.off != 0 || f.ty != 0 || f.rmx != 0 || f.fl != 0) (.mwr g f.acd (f.v.setWidth 5) f.s)
  | 0x05 => let f := F6.unpack b; chk false false (f.acd != 0 || f.aca != 0 || f.oba != 0 || f.obb != 0 || f.v != 0 || f.ty != 0 || f.rmx != 0 || f.fl != 0) (.mshape g f.sh f.s f.off)
  | _ => .error .opcode

/-- Class L of the opcode map (R152): the operand fields read, and the checks of Table 6.15 that the row carries. -/
def decodeL (op : BitVec 8) (g : PReg) (b : BitVec 48) (x : Option (BitVec 60)) : Except Illegal Instr :=
  match op.toNat with
  | 0x00 => let f := F2.unpack b; chk false (!tyIn 0x1FFF f.ty) (f.scp != 0 || f.ord != 0 || f.fn != 0) (.ld g (Ty.ofCode f.ty) f.d f.a f.b ⟨f.off, x.map (·.setWidth 35)⟩)
  | 0x01 => let f := F2.unpack b; chk false (!tyIn 0x1FFF f.ty) (f.scp != 0 || f.ord != 0 || f.fn != 0) (.st g (Ty.ofCode f.ty) f.d f.a f.b ⟨f.off, x.map (·.setWidth 35)⟩)
  | 0x02 => let f := F2.unpack b; chk (32 ≤ f.d.toNat) (!tyIn 0x1F3F f.ty) (f.scp != 0 || f.ord != 0 || f.fn != 0) (.vld g (Ty.ofCode f.ty) (f.d.setWidth 5) f.a f.b ⟨f.off, x.map (·.setWidth 35)⟩)
  | 0x03 => let f := F2.unpack b; chk (32 ≤ f.d.toNat) (!tyIn 0x1F3F f.ty) (f.scp != 0 || f.ord != 0 || f.fn != 0) (.vst g (Ty.ofCode f.ty) (f.d.setWidth 5) f.a f.b ⟨f.off, x.map (·.setWidth 35)⟩)
  | 0x04 => let f := F2.unpack b; chk (32 ≤ f.d.toNat || 32 ≤ f.b.toNat) (!tyIn 0x1F3F f.ty) (f.scp != 0 || f.ord != 0 || f.fn != 0) (.vgather g (Ty.ofCode f.ty) (f.d.setWidth 5) f.a (f.b.setWidth 5) ⟨f.off, x.map (·.setWidth 35)⟩)
  | 0x05 => let f := F2.unpack b; chk (32 ≤ f.d.toNat || 32 ≤ f.b.toNat) (!tyIn 0x1F3F f.ty) (f.scp != 0 || f.ord != 0 || f.fn != 0) (.vscatter g (Ty.ofCode f.ty) (f.d.setWidth 5) f.a (f.b.setWidth 5) ⟨f.off, x.map (·.setWidth 35)⟩)
  | 0x06 => let f := F2.unpack b; chk (32 ≤ f.d.toNat || 32 ≤ f.b.toNat) (!tyIn 0x1030 f.ty) (f.scp != 0 || f.ord != 0 || f.fn != 0) (.vscadd g (Ty.ofCode f.ty) (f.d.setWidth 5) f.a (f.b.setWidth 5) ⟨f.off, x.map (·.setWidth 35)⟩)
  | 0x07 => let f := F2.unpack b; chk (32 ≤ f.d.toNat || 32 ≤ f.b.toNat) (!tyIn 0x1030 f.ty) (f.scp != 0 || f.ord != 0 || f.fn != 0) (.binapp g (Ty.ofCode f.ty) (f.d.setWidth 5) f.a (f.b.setWidth 5) ⟨f.off, x.map (·.setWidth 35)⟩)
  | 0x08 => let f := F2.unpack b; chk false false (f.d != 0 || f.b != 0 || f.ty != 0 || f.scp != 0 || f.ord != 0 || f.fn != 0) (.binrst g f.a ⟨f.off, x.map (·.setWidth 35)⟩)
  | 0x09 => let f := F2.unpack b; chk false false (f.d != 0 || f.ty != 0 || f.scp != 0 || f.ord != 0 || f.fn != 0) (.pref g f.a f.b ⟨f.off, x.map (·.setWidth 35)⟩)
  | 0x0A => let f := F2.unpack b; chk false (f.fn.setWidth 3 == 0#3) (f.d != 0 || f.a != 0 || f.b != 0 || f.off != 0 || f.ty != 0 || f.ord != 0 || f.fn.getLsbD 3) (.fence g (Scope.ofCode f.scp) (f.fn.setWidth 3))
  | 0x10 => let f := F3.unpack b; chk false ((8 ≤ f.fn.toNat || f.ty == 15 || !AmoOp.accepts (AmoOp.ofCode (f.fn.setWidth 3)) (Ty.ofCode f.ty))) (f.c != 0) (.amo g (AmoOp.ofCode (f.fn.setWidth 3)) (Ty.ofCode f.ty) (Scope.ofCode f.scp) (Ord.ofCode f.ord) f.d f.a ⟨f.off, x.map (·.setWidth 41)⟩ f.b)
  | 0x11 => let f := F3.unpack b; chk false (!tyIn 0x00F0 f.ty) (f.fn != 0) (.acas g (Ty.ofCode f.ty) (Scope.ofCode f.scp) (Ord.ofCode f.ord) f.d f.a ⟨f.off, x.map (·.setWidth 41)⟩ f.b f.c)
  | _ => .error .opcode

/-- Class N of the opcode map (R153): the operand fields read, and the checks of Table 6.15 that the row carries. -/
def decodeN (op : BitVec 8) (g : PReg) (b : BitVec 48) : Except Illegal Instr :=
  match op.toNat with
  | 0x00 => let f := F4.unpack b; chk (f.a.getLsbD 0) ((f.ord == 1 || f.ord == 3)) (f.d != 0 || f.fl != 0 || f.imm != 0) (.pub g (Scope.ofCode f.scp) (f.ord == 2) (f.a.extractLsb' 1 5) f.b f.c)
  | 0x01 => let f := F4.unpack b; chk (f.a.getLsbD 0) false (f.b != 0 || f.c != 0 || f.d != 0 || f.ord != 0 || f.fl != 0 || f.imm != 0) (.subs g (Scope.ofCode f.scp) (f.a.extractLsb' 1 5))
  | 0x02 => let f := F4.unpack b; chk (f.a.getLsbD 0) false (f.b != 0 || f.c != 0 || f.d != 0 || f.scp != 0 || f.ord != 0 || f.fl != 0 || f.imm != 0) (.unsub g (f.a.extractLsb' 1 5))
  | 0x04 => let f := F4.unpack b; chk (f.a.getLsbD 0) false (f.b != 0 || f.c != 0 || f.d != 0 || f.scp != 0 || f.ord != 0 || f.fl != 0 || f.imm != 0) (.drop g (f.a.extractLsb' 1 5))
  | 0x03 => let f := F4.unpack b; chk (f.a.getLsbD 0) false (f.c != 0 || f.d != 0 || f.scp != 0 || f.ord != 0 || f.fl.extractLsb' 1 3 != 0 || f.imm != 0) (.await g (f.fl.getLsbD 0) (f.a.extractLsb' 1 5) f.b)
  | 0x08 => let f := F5.unpack b; chk (f.b.getLsbD 0) (strmBad f) (f.z2 != 0 || f.z != 0) (.strm g (Port.ofCode f.sel) (f.dir == 1) (f.eng == 1) (Scope.ofCode f.scp) (f.ordf == 1) (f.cons == 1) (f.cv == 1) (Rm.ofCode f.rmx) (Ty.ofCode f.ty) f.d f.g f.a (f.b.extractLsb' 1 5))
  | 0x09 => let f := F5.unpack b; chk false false (f.g != 0 || f.sel != 0 || f.dir != 0 || f.eng != 0 || f.z2 != 0 || f.b != 0 || f.d != 0 || f.scp != 0 || f.ordf != 0 || f.cons != 0 || f.cv != 0 || f.rmx != 0 || f.ty != 0 || f.z != 0) (.swait g f.a)
  | 0x0A => let f := F5.unpack b; chk false false (f.g != 0 || f.sel != 0 || f.dir != 0 || f.eng != 0 || f.z2 != 0 || f.b != 0 || f.d != 0 || f.scp != 0 || f.ordf != 0 || f.cons != 0 || f.cv != 0 || f.rmx != 0 || f.ty != 0 || f.z != 0) (.scancel g f.a)
  | 0x0B => let f := F5.unpack b; chk false (10 ≤ f.sel.toNat) (f.dir != 0 || f.eng != 0 || f.z2 != 0 || f.b != 0 || f.d != 0 || f.scp != 0 || f.ordf != 0 || f.cons != 0 || f.cv != 0 || f.rmx != 0 || f.ty != 0 || f.z != 0) (.gset g f.g (GField.ofCode f.sel) f.a)
  | 0x10 => let f := F4.unpack b; chk false false (f.a != 0 || f.scp != 0 || f.ord != 0 || f.fl != 0 || f.imm != 0) (.spawn g f.d f.c f.b)
  | 0x11 => let f := F4.unpack b; chk false (f.scp != 1) (f.a != 0 || f.b != 0 || f.c != 0 || f.d != 0 || f.ord != 0 || f.fl != 0 || f.imm.extractLsb' 4 12 != 0) (.bar g (f.imm.setWidth 4))
  | 0x12 => let f := F4.unpack b; chk false false (f.a != 0 || f.b != 0 || f.c != 0 || f.d != 0 || f.scp != 0 || f.ord != 0 || f.fl != 0 || f.imm.extractLsb' 6 10 != 0) (.barx g (f.imm.extractLsb' 4 2) (f.imm.setWidth 4))
  | _ => .error .opcode

/-- Class C of the opcode map (R154): the operand fields read, and the checks of Table 6.15 that the row carries. -/
def decodeC (op : BitVec 8) (g : PReg) (b : BitVec 48) : Except Illegal Instr :=
  match op.toNat with
  | 0x00 => let f := F7.unpack b; chk false false (f.a != 0 || f.q != 0 || f.fn != 0 || f.z != 0) (.br g f.off)
  | 0x01 => let f := F7.unpack b; chk false (f.fn == 3) (f.a != 0 || f.z != 0) (.brp g (PTest.ofCode f.fn) f.q f.off)
  | 0x02 => let f := F7.unpack b; chk false false (f.off != 0 || f.q != 0 || f.fn != 0 || f.z != 0) (.jmp g f.a)
  | 0x03 => let f := F7.unpack b; chk false false (f.q != 0 || f.fn != 0 || f.z != 0) (.call g f.a f.off)
  | 0x04 => let f := F7.unpack b; chk false false (f.off != 0 || f.q != 0 || f.fn != 0 || f.z != 0) (.ret g f.a)
  | 0x05 => let f := F7.unpack b; chk false false (f.q != 0 || f.fn != 0 || f.z != 0) (.loop g f.a f.off)
  | 0x06 => let f := F7.unpack b; chk false false (f.off != 0 || f.a != 0 || f.q != 0 || f.fn != 0 || f.z != 0) (.nop g)
  | 0x07 => let f := F7.unpack b; chk false false (f.off != 0 || f.a != 0 || f.q != 0 || f.fn != 0 || f.z != 0) (.tend g)
  | 0x08 => let f := F7.unpack b; chk false false (f.off != 0 || f.a != 0 || f.q != 0 || f.fn != 0 || f.z != 0) (.yieldC g)
  | 0x10 => let f := F1.unpack b; chk false false (f.d != 0 || f.a != 0 || f.ty != 0 || f.fn != 0 || f.z != 0) (.trap g f.imm)
  | 0x11 => let f := F1.unpack b; chk false false (f.a != 0 || f.imm.extractLsb' 12 12 != 0 || f.ty != 0 || f.fn != 0 || f.z != 0) (.csrr g f.d (f.imm.setWidth 12))
  | 0x12 => let f := F1.unpack b; chk false false (f.d != 0 || f.imm.extractLsb' 12 12 != 0 || f.ty != 0 || f.fn != 0 || f.z != 0) (.csrw g (f.imm.setWidth 12) f.a)
  | 0x13 => let f := F0.unpack b; chk (((f.fn == 1 || f.fn == 3) && 32 ≤ f.d.toNat) || 4 ≤ f.q.toNat) (8 ≤ f.fn.toNat) (f.a != 0 || f.c != 0 || f.ty != 0 || f.rmx != 0 || f.fin != 0 || f.sat != 0 || f.z != 0) (.frzrd g (File.ofCode (f.fn.setWidth 3)) f.d (f.q.setWidth 2) f.b)
  | 0x14 => let f := F0.unpack b; chk (4 ≤ f.q.toNat || ((f.fn == 1 || f.fn == 3) && 32 ≤ f.a.toNat)) (8 ≤ f.fn.toNat) (f.d != 0 || f.c != 0 || f.ty != 0 || f.rmx != 0 || f.fin != 0 || f.sat != 0 || f.z != 0) (.frzwr g (File.ofCode (f.fn.setWidth 3)) (f.q.setWidth 2) f.b f.a)
  | 0x15 => let f := F0.unpack b; chk (4 ≤ f.q.toNat) false (f.a != 0 || f.c != 0 || f.ty != 0 || f.rmx != 0 || f.fn != 0 || f.fin != 0 || f.sat != 0 || f.z != 0) (.frzinf g f.d (f.q.setWidth 2) f.b)
  | 0x16 =>
    let f := F0.unpack b
    if f.sat == 1 then chk (4 ≤ f.q.toNat) false (f.d != 0 || f.b != 0 || f.c != 0 || f.ty != 0 || f.rmx != 0 || f.fn != 0 || f.fin != 0 || f.z != 0) (.resumeAtPc g (f.q.setWidth 2) f.a)
    else chk (4 ≤ f.q.toNat) false (f.d != 0 || f.a != 0 || f.b != 0 || f.c != 0 || f.ty != 0 || f.rmx != 0 || f.fn != 0 || f.fin != 0 || f.z != 0) (.resume g (f.q.setWidth 2))
  | 0x17 => let f := F0.unpack b; chk (4 ≤ f.q.toNat) false (f.d != 0 || f.a != 0 || f.b != 0 || f.c != 0 || f.ty != 0 || f.rmx != 0 || f.fn != 0 || f.fin != 0 || f.sat != 0 || f.z != 0) (.kill g (f.q.setWidth 2))
  | 0x18 =>
    let f := F0.unpack b
    match f.fn.toNat with
    | 0 => chk false false (f.d != 0 || f.b != 0 || f.c != 0 || f.q != 0 || f.ty != 0 || f.rmx != 0 || f.fin != 0 || f.sat != 0 || f.z != 0) (.tlbinv g f.a)
    | 1 => chk false false (f.d != 0 || f.b != 0 || f.c != 0 || f.q != 0 || f.ty != 0 || f.rmx != 0 || f.fin != 0 || f.sat != 0 || f.z != 0) (.tlbinvAll g f.a)
    | _ => .error .modifier
  | 0x19 => let f := F0.unpack b; chk false false (f.b != 0 || f.c != 0 || f.q != 0 || f.ty != 0 || f.rmx != 0 || f.fn != 0 || f.fin != 0 || f.sat != 0 || f.z != 0) (.clsrd g f.d f.a)
  | 0x1A => let f := F1.unpack b; chk false false (f.d != 0 || f.a != 0 || f.ty != 0 || f.fn != 0 || f.z != 0) (.sleep g f.imm)
  | _ => .error .opcode

/-- One syllable: its class, opcode, guard and body, and the payload of the X syllable after it. -/
structure Syl where
  cls : BitVec 3
  op : BitVec 8
  g : BitVec 4
  body : BitVec 48
  x : Option (BitVec 60)
  deriving DecidableEq, Repr

/-- R136: the header of a 64-bit syllable. -/
def Syl.ofWord (w : BitVec 64) (x : Option (BitVec 60)) : Syl :=
  ⟨w.extractLsb' 60 3, w.extractLsb' 52 8, w.extractLsb' 48 4, w.extractLsb' 0 48, x⟩

/-- The 64-bit syllable with end bit `e`. -/
def Syl.word (s : Syl) (e : BitVec 1) : BitVec 64 := e ++ s.cls ++ s.op ++ s.g ++ s.body

/-- The 64-bit X syllable of a payload (R147). -/
def xWord (e : BitVec 1) (p : BitVec 60) : BitVec 64 := e ++ 0b110#3 ++ p

/-- How many payload bits Table 6.6 lets a syllable use: none where no X syllable may follow. -/
def Syl.xBits (s : Syl) : Option Nat :=
  if s.cls == 0 && (s.op == 0x11 || (0x40 ≤ s.op.toNat && s.op.toNat < 0x50)) then some 40
  else if s.cls == 3 && s.op.toNat < 0x0A then some 35
  else if s.cls == 3 && (s.op == 0x10 || s.op == 0x11) then some 41
  else none

/-- Decoding of one syllable with its extension, classes by R137. -/
def decodeSyl (s : Syl) : Except Illegal Instr :=
  match s.cls.toNat with
  | 0 => decodeS s.op s.g s.body s.x
  | 1 => decodeV s.op s.g s.body
  | 2 => decodeM s.op s.g s.body
  | 3 => decodeL s.op s.g s.body s.x
  | 4 => decodeN s.op s.g s.body
  | 5 => decodeC s.op s.g s.body
  | 6 => .error .extension
  | _ => .error .cls

/-- The encoding of a syllable instruction; the steps of the device have none. -/
def encodeSyl : Instr → Option Syl
  | .add g ty d a b => some ⟨0, 0x00, g, ({ ty := ty.code, d := d, a := a, b := b : F0}).pack, none⟩
  | .addImmediate g ty d a imm => some ⟨0, 0x40, g, ({ ty := ty.code, d := d, a := a, imm := imm.lo : F1}).pack, imm.x.map (·.setWidth 60)⟩
  | .sub g ty d a b => some ⟨0, 0x01, g, ({ ty := ty.code, d := d, a := a, b := b : F0}).pack, none⟩
  | .subImmediate g ty d a imm => some ⟨0, 0x41, g, ({ ty := ty.code, d := d, a := a, imm := imm.lo : F1}).pack, imm.x.map (·.setWidth 60)⟩
  | .mul g ty d a b => some ⟨0, 0x02, g, ({ ty := ty.code, d := d, a := a, b := b : F0}).pack, none⟩
  | .mulImmediate g ty d a imm => some ⟨0, 0x42, g, ({ ty := ty.code, d := d, a := a, imm := imm.lo : F1}).pack, imm.x.map (·.setWidth 60)⟩
  | .mulh g ty d a b => some ⟨0, 0x03, g, ({ ty := ty.code, d := d, a := a, b := b : F0}).pack, none⟩
  | .mulhImmediate g ty d a imm => some ⟨0, 0x43, g, ({ ty := ty.code, d := d, a := a, imm := imm.lo : F1}).pack, imm.x.map (·.setWidth 60)⟩
  | .divS g ty d a b => some ⟨0, 0x04, g, ({ ty := ty.code, d := d, a := a, b := b : F0}).pack, none⟩
  | .divSImmediate g ty d a imm => some ⟨0, 0x44, g, ({ ty := ty.code, d := d, a := a, imm := imm.lo : F1}).pack, imm.x.map (·.setWidth 60)⟩
  | .rem g ty d a b => some ⟨0, 0x05, g, ({ ty := ty.code, d := d, a := a, b := b : F0}).pack, none⟩
  | .remImmediate g ty d a imm => some ⟨0, 0x45, g, ({ ty := ty.code, d := d, a := a, imm := imm.lo : F1}).pack, imm.x.map (·.setWidth 60)⟩
  | .andS g ty d a b => some ⟨0, 0x06, g, ({ ty := ty.code, d := d, a := a, b := b : F0}).pack, none⟩
  | .andSImmediate g ty d a imm => some ⟨0, 0x46, g, ({ ty := ty.code, d := d, a := a, imm := imm.lo : F1}).pack, imm.x.map (·.setWidth 60)⟩
  | .orS g ty d a b => some ⟨0, 0x07, g, ({ ty := ty.code, d := d, a := a, b := b : F0}).pack, none⟩
  | .orSImmediate g ty d a imm => some ⟨0, 0x47, g, ({ ty := ty.code, d := d, a := a, imm := imm.lo : F1}).pack, imm.x.map (·.setWidth 60)⟩
  | .xor g ty d a b => some ⟨0, 0x08, g, ({ ty := ty.code, d := d, a := a, b := b : F0}).pack, none⟩
  | .xorImmediate g ty d a imm => some ⟨0, 0x48, g, ({ ty := ty.code, d := d, a := a, imm := imm.lo : F1}).pack, imm.x.map (·.setWidth 60)⟩
  | .andn g ty d a b => some ⟨0, 0x09, g, ({ ty := ty.code, d := d, a := a, b := b : F0}).pack, none⟩
  | .andnImmediate g ty d a imm => some ⟨0, 0x49, g, ({ ty := ty.code, d := d, a := a, imm := imm.lo : F1}).pack, imm.x.map (·.setWidth 60)⟩
  | .shl g ty d a b => some ⟨0, 0x0A, g, ({ ty := ty.code, d := d, a := a, b := b : F0}).pack, none⟩
  | .shlImmediate g ty d a imm => some ⟨0, 0x4A, g, ({ ty := ty.code, d := d, a := a, imm := imm.lo : F1}).pack, imm.x.map (·.setWidth 60)⟩
  | .shr g ty d a b => some ⟨0, 0x0B, g, ({ ty := ty.code, d := d, a := a, b := b : F0}).pack, none⟩
  | .shrImmediate g ty d a imm => some ⟨0, 0x4B, g, ({ ty := ty.code, d := d, a := a, imm := imm.lo : F1}).pack, imm.x.map (·.setWidth 60)⟩
  | .sra g ty d a b => some ⟨0, 0x0C, g, ({ ty := ty.code, d := d, a := a, b := b : F0}).pack, none⟩
  | .sraImmediate g ty d a imm => some ⟨0, 0x4C, g, ({ ty := ty.code, d := d, a := a, imm := imm.lo : F1}).pack, imm.x.map (·.setWidth 60)⟩
  | .minS g ty d a b => some ⟨0, 0x0D, g, ({ ty := ty.code, d := d, a := a, b := b : F0}).pack, none⟩
  | .minSImmediate g ty d a imm => some ⟨0, 0x4D, g, ({ ty := ty.code, d := d, a := a, imm := imm.lo : F1}).pack, imm.x.map (·.setWidth 60)⟩
  | .maxS g ty d a b => some ⟨0, 0x0E, g, ({ ty := ty.code, d := d, a := a, b := b : F0}).pack, none⟩
  | .maxSImmediate g ty d a imm => some ⟨0, 0x4E, g, ({ ty := ty.code, d := d, a := a, imm := imm.lo : F1}).pack, imm.x.map (·.setWidth 60)⟩
  | .cmp g ty cond d a b => some ⟨0, 0x0F, g, ({ ty := ty.code, fn := cond.code.setWidth 5, d := d.setWidth 6, a := a, b := b : F0}).pack, none⟩
  | .cmpImmediate g ty cond d a imm => some ⟨0, 0x4F, g, ({ ty := ty.code, fn := cond.code.setWidth 5, d := d.setWidth 6, a := a, imm := imm.lo : F1}).pack, imm.x.map (·.setWidth 60)⟩
  | .sel g d q a b => some ⟨0, 0x10, g, ({ d := d, q := q, a := a, b := b : F0}).pack, none⟩
  | .limm g d imm => some ⟨0, 0x11, g, ({ d := d, imm := imm.lo : F1}).pack, imm.x.map (·.setWidth 60)⟩
  | .clz g ty d a => some ⟨0, 0x12, g, ({ ty := ty.code, d := d, a := a : F0}).pack, none⟩
  | .popc g ty d a => some ⟨0, 0x13, g, ({ ty := ty.code, d := d, a := a : F0}).pack, none⟩
  | .bfx g ty d a pos len => some ⟨0, 0x14, g, ({ ty := ty.code, d := d, a := a, imm := (0#12 ++ len ++ pos) : F1}).pack, none⟩
  | .bfi g ty d a pos len => some ⟨0, 0x15, g, ({ ty := ty.code, d := d, a := a, imm := (0#12 ++ len ++ pos) : F1}).pack, none⟩
  | .fadd g ty rm d a b => some ⟨0, 0x20, g, ({ ty := ty.code, rmx := rm.code, d := d, a := a, b := b : F0}).pack, none⟩
  | .fsub g ty rm d a b => some ⟨0, 0x21, g, ({ ty := ty.code, rmx := rm.code, d := d, a := a, b := b : F0}).pack, none⟩
  | .fmul g ty rm d a b => some ⟨0, 0x22, g, ({ ty := ty.code, rmx := rm.code, d := d, a := a, b := b : F0}).pack, none⟩
  | .ffma g ty rm d a b c => some ⟨0, 0x23, g, ({ ty := ty.code, rmx := rm.code, d := d, a := a, b := b, c := c : F0}).pack, none⟩
  | .fmin g ty d a b => some ⟨0, 0x24, g, ({ ty := ty.code, d := d, a := a, b := b : F0}).pack, none⟩
  | .fmax g ty d a b => some ⟨0, 0x25, g, ({ ty := ty.code, d := d, a := a, b := b : F0}).pack, none⟩
  | .fcmp g ty cond d a b => some ⟨0, 0x26, g, ({ ty := ty.code, fn := cond.code.setWidth 5, d := d.setWidth 6, a := a, b := b : F0}).pack, none⟩
  | .fcvt g ty src rm fin sat d a => some ⟨0, 0x27, g, ({ ty := ty.code, fn := src.code.setWidth 5, rmx := rm.code, fin := BitVec.ofBool fin, sat := BitVec.ofBool sat, d := d, a := a : F0}).pack, none⟩
  | .pand g d a b => some ⟨0, 0x30, g, ({ d := d.setWidth 6, a := a.setWidth 6, b := b.setWidth 6 : F0}).pack, none⟩
  | .por g d a b => some ⟨0, 0x31, g, ({ d := d.setWidth 6, a := a.setWidth 6, b := b.setWidth 6 : F0}).pack, none⟩
  | .pxor g d a b => some ⟨0, 0x32, g, ({ d := d.setWidth 6, a := a.setWidth 6, b := b.setWidth 6 : F0}).pack, none⟩
  | .pnot g d a => some ⟨0, 0x33, g, ({ d := d.setWidth 6, a := a.setWidth 6 : F0}).pack, none⟩
  | .pcnt g d a => some ⟨0, 0x34, g, ({ d := d, a := a.setWidth 6 : F0}).pack, none⟩
  | .pfirst g d a => some ⟨0, 0x35, g, ({ d := d.setWidth 6, a := a.setWidth 6 : F0}).pack, none⟩
  | .pmov g d a => some ⟨0, 0x36, g, ({ d := d.setWidth 6, a := a.setWidth 6 : F0}).pack, none⟩
  | .pmovFromScalar g d a => some ⟨0, 0x36, g, ({ d := d.setWidth 6, a := a, fn := 1 : F0}).pack, none⟩
  | .pmovToScalar g d a => some ⟨0, 0x36, g, ({ d := d, a := a.setWidth 6, fn := 2 : F0}).pack, none⟩
  | .vadd g ty rm d a b => some ⟨1, 0x00, g, ({ ty := ty.code, rmx := rm.code, d := d.setWidth 6, a := a.setWidth 6, b := b.setWidth 6 : F0}).pack, none⟩
  | .vsub g ty rm d a b => some ⟨1, 0x01, g, ({ ty := ty.code, rmx := rm.code, d := d.setWidth 6, a := a.setWidth 6, b := b.setWidth 6 : F0}).pack, none⟩
  | .vmul g ty rm d a b => some ⟨1, 0x02, g, ({ ty := ty.code, rmx := rm.code, d := d.setWidth 6, a := a.setWidth 6, b := b.setWidth 6 : F0}).pack, none⟩
  | .vmulh g ty d a b => some ⟨1, 0x03, g, ({ ty := ty.code, d := d.setWidth 6, a := a.setWidth 6, b := b.setWidth 6 : F0}).pack, none⟩
  | .vmin g ty d a b => some ⟨1, 0x05, g, ({ ty := ty.code, d := d.setWidth 6, a := a.setWidth 6, b := b.setWidth 6 : F0}).pack, none⟩
  | .vmax g ty d a b => some ⟨1, 0x06, g, ({ ty := ty.code, d := d.setWidth 6, a := a.setWidth 6, b := b.setWidth 6 : F0}).pack, none⟩
  | .vand g ty d a b => some ⟨1, 0x09, g, ({ ty := ty.code, d := d.setWidth 6, a := a.setWidth 6, b := b.setWidth 6 : F0}).pack, none⟩
  | .vor g ty d a b => some ⟨1, 0x0A, g, ({ ty := ty.code, d := d.setWidth 6, a := a.setWidth 6, b := b.setWidth 6 : F0}).pack, none⟩
  | .vxor g ty d a b => some ⟨1, 0x0B, g, ({ ty := ty.code, d := d.setWidth 6, a := a.setWidth 6, b := b.setWidth 6 : F0}).pack, none⟩
  | .vshl g ty d a b => some ⟨1, 0x0C, g, ({ ty := ty.code, d := d.setWidth 6, a := a.setWidth 6, b := b.setWidth 6 : F0}).pack, none⟩
  | .vshr g ty d a b => some ⟨1, 0x0D, g, ({ ty := ty.code, d := d.setWidth 6, a := a.setWidth 6, b := b.setWidth 6 : F0}).pack, none⟩
  | .vsra g ty d a b => some ⟨1, 0x0E, g, ({ ty := ty.code, d := d.setWidth 6, a := a.setWidth 6, b := b.setWidth 6 : F0}).pack, none⟩
  | .vfma g ty rm d a b c => some ⟨1, 0x04, g, ({ ty := ty.code, rmx := rm.code, d := d.setWidth 6, a := a.setWidth 6, b := b.setWidth 6, c := c.setWidth 6 : F0}).pack, none⟩
  | .vabs g ty d a => some ⟨1, 0x07, g, ({ ty := ty.code, d := d.setWidth 6, a := a.setWidth 6 : F0}).pack, none⟩
  | .vneg g ty d a => some ⟨1, 0x08, g, ({ ty := ty.code, d := d.setWidth 6, a := a.setWidth 6 : F0}).pack, none⟩
  | .vmov g ty d a => some ⟨1, 0x11, g, ({ ty := ty.code, d := d.setWidth 6, a := a.setWidth 6 : F0}).pack, none⟩
  | .vclass g ty d a => some ⟨1, 0x1D, g, ({ ty := ty.code, d := d.setWidth 6, a := a.setWidth 6 : F0}).pack, none⟩
  | .vrcp g ty rm d a => some ⟨1, 0x19, g, ({ ty := ty.code, rmx := rm.code, d := d.setWidth 6, a := a.setWidth 6 : F0}).pack, none⟩
  | .vrsq g ty rm d a => some ⟨1, 0x1A, g, ({ ty := ty.code, rmx := rm.code, d := d.setWidth 6, a := a.setWidth 6 : F0}).pack, none⟩
  | .vexp2 g ty rm d a => some ⟨1, 0x1B, g, ({ ty := ty.code, rmx := rm.code, d := d.setWidth 6, a := a.setWidth 6 : F0}).pack, none⟩
  | .vlog2 g ty rm d a => some ⟨1, 0x1C, g, ({ ty := ty.code, rmx := rm.code, d := d.setWidth 6, a := a.setWidth 6 : F0}).pack, none⟩
  | .vcmp g ty cond d a b => some ⟨1, 0x0F, g, ({ ty := ty.code, fn := cond.code.setWidth 5, d := d.setWidth 6, a := a.setWidth 6, b := b.setWidth 6 : F0}).pack, none⟩
  | .vsel g d q a b => some ⟨1, 0x10, g, ({ d := d.setWidth 6, q := q, a := a.setWidth 6, b := b.setWidth 6 : F0}).pack, none⟩
  | .vbcast g ty d a => some ⟨1, 0x12, g, ({ ty := ty.code, d := d.setWidth 6, a := a : F0}).pack, none⟩
  | .viota g ty d a => some ⟨1, 0x13, g, ({ ty := ty.code, d := d.setWidth 6, a := a : F0}).pack, none⟩
  | .vperm g d a b => some ⟨1, 0x14, g, ({ d := d.setWidth 6, a := a.setWidth 6, b := b.setWidth 6 : F0}).pack, none⟩
  | .vcomp g d q a => some ⟨1, 0x15, g, ({ d := d.setWidth 6, q := q, a := a.setWidth 6 : F0}).pack, none⟩
  | .vred g ty op rm d a => some ⟨1, 0x16, g, ({ ty := ty.code, fn := op.code.setWidth 5, rmx := rm.code, d := d, a := a.setWidth 6 : F0}).pack, none⟩
  | .vscan g ty op rm d a => some ⟨1, 0x17, g, ({ ty := ty.code, fn := op.code.setWidth 5, rmx := rm.code, d := d.setWidth 6, a := a.setWidth 6 : F0}).pack, none⟩
  | .vcvt g ty src rm fin sat d a => some ⟨1, 0x18, g, ({ ty := ty.code, fn := src.code.setWidth 5, rmx := rm.code, fin := BitVec.ofBool fin, sat := BitVec.ofBool sat, d := d.setWidth 6, a := a.setWidth 6 : F0}).pack, none⟩
  | .vext g ty d a b => some ⟨1, 0x1E, g, ({ ty := ty.code, d := d, a := a.setWidth 6, b := b : F0}).pack, none⟩
  | .vins g ty d a b => some ⟨1, 0x1F, g, ({ ty := ty.code, d := d.setWidth 6, a := a, b := b : F0}).pack, none⟩
  | .vqnt g ty rm fin sat d c a => some ⟨1, 0x20, g, ({ ty := ty.code, rmx := rm.code, fin := BitVec.ofBool fin, sat := BitVec.ofBool sat, d := d.setWidth 6, c := c.setWidth 6, a := a.setWidth 6 : F0}).pack, none⟩
  | .vdqnt g ty d a b => some ⟨1, 0x21, g, ({ ty := ty.code, d := d.setWidth 6, a := a.setWidth 6, b := b.setWidth 6 : F0}).pack, none⟩
  | .vcbd g wt d a b => some ⟨1, 0x22, g, ({ fn := if wt then 1 else 0, d := d.setWidth 6, a := a.setWidth 6, b := b.setWidth 6 : F0}).pack, none⟩
  | .vpack g ty src rm fin sat d a b => some ⟨1, 0x23, g, ({ ty := ty.code, fn := src.code.setWidth 5, rmx := rm.code, fin := BitVec.ofBool fin, sat := BitVec.ofBool sat, d := d.setWidth 6, a := a.setWidth 6, b := b.setWidth 6 : F0}).pack, none⟩
  | .vunpk g ty src hi d a => some ⟨1, 0x24, g, ({ ty := ty.code, fn := BitVec.ofBool hi ++ src.code, d := d.setWidth 6, a := a.setWidth 6 : F0}).pack, none⟩
  | .mma g ty rm acd sh oba obb => some ⟨2, 0x00, g, ({ ty := ty.code, rmx := rm.code, acd := acd, sh := sh, oba := oba, obb := obb : F6}).pack, none⟩
  | .mmacb g ty rm wt acd sh oba obb => some ⟨2, 0x01, g, ({ ty := ty.code, rmx := rm.code, fl := if wt then 1 else 0, acd := acd, sh := sh, oba := oba, obb := obb : F6}).pack, none⟩
  | .mzero g acd => some ⟨2, 0x02, g, ({ acd := acd : F6}).pack, none⟩
  | .mrd g v aca b => some ⟨2, 0x03, g, ({ v := v.setWidth 6, aca := aca, s := b : F6}).pack, none⟩
  | .mwr g acd v b => some ⟨2, 0x04, g, ({ acd := acd, v := v.setWidth 6, s := b : F6}).pack, none⟩
  | .mshape g sh b off => some ⟨2, 0x05, g, ({ sh := sh, s := b, off := off : F6}).pack, none⟩
  | .ld g ty d a b off => some ⟨3, 0x00, g, ({ ty := ty.code, d := d, a := a, b := b, off := off.lo : F2}).pack, off.x.map (·.setWidth 60)⟩
  | .st g ty d a b off => some ⟨3, 0x01, g, ({ ty := ty.code, d := d, a := a, b := b, off := off.lo : F2}).pack, off.x.map (·.setWidth 60)⟩
  | .vld g ty d a b off => some ⟨3, 0x02, g, ({ ty := ty.code, d := d.setWidth 6, a := a, b := b, off := off.lo : F2}).pack, off.x.map (·.setWidth 60)⟩
  | .vst g ty d a b off => some ⟨3, 0x03, g, ({ ty := ty.code, d := d.setWidth 6, a := a, b := b, off := off.lo : F2}).pack, off.x.map (·.setWidth 60)⟩
  | .vgather g ty d a b off => some ⟨3, 0x04, g, ({ ty := ty.code, d := d.setWidth 6, a := a, b := b.setWidth 6, off := off.lo : F2}).pack, off.x.map (·.setWidth 60)⟩
  | .vscatter g ty d a b off => some ⟨3, 0x05, g, ({ ty := ty.code, d := d.setWidth 6, a := a, b := b.setWidth 6, off := off.lo : F2}).pack, off.x.map (·.setWidth 60)⟩
  | .vscadd g ty d a b off => some ⟨3, 0x06, g, ({ ty := ty.code, d := d.setWidth 6, a := a, b := b.setWidth 6, off := off.lo : F2}).pack, off.x.map (·.setWidth 60)⟩
  | .binapp g ty d a b off => some ⟨3, 0x07, g, ({ ty := ty.code, d := d.setWidth 6, a := a, b := b.setWidth 6, off := off.lo : F2}).pack, off.x.map (·.setWidth 60)⟩
  | .binrst g a off => some ⟨3, 0x08, g, ({ a := a, off := off.lo : F2}).pack, off.x.map (·.setWidth 60)⟩
  | .pref g a b off => some ⟨3, 0x09, g, ({ a := a, b := b, off := off.lo : F2}).pack, off.x.map (·.setWidth 60)⟩
  | .fence g scp sets => some ⟨3, 0x0A, g, ({ scp := scp.code, fn := sets.setWidth 4 : F2}).pack, none⟩
  | .amo g op ty scp ord d a off b => some ⟨3, 0x10, g, ({ fn := op.code.setWidth 4, ty := ty.code, scp := scp.code, ord := ord.code, d := d, a := a, off := off.lo, b := b : F3}).pack, off.x.map (·.setWidth 60)⟩
  | .acas g ty scp ord d a off b c => some ⟨3, 0x11, g, ({ ty := ty.code, scp := scp.code, ord := ord.code, d := d, a := a, off := off.lo, b := b, c := c : F3}).pack, off.x.map (·.setWidth 60)⟩
  | .pub g scp rel n b c => some ⟨4, 0x00, g, ({ scp := scp.code, ord := if rel then 2 else 0, a := n ++ 0#1, b := b, c := c : F4}).pack, none⟩
  | .subs g scp n => some ⟨4, 0x01, g, ({ scp := scp.code, a := n ++ 0#1 : F4}).pack, none⟩
  | .unsub g n => some ⟨4, 0x02, g, ({ a := n ++ 0#1 : F4}).pack, none⟩
  | .drop g n => some ⟨4, 0x04, g, ({ a := n ++ 0#1 : F4}).pack, none⟩
  | .await g p n b => some ⟨4, 0x03, g, ({ fl := if p then 1 else 0, a := n ++ 0#1, b := b : F4}).pack, none⟩
  | .strm g port dir eng scp ordf cons cv rm ty d gr a n => some ⟨4, 0x08, g, ({ sel := port.code, dir := BitVec.ofBool dir, eng := BitVec.ofBool eng, scp := scp.code, ordf := BitVec.ofBool ordf, cons := BitVec.ofBool cons, cv := BitVec.ofBool cv, rmx := rm.code, ty := ty.code, d := d, g := gr, a := a, b := n ++ 0#1 : F5}).pack, none⟩
  | .swait g a => some ⟨4, 0x09, g, ({ a := a : F5}).pack, none⟩
  | .scancel g a => some ⟨4, 0x0A, g, ({ a := a : F5}).pack, none⟩
  | .gset g gr sel a => some ⟨4, 0x0B, g, ({ g := gr, sel := sel.code, a := a : F5}).pack, none⟩
  | .spawn g d c b => some ⟨4, 0x10, g, ({ d := d, c := c, b := b : F4}).pack, none⟩
  | .bar g n => some ⟨4, 0x11, g, ({ imm := n.setWidth 16, scp := 1 : F4}).pack, none⟩
  | .barx g k n => some ⟨4, 0x12, g, ({ imm := (0#10 ++ k ++ n) : F4}).pack, none⟩
  | .br g off => some ⟨5, 0x00, g, ({ off := off : F7}).pack, none⟩
  | .brp g t q off => some ⟨5, 0x01, g, ({ fn := t.code, q := q, off := off : F7}).pack, none⟩
  | .jmp g a => some ⟨5, 0x02, g, ({ a := a : F7}).pack, none⟩
  | .call g a off => some ⟨5, 0x03, g, ({ a := a, off := off : F7}).pack, none⟩
  | .ret g a => some ⟨5, 0x04, g, ({ a := a : F7}).pack, none⟩
  | .loop g a off => some ⟨5, 0x05, g, ({ a := a, off := off : F7}).pack, none⟩
  | .nop g => some ⟨5, 0x06, g, 0, none⟩
  | .tend g => some ⟨5, 0x07, g, 0, none⟩
  | .yieldC g => some ⟨5, 0x08, g, 0, none⟩
  | .trap g code => some ⟨5, 0x10, g, ({ imm := code : F1}).pack, none⟩
  | .csrr g d n => some ⟨5, 0x11, g, ({ d := d, imm := n.setWidth 24 : F1}).pack, none⟩
  | .csrw g n a => some ⟨5, 0x12, g, ({ imm := n.setWidth 24, a := a : F1}).pack, none⟩
  | .frzrd g file d k b => some ⟨5, 0x13, g, ({ fn := file.code.setWidth 5, d := d, q := k.setWidth 4, b := b : F0}).pack, none⟩
  | .frzwr g file k b a => some ⟨5, 0x14, g, ({ fn := file.code.setWidth 5, q := k.setWidth 4, b := b, a := a : F0}).pack, none⟩
  | .frzinf g d k b => some ⟨5, 0x15, g, ({ d := d, q := k.setWidth 4, b := b : F0}).pack, none⟩
  | .resume g k => some ⟨5, 0x16, g, ({ q := k.setWidth 4 : F0}).pack, none⟩
  | .resumeAtPc g k a => some ⟨5, 0x16, g, ({ q := k.setWidth 4, a := a, sat := 1 : F0}).pack, none⟩
  | .kill g k => some ⟨5, 0x17, g, ({ q := k.setWidth 4 : F0}).pack, none⟩
  | .tlbinv g a => some ⟨5, 0x18, g, ({ a := a : F0}).pack, none⟩
  | .tlbinvAll g a => some ⟨5, 0x18, g, ({ a := a, fn := 1 : F0}).pack, none⟩
  | .clsrd g d a => some ⟨5, 0x19, g, ({ d := d, a := a : F0}).pack, none⟩
  | .sleep g n => some ⟨5, 0x1A, g, ({ imm := n : F1}).pack, none⟩
  | .issueCycle _ => none
  | .boostThread _ => none
  | .bundleCommit _ => none
  | .memoryResponse _ _ => none
  | .sleepExpiry _ => none
  | .rngRefill _ => none
  | .bankServe _ _ _ => none
  | .accessAtOwningPoint _ _ _ => none
  | .rmwPerform _ _ => none
  | .translationWalkDone _ _ _ => none
  | .tlbDrainAck _ => none
  | .scrubLine _ _ => none
  | .streamDispatch _ => none
  | .streamChunkStart _ _ => none
  | .streamChunkDone _ _ _ => none
  | .tailPublish _ => none
  | .matrixOpStart _ => none
  | .matrixOperandConsume _ => none
  | .matrixRowRead _ _ => none
  | .matrixRowWrite _ _ => none
  | .asyncFaultArrival _ => none
  | .launchWindowWrite _ _ _ => none
  | .launchSlotRead _ _ => none
  | .admission => none
  | .stageLoad _ => none
  | .stageEnd _ => none
  | .publicationArrival _ => none
  | .subscriptionArrival _ => none
  | .multicastCopy _ => none
  | .nameMatchFree _ => none
  | .publicationDelivery _ => none
  | .deferMessage _ => none
  | .resumeMessage _ => none
  | .inputCopyDone _ => none
  | .dynamicDelivery _ => none
  | .dropArrival _ => none
  | .unsubArrival _ => none
  | .pierSubscriptionArrival _ => none
  | .pierTileReadDone _ => none
  | .residencyFill => none
  | .residencyPin => none
  | .residencyUnpin => none
  | .residencyEvict => none
  | .fillComplete _ => none
  | .evictRefcZero _ => none
  | .classLoweringRequest _ => none
  | .sliceFailureReport _ => none
  | .loweringRouterDrained => none
  | .resetToken _ => none
  | .abortFlit _ => none
  | .lostTransactionTimeout _ => none
  | .heartbeatBeat _ => none
  | .heartbeatTimeout _ => none
  | .probeReply _ _ _ _ _ => none
  | .probeTimeout _ => none
  | .probeRetry _ => none
  | .keystoneProbe _ => none
  | .sensorUpdate _ _ => none
  | .throttleApply _ => none
  | .droopStretch _ => none
  | .powerGood => none
  | .stageAdvance => none
  | .safeBayReady => none
  | .waferTablesLoaded => none
  | .hbmTrainingEnd _ _ => none
  | .fullWafer => none
  | .bayWakeRequest _ => none
  | .wakeComplete _ => none
  | .bayGateRequest _ => none
  | .vacateRequest _ _ => none
  | .vacateRelease _ _ => none
  | .graceExpiry _ _ => none
  | .threadSave _ => none
  | .saveComplete _ => none
  | .rehomePhase => none
  | .foldPhase => none
  | .restoreThread _ => none
  | .checkpointRequest _ => none
  | .checkpointEnd _ => none
  | .evictorTrigger _ _ _ => none
  | .evictorPageMove => none
  | .bar2Read _ _ _ => none
  | .bar2Write _ _ _ _ => none
  | .bar2Atomicop _ _ _ _ _ _ => none
  | .registerWrite _ _ _ _ => none
  | .peerAccessArrival _ => none
  | .peerAckArrival _ _ => none
  | .cufortResendTimeout _ => none
  | .linkReplay _ => none
  | .msixUnmask _ _ => none
  | .cufortLinkUpDown _ _ => none

/-- The words of an instruction that ends its bundle: the syllable, and its X syllable where it has one. -/
def encode (i : Instr) : List (BitVec 64) :=
  match encodeSyl i with
  | none => []
  | some s =>
    match s.x with
    | none => [s.word 1]
    | some p => [s.word 0, xWord 1 p]

/-- The single instruction of a bundle of one syllable, or of one syllable and its X syllable. -/
def decodeWords : List (BitVec 64) → Option Instr
  | [w] =>
    match decodeSyl (Syl.ofWord w none) with
    | .ok i => some i
    | .error _ => none
  | [w, x] =>
    let s := Syl.ofWord w (some (x.extractLsb' 0 60))
    match s.xBits, decodeSyl s with
    | some n, .ok i => if x.extractLsb' 60 3 == 6#3 && (x.extractLsb' 0 60) >>> n == 0 then some i else none
    | _, _ => none
  | _ => none

/-- The instruction the decoder reads from the bits of one row of the operation table: a 64-bit syllable, followed by
an X syllable when the row has more than 64 bits. -/
def decodeTableWord (nbits w : Nat) : Option Instr :=
  if nbits ≤ 64 then decodeWords [BitVec.ofNat 64 w]
  else decodeWords [BitVec.ofNat 64 w, BitVec.ofNat 64 (w >>> 64)]

end Sys2Proof
end

