-- ==== Sys2Proof/Machine/Float.lean ====
section
/-! DEFINITION. The number formats of the KX3 and their one rounding (R171 to R189), the arithmetic of R400, R405 and
R406, and the four elementwise functions of R487. A real is sign, n / d and a power of two; every result is rounded
once. -/

namespace Sys2Proof

/-- Width in bits of a type (Table 6.3, R173 to R175). S20 and CB2 values take 32 and 16 bits of their container. -/
def Ty.bits : Ty → Nat
  | .u8 => 8 | .i8 => 8 | .u16 => 16 | .i16 => 16 | .u32 => 32 | .i32 => 32 | .u64 => 64 | .i64 => 64
  | .e4m3 => 8 | .e5m2 => 8 | .f16 => 16 | .bf16 => 16 | .f32 => 32 | .s20 => 20 | .cb2 => 16

/-- The signed integer types. -/
def Ty.signed : Ty → Bool
  | .i8 => true | .i16 => true | .i32 => true | .i64 => true | _ => false

/-- The integer types. -/
def Ty.isInt (t : Ty) : Bool := t.code.toNat < 8

/-- The floating-point types. -/
def Ty.isFloat (t : Ty) : Bool := tyIn 0x1F00 t.code

/-- The least value of an integer type. -/
def Ty.least (t : Ty) : Int := if t.signed then -(2 ^ (t.bits - 1)) else 0
/-- The greatest value of an integer type. -/
def Ty.greatest (t : Ty) : Int := if t.signed then 2 ^ (t.bits - 1) - 1 else 2 ^ t.bits - 1

end Sys2Proof

namespace Sys2Proof.Machine

/-- A floating-point format of Table 8.1. `inf` is false for E4M3, which has no infinity. -/
structure Fmt where
  eb : Nat
  fb : Nat
  bias : Int
  inf : Bool
  deriving DecidableEq, Repr

/-- FP32. -/
def fp32 : Fmt := ⟨8, 23, 127, true⟩
/-- FP16. -/
def fp16 : Fmt := ⟨5, 10, 15, true⟩
/-- BF16. -/
def bf16 : Fmt := ⟨8, 7, 127, true⟩
/-- FP8 E4M3. -/
def e4m3 : Fmt := ⟨4, 3, 7, false⟩
/-- FP8 E5M2. -/
def e5m2 : Fmt := ⟨5, 2, 15, true⟩

/-- The format of a floating-point type code; FP32 for the others, which no caller asks for. -/
def tyFmt : Ty → Fmt
  | .e4m3 => e4m3 | .e5m2 => e5m2 | .f16 => fp16 | .bf16 => bf16 | _ => fp32


/-- A value of a floating-point format: NaN, an infinity, or (−1)^neg · m · 2^e. -/
inductive FV where
  | nan
  | inf (neg : Bool)
  | num (neg : Bool) (m : Nat) (e : Int)
  deriving DecidableEq, Repr

/-- The bit of the sign of a format. -/
def Fmt.top (f : Fmt) : Nat := f.eb + f.fb

/-- The all-ones exponent. -/
def Fmt.emax (f : Fmt) : Nat := 2 ^ f.eb - 1

/-- The value a bit pattern stands for (R171, R172). -/
def Fmt.value (f : Fmt) (x : Nat) : FV :=
  let neg := x / 2 ^ f.top % 2 == 1
  let e := x / 2 ^ f.fb % 2 ^ f.eb
  let m := x % 2 ^ f.fb
  if e == f.emax && f.inf then (if m == 0 then .inf neg else .nan)
  else if e == f.emax && m == 2 ^ f.fb - 1 then .nan
  else if e == 0 then .num neg m (1 - f.bias - f.fb)
  else .num neg (2 ^ f.fb + m) (e - f.bias - f.fb)

/-- The canonical NaN (Table 8.2). -/
def Fmt.nan (f : Fmt) : Nat :=
  if f.inf then f.emax * 2 ^ f.fb + 2 ^ (f.fb - 1) else 2 ^ f.top - 1

/-- The pattern of a sign. -/
def Fmt.sign (f : Fmt) (neg : Bool) : Nat := if neg then 2 ^ f.top else 0

/-- The pattern of an infinity; E4M3 has none and takes its NaN. -/
def Fmt.infBits (f : Fmt) (neg : Bool) : Nat :=
  if f.inf then f.sign neg + f.emax * 2 ^ f.fb else f.nan

/-- The largest finite value, or its negative. -/
def Fmt.largest (f : Fmt) (neg : Bool) : Nat :=
  f.sign neg + (if f.inf then f.emax * 2 ^ f.fb - 1 else 2 ^ f.top - 2)

/-- The rounding modes of Table 5.3, by the code of ctl.rm. -/
inductive Mode where
  | rne | rtz | rup | rdn | rna | sr
  deriving DecidableEq, Repr

/-- The mode of a ctl.rm code. -/
def Mode.ofCode (n : Nat) : Mode :=
  match n with
  | 1 => .rtz | 2 => .rup | 3 => .rdn | 4 => .rna | 5 => .sr | _ => .rne

/-- floor(n / d · 2^s), the remainder and its divisor. -/
def scaled (n d : Nat) (s : Int) : Nat × Nat × Nat :=
  if 0 ≤ s then
    let a := n * 2 ^ s.toNat
    (a / d, a % d, d)
  else
    let b := d * 2 ^ (-s).toNat
    (n / b, n % b, b)

/-- The exponent E with 2^E ≤ n / d · 2^e < 2^(E + 1), for n > 0. -/
def expo (n d : Nat) (e : Int) : Int :=
  let l : Int := (n.log2 : Int) - (d.log2 : Int) + e
  if (scaled n d (e - l)).1 = 0 then l - 1 else l

/-- Table 8.3 and R183: whether a magnitude q + r / den rounds to q + 1. -/
def roundsUp (mode : Mode) (u : Nat) (neg : Bool) (q r den : Nat) : Bool :=
  match mode with
  | .rne => den < 2 * r || (2 * r == den && q % 2 == 1)
  | .rtz => false
  | .rup => !neg && r != 0
  | .rdn => neg && r != 0
  | .rna => den ≤ 2 * r
  | .sr => r != 0 && 65536 ≤ 65536 * r / den + u

/-- The magnitude n / d · 2^e as an integer multiple of 2^k, rounded, and whether that is inexact. -/
def roundAt (mode : Mode) (u : Nat) (neg : Bool) (n d : Nat) (e k : Int) : Nat × Bool :=
  let p := scaled n d (e - k)
  (if roundsUp mode u neg p.1 p.2.1 p.2.2 then p.1 + 1 else p.1, p.2.1 != 0)

/-- A rounded result: its bits, the flags it sets and whether it is poisoned by its conversion. -/
structure RRes where
  bits : Nat
  flags : Flags
  poison : Bool
  deriving DecidableEq, Repr

/-- R184, Table 8.4: the result of an overflow. -/
def Fmt.overflow (f : Fmt) (mode : Mode) (sat neg : Bool) : RRes :=
  let big := sat || (match mode with
    | .rtz => true
    | .rup => neg
    | .rdn => !neg
    | _ => false)
  ⟨if big then f.largest neg else f.infBits neg, flagOf ||| flagNx ||| flagIf (!big && !f.inf) flagNv, false⟩

/-- R182 to R185: Round of (−1)^neg · n / d · 2^e to a floating-point format; n = 0 gives the zero of that sign. -/
def Fmt.round (f : Fmt) (mode : Mode) (u : Nat) (sat neg : Bool) (n d : Nat) (e : Int) : RRes :=
  if n = 0 then ⟨f.sign neg, 0, false⟩
  else
    let x := expo n d e
    let emin : Int := 1 - f.bias
    let k := (if x < emin then emin else x) - f.fb
    let p := roundAt mode u neg n d e k
    let q := p.1
    let ef : Int := k + f.fb + f.bias
    -- q = 2^(fb + 1) is the next power of two
    let bits : Nat := if q < 2 ^ f.fb then q else (ef.toNat - 1) * 2 ^ f.fb + q
    if f.largest false < bits then f.overflow mode sat neg
    else
      let tiny := x < emin && !(x == emin - 1 && (roundAt mode u neg n d e (x - f.fb)).1 == 2 ^ (f.fb + 1))
      ⟨f.sign neg + bits, flagIf p.2 flagNx ||| flagIf (p.2 && tiny) flagUf, false⟩

/-- Round of a value; a NaN gives the canonical NaN and an infinity itself. -/
def Fmt.roundFV (f : Fmt) (mode : Mode) (u : Nat) : FV → RRes
  | .nan => ⟨f.nan, 0, false⟩
  | .inf neg => ⟨f.infBits neg, 0, false⟩
  | .num neg m e => f.round mode u false neg m 1 e

/-- The exact product of two values; 0 × ∞ is NaN. -/
def FV.mul : FV → FV → FV
  | .nan, _ => .nan
  | _, .nan => .nan
  | .inf a, .inf b => .inf (a != b)
  | .inf a, .num b m _ => if m = 0 then .nan else .inf (a != b)
  | .num b m _, .inf a => if m = 0 then .nan else .inf (a != b)
  | .num a m e, .num b n g => .num (a != b) (m * n) (e + g)

/-- Whether a product is 0 × ∞. -/
def FV.mulInvalid : FV → FV → Bool
  | .inf _, .num _ m _ => m == 0
  | .num _ m _, .inf _ => m == 0
  | _, _ => false

/-- The value with its sign inverted. -/
def FV.negate : FV → FV
  | .nan => .nan
  | .inf a => .inf (!a)
  | .num a m e => .num (!a) m e

/-- The signed integer multiple of 2^k that a finite value is, for k at most its exponent. -/
def FV.scaledInt (k : Int) : FV → Int
  | .num a m e => (if a then -1 else 1) * (m * 2 ^ (e - k).toNat : Nat)
  | _ => 0

/-- The exponent of a finite value. -/
def FV.exp : FV → Int
  | .num _ _ e => e
  | _ => 0

/-- The sign of a value. -/
def FV.neg : FV → Bool
  | .nan => false
  | .inf a => a
  | .num a _ _ => a

/-- Whether a value is a zero. -/
def FV.isZero : FV → Bool
  | .num _ m _ => m == 0
  | _ => false

/-- The least of a list of exponents. -/
def leastExp (l : List Int) : Int :=
  match l with
  | [] => 0
  | a :: t => t.foldl (fun x y => if y < x then y else x) a

/-- R182: the exact sum of values, with the sign an exact zero takes in the mode. Infinities of both signs give NaN. -/
def FV.sum (mode : Mode) (l : List FV) : FV :=
  if l.any (· == .nan) then .nan
  else
    let p := l.any (· == .inf false)
    let m := l.any (· == .inf true)
    if p && m then .nan
    else if p then .inf false
    else if m then .inf true
    else
      let k := leastExp (l.map FV.exp)
      let t := (l.map (FV.scaledInt k)).foldl (· + ·) 0
      if t = 0 then
        .num (if l.all FV.isZero && l.all (fun v => v.neg) then true
              else if l.all FV.isZero && l.all (fun v => !v.neg) then false
              else mode == .rdn) 0 0
      else .num (t < 0) t.natAbs k

/-- Whether a sum is ∞ − ∞ without a NaN operand. -/
def FV.sumInvalid (l : List FV) : Bool :=
  !l.any (· == .nan) && l.any (· == .inf false) && l.any (· == .inf true)

/-- R400: x + y rounded. -/
def fAdd (f : Fmt) (mode : Mode) (u x y : Nat) : RRes :=
  let l := [f.value x, f.value y]
  let r := f.roundFV mode u (FV.sum mode l)
  { r with flags := r.flags ||| flagIf (FV.sumInvalid l) flagNv }

/-- R400: x − y rounded. -/
def fSub (f : Fmt) (mode : Mode) (u x y : Nat) : RRes :=
  let l := [f.value x, (f.value y).negate]
  let r := f.roundFV mode u (FV.sum mode l)
  { r with flags := r.flags ||| flagIf (FV.sumInvalid l) flagNv }

/-- R400: x × y rounded. -/
def fMul (f : Fmt) (mode : Mode) (u x y : Nat) : RRes :=
  let r := f.roundFV mode u ((f.value x).mul (f.value y))
  { r with flags := r.flags ||| flagIf ((f.value x).mulInvalid (f.value y)) flagNv }

/-- R405: x × y + z with one rounding. -/
def fFma (f : Fmt) (mode : Mode) (u x y z : Nat) : RRes :=
  let p := (f.value x).mul (f.value y)
  let r := f.roundFV mode u (FV.sum mode [p, f.value z])
  { r with flags := r.flags |||
      flagIf ((f.value x).mulInvalid (f.value y) || FV.sumInvalid [p, f.value z]) flagNv }

/-- The exact order of two values that are not NaN. -/
def FV.lt : FV → FV → Bool
  | .inf a, .inf b => a && !b
  | .inf a, _ => a
  | _, .inf b => !b
  | x, y =>
    let k := if x.exp < y.exp then x.exp else y.exp
    decide (x.scaledInt k < y.scaledInt k)

/-- R406: the smaller operand (`max` false) or the larger, −0 below +0; a NaN gives way to the other operand. -/
def fMinMax (f : Fmt) (max : Bool) (x y : Nat) : Nat :=
  match f.value x, f.value y with
  | .nan, .nan => f.nan
  | .nan, _ => y
  | _, .nan => x
  | a, b =>
    let less := a.lt b || (a.isZero && b.isZero && a.neg && !b.neg)
    let more := b.lt a || (a.isZero && b.isZero && b.neg && !a.neg)
    if max then (if less then y else x) else (if more then y else x)

/-- Table 17.6 and R401: a condition on two floating-point operands, and the flag it sets. -/
def fCmp (f : Fmt) (c : Cond) (x y : Nat) : Bool × Flags :=
  let a := f.value x
  let b := f.value y
  let un := a == .nan || b == .nan
  let lt := !un && a.lt b
  let gt := !un && b.lt a
  match c with
  | .eq => (!un && !lt && !gt, 0)
  | .ne => (un || lt || gt, 0)
  | .lt => (lt, flagIf un flagNv)
  | .le => (!un && !gt, flagIf un flagNv)
  | .gt => (gt, flagIf un flagNv)
  | .ge => (!un && !lt, flagIf un flagNv)
  | .un => (un, 0)
  | .nun => (!un, 0)

/-- The signed or unsigned reading of the low w bits of a pattern. -/
def readInt (t : Ty) (x : Nat) : Int :=
  let y := x % 2 ^ t.bits
  if t.signed && 2 ^ (t.bits - 1) ≤ y then (y : Int) - 2 ^ t.bits else y

/-- The low w bits of an integer. -/
def intBits (t : Ty) (v : Int) : Nat := (v % 2 ^ t.bits).toNat

/-- R188: a real rounded to an integer type; out of range it takes the end on its side and sets nv alone. -/
def roundInt (t : Ty) (mode : Mode) (u : Nat) (neg : Bool) (n d : Nat) (e : Int) : RRes :=
  let p := roundAt mode u neg n d e 0
  let v : Int := if neg then -(p.1 : Int) else p.1
  if v < t.least then ⟨intBits t t.least, flagNv, false⟩
  else if t.greatest < v then ⟨intBits t t.greatest, flagNv, false⟩
  else ⟨intBits t v, flagIf p.2 flagNx, false⟩

/-- The value of an S20 scale (R175): none for a NaN scale, else f and e of f · 2^e. -/
def s20Value (x : Nat) : Option (Nat × Int) :=
  let e := x / 4096 % 256
  if e == 255 then none
  else if e == 0 then some (0, 0)
  else some (4096 + x % 4096, (e : Int) - 139)

/-- A NaN scale: e = 255; R175 states no fraction for one that a conversion writes, so it is free (log entry 9). -/
def s20Nan (x : Nat) : Nat := 0xFF000 + (Config.nanFrac x).toNat

/-- R176: a nonnegative real rounded to an S20 scale. -/
def roundS20 (mode : Mode) (u : Nat) (sat : Bool) (x0 n d : Nat) (e : Int) : RRes :=
  if n = 0 then ⟨0, 0, false⟩
  else
    let x := expo n d e
    if x < -126 then
      let p := roundAt mode u false n d e (-126)
      ⟨p.1 * 4096, flagIf p.2 flagNx ||| flagIf (p.2 && !(x == -127 &&
        (roundAt mode u false n d e (x - 12)).1 == 8192)) flagUf, false⟩
    else
      let p := roundAt mode u false n d e (x - 12)
      let bits := ((x + 126).toNat) * 4096 + p.1
      if 0xFEFFF < bits then ⟨if sat then 0xFEFFF else s20Nan x0, flagOf ||| flagNx, false⟩
      else ⟨bits, flagIf p.2 flagNx, false⟩

/-- Conversions between types (Table 17.7): R176, R186 to R189, with `.fin` and `.sat`. A NaN scale converted to S20 sets no flag, as R403
names nv for an integer destination only (DEDUCED, log entry 120). -/
def convert (dst src : Ty) (mode : Mode) (u : Nat) (fin sat : Bool) (x : Nat) : RRes :=
  let toReal (neg : Bool) (n : Nat) (e : Int) : RRes :=
    if dst.isFloat then (tyFmt dst).round mode u sat neg n 1 e
    else if dst == .s20 then
      (if neg then ⟨s20Nan x, flagNv, false⟩ else roundS20 mode u sat x n 1 e)
    else roundInt dst mode u neg n 1 e
  let nanRes (fl : Flags) (poison : Bool) : RRes :=
    if dst.isFloat then ⟨(tyFmt dst).nan, 0, poison⟩
    else if dst == .s20 then ⟨if fl == 0 && fin then 0 else s20Nan x, fl, poison⟩
    else ⟨0, fl, poison⟩
  if src.isInt then
    let v := readInt src x
    if dst.isInt then
      (if sat && v < dst.least then ⟨intBits dst dst.least, 0, false⟩
       else if sat && dst.greatest < v then ⟨intBits dst dst.greatest, 0, false⟩
       else ⟨intBits dst v, 0, false⟩)
    else toReal (v < 0) v.natAbs 0
  else if src == .s20 then
    match s20Value (x % 2 ^ 20) with
    | none => if fin then nanRes 0 true else if dst == .s20 then ⟨s20Nan x, 0, true⟩ else nanRes (if dst.isInt then flagNv else 0) true
    | some (m, e) => toReal false m e
  else
    match (tyFmt src).value (x % 2 ^ src.bits) with
    | .nan => if fin then nanRes 0 true else nanRes flagNv false
    | .inf neg =>
      if fin then nanRes 0 true
      else if dst.isFloat then
        (if sat then ⟨(tyFmt dst).largest neg, 0, false⟩
         else ⟨(tyFmt dst).infBits neg, flagIf (!(tyFmt dst).inf) flagNv, false⟩)
      else if dst == .s20 then
        (if neg then ⟨s20Nan x, flagNv, false⟩
         else ⟨if sat then 0xFEFFF else s20Nan x, flagOf ||| flagNx, false⟩)
      else ⟨intBits dst (if neg then dst.least else dst.greatest), flagNv, false⟩
    | .num neg m e => toReal neg m e

/-- R174: a value of w bits extended to a wider register by its type. -/
def extend (t : Ty) (width x : Nat) : Nat :=
  if t.signed then ((readInt t x) % (2 ^ width : Int)).toNat else x % 2 ^ t.bits

/-- floor(√n), by fuel over the bits of the root. -/
def isqrtBits : Nat → Nat → Nat → Nat
  | 0, _, r => r
  | b + 1, n, r => isqrtBits b n (if (r + 2 ^ b) * (r + 2 ^ b) ≤ n then r + 2 ^ b else r)

/-- floor(√n). -/
def isqrt (n : Nat) : Nat := isqrtBits (n.log2 / 2 + 1) n 0

/-- The working precision of the elementwise functions, in fraction bits. -/
def fnBits : Nat := 256

/-- floor(ln 2 · 2^320). -/
def ln2Fix : Nat :=
  0xb17217f7d1cf79abc9e3b39803f2f6af40f343267298b62d8a0d175b8baafa2be7b876206debac98

/-- The terms of e^y: `term` is y^j / j! in units of 2^-320. -/
def expTerms : Nat → Nat → Nat → Nat → Nat → Nat
  | 0, _, _, _, acc => acc
  | fuel + 1, j, y, term, acc => expTerms fuel (j + 1) y (term * y / 2 ^ 320 / (j + 1)) (acc + term)

/-- 2^(f / 2^t) for f < 2^t in units of 2^-320, below the exact value by less than 2^-300. -/
def exp2Frac (f t : Nat) : Nat := expTerms 80 0 (f * ln2Fix / 2 ^ t) (2 ^ 320) 0

/-- The binary digits of log2 y for y in [1, 2) in units of 2^-512, most significant first. -/
def log2Digits : Nat → Nat → Nat → Nat
  | 0, _, r => r
  | b + 1, y, r =>
    let z := y * y / 2 ^ 512
    if 2 ^ 513 ≤ z then log2Digits b (z / 2) (2 * r + 1) else log2Digits b z (2 * r)

/-- R487: 2^x, a real strictly inside its last unit unless x is an integer. -/
def exp2Real (f : Fmt) (mode : Mode) (u : Nat) (neg : Bool) (m : Nat) (e : Int) : RRes :=
  -- x as an integer part and a fraction of t bits
  let t := (-e).toNat
  let a : Int := (if neg then -1 else 1) * (if 0 ≤ e then m * 2 ^ e.toNat else m : Nat)
  if 0 ≤ e || a % 2 ^ t == 0 then
    let i := if 0 ≤ e then a else a / 2 ^ t
    if 400 < i then f.round mode u false false 1 1 400
    else if i < -400 then f.round mode u false false 1 1 (-400) else f.round mode u false false 1 1 i
  else
    let i := a / 2 ^ t
    if 400 < i then f.round mode u false false 3 1 400
    else if i < -400 then f.round mode u false false 3 1 (-400)
    else
      let q := exp2Frac ((a % 2 ^ t).toNat) t / 2 ^ (320 - fnBits)
      f.round mode u false false (2 * q + 1) 1 (i - fnBits - 1)

/-- R487: log2 of a positive real m · 2^e. -/
def log2Real (f : Fmt) (mode : Mode) (u : Nat) (m : Nat) (e : Int) : RRes :=
  let l := m.log2
  let i : Int := l + e
  if m == 2 ^ l then
    (if i == 0 then ⟨0, 0, false⟩ else f.round mode u false (i < 0) i.natAbs 1 0)
  else
    let q := log2Digits 200 (m * 2 ^ (512 - l)) 0
    -- the value lies strictly between i + q / 2^200 and i + (q + 1) / 2^200
    let v : Int := 2 * (i * 2 ^ 200 + q) + 1
    f.round mode u false (v < 0) v.natAbs 1 (-201)

/-- R487: 1 / √(m · 2^e) of a positive real. -/
def rsqReal (f : Fmt) (mode : Mode) (u : Nat) (m : Nat) (e : Int) : RRes :=
  let odd := e % 2 == 1
  let n := if odd then 2 * m else m
  let h := if odd then (e - 1) / 2 else e / 2
  let q := isqrt (2 ^ 512 / n)
  if q * q * n == 2 ^ 512 then f.round mode u false false q 1 (-h - 256)
  else f.round mode u false false (2 * q + 1) 1 (-h - 257)

/-- The elementwise functions. -/
inductive Elementary where
  | rcp | rsq | exp2 | log2
  deriving DecidableEq, Repr

/-- R487 and Table 20.2: one lane of an elementwise function. -/
def elementary (fn : Elementary) (f : Fmt) (mode : Mode) (u x : Nat) : RRes :=
  match f.value x with
  | .nan => ⟨f.nan, 0, false⟩
  | .inf neg =>
    match fn with
    | .rcp => ⟨f.sign neg, 0, false⟩
    | .rsq => if neg then ⟨f.nan, flagNv, false⟩ else ⟨0, 0, false⟩
    | .exp2 => if neg then ⟨0, 0, false⟩ else ⟨f.infBits false, 0, false⟩
    | .log2 => if neg then ⟨f.nan, flagNv, false⟩ else ⟨f.infBits false, 0, false⟩
  | .num neg m e =>
    if m = 0 then
      match fn with
      | .rcp => ⟨f.infBits neg, flagDz, false⟩
      | .rsq => ⟨f.infBits neg, flagDz, false⟩
      | .exp2 => f.round mode u false false 1 1 0
      | .log2 => ⟨f.infBits true, flagDz, false⟩
    else
      match fn with
      | .rcp => f.round mode u false neg 1 m (-e)
      | .rsq => if neg then ⟨f.nan, flagNv, false⟩ else rsqReal f mode u m e
      | .exp2 => exp2Real f mode u neg m e
      | .log2 => if neg then ⟨f.nan, flagNv, false⟩ else log2Real f mode u m e

/-- Table 19.9: the class bit of a floating-point pattern. -/
def classify (f : Fmt) (x : Nat) : Nat :=
  match f.value x with
  | .nan => 256
  | .inf neg => if neg then 1 else 128
  | .num neg m e =>
    if m = 0 then (if neg then 8 else 16)
    else if m < 2 ^ f.fb && e == 1 - f.bias - f.fb then (if neg then 4 else 32)
    else if neg then 2 else 64

end Sys2Proof.Machine
end

