-- ==== Sys2Proof/Machine/Maps.lean ====
section
/-! DEFINITION. The sparse maps of the model: sorted lists of keys and values, and the maps that list no default. -/

namespace Sys2Proof.Machine

/-- The value listed at a key. -/
def find {α : Type} (k : Nat) : Map α → Option α
  | [] => none
  | (j, a) :: m => if k = j then some a else find k m

/-- The map with a key listed at a value; keys stay strictly rising. -/
def put {α : Type} (k : Nat) (a : α) : Map α → Map α
  | [] => [(k, a)]
  | (j, b) :: m => if k < j then (k, a) :: (j, b) :: m else if k = j then (k, a) :: m else (j, b) :: put k a m

/-- The map without a key. -/
def del {α : Type} (k : Nat) : Map α → Map α
  | [] => []
  | (j, b) :: m => if k = j then del k m else (j, b) :: del k m

/-- The value at a key of a map that lists no `d`. -/
def getD {α : Type} (d : α) (k : Nat) (m : Map α) : α := (find k m).getD d

/-- Writing a map that lists no `d`: writing `d` removes the entry. -/
def setD {α : Type} [DecidableEq α] (d : α) (k : Nat) (a : α) (m : Map α) : Map α :=
  if a = d then del k m else put k a m

/-- Keys strictly rising, all above a bound. -/
def keysAbove {α : Type} (b : Nat) : Map α → Bool
  | [] => true
  | (j, _) :: m => decide (b ≤ j) && keysAbove (j + 1) m

/-- The canonical form of a map: keys strictly rising. -/
def mapWf {α : Type} (m : Map α) : Bool := keysAbove 0 m

/-- The element at an index of a list, or a default. -/
def nth {α : Type} (d : α) : List α → Nat → α
  | [], _ => d
  | a :: _, 0 => a
  | _ :: l, n + 1 => nth d l n

/-- The list with the element at an index replaced; an index past the end changes nothing. -/
def setNth {α : Type} (a : α) : List α → Nat → List α
  | [], _ => []
  | _ :: l, 0 => a :: l
  | b :: l, n + 1 => b :: setNth a l n

/-- The list without the element at an index. -/
def dropNth {α : Type} : List α → Nat → List α
  | [], _ => []
  | _ :: l, 0 => l
  | b :: l, n + 1 => b :: dropNth l n

/-- 0 to n − 1. -/
def upTo (n : Nat) : List Nat := List.range n

/-- The first of a list that a function answers for. -/
def pick {α β : Type} (f : α → Option β) : List α → Option β
  | [] => none
  | a :: l => match f a with
    | some b => some b
    | none => pick f l

/-- A list with the elements of another that it does not hold. -/
def join {α : Type} [BEq α] (a b : List α) : List α := a ++ b.filter (fun x => !a.contains x)

end Sys2Proof.Machine
end

