-- ==== Sys2Proof/Machine/State.lean ====
section
/-! DEFINITION. The state of the KX3: threads, tile cores, memory, names, graphs, the keystone and the outside ends of
its links, as plain data. Maps list no default value, so equal machines are equal data. -/

namespace Sys2Proof.Machine

/-- The fault classes of R9 (Table 0.4). -/
inductive FaultClass where
  | xlate | perm | align | atomroute | shape | illegal | priv | poisonsink | poisondep | scope | homepath | trapsw
  | preempt | nest
  deriving DecidableEq, Repr

/-- A scalar register with its shadow bit (R115). -/
structure SVal where
  val : Word
  poison : Bool
  deriving DecidableEq, Repr

/-- A vector lane, or an accumulator element, with its shadow bit (R115). -/
structure Lane where
  val : BitVec 32
  poison : Bool
  deriving DecidableEq, Repr

/-- A vector register: 64 lanes, lane 0 first. -/
abbrev Vec := List Lane

/-- A shape register: the 128 bits of Table 9.3 and the valid bit (R210). -/
structure Shape where
  bits : BitVec 128
  valid : Bool
  deriving DecidableEq, Repr

/-- A capability: the uid of a thread and its freeze number when it was made (R120). -/
structure Cap where
  uid : Nat
  gen : Nat
  deriving DecidableEq, Repr

/-- The random-bit queue (R128, R132): ctl.rngq and the entries by position. -/
structure Rng where
  ctr : BitVec 48
  head : BitVec 2
  cnt : Nat
  ent : Map (BitVec 1024)
  deriving DecidableEq, Repr

/-- The registers of one thread (Table 5.1, Tables 5.3 to 5.8). Registers a map does not list hold zero, clean. -/
structure Regs where
  s : Map SVal
  v : Map Vec
  p : Map Word
  sh : Map Shape
  g : Map (BitVec 256)
  k0 : Option Cap
  rm : BitVec 3
  psink : Bool
  fflags : BitVec 5
  seed : Word
  rng : Rng
  tag : BitVec 24
  inst : BitVec 48
  boost : Bool
  lprio : BitVec 3
  level : BitVec 3
  deriving DecidableEq, Repr

/-- The fault record of Table 14.2; `FaultRec.word` in Machine/Base.lean packs it. -/
structure FaultRec where
  cls : FaultClass
  lvl : Nat
  slot : Nat
  x : Nat
  y : Nat
  tag : BitVec 24
  inst : BitVec 48
  epoch : BitVec 16
  pc : BitVec 22
  nsyl : Nat
  fsyl : Nat
  syl : Word
  addr : Option (BitVec 53)
  aux : Word
  cyc : Word
  via : Nat
  hsite : Nat
  deriving DecidableEq, Repr

/-- An asynchronous fault that reached a thread (R296): its class, address word and auxiliary word. -/
structure AFault where
  cls : FaultClass
  addr : Option (BitVec 53)
  aux : Word
  deriving DecidableEq, Repr

/-- Why a thread is not ready (R106). -/
inductive Wait where
  /-- An entry of a stream queue or of the network interface that the next bundle needs (R243, R288). -/
  | operand
  /-- Random bits that the next bundle draws; it waits in place, at issue (R133). -/
  | bits
  /-- A condition its bundle waits on: AWAIT, SWAIT, BAR, FENCE, TEND, TLBINV, SPAWN, a payload read, a moving page. -/
  | cond
  /-- SLEEP until ctl.cyc reaches the target (R457). -/
  | sleep (until_ : Word)
  /-- It executed YIELD in the cycle just past. -/
  | yield
  /-- An access to a lent window that the partner has not accepted (R313): its address and syllable, whether it is of store
  type, and the entries of the network interface that it has taken. -/
  | lent (va : Nat) (idx : Nat) (store : Bool) (lines : Nat)
  /-- A store-type access to a lent window, issued before its partner was lost (R40): its syllable, and the lost partner with the slot
  of the window. -/
  | gone (idx : Nat) (part : Nat) (slot : Nat)
  deriving DecidableEq, Repr

/-- Ready, waiting or frozen (R106, R314). -/
inductive Status where
  | ready
  | waiting (w : Wait)
  | frozen
  deriving DecidableEq, Repr

/-- What a thread is: a task instance, a handler of level 1 or 2 with the thread it serves, or the alert thread. -/
inductive Kind where
  | task
  | handler (level : Nat) (serves : Nat)
  | alert (reg : Nat)
  deriving DecidableEq, Repr

/-- A publication: the header fields of Table 3.3 and the payload. -/
structure Pub where
  name : Name
  nsub : Nat
  sv : Bool
  splane : BitVec 8
  pmap : Word
  rel : Bool
  clean : Bool
  wp : Bool
  scope : Nat
  fmt : Nat
  data : List Byte
  deriving DecidableEq, Repr

/-- A dynamic subscription of a slot (R378): its name, its number among those of its thread, the widest scope it accepts, what
reached it. -/
structure DynSub where
  name : Name
  seq : Nat
  scope : Nat
  got : Option Pub
  bad : Bool
  deriving DecidableEq, Repr

/-- A bound input of an instance (R70): subscription index, offset, length, whether wholly poisoned without `.p`. -/
structure Input where
  sub : Nat
  off : Nat
  pub : Pub
  bad : Bool
  deriving DecidableEq, Repr

/-- What a bundle read when it issued, and keeps until it commits (R112, R180): the registers as they stood before it, ctl.cyc,
the control registers that it reads, its snapshot of the writable table, the shapes that its MSHAPEs have loaded, by register, and the
payload that its PUB has read, with the poison of each byte. -/
structure Kept where
  src : Regs
  cyc : Word
  csrs : Map Word
  table : Option (List Byte × BitVec 8)
  shapes : Map Shape
  payload : Option (List Byte × List Bool)
  deriving DecidableEq, Repr

/-- A bundle that has issued and waits to commit (R314). -/
structure Waiting where
  words : List Word
  kept : Kept
  deriving DecidableEq, Repr

/-- One thread (R55, R105): a task instance, handler or alert thread in a context slot. -/
structure Thread where
  uid : Nat
  kind : Kind
  graph : Option Nat
  priv : Nat
  regs : Regs
  pc : Word
  status : Status
  bundle : Option Waiting
  fault : Option FaultRec
  fzGen : Nat
  pass : Bool
  held : List AFault
  dyn : List DynSub
  /-- How many dynamic subscriptions it has made. -/
  subsN : Nat
  inputs : List Input
  member : Option (Nat × Nat)
  arrived : BitVec 16
  excused : List (Nat × Nat)
  episode : Map Nat
  /-- A killed thread whose started matrix operations run to their end (R225, R329). -/
  dying : Bool
  strm0 : Nat
  strm1 : Nat
  start : Word
  ran : Nat
  waited : Nat
  /-- The words of its next bundle that have been fetched, while others wait at their banks: address in the device, word (R141). -/
  fetched : List (Nat × Word)
  deriving DecidableEq, Repr

/-- The path of an access (R263): the port and the address range it travels. -/
inductive Path where
  | own | view | sys | bonded | hbm | host | peer
  deriving DecidableEq, Repr

/-- What an access does at its owning point. -/
inductive AccKind where
  | load
  | store
  | amo (op : AmoOp)
  | cas
  | scadd
  /-- The table's T and the header's ncell, cap, cntoff, binoff, ofoff and ofcap as the check read them. -/
  | binapp (t ncell cap cntoff binoff ofoff ofcap : Nat)
  | binrst (t ncell cntoff : Nat)
  deriving DecidableEq, Repr

/-- The register an access writes when it returns; or it is the read of the payload of a PUB. -/
inductive Dst where
  | none
  | s (r : SReg)
  | v (r : VReg)
  | sh (r : ShReg)
  | payload
  deriving DecidableEq, Repr

/-- One single-copy-atomic unit of an access (R238): its address, owning location, operands and result. -/
structure Elem where
  lanes : List Nat
  va : Nat
  pa : Nat
  w : Nat
  path : Path
  data : Word
  data2 : Word
  mask : List Bool
  done : Bool
  sent : Bool
  /-- The packet that carries it, or its answer, was cut (R50). -/
  cut : Bool
  got : Word
  gotP : Bool
  deriving DecidableEq, Repr

/-- Who a sink charges: context, tag, instance, slot and tile (Table 14.5). -/
structure Who where
  ctx : Nat
  tag : BitVec 24
  inst : BitVec 48
  slot : Nat
  tile : Nat
  deriving DecidableEq, Repr

/-- An access in flight (R264); `serves` is the frozen thread that its handler thread serves (R278). -/
structure Access where
  id : Nat
  uid : Nat
  tile : Nat
  kind : AccKind
  ty : Ty
  dst : Dst
  poison : Bool
  elems : List Elem
  scp : Nat
  acq : Bool
  rel : Bool
  ctx : Nat
  who : Who
  psink : Bool
  /-- A translation of it missed the TLB of its tile (R306). -/
  miss : Bool
  /-- The leaves whose cached translations it used: address and size (R309). -/
  leaves : List (Nat × Nat)
  serves : Option Nat
  /-- The code that its thread has fetched while this acquire had not had its instant: address and length (R141, R271). -/
  ahead : List (Nat × Nat)
  deriving DecidableEq, Repr

/-- A chunk of a stream command in flight (R290): its first element, its number among the accesses, its elements, their
port-side location, its source bytes as far as they are read and whether each is poisoned, and whether a remote end has still to
answer. Of its source and its destination, the aligned 32-bit words that have had their instants (R238). -/
structure Chunk where
  id : Nat
  num : Nat
  n : Nat
  pa : Nat
  path : Path
  data : List Byte
  bad : List Bool
  waiting : Bool
  sent : Bool
  /-- The packet that carries it, or its answer, was cut (R50). -/
  cut : Bool
  src : List Nat
  dst : List Nat
  /-- The number that the next access was to have when it left for a host. -/
  left : Nat
  /-- The leaves that it was translated through: address and size (R309). -/
  leaves : List (Nat × Nat)
  /-- The element whose check fails, and its fault, where one does: the engine has yet to find it (R295). -/
  flt : Option (Nat × FaultClass)
  deriving DecidableEq, Repr

/-- A physical extent of a patched pattern (R307): a run of port-side addresses, where it begins, or an absent one, and whether
its pages may be read and written. -/
structure Extent where
  va : Nat
  len : Nat
  at_ : Option (Nat × Path)
  rd : Bool
  wr : Bool
  /-- The leaves that its pages were walked through: address and size. -/
  leaves : List (Nat × Nat)
  deriving DecidableEq, Repr

/-- What the stage loader wrote into the address generators of a tile for a declared pattern (R307): the context, template and
geometry register, and its extents. -/
structure Gen where
  ctx : Nat
  tmpl : Nat
  reg : Nat
  ext : List Extent
  deriving DecidableEq, Repr

/-- A stream command (R285, R288, R465). -/
structure Cmd where
  uid : Nat
  graph : Nat
  priv : Nat
  eng : Nat
  seq : Nat
  port : Port
  out : Bool
  scp : Nat
  cons : Bool
  cv : Bool
  mode : Nat
  ty : Ty
  pat : BitVec 256
  /-- The extents that the generator holds for the command (R307). -/
  ext : List Extent
  /-- Whom its sinks charge (R335). -/
  who : Who
  sa : Nat
  poison : Bool
  name : Name
  named : Bool
  ord : Nat
  after : List Nat
  running : Bool
  next : Nat
  pfx : Nat
  ahead : List (Nat × Nat)
  recount : List Nat
  chunks : List Chunk
  seen : Nat
  steps : Nat
  cyc : Nat
  held : Option AFault
  cancelled : Bool
  stopped : Bool
  src : Option Pub
  srcBad : Bool
  anyBad : Bool
  deriving DecidableEq, Repr

/-- What a queued matrix operation does (R425 to R435). -/
inductive MKind where
  | mma (ty : Ty) (oba obb : ObReg)
  | mmacb (ty : Ty) (oba obb : ObReg) (table : Option (List Byte)) (bad : BitVec 8)
  | mzero
  | mrd (v : VReg) (h : Nat) (poison : Bool)
  | mwr (h : Nat) (rows : List Lane) (poison : Bool)
  deriving DecidableEq, Repr

/-- A matrix operation in the queue (R215): its accumulator, shape, mode and entry, and its progress. -/
structure MOp where
  uid : Nat
  ord : Nat
  kind : MKind
  ac : AcReg
  shape : BitVec 128
  mode : Nat
  entry : BitVec 1024
  started : Bool
  consumed : Bool
  sums : Map (List (BitVec 64))
  read : Map (List Lane)
  wrote : List Nat
  /-- The aligned 32-bit words of its buffers that were written since it started and before it consumed them: buffer, word, what
  stood there, and whether it was poisoned (R221). -/
  olds : List (Nat × Nat × List Byte × Bool)
  deriving DecidableEq, Repr

/-- An instance identity (R55): template, coordinates i2, i1, i0 and tag. -/
structure Ident where
  ctx : Nat
  tmpl : Nat
  inst : BitVec 30
  tag : BitVec 24
  deriving DecidableEq, Repr

/-- A matching-store entry (R70). -/
structure MEntry where
  id : Ident
  sub : Nat
  pub : Pub
  deriving DecidableEq, Repr

/-- What a router's name-match table records an entry under (R73): the 96 bits of a name, or, for a template's subscription to
any iteration, those of its iteration 0 with the mark (log entry 13). -/
abbrev NameKey := Name × Bool

/-- Whose a subscription is: a template's, or the dynamic one of a thread or of one of its stream commands. -/
inductive SubOf where
  | template
  | thread (uid seq : Nat)
  | command (uid eng seq : Nat)
  deriving DecidableEq, Repr

/-- A live subscription of a tile at a name's home; a template's is for any iteration, or for one iteration of an
identity whose tag is known (R79). `routers` are those of its route, from its tile to the home, that recorded it (R73). -/
structure Sub where
  name : Name
  anyIter : Bool
  tile : Nat
  of_ : SubOf
  scope : Nat
  direct : Bool
  routers : List Nat
  seen : List Name
  deriving DecidableEq, Repr

/-- A subscriber below a router of a multicast tree, with the routers from there down to its tile. -/
structure Receiver where
  tile : Nat
  of_ : SubOf
  path : List Nat
  deriving DecidableEq, Repr

/-- A cached translation (R306). -/
structure TlbE where
  ctx : Nat
  vpage : Nat
  lvl : Nat
  pte : Word
  deriving DecidableEq, Repr

/-- One tile core, or the keystone's (R105 to R118, R132, R207, R288, R306): everything that is not a thread's. -/
structure Core where
  cyc : Word
  last : Map Nat
  eff : Nat
  acc : Map (List Lane)
  holder : Option Nat
  ob : Map Byte
  obBad : Map Bool
  /-- Fills that have ended, whose segments are poisoned once the operations before them have consumed the buffer (R220, R222):
  order, buffer, segments. -/
  ends : List (Nat × Nat × List Nat)
  mq : List MOp
  mqOrd : Nat
  eng0 : List Cmd
  eng1 : List Cmd
  store : List MEntry
  anys : List Pub
  admitted : List (BitVec 24)
  deferring : Bool
  fired : List (Ident × Word)
  cursor : List (Ident × Word)
  copying : List (Ident × Nat)
  fifo : List Nat
  nmt : List (NameKey × List Nat)
  cache : List Pub
  /-- The tile-scope publications, each with the stage that published it (R66, R78). -/
  tilePubs : List (Pub × Nat)
  tlb : List TlbE
  /-- The patched patterns of the templates that the tile hosts (R307). -/
  gens : List Gen
  bankRR : Map Nat
  /-- The cycle from which the load/store port accepts an L syllable (R236). -/
  portFree : Word
  deriving DecidableEq, Repr

/-- Where a home keeps a publication (R76): its cache, a store slot, or a pier's retire region. -/
inductive Place where
  | cache
  | slot (n : Nat)
  | retire (pier : Nat)
  deriving DecidableEq, Repr

/-- A publication at its home (R75, R76), with the stage of its graph that published it (R78). -/
structure HomeE where
  pub : Pub
  stage : Nat
  site : Nat
  src : Nat
  place : Place
  consumed : Nat
  deferred : List Nat
  deriving DecidableEq, Repr

/-- A message travelling the deck under a name (R73 to R84). -/
inductive Msg where
  /-- A publication on its way to its home, from a tile and thread; it waits for the accesses `after` at
  targets of a scope (R447). The stage of its graph comes with it. -/
  | pub (p : Pub) (tile : Nat) (uid : Nat) (after : List Nat) (scp : Nat) (stage : Nat)
  | sub (q : Sub)
  | copy (p : Pub) (router : Nat) (dests : List Receiver)
  /-- A publication on its way to a subscriber of a tile, from the router that sends it. -/
  | deliver (p : Pub) (tile : Nat) (of_ : SubOf) (from_ : Nat)
  | defer (name : Name) (tile : Nat)
  | resume (tile : Nat)
  | drop (name : Name) (tile : Nat) (uid : Nat)
  | unsub (name : Name) (tile : Nat) (of_ : SubOf)
  | free (key : NameKey) (router : Nat)
  | pierSub (q : Sub) (name : Name) (pier : Nat)
  | pierRead (name : Name) (pier : Nat) (addr : Nat) (bonded : Bool)
  /-- An asynchronous fault on its way to a thread (R314). -/
  | afault (uid : Nat) (f : AFault)
  deriving DecidableEq, Repr

/-- The subscription record of Table 7.8. -/
structure SubDecl where
  tid : Nat
  plane : Nat
  coef : List Int
  offs : List Int
  rel : Nat
  scope : Nat
  p : Bool
  launch : Bool
  at_ : Nat
  deriving DecidableEq, Repr

/-- The publication record of Table 7.8. -/
structure PubDecl where
  tid : Nat
  fmt : Nat
  scope : Nat
  nsub : Option Nat
  deriving DecidableEq, Repr

/-- The template entry of Table 7.7 with its records; `text` holds its code bytes and then its data bytes. -/
structure Template where
  code : Nat
  codeLen : Nat
  data : Nat
  dataLen : Nat
  text : List Byte
  n0 : Nat
  n1 : Nat
  n2 : Nat
  group : Nat
  subs : List SubDecl
  pubs : List PubDecl
  live : List (Nat × Nat)
  /-- The declared patterns by geometry register (R122, R307); an image has no place for one (log entry 38). -/
  pats : List (Nat × BitVec 256)
  matrix : Bool
  deriving DecidableEq, Repr

/-- The tensor entry of Table 7.5. -/
structure Tensor where
  tid : Nat
  fmt : Nat
  pier : Bool
  base : Nat
  ext : List Nat
  tile : List Nat
  deriving DecidableEq, Repr

/-- The name, shape and handler entries of Table 7.6. -/
structure NameDecl where
  tid : Nat
  clean : Bool
  bay : Option (Nat × Nat)
  deriving DecidableEq, Repr

/-- A handler entry of Table 7.6, with its code and data bytes. -/
structure HandlerDecl where
  cls : Nat
  code : Nat
  codeLen : Nat
  data : Nat
  dataLen : Nat
  text : List Byte
  deriving DecidableEq, Repr

/-- A stage entry of Table 7.7 with its exit records. -/
structure StageDecl where
  first : Nat
  count : Nat
  exits : List Word
  deriving DecidableEq, Repr

/-- A `kxg` image as the loader reads it (R170, R545). -/
structure Image where
  tensors : List Tensor
  names : List NameDecl
  /-- The shape entries: template number, and offset of the record. -/
  shapes : List (Nat × Nat)
  handlers : List HandlerDecl
  stages : List StageDecl
  tmpls : List Template
  deriving DecidableEq, Repr

/-- A placed instance (R86): template, coordinates, tile, and its span group and member number. -/
structure Placed where
  tmpl : Nat
  inst : BitVec 30
  tile : Nat
  grp : Option (Nat × Nat)
  deriving DecidableEq, Repr

/-- A live graph instance in its context (R55, R91 to R104). -/
structure Graph where
  launch : Nat
  parent : Option Nat
  depth : Nat
  prio : Nat
  grace : Nat
  part : Option Nat
  root : Word
  record : List Byte
  host : Option (Nat × Nat)
  image : Option Image
  stage : Nat
  running : Bool
  /-- Aborted: its completion waits for its accesses (R278, R333). -/
  ending : Option (Nat × Nat)
  /-- The bays that its stage may use, as ms.part0 and ms.part1 gave them when it was placed, and those that a vacate had
  excluded (R339, R352). -/
  barred : List Nat
  placed : List Placed
  earlier : List Placed
  firedIds : List Ident
  exitsDone : List Word
  admitted : Word
  runsum : Nat
  maxrun : Nat
  ninst : Nat
  deriving DecidableEq, Repr

/-- A record of the pending-launch pool (R97); `parent` is the parent's handle times 256 plus its context. -/
structure PoolRec where
  record : List Byte
  parent : Option Nat
  depth : Nat
  prio : Nat
  seq : Nat
  host : Option (Nat × Nat)
  part : Option Nat
  root : Word
  bad : Bool
  taken : Bool
  deriving DecidableEq, Repr

/-- A launch-window slot (R94). -/
structure LaunchSlot where
  done : Bool
  ended : Bool
  handle : BitVec 32
  acc : Nat
  cpl : List Byte
  deriving DecidableEq, Repr

/-- A residency entry (Table 3.7). -/
structure ResEntry where
  st : Nat
  refc : Nat
  bbase : Nat
  npg : Nat
  deriving DecidableEq, Repr

/-- A class lowering, queued or in progress (R48, R49): the site and its new class, whether its router and its core do not
answer or do, whether software asked for it, the graph that a NEST quarantine aborts, whether the new tables are loaded and the hash
units held, the class that the site had, and the names whose home the new tables change. -/
structure Lowering where
  site : Nat
  cls : Nat
  sudden : Bool
  core : Bool
  req : Bool
  ctx : Option Nat
  tables : Bool
  old : Nat
  moved : List Name
  deriving DecidableEq, Repr

/-- A packet that a link reset takes away (R50): the access or stream request that it belongs to, the elements that it
carries, and the routers that its token or abort has still to pass. -/
structure Cut where
  id : Nat
  elems : List Nat
  path : List Nat
  deriving DecidableEq, Repr

/-- A reset token (R50): at a router beside the lost site, for the link facing it, with the packets that were crossing that
link and those that came over it; or on its way upstream to the source of a packet. -/
inductive Token where
  | link (router dir : Nat) (cuts late : List Cut)
  | up (c : Cut)
  deriving DecidableEq, Repr

/-- A saved instance (R342 to R344): the thread, what its core held for it, and its place in a save area. -/
structure Saved where
  th : Thread
  acc : Option (Map (List Lane) × Map Byte × Map Bool)
  cmds : List Cmd
  extents : List (Nat × List Byte × List Bool)
  addr : Nat
  blocks : Nat
  from_ : Nat
  to_ : Option Nat
  complete : Bool
  deriving DecidableEq, Repr

/-- A region being vacated (R338 to R349): its bays, those to gate, or the one site that a lowering vacates; when each
tile was gated, the graphs whose grace has ended on a tile, and the instances of other sites that move with their span group (R346):
context, template and instance. -/
structure Vacate where
  bays : List Nat
  gateBays : List Nat
  sites : List Nat
  prio : Nat
  phase : Nat
  gates : Map Word
  expired : List (Nat × Nat)
  also : List (Nat × Nat × BitVec 30)
  deriving DecidableEq, Repr

/-- A requested vacate held under R349. -/
structure HeldVac where
  bays : List Nat
  gateBays : List Nat
  prio : Nat
  deriving DecidableEq, Repr

/-- A checkpoint in progress (R364). -/
structure Checkpoint where
  what : Nat
  nport : Nat
  dev : Nat
  deriving DecidableEq, Repr

/-- A page move of the evictor (R312): the entry's address, the frames, and the leaf's context and page. -/
structure PageMove where
  pte : Nat
  f1 : Nat
  f2 : Nat
  ctx : Nat
  va : Nat
  lvl : Nat
  phase : Nat
  limit : Nat
  deriving DecidableEq, Repr

/-- A `TLBINV` in progress (R309): its thread, the first access after its removals, the roots and the address whose translations it
removed (`none` for all), and the stream ports with a drain token: tile, command and the element after its last chunk. -/
structure Drain where
  uid : Nat
  limit : Nat
  ctx : Option (List Nat)
  va : Option Nat
  ports : List (Nat × Nat × Nat)
  deriving DecidableEq, Repr

/-- The heartbeat and probe sequence of a site (R361). -/
structure Beat where
  last : Word
  probing : Bool
  sentAt : Word
  fails : Nat
  failedAt : Word
  core0 : Bool
  deriving DecidableEq, Repr

/-- A place that a word with an uncorrectable error strikes (R260 to R262): a 64-byte line of memory, a 256-byte block of the
copy of a publication in a router's cache, both headers of that copy, or a segment of a tile's operand buffers. -/
inductive Struck where
  | line (n : Nat)
  | block (tile : Nat) (name : Name) (blk : Nat)
  | header (tile : Nat) (name : Name)
  | seg (tile n : Nat)
  deriving DecidableEq, Repr

/-- What the device sends to hosts and peers. -/
inductive Out where
  | msix (port vec : Nat) (addr : Word) (data : BitVec 32)
  | hostRead (port addr len id : Nat)
  | hostWrite (port addr : Nat) (bytes : List (Option Byte)) (id : Nat)
  | hostAtomic (port addr : Nat) (op : HostAtomic) (w : Nat) (a b : Word) (id : Nat)
  | slotView (port slot : Nat) (bytes : List Byte)
  | cpl (port : Nat) (bytes : Option (List Byte)) (ep : Bool)
  | peerReq (dev off id : Nat) (kind : PeerKind) (bytes : List PByte)
  | peerAns (dev seq : Nat) (bytes : List (Option Byte)) (err : Bool)
  /-- A line of a checkpoint on one Cufort port, and a run of lines that hold blank bytes, on some ports (R364). -/
  | ckpt (dev port addr : Nat) (bytes : List Byte) (poison : Bool)
  | ckptBlank (dev : Nat) (ports : List Nat) (addr lines : Nat) (poison : Bool)
  deriving DecidableEq, Repr

/-- A block of 4 KiB of an image that the stage loader reads from a host or a peer: its request and what came. -/
structure Fetch where
  req : Nat
  got : Option (List Byte)
  bad : Bool
  deriving DecidableEq, Repr

/-- What the bundle being executed has done so far. -/
inductive Flow where
  | go | wait | freeze
  deriving DecidableEq, Repr

/-- The bundle being executed: its thread, its pc, the registers as they stood before it, what else it keeps from its issue, its
syllables still to run and what they did; accesses below `acc0` and operations below `ord0` are of earlier bundles. -/
structure Issue where
  key : Nat
  pc : Word
  words : List Word
  src : Regs
  wait : Option Wait
  cyc : Word
  csrs : Map Word
  table : Option (List Byte × BitVec 8)
  shapes : Map Shape
  payload : Option (List Byte × List Bool)
  /-- For a bundle that is issuing, the threads of its core and the turns of R107 as they stood before. -/
  undo : Option (List (Nat × Thread) × Map Nat)
  todo : List (Nat × Instr)
  idx : Nat
  flags : BitVec 5
  drawn : Nat
  seeded : Bool
  /-- A translation of the bundle missed the TLB of the tile (R306). -/
  miss : Bool
  flow : Flow
  acc0 : Nat
  ord0 : Nat
  deriving DecidableEq, Repr

/-- The state of the device. -/
structure State where
  /-- MODEL: the steps of the device to come; a free value (log entry 1). -/
  sched : List Instr
  /-- MODEL: the counter of the free values (log entry 7). -/
  free : Nat
  /-- MODEL: the number of the next access. -/
  nextAcc : Nat
  /-- MODEL: the uid of the next thread. -/
  nextUid : Nat
  /-- MODEL: the bundle being executed. -/
  issue : Issue
  /-- MODEL: the core whose issue cycle comes when the schedule names no step. -/
  focus : Nat
  mem : Map Byte
  poison : Map Bool
  /-- MODEL: the errors that nothing has read yet; where each strikes, and how many steps the schedule still names by then, is
  free (log entry 78). -/
  struck : List (Nat × Struck)
  inflight : List Access
  /-- The requests that stand at a bank or have stood there, in the order of their arrival (R235, R237): the number of the access or
  chunk, the requester, and the word. -/
  arrived : List (Nat × Nat × Nat)
  cores : Map Core
  threads : Map Thread
  spanQ : Map (List Nat)
  spanTlb : Map (List TlbE)
  ksQ : List Nat
  faultWait : List Nat
  sinks : Map Nat
  hbmEnd : Map Bool
  fused : Map (BitVec 4)
  live : Map (BitVec 2)
  partner : Map (Nat × Nat)
  epoch : BitVec 16
  gated : Map Bool
  wakeQ : List Nat
  inrush : List Nat
  lowering : Option Lowering
  lowerQ : List Lowering
  downLinks : List (Nat × Nat)
  tokens : List Token
  aborts : List Cut
  /-- The uncorrectable data errors of each slice, in its tile's cycles (R32). -/
  errs : Map (List Word)
  homes : List HomeE
  subs : List Sub
  net : List Msg
  graphs : Map Graph
  pool : Map PoolRec
  poolGen : Map Nat
  lastId : Nat
  poolSeq : Nat
  fetched : Map Fetch
  slots : Map LaunchSlot
  residency : Map ResEntry
  /-- The pier tensors that graphs have registered (R79, R81). -/
  tensors : Map Tensor
  ms : Map Word
  kcyc : Word
  /-- The MSI-X table of both ports by half entry of 8 bytes: the address, then the data and the vector control (R351). -/
  msixTab : Map Word
  msixPend : Map Bool
  beats : Map Beat
  probeFails : Nat
  vacate : Option Vacate
  /-- Vacate requests whose check waits for the hash units (R44), with the host of each. -/
  vacAsked : List (Word × Option Nat)
  lowVac : Option Vacate
  vacHeld : Option HeldVac
  excluded : List Nat
  saved : List Saved
  ckpt : Option Checkpoint
  move : Option PageMove
  /-- Whether a frame of 8 KiB is in the free pool (R311, R312), where the evictor has changed it. -/
  frames : Map Bool
  tails : List (Nat × Nat × Nat × Nat)
  stretch : Map (Nat × Word)
  drains : List Drain
  olds : Map Word
  resends : Map Nat
  peerSeen : List (Nat × Nat × List (Option Byte) × Bool)
  linksUp : Map Bool
  outHost : List Out
  deriving DecidableEq, Repr

/-- Why the machine stops. -/
inductive Fault where
  /-- A syllable is executed for a thread that does not exist. Raised by every syllable meaning when `issue.key` names
  no thread; no step of the machine reaches it, since an issue opens an existing thread. Safe. -/
  | noThread
  deriving DecidableEq, Repr

/-- Why an instruction has no meaning. -/
inductive Refusal where
  /-- The instruction is not modelled yet. Raised by no arm once every arm is a meaning. Safe. -/
  | notModelled (mnemonic : String)
  deriving DecidableEq, Repr

/-- The random-bit queue at firing (R128). -/
def Rng.reset : Rng := ⟨0, 0, 0, []⟩

/-- The registers at firing, without the instance's own values (R122, R125 to R131). -/
def Regs.reset : Regs :=
  { s := [], v := [], p := [], sh := [], g := [], k0 := none, rm := 0, psink := true, fflags := 0, seed := 0,
    rng := Rng.reset, tag := 0, inst := 0, boost := false, lprio := 0, level := 0 }

/-- A core after reset (log entry 2 for what the spec does not give). -/
def Core.reset : Core :=
  { cyc := 0, last := [], eff := 0, acc := [], holder := none, ob := [], obBad := [], ends := [], mq := [],
    mqOrd := 0, eng0 := [], eng1 := [], store := [], anys := [], admitted := [], deferring := false, fired := [], cursor := [],
    copying := [], fifo := [], nmt := [], cache := [], tilePubs := [], tlb := [], gens := [], bankRR := [], portFree := 0 }

/-- No bundle is being executed. -/
def Issue.none : Issue :=
  { key := 0, pc := 0, words := [], src := Regs.reset, wait := Option.none, cyc := 0, csrs := [],
    table := Option.none, shapes := [], payload := Option.none, undo := Option.none, todo := [], idx := 0, flags := 0,
    drawn := 0, seeded := false, miss := false, flow := .go, acc0 := 0, ord0 := 0 }

/-- The machine after reset: no thread, no graph, no name; the keystone has not started (ms.stage 0). -/
def State.reset : State :=
  { sched := [], free := 0, nextAcc := 0, nextUid := 0, issue := Issue.none, focus := 870, mem := [], poison := [], struck := [],
    inflight := [], arrived := [], cores := [], threads := [], spanQ := [], spanTlb := [], ksQ := [], faultWait := [], sinks := [], hbmEnd := [],
    fused := [], live := [], partner := [], epoch := 0, gated := [], wakeQ := [], inrush := [], lowering := none, lowerQ := [],
    downLinks := [], tokens := [], aborts := [], errs := [], homes := [], subs := [], net := [], graphs := [], pool := [],
    poolGen := [], lastId := 65535, poolSeq := 0, fetched := [], slots := [], residency := [], tensors := [], ms := [], kcyc := 0, msixTab := [],
    msixPend := [], beats := [], probeFails := 0, vacate := none, vacAsked := [], lowVac := none, vacHeld := none, excluded := [], saved := [],
    ckpt := none, move := none, frames := [], tails := [], stretch := [], drains := [], olds := [], resends := [], peerSeen := [], linksUp := [],
    outHost := [] }

end Sys2Proof.Machine
end

