-- ==== Sys2Proof/Machine/Keyregs.lean ====
section
/-! DEFINITION. The keystone registers `ms.*` by number (Table 16.1): reset values, the bits software writes, and what
a read returns. -/

namespace Sys2Proof.Machine

/-- R7, Tables 0.1 to 16.8: the reset value of a keystone register. -/
def msReset (n : Nat) : Word :=
  if n = 0x800 then 0x0CB3030300000000
  else if n = 0x802 then 0xFFF
  else if n = 0x817 then 0x0000001000000040
  else if n = 0x820 then 0x800000
  else if 0x900 ≤ n && n < 0x9C8 then 0x02F802A800040000
  else 0

/-- The stored bits of a keystone register. -/
def msRaw (s : State) (n : Nat) : Word := getD (msReset n) n s.ms

/-- The state with a keystone register's stored bits replaced. -/
def msPut (s : State) (n : Nat) (v : Word) : State := { s with ms := setD (msReset n) n v s.ms }

/-- The bits of a keystone register that a write sets (RW). -/
def msRw (n : Nat) : Word :=
  if n = 0x802 then 0xFFF
  else if n = 0x803 then 0x0000FFF800000001
  else if n = 0x804 || n = 0x805 then 0xFFF
  else if n = 0x806 then 0xFFFFFFFFFFFFFFFF
  else if n = 0x807 then 0xFFFFF
  else if 0x808 ≤ n && n ≤ 0x80A then 0x0000FFFFFFFFE001
  else if n = 0x80B || n = 0x80C then 0x0000FFFFC0000001
  else if n = 0x810 then 0x37FFF
  else if n = 0x812 then 0x77FFFF
  else if n = 0x814 then 0xFFFFFF3FFFFFFFFF
  else if n = 0x815 then 0xFFFFFFFF
  else if n = 0x817 then 0x0000FFFF0000FFFF
  else if n = 0x820 then 0xFFFFFFFF
  else if n = 0x821 then 0x3FFFF9
  else if n = 0x830 then 0x00000FFF00FF0003
  else if 0x900 ≤ n && n < 0x9C8 then 0xFFFFFFFF00000000
  else if 0xA00 ≤ n && n < 0xAA0 then 0xF
  else 0

/-- The bits of a keystone register that a write of 1 clears (W1C). -/
def msW1c (n : Nat) : Word :=
  if n = 0x811 then 8
  else if n = 0x813 || n = 0x816 || n = 0x831 then 2
  else if 0x900 ≤ n && n < 0x9C8 then 0x10000
  else 0

/-- The stage of ms.stage (Table 16.4). -/
def stageOf (s : State) : Nat := (msRaw s 0x801 >>> 60).toNat

/-- Bays awake, as ms.stage.nwake reports them once the keystone runs. -/
def awake (s : State) : Nat := if stageOf s = 0 then 0 else 84 - s.gated.length

/-- What a read of a keystone register returns. The epoch of ms.clsst and the count of ms.stage are kept elsewhere; ms.id names the
keystone that serves (Table 0.1). -/
def msRead (s : State) (n : Nat) : Word :=
  if n = 0x800 then msRaw s n ||| (if (msRaw s 0x801).getLsbD 59 then 0x10000 else 0)
  else if n = 0x811 then msRaw s n ||| (s.epoch.setWidth 64 <<< 16)
  else if n = 0x801 then msRaw s n ||| (BitVec.ofNat 64 (awake s) <<< 48)
  else if n = 0x813 then
    msRaw s n ||| (if s.vacHeld.isSome then 0x80 else 0)
  else if 0xA00 ≤ n && n < 0xAA0 then
    -- strn and strc of Table 16.6: the last stretch and the stretched cycles of the bay
    (match find (n - 0xA00) s.stretch with
    | none => msRaw s n
    | some (k, at_) => msRaw s n ||| BitVec.ofNat 64 (k / 1024 % 65536 * 2 ^ 32) |||
        (if (s.kcyc - at_).toNat < 2 ^ 17 then 0x10000 else 0))
  else msRaw s n

/-- Bytes of a word selected by byte enables. -/
def beMask (be : BitVec 8) : Word :=
  (upTo 8).foldl (fun m i => if be.getLsbD i then m ||| (0xFF#64 <<< (8 * i)) else m) 0

/-- R6, R7, R350: a write to a keystone register through its access codes; the bits outside `mask` are not written. -/
def msWriteBits (s : State) (n : Nat) (v mask : Word) : State :=
  let old := msRaw s n
  let w := msRw n &&& mask
  let c := msW1c n &&& mask &&& v
  let x := ((old &&& ~~~w) ||| (v &&& w)) &&& ~~~c
  -- a heartbeat limit below 2^22 is stored as 2^22 (Table 16.5)
  msPut s n (if n = 0x820 && x.toNat < 0x400000 then 0x400000 else x)

/-- A field of a keystone register. -/
def msField (s : State) (n lo w : Nat) : Nat := (msRaw s n).toNat / 2 ^ lo % 2 ^ w

/-- The state with a field of a keystone register set by the hardware. -/
def msSetField (s : State) (n lo w v : Nat) : State :=
  let old := (msRaw s n).toNat
  let f := old / 2 ^ lo % 2 ^ w
  msPut s n (BitVec.ofNat 64 (old - f * 2 ^ lo + v % 2 ^ w * 2 ^ lo))

end Sys2Proof.Machine
end

