-- ==== Sys2Proof/Machine/Wafer.lean ====
section
/-! DEFINITION. The wafer: tile coordinates, bays, spans and sites, the class table and what it gives, routes on the
deck, partners, and the homes and placements that the hash gives (R11 to R47, R546). -/

namespace Sys2Proof.Machine

/-- The x coordinate of a tile index (R11). -/
def tileX (t : Nat) : Nat := t % 160
/-- The y coordinate of a tile index. -/
def tileY (t : Nat) : Nat := t / 160
/-- The tile index of coordinates. -/
def tileAt (x y : Nat) : Nat := 160 * y + x

/-- R12, R13: whether coordinates name a tile site. -/
def isSiteXY (x y : Nat) : Bool := x < 160 && y < 160 && baySlot (16 * (y / 16) + x / 16)

/-- Whether a tile index names a site. -/
def isSite (t : Nat) : Bool := isSiteXY (tileX t) (tileY t)

/-- Table 1.1: the site number of a tile that is a site. -/
def siteOf (t : Nat) : Nat :=
  let x := tileX t
  let y := tileY t
  if y < 32 then 96 * y + (x - 32) else if y < 128 then 3072 + 160 * (y - 32) + x else 18432 + 96 * (y - 128) + (x - 32)

/-- The tile index of a site number. -/
def tileOfSite (n : Nat) : Nat :=
  if n < 3072 then tileAt (32 + n % 96) (n / 96)
  else if n < 18432 then tileAt ((n - 3072) % 160) (32 + (n - 3072) / 160)
  else tileAt (32 + (n - 18432) % 96) (128 + (n - 18432) / 96)

/-- The bay of a tile, as 16·by + bx (R12). -/
def bayOf (t : Nat) : Nat := 16 * (tileY t / 16) + tileX t / 16

/-- The present bays in ordinal order (R352). -/
def bays : List Nat := (upTo 160).filter (fun b => b % 16 < 10 && baySlot b)

/-- The bay ordinal of a present bay. -/
def bayOrd (b : Nat) : Nat := bays.idxOf b

/-- The tiles of a bay in position order (R43). -/
def bayTiles (b : Nat) : List Nat :=
  (upTo 256).map (fun i => tileAt (16 * (b % 16) + i % 16) (16 * (b / 16) + i / 16))

/-- The safe bay (4, 0) (R20). -/
def safeBay : Nat := 4

/-- The span of a tile, a number that its sixteen members share (R14). -/
def spanOf (t : Nat) : Nat := 40 * (tileY t / 4) + tileX t / 4

/-- The members of a span in view order (R240). -/
def spanTiles (p : Nat) : List Nat := (upTo 16).map (fun j => tileAt (4 * (p % 40) + j % 4) (4 * (p / 40) + j / 4))

/-- The live class of a tile's site; coordinates that name no site count as dead (R13, R29). -/
def classOf (s : State) (t : Nat) : Nat := if isSite t then (getD 0 (siteOf t) s.live).toNat else 3

/-- Complete or memory-only (R27). -/
def homeCapable (s : State) (t : Nat) : Bool := isSite t && classOf s t % 2 == 0

/-- Complete or compute-only (R27). -/
def computeCapable (s : State) (t : Nat) : Bool := isSite t && classOf s t < 2

/-- The partner of an orphan: its tile, and the lending slot 0 or 1 of a memory-only partner, or 2 for a complete
one (R34, R35). -/
def partnerOf (s : State) (t : Nat) : Option (Nat × Nat) := find t s.partner

/-- Placeable (R27). -/
def placeable (s : State) (t : Nat) : Bool :=
  isSite t && (classOf s t == 0 || (classOf s t == 1 && (partnerOf s t).isSome))

/-- Orphans that a site lends to (Table 2.3). -/
def borrowers (s : State) (t : Nat) : Nat := (s.partner.filter (fun e => e.2.1 == t)).length

/-- The task-visible local window in MiB (Tables 2.1, 2.3). -/
def winOf (s : State) (t : Nat) : Nat :=
  match classOf s t with
  | 0 => if borrowers s t = 0 then 64 else 48
  | 1 =>
    match partnerOf s t with
    | none => 0
    | some (_, k) => if k = 2 then 16 else 32
  | _ => 0

/-- Table 2.5: where a lent window begins in its partner's slice. -/
def lentOffset (k : Nat) : Nat := if k = 0 then 0 else if k = 1 then 0x2000000 else 0x3000000

/-- R355: whether the PCI Express ports are visible to hosts: from stage 2 on. -/
def pcieUp (s : State) : Bool := 2 ≤ stageOf s

/-- Whether a router carries packets now: live, and in the safe bay before stage 5 (R356). -/
def routerUp (s : State) (t : Nat) : Bool :=
  isSite t && classOf s t != 3 && (5 ≤ stageOf s || bayOf t == safeBay)

/-- The neighbour of a tile in direction 0 north, 1 east, 2 south, 3 west (R47). -/
def neighbour (t d : Nat) : Option Nat :=
  let x := tileX t
  let y := tileY t
  match d with
  | 0 => if y + 1 < 160 then some (tileAt x (y + 1)) else none
  | 1 => if x + 1 < 160 then some (tileAt (x + 1) y) else none
  | 2 => if 0 < y then some (tileAt x (y - 1)) else none
  | _ => if 0 < x then some (tileAt (x - 1) y) else none

/-- A usable link out of a tile (R16, R46, R50). -/
def linkTo (s : State) (t d : Nat) : Option Nat :=
  match neighbour t d with
  | none => none
  | some u => if routerUp s u && !s.downLinks.contains (t, d) then some u else none

/-- One breadth-first level of R47's tree. -/
def bfsLevel (s : State) (depth : Nat) : List Nat → Map Nat × List Nat → Map Nat × List Nat
  | [], acc => acc
  | t :: l, acc =>
    let new := (upTo 4).foldl (fun (a : Map Nat × List Nat) d =>
      match linkTo s t d with
      | none => a
      | some u => match find u a.1 with
        | some _ => a
        | none => (put u depth a.1, u :: a.2)) acc
    bfsLevel s depth l new

/-- The depths of R47's tree, by fuel over its levels. -/
def bfs (s : State) : Nat → Nat → List Nat → Map Nat → Map Nat
  | 0, _, _, m => m
  | fuel + 1, depth, front, m =>
    match front with
    | [] => m
    | _ =>
      let r := bfsLevel s depth front (m, [])
      bfs s fuel (depth + 1) r.2 r.1

/-- The root of the tree (R47). -/
def treeRoot (s : State) : Nat :=
  let r := tileAt 72 0
  if routerUp s r then r
  else (((bayTiles safeBay).filter (routerUp s)).foldl
    (fun (m : Option Nat) t => match m with
      | none => some t
      | some u => if siteOf t < siteOf u then some t else some u) none).getD r

/-- The depth of every router that the tree reaches. -/
def treeDepths (s : State) : Map Nat := bfs s 25600 1 [treeRoot s] [(treeRoot s, 0)]

/-- Whether the link from one router to a neighbour points up the tree (R47). Routers that the tree does not reach have no depth: between two
of them up is toward the lower site number, and toward one that it reaches from one that it does not (DESIGN CHOICE, log entry 109). -/
def linkUp (dep : Map Nat) (t u : Nat) : Bool :=
  let a := getD 99999 t dep
  let b := getD 99999 u dep
  b < a || (a == b && siteOf u < siteOf t)

/-- One level of the reverse search from a destination: distances of the states (router, still going up). -/
def distLevel (s : State) (dep : Map Nat) (n : Nat) : List (Nat × Bool) → Map Nat × List (Nat × Bool) →
    Map Nat × List (Nat × Bool)
  | [], acc => acc
  | (v, up) :: l, acc =>
    let new := (upTo 4).foldl (fun (a : Map Nat × List (Nat × Bool)) d =>
      match linkTo s v d with
      | none => a
      | some w =>
        -- the link w to v
        if !(routerUp s w) then a
        else
          let st := linkUp dep w v
          if !st && up then a
          else match find (2 * w + (if st then 1 else 0)) a.1 with
            | some _ => a
            | none => (put (2 * w + (if st then 1 else 0)) n a.1, (w, st) :: a.2)) acc
    distLevel s dep n l new

/-- Distances to a destination over routes of up links and then down links, by fuel over the levels. -/
def dists (s : State) (dep : Map Nat) : Nat → Nat → List (Nat × Bool) → Map Nat → Map Nat
  | 0, _, _, m => m
  | fuel + 1, n, front, m =>
    match front with
    | [] => m
    | _ =>
      let r := distLevel s dep n front (m, [])
      dists s dep fuel (n + 1) r.2 r.1

/-- The shortest legal distance of a router in a distance map. -/
def distOf (m : Map Nat) (t : Nat) : Option Nat :=
  match find (2 * t) m, find (2 * t + 1) m with
  | some a, some b => some (if a < b then a else b)
  | some a, none => some a
  | none, some b => some b
  | none, none => none

/-- The detour table of every router for one destination set (R47): the next direction, or none for entry 7. -/
def detour (s : State) (m : Map Nat) (dep : Map Nat) (t : Nat) : Option Nat :=
  match distOf m t with
  | none => none
  | some n =>
    pick (fun d =>
      match linkTo s t d with
      | none => none
      | some u =>
        let ok := if linkUp dep t u then
            (match distOf m u with | some k => k + 1 == n | none => false)
          else (match find (2 * u) m with | some k => k + 1 == n | none => false)
        if ok then some d else none) (upTo 4)

/-- The rim agents: P0 to P31 are 0 to 31, A0 to A7 are 32 to 39. The edge tiles each faces (Table 1.2), in site
order. -/
def agentTiles (a : Nat) : List Nat :=
  let seg (lo n : Nat) : List Nat := (upTo n).map (fun i => lo + i)
  -- positions along an edge, counted from its low end
  let pier (i : Nat) : List Nat := if i < 4 then seg (32 + 10 * i) 10 else seg (88 + 10 * (i - 4)) 10
  let abut (i : Nat) : List Nat := seg (72 + 8 * i) 8
  if a < 8 then (pier a).map (fun x => tileAt x 0)
  else if a < 16 then (pier (a - 8)).map (fun y => tileAt 159 y)
  else if a < 24 then (pier (23 - a)).map (fun x => tileAt x 159)
  else if a < 32 then (pier (31 - a)).map (fun y => tileAt 0 y)
  else if a < 34 then (abut (a - 32)).map (fun x => tileAt x 0)
  else if a < 36 then (abut (a - 34)).map (fun y => tileAt 159 y)
  else if a < 38 then (abut (37 - a)).map (fun x => tileAt x 159)
  else (abut (39 - a)).map (fun y => tileAt 0 y)

/-- The coordinate of a tile along the edge an agent sits on. -/
def alongEdge (a t : Nat) : Nat :=
  if a < 8 || (16 ≤ a && a < 24) || (32 ≤ a && a < 34) || (36 ≤ a && a < 38) then tileX t else tileY t

/-- The distance of two numbers. -/
def gap (a b : Nat) : Nat := if a < b then b - a else a - b

/-- The first element of a list with the least measure. -/
def leastBy {α : Type} (f : α → Nat) : List α → Option α
  | [] => none
  | a :: l => match leastBy f l with
    | none => some a
    | some b => if f b < f a then some b else some a

/-- The entry tile of an agent for a source (R546). -/
def entryTile (a t : Nat) : Nat := (leastBy (fun u => gap (alongEdge a u) (alongEdge a t)) (agentTiles a)).getD 0

/-- The tile at which a packet from an agent enters the deck for a destination (R546): the nearest edge tile, or the
live one nearest to it. -/
def exitTile (s : State) (a t : Nat) : Option Nat :=
  let e := entryTile a t
  if routerUp s e then some e
  else leastBy (fun u => gap (alongEdge a u) (alongEdge a e)) ((agentTiles a).filter (routerUp s))

/-- The dimension-order direction from one tile to another, x first (R46). -/
def dimDir (t u : Nat) : Nat :=
  if tileX t < tileX u then 1 else if tileX u < tileX t then 3 else if tileY t < tileY u then 0 else 2

/-- The hops of a detour from a router to a destination set, following the tables, by fuel. -/
def detourPath (s : State) (m dep : Map Nat) (goal : List Nat) : Nat → Nat → Option (List Nat)
  | 0, _ => none
  | fuel + 1, t =>
    if goal.contains t then some []
    else match detour s m dep t with
      | none => none
      | some d => match linkTo s t d with
        | none => none
        | some u => (detourPath s m dep goal fuel u).map (fun l => u :: l)

/-- The detour from a router to any of the destinations (R47). -/
def detourTo (s : State) (goal : List Nat) (t : Nat) : Option (List Nat) :=
  let dep := treeDepths s
  let m := dists s dep 25600 1 (goal.map (fun d => (d, false))) (goal.foldl (fun a d => put (2 * d) 0 a) [])
  detourPath s m dep goal 25600 t

/-- The routers a packet passes from one tile to another, the destination last (R46, R546). -/
def routeFrom (s : State) (goal : Nat) (fallback : List Nat) : Nat → Nat → Option (List Nat)
  | 0, _ => none
  | fuel + 1, t =>
    if t = goal then some []
    else match linkTo s t (dimDir t goal) with
      | some u => (routeFrom s goal fallback fuel u).map (fun l => u :: l)
      | none => detourTo s fallback t

/-- The route from one tile to another. -/
def route (s : State) (t u : Nat) : Option (List Nat) :=
  if routerUp s t && routerUp s u then routeFrom s u [u] 400 t else none

/-- The route from a tile to an agent, up to the edge tile it leaves by: in dimension order to the agent's entry tile, and
from the router whose output is unusable along the detour entries of the agent (R546). -/
def routeToAgent (s : State) (t a : Nat) : Option (List Nat) :=
  if routerUp s t then routeFrom s (entryTile a t) ((agentTiles a).filter (routerUp s)) 400 t else none

/-- Hops between tiles (R546). -/
def hops (s : State) (t u : Nat) : Option Nat := (route s t u).map List.length

/-- Hops from a tile to an agent, the rim link counting as one (R546). -/
def hopsToAgent (s : State) (t a : Nat) : Option Nat := (routeToAgent s t a).map (fun l => l.length + 1)

/-- Whether a route exists in each direction between tiles. -/
def reach (s : State) (t u : Nat) : Bool := (route s t u).isSome && (route s u t).isSome

/-- Whether a tile and an agent reach each other. -/
def reachAgent (s : State) (t a : Nat) : Bool :=
  (routeToAgent s t a).isSome && (match exitTile s a t with
    | none => false
    | some e => (route s e t).isSome)

/-- The pier nearest a tile: fewest hops, ties to the lower number (R546). -/
def nearestPier (s : State) (t : Nat) : Option Nat :=
  leastBy (fun a => (hopsToAgent s t a).getD 1000000) ((upTo 32).filter (reachAgent s t))

/-- An end of a packet's route: a site, or a rim agent (R546). -/
inductive Deck where
  | tile (t : Nat)
  | agent (a : Nat)
  deriving DecidableEq, Repr

/-- The routers that a packet passes between two ends, the first and the last one among them (R46, R546). Between two agents
it enters the deck as for the edge tile of the second one that faces the first. -/
def deckRoute (s : State) : Deck → Deck → Option (List Nat)
  | .tile t, .tile u => (route s t u).map (fun l => t :: l)
  | .tile t, .agent a => (routeToAgent s t a).map (fun l => t :: l)
  | .agent a, .tile u => (exitTile s a u).bind (fun e => (route s e u).map (fun l => e :: l))
  | .agent a, .agent b => (exitTile s a (entryTile b ((agentTiles a).headD 0))).bind (fun e =>
      (routeToAgent s e b).map (fun l => e :: l))

/-- The routers between two ends that may be one. -/
def deckLink (s : State) (a b : Deck) : Option (List Nat) := if a = b then some [] else deckRoute s a b

/-- R19: the abutment at which a Cufort port stands, as a rim agent: An carries ports 18·n to 18·n + 17. -/
def portAgent (port : Nat) : Nat := 32 + port / 18

/-- Whether the link of a Cufort port is up. -/
def linkIsUp (s : State) (port : Nat) : Bool := getD false port s.linksUp

/-- The Cufort port that an access to an address of the peer window leaves by: one whose link is up, where there is one (log entry 77). -/
def peerPort (s : State) (pa : Nat) : Nat :=
  let p := (Config.peerPort pa).val
  (((upTo 144).map (fun i => (p + i) % 144)).find? (linkIsUp s)).getD p

/-- The direction of the link from a router to its neighbour on a route. -/
def linkDir (t u : Nat) : Nat := ((upTo 4).find? (fun d => neighbour t d == some u)).getD 4

/-- The routers of a route before a link, nearest first, and those after it, if it takes that link. -/
def aroundLink (t d : Nat) : List Nat → List Nat → Option (List Nat × List Nat)
  | done, x :: y :: l => if x = t && linkDir x y = d then some (done, y :: l) else aroundLink t d (x :: done) (y :: l)
  | _, _ => none

/-- The abutment of the keystone that serves: A0, or A4 for the standby (R19, R357). -/
def ksAgent (s : State) : Nat := if (msRaw s 0x801).getLsbD 59 then 36 else 32

/-- R43: a site that reaches abutment A0 and some pier. -/
def attached (s : State) (t : Nat) : Bool := reachAgent s t 32 && (upTo 32).any (reachAgent s t)

/-- Sites that the stage excludes (R356): all before stage 4, those outside the safe bay before stage 7. -/
def stageOut (s : State) (t : Nat) : Bool := stageOf s < 4 || (stageOf s < 7 && bayOf t != safeBay)

/-- The home exclusion list (R43). -/
def homeExcluded (s : State) (t : Nat) : Bool := stageOut s t || !homeCapable s t || !attached s t

/-- The placement exclusion list (R43). -/
def placeExcluded (s : State) (t : Nat) : Bool := stageOut s t || !placeable s t || !attached s t

/-- The mixing function H (R42). -/
def hashMix (k : Word) : Word :=
  let z := k ^^^ (k >>> 29)
  let z := z * 0xB7A15C2E93F46D0B
  let z := z ^^^ (z >>> 32)
  let z := z * 0x8C3D41F7E26A95B5
  z ^^^ (z >>> 31)

/-- R43: the first site at or after `n` that is not excluded, wrapping; none when all are. -/
def chain (ex : Nat → Bool) : Nat → Nat → Option Nat
  | 0, _ => none
  | fuel + 1, n => if ex (tileOfSite n) then chain ex fuel ((n + 1) % 21504) else some (tileOfSite n)

/-- R43: the first position of a bay at or after `i` that is not excluded. -/
def chainBay (ex : Nat → Bool) (l : List Nat) : Nat → Nat → Option Nat
  | 0, _ => none
  | fuel + 1, i => if ex (nth 0 l i) then chainBay ex l fuel ((i + 1) % 256) else some (nth 0 l i)

/-- The wafer-wide lookup of a key, as a tile. -/
def lookup (ex : Nat → Bool) (k : Word) : Option Nat := chain ex 21504 ((hashMix k).toNat % 21504)

/-- The bay-local lookup of a key. -/
def lookupBay (ex : Nat → Bool) (b : Nat) (k : Word) : Option Nat :=
  chainBay ex (bayTiles b) 256 ((hashMix k).toNat % 256)

/-- The hash key of a name: tensor ID and coordinates (Table 2.8a). -/
def nameKey (n : Name) : Word := (n.toNat / 2 ^ 32 : Nat)

/-- The hash key of an instance (Table 2.8a). -/
def placeKey (tmpl ctx : Nat) (inst : BitVec 30) : Word :=
  BitVec.ofNat 64 (tmpl % 65536 * 2 ^ 48 + ctx % 256 * 2 ^ 40 + inst.toNat)

/-- The home of a name, bay-local in a declared bay (R41 to R43). -/
def homeOf (s : State) (bay : Option Nat) (n : Name) : Option Nat :=
  match bay with
  | none => lookup (homeExcluded s) (nameKey n)
  | some b => lookupBay (homeExcluded s) b (nameKey n)

/-- Assign a partner to one orphan (R34). -/
def assignPartner (s : State) (o : Nat) : State :=
  let mem := (bayTiles (bayOf o)).filter (fun t => classOf s t == 2 && borrowers s t < 2 && reach s o t)
  let c := if mem.isEmpty then
      (spanTiles (spanOf o)).filter (fun t => t != o && classOf s t == 0 && borrowers s t == 0 && reach s o t)
    else mem
  match leastBy (fun t => (hops s o t).getD 1000000 * 65536 + siteOf t) c with
  | none => s
  | some p =>
    let k := if mem.isEmpty then 2 else if s.partner.any (fun e => e.2 == (p, 0)) then 1 else 0
    { s with partner := put o (p, k) s.partner }

/-- Assign partners to the orphans of a list of bays that have none, in site order (R34). R356 has stage 5 assign the partners of the
whole wafer: here the safe bay's keep what stage 4 gave them, and its orphans with none are tried again (DESIGN CHOICE, log entry
84). -/
def assignPartners (s : State) (bs : List Nat) : State :=
  bs.foldl (fun s b => ((bayTiles b).filter (fun t => classOf s t == 1)).foldl
    (fun s o => if (partnerOf s o).isSome then s else assignPartner s o) s) s

/-- The class record of coordinates (R30, Table 2.3). -/
def classRecord (s : State) (x y : Nat) : Word :=
  let ep : Nat := s.epoch.toNat * 2 ^ 48
  if !isSiteXY x y then BitVec.ofNat 64 (ep + 0x33)
  else
    let t := tileAt x y
    let f := (getD 0 (siteOf t) s.fused).toNat
    let part := match (if classOf s t = 1 then partnerOf s t else none) with
      | none => 0
      | some (p, _) => 2 ^ 31 + siteOf p * 2 ^ 16
    BitVec.ofNat 64 (ep + borrowers s t * 2 ^ 40 + winOf s t * 2 ^ 32 + part +
      (if placeable s t then 512 else 0) + (if homeCapable s t then 256 else 0) + f % 4 * 16 + f / 4 * 4 + classOf s t)

end Sys2Proof.Machine
end

