-- ==== Sys2Proof/Machine/Base.lean ====
section
/-! DEFINITION. Named access to the parts of the state: cores, threads, registers, memory bytes and line poison, the
random-bit stream, the event log and the poison log. -/

namespace Sys2Proof.Machine

/-- The tile (or keystone core) of a thread key. -/
def tileOf (k : Nat) : Nat := k / 16
/-- The context slot of a thread key (R121). -/
def slotOf (k : Nat) : Nat := k % 16
/-- The thread key of a slot. -/
def keyOf (t j : Nat) : Nat := 16 * t + j
/-- Whether a core is the keystone's. -/
def isKs (t : Nat) : Bool := t == Config.ks

/-- A core. -/
def coreAt (s : State) (t : Nat) : Core := getD Core.reset t s.cores
/-- The state with a core replaced. -/
def setCore (s : State) (t : Nat) (c : Core) : State := { s with cores := setD Core.reset t c s.cores }
/-- The state with a core updated. -/
def updCore (s : State) (t : Nat) (f : Core → Core) : State := setCore s t (f (coreAt s t))
/-- The thread of a slot. -/
def threadAt (s : State) (k : Nat) : Option Thread := find k s.threads
/-- The state with a thread in a slot. -/
def setThread (s : State) (k : Nat) (th : Thread) : State := { s with threads := put k th s.threads }
/-- The state with a slot free. -/
def dropThread (s : State) (k : Nat) : State := { s with threads := del k s.threads }
/-- The state with the thread of a slot updated. -/
def updThread (s : State) (k : Nat) (f : Thread → Thread) : State :=
  match threadAt s k with
  | none => s
  | some th => setThread s k (f th)
/-- The threads of a core, by key. -/
def threadsOn (s : State) (t : Nat) : List (Nat × Thread) := s.threads.filter (fun e => e.1 / 16 == t)
/-- The key of the thread with a uid. -/
def keyOfUid (s : State) (u : Nat) : Option Nat := pick (fun e => if e.2.uid = u then some e.1 else none) s.threads
/-- The thread with a uid. -/
def threadOfUid (s : State) (u : Nat) : Option Thread :=
  pick (fun e => if e.2.uid = u then some e.2 else none) s.threads
/-- The state with a thread's status replaced. -/
def setStatus (s : State) (k : Nat) (st : Status) : State := updThread s k (fun th => { th with status := st })

/-- A clean scalar zero. -/
def SVal.zero : SVal := ⟨0, false⟩
/-- A clean lane of zero. -/
def Lane.zero : Lane := ⟨0, false⟩
/-- A clean vector of zeros. -/
def vecZero : Vec := List.replicate 64 Lane.zero
/-- R115: reading a scalar register; s0 reads a clean zero. -/
def Regs.rdS (r : Regs) (n : SReg) : SVal := if n = 0 then SVal.zero else getD SVal.zero n.toNat r.s
/-- R115: writing a scalar register; s0 discards. -/
def Regs.wrS (r : Regs) (n : SReg) (x : SVal) : Regs :=
  if n = 0 then r else { r with s := setD SVal.zero n.toNat x r.s }
/-- Reading a vector register. -/
def Regs.rdV (r : Regs) (n : VReg) : Vec := getD vecZero n.toNat r.v
/-- Writing a vector register. -/
def Regs.wrV (r : Regs) (n : VReg) (x : Vec) : Regs := { r with v := setD vecZero n.toNat x r.v }
/-- R115: reading a predicate; p0 reads all ones. -/
def Regs.rdP (r : Regs) (n : PReg) : Word := if n = 0 then BitVec.allOnes 64 else getD 0 n.toNat r.p
/-- R115: writing a predicate; p0 discards. -/
def Regs.wrP (r : Regs) (n : PReg) (x : Word) : Regs := if n = 0 then r else { r with p := setD 0 n.toNat x r.p }
/-- Reading a shape register. -/
def Regs.rdSh (r : Regs) (n : ShReg) : Shape := getD ⟨0, false⟩ n.toNat r.sh
/-- Writing a shape register. -/
def Regs.wrSh (r : Regs) (n : ShReg) (x : Shape) : Regs := { r with sh := setD ⟨0, false⟩ n.toNat x r.sh }
/-- Reading a geometry register. -/
def Regs.rdG (r : Regs) (n : GReg) : BitVec 256 := getD 0 n.toNat r.g
/-- Writing a geometry register. -/
def Regs.wrG (r : Regs) (n : GReg) (x : BitVec 256) : Regs := { r with g := setD 0 n.toNat x r.g }
/-- A lane of a vector. -/
def Vec.lane (v : Vec) (i : Nat) : Lane := nth Lane.zero v i
/-- The zero row of an accumulator: 32 clean elements of +0.0. -/
def accRow : List Lane := List.replicate 32 Lane.zero
/-- The key of row m of accumulator a in `Core.acc`. -/
def accKey (a m : Nat) : Nat := 32 * a + m

/-- Little-endian bytes of a number (R4). -/
def leBytes : Nat → Nat → List Byte
  | 0, _ => []
  | n + 1, v => BitVec.ofNat 8 v :: leBytes n (v / 256)

/-- The number that little-endian bytes hold. -/
def leNat : List Byte → Nat
  | [] => 0
  | b :: l => b.toNat + 256 * leNat l

/-- The physical base of a core's own scratchpad in the system ranges (Table 10.1). -/
def padBase (t : Nat) : Nat := if isKs t then 0x03C000000000 else 0x03A000000000 + t * 0x400000
/-- The bytes of a core's own scratchpad. -/
def padSize (t : Nat) : Nat := if isKs t then 0x400000 else 0x100000

/-- R179: byte `i` of the default codebook table. -/
def tableByte (i : Nat) : Byte := if i % 2 = 0 then BitVec.ofNat 8 (i / 2) else BitVec.ofNat 8 (i / 2) ^^^ 0xFF

/-- What an unlisted byte of memory reads as (log entry 3): the default codebook table of R179 in each scratchpad,
zero elsewhere. -/
def blank (pa : Nat) : Byte :=
  if 0x03A000000000 ≤ pa && pa < 0x03B900000000 then
    (let o := pa % 0x400000
     if 0xFFE00 ≤ o && o < 0x100000 then tableByte (o - 0xFFE00) else 0)
  else if 0x03C0003FFE00 ≤ pa && pa < 0x03C000400000 then tableByte (pa - 0x03C0003FFE00)
  else 0

/-- A byte of memory. -/
def readByte (s : State) (pa : Nat) : Byte := (find pa s.mem).getD (blank pa)
/-- The memory with a byte written; an entry equal to the blank byte is not listed. -/
def memPut (m : Map Byte) (pa : Nat) (b : Byte) : Map Byte := if b = blank pa then del pa m else put pa b m
/-- The canonical form of memory: addresses strictly rising, and no entry equal to what an unlisted address reads as. -/
def Memory.wf (m : Map Byte) : Bool := mapWf m && m.all (fun e => e.2 != blank e.1)
/-- The state with a byte written. -/
def writeByte (s : State) (pa : Nat) (b : Byte) : State := { s with mem := memPut s.mem pa b }
/-- The bytes of a range. -/
def readBytes (s : State) (pa : Nat) : Nat → List Byte
  | 0 => []
  | n + 1 => readByte s pa :: readBytes s (pa + 1) n
/-- The state with the bytes of a range written. -/
def writeBytes (s : State) (pa : Nat) : List Byte → State
  | [] => s
  | b :: l => writeBytes (writeByte s pa b) (pa + 1) l
/-- A little-endian number of n bytes. -/
def readLe (s : State) (pa n : Nat) : Nat := leNat (readBytes s pa n)
/-- The state with a little-endian number written. -/
def writeLe (s : State) (pa n v : Nat) : State := writeBytes s pa (leBytes n v)
/-- The poison bit of the line of a byte (R261). -/
def linePoison (s : State) (pa : Nat) : Bool := getD false (pa / 64) s.poison
/-- Whether an error has struck a place and has not been found (log entry 78). -/
def isStruck (s : State) (x : Struck) : Bool := s.struck.any (fun e => e.2 == x && s.sched.length ≤ e.1)
/-- The errors of a state that a fresh write of some places leaves (R202). -/
def strikesLeft (s : State) (p : Struck → Bool) : List (Nat × Struck) :=
  s.struck.filter (fun e => !(p e.2 && s.sched.length ≤ e.1))
/-- Whether a read of a byte finds its line poisoned, or a word of it uncorrectable (R261). -/
def lineBad (s : State) (pa : Nat) : Bool := linePoison s pa || isStruck s (.line (pa / 64))
/-- The state with the poison bit of a line set or cleared. -/
def setLinePoison (s : State) (pa : Nat) (b : Bool) : State :=
  { s with poison := setD false (pa / 64) b s.poison, struck := strikesLeft s (fun x => x == .line (pa / 64)) }
/-- Whether any byte of a range lies in a poisoned line. -/
def rangePoison (s : State) (pa n : Nat) : Bool := (upTo n).any (fun i => linePoison s (pa + i))
/-- R202: a clean write of bytes; a line written in full loses its poison. -/
def writeClean (s : State) (pa : Nat) (l : List Byte) : State :=
  let s := writeBytes s pa l
  (upTo (l.length / 64 + 1)).foldl (fun s i =>
    let a := (pa + 63) / 64 * 64 + 64 * i
    if a + 64 ≤ pa + l.length then setLinePoison s a false else s) s

/-- The next free value (log entry 7). -/
def takeFree (s : State) : Byte × State := (Config.freeByte s.free, { s with free := s.free + 1 })

/-- R191: the mixing step of the random-bit generator. -/
def rngMix (z : Word) : Word :=
  let z := z ^^^ (z >>> 31)
  let z := z * 0xD1B54A32D192ED03
  let z := z ^^^ (z >>> 29)
  let z := z * 0x9E6C63D0676A9A99
  z ^^^ (z >>> 32)

/-- R191: word w of entry n of a thread's stream. -/
def rngWord (seed : Word) (tag : BitVec 24) (n w : Nat) : Word :=
  let base := rngMix (seed ^^^ (tag.setWidth 64 * 0xA3B195354A39B70D))
  rngMix (base ^^^ BitVec.ofNat 64 (n * 16 + w))

/-- R191: entry n of a thread's stream. -/
def rngEntry (seed : Word) (tag : BitVec 24) (n : Nat) : BitVec 1024 :=
  BitVec.ofNat 1024 ((upTo 16).foldl (fun a w => a + (rngWord seed tag n w).toNat * 2 ^ (64 * w)) 0)

/-- Lane i of an entry: its 16 random bits. -/
def rngLane (e : BitVec 1024) (i : Nat) : Nat := e.toNat / 2 ^ (16 * i) % 65536

/-- R191: the generator places one entry. -/
def Rng.refill (r : Rng) (seed : Word) (tag : BitVec 24) : Rng :=
  { r with ent := setD 0 ((r.head.toNat + r.cnt) % 4) (rngEntry seed tag r.ctr.toNat) r.ent, ctr := r.ctr + 1,
           cnt := r.cnt + 1 }

/-- R191: a pop; past the queue, the entry that the generator computes for the bundle (R133). -/
def Rng.pop (r : Rng) (seed : Word) (tag : BitVec 24) : BitVec 1024 × Rng :=
  if r.cnt = 0 then (rngEntry seed tag r.ctr.toNat, { r with ctr := r.ctr + 1 })
  else (getD 0 r.head.toNat r.ent, { r with head := r.head + 1, cnt := r.cnt - 1 })

/-- The name as the address order of Table 3.1 reads it: a field by its low bit and width. -/
def nameField (n : Name) (lo w : Nat) : Nat := n.toNat / 2 ^ lo % 2 ^ w
/-- The tensor ID of a name. -/
def nameTid (n : Name) : Nat := nameField n 72 24
/-- The coordinates of a name, as bits [71:32]. -/
def nameCoords (n : Name) : Nat := nameField n 32 40
/-- The context of a name's tag. -/
def nameCtx (n : Name) : Nat := nameField n 24 8
/-- The iteration of a name's tag. -/
def nameIter (n : Name) : Nat := nameField n 8 16
/-- The plane of a name. -/
def namePlane (n : Name) : Nat := nameField n 0 8
/-- A name from its fields (Table 3.1). -/
def mkName (tid coords ctx iter plane : Nat) : Name :=
  BitVec.ofNat 96 (tid % 2 ^ 24 * 2 ^ 72 + coords % 2 ^ 40 * 2 ^ 32 + ctx % 256 * 2 ^ 24 + iter % 65536 * 256 + plane % 256)
/-- A name with iteration 0: the key of its multicast tree (log entry 13). -/
def nameAnyIter (n : Name) : Name := mkName (nameTid n) (nameCoords n) (nameCtx n) 0 (namePlane n)

/-- R351: the reset value of half an MSI-X table entry: its address 0, and its data 0 with the vector masked (log entry 88). -/
def msixReset (k : Nat) : Word := if k % 2 = 0 then 0 else 0x100000000

/-- R351: half entry k of a port's MSI-X table: the message address, or the message data with the vector control above it. -/
def msixHalf (s : State) (port k : Nat) : Word := let j := 4096 * port + k; getD (msixReset j) j s.msixTab

/-- Whether a vector of a port is unmasked. -/
def msixOpen (s : State) (port vec : Nat) : Bool := !(msixHalf s port (2 * vec + 1)).getLsbD 32

/-- R351: the message of a vector is sent. -/
def sendVector (s : State) (port vec : Nat) : State :=
  { s with outHost := s.outHost ++ [.msix port vec (msixHalf s port (2 * vec)) ((msixHalf s port (2 * vec + 1)).setWidth 32)] }

/-- R94, R362: a vector raised on a port: sent when unmasked, pending when masked (R351). -/
def raiseVector (s : State) (port vec : Nat) : State :=
  if msixOpen s port (vec % 2048) then sendVector s port (vec % 2048)
  else { s with msixPend := setD false (2048 * port + vec % 2048) true s.msixPend }

/-- R362: appends an event log entry and raises the enabled vectors. -/
def logEvent (s : State) (kind : Nat) (data : List Word) : State :=
  let n := (msRaw s 0x818).toNat
  let a := 0x3F81000000 + 64 * (n % 1024)
  let ws := [s.kcyc, BitVec.ofNat 64 kind] ++ data ++ List.replicate (6 - data.length) 0
  let s := writeClean s a (ws.flatMap (fun w => leBytes 8 w.toNat))
  let s := msPut s 0x818 (BitVec.ofNat 64 ((n + 1) % 2 ^ 32))
  (upTo 2).foldl (fun s p =>
    let v := (msRaw s (0x804 + p)).toNat
    if v / 2048 % 2 = 1 then raiseVector s p (v % 2048) else s) s

/-- The x coordinate of a core as records give it; the keystone's is 0 (R129). -/
def coreX (t : Nat) : Nat := if isKs t then 0 else tileX t
/-- The y coordinate of a core as records give it. -/
def coreY (t : Nat) : Nat := if isKs t then 0 else tileY t

/-- R335: the sequence number that the next poison record of a context takes. -/
def sinkSeq (s : State) (ctx : Nat) : Nat := getD 0 ctx s.sinks

/-- R335: appends a poison record (Table 14.5). -/
def poisonRecord (s : State) (w : Who) (kind : Nat) (act : Bool) (mask : Word) (wh : Nat) : State :=
  let n := sinkSeq s w.ctx
  let w0 := coreX w.tile + coreY w.tile * 2 ^ 8 + w.slot * 2 ^ 16 + kind * 2 ^ 20 + (if act then 2 ^ 24 else 0) +
    w.tag.toNat * 2 ^ 32
  let ws : List Nat := [w0, w.inst.toNat, wh % 2 ^ 64, mask.toNat, n % 2 ^ 32, (coreAt s w.tile).cyc.toNat, 0, 0]
  let s := writeClean s (0x3F80000000 + w.ctx % 256 * 0x10000 + 64 * (n % 1024)) (ws.flatMap (leBytes 8))
  { s with sinks := setD 0 w.ctx (n + 1) s.sinks }

/-- Whom a thread's sinks charge. -/
def whoOf (k : Nat) (th : Thread) : Who :=
  ⟨th.regs.tag.toNat / 65536, th.regs.tag, th.regs.inst, slotOf k, tileOf k⟩

/-- R129: the value of ctl.tile for a slot. -/
def ctlTile (s : State) (k : Nat) : Word :=
  let t := tileOf k
  let e := s.epoch.toNat * 2 ^ 48 + slotOf k * 2 ^ 32
  if isKs t then BitVec.ofNat 64 (e + 3 * 2 ^ 16)
  else BitVec.ofNat 64 (e + winOf s t * 2 ^ 24 + classOf s t * 2 ^ 16 + tileY t * 256 + tileX t)

/-- The code of a fault class (Table 0.4). -/
def FaultClass.code : FaultClass → Nat
  | .xlate => 1 | .perm => 2 | .align => 3 | .atomroute => 4 | .shape => 5 | .illegal => 6 | .priv => 7
  | .poisonsink => 8 | .poisondep => 9 | .scope => 10 | .homepath => 11 | .trapsw => 12 | .preempt => 13 | .nest => 14

/-- R318: word i of a fault record (Table 14.2). -/
def FaultRec.word (r : FaultRec) (i : Nat) : Word :=
  BitVec.ofNat 64 (match i with
    | 0 => r.cls.code + r.lvl * 2 ^ 8 + r.slot * 2 ^ 12 + r.x * 2 ^ 16 + r.y * 2 ^ 24 + r.tag.toNat * 2 ^ 32
    | 1 => r.inst.toNat + r.epoch.toNat * 2 ^ 48
    | 2 => r.pc.toNat + r.nsyl * 2 ^ 24 + r.fsyl * 2 ^ 27
    | 3 => r.syl.toNat
    | 4 => match r.addr with
      | none => 0
      | some a => a.toNat + 2 ^ 63
    | 5 => r.aux.toNat
    | 6 => r.cyc.toNat
    | 7 => r.via * 2 ^ 16 + r.hsite * 2 ^ 32
    | _ => 0)

/-- The width of the scopes that a path's targets belong to (Table 11.1). -/
def Path.scope : Path → Nat
  | .own => 0
  | .view => 1
  | .sys | .bonded | .hbm => 2
  | .host | .peer => 3

/-- The graph of a context. -/
def graphAt (s : State) (c : Nat) : Option Graph := find c s.graphs
/-- The state with a graph updated. -/
def updGraph (s : State) (c : Nat) (f : Graph → Graph) : State :=
  match graphAt s c with
  | none => s
  | some g => { s with graphs := put c (f g) s.graphs }

/-! Stream commands, their engines and their patterns (R284, R285, R287). -/

/-- The stream commands of a core. -/
def cmdsOf (c : Core) : List Cmd := c.eng0 ++ c.eng1

/-- The command queue of an engine. -/
def engOf (c : Core) (e : Nat) : List Cmd := if e = 0 then c.eng0 else c.eng1
/-- The core with an engine's queue replaced. -/
def setEng (c : Core) (e : Nat) (l : List Cmd) : Core := if e = 0 then { c with eng0 := l } else { c with eng1 := l }

/-- Segments of an operand buffer: 288 of 64 bytes for each of four. -/
def obSeg (b i : Nat) : Nat := 288 * b + i

/-- The operand buffer of a port. -/
def portOb : Port → Option Nat
  | .ob0 => some 0 | .ob1 => some 1 | .ob2 => some 2 | .ob3 => some 3
  | .bnd | .rim | .hname | .view => none

/-- Count i of a pattern (Table 12.1). -/
def patN (p : BitVec 256) (i : Nat) : Nat := p.toNat / 2 ^ (64 + 16 * i) % 65536
/-- Stride i of a pattern. -/
def patSt (p : BitVec 256) (i : Nat) : Int := (BitVec.ofNat 32 (p.toNat / 2 ^ (128 + 32 * i))).toInt
/-- Elements of a pattern (R284). -/
def patE (p : BitVec 256) : Nat := patN p 0 * patN p 1 * patN p 2 * patN p 3
/-- R284: the port-side address of an element. -/
def patA (p : BitVec 256) (e : Nat) : Nat :=
  let n0 := patN p 0
  let n1 := patN p 1
  let n2 := patN p 2
  let i0 := e % n0
  let i1 := e / n0 % n1
  let i2 := e / (n0 * n1) % n2
  let i3 := e / (n0 * n1 * n2)
  (((p.toNat % 2 ^ 53 : Nat) + i0 * patSt p 0 + i1 * patSt p 1 + i2 * patSt p 2 + i3 * patSt p 3 : Int) % 2 ^ 53).toNat
/-- The element width of a pattern. -/
def patW (p : BitVec 256) : Nat := 2 ^ (p.toNat / 2 ^ 53 % 4)
/-- R287: the port-side width of a command. -/
def Cmd.pw (c : Cmd) : Nat := if c.cv then c.ty.bits / 8 else patW c.pat
/-- R287: the scratchpad-side width of a command. -/
def Cmd.ws (c : Cmd) : Nat := if c.cv then 4 else patW c.pat

end Sys2Proof.Machine
end

