-- ==== Sys2Proof/Machine/Graphs.lean ====
section
/-! DEFINITION. What a loaded graph says about its templates, instances, subscriptions and publications: extents and
linear indices (R86), subscription coordinates and tag relations (R67 to R69), declarations and counts (Table 7.3). -/

namespace Sys2Proof.Machine

/-- The template entry with no code. -/
def Template.none : Template := ⟨0, 0, 0, 0, [], 1, 1, 1, 0, [], [], [], [], false⟩

/-- The template of a graph by number. -/
def tmplOf (g : Graph) (i : Nat) : Template :=
  match g.image with
  | Option.none => Template.none
  | some im => nth Template.none im.tmpls i

/-- A launch extent of the record (R90): n0, n1, n2 at bytes 8, 10 and 12. -/
def recExtent (record : List Byte) (k : Nat) : Nat := leNat ((record.drop (8 + 2 * k)).take 2)

/-- The extents n0, n1, n2 of a template; 0 declares `launch` (R90). -/
def extents (g : Graph) (tm : Template) : Nat × Nat × Nat :=
  let e (n k : Nat) := if n = 0 then recExtent g.record k else n
  (e tm.n0 0, e tm.n1 1, e tm.n2 2)

/-- Coordinate k of an instance: i0 [9:0], i1 [19:10], i2 [29:20]. -/
def coord (inst : BitVec 30) (k : Nat) : Nat := inst.toNat / 2 ^ (10 * k) % 1024

/-- An instance from its coordinates. -/
def mkInst (a b c : Nat) : BitVec 30 := BitVec.ofNat 30 (a + b * 2 ^ 10 + c * 2 ^ 20)

/-- R86: the linear index L of an instance. -/
def linIndex (g : Graph) (tm : Template) (i : BitVec 30) : Nat :=
  let e := extents g tm
  coord i 0 + e.1 * (coord i 1 + e.2.1 * coord i 2)

/-- The instances of a template in ascending linear index. -/
def instances (g : Graph) (tm : Template) : List (BitVec 30) :=
  let e := extents g tm
  (upTo e.2.2).flatMap (fun c => (upTo e.2.1).flatMap (fun b => (upTo e.1).map (fun a => mkInst a b c)))

/-- R67, R68: coordinate cj of a subscription for an instance, exactly. -/
def subCoord (sd : SubDecl) (i : BitVec 30) (j : Nat) : Int :=
  nth 0 sd.coef (3 * j) * coord i 0 + nth 0 sd.coef (3 * j + 1) * coord i 1 + nth 0 sd.coef (3 * j + 2) * coord i 2 +
    nth 0 sd.offs j

/-- R68: whether a subscription is void for an instance. -/
def subVoid (sd : SubDecl) (i : BitVec 30) : Bool :=
  (upTo 4).any (fun j => subCoord sd i j < 0 || 1023 < subCoord sd i j)

/-- The coordinates c3 to c0 of a subscription, as the name holds them. -/
def subCoords (sd : SubDecl) (i : BitVec 30) : Nat :=
  (upTo 4).foldl (fun a j => a + (subCoord sd i j).toNat * 2 ^ (10 * j)) 0

/-- The name a subscription binds at an iteration. -/
def subName (sd : SubDecl) (i : BitVec 30) (ctx iter : Nat) : Name := mkName sd.tid (subCoords sd i) ctx iter sd.plane

/-- Whether a name is one that a subscription binds at some iteration. -/
def subBinds (sd : SubDecl) (i : BitVec 30) (ctx : Nat) (n : Name) : Bool :=
  !subVoid sd i && nameAnyIter n == subName sd i ctx 0

/-- The templates of a stage with their numbers. -/
def stageTmpls (g : Graph) (st : Nat) : List (Nat × Template) :=
  match g.image with
  | Option.none => []
  | some im => match im.stages[st]? with
    | Option.none => []
    | some sg => (upTo sg.count).map (fun k => (sg.first + k, nth Template.none im.tmpls (sg.first + k)))

/-- The `.pub` of a tensor in the graph's current stage. -/
def stagePub (g : Graph) (tid : Nat) : Option PubDecl :=
  pick (fun (e : Nat × Template) => e.2.pubs.find? (fun p => p.tid == tid)) (stageTmpls g g.stage)

/-- Table 7.3: the subscriptions of later stages that bind a name, one for each instance (log entry 10). -/
def laterSubs (g : Graph) (n : Name) : Nat :=
  match g.image with
  | Option.none => 0
  | some im => ((upTo im.stages.length).filter (fun k => g.stage < k)).foldl (fun a k =>
      (stageTmpls g k).foldl (fun a e => (instances g e.2).foldl (fun a i =>
        a + (e.2.subs.filter (fun sd => subBinds sd i (nameCtx n) n)).length) a) a) 0

/-- The nsub of a publication whose tensor the stage declares with `.pub`. -/
def declNsub (g : Graph) (p : PubDecl) (n : Name) : Nat :=
  match p.nsub with
  | some k => k
  | Option.none => laterSubs g n % 65536

/-- The name entry of a tensor (Table 7.6). -/
def nameDecl (g : Graph) (tid : Nat) : Option NameDecl :=
  match g.image with
  | Option.none => Option.none
  | some im => im.names.find? (fun d => d.tid == tid)

/-- R64: whether a tensor's names are marked clean. -/
def nameClean (g : Graph) (tid : Nat) : Bool :=
  match nameDecl g tid with
  | Option.none => false
  | some d => d.clean

/-- R43: the bay that a tensor's names are local to. -/
def nameBay (g : Graph) (tid : Nat) : Option Nat :=
  match nameDecl g tid with
  | some ⟨_, _, some (x, y)⟩ => some (16 * y + x)
  | _ => Option.none

/-- The tensor entry of a pier tensor (R79). -/
def pierTensor (g : Graph) (tid : Nat) : Option Tensor :=
  match g.image with
  | Option.none => Option.none
  | some im => im.tensors.find? (fun t => t.tid == tid && t.pier)

/-- The code that a graph binds to a fault class (R319). -/
def handlerOf (g : Graph) (c : FaultClass) : Option HandlerDecl :=
  match g.image with
  | Option.none => Option.none
  | some im => im.handlers.find? (fun h => h.cls == c.code)

/-- R445: sv and splane of a publication from its plane and format. -/
def scalePlane (plane fmt : Nat) : Bool × BitVec 8 :=
  if plane = 0 && (fmt = 4 || fmt = 5 || fmt = 10) then (true, 1) else (false, 0)

/-- The empty input of a void subscription (R68). -/
def emptyInput (sd : SubDecl) : Pub :=
  { name := mkName sd.tid 0 0 0 sd.plane, nsub := 0, sv := false, splane := 0, pmap := 0, rel := false, clean := false,
    wp := false, scope := 0, fmt := 0, data := [] }

/-- The 32 header bytes of a publication (Table 3.3). -/
def pubHeader (p : Pub) : List Byte :=
  let lo := p.name.toNat + p.data.length * 2 ^ 96 + p.fmt * 2 ^ 112 + p.scope * 2 ^ 120 +
    (if p.wp then 2 ^ 122 else 0) + (if p.clean then 2 ^ 123 else 0) + (if p.rel then 2 ^ 124 else 0)
  leBytes 16 lo ++ leBytes 8 p.pmap.toNat ++
    leBytes 8 (p.splane.toNat + (if p.sv then 256 else 0) + p.nsub % 65536 * 65536)

/-- Whether payload byte i of a publication is poisoned (R71, R293). -/
def pubBad (p : Pub) (i : Nat) : Bool := p.wp || p.pmap.getLsbD (i / 256)

/-- The payload that a delivery carries: blocks of a clean publication that are poisoned are zero (R64). -/
def pubByte (p : Pub) (i : Nat) : Byte := if p.clean && pubBad p i then 0 else nth 0 p.data i

/-- R262: a publication as it reads from the cache of a router: a payload block found uncorrectable has its pmap bit set. -/
def readCopy (s : State) (t : Nat) (p : Pub) : Pub :=
  { p with pmap := (upTo ((p.data.length + 255) / 256)).foldl (fun m i =>
      if isStruck s (.block t p.name i) then m ||| (1#64 <<< i) else m) p.pmap }

/-- R262: whether both headers of a router's copy of a name are uncorrectable. -/
def headerLost (s : State) (t : Nat) (n : Name) : Bool := isStruck s (.header t n)

/-- A router writes a copy of a name afresh: the errors that struck its place are gone. -/
def freshCopy (s : State) (t : Nat) (n : Name) : State :=
  { s with struck := strikesLeft s (fun x => match x with
      | .block u m _ => u == t && m == n
      | .header u m => u == t && m == n
      | .line _ => false
      | .seg _ _ => false) }

/-- The live subscriptions of a template for an instance that are not void, with their numbers. -/
def liveSubs (tm : Template) (i : BitVec 30) : List (Nat × SubDecl) :=
  ((upTo tm.subs.length).zip tm.subs).filter (fun e => !subVoid e.2 i)

/-- Whether an instance of a template needs no publication: no subscription, or all void (R69). -/
def noInputs (tm : Template) (i : BitVec 30) : Bool := (liveSubs tm i).isEmpty

/-- R69: the subscription whose publication gives an instance of an iteration its tag, where it has no `same` one: the lowest
that binds a publication, which a `minus one` does not at iteration 0. -/
def tagSource (tm : Template) (i : BitVec 30) (it : Nat) : Option Nat :=
  ((liveSubs tm i).find? (fun e => !(e.2.rel == 1 && it == 0))).map (fun e => e.1)

/-- R69, Table 3.6: the iteration of an identity that a publication names through subscription j, when the relation
gives one: by `same` and `minus one`, or by the subscription that gives the tag when there is no `same`. -/
def identIter (tm : Template) (i : BitVec 30) (j : Nat) (sd : SubDecl) (n : Name) : Option Nat :=
  let k := nameIter n
  let same := (liveSubs tm i).any (fun e => e.2.rel == 0)
  if sd.rel = 0 || (!same && tagSource tm i k = some j) then some k
  else if sd.rel = 1 && (same || tagSource tm i (k + 1) != some j) && k + 1 < 65536 then some (k + 1)
  else Option.none

/-- R69: whether an `any` subscription of an identity may take a publication: one that gives the tag takes its own tag only. -/
def anyFits (tm : Template) (id : Ident) (j : Nat) (n : Name) : Bool :=
  (liveSubs tm id.inst).any (fun e => e.2.rel == 0) || tagSource tm id.inst (id.tag.toNat % 65536) != some j ||
    nameIter n == id.tag.toNat % 65536

/-- Whether subscription j of an identity is satisfied, by an entry or by an empty input (R68, R69). -/
def subDone (id : Ident) (store : List MEntry) (j : Nat) (sd : SubDecl) : Bool :=
  subVoid sd id.inst ||
  (sd.rel == 1 && id.tag.toNat % 65536 == 0) ||
  store.any (fun e => e.id == id && e.sub == j)

/-- R70: whether every subscription of an identity is satisfied. -/
def identReady (tm : Template) (id : Ident) (store : List MEntry) : Bool :=
  ((upTo tm.subs.length).zip tm.subs).all (fun e => subDone id store e.1 e.2)

/-- The bound inputs of an identity (R70). -/
def identInputs (tm : Template) (id : Ident) (store : List MEntry) : List Input :=
  ((upTo tm.subs.length).zip tm.subs).map (fun e =>
    let p := match store.find? (fun m => m.id == id && m.sub == e.1) with
      | some m => m.pub
      | Option.none => emptyInput e.2
    ⟨e.1, e.2.at_, p, p.wp && !e.2.p⟩)

/-- The identity of a task thread. -/
def identOf (th : Thread) : Ident :=
  ⟨th.graph.getD 0, th.regs.inst.toNat / 2 ^ 32, BitVec.ofNat 30 th.regs.inst.toNat, th.regs.tag⟩

/-- The placement of an identity. -/
def placedAt (g : Graph) (id : Ident) : Option Placed :=
  g.placed.find? (fun p => p.tmpl == id.tmpl && p.inst == id.inst)

/-- R43, R362: the loss of a name is logged with its tensor. -/
def nameLost (s : State) (n : Name) : State := logEvent s 4 [BitVec.ofNat 64 (nameTid n)]

/-- R79, R80: the pier that serves a name of plane 0 of a pier tensor. -/
def pierOf (s : State) (n : Name) : Option Nat :=
  if namePlane n != 0 then none
  else match graphAt s (nameCtx n) with
    | none => none
    | some g => (pierTensor g (nameTid n)).map (fun t => t.base / 2 ^ 36)

/-- R52, R262: a name whose headers are both uncorrectable where it is held is lost, unless its tensor falls through to a pier. -/
def loseName (s : State) (n : Name) : State := if (pierOf s n).isSome then s else nameLost s n

/-- R262: a tile reads some of the publications that it holds at tile scope: one whose headers are both uncorrectable is lost. -/
def readTile (s : State) (t : Nat) (sel : Name → Bool) : State :=
  let l := ((coreAt s t).tilePubs.filter (fun e => sel e.1.name && headerLost s t e.1.name)).map (fun e => e.1.name)
  if l.isEmpty then s
  else l.foldl loseName (updCore s t (fun c => { c with tilePubs := c.tilePubs.filter (fun e => !l.contains e.1.name) }))

/-- R78: whether a stage after one subscribes the tensor of a name. -/
def laterSubscribes (g : Graph) (stage : Nat) (n : Name) : Bool :=
  (upTo ((g.image.map (fun im => im.stages.length)).getD 0)).any (fun st => stage < st &&
    (stageTmpls g st).any (fun e => e.2.subs.any (fun d => d.tid == nameTid n)))

/-- R78: whether the stage that published a name has ended, and no later one subscribes its tensor: the publication is freed, and one that
is still on its way is kept nowhere. -/
def stagePast (s : State) (n : Name) (stage : Nat) : Bool :=
  (graphAt s (nameCtx n)).any (fun g => stage < g.stage && nameTid n < 0xFF0000 && !laterSubscribes g stage n)

end Sys2Proof.Machine
end

