-- ==== Sys2Proof/Machine/Posted.lean ====
section
/-! DEFINITION. Accesses entering flight, and the posted writes to hosts with the zero-length reads that acknowledge them (R246, R280). -/

namespace Sys2Proof.Machine

/-- The abutment's port of a host aperture address, and the host address (R246). -/
def hostAddr (pa : Nat) : Nat × Nat :=
  if pa < 0x080000000000 then (0, pa - 0x040000000000) else (1, pa - 0x080000000000)

/-- An element of an access. -/
def mkElem (lanes : List Nat) (x : Nat × Nat × Path) (w : Nat) (data data2 : Word) (mask : List Bool) : Elem :=
  { lanes := lanes, va := x.1, pa := x.2.1, w := w, path := x.2.2, data := data, data2 := data2, mask := mask,
    done := false, sent := false, cut := false, got := 0, gotP := false }

/-- A new access enters flight. -/
def addAccess (s : State) (a : Access) : State :=
  { s with inflight := s.inflight ++ [{ a with id := s.nextAcc }], nextAcc := s.nextAcc + 1 }

/-- Whether an access is the zero-length read of a port that acknowledges posted writes (R280). -/
def Access.flushes (a : Access) (port : Nat) : Bool :=
  a.elems.any (fun e => e.w == 0 && (hostAddr e.pa).1 == port)

/-- Whether an access holds posted writes to a port that are not acknowledged. -/
def Access.posts (a : Access) (port : Nat) : Bool :=
  a.kind == .store && a.elems.any (fun e => e.path == .host && (hostAddr e.pa).1 == port && !e.done)

/-- Whether a chunk is a posted write to a port that is not acknowledged. -/
def Chunk.posts (k : Chunk) (port : Nat) : Bool := k.path == .host && k.sent && k.waiting && (hostAddr k.pa).1 == port

/-- The lowest numbers of the reads that acknowledge a thread's posted writes to a port: its stores', and those of its stream
commands that have left. -/
def postedTo (s : State) (uid port : Nat) : List Nat :=
  (s.inflight.filter (fun a => a.uid == uid && a.posts port)).map (fun a => a.id + 1) ++
    s.cores.flatMap (fun e => (cmdsOf e.2).flatMap (fun c => if c.uid == uid && c.out then
      (c.chunks.filter (fun k => k.posts port)).map (fun k => k.left) else []))

/-- R280: a zero-length read on a port for a thread, unless every earlier posted write of it there is acknowledged or has one behind
it. -/
def flushPort (uid : Nat) (w : Who) (psink : Bool) (s : State) (port : Nat) : State :=
  if (postedTo s uid port).any (fun n => !s.inflight.any (fun b => b.uid == uid && n ≤ b.id && b.flushes port)) then
    let base := if port = 0 then 0x040000000000 else 0x080000000000
    addAccess s { id := 0, uid := uid, tile := w.tile, kind := .load, ty := .u8, dst := .none, poison := false,
                  elems := [mkElem [] (base, base, .host) 0 0 0 []], scp := 0, acq := false, rel := false, ctx := w.ctx, who := w,
                  psink := psink, miss := false, leaves := [], serves := none, ahead := [] }
  else s

/-- Whom the sinks of a command charge, and whether its thread takes POISONSINK. -/
def cmdWho (s : State) (c : Cmd) : Who × Bool :=
  match keyOfUid s c.uid with
  | none => (c.who, false)
  | some k => match threadAt s k with
    | none => (c.who, false)
    | some th => (whoOf k th, th.regs.psink)

/-- R280: once a command can start no further chunk, and those that write host memory have left, a zero-length read goes behind them,
whose completion acknowledges them: all its chunks have started or 16 are in flight, or it is cancelled, stopped, or meets a fault. -/
def flushCmd (s : State) (t : Nat) (c : Cmd) : State :=
  match (engOf (coreAt s t) c.eng).find? (fun d => d.uid == c.uid && d.seq == c.seq) with
  | none => s
  | some d =>
    if d.out && (patE d.pat ≤ d.next || 16 ≤ d.chunks.length || d.cancelled || d.stopped || d.held.isSome) &&
        d.chunks.all (fun k => k.path != .host || k.sent) then
      let w := cmdWho s d
      [0, 1].foldl (flushPort d.uid { w.1 with tile := t } w.2) s
    else s

/-- R278, R280: the reads that acknowledge the posted writes of some accesses, each for the thread that made it. -/
def flushOf (p : Access → Bool) (s : State) : State :=
  (s.inflight.filter (fun a => p a && (a.posts 0 || a.posts 1))).foldl (fun s a =>
    [0, 1].foldl (flushPort a.uid a.who a.psink) s) s

end Sys2Proof.Machine
end

