-- ==== Sys2Proof/Machine/Ops.lean ====
section
/-! DEFINITION. The operations that events and instructions share: publications sent by the device, launch completions,
residency (R105), taking a fault and serving its record (R313 to R321), resuming (R327) and killing (R329). -/

namespace Sys2Proof.Machine

/-- The site number that a record gives for a core; the keystone's own is 21,504 (Table 14.2). -/
def coreSite (t : Nat) : Nat := if isKs t then 21504 else siteOf t

/-- R57: a publication on plane 0 publishes an exit of its graph: of its current stage, or of one to come. -/
def markExit (s : State) (n : Name) : State :=
  if namePlane n != 0 then s
  else updGraph s (nameCtx n) (fun g =>
    let e := BitVec.ofNat 64 (n.toNat / 2 ^ 32)
    let own := match g.image with
      | none => []
      | some im => (im.stages.drop g.stage).flatMap (fun (d : StageDecl) => d.exits)
    if own.contains e && !g.exitsDone.contains e then { g with exitsDone := g.exitsDone ++ [e] } else g)

/-- A publication leaves a core for its home, or for its tile at tile scope (R65), once the accesses
`after` have taken effect at targets of a scope. -/
def sendPub (s : State) (p : Pub) (tile uid : Nat) (after : List Nat) (scp : Nat) : State :=
  let s := markExit s p.name
  let stage := ((graphAt s (nameCtx p.name)).map (fun g => g.stage)).getD 0
  { s with net := s.net ++ [.pub p tile uid after scp stage] }

/-- The ids of the accesses of a thread that a release at a scope waits for (R271, R280). -/
def releaseList (s : State) (uid scp : Nat) : List Nat :=
  ((s.inflight.filter (fun a => a.uid == uid && a.id < s.issue.acc0 &&
    a.elems.any (fun e => !e.done && e.path.scope ≤ scp))).map
    (fun a => a.id))

/-- R278: the accesses that acquires of a killed thread's outputs follow: its own and its handler's, to wafer targets. -/
def killList (s : State) (uid : Nat) : List Nat :=
  ((s.inflight.filter (fun a => (a.uid == uid || a.serves == some uid) &&
    a.elems.any (fun e => !e.done && e.path.scope ≤ 2))).map (fun a => a.id))

/-- Whether a tile's cores stop making instances resident: its bay is gated or being vacated, or it loses its core. -/
def tileClosed (s : State) (t : Nat) : Bool :=
  let shut (v : Option Vacate) : Bool := match v with
    | none => false
    | some w => w.bays.contains (bayOf t) || w.sites.contains t
  getD false (bayOf t) s.gated || shut s.vacate || shut s.lowVac || !computeCapable s t

/-- R346: whether an identity moves with its span group, though its own tile is not emptied. -/
def movesAway (s : State) (id : Ident) : Bool := s.lowVac.any (fun v => v.also.contains (id.ctx, id.tmpl, id.inst))

/-- R110: whether a bay may be gated: awake, not queued for a wake, without a thread or a fired instance. -/
def gateable (s : State) (bay : Nat) : Bool :=
  bays.contains bay && !getD false bay s.gated && !s.wakeQ.contains bay && !s.inrush.contains bay &&
  s.threads.all (fun e => bayOf (tileOf e.1) != bay) &&
  s.cores.all (fun e => bayOf e.1 != bay || (e.2.fired ++ e.2.cursor).isEmpty)

/-- R109: whether the core, matrix unit, stream engines and scratchpad of a tile are switched off: its bay is gated (log entry 91). -/
def asleep (s : State) (t : Nat) : Bool := !isKs t && getD false (bayOf t) s.gated

/-- The base level of an identity: its graph's priority (R101). -/
def identLevel (s : State) (id : Ident) : Nat :=
  match graphAt s id.ctx with
  | none => 0
  | some g => g.prio

/-- Whether an identity's template holds the accumulator file (R118). -/
def identMatrix (s : State) (id : Ident) : Bool :=
  match graphAt s id.ctx with
  | none => false
  | some g => (tmplOf g id.tmpl).matrix

/-- The registers of R122 for a thread of a graph with a priority, a tag and an instance. -/
def firingRegs (prio : Nat) (tag : BitVec 24) (inst : BitVec 48) : Regs :=
  { Regs.reset with tag := tag, inst := inst, lprio := BitVec.ofNat 3 prio, level := BitVec.ofNat 3 prio }

/-- A thread about to issue its first bundle. -/
def newThread (uid : Nat) (kind : Kind) (graph : Option Nat) (priv : Nat) (regs : Regs) (pc : Nat) (start : Word) :
    Thread :=
  { uid := uid, kind := kind, graph := graph, priv := priv, regs := regs, pc := BitVec.ofNat 64 pc, status := .ready,
    bundle := none, fault := none, fzGen := 0, pass := false, held := [], dyn := [], subsN := 0, inputs := [], member := none, arrived := 0,
    excused := [], episode := [], dying := false, strm0 := 0, strm1 := 0, start := start, ran := 0, waited := 0, fetched := [] }

/-- The element of a list of waiting identities that a freed slot takes: the first of the highest level (R105). -/
def bestWaiting (s : State) (held : Bool) : List (Ident × Word) → Option (Ident × Word)
  | [] => none
  | e :: l =>
    let r := bestWaiting s held l
    if held && identMatrix s e.1 then r
    else match r with
      | none => some e
      | some f => if identLevel s e.1 < identLevel s f.1 then some f else some e

/-- R105, R118, R122: an identity becomes resident in a slot. A saved one waits for its RESTORE, one with
subscriptions for its input copies; any other is ready. -/
def makeResident (s : State) (t j : Nat) (e : Ident × Word) : State :=
  let id := e.1
  match graphAt s id.ctx with
  | none => s
  | some g =>
    let tm := tmplOf g id.tmpl
    match s.saved.find? (fun v => identOf v.th == id && v.to_ == some t && v.th.kind == .task) with
    | some v =>
      let s := setThread s (keyOf t j) { v.th with status := .waiting .cond }
      updCore s t (fun c => { c with
        copying := c.copying ++ [(id, j)],
        holder := if v.acc.isSome then some v.th.uid else c.holder })
    | none =>
      let uid := s.nextUid
      let regs := { firingRegs g.prio id.tag (BitVec.ofNat 48 (id.tmpl * 2 ^ 32 + id.inst.toNat)) with
        g := tm.pats.foldl (fun m e => setD 0 e.1 e.2 m) [] }
      let th := newThread uid .task (some id.ctx) 0 regs tm.code e.2
      let ins := identInputs tm id (coreAt s t).store
      let th := { th with inputs := ins, member := (placedAt g id).bind (fun p => p.grp),
                          status := if ins.isEmpty then .ready else .waiting .cond }
      let s := setThread { s with nextUid := uid + 1 } (keyOf t j) th
      let s := if tm.matrix then { s with struck := strikesLeft s (fun x => match x with
        | .seg u _ => u == t
        | .line _ => false
        | .block _ _ _ => false
        | .header _ _ => false) } else s
      updCore s t (fun c =>
        let c := if ins.isEmpty then c else { c with copying := c.copying ++ [(id, j)] }
        if tm.matrix then { c with holder := some uid, acc := [], ob := [], obBad := [] } else c)

/-- R105: a tile's free task slots, the lowest-numbered first (DESIGN CHOICE, log entry 83), take waiting identities, by fuel over
the slots. -/
def fillSlots (t : Nat) : Nat → State → State
  | 0, s => s
  | fuel + 1, s =>
    if tileClosed s t then s
    else match (upTo 14).find? (fun j => (threadAt s (keyOf t j)).isNone) with
      | none => s
      | some j =>
        let c := coreAt s t
        match bestWaiting s c.holder.isSome ((c.fired ++ c.cursor).filter (fun e => !movesAway s e.1)) with
        | none => s
        | some e =>
          let s := updCore s t (fun c => if c.fired.contains e then { c with fired := c.fired.erase e }
            else { c with cursor := c.cursor.erase e })
          fillSlots t fuel (makeResident s t j e)

/-- R105: a tile's free task slots take waiting identities. -/
def fill (s : State) (t : Nat) : State := if isKs t then s else fillSlots t 14 s

/-- R92: an instance's own cycles enter its graph's figures. -/
def countRun (s : State) (t : Nat) (th : Thread) : State :=
  match th.kind, th.graph with
  | .task, some c =>
    let r := th.ran + ((coreAt s t).cyc - th.start).toNat
    updGraph s c (fun g => { g with runsum := g.runsum + r, maxrun := if g.maxrun < r then r else g.maxrun })
  | _, _ => s

/-- R291: a stream command's completion or chunk completion, if it has a name (Table 12.3). -/
def publishStream (s : State) (t : Nat) (c : Cmd) (st : Nat) (step : Option Nat) (bytes : Nat) : State :=
  if !c.named then s
  else
    let ctx := c.graph
    let coords := match step with
      | none => nameCoords c.name
      | some k => nameCoords c.name % 2 ^ 30 + k % 1024 * 2 ^ 30
    let n := mkName (nameTid c.name) coords ctx (nameIter c.name) (if step.isSome then 4 else 2)
    let nsub := match graphAt s ctx with
      | none => 1
      | some g => match stagePub g (nameTid n) with
        | none => 1
        | some d => declNsub g d n
    let cyc := if c.cyc < 2 ^ 32 then c.cyc else 2 ^ 32 - 1
    let data := leBytes 8 (bytes * 4 + st) ++ leBytes 4 c.seen ++ leBytes 4 cyc ++ List.replicate 16 0
    let clean := match graphAt s ctx with
      | none => false
      | some g => nameClean g (nameTid n)
    sendPub s { name := n, nsub := nsub, sv := false, splane := 0, pmap := 0, rel := true, clean := clean,
                wp := st != 0 || (c.anyBad && step.isNone), scope := c.scp, fmt := 0, data := data } t c.uid [] 0

/-- Threads of a core that wait on a register, a queue entry or the generator look again (R106). -/
def wakeTile (s : State) (t : Nat) : State :=
  (threadsOn s t).foldl (fun s e => match e.2.status with
    | .waiting .operand => setStatus s e.1 .ready
    | _ => s) s

/-- Whether an error strikes a segment of some operand buffers of a tile. -/
def segOf (t : Nat) (bufs : List Nat) (x : Struck) : Bool :=
  match x with
  | .seg u n => u == t && bufs.contains (n / 288)
  | .line _ => false
  | .block _ _ _ => false
  | .header _ _ => false

/-- R260: an error found in a segment of an operand buffer marks the segment. -/
def markSeg (m : Map Bool) (e : Nat × Struck) : Map Bool :=
  match e.2 with
  | .seg _ n => setD false n true m
  | .line _ => m
  | .block _ _ _ => m
  | .header _ _ => m

/-- R260, R261: a read of some operand buffers of a tile finds the errors that stand in their segments. -/
def findSegs (s : State) (t : Nat) (bufs : List Nat) : State :=
  let l := s.struck.filter (fun e => segOf t bufs e.2 && isStruck s e.2)
  let s := { s with struck := strikesLeft s (segOf t bufs) }
  updCore s t (fun c => { c with obBad := l.foldl markSeg c.obBad })

/-- The operand buffers that an operation names. -/
def MOp.buffers (o : MOp) : List Nat :=
  match o.kind with
  | .mma _ a b => [a.toNat, b.toNat]
  | .mmacb _ a b _ _ => [a.toNat, b.toNat]
  | .mzero => []
  | .mrd _ _ _ => []
  | .mwr _ _ _ => []

/-- Whether a fill of a buffer still waits for an operation issued before it to consume the buffer (R220). -/
def beforeFill (c : Core) (ord b : Nat) : Bool := c.mq.any (fun o => o.ord < ord && o.buffers.contains b && !o.consumed)

/-- R220, R222: the fills that ended before the operations issued before them had consumed their buffers poison their segments once
those have. -/
def settleEnds (c : Core) : Core :=
  { c with
    obBad := (c.ends.filter (fun e => !beforeFill c e.1 e.2.1)).foldl (fun m e =>
      e.2.2.foldl (fun m g => setD false (obSeg e.2.1 g) true m) m) c.obBad,
    ends := c.ends.filter (fun e => beforeFill c e.1 e.2.1) }

/-- The unstarted matrix operations of a thread discarded (R225). -/
def discardOps (s : State) (t uid : Nat) : State :=
  updCore s t (fun c => settleEnds { c with mq := c.mq.filter (fun m => m.uid != uid || m.started) })

/-- R222: a fill of an operand buffer that ends before it has written all its bytes poisons every segment of the buffer that the
elements of its prefix do not write in full; one with cons 1 does so no earlier than it could have written (R220). -/
def endFill (s : State) (t : Nat) (c : Cmd) : State :=
  match portOb c.port with
  | none => s
  | some b =>
    if patE c.pat ≤ c.pfx / c.ws then s
    else
      let cov := (upTo (c.pfx / c.ws)).flatMap (fun e => (upTo c.pw).map (fun i => patA c.pat e + i))
      let segs := (upTo 288).filter (fun g => !((upTo 64).all (fun i => cov.contains (64 * g + i))))
      updCore s t (fun k => settleEnds { k with ends := k.ends ++ [(if c.cons then c.ord else 0, b, segs)] })

/-- R118, R225: the accumulator file of an ended thread is released once none of its operations is left, and none of its fills
has a chunk in flight. -/
def releaseFile (s : State) (t uid : Nat) : State :=
  let c := coreAt s t
  if c.holder = some uid && !c.mq.any (fun m => m.uid == uid) &&
      !(cmdsOf c).any (fun d => d.uid == uid && (portOb d.port).isSome) then setCore s t { c with holder := none } else s

/-- The state with a command of a tile replaced. -/
def putCmd (s : State) (t : Nat) (c : Cmd) : State :=
  updCore s t (fun k => setEng k c.eng ((engOf k c.eng).map (fun d => if d.uid == c.uid && d.seq == c.seq then c else d)))

/-- The state with a command of a tile removed; threads that wait for an entry look again (R288). -/
def removeCmd (s : State) (t : Nat) (c : Cmd) : State :=
  wakeTile (updCore s t (fun k => setEng k c.eng ((engOf k c.eng).filter (fun d => !(d.uid == c.uid && d.seq == c.seq))))) t

/-- R294, R296: cancels a command: one with chunks in flight ends when they are written, any other at once. -/
def cancelCmd (s : State) (t : Nat) (c : Cmd) : State :=
  -- chunks that only meet a fault move nothing
  let c := { c with chunks := c.chunks.filter (fun k => k.flt.isNone) }
  if c.chunks.isEmpty then
    -- a source by name that has not arrived is withdrawn
    let s := if c.port == .hname && c.src.isNone then
      { s with net := s.net ++ [.unsub c.name t (.command c.uid c.eng c.seq)] } else s
    publishStream (endFill (removeCmd s t c) t c) t c 1 none c.pfx
  else flushCmd (putCmd s t { c with cancelled := true, held := none }) t c

/-- R296: cancels every command of a thread. -/
def cancelAll (s : State) (t uid : Nat) : State :=
  (upTo 2).foldl (fun s e => ((engOf (coreAt s t) e).filter (fun c => c.uid == uid)).foldl
    (fun s c => cancelCmd s t c) s) s

/-- R333: the commands of a thread whose graph is aborted end without a completion. -/
def silenceAll (s : State) (t uid : Nat) : State :=
  let go (l : List Cmd) := l.map (fun c => if c.uid == uid then { c with named := false } else c)
  cancelAll (updCore s t (fun c => { c with eng0 := go c.eng0, eng1 := go c.eng1 })) t uid

/-- The uid removed from every fault queue. -/
def unqueue (s : State) (uid : Nat) : State :=
  let drop (l : List Nat) := l.filter (fun u => u != uid)
  { s with
    ksQ := drop s.ksQ, faultWait := drop s.faultWait,
    spanQ := (s.spanQ.map (fun e => (e.1, drop e.2))).filter (fun e => !e.2.isEmpty),
    cores := s.cores.map (fun e => (e.1, { e.2 with fifo := drop e.2.fifo })) }

/-- The level of the handler that serves a thread (R319, R332). -/
def serveLevel (th : Thread) : Nat :=
  match th.kind with
  | .task => 1
  | .handler l _ => l + 1
  | .alert _ => 1

/-- R319: a handler thread in a slot for a frozen thread, with its capability in k0. -/
def spawnHandler (s : State) (t j via k : Nat) : State :=
  match threadAt s k with
  | none => s
  | some th =>
    match th.fault, th.graph with
    | some r, some c =>
      match graphAt s c with
      | none => s
      | some g =>
        match handlerOf g r.cls with
        | none => s
        | some h =>
          let uid := s.nextUid
          let regs := { firingRegs g.prio th.regs.tag th.regs.inst with k0 := some ⟨th.uid, th.fzGen⟩ }
          let s := setThread s k { th with fault := some { r with via := via, hsite := coreSite t } }
          setThread { s with nextUid := uid + 1 } (keyOf t j)
            (newThread uid (.handler (serveLevel th) th.uid) th.graph 1 regs h.code (coreAt s t).cyc)
    | _, _ => s

/-- A free handler slot of a core, 14 before 15 (DESIGN CHOICE, log entry 83). -/
def freeHandler (s : State) (t : Nat) : Option Nat := [14, 15].find? (fun j => (threadAt s (keyOf t j)).isNone)

/-- A free slot of the keystone for a handler of level 1, the lowest of 0 to 7 (R121; DESIGN CHOICE, log entry 83). -/
def freeKs (s : State) : Option Nat := (upTo 8).find? (fun j => (threadAt s (keyOf Config.ks j)).isNone)

/-- R321: the member of a span that takes a record at once: not one whose core is being lost. -/
def spanTaker (s : State) (p : Nat) : Option Nat :=
  leastBy siteOf ((spanTiles p).filter (fun t => computeCapable s t && !getD false (bayOf t) s.gated &&
    !s.lowVac.any (fun v => v.sites.contains t) && (freeHandler s t).isSome && (coreAt s t).fifo.isEmpty))

/-- R321: the first place that can take the record of a frozen thread; none when all four are full. -/
def placeRecord (s : State) (k : Nat) : Option State :=
  match threadAt s k with
  | none => some s
  | some th =>
    let t := tileOf k
    let p := spanOf t
    let q := getD [] p s.spanQ
    if isKs t then
      match freeHandler s t with
      | some j => some (spawnHandler s t j 2 k)
      | none => if s.ksQ.length < 4096 then some { s with ksQ := s.ksQ ++ [th.uid] } else none
    else match freeHandler s t with
      | some j => some (spawnHandler s t j 0 k)
      | none =>
        if (coreAt s t).fifo.length < 8 then some (updCore s t (fun c => { c with fifo := c.fifo ++ [th.uid] }))
        else if q.length < 64 then
          match spanTaker s p with
          | some u => match freeHandler s u with
            | some j => some (spawnHandler s u j 1 k)
            | none => none
          | none => some { s with spanQ := setD [] p (q ++ [th.uid]) s.spanQ }
        else match freeKs s with
          | some j => if s.ksQ.isEmpty then some (spawnHandler s Config.ks j 2 k)
            else if s.ksQ.length < 4096 then some { s with ksQ := s.ksQ ++ [th.uid] } else none
          | none => if s.ksQ.length < 4096 then some { s with ksQ := s.ksQ ++ [th.uid] } else none

/-- R321: places a record, or leaves it in its slot to try again. -/
def serveRecord (s : State) (k : Nat) : State :=
  match placeRecord s k with
  | some s => s
  | none => match threadAt s k with
    | none => s
    | some th => { s with faultWait := s.faultWait ++ [th.uid] }

/-- R321: the records that found every place full try again, in the order of their freezes. -/
def retryRecords (s : State) : State :=
  s.faultWait.foldl (fun s u =>
    match keyOfUid s u with
    | none => { s with faultWait := s.faultWait.filter (fun v => v != u) }
    | some k => match placeRecord { s with faultWait := s.faultWait.filter (fun v => v != u) } k with
      | some s => s
      | none => s) s

/-- R321: a freed handler slot of a core takes the head of its FIFO, or of its span's queue; the keystone its own
queue. -/
def takeRecord (s : State) (t : Nat) : State :=
  let s :=
    if isKs t then
      let s := match freeKs s with
        | none => s
        | some j => match s.ksQ.find? (fun u => match keyOfUid s u with
            | some k => !isKs (tileOf k)
            | none => false) with
          | none => s
          | some u => match keyOfUid s u with
            | none => s
            | some k => spawnHandler { s with ksQ := s.ksQ.erase u } t j 2 k
      match freeHandler s t with
      | none => s
      | some j => match s.ksQ.find? (fun u => match keyOfUid s u with
          | some k => isKs (tileOf k)
          | none => false) with
        | none => s
        | some u => match keyOfUid s u with
          | none => s
          | some k => spawnHandler { s with ksQ := s.ksQ.erase u } t j 2 k
    else match freeHandler s t with
      | none => s
      | some j =>
        if tileClosed s t && getD false (bayOf t) s.gated then s
        else match (coreAt s t).fifo with
        | u :: l =>
          let s := updCore s t (fun c => { c with fifo := l })
          match keyOfUid s u with
          | none => s
          | some k => spawnHandler s t j 0 k
        | [] => match getD [] (spanOf t) s.spanQ with
          | [] => s
          | u :: l =>
            if !computeCapable s t then s
            else
              let s := { s with spanQ := setD [] (spanOf t) l s.spanQ }
              match keyOfUid s u with
              | none => s
              | some k => spawnHandler s t j 1 k
  retryRecords s

/-- R358: the keystone starts the alert thread of a sensor in slot 13, when alerts are enabled and none runs. It has no graph: its
ctl.tag, ctl.inst, lprio and level, which R122 takes from one, are 0 (DESIGN CHOICE, log entry 97). -/
def startAlert (s : State) (reg : Nat) : State :=
  let v := (msRaw s 0x821).toNat
  let k := keyOf Config.ks 13
  if v % 2 = 1 && (threadAt s k).isNone then
    let uid := s.nextUid
    let regs := (firingRegs 0 0 0).wrS 1 ⟨BitVec.ofNat 64 reg, false⟩
    setThread { s with nextUid := uid + 1 } k
      (newThread uid (.alert reg) none 2 regs (v / 8 * 8 % 2 ^ 22) (coreAt s Config.ks).cyc)
  else s

/-- The registers ms.temp that exist (Table 16.1). -/
def sensors : List Nat :=
  ((upTo 160).filter (fun b => b % 16 < 10 && baySlot b)).map (fun b => 0x900 + b) ++
    (upTo 32).map (fun n => 0x9A0 + n) ++ (upTo 8).map (fun n => 0x9C0 + n)

/-- R358: after an alert thread, one for the lowest-numbered sensor whose alert is still set. -/
def nextAlert (s : State) : State :=
  match sensors.find? (fun r => (msRaw s r).getLsbD 16) with
  | none => s
  | some r => startAlert s r

/-- R330: a killed instance's poisoned outputs: its declared tensors, and the unpublished exits of the stage. -/
def killOutputs (s : State) (t : Nat) (th : Thread) : State :=
  match th.graph with
  | none => s
  | some c => match graphAt s c with
    | none => s
    | some g =>
      let id := identOf th
      let tm := tmplOf g id.tmpl
      let mk (d : PubDecl) (n : Name) : Pub :=
        { name := n, nsub := declNsub g d n, sv := false, splane := 0, pmap := 0, rel := true,
          clean := nameClean g d.tid, wp := true, scope := d.scope, fmt := d.fmt, data := [] }
      let own := tm.pubs.map (fun d => mk d (mkName d.tid id.inst.toNat c (id.tag.toNat % 65536) 0))
      let exits := match g.image with
        | none => []
        | some im => match im.stages[g.stage]? with
          | none => []
          | some st => st.exits.filterMap (fun e =>
            if g.exitsDone.contains e then none
            else (tm.pubs.find? (fun d => d.tid == e.toNat / 2 ^ 40)).map (fun d =>
              mk d (mkName d.tid e.toNat c (id.tag.toNat % 65536) 0)))
      let after := killList s th.uid
      (own ++ exits).foldl (fun s p => sendPub s p t th.uid after 2) s

/-- R469: withdraws the dynamic subscriptions of an ended thread. -/
def withdrawAll (s : State) (t : Nat) (th : Thread) : State :=
  th.dyn.foldl (fun s d => { s with net := s.net ++ [.unsub d.name t (.thread th.uid d.seq)] }) s

/-- R84: each tile that deferred deliveries and whose matching store has fallen to 768 entries or fewer sends a resume. -/
def resumeAll (s : State) : State :=
  let l := s.cores.filter (fun e => e.2.deferring && e.2.store.length ≤ 768)
  l.foldl (fun s e => { updCore s e.1 (fun c => { c with deferring := false }) with net := s.net ++ [.resume e.1] }) s

/-- R70: the matching-store entries of an identity that has ended are freed, on the tile that it fired on too, and the resumes that
the occupancy then allows are sent (R84). -/
def freeEntries (s : State) (id : Ident) : State :=
  resumeAll { s with cores := s.cores.map (fun e => (e.1, { e.2 with store := e.2.store.filter (fun m => !(m.id == id)) })) }

/-- R331: the record of the thread that an ended handler served is served again, where that thread is still frozen under it. -/
def serveAgain (s : State) (h : Thread) : State :=
  match h.regs.k0.bind (fun c => (keyOfUid s c.uid).bind (fun j => (threadAt s j).bind (fun th =>
      if th.status == .frozen && th.fzGen == c.gen then some j else none))) with
  | none => s
  | some j => serveRecord s j

/-- R329, steps 3 and 4: the entries, slot and file of a killed thread are freed and its outputs published; a killed handler's
thread is served again (R331). -/
def endKill (s : State) (k : Nat) : State :=
  match threadAt s k with
  | none => s
  | some th =>
    let t := tileOf k
    let s := dropThread s k
    match th.kind with
    | .task =>
      let s := releaseFile (countRun (freeEntries s (identOf th)) t th) t th.uid
      let s := { s with saved := s.saved.filter (fun v => v.th.uid != th.uid) }
      fill (killOutputs s t th) t
    | .handler _ _ => takeRecord (serveAgain s th) t
    | .alert _ => nextAlert s

/-- Whether a tile's matrix queue holds an operation of a thread. -/
def holdsOps (s : State) (t uid : Nat) : Bool := (coreAt s t).mq.any (fun m => m.uid == uid)

/-- R108, R225, R329: ends a thread as `KILL` does: its commands are cancelled and its unstarted matrix operations discarded; it
keeps its slot, under no capability, until those that started have run to their end. -/
def killThread (s : State) (k : Nat) : State :=
  match threadAt s k with
  | none => s
  | some th =>
    let t := tileOf k
    let s := discardOps (unqueue (cancelAll (withdrawAll s t th) t th.uid) th.uid) t th.uid
    let s := updCore s t (fun c => { c with copying := c.copying.filter (fun e => e.2 != slotOf k) })
    if holdsOps s t th.uid then
      updThread s k (fun v => { v with status := .frozen, fault := none, bundle := none, fzGen := v.fzGen + 1, held := [], dyn := [],
                                       dying := true })
    else endKill s k

/-- R97: a launch's pool record is freed and its generation advances. -/
def freeRecord (s : State) (id : Nat) : State :=
  { s with pool := del id s.pool, poolGen := setD 0 id ((getD 0 id s.poolGen + 1) % 65536) s.poolGen }

/-- Whether a parent, as handle · 256 + context, is still a live graph instance. -/
def parentLive (s : State) (p : Nat) : Bool :=
  match graphAt s (p % 256) with
  | none => false
  | some g => g.launch == p / 256

/-- Table 4.3: the completion payload. -/
def cplBytes (s : State) (g : Option Graph) (res why : Nat) : List Byte :=
  match g with
  | none => leBytes 8 (res + why * 256) ++ List.replicate 24 0
  | some g =>
    let mr := if g.maxrun < 2 ^ 32 then g.maxrun else 2 ^ 32 - 1
    leBytes 8 (res + why * 256) ++ leBytes 4 g.ninst ++ leBytes 4 mr ++ leBytes 8 g.runsum ++
      leBytes 8 (s.kcyc - g.admitted).toNat

/-- Table 4.2: the name of a launch's completion in a context. -/
def launchName (handle ctx : Nat) : Name := mkName (0xFF0000 + handle % 65536) 0 ctx (handle / 65536) 2

/-- R92, R94, R97: publishes a launch's completion, in its parent's context, or in its own (0 where it has none), shows it in its
slot, raises its vector and frees its record. -/
def completeLaunch (s : State) (handle : Nat) (parent : Option Nat) (host : Option (Nat × Nat)) (record : List Byte)
    (g : Option (Nat × Graph)) (res why : Nat) : State :=
  let data := cplBytes s (g.map (fun e => e.2)) res why
  let pub (ctx : Nat) : Pub :=
    { name := launchName handle ctx, nsub := 0, sv := false, splane := 0, pmap := 0,
      rel := true, clean := false, wp := res != 0, scope := 2, fmt := 0, data := data }
  let s := match parent with
    | some p => if parentLive s p then sendPub s (pub (p % 256)) Config.ks 0 [] 3 else s
    | none => sendPub s (pub ((g.map (fun e => e.1)).getD 0)) Config.ks 0 [] 3
  let s := match host with
    | none => s
    | some (port, slot) =>
      let key := 1024 * port + slot
      let s := match find key s.slots with
        | some l => if l.handle.toNat = handle && l.acc = 0 then
            { s with slots := put key { l with ended := true, cpl := data } s.slots } else s
        | none => s
      if leNat ((record.drop 15).take 1) % 2 = 1 then raiseVector s port (leNat ((record.drop 16).take 2) % 2048) else s
  freeRecord s (handle % 65536)

/-- R79, R82: the reads of a bonded copy that a context has in flight, by tensor, end with the context. -/
def endReads (s : State) (ctx : Nat) : Map ResEntry :=
  s.net.foldl (fun r m => match m with
    | .pierRead n _ _ true => if nameCtx n = ctx then
        (match find (nameTid n) r with
        | some e => put (nameTid n) { e with refc := e.refc - 1 } r
        | none => r) else r
    | _ => r) s.residency

/-- R78, R306: the names, deliveries and cached translations of a context go; what concerns one name may stay. -/
def dropNames (s : State) (ctx : Nat) (keep : Option Name) : State :=
  let out (n : Name) : Bool := nameCtx n != ctx || keep == some n
  { s with
    residency := endReads s ctx,
    homes := s.homes.filter (fun h => out h.pub.name),
    subs := s.subs.filter (fun q => out q.name),
    cores := s.cores.map (fun e => (e.1, { e.2 with
      tilePubs := e.2.tilePubs.filter (fun p => out p.1.name),
      cache := e.2.cache.filter (fun p => out p.name),
      anys := e.2.anys.filter (fun p => out p.name),
      store := e.2.store.filter (fun m => m.id.ctx != ctx),
      fired := e.2.fired.filter (fun f => f.1.ctx != ctx),
      cursor := e.2.cursor.filter (fun f => f.1.ctx != ctx),
      admitted := e.2.admitted.filter (fun a => a.toNat / 65536 != ctx),
      nmt := e.2.nmt.filter (fun m => out m.1.1),
      gens := e.2.gens.filter (fun x => x.ctx != ctx),
      tlb := e.2.tlb.filter (fun x => isKs e.1 || x.ctx != ctx) })),
    spanTlb := s.spanTlb.map (fun e => (e.1, e.2.filter (fun x => x.ctx != ctx))),
    net := s.net.filter (fun m => match m with
      | .pub p _ _ _ _ _ => out p.name
      | .sub q => out q.name
      | .copy p _ _ => out p.name
      | .deliver p _ _ _ => out p.name
      | .defer n _ => out n
      | .drop n _ _ => out n
      | .unsub n _ _ => out n
      | .free n _ => out n.1
      | .pierSub q _ _ => out q.name
      | .pierRead n _ _ _ => out n
      | .resume _ => true
      | .afault _ _ => true) }

/-- R102: whether every access of a graph has taken effect, those of its stream commands and matrix operations among them. -/
def graphQuiet (s : State) (ctx : Nat) : Bool :=
  s.inflight.all (fun a => a.who.ctx != ctx || a.elems.all (fun e => e.done)) &&
  s.cores.all (fun c => (cmdsOf c.2).all (fun d => d.graph != ctx || d.chunks.isEmpty))

/-- R92, R104, R306: ends a graph: its names go, its context is free and its completion is published. -/
def endGraph (s : State) (ctx res why : Nat) : State :=
  match graphAt s ctx with
  | none => s
  | some g =>
    let own : Option Name := if g.parent.isNone then some (launchName g.launch ctx) else none
    let s := resumeAll { dropNames s ctx own with graphs := del ctx s.graphs }
    completeLaunch s g.launch g.parent g.host g.record (some (ctx, g)) res why

/-- R104, R333: aborts a graph, with the result and reason of its completion: every instance, handler and record of it is discarded
without outputs. Of the fired instances that it
discards, the resident ones count in the figures of R92; the saved ones, and those that wait for a slot, do not (DESIGN CHOICE, log
entry 85). -/
def abortGraph (s : State) (ctx res why : Nat) : State :=
  let keys := (s.threads.filter (fun e => e.2.graph == some ctx)).map (fun e => e.1)
  let s := keys.foldl (fun s k => match threadAt s k with
    | none => s
    | some th =>
      let t := tileOf k
      let s := silenceAll (countRun (unqueue s th.uid) t th) t th.uid
      let s := updCore (discardOps s t th.uid) t (fun c => { c with copying := c.copying.filter (fun e => e.2 != slotOf k) })
      releaseFile (dropThread s k) t th.uid) s
  let s := { s with saved := s.saved.filter (fun v => v.th.graph != some ctx) }
  -- its completion follows every access of the graph (Tables 4.2 and 11.5): STAGE_END publishes it
  let s := if graphQuiet s ctx then endGraph s ctx res why
    else updGraph (resumeAll (dropNames s ctx none)) ctx (fun g => { g with running := false, ending := some (res, why), placed := [] })
  retryRecords (keys.foldl (fun s k =>
    if slotOf k < 14 && !isKs (tileOf k) then fill s (tileOf k) else takeRecord s (tileOf k)) s)

/-- The pc range test of a fetch (R139): the words of the bundle at a pc, or none where it leaves the scratchpad; `got` holds those that
are fetched already (R141). -/
def fetchWords (s : State) (t : Nat) (got : List (Nat × Word)) : Nat → Nat → List Word → Option (List Word)
  | 0, _, acc => some acc
  | fuel + 1, pc, acc =>
    if pc % 8 = 0 && pc + 8 ≤ padSize t then
      let w := (find (padBase t + pc) got).getD (BitVec.ofNat 64 (readLe s (padBase t + pc) 8))
      if w.getLsbD 63 then some (acc ++ [w]) else fetchWords s t got fuel (pc + 8) (acc ++ [w])
    else none

/-- R139: the bundle at a pc. -/
def fetchBundle (s : State) (t : Nat) (got : List (Nat × Word)) (pc : Nat) : Option (List Word) := fetchWords s t got 6 pc []

/-- R318: the record of a freeze (Table 14.2). Its pc of 22 bits is that of the bundle modulo 2^22, where a `RESUME` to a target past
4 MiB makes the fetch fault (R139; DESIGN CHOICE, log entry 86). -/
def faultRec (s : State) (k : Nat) (th : Thread) (cls : FaultClass) (pc : Word) (nsyl fsyl : Nat) (syl : Word)
    (addr : Option (BitVec 53)) (aux : Word) : FaultRec :=
  let t := tileOf k
  { cls := cls, lvl := match th.kind with
      | .handler l _ => l
      | .task => 0
      | .alert _ => 0,
    slot := slotOf k, x := coreX t, y := coreY t, tag := th.regs.tag, inst := th.regs.inst, epoch := s.epoch, pc := pc.setWidth 22,
    nsyl := nsyl, fsyl := fsyl, syl := syl, addr := addr, aux := aux, cyc := (coreAt s t).cyc, via := 0, hsite := 0 }

/-- The data words of an event log entry of kind 5 (R362). -/
def recWords (r : FaultRec) : List Word := [r.word 0, r.word 1, r.word 2]

/-- R32, R48: a lowering is queued behind the one in progress. -/
def requestLowering (s : State) (site cls : Nat) (sudden core req : Bool) (ctx : Option Nat) : State :=
  { s with lowerQ := s.lowerQ ++ [⟨site, cls, sudden, core, req, ctx, false, 0, []⟩] }

/-- Whether an access is a read that its own bundle waits for: the load of an MSHAPE, or the payload read of a PUB. -/
def Access.inner (a : Access) : Bool :=
  match a.dst with
  | .sh _ | .payload => true
  | .none | .s _ | .v _ => false

/-- R313 to R321: TAKING A FAULT. The thread freezes at `pc` with its record; nothing of its bundle has committed. Where it holds
boost, an asynchronous freeze takes it too (R130; DESIGN CHOICE, log entry 86). The issue cycles that it was ready without issuing (R107)
are counted from 0 again after its freeze (DESIGN CHOICE, log entry 86).
A handler is spawned or the record queued; with no handler bound the keystone logs the record and kills the thread
(R320); a fault of a level-2 handler is NEST (R333); PREEMPT waits for the save engine. -/
def takeFault (s : State) (k : Nat) (cls : FaultClass) (pc : Word) (nsyl fsyl : Nat) (syl : Word)
    (addr : Option (BitVec 53)) (aux : Word) : State :=
  match threadAt s k with
  | none => s
  | some th =>
    let level2 := match th.kind with
      | .handler 2 _ => true
      | _ => false
    let r := faultRec s k th (if level2 then .nest else cls) pc nsyl fsyl syl addr
      (if level2 then BitVec.ofNat 64 cls.code else aux)
    -- what the bundle has read has no effect (R211, R265)
    let s := { s with inflight := s.inflight.filter (fun a => !(a.uid == th.uid && a.inner)) }
    let s := setThread s k { th with status := .frozen, bundle := none, fault := some r, pc := pc, waited := 0, fetched := [],
                                     regs := { th.regs with boost := false } }
    if cls = .preempt then s
    else match th.graph with
      | none => killThread (logEvent s 5 (recWords r)) k
      | some c =>
        if level2 then
          let s := logEvent s 5 (recWords r)
          let t := tileOf k
          let s := if isKs t then s else requestLowering s (siteOf t) (if classOf s t = 0 then 2 else 3) false true false (some c)
          abortGraph s c 2 0
        else
          let bound := match graphAt s c with
            | none => false
            | some g => (handlerOf g cls).isSome
          if bound then serveRecord s k
          else killThread (logEvent s 5 (recWords r)) k

/-- R314, R315, R296: an asynchronous fault reaches a thread: it freezes at its first uncommitted bundle, or holds the
fault when it is frozen already. -/
def asyncFault (s : State) (uid : Nat) (f : AFault) : State :=
  let s := { s with saved := s.saved.map (fun v =>
    if v.th.uid = uid then { v with th := { v.th with held := v.th.held ++ [f] } } else v) }
  match keyOfUid s uid with
  | none => s
  | some k => match threadAt s k with
    | none => s
    | some th =>
      -- an instance whose restore is under way is frozen still (R337)
      if s.saved.any (fun v => v.th.uid == uid) && th.status != .frozen then s
      else match th.status with
      | .frozen => setThread s k { th with held := th.held ++ [f] }
      | .ready | .waiting _ =>
        takeFault s k f.cls th.pc ((th.bundle.map (fun b => b.words.length)).getD 0) 7 0 f.addr f.aux

/-- R335, R336: a lost, refused or failed store-type transaction: its record, and the fault that it raises. -/
def lostStore (s : State) (w : Who) (uid : Nat) (psink : Bool) (kind : Nat) (mask : Word) (wh : Nat) : State :=
  let live := (threadOfUid s uid).any (fun th => !th.dying) || s.saved.any (fun v => v.th.uid == uid)
  let seq := sinkSeq s w.ctx
  let s := poisonRecord s w kind (psink && live) mask wh
  if psink && live then
    asyncFault s uid ⟨.poisonsink, some (BitVec.ofNat 53 wh), BitVec.ofNat 64 (kind * 2 ^ 32 + seq % 2 ^ 32)⟩
  else s

/-- R296: a command that restarts at its prefix, with the chunks past it to be written again. -/
def Cmd.restart (c : Cmd) : Cmd :=
  { c with held := none, stopped := false, running := false, next := c.pfx / c.ws, ahead := [],
           recount := c.recount ++ (c.ahead.map (fun a => a.1)).filter (fun a => !c.recount.contains a) }

/-- Table 12.5: the auxiliary word of a fault of a command. -/
def Cmd.aux (c : Cmd) : Word := BitVec.ofNat 64 (c.eng * 2 ^ 54 + c.pfx % 2 ^ 22 * 2 ^ 32 + c.seq % 2 ^ 32)

/-- R296: whether the fault of a held command has been served: it is neither on its way to its thread nor held by it. -/
def Cmd.served (c : Cmd) (s : State) (held : List AFault) : Bool :=
  match c.held with
  | none => false
  | some f =>
    let g : AFault := { f with aux := c.aux }
    c.chunks.isEmpty && !held.contains g && !s.net.contains (.afault c.uid g)

/-- R296: the held commands of a thread whose faults have been served restart; each waits in its queue for its port. -/
def restartCmds (s : State) (t uid : Nat) (held : List AFault) : State :=
  let go (l : List Cmd) := l.map (fun c => if c.uid == uid && c.served s held then c.restart else c)
  updCore s t (fun c => { c with eng0 := go c.eng0, eng1 := go c.eng1 })

/-- R296, R327: RESUMING a frozen thread at a pc: its capability becomes stale and it is ready, or the oldest held fault
freezes it again at that pc. `pass` is the exception of R328 for a POISONDEP freeze at an AWAIT, resumed at its record's pc. The issue
cycles that it was ready without issuing are counted from 0 (DESIGN CHOICE, log entry 86). -/
def resumeThread (s : State) (k : Nat) (pc : Word) : State :=
  match threadAt s k with
  | none => s
  | some th =>
    let pass := match th.fault with
      | some r => r.cls == .poisondep && r.aux.toNat % 16 == 2 && pc == r.pc.setWidth 64
      | none => false
    let th := { th with status := .ready, pc := pc, fault := none, fzGen := th.fzGen + 1, pass := pass,
                        waited := 0 }
    let s := restartCmds (setThread s k th) (tileOf k) th.uid th.held
    match th.held with
    | [] => s
    | f :: l => takeFault (setThread s k { th with held := l }) k f.cls pc 0 7 0 f.addr f.aux

/-- R110: a wake for a gated bay is enqueued, unless one is queued already. -/
def requestWake (s : State) (b : Nat) : State :=
  if getD false b s.gated && !s.wakeQ.contains b && !s.inrush.contains b then { s with wakeQ := s.wakeQ ++ [b] } else s

/-- R110: the keystone starts queued wakes while fewer than two bays are in inrush. -/
def startWakes (s : State) : State :=
  (upTo 2).foldl (fun s _ => match s.wakeQ with
    | [] => s
    | b :: l => if s.inrush.length < 2 then { s with wakeQ := l, inrush := s.inrush ++ [b] } else s) s

end Sys2Proof.Machine
end

