-- ==== Sys2Proof/Machine/Memory.lean ====
section
/-! DEFINITION. Addresses and accesses: the physical checks of R229 to R233, the walk of R302 with its TLBs, the local
window of R305, and accesses in flight taking effect at their owning points (R263 to R272). -/

namespace Sys2Proof.Machine

/-- What the translation of an address gives. -/
inductive Tr where
  | ok (pa : Nat) (path : Path)
  | fault (c : FaultClass) (aux : Word)
  | wait
  deriving DecidableEq, Repr

/-- Who translates: its core, privilege, context and root, and whether it is a stream engine (R307). -/
structure Space where
  tile : Nat
  priv : Nat
  ctx : Nat
  root : Word
  eng : Bool
  deriving DecidableEq, Repr

/-- R300: the space of a thread; keystone threads use ms.xrootk, which is of no context: 0 stands for it in Table 13.4's ctx field
(DESIGN CHOICE, log entry 101). -/
def spaceOf (s : State) (k : Nat) (th : Thread) : Space :=
  let t := tileOf k
  if isKs t then ⟨t, th.priv, 0, msRaw s 0x80A, false⟩
  else match th.graph with
    | none => ⟨t, th.priv, 0, msRaw s 0x80A, false⟩
    | some c => ⟨t, th.priv, c, (match graphAt s c with
      | none => 0
      | some g => g.root), false⟩

/-- Whether a path leaves the device. -/
def Path.remote : Path → Bool
  | .host | .peer => true
  | .own | .view | .sys | .bonded | .hbm => false

/-- Whether a path's accesses are served by scratchpad banks. -/
def Path.pad : Path → Bool
  | .own | .view | .sys => true
  | .bonded | .hbm | .host | .peer => false

/-- Whether an access by a path switches its thread out (R106). -/
def Path.long : Path → Bool
  | .own | .view => false
  | .sys | .bonded | .hbm | .host | .peer => true

/-- The core whose scratchpad holds a location of the system ranges. -/
def padOwner (pa : Nat) : Nat := if pa < 0x03C000000000 then (pa - 0x03A000000000) / 0x400000 else Config.ks

/-- The tile whose slice holds a bonded address. -/
def sliceOf (pa : Nat) : Nat := (pa - 0x020000000000) / 0x4000000

/-- R302: whether a table address lies in HBM or in the slice of a home-capable site. -/
def tableOk (s : State) (t : Nat) : Bool :=
  t < 0x020000000000 || (t < 0x039000000000 && homeCapable s (sliceOf t))

/-- The real location of a view address and the check of R39, for member j of a span. -/
def viewMember (s : State) (t off : Nat) : Tr :=
  let m := nth 0 (spanTiles (spanOf t)) (off / 0x100000)
  if computeCapable s m then .ok (padBase m + off % 0x100000) .view else .fault .perm 0

/-- The identity of this device (Table 16.3). -/
def devId (s : State) : Nat := msField s 0x802 0 12

/-- R229, R231 to R233, R245 to R247: the physical checks, and the location and path of an address. The addresses 0x03B9_0000_0000 to
0x03BF_FFFF_FFFF, which no row of Table 10.1 holds, raise PERM as those of a row marked none do (DESIGN CHOICE, log entry 99). -/
def physical (s : State) (sp : Space) (pa : Nat) : Tr :=
  let ks := isKs sp.tile
  if pa < 0x020000000000 then
    if 0xF80000000 ≤ pa % 0x1000000000 && sp.priv < 2 then .fault .perm 0 else .ok pa .hbm
  else if pa < 0x039000000000 then
    if homeExcluded s (sliceOf pa) then .fault .perm 0 else .ok pa .bonded
  else if pa < 0x03A000000000 then .fault .perm 0
  else if pa < 0x03B900000000 then
    let t := (pa - 0x03A000000000) / 0x400000
    if sp.priv < 2 || !computeCapable s t || 0x100000 ≤ (pa - 0x03A000000000) % 0x400000 then .fault .perm 0
    else .ok pa .sys
  else if 0x03C000000000 ≤ pa && pa < 0x03C000400000 then
    if sp.priv < 2 then .fault .perm 0 else .ok pa .sys
  else if 0x03F000000000 ≤ pa && pa < 0x03F000000000 + padSize sp.tile then
    .ok (padBase sp.tile + (pa - 0x03F000000000)) .own
  else if 0x03F001000000 ≤ pa && pa < 0x03F002000000 && !ks then viewMember s sp.tile (pa - 0x03F001000000)
  else if 0x040000000000 ≤ pa && pa < 0x0C0000000000 then .ok pa .host
  else if 0x800000000000 ≤ pa && pa < 0x1000000000000 then
    if pa / 2 ^ 35 % 4096 = devId s && devId s != 0xFFF then .fault .perm 0 else .ok pa .peer
  else .fault .perm 0

/-- The result of a walk: the physical address and leaf entry with its level, a fault's reason and level with the address of the entry
read last, or a wait for a leaf that is being moved or a table whose stack is in training. -/
inductive Walk where
  | leaf (pa : Nat) (e : Word) (lvl : Nat)
  | bad (why lvl entry : Nat)
  | moving
  deriving DecidableEq, Repr

/-- Whether the HBM stack of an address failed training (R356). -/
def stackFailed (s : State) (pa : Nat) : Bool :=
  pa < 0x020000000000 && (msRaw s 0x801).getLsbD (pa / 0x1000000000)

/-- Whether the HBM stack of an address serves: stack 3, and from stage 7 or its end of training any (R356). -/
def stackReady (s : State) (pa : Nat) : Bool :=
  0x020000000000 ≤ pa || pa / 0x1000000000 == 3 || 7 ≤ stageOf s || getD false (pa / 0x1000000000) s.hbmEnd

/-- Whether a read of a table entry finds its line poisoned or uncorrectable, or its stack lost (R302, R261, R356). -/
def entryBad (s : State) (a : Nat) : Bool := lineBad s a || stackFailed s a

/-- R302: the walk from a table, level by level. -/
def walkFrom (s : State) (va : Nat) : List Nat → Nat → Walk
  | [], t => .bad 2 0 t
  | l :: ls, t =>
    let a := t + 8 * (va / 2 ^ (13 + 10 * l) % 1024)
    let e := readLe s a 8
    let bits (lo w : Nat) := e / 2 ^ lo % 2 ^ w
    if !stackReady s a then .moving
    else if entryBad s a then .bad 5 l a
    else if bits 0 1 = 0 then .bad 1 l a
    else if bits 48 16 != 0 || bits 11 2 != 0 then .bad 2 l a
    else if bits 1 1 = 1 then
      let sz := 13 + 10 * l
      if l = 3 || bits 4 2 = 3 || bits 13 (sz - 13) != 0 then .bad 2 l a
      else if bits 10 1 = 1 then .moving
      else .leaf (bits 13 35 * 2 ^ 13 + va % 2 ^ sz) (BitVec.ofNat 64 e) l
    else if l = 0 then .bad 2 0 a
    else
      let u := bits 13 35 * 2 ^ 13
      if tableOk s u then walkFrom s va ls u else .bad 2 l a

/-- R302: the walk of an address from a root. -/
def walk (s : State) (root : Word) (va : Nat) : Walk :=
  if !root.getLsbD 0 then .bad 3 0 0
  else
    let t := root.toNat / 2 ^ 13 % 2 ^ 35 * 2 ^ 13
    if tableOk s t then walkFrom s va [3, 2, 1, 0] t else .bad 2 3 t

/-- R306: the entry of a TLB that translates an address in a context. -/
def tlbFind (l : List TlbE) (ctx va : Nat) : Option TlbE :=
  l.find? (fun e => e.ctx == ctx && e.vpage == va / 2 ^ (13 + 10 * e.lvl))

/-- Table 13.4: the auxiliary word of a translation fault. -/
def xlateAux (ctx why lvl : Nat) (wr at_ : Bool) : Word :=
  BitVec.ofNat 64 (ctx * 2 ^ 16 + (if at_ then 2 ^ 11 else 0) + (if wr then 2 ^ 10 else 0) + lvl * 2 ^ 8 + why)

/-- What an access asks of an address: reading, writing, a read-modify-write and the capability bit that a host
AtomicOp needs (R303). -/
structure Need where
  rd : Bool
  wr : Bool
  at_ : Bool
  cap : Option Nat
  deriving DecidableEq, Repr

/-- R303: the checks of a leaf entry and of its physical address. -/
def leafCheck (s : State) (sp : Space) (n : Need) (pa : Nat) (e : Word) : Tr :=
  let why (w : Nat) := Tr.fault .perm (xlateAux sp.ctx w 0 n.wr n.at_)
  if sp.priv < e.toNat / 16 % 4 then why 8
  else if n.rd && !e.getLsbD 2 then why 6
  else if n.wr && !e.getLsbD 3 then why 7
  else match physical s sp pa with
    | .ok p .host => match n.cap with
      | some b => if e.getLsbD b then .ok p .host else .fault .atomroute (xlateAux sp.ctx 9 0 n.wr n.at_)
      | none => .ok p .host
    | r => r

/-- A list of entries with one put first and at most `n` kept. -/
def tlbAdd (n : Nat) (e : TlbE) (l : List TlbE) : List TlbE := (e :: l.filter (fun f => f != e)).take n

/-- R306: a leaf entry enters the TLBs of a tile and its span, or the keystone's, which is taken to be of the size of a span's (DESIGN
CHOICE, log entry 100). -/
def installTlb (s : State) (t : Nat) (e : TlbE) : State :=
  if isKs t then updCore s t (fun c => { c with tlb := tlbAdd Config.spanTlbSize e c.tlb })
  else
    let s := updCore s t (fun c => { c with tlb := tlbAdd Config.tlbSize e c.tlb })
    { s with spanTlb := setD [] (spanOf t) (tlbAdd Config.spanTlbSize e (getD [] (spanOf t) s.spanTlb)) s.spanTlb }

/-- The cached translation that a tile uses, in its own TLB or its span's. -/
def tlbHit (s : State) (t ctx va : Nat) : Option TlbE :=
  match tlbFind (coreAt s t).tlb ctx va with
  | some e => some e
  | none => if isKs t then none else tlbFind (getD [] (spanOf t) s.spanTlb) ctx va

/-- The TLB that a stream engine of a tile uses: its span's, or the keystone's (R307). -/
def engineTlb (s : State) (t : Nat) : List TlbE := if isKs t then (coreAt s t).tlb else getD [] (spanOf t) s.spanTlb

/-- R306, R307: a leaf entry enters the TLBs that a requester uses. -/
def installFor (s : State) (sp : Space) (e : TlbE) : State :=
  if sp.eng && !isKs sp.tile then
    { s with spanTlb := setD [] (spanOf sp.tile) (tlbAdd Config.spanTlbSize e (getD [] (spanOf sp.tile) s.spanTlb)) s.spanTlb }
  else installTlb s sp.tile e

/-- R306, R307: the cached translation that a requester uses. -/
def hitFor (s : State) (sp : Space) (va : Nat) : Option TlbE :=
  if sp.eng then tlbFind (engineTlb s sp.tile) sp.ctx va else tlbHit s sp.tile sp.ctx va

/-- Whether an address lies in a range. -/
def within (r : Nat × Nat) (a : Nat) : Bool := r.1 ≤ a && a < r.1 + r.2

/-- The range of addresses that a leaf entry translates. -/
def TlbE.range (e : TlbE) : Nat × Nat := (e.vpage * 2 ^ (13 + 10 * e.lvl), 2 ^ (13 + 10 * e.lvl))

/-- Whether a virtual address is translated by the page tables (R299, R305). -/
def paged (va : Nat) : Bool := 0x2000000 ≤ va && !(0x4000000 ≤ va && va < 0x8000000)

/-- R306, R309: the leaves whose cached translations some addresses of a requester used just now, each once. -/
def usedLeaves (s : State) (sp : Space) (vas : List Nat) : List (Nat × Nat) :=
  vas.foldl (fun l va => if !paged va then l else match hitFor s sp va with
    | none => l
    | some e => if l.contains e.range then l else l ++ [e.range]) []

/-- R306: a thread's translation that misses the TLB of its tile makes the access of its bundle a long-latency one. -/
def noteMiss (s : State) (sp : Space) (va : Nat) : State :=
  if sp.eng || (tlbFind (coreAt s sp.tile).tlb sp.ctx va).isSome then s else { s with issue := { s.issue with miss := true } }

/-- R32: an uncorrectable data error of a slice is counted; 64 within 2^24 cycles of its tile are a failure of the slice. -/
def countError (s : State) (t : Nat) : State :=
  let now := (coreAt s t).cyc
  let l := (getD [] t s.errs).filter (fun c => (now - c).toNat < 2 ^ 24) ++ [now]
  let s := { s with errs := setD [] t l s.errs }
  if 64 ≤ l.length && classOf s t == 0 then requestLowering s (siteOf t) 1 false true false none else s

/-- R261: an uncorrectable word is found in the line of a location: the line is poisoned, and its slice counts the error. -/
def foundLine (s : State) (pa : Nat) : State :=
  let s := setLinePoison s pa true
  if 0x020000000000 ≤ pa && pa < 0x039000000000 then countError s (sliceOf pa) else s

/-- R260, R261: a read of a range finds the errors that stand in its lines. -/
def discover (s : State) (pa n : Nat) : State :=
  s.struck.foldl (fun s x => match x.2 with
    | .line k => if pa < 64 * k + 64 && 64 * k < pa + n && isStruck s x.2 then foundLine s (64 * k) else s
    | .block _ _ _ => s
    | .header _ _ => s
    | .seg _ _ => s) s

/-- R260, R302: what a walk has found: the entry read last is uncorrectable (why 5). -/
def walkFound (s : State) (w : Walk) : State :=
  match w with
  | .bad 5 _ a => discover s a 8
  | .bad _ _ _ => s
  | .leaf _ _ _ => s
  | .moving => s

/-- R302, R303, R306: a translated access; a check that fails against a cached entry is confirmed by a walk. -/
def pageAccess (s : State) (sp : Space) (n : Need) (va : Nat) : State × Tr :=
  let s := noteMiss s sp va
  let fresh : State × Tr := match walk s sp.root va with
    | .bad w l a => (walkFound s (.bad w l a), .fault .xlate (xlateAux sp.ctx w l n.wr n.at_))
    | .moving => (s, .wait)
    | .leaf pa e l =>
      (installFor s sp ⟨sp.ctx, va / 2 ^ (13 + 10 * l), l, e⟩, leafCheck s sp n pa e)
  match hitFor s sp va with
  | none => fresh
  | some e =>
    let sz := 13 + 10 * e.lvl
    match leafCheck s sp n (e.pte.toNat / 2 ^ 13 % 2 ^ 35 * 2 ^ 13 + va % 2 ^ sz) e.pte with
    | .fault _ _ => fresh
    | r => (s, r)

/-- Table 2.7: the auxiliary word of HOMEPATH. -/
def homepathAux (why : Nat) (part : Option Nat) : Word :=
  BitVec.ofNat 64 (why * 2 ^ 16 + match part with
    | none => 0
    | some p => 2 ^ 15 + siteOf p)

/-- R40, R305: an address of the local bonded window. -/
def windowAccess (s : State) (sp : Space) (n : Need) (va : Nat) : Tr :=
  let t := sp.tile
  let o := va - 0x4000000
  if isKs t then .fault .perm 0
  else
    let beyond := winOf s t * 0x100000 ≤ o
    let far := Tr.fault .xlate (xlateAux sp.ctx 4 0 n.wr n.at_)
    if classOf s t = 1 then
      match partnerOf s t with
      | none => .fault .homepath (homepathAux 1 none)
      | some (p, k) =>
        if beyond then far
        else if (hops s t p).isNone then .fault .homepath (homepathAux 2 (some p))
        else .ok (0x020000000000 + p * 0x4000000 + lentOffset k + o) .bonded
    else if beyond then far
    else .ok (0x020000000000 + t * 0x4000000 + o) .bonded

/-- R230, R305, R302: where a virtual address leads. -/
def translate (s : State) (sp : Space) (n : Need) (va : Nat) : State × Tr :=
  if va < padSize sp.tile then (s, .ok (padBase sp.tile + va) .own)
  else if va < 0x2000000 then
    if 0x1000000 ≤ va && !isKs sp.tile then (s, viewMember s sp.tile (va - 0x1000000)) else (s, .fault .perm 0)
  else if 0x4000000 ≤ va && va < 0x8000000 then (s, windowAccess s sp n va)
  else pageAccess s sp n va

/-- Whether an address lies in the lent window of a tile (R38). -/
def inLent (s : State) (t va : Nat) : Bool := 0x4000000 ≤ va && va < 0x8000000 && !isKs t && classOf s t == 1

/-- Whether a location's slice or scratchpad is of a site that no longer serves it (Table 2.8). -/
def siteLost (s : State) (pa : Nat) (p : Path) : Bool :=
  match p with
  | .bonded => !homeCapable s (sliceOf pa)
  | .own | .view | .sys => pa < 0x03C000000000 && !computeCapable s (padOwner pa)
  | .hbm | .host | .peer => false

/-- Whether two ranges of bytes overlap. -/
def overlap (a n b m : Nat) : Bool := a < b + m && b < a + n

/-- The bytes an element of an access touches: a bin operation touches its header, counts, bins and overflow area. -/
def elemRanges (k : AccKind) (e : Elem) : List (Nat × Nat) :=
  match k with
  | .binapp _ ncell cap cntoff binoff ofoff ofcap =>
    [(e.pa, 64), (e.pa + cntoff, 4 * ncell), (e.pa + binoff, 4 * cap * ncell), (e.pa + ofoff, 8 * ofcap)]
  | .binrst _ ncell cntoff => [(e.pa, 64), (e.pa + cntoff, 4 * ncell)]
  | .load | .store | .amo _ | .cas | .scadd => [(e.pa, e.w)]

/-- Whether two elements touch a common byte. -/
def elemsMeet (k : AccKind) (e : Elem) (j : AccKind) (f : Elem) : Bool :=
  (elemRanges k e).any (fun r => (elemRanges j f).any (fun q => overlap r.1 r.2 q.1 q.2))

/-- R141, R271: whether a write of some bytes would come between a bundle that a thread has fetched and the instant of an acquire
before it, which the fetch follows: the write waits for that instant (log entry 94). -/
def aheadMeets (s : State) (uid pa n : Nat) : Bool :=
  s.inflight.any (fun b => b.uid != uid && b.elems.any (fun f => !f.done) && b.ahead.any (fun r => overlap r.1 r.2 pa n))

/-- Whether two accesses of a thread travel by one path where their elements do: the payload read of a PUB goes by the router, and any
other access to own scratchpad by the load/store port (R235, R269). -/
def samePath (a : Access) (e : Elem) (b : Access) (f : Elem) : Bool :=
  e.path == f.path && (a.dst == .payload) == (b.dst == .payload)

/-- R267, R271, R272, R278, R280: whether an element of an access has no earlier access to follow any more. -/
def elemFree (s : State) (a : Access) (e : Elem) : Bool :=
  -- a zero-length read follows the writes that it acknowledges (R280)
  (e.w != 0 || (s.inflight.filter (fun b => b.uid == a.uid && b.id < a.id && b.kind == .store)).all (fun b =>
    b.elems.all (fun f => f.sent || f.done || f.path != .host))) &&
  (s.inflight.filter (fun b => b.id < a.id)).all (fun b =>
    -- a frozen thread's accesses and its handler's, in the order of their bundles (R278, Table 11.5)
    !(b.serves == some a.uid || a.serves == some b.uid) || b.elems.all (fun f => f.done || 2 < f.path.scope) ||
      2 < e.path.scope) &&
  (s.inflight.filter (fun b => b.uid == a.uid && b.id < a.id)).all (fun b =>
    b.elems.all (fun f => f.done ||
      !((samePath b f a e && elemsMeet b.kind f a.kind e) || (b.acq && e.path.scope ≤ b.scp) ||
        (a.rel && f.path.scope ≤ a.scp))))

/-- R50, R264, R356: whether an element of an access may take effect now. -/
def elemReady (s : State) (a : Access) (e : Elem) : Bool :=
  !e.done && !e.sent && !e.cut && stackReady s e.pa && !siteLost s e.pa e.path && elemFree s a e &&
  (a.kind == .load || !(elemRanges a.kind e).any (fun r => aheadMeets s a.uid r.1 r.2))

/-- The access with an id. -/
def accAt (s : State) (id : Nat) : Option Access := s.inflight.find? (fun a => a.id == id)

/-- The state with an access updated. -/
def updAcc (s : State) (id : Nat) (f : Access → Access) : State :=
  { s with inflight := s.inflight.map (fun a => if a.id = id then f a else a) }

/-- The list with the element at an index updated. -/
def modNth {α : Type} (f : α → α) : List α → Nat → List α
  | [], _ => []
  | a :: l, 0 => f a :: l
  | a :: l, n + 1 => a :: modNth f l n

/-- The state with element i of an access updated. -/
def updElem (s : State) (id i : Nat) (f : Elem → Elem) : State :=
  updAcc s id (fun a => { a with elems := modNth f a.elems i })

/-- The thread of an access updated, wherever it is. -/
def updOwner (s : State) (uid : Nat) (f : Thread → Thread) : State :=
  match keyOfUid s uid with
  | some k => updThread s k f
  | none => { s with saved := s.saved.map (fun v => if v.th.uid = uid then { v with th := f v.th } else v) }

/-- The value of a returned element, extended by its type (R174). -/
def elemVal (a : Access) (e : Elem) (width : Nat) : Nat := extend a.ty width e.got.toNat

/-- R211: the shape that the load of an MSHAPE has read. -/
def shapeGot (a : Access) : Shape :=
  let b := BitVec.ofNat 128 (a.elems.foldr (fun e n => e.got.toNat % 2 ^ 64 + 2 ^ 64 * n) 0)
  ⟨b, b.toNat / 2 ^ 92 == 0 && !a.poison && !a.elems.any (fun e => e.gotP)⟩

/-- The registers with an access's result written (R419, R493, R370); MSHAPE's is written as its bundle commits. -/
def accResult (a : Access) (r : Regs) : Regs :=
  match a.dst with
  | .none => r
  | .s d => match a.elems with
    | [] => r
    | e :: _ => r.wrS d ⟨BitVec.ofNat 64 (elemVal a e 64), a.poison || e.gotP⟩
  | .sh _ => r
  | .payload => r
  | .v d => r.wrV d (a.elems.foldl (fun v e =>
      e.lanes.foldl (fun v i => setNth ⟨BitVec.ofNat 32 (elemVal a e 32), a.poison || e.gotP || (a.kind == .load && nth false e.mask 0)⟩ v i) v)
      (r.rdV d))

/-- R270, R445: the payload that the read of a PUB has read, with the poison of each byte. -/
def payloadGot (a : Access) : List Byte × List Bool :=
  (a.elems.flatMap (fun e => leBytes e.w e.got.toNat), a.elems.flatMap (fun e => List.replicate e.w e.gotP))

/-- What a bundle keeps of a read that it waited for. -/
def keepRead (a : Access) (k : Kept) : Kept :=
  match a.dst with
  | .sh r => { k with shapes := put r.toNat (shapeGot a) k.shapes }
  | .payload => { k with payload := some (payloadGot a) }
  | .none | .s _ | .v _ => k

/-- An access whose elements are all done leaves the list, with its register written, or its bundle keeping what it read. -/
def retire (s : State) (id : Nat) : State :=
  match accAt s id with
  | none => s
  | some a =>
    let s := { s with inflight := s.inflight.filter (fun b => b.id != id), arrived := s.arrived.filter (fun x => x.1 != id) }
    let s := if a.dst = .none then s else updOwner s a.uid (fun th => { th with
      regs := accResult a th.regs,
      bundle := th.bundle.map (fun b => { b with kept := keepRead a b.kept }) })
    wakeTile s a.tile

/-- Whether an access ends by a long-latency response or acknowledgement (R106, R243, R306). -/
def longAccess (a : Access) : Bool := a.miss || a.elems.any (fun e => e.path.long)

/-- R235: the requester of an access by a path at a tile's banks: 1 the load/store port, 4 the span crossbar, 5 the router, which
makes the payload read of a PUB too. The stream engines are 2 and 3. -/
def requester (a : Access) (p : Path) : Option Nat :=
  match p with
  | .own => some (if a.dst = .payload then 5 else 1)
  | .view => some 4
  | .sys => some 5
  | .bonded | .hbm | .host | .peer => none

/-- R235, R237: the requester of an element whose responses come back in order, and the core whose banks serve it. -/
def portKey (a : Access) (e : Elem) : Option (Nat × Nat) := (requester a e.path).map (fun q => (q, padOwner e.pa))

/-- R236, R270: the word that a request for a location asks of its bank: 8 bytes, or for the payload read of a PUB, which sees each
aligned 32-bit word old or new, 4 bytes. -/
def unitOf (a : Access) (pa : Nat) : Nat := if a.dst = .payload then pa / 4 else pa / 8

/-- R235: the place of a request in the order of arrival; one that has not come to its bank yet stands behind all that have. -/
def arrivalOf (s : State) (num q unit : Nat) : Nat := s.arrived.findIdx (fun x => x == (num, q, unit))

/-- R235, R237: where the request of an element stands among the requests of its requester: by its arrival, then by its age. -/
def requestKey (s : State) (a : Access) (e : Elem) : Nat × Nat :=
  (arrivalOf s a.id ((requester a e.path).getD 6) (unitOf a e.pa), a.id)

/-- Whether one request stands before another. -/
def keyBefore (x y : Nat × Nat) : Bool := x.1 < y.1 || (x.1 == y.1 && x.2 < y.2)

/-- R237: whether an access holds back the responses of another: a request of it that a requester of both has made before one of the
other's is still to be served. -/
def responseBefore (s : State) (a b : Access) : Bool :=
  b.id != a.id && b.elems.any (fun f => !f.done && elemReady s b f &&
    a.elems.any (fun e => (portKey a e).isSome && portKey a e == portKey b f && keyBefore (requestKey s b f) (requestKey s a e)))

/-- R237: whether an access is done, needs no response, and no earlier one of its requester holds it back. -/
def drained (s : State) (a : Access) : Bool :=
  a.elems.all (fun e => e.done) && !longAccess a && !s.inflight.any (responseBefore s a)

/-- R106, R237: whether the response of an access may arrive: every element of it is done, no answer was cut, and no earlier access
of its requester holds it back. -/
def answerable (s : State) (a : Access) : Bool :=
  a.elems.all (fun e => e.done && !e.cut) && !s.inflight.any (responseBefore s a)

/-- R237: the accesses that may end do, in the order of their requests, by fuel over them. -/
def drainAll : Nat → State → State
  | 0, s => s
  | fuel + 1, s =>
    match (s.inflight.map (fun a => a.id)).find? (fun i => (accAt s i).any (drained s)) with
    | none => s
    | some i => drainAll fuel (retire s i)

/-- Ends an access that is done and needs no response, and those that it held back. -/
def settle (s : State) (id : Nat) : State :=
  match accAt s id with
  | none => s
  | some a => if a.elems.all (fun e => e.done) then drainAll s.inflight.length s else s

/-- Marks element i of an access done with what it read. -/
def elemDone (s : State) (id i : Nat) (got : Word) (bad : Bool) : State :=
  updElem s id i (fun e => { e with done := true, got := got, gotP := bad })

/-- The lanes of some elements, as a mask. -/
def laneMask (l : List Elem) : Word :=
  l.foldl (fun m e => e.lanes.foldl (fun m i => m ||| (1#64 <<< i)) m) 0

/-- A word of `w` free bytes: data that arrives poisoned from nowhere (log entry 7). -/
def freeWord (s : State) : Nat → State × Nat
  | 0 => (s, 0)
  | w + 1 =>
    let r := freeWord { s with free := s.free + 1 } w
    (r.1, (Config.freeByte s.free).toNat + 256 * r.2)

/-- The packet of an element: the elements of its access in the same 64-byte block of the path (R336). -/
def packet (a : Access) (e : Elem) : List (Nat × Elem) :=
  ((upTo a.elems.length).zip a.elems).filter (fun f => f.2.pa / 64 == e.pa / 64 && f.2.path == e.path)

/-- What travels together with element i of an access: its packet, or a read-modify-write alone. -/
def travels (a : Access) (i : Nat) (e : Elem) : List (Nat × Elem) :=
  if a.kind = .load || a.kind = .store then packet a e else [(i, e)]

/-- Table 2.8, R336: the packet of element i of an access is lost: a load is poisoned, a store-type access takes the
store row. -/
def elemLost (s : State) (a : Access) (i : Nat) (kind : Nat) : State :=
  match a.elems[i]? with
  | none => s
  | some e =>
    let l := (travels a i e).filter (fun f => !f.2.done)
    let s := if a.kind = .load then s
      else lostStore s a.who a.uid a.psink kind (laneMask (l.map (fun f => f.2))) ((l.head?.map (fun f => f.2.va)).getD e.va)
    settle (l.foldl (fun s f =>
      let (s, v) := freeWord s f.2.w
      elemDone s a.id f.1 (BitVec.ofNat 64 v) true) s) a.id

/-- R201, R494, R202: the bytes that an element stores, and the poison of its line. A line that the access writes
wholly with clean data loses its poison with its last element. -/
def storeElem (s : State) (a : Access) (e : Elem) : State :=
  let bytes := leBytes e.w e.data.toNat
  let s := ((upTo e.w).zip bytes).foldl (fun s p =>
    if nth false e.mask p.1 then writeByte s (e.pa + p.1) p.2 else setLinePoison s (e.pa + p.1) true) s
  let line := e.pa / 64
  let mine := a.elems.filter (fun f => f.pa / 64 == line)
  let full := (upTo 64).all (fun o => mine.any (fun f =>
    f.pa ≤ 64 * line + o && 64 * line + o < f.pa + f.w && nth false f.mask (64 * line + o - f.pa)))
  if full && mine.all (fun f => f.done || f.pa == e.pa) then setLinePoison s e.pa false else s

/-- R264: element i of a load or store takes effect in the device's memory. -/
def performElem (s : State) (a : Access) (i : Nat) : State :=
  match a.elems[i]? with
  | none => s
  | some e =>
    if stackFailed s e.pa then elemLost s a i 7
    else if a.kind = .load then
      let s := discover s e.pa e.w
      elemDone s a.id i (BitVec.ofNat 64 (readLe s e.pa e.w)) (rangePoison s e.pa e.w)
    else elemDone (storeElem s a e) a.id i 0 false

/-- Table 17.3: the new value of an atomic of w bytes. -/
def amoNew (op : AmoOp) (ty : Ty) (old y : Nat) : Nat :=
  let m := 2 ^ ty.bits
  match op with
  | .add => (old + y) % m
  | .fadd => (fAdd (tyFmt ty) .rne 0 old y).bits
  | .min => if readInt ty y < readInt ty old then y else old
  | .max => if readInt ty old < readInt ty y then y else old
  | .and => old &&& y
  | .or => old ||| y
  | .xor => old ^^^ y
  | .swap => y

/-- R252: the new value of a scatter-add word. -/
def scaddNew (ty : Ty) (old y : Nat) : Nat :=
  if ty.isFloat then (fAdd (tyFmt ty) .rne 0 old y).bits else (old + y) % 2 ^ 32

/-- One lane of a bin-append: its cell and payload. -/
abbrev BinLane := Nat × Nat

/-- R257: the lanes of one cell take consecutive entries; the state and the lanes that overflow. -/
def binCell (s : State) (pa cap cntoff binoff c : Nat) (l : List (Nat × BinLane)) : State × List Nat :=
  let n0 := readLe s (pa + cntoff + 4 * c) 4
  let r := l.foldl (fun (x : State × Nat × List Nat) e =>
    let s := x.1
    let n := x.2.1
    let o := x.2.2
    let n' := if n + 1 < 2 ^ 32 then n + 1 else 2 ^ 32 - 1
    if n < cap then (writeLe s (pa + binoff + 4 * (cap * c + n)) 4 e.2.2, n', o) else (s, n', o ++ [e.1])) (s, n0, [])
  (writeLe r.1 (pa + cntoff + 4 * c) 4 r.2.1, r.2.2)

/-- R257: a bin-append on the table at `pa`, its lanes in order. -/
def binAppend (s : State) (pa ncell cap cntoff binoff ofoff ofcap : Nat) (lanes : List BinLane) : State :=
  let idx := (upTo lanes.length).zip lanes
  let cells := (idx.filter (fun e => e.2.1 < ncell)).foldl (fun (l : List Nat) e =>
    if l.contains e.2.1 then l else l ++ [e.2.1]) []
  let r := cells.foldl (fun (x : State × List Nat) c =>
    let q := binCell x.1 pa cap cntoff binoff c (idx.filter (fun e => e.2.1 == c))
    (q.1, x.2 ++ q.2)) (s, [])
  let extra := idx.filter (fun e => ncell ≤ e.2.1 || r.2.contains e.1)
  extra.foldl (fun s e =>
    let n := readLe s (pa + 28) 4
    if n < ofcap then
      writeLe (writeLe (writeLe s (pa + ofoff + 8 * n) 4 e.2.1) (pa + ofoff + 8 * n + 4) 4 e.2.2) (pa + 28) 4 (n + 1)
    else
      let k := readLe s (pa + 32) 4
      writeLe s (pa + 32) 4 (if k + 1 < 2 ^ 32 then k + 1 else 2 ^ 32 - 1)) r.1

/-- R258: a bin-reset. -/
def binReset (s : State) (pa ncell cntoff : Nat) : State :=
  writeLe (writeLe (writeBytes s (pa + cntoff) (List.replicate (4 * ncell) 0)) (pa + 28) 4 0) (pa + 32) 4 0

/-- R250: a read-modify-write of an element executes at its owning point. -/
def rmwElem (s : State) (a : Access) (i : Nat) : State :=
  match a.elems[i]? with
  | none => s
  | some e =>
    if stackFailed s e.pa then elemLost s a i 7
    else
      let s := (elemRanges a.kind e).foldl (fun s r => discover s r.1 r.2) s
      let old := readLe s e.pa e.w
      let bad := rangePoison s e.pa e.w
      let done (s : State) := elemDone s a.id i (BitVec.ofNat 64 old) bad
      match a.kind with
      | .amo op => done (writeLe s e.pa e.w (amoNew op a.ty old (e.data.toNat % 2 ^ (8 * e.w))))
      | .cas => if old = e.data.toNat % 2 ^ (8 * e.w) then done (writeLe s e.pa e.w (e.data2.toNat % 2 ^ (8 * e.w)))
        else done s
      | .scadd =>
        -- a group with a poisoned lane or offset is not performed: its line is poisoned (R253)
        if nth false e.mask 0 then done (writeLe s e.pa e.w (scaddNew a.ty old e.data.toNat))
        else done (setLinePoison s e.pa true)
      | .binapp _ ncell cap cntoff binoff ofoff ofcap =>
        done (binAppend s e.pa ncell cap cntoff binoff ofoff ofcap ((a.elems.drop 1).map (fun f =>
          (f.data.toNat, f.data2.toNat))))
      | .binrst _ ncell cntoff => done (binReset s e.pa ncell cntoff)
      | .load => s
      | .store => s

/-- The bytes that a packet writes, `none` for those it leaves. -/
def packetBytes (l : List (Nat × Elem)) (base n : Nat) : List (Option Byte) :=
  (upTo n).map (fun o =>
    match l.find? (fun e => e.2.pa ≤ base + o && base + o < e.2.pa + e.2.w) with
    | none => none
    | some e => if nth false e.2.mask (base + o - e.2.pa) then
        some (BitVec.ofNat 8 (e.2.data.toNat / 2 ^ (8 * (base + o - e.2.pa)))) else none)

/-- The bytes that a packet to a peer carries: those it leaves, those it marks poisoned and those it writes (R247). -/
def peerBytes (l : List (Nat × Elem)) (base n : Nat) : List PByte :=
  (upTo n).map (fun o =>
    match l.find? (fun e => e.2.pa ≤ base + o && base + o < e.2.pa + e.2.w) with
    | none => .keep
    | some e => if nth false e.2.mask (base + o - e.2.pa) then
        .val (BitVec.ofNat 8 (e.2.data.toNat / 2 ^ (8 * (base + o - e.2.pa)))) else .bad)

/-- The AtomicOp that a form is carried as at a host aperture (Table 17.4). -/
def hostOp (k : AccKind) : HostAtomic :=
  match k with
  | .amo .swap => .swap
  | .cas => .cas
  | _ => .fetchAdd

/-- What an access asks of a peer. -/
def peerKind (a : Access) : PeerKind :=
  match a.kind with
  | .load => .load
  | .store => .store
  | .amo op => .amo op a.ty
  | .cas => .acas a.ty
  | .scadd => .amo (if a.ty.isFloat then .fadd else .add) a.ty
  | .binapp _ _ _ _ _ _ _ => .store
  | .binrst _ _ _ => .store

/-- R246, R247, R353, R354: an element's packet leaves the device; its response or acknowledgement ends it. -/
def sendElem (s : State) (a : Access) (i : Nat) : State :=
  match a.elems[i]? with
  | none => s
  | some e =>
    let l := travels a i e
    let lo := l.foldl (fun m f => if f.2.pa < m then f.2.pa else m) e.pa
    let hi := l.foldl (fun m f => if m < f.2.pa + f.2.w then f.2.pa + f.2.w else m) 0
    let id := 64 * a.id + i
    let mark (s : State) := l.foldl (fun s f =>
      updAcc s a.id (fun b => { b with elems := setNth ({ f.2 with sent := true }) b.elems f.1 })) s
    let out (s : State) (o : Out) := { mark s with outHost := s.outHost ++ [o] }
    match e.path with
    | .host =>
      let (port, addr) := hostAddr lo
      if a.kind = .load then out s (.hostRead port addr (hi - lo) id)
      else if a.kind = .store then out s (.hostWrite port addr (packetBytes l lo (hi - lo)) id)
      else out s (.hostAtomic port addr (hostOp a.kind) e.w e.data e.data2 id)
    | .peer =>
      if devId s = 0xFFF then elemLost s a i 7
      else if a.kind = .scadd && !nth false e.mask 0 then
        -- a group with a poisoned lane or offset only marks its bytes poisoned (R247, R253)
        out s (.peerReq (lo / 2 ^ 35 % 4096) (lo % 2 ^ 35) id .store (List.replicate e.w PByte.bad))
      else
        let bytes := if a.kind = .load then List.replicate (hi - lo) PByte.keep
          else if a.kind = .store then peerBytes l lo (hi - lo)
          else (leBytes e.w e.data.toNat ++ leBytes e.w e.data2.toNat).map PByte.val
        out s (.peerReq (lo / 2 ^ 35 % 4096) (lo % 2 ^ 35) id (peerKind a) bytes)
    | .own | .view | .sys | .bonded | .hbm => s

/-- The elements of an access that a response or acknowledgement with an id ends: the sent ones of its packet. -/
def answered (a : Access) (i : Nat) : List (Nat × Elem) :=
  match a.elems[i]? with
  | none => []
  | some e => if a.kind = .load || a.kind = .store then (packet a e).filter (fun f => f.2.sent && !f.2.done)
    else if e.sent && !e.done then [(i, e)] else []

/-- Whether a path takes entries of the network interface (R243): any but those to own scratchpad and the span view (R493). -/
def Path.ni : Path → Bool
  | .sys | .bonded | .hbm | .host | .peer => true
  | .own | .view => false

/-- Whether an element of an access of a kind holds its entry of the network interface (R243): a posted write until it has left, what a
host or a peer answers until that answer, and any other until its access ends. -/
def unanswered (k : AccKind) (e : Elem) : Bool :=
  e.path.ni && !(e.path.remote && (e.done || (k == .store && e.path == .host && e.sent)))

/-- The distinct lines of some elements. -/
def elemLines (l : List Elem) : List Nat :=
  l.foldl (fun (r : List Nat) e => if r.contains (e.pa / 64) then r else (e.pa / 64) :: r) []

/-- The entries that the chunks of a tile's stream commands have taken: one each, as a chunk is one request (R243; DESIGN CHOICE, log
entry 37). -/
def chunkRequests (s : State) (t : Nat) : Nat :=
  (cmdsOf (coreAt s t)).foldl (fun n c =>
    n + (c.chunks.filter (fun k => k.path.ni && !(c.out && k.path == .host && k.sent))).length) 0

/-- The entries that the threads of a tile have taken for accesses that wait for a partner (R313). -/
def lentLines (s : State) (t : Nat) : Nat :=
  (threadsOn s t).foldl (fun n e => match e.2.status with
    | .waiting (.lent _ _ _ l) => n + l
    | _ => n) 0

/-- R243, R493: the requests of a tile outstanding to bonded, HBM, host and peer memory: one for each 64-byte line of an access,
one for each stream chunk, and those of accesses that wait for a partner. -/
def niCount (s : State) (t : Nat) : Nat :=
  (s.inflight.filter (fun a => a.tile == t)).foldl (fun n a => n + (elemLines (a.elems.filter (unanswered a.kind))).length) 0 +
    chunkRequests s t + lentLines s t

/-- R273: whether an access counts in the sets of a fence: .ld [0], .st [1]. -/
def inSets (sets : BitVec 3) (k : AccKind) : Bool :=
  match k with
  | .load => sets.getLsbD 0
  | .store => sets.getLsbD 1
  | .amo _ | .cas | .scadd | .binapp _ _ _ _ _ _ _ | .binrst _ _ _ => sets.getLsbD 0 || sets.getLsbD 1

/-- R271, R273: whether every access of a thread in some sets and a scope has taken effect; a zero-length read (R280) is no access of
it. -/
def accessesDone (s : State) (uid scp : Nat) (sets : BitVec 3) : Bool :=
  (s.inflight.filter (fun a => a.uid == uid && a.id < s.issue.acc0 && inSets sets a.kind)).all (fun a =>
    a.elems.all (fun e => e.done || scp < e.path.scope || e.w == 0))

/-- The chunk with a number among the accesses, with its tile and command. -/
def chunkAt (s : State) (num : Nat) : Option (Nat × Cmd × Chunk) :=
  pick (fun (e : Nat × Core) => pick (fun c => (c.chunks.find? (fun k => k.num == num)).map (fun k => (e.1, c, k)))
    (cmdsOf e.2)) s.cores

/-- Whether an access holds an undone element in a scope still, or a number is of a chunk in the scope that is still open. -/
def stillOpen (s : State) (scp id : Nat) : Bool :=
  match accAt s id with
  | none => match chunkAt s id with
    | none => false
    | some (_, _, k) => k.path.scope ≤ scp
  | some a => a.elems.any (fun e => !e.done && e.path.scope ≤ scp)

/-- R278, Table 11.5: whether an access is one that every later access of a thread follows: of the frozen thread that it serves, or of
the handler that resumed it, to a wafer target. -/
def follows (th : Thread) (a : Access) : Bool :=
  (a.serves == some th.uid || (match th.kind with
    | .handler _ u => a.uid == u
    | .task => false
    | .alert _ => false)) && a.elems.any (fun e => !e.done && e.path.scope ≤ 2)

/-- R271, R278: whether a read that a bundle of a thread makes of its own scratchpad has still to follow an access: an acquire of the
thread, which covers that target at every scope, or an access of the thread that it serves, or of the handler that resumed it. -/
def readHeld (s : State) (th : Thread) : Bool :=
  s.inflight.any (fun a => a.uid == th.uid && a.acq && a.elems.any (fun e => !e.done)) || !(s.inflight.filter (follows th)).isEmpty

/-- R267: whether an undone access of a thread by the path of its own scratchpad touches some bytes. -/
def accessOver (s : State) (uid pa n : Nat) : Bool :=
  s.inflight.any (fun a => a.uid == uid && a.id < s.issue.acc0 && a.elems.any (fun e => !e.done && e.path == .own &&
    (elemRanges a.kind e).any (fun r => overlap r.1 r.2 pa n)))

/-- Whether an undone store of a thread overlaps some bytes (R211, R270), over any path or over one (R180, R267). -/
def storesOver (s : State) (uid : Nat) (via : Option Path) (pa n : Nat) : Bool :=
  s.inflight.any (fun a => a.uid == uid && a.id < s.issue.acc0 && a.kind != .load && a.elems.any (fun e => !e.done &&
    (via.isNone || via == some e.path) && (elemRanges a.kind e).any (fun r => overlap r.1 r.2 pa n)))

/-! The deck (R19, R46, R47, R50, R51, R546). -/

/-- Where the packets of a core enter the deck: its router, or the abutment of the keystone. -/
def coreEnd (s : State) (t : Nat) : Deck :=
  if isKs t then .agent (ksAgent s) else if Config.ks < t then .agent (t - Config.ks - 1) else .tile t

/-- Where a packet to a location leaves the deck: its slice's or scratchpad's router, its pier, the abutment of its PCI Express
port, or that of one of its Cufort ports (log entry 77); none for a path that takes no deck link. -/
def placeEnd (s : State) (p : Path) (pa : Nat) : Option Deck :=
  match p with
  | .own | .view => none
  | .bonded => some (.tile (sliceOf pa))
  | .sys => some (coreEnd s (padOwner pa))
  | .hbm => some (.agent (pa / 0x1000000000))
  | .host => some (.agent (if pa < 0x080000000000 then 32 else 36))
  | .peer => some (.agent (portAgent (peerPort s pa)))

/-- The number under which a pier sends publications (R79), past those of the cores. -/
def pierNode (a : Nat) : Nat := Config.ks + 1 + a

/-- The routers that a request of a core to a location passes; none where a packet of it meets an entry of 7 (R47). -/
def requestRoute (s : State) (t : Nat) (p : Path) (pa : Nat) : Option (List Nat) :=
  match placeEnd s p pa with
  | none => some []
  | some d => deckLink s (coreEnd s t) d

/-- The routers that an answer from a location to a core passes. -/
def answerRoute (s : State) (t : Nat) (p : Path) (pa : Nat) : Option (List Nat) :=
  match placeEnd s p pa with
  | none => some []
  | some d => deckLink s d (coreEnd s t)

/-- The path of a physical address of the device. -/
def devPath (pa : Nat) : Path :=
  if pa < 0x020000000000 then .hbm else if pa < 0x039000000000 then .bonded else .sys

/-- R19, R47: whether what enters the device at an abutment finds a route to an address of it, and what leaves again a route back. -/
def abutRoutes (s : State) (a pa : Nat) : Bool :=
  match placeEnd s (devPath pa) pa with
  | none => true
  | some d => (deckLink s (.agent a) d).isSome && (deckLink s d (.agent a)).isSome

/-- R47, Table 2.8: the packet of an element meets an entry of 7: a load is sent again, a store-type access takes the store
row. -/
def discarded (s : State) (a : Access) (i : Nat) : State := if a.kind = .load then s else elemLost s a i 7

/-- R47, Table 2.8: an element of an access takes effect by `f` where its packet reaches its owning point. Where no answer can
come back, a load is sent again, and a store-type access that has been performed takes the store row: one record for each packet, as
the last of what it carried is performed (R336). -/
def onRoute (s : State) (a : Access) (i : Nat) (e : Elem) (f : State → State) : State :=
  if (requestRoute s a.tile e.path e.pa).isNone then discarded s a i
  else if (answerRoute s a.tile e.path e.pa).isSome then f s
  else if a.kind = .load then s
  else
    let s := updElem (f s) a.id i (fun x => { x with gotP := true })
    let l := travels a i e
    if l.all (fun x => x.1 == i || x.2.done) then
      lostStore s a.who a.uid a.psink 7 (laneMask (l.map (fun x => x.2))) ((l.head?.map (fun x => x.2.va)).getD e.va)
    else s

/-- R48, step 3: whether injection at a tile is stopped: its site is being lowered, its instances are dealt with, and its router
answers still. -/
def injectionStopped (s : State) (t : Nat) : Bool :=
  match s.lowering with
  | none => false
  | some l => !l.sudden && t < Config.ks && l.site == siteOf t && (match s.lowVac with
    | none => true
    | some v => v.phase == 5)

/-! Patched patterns (R307). -/

/-- A number put into a rising list. -/
def insertNat (n : Nat) : List Nat → List Nat
  | [] => [n]
  | a :: l => if n < a then n :: a :: l else if n = a then a :: l else a :: insertNat n l

/-- The pages of 8 KiB that the elements of a pattern lie in. -/
def patPages (pat : BitVec 256) : List Nat := (upTo (patE pat)).foldl (fun l e => insertNat (patA pat e / 8192) l) []

/-- R307: the extent of a page: what a walk finds, or an absent one. -/
def pageExtent (s : State) (sp : Space) (p : Nat) : Extent :=
  match walk s sp.root (8192 * p) with
  | .leaf pa e l => match leafCheck s sp ⟨false, false, false, none⟩ pa e with
    | .ok q path => { va := 8192 * p, len := 8192, at_ := some (q, path), rd := e.getLsbD 2, wr := e.getLsbD 3,
                      leaves := [(8192 * p / 2 ^ (13 + 10 * l) * 2 ^ (13 + 10 * l), 2 ^ (13 + 10 * l))] }
    | _ => absent
  | _ => absent
where
  /-- An absent extent. -/
  absent : Extent := { va := 8192 * p, len := 8192, at_ := none, rd := false, wr := false, leaves := [(8192 * p, 8192)] }

/-- Whether an extent goes on where another one ends. -/
def Extent.joins (a b : Extent) : Bool :=
  a.va + a.len == b.va && a.rd == b.rd && a.wr == b.wr && match a.at_, b.at_ with
    | none, none => true
    | some (q, p), some (r, o) => q + a.len == r && p == o
    | _, _ => false

/-- An extent put behind others, as part of the last one where it goes on. -/
def joinExtent (l : List Extent) (e : Extent) : List Extent :=
  match l.reverse with
  | [] => [e]
  | a :: r =>
    if a.joins e then
      ({ a with len := a.len + e.len, leaves := a.leaves ++ e.leaves.filter (fun x => !a.leaves.contains x) } :: r).reverse
    else l ++ [e]

/-- R230, R307: the extents of a patched pattern: none for a pattern with lp 0, in the local window, or that needs more than 64; and
none for a page of the local region, which is never translated. -/
def patch (s : State) (sp : Space) (pat : BitVec 256) : List Extent :=
  let pages := (patPages pat).filter (fun p => 0x2000000 ≤ 8192 * p)
  if !pat.getLsbD 63 || pages.any (fun p => 0x4000000 ≤ 8192 * p && 8192 * p < 0x8000000) then []
  else
    let l := (pages.map (pageExtent s sp)).foldl joinExtent []
    if 64 < l.length then [] else l

/-- R261, R307: what the walks of a pattern's pages have found. -/
def patchFound (s : State) (sp : Space) (pat : BitVec 256) : State :=
  if pat.getLsbD 63 then
    ((patPages pat).filter (fun p => paged (8192 * p))).foldl (fun t p => walkFound t (walk s sp.root (8192 * p))) s
  else s

/-- R307: where an extent list leads an address, for a read or a write; none where it does not, so that the engine translates. -/
def extentAt (l : List Extent) (va : Nat) (wr : Bool) : Option (Nat × Path) :=
  pick (fun e => if e.va ≤ va && va < e.va + e.len && (if wr then e.wr else e.rd) then
    e.at_.map (fun a => (a.1 + (va - e.va), a.2)) else none) l

/-! The places and words of a chunk (R238, R290). -/

/-- The scratchpad-side location of an element. -/
def padAt (t : Nat) (c : Cmd) (e : Nat) : Nat := padBase t + c.sa + e * c.ws

/-- The bytes that a chunk reads. -/
def srcLen (c : Cmd) (k : Chunk) : Nat := k.n * (if c.out then c.ws else c.pw)
/-- The bytes that a chunk writes. -/
def dstLen (c : Cmd) (k : Chunk) : Nat := k.n * (if c.out then c.pw else c.ws)

/-- Where the bytes that a chunk reads in the device begin: in its tile's scratchpad, or at its port. -/
def srcBase (t : Nat) (c : Cmd) (k : Chunk) : Nat := if c.out then padAt t c k.id else k.pa
/-- Where the bytes that a chunk writes begin: at its port, or in its tile's scratchpad. -/
def dstBase (t : Nat) (c : Cmd) (k : Chunk) : Nat := if c.out then k.pa else padAt t c k.id

/-- The part of a range that lies in its aligned 32-bit word j: its first byte and its length. -/
def wordPart (base len j : Nat) : Nat × Nat :=
  let lo := 4 * (base / 4 + j)
  let a := if lo < base then base else lo
  let b := if lo + 4 < base + len then lo + 4 else base + len
  (a, b - a)

/-- How many aligned 32-bit words a range touches. -/
def wordsIn (base len : Nat) : Nat := (base % 4 + len + 3) / 4

/-- Whether every word of the source of a chunk is read. -/
def allRead (t : Nat) (c : Cmd) (k : Chunk) : Bool :=
  (upTo (wordsIn (srcBase t c k) (srcLen c k))).all (fun j => k.src.contains j)

/-- Whether every word of what a chunk writes in the device is written. -/
def allWritten (t : Nat) (c : Cmd) (k : Chunk) : Bool :=
  (upTo (wordsIn (dstBase t c k) (dstLen c k))).all (fun j => k.dst.contains j)

end Sys2Proof.Machine
end

