-- ==== Sys2Proof/Machine/Operands.lean ====
section
/-! DEFINITION. What every syllable meaning is built from: its thread, its guard (R114, R138), the registers as they stood
before the bundle (R112), freezing and waiting, immediates, the rounding mode (R190) and random bits (R133, R193). -/

namespace Sys2Proof

/-- R146, R147: the value of an F1 immediate. -/
def Imm.value (i : Imm) : Word :=
  match i.x with
  | none => i.lo.signExtend 64
  | some p => p ++ i.lo

/-- R146, R147: an F2 offset, modulo 2^53. -/
def Off.value (o : Off) : Nat :=
  match o.x with
  | none => (o.lo.signExtend 53).toNat
  | some p => (p ++ o.lo : BitVec 53).toNat

/-- R146, R147: an F3 offset, modulo 2^53. -/
def OffA.value (o : OffA) : Nat :=
  match o.x with
  | none => (o.lo.signExtend 53).toNat
  | some p => (p ++ o.lo : BitVec 53).toNat

/-- The code of a rounding suffix in ctl.rm (Tables 5.3, 6.4); `dyn` names ctl.rm. -/
def Rm.mode (m : Rm) (ctl : BitVec 3) : Nat :=
  match m with
  | .dyn => ctl.toNat
  | .rne => 0 | .rtz => 1 | .rup => 2 | .rdn => 3 | .rna => 4 | .sr => 5

end Sys2Proof

namespace Sys2Proof.Machine

/-- What a syllable, or an event, answers. -/
abbrev Result := Host.Outcome State Fault Refusal

/-- The thread that the bundle being executed belongs to. -/
def issuer (s : State) : Option Thread := threadAt s s.issue.key

/-- A syllable acts on the thread of the bundle; no thread of that key is the one stop. -/
def onThread (s : State) (f : Thread → State) : Result :=
  match issuer s with
  | none => .fault .noThread
  | some th => .next (f th)

/-- R114, R138: bit 0 of a guard as it stood before the bundle. -/
def guardOn (s : State) (g : PReg) : Bool := (s.issue.src.rdP g).getLsbD 0

/-- R114: an S, M, N or C syllable: no effect where its guard is false. -/
def syllable (s : State) (g : PReg) (f : Thread → State) : Result :=
  onThread s (fun th => if guardOn s g then f th else s)

/-- The state with the issuing thread updated. -/
def updIssuer (s : State) (f : Thread → Thread) : State := updThread s s.issue.key f

/-- The state with the issuing thread's registers updated. -/
def setRegs (s : State) (f : Regs → Regs) : State := updIssuer s (fun th => { th with regs := f th.regs })

/-- The tile of the issuing thread. -/
def State.tile (s : State) : Nat := tileOf s.issue.key

/-- R314, R316: the bundle freezes at the syllable being executed. -/
def freeze (s : State) (c : FaultClass) (addr : Option Nat) (aux : Word) : State :=
  takeFault { s with issue := { s.issue with flow := .freeze } } s.issue.key c s.issue.pc s.issue.words.length s.issue.idx
    (nth 0 s.issue.words s.issue.idx) (addr.map (BitVec.ofNat 53)) aux

/-- R106, R313: the bundle does not commit yet: its thread waits at it, with what the bundle keeps. -/
def holdFor (s : State) (w : Wait) : State :=
  updIssuer { s with issue := { s.issue with flow := .wait } } (fun th => { th with
    status := .waiting w, pc := s.issue.pc,
    bundle := some ⟨s.issue.words, s.issue.src, s.issue.cyc, s.issue.csrs, s.issue.table, s.issue.shapes, s.issue.payload⟩ })

/-- R243, R288: a bundle for which an entry is wanting does not issue: the threads and turns of its core are as before, but that its
thread waits for an entry to free. -/
def unissue (s : State) (l : List (Nat × Thread)) (last : Map Nat) : State :=
  let s := l.foldl (fun s e => setThread s e.1 e.2) { s with issue := { s.issue with flow := .wait } }
  updIssuer (updCore s (tileOf s.issue.key) (fun c => { c with last := last })) (fun th => { th with status := .waiting .operand })

/-- R106, R243, R288, R313: the bundle waits: to commit, or, where it is about to issue and wants an entry, to issue. -/
def waitFor (s : State) (w : Wait) : State :=
  if w = .operand then match s.issue.undo with
    | some (l, last) => unissue s l last
    | none => holdFor s .cond
  else holdFor s w

/-- A scalar source, as it stood before the bundle. -/
def rdS (s : State) (r : SReg) : SVal := s.issue.src.rdS r
/-- A vector source. -/
def rdV (s : State) (r : VReg) : Vec := s.issue.src.rdV r
/-- A predicate source. -/
def rdP (s : State) (r : PReg) : Word := s.issue.src.rdP r
/-- A scalar result. -/
def wrS (s : State) (d : SReg) (v : Nat) (p : Bool) : State := setRegs s (fun r => r.wrS d ⟨BitVec.ofNat 64 v, p⟩)
/-- A predicate result. -/
def wrP (s : State) (d : PReg) (v : Word) : State := setRegs s (fun r => r.wrP d v)

/-- R124, R127: flags raised by a syllable of the bundle. -/
def raise (s : State) (f : Flags) : State :=
  setRegs { s with issue := { s.issue with flags := s.issue.flags ||| f } } (fun r => { r with fflags := r.fflags ||| f })

/-- R190: the mode in force for a syllable. -/
def modeOf (s : State) (m : Rm) : Mode := Mode.ofCode (m.mode s.issue.src.rm)

/-- R133, R193: entry `n` of those that a bundle draws, and the queue after it, from the queue before the bundle. -/
def drawAt (r : Regs) : Nat → BitVec 1024 × Rng
  | 0 => r.rng.pop r.seed r.tag
  | n + 1 => (drawAt r n).2.pop r.seed r.tag

/-- R133: a syllable that rounds in SR takes its entry; any other takes none. A seed written by the bundle keeps the
queue it emptied (R193). -/
def draw (s : State) (m : Mode) : State × BitVec 1024 :=
  if m = .sr then
    let e := drawAt s.issue.src s.issue.drawn
    (setRegs { s with issue := { s.issue with drawn := s.issue.drawn + 1 } } (fun r =>
      if s.issue.seeded then r else { r with rng := e.2 }), e.1)
  else (s, 0)

/-- The lanes of a vector written under a guard: lane i takes `f i` where bit i of the guard is set (R114). -/
def laneWise (g : Word) (old : Vec) (f : Nat → Lane) : Vec :=
  (upTo 64).map (fun i => if g.getLsbD i then f i else old.lane i)

/-- R114: a V syllable, or an L syllable on vector registers: no effect where its guard enables no lane. -/
def vectorSyllable (s : State) (g : PReg) (f : Thread → State) : Result :=
  onThread s (fun th => if rdP s g = 0 then s else f th)

/-- The enabled lanes of a vector register written (R114). -/
def wrV (s : State) (g : PReg) (d : VReg) (f : Nat → Lane) : State :=
  setRegs s (fun r => r.wrV d (laneWise (rdP s g) (rdV s d) f))

/-- A lane of w bits, zero-extended or sign-extended by its type (R174). -/
def laneOf (ty : Ty) (x : Nat) (p : Bool) : Lane := ⟨BitVec.ofNat 32 (extend ty 32 x), p⟩

/-- The low bits of a lane that its type reads. -/
def laneBits (ty : Ty) (l : Lane) : Nat := l.val.toNat % 2 ^ ty.bits

/-- The lanes a guard enables, in order. -/
def lanesOn (g : Word) : List Nat := (upTo 64).filter (fun i => g.getLsbD i)

end Sys2Proof.Machine
end

