-- ==== Sys2Proof/Machine/LoadStore.lean ====
section
/-! DEFINITION. Class L on memory: LD, ST, the vector memory instructions of R491, PREF and FENCE. A syllable checks every
address (R249), then its access enters flight and takes effect at its owning point. -/

namespace Sys2Proof.Machine

/-- The outcome of the checks of an access: a location and path for each address, a fault at an address, or a wait. -/
inductive Checked where
  | ok (l : List (Nat × Nat × Path))
  | fault (c : FaultClass) (va : Nat) (aux : Word)
  | wait
  deriving DecidableEq, Repr

/-- R40: the lost partner of a lent window, with its slot, for the store-type access of the syllable that was issued before the loss. -/
def lentGone (s : State) : Option (Nat × Nat) :=
  match s.issue.wait with
  | some (.gone i p k) => if i = s.issue.idx then some (p, k) else none
  | _ => none

/-- Where the address of an access leads; in a lent window whose partner the access has lost, to where it led. -/
def locate (s : State) (sp : Space) (n : Need) (va : Nat) : State × Tr :=
  match lentGone s with
  | none => translate s sp n va
  | some (p, k) =>
    if inLent s sp.tile va then (s, .ok (0x020000000000 + p * 0x4000000 + lentOffset k + (va - 0x4000000)) .bonded)
    else translate s sp n va

/-- R249, R316: the checks of the addresses of an access, in order: ALIGN, translation, and whether the owning point
carries the form (R248). -/
def checkAddrs (sp : Space) (n : Need) (carry : Path → Bool) (w : Nat) : List Nat → State → State × Checked
  | [], s => (s, .ok [])
  | va :: l, s =>
    if va % w != 0 then (s, .fault .align va (BitVec.ofNat 64 w))
    else match locate s sp n va with
      | (s, .fault c aux) => (s, .fault c va aux)
      | (s, .wait) => (s, .wait)
      | (s, .ok pa p) =>
        if !carry p then (s, .fault .atomroute va 0)
        else match checkAddrs sp n carry w l s with
          | (s, .ok r) => (s, .ok ((va, pa, p) :: r))
          | r => r

/-- Whether the bundle has waited for its partner to accept a lent-window access (R313), or has lost the partner. -/
def lentAccepted (s : State) : Bool :=
  match s.issue.wait with
  | some (.lent _ _ _ _) => true
  | some (.gone _ _ _) => true
  | _ => false

/-- R40, Table 2.8: the access just launched by a syllable that lost its partner is lost in the slice that it went to. -/
def loseIfGone (gone : Bool) (first : Nat) (s : State) : State :=
  if !gone then s
  else { s with inflight := s.inflight.map (fun a => if first ≤ a.id then
    { a with elems := a.elems.map (fun e => if siteLost s e.pa e.path then { e with cut := true } else e) } else a) }

/-- The distinct lines of the checked addresses that take an entry of the network interface (R243, R493). -/
def niLines (l : List (Nat × Nat × Path)) : List Nat :=
  (l.filter (fun e => e.2.2.ni)).foldl (fun (r : List Nat) e =>
    if r.contains (e.2.1 / 64) then r else (e.2.1 / 64) :: r) []

/-- An L syllable's access: its checks, the waits of R243, R308 and R313, and then `k`. -/
def withAccess (s : State) (th : Thread) (n : Need) (carry : Path → Bool) (w : Nat) (addrs : List Nat)
    (k : State → List (Nat × Nat × Path) → State) : State :=
  match checkAddrs (spaceOf s s.issue.key th) n carry w addrs s with
  | (s, .fault c va aux) => freeze s c (some va) aux
  | (s, .wait) => waitFor s .cond
  | (s, .ok l) =>
    if injectionStopped s s.tile && l.any (fun e => !(e.2.2 == .own || e.2.2 == .view)) then waitFor s .operand
    -- a bundle that its partner has accepted took its entries as it issued
    else if !lentAccepted s && Config.niSize < niCount s s.tile + (niLines l).length then waitFor s .operand
    else match addrs.find? (fun va => inLent s s.tile va) with
    | some va =>
      if lentAccepted s then loseIfGone (lentGone s).isSome s.nextAcc (k s l)
      else waitFor s (.lent va s.issue.idx (n.wr || n.at_) (niLines l).length)
    | none => k s l

/-- Every path carries a plain load or store. -/
def anyPath (_ : Path) : Bool := true
/-- A read. -/
def needRd : Need := ⟨true, false, false, none⟩
/-- A write. -/
def needWr : Need := ⟨false, true, false, none⟩

/-- R236: the cycles that an access occupies the load/store port: the largest number of distinct words that it needs in one bank,
and at least one. -/
def portCycles (elems : List Elem) : Nat :=
  let ws := elems.foldl (fun (l : List Nat) e => if e.path.long || l.contains (e.pa / 8) then l else (e.pa / 8) :: l) []
  ws.foldl (fun n w => max n (ws.filter (fun v => v % 32 == w % 32 && padOwner (8 * v) == padOwner (8 * w))).length) 1

/-- An access of the issuing thread enters flight. -/
def launch (s : State) (th : Thread) (kind : AccKind) (ty : Ty) (dst : Dst) (poison : Bool) (elems : List Elem)
    (scp : Nat) (acq rel : Bool) : State :=
  let w := whoOf s.issue.key th
  let s := updCore s s.tile (fun c => { c with
    portFree := (if c.cyc < c.portFree then c.portFree else c.cyc) + BitVec.ofNat 64 (portCycles elems) })
  addAccess s { id := 0, uid := th.uid, tile := s.tile, kind := kind, ty := ty, dst := dst, poison := poison,
                elems := elems, scp := scp, acq := acq, rel := rel, ctx := w.ctx, who := w, psink := s.issue.src.psink,
                miss := s.issue.miss, leaves := usedLeaves s (spaceOf s s.issue.key th) (elems.map (fun e => e.va)),
                serves := match th.kind with
                  | .handler _ u => some u
                  | .task => none
                  | .alert _ => none,
                ahead := [] }

/-- R280: before a release or fence at a scope, the reads that acknowledge the thread's posted writes, at system scope. -/
def flushAt (s : State) (th : Thread) (scp : Nat) : State :=
  if scp = 3 then [0, 1].foldl (flushPort th.uid (whoOf s.issue.key th) s.issue.src.psink) s else s

/-- R201, R335, R336: a sink: its record, and the freeze with POISONSINK where psink is 1; otherwise `k` goes on. -/
def sink (s : State) (th : Thread) (kind : Nat) (mask : Word) (wh : Nat) (k : State → State) : State :=
  let w := whoOf s.issue.key th
  let seq := sinkSeq s w.ctx
  if s.issue.src.psink then
    freeze (poisonRecord s w kind true mask wh) .poisonsink (some wh) (BitVec.ofNat 64 (kind * 2 ^ 32 + seq % 2 ^ 32))
  else k (poisonRecord s w kind false mask wh)

/-- R419, R462: the address sa + sb + off, modulo 2^53. -/
def scalarAddr (s : State) (a b : SReg) (off : Off) : Nat :=
  ((rdS s a).val.toNat + (rdS s b).val.toNat + off.value) % 2 ^ 53

/-- The bytes of a type in memory (R418). -/
def tyBytes (ty : Ty) : Nat := ty.bits / 8

/-- R418 to R421: LD. -/
def execLd (g : PReg) (ty : Ty) (d a b : SReg) (off : Off) (s : State) : Result :=
  syllable s g (fun th =>
    let w := tyBytes ty
    withAccess s th needRd anyPath w [scalarAddr s a b off] (fun s l =>
      launch s th .load ty (.s d) ((rdS s a).poison || (rdS s b).poison)
        (l.map (fun x => mkElem [0] x w 0 0 [])) 0 false false))

/-- R462, R463: ST. -/
def execSt (g : PReg) (ty : Ty) (d a b : SReg) (off : Off) (s : State) : Result :=
  syllable s g (fun th =>
    let w := tyBytes ty
    let addr := scalarAddr s a b off
    let v := rdS s d
    let bad := v.poison || (rdS s a).poison || (rdS s b).poison
    withAccess s th needWr anyPath w [addr] (fun s l =>
      let go (s : State) := launch s th .store ty .none false
        (l.map (fun x => mkElem [0] x w v.val 0 (List.replicate w (!bad)))) 0 false false
      if bad then sink s th 1 1 addr go else go s))

/-- R492: the address of lane i of a contiguous access. -/
def contigAddr (s : State) (a b : SReg) (off : Off) (w i : Nat) : Nat :=
  ((rdS s a).val.toNat + (rdS s b).val.toNat + off.value + i * w) % 2 ^ 53

/-- R492: the address of lane i of an indexed access. -/
def indexAddr (s : State) (a : SReg) (b : VReg) (off : Off) (i : Nat) : Nat :=
  ((rdS s a).val.toNat + ((rdV s b).lane i).val.toNat + off.value) % 2 ^ 53

/-- R491 to R493: a vector load from the addresses of its lanes, with the poison of each lane's address. -/
def vectorLoad (g : PReg) (ty : Ty) (d : VReg) (addr : Nat → Nat) (bad : Nat → Bool) (s : State) : Result :=
  vectorSyllable s g (fun th =>
    let w := tyBytes ty
    let on := lanesOn (rdP s g)
    withAccess s th needRd anyPath w (on.map addr) (fun s l =>
      launch s th .load ty (.v d) false ((on.zip l).map (fun e => mkElem [e.1] e.2 w 0 0 [bad e.1])) 0 false false))

/-- R491 to R494: a vector store to the addresses of its lanes; `merge` drops a lane whose address a later lane has. A sink lane that is
dropped so is in the record's mask and does not poison its line (DEDUCED, log entry 119). -/
def vectorStore (kind : Nat) (merge : Bool) (g : PReg) (ty : Ty) (d : VReg) (addr : Nat → Nat) (bad : Nat → Bool)
    (s : State) : Result :=
  vectorSyllable s g (fun th =>
    let w := tyBytes ty
    let on := lanesOn (rdP s g)
    let v := rdV s d
    let dirty (i : Nat) := bad i || (v.lane i).poison
    let sinks := on.filter dirty
    withAccess s th needWr anyPath w (on.map addr) (fun s l =>
      let go (s : State) :=
        let es := (on.zip l).filter (fun e => !(merge && on.any (fun j => e.1 < j && addr j == addr e.1)))
        launch s th .store ty .none false (es.map (fun e =>
          mkElem [e.1] e.2 w ((v.lane e.1).val.setWidth 64) 0 (List.replicate w (!dirty e.1)))) 0 false false
      match sinks with
      | [] => go s
      | i :: _ => sink s th kind (maskOf (fun j => sinks.contains j)) (addr i) go))
where
  /-- A mask of lanes. -/
  maskOf (f : Nat → Bool) : Word := (upTo 64).foldl (fun m i => if f i then m ||| (1#64 <<< i) else m) 0

/-- R493: VLD. -/
def execVld (g : PReg) (ty : Ty) (d : VReg) (a b : SReg) (off : Off) (s : State) : Result :=
  vectorLoad g ty d (contigAddr s a b off (tyBytes ty)) (fun _ => (rdS s a).poison || (rdS s b).poison) s
/-- R494: VST. -/
def execVst (g : PReg) (ty : Ty) (d : VReg) (a b : SReg) (off : Off) (s : State) : Result :=
  vectorStore 1 false g ty d (contigAddr s a b off (tyBytes ty)) (fun _ => (rdS s a).poison || (rdS s b).poison) s
/-- R493: VGATHER. -/
def execVgather (g : PReg) (ty : Ty) (d : VReg) (a : SReg) (b : VReg) (off : Off) (s : State) : Result :=
  vectorLoad g ty d (indexAddr s a b off) (fun i => (rdS s a).poison || ((rdV s b).lane i).poison) s
/-- R494: VSCATTER. -/
def execVscatter (g : PReg) (ty : Ty) (d : VReg) (a : SReg) (b : VReg) (off : Off) (s : State) : Result :=
  vectorStore 2 true g ty d (indexAddr s a b off) (fun i => (rdS s a).poison || ((rdV s b).lane i).poison) s

/-- R442: PREF performs no access and writes nothing. -/
def execPref (_g : PReg) (_a _b : SReg) (_off : Off) (s : State) : Result := onThread s (fun _ => s)

/-- The commands of a thread in the queues of its tile (R288). -/
def threadCmds (s : State) (t uid : Nat) : List Cmd := (cmdsOf (coreAt s t)).filter (fun c => c.uid == uid)

/-- R273: whether the accesses of a command within a scope have all taken effect, though it has not ended: every chunk of it has read
the scratchpad, and those that are not written yet go past the scope. -/
def cmdPast (t : Nat) (c : Cmd) (scp : Nat) : Bool :=
  c.out && c.held.isNone && patE c.pat ≤ c.next && c.chunks.all (fun k => scp < k.path.scope && k.flt.isNone && allRead t c k)

/-- R273: the earlier accesses that a fence covers have taken effect. -/
def fenceDone (s : State) (uid : Nat) (scp : Scope) (sets : BitVec 3) : Bool :=
  accessesDone s uid scp.code.toNat sets && (!sets.getLsbD 2 || (threadCmds s s.tile uid).all (fun c =>
    s.issue.ord0 ≤ c.ord || cmdPast s.tile c scp.code.toNat))

/-- R273, R274, R280: FENCE. -/
def execFence (g : PReg) (scp : Scope) (sets : BitVec 3) (s : State) : Result :=
  syllable s g (fun th =>
    if fenceDone s th.uid scp sets then flushAt s th scp.code.toNat else waitFor (flushAt s th scp.code.toNat) .cond)

end Sys2Proof.Machine
end

