-- ==== Sys2Proof/Machine/Atomic.lean ====
section
/-! DEFINITION. The read-modify-writes: AMO, ACAS (R366 to R374), VSCADD (R252, R253, R511), BINAPP and BINRST (R255 to
R259, R386). -/

namespace Sys2Proof.Machine

/-- R366, R372: the address sa + off, modulo 2^53. -/
def atomicAddr (s : State) (a : SReg) (off : OffA) : Nat := ((rdS s a).val.toNat + off.value) % 2 ^ 53

/-- Table 17.4: the capability bit of a page-table entry that a form needs at a host aperture. -/
def hostCap (k : AccKind) (ty : Ty) : Option Nat :=
  match k with
  | .amo .add => some 6
  | .amo .swap => some 7
  | .cas => if ty.bits = 64 then some 8 else none
  | _ => none

/-- R248, Table 10.2: whether an execution point carries an atomic. -/
def atomicCarried (k : AccKind) (ty : Ty) (p : Path) : Bool := p != .host || (hostCap k ty).isSome

/-- R366 to R374: an atomic with its operands. -/
def atomic (kind : AccKind) (g : PReg) (ty : Ty) (scp : Scope) (ord : Ord) (d a : SReg) (off : OffA) (x y : SVal)
    (s : State) : Result :=
  syllable s g (fun th =>
    let w := tyBytes ty
    let addr := atomicAddr s a off
    let bad := (rdS s a).poison || x.poison || y.poison
    withAccess s th ⟨true, true, true, hostCap kind ty⟩ (atomicCarried kind ty) w [addr] (fun s l =>
      if bad then
        sink s th 5 1 addr (fun s =>
          let s := launch s th .store ty .none false
            (l.map (fun e => mkElem [0] e w 0 0 (List.replicate w false))) 0 false false
          wrS s d 0 true)
      else launch (if ord.code.getLsbD 1 then flushAt s th scp.code.toNat else s) th kind ty (.s d) false (l.map (fun e => mkElem [0] e w x.val y.val [true])) scp.code.toNat
        (ord.code.getLsbD 0) (ord.code.getLsbD 1)))

/-- R372 to R374: AMO. -/
def execAmo (g : PReg) (op : AmoOp) (ty : Ty) (scp : Scope) (ord : Ord) (d a : SReg) (off : OffA) (b : SReg)
    (s : State) : Result := atomic (.amo op) g ty scp ord d a off (rdS s b) SVal.zero s

/-- R366 to R370: ACAS. -/
def execAcas (g : PReg) (ty : Ty) (scp : Scope) (ord : Ord) (d a : SReg) (off : OffA) (b c : SReg) (s : State) :
    Result := atomic .cas g ty scp ord d a off (rdS s b) (rdS s c) s

/-- R252: the sum of the lanes that address one word, in lane order. -/
def groupSum (ty : Ty) (l : List Nat) : Nat :=
  match l with
  | [] => 0
  | x :: r => r.foldl (scaddNew ty) x

/-- R252, R253, R511: VSCADD. -/
def execVscadd (g : PReg) (ty : Ty) (d : VReg) (a : SReg) (b : VReg) (off : Off) (s : State) : Result :=
  vectorSyllable s g (fun th =>
    let on := lanesOn (rdP s g)
    let addr := indexAddr s a b off
    let v := rdV s d
    let dirty (i : Nat) := (rdS s a).poison || ((rdV s b).lane i).poison || (v.lane i).poison
    let sinks := on.filter dirty
    withAccess s th ⟨true, true, true, none⟩ (fun p => p != .host) 4 (on.map addr) (fun s l =>
      let go (s : State) :=
        let firsts := (on.zip l).filter (fun e => !on.any (fun j => j < e.1 && addr j == addr e.1))
        launch s th .scadd ty .none false (firsts.map (fun e =>
          let grp := on.filter (fun j => addr j == addr e.1)
          mkElem grp e.2 4 (BitVec.ofNat 64 (groupSum ty (grp.map (fun j => (v.lane j).val.toNat)))) 0
            [!grp.any dirty])) 0 false false
      match sinks with
      | [] => go s
      | i :: _ => sink s th 3 (vectorStore.maskOf (fun j => sinks.contains j)) (addr i) go))

/-- A field of a bin table's header: word i of Table 10.4. -/
def binWord (s : State) (pa i : Nat) : Nat := readLe s (pa + 4 * i) 4

/-- R256: the first check of a header that fails: ALIGN of an offset, or PERM of a range; none where all hold. A cap above 65,535, past
the range of Table 10.4, is used as it stands (DESIGN CHOICE, log entry 102), and so are the fields of a header in a poisoned or
uncorrectable line, which raises nothing (DESIGN CHOICE, log entry 103). -/
def binCheck (s : State) (va pa : Nat) : Option (FaultClass × Nat × Word) :=
  let ncell := binWord s pa 0
  let cap := binWord s pa 2
  let cnt := binWord s pa 3
  let bin := binWord s pa 4
  let ofo := binWord s pa 5
  let ofc := binWord s pa 6
  let base := pa % 0x100000
  let size := 0x100000
  if cnt % 4 != 0 then some (.align, va + cnt, 4)
  else if bin % 4 != 0 then some (.align, va + bin, 4)
  else if ofo % 8 != 0 then some (.align, va + ofo, 8)
  else if ncell = 0 || 2 ^ 20 < ncell || size < base + 64 || size < base + cnt + 4 * ncell ||
      size < base + bin + 4 * cap * ncell || size < base + ofo + 8 * ofc then some (.perm, va, 0)
  else none

/-- R255, R256, R303, R386: a bin operation at its table, which lies in the local region: the checks, the header read, and `k` on the table. -/
def binOp (s : State) (th : Thread) (t : Nat) (k : State → Nat × Nat × Path → State) : State :=
  withAccess s th ⟨true, true, true, none⟩ (fun p => (p == .own || p == .view) && t < 0x2000000) 64 [t] (fun s l =>
    match l with
    | [] => s
    | x :: _ =>
      if readHeld s th || storesOver s th.uid (some x.2.2) x.2.1 64 then waitFor s .cond
      else
        let s := discover s x.2.1 64
        match binCheck s x.1 x.2.1 with
        | some (c, va, aux) => freeze s c (some va) aux
        | none => k s x)

/-- R386: the table address sa + off. -/
def binAddr (s : State) (a : SReg) (off : Off) : Nat := ((rdS s a).val.toNat + off.value) % 2 ^ 53

/-- R257, R386: BINAPP. -/
def execBinapp (g : PReg) (ty : Ty) (d : VReg) (a : SReg) (b : VReg) (off : Off) (s : State) : Result :=
  vectorSyllable s g (fun th =>
    let on := lanesOn (rdP s g)
    let t := binAddr s a off
    let cell (i : Nat) := (rdV s b).lane i
    let pay (i : Nat) := (rdV s d).lane i
    let dirty (i : Nat) := (rdS s a).poison || (cell i).poison || (pay i).poison
    let sinks := on.filter dirty
    binOp s th t (fun s x =>
      let go (s : State) :=
        if (rdS s a).poison then s
        else
          let pa := x.2.1
          let kind := AccKind.binapp t (binWord s pa 0) (binWord s pa 2) (binWord s pa 3) (binWord s pa 4) (binWord s pa 5)
            (binWord s pa 6)
          let lanes := (on.filter (fun i => !dirty i)).map (fun i =>
            { mkElem [i] x 4 ((cell i).val.setWidth 64) ((pay i).val.setWidth 64) [] with done := true })
          launch s th kind ty .none false (mkElem on x 64 0 0 [] :: lanes) 0 false false
      if sinks.isEmpty then go s
      else sink s th 4 (vectorStore.maskOf (fun j => sinks.contains j)) t go))

/-- R258, R386: BINRST. -/
def execBinrst (g : PReg) (a : SReg) (off : Off) (s : State) : Result :=
  syllable s g (fun th =>
    let t := binAddr s a off
    binOp s th t (fun s x =>
      let pa := x.2.1
      if (rdS s a).poison then sink s th 4 1 t (fun s => s)
      else launch s th (.binrst t (binWord s pa 0) (binWord s pa 3)) .u32 .none false [mkElem [0] x 64 0 0 []] 0 false
        false))

end Sys2Proof.Machine
end

