-- ==== Sys2Proof/Machine/ScalarInt.lean ====
section
/-! DEFINITION. The scalar integer syllables: the mould of R371 with its members (Tables 17.2, 18.4, 19.1), CMP, SEL, LIMM,
CLZ, POPC, BFX and BFI. -/

namespace Sys2Proof.Machine

/-- R396: the quotient of the mould. -/
def quotient (ty : Ty) (x y : Int) : Int :=
  if y = 0 then 2 ^ ty.bits - 1
  else if ty.signed && x == ty.least && y == -1 then ty.least
  else Int.tdiv x y

/-- R449: the remainder of the mould. -/
def remainder (ty : Ty) (x y : Int) : Int :=
  if y = 0 then x
  else if ty.signed && x == ty.least && y == -1 then 0
  else x - y * Int.tdiv x y

/-- The w-bit pattern of an integer, as a natural number. -/
def pat (ty : Ty) (x : Int) : Nat := intBits ty x

/-- R449: the shift count of the mould. -/
def shiftBy (ty : Ty) (y : Int) : Nat := pat ty y % ty.bits

/-- R371: the mould: `f` of the w-bit sources, kept modulo 2^w and extended under R174. -/
def mould (f : Ty → Int → Int → Int) (ty : Ty) (x y : Word) : Nat :=
  extend ty 64 (intBits ty (f ty (readInt ty x.toNat) (readInt ty y.toNat)))

/-- R371: the register form of the mould. -/
def mouldReg (f : Ty → Int → Int → Int) (g : PReg) (ty : Ty) (d a b : SReg) (s : State) : Result :=
  syllable s g (fun _ => wrS s d (mould f ty (rdS s a).val (rdS s b).val) ((rdS s a).poison || (rdS s b).poison))

/-- R371: the immediate form of the mould. -/
def mouldImm (f : Ty → Int → Int → Int) (g : PReg) (ty : Ty) (d a : SReg) (i : Imm) (s : State) : Result :=
  syllable s g (fun _ => wrS s d (mould f ty (rdS s a).val i.value) (rdS s a).poison)

/-- Tables 17.2, 18.4, 19.1: the functions of the mould. -/
def fAddI (_ : Ty) (x y : Int) : Int := x + y
/-- SUB. -/
def fSubI (_ : Ty) (x y : Int) : Int := x - y
/-- MUL. -/
def fMulI (_ : Ty) (x y : Int) : Int := x * y
/-- MULH: the upper w bits of the exact product. -/
def fMulhI (ty : Ty) (x y : Int) : Int := Int.fdiv (x * y) (2 ^ ty.bits)
/-- AND, on the patterns. -/
def fAndI (ty : Ty) (x y : Int) : Int := (pat ty x &&& pat ty y : Nat)
/-- OR. -/
def fOrI (ty : Ty) (x y : Int) : Int := (pat ty x ||| pat ty y : Nat)
/-- XOR. -/
def fXorI (ty : Ty) (x y : Int) : Int := (pat ty x ^^^ pat ty y : Nat)
/-- ANDN: x and the complement of y. -/
def fAndnI (ty : Ty) (x y : Int) : Int := (pat ty x &&& (2 ^ ty.bits - 1 - pat ty y) : Nat)
/-- SHL. -/
def fShlI (ty : Ty) (x y : Int) : Int := x * 2 ^ shiftBy ty y
/-- SHR. -/
def fShrI (ty : Ty) (x y : Int) : Int := (pat ty x / 2 ^ shiftBy ty y : Nat)
/-- SRA: the pattern read as signed, whatever the sign of the type. -/
def fSraI (ty : Ty) (x y : Int) : Int :=
  let p : Int := pat ty x
  let v := if p < 2 ^ (ty.bits - 1) then p else p - 2 ^ ty.bits
  Int.fdiv v (2 ^ shiftBy ty y)
/-- MIN. -/
def fMinI (_ : Ty) (x y : Int) : Int := if y < x then y else x
/-- MAX. -/
def fMaxI (_ : Ty) (x y : Int) : Int := if x < y then y else x

/-- R371: ADD, register form. -/
def execAdd (g : PReg) (ty : Ty) (d a b : SReg) (s : State) : Result := mouldReg fAddI g ty d a b s
/-- R371: ADD, immediate form. -/
def execAddImmediate (g : PReg) (ty : Ty) (d a : SReg) (i : Imm) (s : State) : Result := mouldImm fAddI g ty d a i s
/-- R449: SUB, register form. -/
def execSub (g : PReg) (ty : Ty) (d a b : SReg) (s : State) : Result := mouldReg fSubI g ty d a b s
/-- R449: SUB, immediate form. -/
def execSubImmediate (g : PReg) (ty : Ty) (d a : SReg) (i : Imm) (s : State) : Result := mouldImm fSubI g ty d a i s
/-- R424: MUL, register form. -/
def execMul (g : PReg) (ty : Ty) (d a b : SReg) (s : State) : Result := mouldReg fMulI g ty d a b s
/-- R424: MUL, immediate form. -/
def execMulImmediate (g : PReg) (ty : Ty) (d a : SReg) (i : Imm) (s : State) : Result := mouldImm fMulI g ty d a i s
/-- R424: MULH, register form. -/
def execMulh (g : PReg) (ty : Ty) (d a b : SReg) (s : State) : Result := mouldReg fMulhI g ty d a b s
/-- R424: MULH, immediate form. -/
def execMulhImmediate (g : PReg) (ty : Ty) (d a : SReg) (i : Imm) (s : State) : Result := mouldImm fMulhI g ty d a i s
/-- R396: DIV, register form. -/
def execDivS (g : PReg) (ty : Ty) (d a b : SReg) (s : State) : Result := mouldReg quotient g ty d a b s
/-- R396: DIV, immediate form. -/
def execDivSImmediate (g : PReg) (ty : Ty) (d a : SReg) (i : Imm) (s : State) : Result := mouldImm quotient g ty d a i s
/-- R449: REM, register form. -/
def execRem (g : PReg) (ty : Ty) (d a b : SReg) (s : State) : Result := mouldReg remainder g ty d a b s
/-- R449: REM, immediate form. -/
def execRemImmediate (g : PReg) (ty : Ty) (d a : SReg) (i : Imm) (s : State) : Result := mouldImm remainder g ty d a i s
/-- R375: AND, register form. -/
def execAndS (g : PReg) (ty : Ty) (d a b : SReg) (s : State) : Result := mouldReg fAndI g ty d a b s
/-- R375: AND, immediate form. -/
def execAndSImmediate (g : PReg) (ty : Ty) (d a : SReg) (i : Imm) (s : State) : Result := mouldImm fAndI g ty d a i s
/-- R424: OR, register form. -/
def execOrS (g : PReg) (ty : Ty) (d a b : SReg) (s : State) : Result := mouldReg fOrI g ty d a b s
/-- R424: OR, immediate form. -/
def execOrSImmediate (g : PReg) (ty : Ty) (d a : SReg) (i : Imm) (s : State) : Result := mouldImm fOrI g ty d a i s
/-- R520: XOR, register form. -/
def execXor (g : PReg) (ty : Ty) (d a b : SReg) (s : State) : Result := mouldReg fXorI g ty d a b s
/-- R520: XOR, immediate form. -/
def execXorImmediate (g : PReg) (ty : Ty) (d a : SReg) (i : Imm) (s : State) : Result := mouldImm fXorI g ty d a i s
/-- R375: ANDN, register form. -/
def execAndn (g : PReg) (ty : Ty) (d a b : SReg) (s : State) : Result := mouldReg fAndnI g ty d a b s
/-- R375: ANDN, immediate form. -/
def execAndnImmediate (g : PReg) (ty : Ty) (d a : SReg) (i : Imm) (s : State) : Result := mouldImm fAndnI g ty d a i s
/-- R449: SHL, register form. -/
def execShl (g : PReg) (ty : Ty) (d a b : SReg) (s : State) : Result := mouldReg fShlI g ty d a b s
/-- R449: SHL, immediate form. -/
def execShlImmediate (g : PReg) (ty : Ty) (d a : SReg) (i : Imm) (s : State) : Result := mouldImm fShlI g ty d a i s
/-- R449: SHR, register form. -/
def execShr (g : PReg) (ty : Ty) (d a b : SReg) (s : State) : Result := mouldReg fShrI g ty d a b s
/-- R449: SHR, immediate form. -/
def execShrImmediate (g : PReg) (ty : Ty) (d a : SReg) (i : Imm) (s : State) : Result := mouldImm fShrI g ty d a i s
/-- R449: SRA, register form. -/
def execSra (g : PReg) (ty : Ty) (d a b : SReg) (s : State) : Result := mouldReg fSraI g ty d a b s
/-- R449: SRA, immediate form. -/
def execSraImmediate (g : PReg) (ty : Ty) (d a : SReg) (i : Imm) (s : State) : Result := mouldImm fSraI g ty d a i s
/-- R424: MIN, register form. -/
def execMinS (g : PReg) (ty : Ty) (d a b : SReg) (s : State) : Result := mouldReg fMinI g ty d a b s
/-- R424: MIN, immediate form. -/
def execMinSImmediate (g : PReg) (ty : Ty) (d a : SReg) (i : Imm) (s : State) : Result := mouldImm fMinI g ty d a i s
/-- R424: MAX, register form. -/
def execMaxS (g : PReg) (ty : Ty) (d a b : SReg) (s : State) : Result := mouldReg fMaxI g ty d a b s
/-- R424: MAX, immediate form. -/
def execMaxSImmediate (g : PReg) (ty : Ty) (d a : SReg) (i : Imm) (s : State) : Result := mouldImm fMaxI g ty d a i s

/-- R150, R392: a condition on two integers; codes 6 and 7 do not decode. -/
def intCond (c : Cond) (x y : Int) : Bool :=
  match c with
  | .eq => x == y
  | .ne => x != y
  | .lt => x < y
  | .le => x ≤ y
  | .gt => y < x
  | .ge => y ≤ x
  | .un | .nun => false

/-- A predicate that holds in every lane, or in none (R392). -/
def wholeP (b : Bool) : Word := if b then BitVec.allOnes 64 else 0

/-- R392: CMP, register form. -/
def execCmp (g : PReg) (ty : Ty) (c : Cond) (d : PReg) (a b : SReg) (s : State) : Result :=
  syllable s g (fun _ => wrP s d (wholeP (intCond c (readInt ty (rdS s a).val.toNat) (readInt ty (rdS s b).val.toNat))))

/-- R392: CMP, immediate form. -/
def execCmpImmediate (g : PReg) (ty : Ty) (c : Cond) (d : PReg) (a : SReg) (i : Imm) (s : State) : Result :=
  syllable s g (fun _ => wrP s d (wholeP (intCond c (readInt ty (rdS s a).val.toNat) (readInt ty i.value.toNat))))

/-- R455: SEL. -/
def execSel (g : PReg) (d : SReg) (q : PReg) (a b : SReg) (s : State) : Result :=
  syllable s g (fun _ =>
    let x := rdS s (if (rdP s q).getLsbD 0 then a else b)
    wrS s d x.val.toNat x.poison)

/-- R422: LIMM. -/
def execLimm (g : PReg) (d : SReg) (i : Imm) (s : State) : Result :=
  syllable s g (fun _ => wrS s d i.value.toNat false)

/-- The low w bits of a scalar. -/
def lowBits (ty : Ty) (x : SVal) : Nat := x.val.toNat % 2 ^ ty.bits

/-- R391: CLZ. -/
def execClz (g : PReg) (ty : Ty) (d a : SReg) (s : State) : Result :=
  syllable s g (fun _ =>
    let x := lowBits ty (rdS s a)
    wrS s d (if x = 0 then ty.bits else ty.bits - 1 - x.log2) (rdS s a).poison)

/-- The number of set bits among the low n of a number. -/
def popcount : Nat → Nat → Nat
  | 0, _ => 0
  | n + 1, x => x % 2 + popcount n (x / 2)

/-- R440: POPC. -/
def execPopc (g : PReg) (ty : Ty) (d a : SReg) (s : State) : Result :=
  syllable s g (fun _ => wrS s d (popcount ty.bits (lowBits ty (rdS s a))) (rdS s a).poison)

/-- R384: the length of a bit field, 64 written as 0. -/
def fieldLen (len : BitVec 6) : Nat := if len = 0 then 64 else len.toNat

/-- R385: the field that BFX extracts. -/
def bfxValue (ty : Ty) (x pos len : Nat) : Nat :=
  let f := x / 2 ^ pos % 2 ^ len
  if ty.signed && len < 64 && 2 ^ (len - 1) ≤ f then f + 2 ^ 64 - 2 ^ len else f

/-- R385: BFX. -/
def execBfx (g : PReg) (ty : Ty) (d a : SReg) (pos len : BitVec 6) (s : State) : Result :=
  syllable s g (fun _ => wrS s d (bfxValue ty (rdS s a).val.toNat pos.toNat (fieldLen len)) (rdS s a).poison)

/-- R385: the mask of BFI. -/
def bfiMask (pos len : Nat) : Word := BitVec.ofNat 64 ((2 ^ len - 1) * 2 ^ pos)

/-- R385: BFI. -/
def execBfi (g : PReg) (_ty : Ty) (d a : SReg) (pos len : BitVec 6) (s : State) : Result :=
  syllable s g (fun _ =>
    let m := bfiMask pos.toNat (fieldLen len)
    let x := rdS s a
    let o := rdS s d
    wrS s d ((o.val &&& ~~~m) ||| ((x.val <<< pos.toNat) &&& m)).toNat (x.poison || o.poison))

end Sys2Proof.Machine
end

