-- ==== Sys2Proof/Machine/ScalarFloat.lean ====
section
/-! DEFINITION. The scalar floating-point syllables: the mould of R399 and R400, FFMA, FMIN, FMAX, FCMP and FCVT. -/

namespace Sys2Proof.Machine

/-- A scalar result with the flags it raises. -/
def wrRounded (s : State) (d : SReg) (ty : Ty) (r : RRes) (p : Bool) : State :=
  wrS (raise s r.flags) d (extend ty 64 r.bits) (p || r.poison)

/-- R399, R400: the scalar float mould. -/
def floatMould (f : Fmt → Mode → Nat → Nat → Nat → RRes) (g : PReg) (ty : Ty) (rm : Rm) (d a b : SReg) (s : State) :
    Result :=
  syllable s g (fun _ =>
    let x := rdS s a
    let y := rdS s b
    let m := modeOf s rm
    let (s, e) := draw s m
    wrRounded s d ty (f (tyFmt ty) m (rngLane e 0) (lowBits ty x) (lowBits ty y)) (x.poison || y.poison))

/-- R400: FADD. -/
def execFadd (g : PReg) (ty : Ty) (rm : Rm) (d a b : SReg) (s : State) : Result := floatMould fAdd g ty rm d a b s
/-- R410: FSUB. -/
def execFsub (g : PReg) (ty : Ty) (rm : Rm) (d a b : SReg) (s : State) : Result := floatMould fSub g ty rm d a b s
/-- R407: FMUL. -/
def execFmul (g : PReg) (ty : Ty) (rm : Rm) (d a b : SReg) (s : State) : Result := floatMould fMul g ty rm d a b s

/-- R405: FFMA. -/
def execFfma (g : PReg) (ty : Ty) (rm : Rm) (d a b c : SReg) (s : State) : Result :=
  syllable s g (fun _ =>
    let x := rdS s a
    let y := rdS s b
    let z := rdS s c
    let m := modeOf s rm
    let (s, e) := draw s m
    wrRounded s d ty (fFma (tyFmt ty) m (rngLane e 0) (lowBits ty x) (lowBits ty y) (lowBits ty z))
      (x.poison || y.poison || z.poison))

/-- R406: FMIN and FMAX. -/
def floatPick (mx : Bool) (g : PReg) (ty : Ty) (d a b : SReg) (s : State) : Result :=
  syllable s g (fun _ =>
    let x := rdS s a
    let y := rdS s b
    wrS s d (extend ty 64 (fMinMax (tyFmt ty) mx (lowBits ty x) (lowBits ty y))) (x.poison || y.poison))

/-- R406: FMIN. -/
def execFmin (g : PReg) (ty : Ty) (d a b : SReg) (s : State) : Result := floatPick false g ty d a b s
/-- R406: FMAX. -/
def execFmax (g : PReg) (ty : Ty) (d a b : SReg) (s : State) : Result := floatPick true g ty d a b s

/-- R401: FCMP. -/
def execFcmp (g : PReg) (ty : Ty) (c : Cond) (d : PReg) (a b : SReg) (s : State) : Result :=
  syllable s g (fun _ =>
    let r := fCmp (tyFmt ty) c (lowBits ty (rdS s a)) (lowBits ty (rdS s b))
    wrP (raise s r.2) d (wholeP r.1))

/-- R133: whether a conversion draws in SR: every pair but integer to integer. -/
def cvtDraws (ty src : Ty) : Bool := !(ty.isInt && src.isInt)

/-- R402, R403: FCVT. -/
def execFcvt (g : PReg) (ty src : Ty) (rm : Rm) (fin sat : Bool) (d a : SReg) (s : State) : Result :=
  syllable s g (fun _ =>
    let x := rdS s a
    let m := modeOf s rm
    let (s, e) := draw s (if cvtDraws ty src then m else .rne)
    wrRounded s d ty (convert ty src m (rngLane e 0) fin sat (lowBits src x)) x.poison)

end Sys2Proof.Machine
end

