-- ==== Sys2Proof/Machine/VectorLane.lean ====
section
/-! DEFINITION. The vector lane mould of R476 and R500, VFMA, the elementwise functions of R487, VCLASS and VCMP. -/

namespace Sys2Proof.Machine

/-- A lane result with its flags. -/
abbrev LaneRes := Lane × Flags

/-- R476: the enabled lanes of a mould member, with their flags ORed. -/
def wrLanes (s : State) (g : PReg) (d : VReg) (f : Nat → LaneRes) : State :=
  wrV (raise s (orFlags ((lanesOn (rdP s g)).map (fun i => (f i).2)))) g d (fun i => (f i).1)

/-- R476: an integer lane of the mould. -/
def intLane (f : Ty → Int → Int → Int) (ty : Ty) (x y : Lane) : Lane :=
  laneOf ty (intBits ty (f ty (readInt ty x.val.toNat) (readInt ty y.val.toNat))) (x.poison || y.poison)

/-- R476: an integer member of the mould. -/
def laneInt (f : Ty → Int → Int → Int) (g : PReg) (ty : Ty) (d a b : VReg) (s : State) : Result :=
  vectorSyllable s g (fun _ => wrV s g d (fun i => intLane f ty ((rdV s a).lane i) ((rdV s b).lane i)))

/-- A floating-point lane: its rounded bits, zero-extended (R174), with poison and flags. -/
def floatLane (ty : Ty) (r : RRes) (p : Bool) : LaneRes := (⟨BitVec.ofNat 32 (r.bits % 2 ^ ty.bits), p || r.poison⟩, r.flags)

/-- R476: a member that rounds with a floating-point type: VADD, VSUB, VMUL. -/
def laneRound (fi : Ty → Int → Int → Int) (ff : Fmt → Mode → Nat → Nat → Nat → RRes) (g : PReg) (ty : Ty) (rm : Rm)
    (d a b : VReg) (s : State) : Result :=
  if ty.isInt then laneInt fi g ty d a b s
  else vectorSyllable s g (fun _ =>
    let m := modeOf s rm
    let (t, e) := draw s m
    wrLanes t g d (fun i =>
      let x := (rdV s a).lane i
      let y := (rdV s b).lane i
      floatLane ty (ff (tyFmt ty) m (rngLane e i) (laneBits ty x) (laneBits ty y)) (x.poison || y.poison)))

/-- R500: VMIN and VMAX. -/
def lanePick (mx : Bool) (g : PReg) (ty : Ty) (d a b : VReg) (s : State) : Result :=
  if ty.isInt then laneInt (if mx then fMaxI else fMinI) g ty d a b s
  else vectorSyllable s g (fun _ => wrV s g d (fun i =>
    let x := (rdV s a).lane i
    let y := (rdV s b).lane i
    ⟨BitVec.ofNat 32 (fMinMax (tyFmt ty) mx (laneBits ty x) (laneBits ty y)), x.poison || y.poison⟩))

/-- R476: VADD. -/
def execVadd (g : PReg) (ty : Ty) (rm : Rm) (d a b : VReg) (s : State) : Result := laneRound fAddI fAdd g ty rm d a b s
/-- R500: VSUB. -/
def execVsub (g : PReg) (ty : Ty) (rm : Rm) (d a b : VReg) (s : State) : Result := laneRound fSubI fSub g ty rm d a b s
/-- R500: VMUL. -/
def execVmul (g : PReg) (ty : Ty) (rm : Rm) (d a b : VReg) (s : State) : Result := laneRound fMulI fMul g ty rm d a b s
/-- R500: VMULH. -/
def execVmulh (g : PReg) (ty : Ty) (d a b : VReg) (s : State) : Result := laneInt fMulhI g ty d a b s
/-- R500: VMIN. -/
def execVmin (g : PReg) (ty : Ty) (d a b : VReg) (s : State) : Result := lanePick false g ty d a b s
/-- R500: VMAX. -/
def execVmax (g : PReg) (ty : Ty) (d a b : VReg) (s : State) : Result := lanePick true g ty d a b s
/-- R476: VAND. -/
def execVand (g : PReg) (ty : Ty) (d a b : VReg) (s : State) : Result := laneInt fAndI g ty d a b s
/-- R500: VOR. -/
def execVor (g : PReg) (ty : Ty) (d a b : VReg) (s : State) : Result := laneInt fOrI g ty d a b s
/-- R500: VXOR. -/
def execVxor (g : PReg) (ty : Ty) (d a b : VReg) (s : State) : Result := laneInt fXorI g ty d a b s
/-- R500: VSHL. -/
def execVshl (g : PReg) (ty : Ty) (d a b : VReg) (s : State) : Result := laneInt fShlI g ty d a b s
/-- R500: VSHR. -/
def execVshr (g : PReg) (ty : Ty) (d a b : VReg) (s : State) : Result := laneInt fShrI g ty d a b s
/-- R500: VSRA. -/
def execVsra (g : PReg) (ty : Ty) (d a b : VReg) (s : State) : Result := laneInt fSraI g ty d a b s

/-- R490: VFMA. -/
def execVfma (g : PReg) (ty : Ty) (rm : Rm) (d a b c : VReg) (s : State) : Result :=
  vectorSyllable s g (fun _ =>
    let poison (i : Nat) := ((rdV s a).lane i).poison || ((rdV s b).lane i).poison || ((rdV s c).lane i).poison
    if ty.isInt then
      wrV s g d (fun i => laneOf ty (intBits ty (readInt ty ((rdV s a).lane i).val.toNat *
        readInt ty ((rdV s b).lane i).val.toNat + readInt ty ((rdV s c).lane i).val.toNat)) (poison i))
    else
      let m := modeOf s rm
      let (t, e) := draw s m
      wrLanes t g d (fun i => floatLane ty (fFma (tyFmt ty) m (rngLane e i) (laneBits ty ((rdV s a).lane i))
        (laneBits ty ((rdV s b).lane i)) (laneBits ty ((rdV s c).lane i))) (poison i)))

/-- R476: the absolute value of a float pattern: its sign cleared, a NaN made canonical. -/
def floatAbs (f : Fmt) (x : Nat) : Nat :=
  match f.value x with
  | .nan => f.nan
  | _ => x % 2 ^ f.top

/-- R500: a float pattern with its sign inverted, a NaN made canonical. -/
def floatNeg (f : Fmt) (x : Nat) : Nat :=
  match f.value x with
  | .nan => f.nan
  | _ => x ^^^ 2 ^ f.top

/-- R476, R500: a unary member: `fi` on integers, `ff` on float patterns. -/
def laneUnary (fi : Ty → Int → Int → Int) (ff : Fmt → Nat → Nat) (g : PReg) (ty : Ty) (d a : VReg) (s : State) : Result :=
  vectorSyllable s g (fun _ => wrV s g d (fun i =>
    let x := (rdV s a).lane i
    if ty.isInt then intLane fi ty x x
    else ⟨BitVec.ofNat 32 (ff (tyFmt ty) (laneBits ty x)), x.poison⟩))

/-- R476: the integer absolute value; an unsigned value is itself. -/
def fAbsI (_ : Ty) (x _ : Int) : Int := x.natAbs
/-- R500: the integer negation. -/
def fNegI (_ : Ty) (x _ : Int) : Int := -x

/-- R476: VABS. -/
def execVabs (g : PReg) (ty : Ty) (d a : VReg) (s : State) : Result := laneUnary fAbsI floatAbs g ty d a s
/-- R500: VNEG. -/
def execVneg (g : PReg) (ty : Ty) (d a : VReg) (s : State) : Result := laneUnary fNegI floatNeg g ty d a s

/-- R500: VMOV: the w-bit pattern, extended under R174. -/
def execVmov (g : PReg) (ty : Ty) (d a : VReg) (s : State) : Result :=
  vectorSyllable s g (fun _ => wrV s g d (fun i =>
    let x := (rdV s a).lane i
    laneOf ty (laneBits ty x) x.poison))

/-- R480: VCLASS. -/
def execVclass (g : PReg) (ty : Ty) (d a : VReg) (s : State) : Result :=
  vectorSyllable s g (fun _ => wrV s g d (fun i =>
    let x := (rdV s a).lane i
    ⟨BitVec.ofNat 32 (classify (tyFmt ty) (laneBits ty x)), x.poison⟩))

/-- R486, R487: the elementwise functions. -/
def laneElementary (fn : Elementary) (g : PReg) (ty : Ty) (rm : Rm) (d a : VReg) (s : State) : Result :=
  vectorSyllable s g (fun _ =>
    let m := modeOf s rm
    let (t, e) := draw s m
    wrLanes t g d (fun i =>
      let x := (rdV s a).lane i
      floatLane ty (elementary fn (tyFmt ty) m (rngLane e i) (laneBits ty x)) x.poison))

/-- R487: VRCP. -/
def execVrcp (g : PReg) (ty : Ty) (rm : Rm) (d a : VReg) (s : State) : Result := laneElementary .rcp g ty rm d a s
/-- R487: VRSQ. -/
def execVrsq (g : PReg) (ty : Ty) (rm : Rm) (d a : VReg) (s : State) : Result := laneElementary .rsq g ty rm d a s
/-- R487: VEXP2. -/
def execVexp2 (g : PReg) (ty : Ty) (rm : Rm) (d a : VReg) (s : State) : Result := laneElementary .exp2 g ty rm d a s
/-- R487: VLOG2. -/
def execVlog2 (g : PReg) (ty : Ty) (rm : Rm) (d a : VReg) (s : State) : Result := laneElementary .log2 g ty rm d a s

/-- R481: the condition of one lane and the flag it sets. -/
def laneCond (ty : Ty) (c : Cond) (x y : Lane) : Bool × Flags :=
  if ty.isInt then (intCond c (readInt ty x.val.toNat) (readInt ty y.val.toNat), 0)
  else fCmp (tyFmt ty) c (laneBits ty x) (laneBits ty y)

/-- A mask from a test of each lane. -/
def maskOf (f : Nat → Bool) : Word := (upTo 64).foldl (fun m i => if f i then m ||| (1#64 <<< i) else m) 0

/-- R481: VCMP. -/
def execVcmp (g : PReg) (ty : Ty) (c : Cond) (d : PReg) (a b : VReg) (s : State) : Result :=
  vectorSyllable s g (fun _ =>
    let r (i : Nat) := laneCond ty c ((rdV s a).lane i) ((rdV s b).lane i)
    let m := rdP s g
    wrP (raise s (orFlags ((lanesOn m).map (fun i => (r i).2)))) d
      ((rdP s d &&& ~~~m) ||| (maskOf (fun i => (r i).1) &&& m)))

end Sys2Proof.Machine
end

