-- ==== Sys2Proof/Machine/VectorMove.lean ====
section
/-! DEFINITION. The vector syllables that move lanes and reduce them: VSEL, VBCAST, VIOTA, VPERM, VCOMP, VEXT, VINS, VRED
and VSCAN. -/

namespace Sys2Proof.Machine

/-- R514: VSEL. -/
def execVsel (g : PReg) (d : VReg) (q : PReg) (a b : VReg) (s : State) : Result :=
  vectorSyllable s g (fun _ => wrV s g d (fun i =>
    if (rdP s q).getLsbD i then (rdV s a).lane i else (rdV s b).lane i))

/-- R477: VBCAST. -/
def execVbcast (g : PReg) (ty : Ty) (d : VReg) (a : SReg) (s : State) : Result :=
  vectorSyllable s g (fun _ => wrV s g d (fun _ => laneOf ty (lowBits ty (rdS s a)) (rdS s a).poison))

/-- R497: VIOTA; the result is always clean. -/
def execViota (g : PReg) (ty : Ty) (d : VReg) (a : SReg) (s : State) : Result :=
  vectorSyllable s g (fun _ => wrV s g d (fun i => laneOf ty (((rdS s a).val.toNat + i) % 2 ^ ty.bits) false))

/-- R503: VPERM. -/
def execVperm (g : PReg) (d a b : VReg) (s : State) : Result :=
  vectorSyllable s g (fun _ => wrV s g d (fun i =>
    let j := (rdV s b).lane i
    let x := (rdV s a).lane (j.val.toNat % 64)
    ⟨x.val, x.poison || j.poison⟩))

/-- R482: VCOMP: the lanes that q selects, packed; the lanes after them zero and clean. -/
def execVcomp (g : PReg) (d : VReg) (q : PReg) (a : VReg) (s : State) : Result :=
  vectorSyllable s g (fun _ =>
    let l := (lanesOn (rdP s q)).map (fun i => (rdV s a).lane i)
    wrV s g d (fun i => nth Lane.zero l i))

/-- R489: VEXT. -/
def execVext (g : PReg) (ty : Ty) (d : SReg) (a : VReg) (b : SReg) (s : State) : Result :=
  vectorSyllable s g (fun _ =>
    let j := (rdS s b).val.toNat % 64
    let x := (rdV s a).lane j
    if (rdP s g).getLsbD j then wrS s d (extend ty 64 (laneBits ty x)) (x.poison || (rdS s b).poison) else s)

/-- R489: VINS. -/
def execVins (g : PReg) (ty : Ty) (d : VReg) (a b : SReg) (s : State) : Result :=
  vectorSyllable s g (fun _ =>
    let j := (rdS s b).val.toNat % 64
    let x := rdS s a
    if (rdP s g).getLsbD j then
      setRegs s (fun r => r.wrV d (setNth (laneOf ty (lowBits ty x) (x.poison || (rdS s b).poison)) (rdV s d) j))
    else s)

/-- R509: one step of a reduction on patterns. -/
def redStep (ty : Ty) (op : Red) (m : Mode) (u acc x : Nat) : RRes :=
  if ty.isFloat then
    match op with
    | .add => fAdd (tyFmt ty) m u acc x
    | .min => ⟨fMinMax (tyFmt ty) false acc x, 0, false⟩
    | .max => ⟨fMinMax (tyFmt ty) true acc x, 0, false⟩
    | .and | .or | .xor => ⟨acc, 0, false⟩
  else
    let a := readInt ty acc
    let b := readInt ty x
    ⟨intBits ty (match op with
      | .add => a + b
      | .min => fMinI ty a b
      | .max => fMaxI ty a b
      | .and => fAndI ty a b
      | .or => fOrI ty a b
      | .xor => fXorI ty a b), 0, false⟩

/-- A NaN written as the canonical NaN (R509). -/
def canonNan (ty : Ty) (x : Nat) : Nat :=
  if ty.isFloat then
    (match (tyFmt ty).value x with
    | .nan => (tyFmt ty).nan
    | _ => x)
  else x

/-- R509: the running values of a reduction: lane, value, poison and the flags of its step. -/
def redRun (ty : Ty) (op : Red) (m : Mode) (e : BitVec 1024) (v : Vec) :
    List Nat → Option (Nat × Bool) → List (Nat × Nat × Bool × Flags)
  | [], _ => []
  | i :: l, acc =>
    let x := v.lane i
    match acc with
    | none =>
      let w := canonNan ty (laneBits ty x)
      (i, w, x.poison, 0) :: redRun ty op m e v l (some (w, x.poison))
    | some (a, p) =>
      let r := redStep ty op m (rngLane e i) a (laneBits ty x)
      let w := canonNan ty r.bits
      (i, w, p || x.poison, r.flags) :: redRun ty op m e v l (some (w, p || x.poison))

/-- R133, R509: whether a reduction draws in SR. -/
def redDraws (ty : Ty) (op : Red) : Bool := ty.isFloat && op == .add

/-- R508, R509: VRED. -/
def execVred (g : PReg) (ty : Ty) (op : Red) (rm : Rm) (d : SReg) (a : VReg) (s : State) : Result :=
  vectorSyllable s g (fun _ =>
    let m := modeOf s rm
    let (t, e) := draw s (if redDraws ty op then m else .rne)
    let l := redRun ty op m e (rdV s a) (lanesOn (rdP s g)) none
    match l.getLast? with
    | none => t
    | some r => wrS (raise t (orFlags (l.map (fun x => x.2.2.2)))) d (extend ty 64 r.2.1) r.2.2.1)

/-- R508, R509: VSCAN. -/
def execVscan (g : PReg) (ty : Ty) (op : Red) (rm : Rm) (d a : VReg) (s : State) : Result :=
  vectorSyllable s g (fun _ =>
    let m := modeOf s rm
    let (t, e) := draw s (if redDraws ty op then m else .rne)
    let l := redRun ty op m e (rdV s a) (lanesOn (rdP s g)) none
    setRegs (raise t (orFlags (l.map (fun x => x.2.2.2)))) (fun r => r.wrV d (l.foldl (fun v x =>
      setNth (laneOf ty x.2.1 x.2.2.1) v x.1) (rdV s d))))

end Sys2Proof.Machine
end

