-- ==== Sys2Proof/Machine/VectorConv.lean ====
section
/-! DEFINITION. The converting vector syllables: VCVT, VQNT, VDQNT, VCBD, VPACK and VUNPK. -/

namespace Sys2Proof.Machine

/-- R483: VCVT. -/
def execVcvt (g : PReg) (ty src : Ty) (rm : Rm) (fin sat : Bool) (d a : VReg) (s : State) : Result :=
  vectorSyllable s g (fun _ =>
    let m := modeOf s rm
    let (t, e) := draw s (if cvtDraws ty src then m else .rne)
    wrLanes t g d (fun i =>
      let x := (rdV s a).lane i
      let r := convert ty src m (rngLane e i) fin sat (laneBits src x)
      (laneOf ty r.bits (x.poison || r.poison), r.flags)))

/-- R505: the largest element magnitude of a quantised format. -/
def qmax (ty : Ty) : Nat :=
  match ty with
  | .e4m3 => 448
  | .e5m2 => 57344
  | _ => 127

/-- The magnitude of a finite FP32 pattern as (m, e) of m · 2^e; none for a NaN or an infinity. -/
def finiteMag (x : Nat) : Option (Nat × Int) :=
  match fp32.value x with
  | .num _ m e => some (m, e)
  | _ => none

/-- R505: the larger of two magnitudes m · 2^e. -/
def maxMag (a b : Nat × Int) : Nat × Int :=
  let k := if a.2 < b.2 then a.2 else b.2
  if a.1 * 2 ^ (a.2 - k).toNat < b.1 * 2 ^ (b.2 - k).toNat then b else a

/-- R505: the scale of a block from the FP32 patterns of its enabled lanes. -/
def blockScale (ty : Ty) (xs : List Nat) : Nat :=
  let m := (xs.filterMap finiteMag).foldl maxMag (0, 0)
  if m.1 = 0 then 0 else (roundS20 .rup 0 false 0 m.1 (qmax ty) m.2).bits

/-- R505: one element divided by its scale. -/
def quantise (ty : Ty) (m : Mode) (u : Nat) (fin sat : Bool) (sc x : Nat) : RRes :=
  match fp32.value x with
  | .num neg n e =>
    match s20Value sc with
    | some (f, k) =>
      if f = 0 then ⟨0, 0, false⟩
      else if ty.isInt then roundInt ty m u neg n f (e - k)
      else (tyFmt ty).round m u sat neg n f (e - k)
    | none => ⟨0, 0, false⟩
  | _ => convert ty .f32 m u fin sat x

/-- R504 to R506: VQNT. -/
def execVqnt (g : PReg) (ty : Ty) (rm : Rm) (fin sat : Bool) (d c a : VReg) (s : State) : Result :=
  vectorSyllable s g (fun _ =>
    let m := modeOf s rm
    let (t, e) := draw s m
    let on := lanesOn (rdP s g)
    let va := rdV s a
    let blk (b : Nat) := on.filter (fun i => i / 32 == b)
    let sc (b : Nat) := blockScale ty ((blk b).map (fun i => (va.lane i).val.toNat))
    let bad (b : Nat) := (blk b).any (fun i => (va.lane i).poison ||
      (fin && (finiteMag (va.lane i).val.toNat).isNone))
    let t := wrLanes t g d (fun i =>
      let r := quantise ty m (rngLane e i) fin sat (sc (i / 32)) (va.lane i).val.toNat
      (laneOf ty r.bits (bad (i / 32)), r.flags))
    setRegs t (fun r => r.wrV c ((upTo 2).foldl (fun v b =>
      if (blk b).isEmpty then v else setNth ⟨BitVec.ofNat 32 (sc b), bad b⟩ v b) (rdV s c))))

/-- R484: one lane of VDQNT: its FP32 bits, flags and whether a NaN scale poisons it. -/
def dequantise (ty : Ty) (sc x : Nat) : RRes :=
  match s20Value (sc % 2 ^ 20) with
  | none => ⟨fp32.nan, 0, true⟩
  | some (f, k) =>
    if f = 0 then ⟨0, 0, false⟩
    else if ty.isInt then
      let v := readInt ty x
      fp32.round .rne 0 false (v < 0) (v.natAbs * f) 1 k
    else match (tyFmt ty).value x with
      | .nan => ⟨fp32.nan, 0, false⟩
      | .inf neg => ⟨fp32.infBits neg, 0, false⟩
      | .num neg n e => fp32.round .rne 0 false neg (n * f) 1 (e + k)

/-- R484: VDQNT. -/
def execVdqnt (g : PReg) (ty : Ty) (d a b : VReg) (s : State) : Result :=
  vectorSyllable s g (fun _ => wrLanes s g d (fun i =>
    let x := (rdV s a).lane i
    let sc := (rdV s b).lane (i / 32)
    floatLane .f32 (dequantise ty sc.val.toNat (laneBits ty x)) (x.poison || sc.poison)))

/-- R178: weight k of a codebook index, in halves, with the table entry of its base. -/
def weightHalves (ent idx k : Nat) : Int :=
  let bit (i : Nat) := idx / 2 ^ i % 2
  let neg := (upTo 7).foldl (fun n i => n + bit (i + 1)) 0
  let sgn := if k < 7 then bit (k + 1) else neg % 2
  let mag : Int := 2 * (ent / 2 ^ (2 * k) % 4 : Nat) + 1
  (if sgn = 1 then -mag else mag) - bit 0

/-- R179: entry b of the default table. -/
def defaultEntry (b : Nat) : Nat := (b ^^^ 0xFF) * 256 + b

/-- R178: a weight as FP32; every weight is exact. -/
def weightBits (h : Int) : Nat := (fp32.round .rne 0 false (h < 0) h.natAbs 1 (-1)).bits

/-- The offset of entry b of the writable table in a core's scratchpad (R179). -/
def entryPa (t b : Nat) : Nat := padBase t + padSize t - 512 + 2 * b

/-- R478, R479: VCBD; entries of the writable table are read through the load port (R180). -/
def execVcbd (g : PReg) (wt : Bool) (d a b : VReg) (s : State) : Result :=
  vectorSyllable s g (fun th =>
    let on := lanesOn (rdP s g)
    let sel (i : Nat) := (rdV s b).lane i
    let src (i : Nat) := (rdV s a).lane ((sel i).val.toNat / 8 % 64)
    let idx (i : Nat) := (src i).val.toNat % 65536
    let ea (i : Nat) := entryPa s.tile (idx i / 256)
    if wt && (readHeld s th || on.any (fun i => accessOver s th.uid (ea i) 2)) then waitFor s .cond
    else wrV (if wt then on.foldl (fun s i => discover s (ea i) 2) s else s) g d (fun i =>
      let ent := if wt then readLe s (ea i) 2 else defaultEntry (idx i / 256)
      ⟨BitVec.ofNat 32 (weightBits (weightHalves ent (idx i) ((sel i).val.toNat % 8))),
        (src i).poison || (sel i).poison || (wt && lineBad s (ea i))⟩))

/-- R502: the random bits of element k of VPACK: those of lane k, rotated left by one for the second source. -/
def packBits (e : BitVec 1024) (k : Nat) : Nat :=
  let u := rngLane e (k % 64)
  if k < 64 then u else u * 2 % 65536 + u / 32768

/-- R501, R502: VPACK. -/
def execVpack (g : PReg) (ty src : Ty) (rm : Rm) (fin sat : Bool) (d a b : VReg) (s : State) : Result :=
  vectorSyllable s g (fun _ =>
    let m := modeOf s rm
    let (t, e) := draw s (if cvtDraws ty src then m else .rne)
    let x (k : Nat) := if k < 64 then (rdV s a).lane k else (rdV s b).lane (k - 64)
    let r := (upTo 128).map (fun k => convert ty src m (packBits e k) fin sat (laneBits src (x k)))
    let n := 32 / ty.bits
    let t := raise t (orFlags (r.map (fun q => q.flags)))
    wrV t g d (fun i =>
      if n * i ≤ 127 then
        ⟨BitVec.ofNat 32 ((upTo n).foldl (fun w j =>
            w + (nth ⟨0, 0, false⟩ r (n * i + j)).bits % 2 ^ ty.bits * 2 ^ (ty.bits * j)) 0),
          (upTo n).any (fun j => (x (n * i + j)).poison || (nth ⟨0, 0, false⟩ r (n * i + j)).poison)⟩
      else Lane.zero))

/-- R517, R518: VUNPK. -/
def execVunpk (g : PReg) (ty src : Ty) (hi : Bool) (d a : VReg) (s : State) : Result :=
  vectorSyllable s g (fun _ => wrV s g d (fun i =>
    let k := (if hi then 64 else 0) + i
    let n := 32 / src.bits
    let l := (rdV s a).lane (k / n)
    let x := l.val.toNat / 2 ^ (src.bits * (k % n)) % 2 ^ src.bits
    if src.isInt then ⟨BitVec.ofNat 32 (extend src 32 x), l.poison⟩
    else ⟨BitVec.ofNat 32 (convert ty src .rne 0 false false x).bits, l.poison⟩))

end Sys2Proof.Machine
end

