-- ==== Sys2Proof/Machine/Matrix.lean ====
section
/-! DEFINITION. Class M: MMA, MMACB, MZERO, MRD, MWR and MSHAPE at issue (R210 to R215, R425 to R435), and the arithmetic of
the array (R194 to R197). -/

namespace Sys2Proof.Machine

/-- A field of a shape record (Table 9.3). -/
def shField (b : BitVec 128) (lo w : Nat) : Nat := b.toNat / 2 ^ lo % 2 ^ w
/-- rows. -/
def shRows (b : BitVec 128) : Nat := shField b 0 16
/-- cols. -/
def shCols (b : BitVec 128) : Nat := shField b 16 16
/-- kdim. -/
def shK (b : BitVec 128) : Nat := shField b 32 16
/-- a0. -/
def shA0 (b : BitVec 128) : Nat := shField b 80 5
/-- b0. -/
def shB0 (b : BitVec 128) : Nat := shField b 85 5
/-- sca. -/
def shSca (b : BitVec 128) : Bool := shField b 90 1 == 1
/-- scb. -/
def shScb (b : BitVec 128) : Bool := shField b 91 1 == 1

/-- R212, R213: the first check of Table 9.4 that fails, as (why, val, bnd). -/
def shapeCheck (sh : Shape) (ty : Ty) (cb : Bool) : Option (Nat × Nat × Nat) :=
  let b := sh.bits
  let r := shField b 48 8
  let c := shField b 56 8
  let k := shField b 64 16
  let lim := if cb || ty.bits = 8 then 512 else 256
  if r < shRows b then some (1, shRows b, r)
  else if c < shCols b then some (2, shCols b, c)
  else if k < shK b then some (3, shK b, k)
  else if 32 < r then some (4, r, 32)
  else if 32 < c then some (4, c, 32)
  else if 32 < shA0 b + r then some (4, shA0 b + r, 32)
  else if 32 < shB0 b + c then some (4, shB0 b + c, 32)
  else if lim < k then some (5, k, lim)
  else if ((shSca b || shScb b) && ty.bits = 16) || ((shSca b || shScb b || cb) && shK b % 32 != 0) ||
      (cb && shK b % 128 != 0) then some (6, 0, 0)
  else if !sh.valid then some (7, 0, 0)
  else none

/-- R213: the auxiliary word of SHAPE. -/
def shapeAux (f : Nat × Nat × Nat) (syl : Nat) (sh : ShReg) : Word :=
  BitVec.ofNat 64 (f.2.1 % 65536 * 2 ^ 32 + f.2.2 * 2 ^ 16 + syl * 2 ^ 12 + sh.toNat * 2 ^ 8 + f.1)

/-- R215: an operation enters the matrix queue of the issuing thread's tile. -/
def enqueueM (s : State) (th : Thread) (kind : MKind) (ac : AcReg) (shape : BitVec 128) (mode : Nat)
    (entry : BitVec 1024) : State :=
  updCore s s.tile (fun c => { c with
    mq := c.mq ++ [{ uid := th.uid, ord := c.mqOrd, kind := kind, ac := ac, shape := shape, mode := mode, entry := entry,
                     started := false, consumed := false, sums := [], read := [], wrote := [], olds := [] }],
    mqOrd := c.mqOrd + 1 })

/-- R212, R426: a multiply at issue: its shape check, its random bits, and its entry in the queue. -/
def issueMultiply (kind : MKind) (cb : Bool) (g : PReg) (ty : Ty) (rm : Rm) (ac : AcReg) (sh : ShReg) (s : State) :
    Result :=
  syllable s g (fun th =>
    let r := s.issue.src.rdSh sh
    match shapeCheck r ty cb with
    | some f => freeze s .shape none (shapeAux f s.issue.idx sh)
    | none =>
      let m := rm.mode s.issue.src.rm
      let (t, e) := draw s (Mode.ofCode m)
      enqueueM t th kind ac r.bits m e)

/-- R425, R426: MMA. -/
def execMma (g : PReg) (ty : Ty) (rm : Rm) (acd : AcReg) (sh : ShReg) (oba obb : ObReg) (s : State) : Result :=
  issueMultiply (.mma ty oba obb) false g ty rm acd sh s

/-- The poison of the eight lines of the writable table of a core. -/
def tablePoison (s : State) (t : Nat) : BitVec 8 :=
  BitVec.ofNat 8 ((upTo 8).foldl (fun n i => n + if lineBad s (entryPa t 0 + 64 * i) then 2 ^ i else 0) 0)

/-- R180, R206: the writable table of a core with the poison of its lines, as a snapshot takes it. -/
def tableNow (s : State) (t : Nat) : List Byte × BitVec 8 := (readBytes s (entryPa t 0) 512, tablePoison s t)

/-- R180, R425, R426: MMACB, with the snapshot of the writable table that was taken as its bundle issued. -/
def execMmacb (g : PReg) (ty : Ty) (rm : Rm) (wt : Bool) (acd : AcReg) (sh : ShReg) (oba obb : ObReg) (s : State) :
    Result :=
  let w := s.issue.table.getD (tableNow s s.tile)
  issueMultiply (.mmacb ty oba obb (if wt then some w.1 else none) (if wt then w.2 else 0)) true g ty rm acd sh s

/-- R435: MZERO. -/
def execMzero (g : PReg) (acd : AcReg) (s : State) : Result :=
  syllable s g (fun th => enqueueM s th .mzero acd 0 0 0)

/-- R430: MRD. -/
def execMrd (g : PReg) (v : VReg) (aca : AcReg) (b : SReg) (s : State) : Result :=
  syllable s g (fun th => enqueueM s th (.mrd v ((rdS s b).val.toNat % 16) (rdS s b).poison) aca 0 0 0)

/-- R430: MWR. -/
def execMwr (g : PReg) (acd : AcReg) (v : VReg) (b : SReg) (s : State) : Result :=
  syllable s g (fun th => enqueueM s th (.mwr ((rdS s b).val.toNat % 16) (rdV s v) (rdS s b).poison) acd 0 0 0)

/-- R432: the address sb + off of MSHAPE. -/
def shapeAddr (s : State) (b : SReg) (off : Off12) : Nat := ((rdS s b).val + off.signExtend 64).toNat % 2 ^ 53

/-- Whether the load of a thread's MSHAPE of a shape register is in flight. -/
def shapeComing (s : State) (uid : Nat) (sh : ShReg) : Bool := s.inflight.any (fun a => a.uid == uid && a.dst == .sh sh)

/-- R211, R431, R432: MSHAPE reads its record as an access of two words, after every earlier store of its thread that
overlaps it; its bundle waits for them, and writes the register when it commits. -/
def execMshape (g : PReg) (sh : ShReg) (b : SReg) (off : Off12) (s : State) : Result :=
  syllable s g (fun th =>
    match find sh.toNat s.issue.shapes with
    | some v => setRegs s (fun r => r.wrSh sh v)
    | none =>
      if shapeComing s th.uid sh then waitFor s .cond
      else withAccess s th needRd anyPath 16 [shapeAddr s b off] (fun s l =>
        if l.any (fun x => storesOver s th.uid none x.2.1 16) then waitFor s .cond
        else waitFor (launch s th .load .u64 (.sh sh) (rdS s b).poison
          (l.flatMap (fun x => [mkElem [0] x 8 0 0 [], mkElem [1] (x.1 + 8, x.2.1 + 8, x.2.2) 8 0 0 []])) 0 false false) .cond))

/-! The array. -/

/-- The operand buffers as an operation reads them: their bytes and segments, and the aligned 32-bit words that it reads as they stood
before a fill wrote them (R221). -/
structure ObView where
  ob : Map Byte
  bad : Map Bool
  words : Map (List Byte × Bool)
  deriving DecidableEq, Repr

/-- The operand buffers of a core as they stand. -/
def obNow (c : Core) : ObView := ⟨c.ob, c.obBad, []⟩

/-- The number of the aligned 32-bit word of a byte of an operand buffer. -/
def obWord (b o : Nat) : Nat := 4608 * b + o / 4

/-- A byte of an operand buffer (R207). -/
def obByte (c : ObView) (b o : Nat) : Nat :=
  match find (obWord b o) c.words with
  | some w => (nth 0 w.1 (o % 4)).toNat
  | none => (getD 0 (18432 * b + o) c.ob).toNat
/-- Whether a byte of an operand buffer is poisoned, with its segment. -/
def obPoison (c : ObView) (b o : Nat) : Bool :=
  match find (obWord b o) c.words with
  | some w => w.2
  | none => getD false (obSeg b (o / 64)) c.bad

/-- R221: what one word of a buffer that a fill is writing reads as: what stands there, or something that stood there since the
operation started; which is free (log entry 95). -/
def obPick (o : MOp) (x : State × ObView) (b w : Nat) : State × ObView :=
  let l := o.olds.filter (fun e => e.1 == b && e.2.1 == w)
  let r := takeFree x.1
  match l[r.1.toNat % (l.length + 1)]? with
  | none => (r.2, x.2)
  | some e => (r.2, { x.2 with words := put (4608 * b + w) (e.2.2.1, e.2.2.2) x.2.words })

/-- R219, R221: the buffers as an operation of a tile reads them. -/
def obMix (s : State) (t : Nat) (o : MOp) : State × ObView :=
  let ws := o.olds.foldl (fun (l : List (Nat × Nat)) e => if l.contains (e.1, e.2.1) then l else l ++ [(e.1, e.2.1)]) []
  ws.foldl (fun x w => obPick o x w.1 w.2) (s, obNow (coreAt s t))

/-- Table 9.2: element k of a line, and whether it is poisoned. -/
def obElem (c : ObView) (b line : Nat) (ty : Ty) (k : Nat) : FV × Bool :=
  if ty.bits = 8 then ((tyFmt ty).value (obByte c b (512 * line + k)), obPoison c b (512 * line + k))
  else
    let o := 512 * line + 2 * k
    ((tyFmt ty).value (obByte c b o + 256 * obByte c b (o + 1)), obPoison c b o)

/-- Table 9.1: scale word w of a line, and whether it is poisoned. -/
def obScale (c : ObView) (b line w : Nat) : Option (Nat × Int) × Bool :=
  let o := 0x4000 + 64 * line + 4 * w
  (s20Value ((obByte c b o + 256 * obByte c b (o + 1) + 65536 * obByte c b (o + 2)) % 2 ^ 20), obPoison c b o)

/-- R206: weight k of a line of CB2 indices. -/
def obWeight (c : ObView) (b line : Nat) (table : Option (List Byte)) (bad : BitVec 8) (k : Nat) : FV × Bool :=
  let o := 512 * line + 2 * (k / 8)
  let idx := obByte c b o + 256 * obByte c b (o + 1)
  let e := idx / 256
  let ent := match table with
    | none => defaultEntry e
    | some l => (nth 0 l (2 * e)).toNat + 256 * (nth 0 l (2 * e + 1)).toNat
  let h := weightHalves ent idx (k % 8)
  (.num (h < 0) h.natAbs (-1), obPoison c b o || bad.getLsbD (e / 32))

/-- R195: one step of a partial: two products added with one rounding. -/
def pairStep (p : Nat) (a b : Nat → FV) (k : Nat) (second : Bool) : Nat :=
  (fp32.roundFV .rne 0 (FV.sum .rne [fp32.value p, (a k).mul (b k),
    if second then (a (k + 1)).mul (b (k + 1)) else .num false 0 0])).bits

/-- R195: the partial of an element without scales. -/
def partialPlain (a b : Nat → FV) (K : Nat) : Nat :=
  (upTo ((K + 1) / 2)).foldl (fun p j => pairStep p a b (2 * j) (2 * j + 1 < K)) 0

/-- R196: the partial of one block of 32. -/
def partialBlock (a b : Nat → FV) (blk : Nat) : Nat :=
  (upTo 16).foldl (fun p j => pairStep p a b (32 * blk + 2 * j) true) 0

/-- R196: a block's partial with its scales; a NaN scale gives the canonical NaN, poisoned. -/
def scaledBlock (p : Nat) (sa sb : Option (Nat × Int)) : Nat × Bool :=
  match sa, sb with
  | some (f, i), some (h, j) =>
    if f = 0 || h = 0 then (0, false)
    else ((fp32.roundFV .rne 0 ((fp32.value p).mul (.num false (f * h) (i + j)))).bits, false)
  | _, _ => (fp32.nan, true)

/-- What element (m, n) of an operation adds to its accumulator: the sum and whether it is poisoned (R195, R196, R199). -/
def elementSum (c : ObView) (o : MOp) (m n : Nat) : Nat × Bool :=
  let b := o.shape
  let K := shK b
  let run (ty : Ty) (oba obb : ObReg) (wt : Option (Option (List Byte) × BitVec 8)) : Nat × Bool :=
    let la := shA0 b + m
    let lb := shB0 b + n
    let ea (k : Nat) := obElem c oba.toNat la ty k
    let eb (k : Nat) := match wt with
      | none => obElem c obb.toNat lb ty k
      | some (t, bad) => obWeight c obb.toNat lb t bad k
    let bad := (upTo K).any (fun k => (ea k).2 || (eb k).2)
    let scb := shScb b || wt.isSome
    if !shSca b && !scb then (partialPlain (fun k => (ea k).1) (fun k => (eb k).1) K, bad)
    else
      let one : Option (Nat × Int) × Bool := (some (1, 0), false)
      let r := (upTo (K / 32)).foldl (fun (t : Nat × Bool) blk =>
        let sa := if shSca b then obScale c oba.toNat la blk else one
        let sb := match wt with
          | none => if shScb b then obScale c obb.toNat lb blk else one
          | some _ => obScale c obb.toNat lb (blk / 4)
        let q := scaledBlock (partialBlock (fun k => (ea k).1) (fun k => (eb k).1) blk) sa.1 sb.1
        ((fAdd fp32 .rne 0 t.1 q.1).bits, t.2 || sa.2 || sb.2 || q.2)) (0, false)
      (r.1, r.2 || bad)
  match o.kind with
  | .mma ty oba obb => run ty oba obb none
  | .mmacb ty oba obb t bad => run ty oba obb (some (t, bad))
  | .mzero => (0, false)
  | .mrd _ _ _ => (0, false)
  | .mwr _ _ _ => (0, false)

/-- R194: the random bits of element (m, n) in an operation's entry. -/
def elementBits (e : BitVec 1024) (m n : Nat) : Nat :=
  let u := rngLane e (n + 32 * (m % 2))
  let k := m / 2
  (u * 2 ^ k % 65536) + u / 2 ^ (16 - k)

/-- R195, R196: the new element from the old one. -/
def elementNew (o : MOp) (m n : Nat) (sum : BitVec 64) (old : Lane) : Lane :=
  ⟨BitVec.ofNat 32 (fAdd fp32 (Mode.ofCode o.mode) (elementBits o.entry m n) old.val.toNat (sum.toNat % 2 ^ 32)).bits,
    old.poison || sum.getLsbD 32⟩

end Sys2Proof.Machine
end

