-- ==== Sys2Proof/Machine/MatrixEvents.lean ====
section
/-! DEFINITION. The steps of the matrix unit: an operation starts, consumes its buffers, reads and writes accumulator rows
(R205, R215 to R221, R227). A step whose conditions do not hold changes nothing. -/

namespace Sys2Proof.Machine

/-- Whether an operation runs through the array. -/
def MOp.array (o : MOp) : Bool := !o.buffers.isEmpty

/-- The accumulator rows that an operation reads. -/
def MOp.readRows (o : MOp) : List Nat :=
  match o.kind with
  | .mma _ _ _ => if shCols o.shape = 0 then [] else upTo (shRows o.shape)
  | .mmacb _ _ _ _ _ => if shCols o.shape = 0 then [] else upTo (shRows o.shape)
  | .mzero => []
  | .mrd _ h _ => [2 * h, 2 * h + 1]
  | .mwr _ _ _ => []

/-- The accumulator rows that an operation writes. -/
def MOp.writeRows (o : MOp) : List Nat :=
  match o.kind with
  | .mma _ _ _ => o.readRows
  | .mmacb _ _ _ _ _ => o.readRows
  | .mzero => upTo 32
  | .mrd _ _ _ => []
  | .mwr h _ _ => [2 * h, 2 * h + 1]

/-- Whether an operation has still to read a row. -/
def MOp.toRead (o : MOp) (m : Nat) : Bool := o.readRows.contains m && (find m o.read).isNone
/-- Whether an operation has still to write a row. -/
def MOp.toWrite (o : MOp) (m : Nat) : Bool := o.writeRows.contains m && !o.wrote.contains m
/-- Whether an operation may use the ports: it has started, and an array operation has consumed its operands. -/
def MOp.open_ (o : MOp) : Bool := o.started && (!o.array || o.consumed)
/-- Whether an operation has done everything. -/
def MOp.ended (o : MOp) : Bool :=
  o.open_ && (upTo 32).all (fun m => !o.toRead m && !o.toWrite m)

/-- R220, R222: whether a fill of a buffer issued before an operation holds it: a cons-1 command that has not ended. One whose end by a
fault or a stop released the operations holds those that have not started again once it goes on (DESIGN CHOICE, log entry 121). -/
def fillHolds (c : Core) (o : MOp) : Bool :=
  (cmdsOf c).any (fun d => d.cons && d.ord < o.ord && ((d.held.isNone && !d.stopped) || !d.chunks.isEmpty) &&
    match portOb d.port with
    | none => false
    | some b => o.buffers.contains b)

/-- The elements of a queue before its first one that satisfies a test, and that one. -/
def splitAtFirst (f : MOp → Bool) : List MOp → Option (List MOp × MOp)
  | [] => none
  | o :: l => if f o then some ([], o) else (splitAtFirst f l).map (fun r => (o :: r.1, r.2))

/-- R216: the head operation, when its conditions hold. -/
def startable (c : Core) : Option MOp :=
  match splitAtFirst (fun o => !o.started) c.mq with
  | none => none
  | some (before, o) =>
    if o.array && (before.any (fun p => p.array && !p.consumed) || fillHolds c o) then none else some o

/-- The state with an operation of a tile replaced; an operation that has ended leaves the queue (R227), which may end the kill of its
thread (R329) or free the accumulator file (R118), and lets waiting threads look again. -/
def putOp (s : State) (t : Nat) (o : MOp) : State :=
  if o.ended then
    let s := updCore s t (fun c => { c with mq := c.mq.filter (fun p => p.ord != o.ord) })
    wakeTile (match keyOfUid s o.uid with
      | some k => if (threadAt s k).any (fun th => th.dying) && !holdsOps s t o.uid then endKill s k else s
      | none => if s.saved.any (fun v => v.th.uid == o.uid) then s else fill (releaseFile s t o.uid) t) t
  else updCore s t (fun c => { c with mq := c.mq.map (fun p => if p.ord == o.ord then o else p) })

/-- R216: MATRIX_OP_START. -/
def execMatrixOpStart (tile : Nat) (s : State) : Result :=
  .next (if asleep s tile then s else match startable (coreAt s tile) with
  | none => s
  | some o => putOp s tile { o with started := true })

/-- R219, R260: MATRIX_OPERAND_CONSUME: the started array operation reads its operands; every sum of R195 or R196 is now
fixed. -/
def execMatrixOperandConsume (tile : Nat) (s : State) : Result :=
  .next (if asleep s tile then s else match (coreAt s tile).mq.find? (fun o => o.started && o.array && !o.consumed) with
  | none => s
  | some o =>
    let s := findSegs s tile o.buffers
    let (s, c) := obMix s tile o
    let sums : Map (List (BitVec 64)) := o.readRows.map (fun m => (m, (upTo (shCols o.shape)).map (fun n =>
      let r := elementSum c o m n
      BitVec.ofNat 64 (r.1 + if r.2 then 2 ^ 32 else 0))))
    wakeTile (updCore (putOp s tile { o with consumed := true, sums := sums, olds := [] }) tile settleEnds) tile)

/-- Whether an earlier operation of the queue still has to write (or read, where `r`) a row of the same accumulator
(R217). -/
def rowBusy (before : List MOp) (ac : AcReg) (m : Nat) (r : Bool) : Bool :=
  before.any (fun p => p.ac == ac && (p.toWrite m || (r && p.toRead m)))

/-- R430: the vector register that an MRD writes, once both rows are read. -/
def mrdResult (o : MOp) (v : VReg) (h : Nat) (bad : Bool) (s : State) : State :=
  match find (2 * h) o.read, find (2 * h + 1) o.read with
  | some a, some b => updOwner s o.uid (fun th => { th with
      regs := th.regs.wrV v ((a ++ b).map (fun l => { l with poison := l.poison || bad })) })
  | _, _ => s

/-- R205, R217, R218: MATRIX_ROW_READ: the first operation that may read the row reads it. -/
def execMatrixRowRead (tile row : Nat) (s : State) : Result :=
  let c := coreAt s tile
  .next (if asleep s tile then s else match splitAtFirst (fun o => o.open_ && o.toRead row) c.mq with
  | none => s
  | some (before, o) =>
    if rowBusy before o.ac row false then s
    else
      let o := { o with read := put row (getD accRow (accKey o.ac.toNat row) c.acc) o.read }
      let s := match o.kind with
        | .mrd v h bad => mrdResult o v h bad s
        | .mma _ _ _ => s
        | .mmacb _ _ _ _ _ => s
        | .mzero => s
        | .mwr _ _ _ => s
      putOp s tile o)

/-- The row that an operation writes, when it has what it needs. -/
def rowValue (o : MOp) (c : Core) (m : Nat) : Option (List Lane) :=
  match o.kind with
  | .mzero => some accRow
  | .mwr h l bad => some ((upTo 32).map (fun n =>
      let x := nth Lane.zero l (32 * (m - 2 * h) + n)
      { x with poison := x.poison || bad }))
  | .mrd _ _ _ => none
  | .mma _ _ _ => newRow
  | .mmacb _ _ _ _ _ => newRow
where
  /-- The row of a multiply: columns past cols keep their values. -/
  newRow : Option (List Lane) :=
    match find m o.read, find m o.sums with
    | some old, some sums => some ((upTo 32).map (fun n =>
        let l := nth Lane.zero (getD accRow (accKey o.ac.toNat m) c.acc) n
        if n < shCols o.shape then elementNew o m n (nth 0 sums n) (nth Lane.zero old n) else l))
    | _, _ => none

/-- R205, R217, R227: MATRIX_ROW_WRITE: the first operation that may write the row writes it; MZERO writes all its
rows. -/
def execMatrixRowWrite (tile row : Nat) (s : State) : Result :=
  let c := coreAt s tile
  .next (if asleep s tile then s else match splitAtFirst (fun o => o.open_ && o.toWrite row) c.mq with
  | none => s
  | some (before, o) =>
    let rows := if o.kind = .mzero then upTo 32 else [row]
    if rows.any (fun m => rowBusy before o.ac m true) then s
    else match rowValue o c row with
      | none => s
      | some l =>
        let s := updCore s tile (fun c => { c with
          acc := rows.foldl (fun a m => setD accRow (accKey o.ac.toNat m) l a) c.acc })
        putOp s tile { o with wrote := o.wrote ++ rows })

end Sys2Proof.Machine
end

