-- ==== Sys2Proof/Machine/Banks.lean ====
section
/-! DEFINITION. The banks of the scratchpads: the requests that their requesters make, the port queues and reorder buffers, and the turns of
R235; with the words of stream chunks that wait there (R234 to R240, R275). -/

namespace Sys2Proof.Machine

/-- The bank of a scratchpad location (R234). -/
def bankOf (pa : Nat) : Nat := pa / 8 % 32

/-- Whether a location lies in the scratchpad of a core. -/
def inCore (t pa : Nat) : Bool := padBase t ≤ pa && pa < padBase t + padSize t

/-! The words of a chunk (R238, R275): each is read once and written once, at an instant of its own. -/

/-- R47: whether a chunk that reads its port has a route to its source and back. -/
def chunkRoutes (s : State) (t : Nat) (c : Cmd) (p : Path) (pa : Nat) : Bool :=
  c.out || (portOb c.port).isSome || c.port == .hname ||
    ((requestRoute s t p pa).isSome && (answerRoute s t p pa).isSome)

/-- The run of a chunk's source bytes that a run of what it writes comes from: where it begins, and its length. -/
def comesFrom (c : Cmd) (o n : Nat) : Nat × Nat :=
  let w := if c.out then c.ws else c.pw
  let v := if c.out then c.pw else c.ws
  if c.cv then (o / v * w, ((o + n + v - 1) / v - o / v) * w) else (o, n)

/-- The words of a chunk's source that word j of what it writes comes from. -/
def feeders (t : Nat) (c : Cmd) (k : Chunk) (j : Nat) : List Nat :=
  let p := wordPart (dstBase t c k) (dstLen c k) j
  let q := comesFrom c (p.1 - dstBase t c k) p.2
  let b := srcBase t c k
  (upTo (wordsIn b (srcLen c k))).filter (fun i => b + q.1 < 4 * (b / 4 + i) + 4 && 4 * (b / 4 + i) < b + q.1 + q.2)

/-- Whether what a chunk reads at its port is gone: its stack failed, or its slice or scratchpad is lost. -/
def portGone (s : State) (k : Chunk) : Bool := stackFailed s k.pa || siteLost s k.pa k.path

/-- Whether word j of a chunk's source can be read now. -/
def canRead (s : State) (t : Nat) (c : Cmd) (k : Chunk) (j : Nat) : Bool :=
  !(k.waiting || k.sent || k.cut || k.flt.isSome || c.port == .hname || k.src.contains j) &&
    decide (j < wordsIn (srcBase t c k) (srcLen c k)) && (c.out || portGone s k || chunkRoutes s t c k.path k.pa)

/-- R141, R271: whether what a chunk writes to memory comes between a fetch of another thread and an acquire that it follows. -/
def writeHeld (s : State) (t : Nat) (c : Cmd) (k : Chunk) : Bool :=
  !(c.out && (portOb c.port).isSome) && aheadMeets s c.uid (dstBase t c k) (dstLen c k)

/-- R47, R356, Table 2.8: whether what a chunk writes to memory finds no place to go to: no route, or a lost place. -/
def writeLost (s : State) (t : Nat) (c : Cmd) (k : Chunk) : Bool :=
  c.out && !(portOb c.port).isSome && ((requestRoute s t k.path k.pa).isNone || (k.path == .peer && devId s = 0xFFF) || portGone s k)

/-- Whether word j of what a chunk writes in the device can be written now: every word that it comes from is read. -/
def canWrite (s : State) (t : Nat) (c : Cmd) (k : Chunk) (j : Nat) : Bool :=
  !(k.waiting || k.cut || k.flt.isSome || (c.out && k.path.remote) || k.dst.contains j) &&
    decide (j < wordsIn (dstBase t c k) (dstLen c k)) && (feeders t c k j).all (fun i => k.src.contains i) &&
    !writeHeld s t c k && !writeLost s t c k

/-! Requests at banks. -/

/-- What a request at a bank moves: a word of an access, or an aligned 32-bit word that a chunk of a tile's command reads or writes
(below, or from, 64). -/
inductive BankReq where
  | word (a : Access) (w : Nat)
  | part (t : Nat) (c : Cmd) (k : Chunk) (j : Nat)
  deriving DecidableEq, Repr

/-- A request that a requester has made at the banks of a core: its place in the requester's order, its location, whether it is served,
and what it moves. -/
structure Request where
  key : Nat × Nat
  pa : Nat
  served : Bool
  req : BankReq
  deriving DecidableEq, Repr

/-- R236, R270: the distinct words that an access needs of a requester at a core, each with a location in it. -/
def wordsAt (t q : Nat) (a : Access) : List (Nat × Nat) :=
  a.elems.foldl (fun (l : List (Nat × Nat)) e =>
    if requester a e.path == some q && inCore t e.pa && !l.any (fun x => x.1 == unitOf a e.pa) then l ++ [(unitOf a e.pa, e.pa)]
    else l) []

/-- The words of an access that a requester has made requests for at a core. -/
def accessRequests (s : State) (t q : Nat) (a : Access) : List Request :=
  (wordsAt t q a).filterMap (fun w =>
    let es := a.elems.filter (fun e => requester a e.path == some q && unitOf a e.pa == w.1)
    let r (done : Bool) : Request := ⟨(arrivalOf s a.id q w.1, a.id), w.2, done, .word a w.1⟩
    if es.all (fun e => e.done) then some (r true) else if es.any (elemReady s a) then some (r false) else none)

/-- The words of a chunk that a requester has made requests for, on its scratchpad side, or on its port side where that is the span
view. -/
def chunkRequestsAt (s : State) (q t : Nat) (c : Cmd) (pad : Bool) (k : Chunk) : List Request :=
  let r (j pa : Nat) (done : Bool) : Request := ⟨(arrivalOf s k.num q j, k.num), pa, done, .part t c k j⟩
  if c.out == pad then
    let b := srcBase t c k
    (upTo (wordsIn b (srcLen c k))).filterMap (fun j =>
      if k.src.contains j then some (r j (4 * (b / 4 + j)) true)
      else if canRead s t c k j then some (r j (4 * (b / 4 + j)) false) else none)
  else
    let b := dstBase t c k
    (upTo (wordsIn b (dstLen c k))).filterMap (fun j =>
      if k.dst.contains j then some (r (64 + j) (4 * (b / 4 + j)) true)
      else if canWrite s t c k j then some (r (64 + j) (4 * (b / 4 + j)) false) else none)

/-- R240, R290: the requests of stream chunks that a requester has made at a core: those of its engine, or those that the span crossbar
brings from the tiles of the span. -/
def streamRequests (s : State) (t q : Nat) : List Request :=
  if q = 2 || q = 3 then (engOf (coreAt s t) (q - 2)).flatMap (fun c => c.chunks.flatMap (chunkRequestsAt s q t c true))
  else if q = 4 then
    s.cores.flatMap (fun x => (cmdsOf x.2).flatMap (fun c => if c.port != .view then [] else c.chunks.flatMap (fun k =>
      if inCore t k.pa then chunkRequestsAt s q x.1 c false k else [])))
  else []

/-- A request put into a list by its place, behind those of the same place. -/
def insertReq {α : Type} (key : α → Nat × Nat) (x : α) : List α → List α
  | [] => [x]
  | y :: l => if keyBefore (key x) (key y) then x :: y :: l else y :: insertReq key x l

/-- The requests of a requester at a core, in order. -/
def requestsOf (s : State) (t q : Nat) : List Request :=
  (s.inflight.flatMap (accessRequests s t q) ++ streamRequests s t q).foldl (fun l r => insertReq Request.key r l) []

/-- R237: the requests that the reorder buffer of a requester holds: those from the first that is not served, at most 64. -/
def reorder (s : State) (t q : Nat) : List Request := ((requestsOf s t q).dropWhile (fun r => r.served)).take 64

/-- R235: the requests that wait at a bank of a core, each with its requester, in order. -/
def waitingAt (s : State) (t b : Nat) : List (Nat × Request) :=
  ((upTo 6).flatMap (fun q => ((reorder s t q).filter (fun r => !r.served && bankOf r.pa == b)).map (fun r => (q, r)))).foldl
    (fun l x => insertReq (fun (y : Nat × Request) => y.2.key) x l) []

/-- Whether a request has come to its bank. -/
def hasCome (s : State) (r : Request) : Bool := r.key.1 < s.arrived.length

/-- R235: the port queue of a bank, of 16 requests: those that have come to it, in the order of their arrival; where none has, the oldest
come now. -/
def bankQueue (s : State) (t b : Nat) : List (Nat × Request) :=
  let l := waitingAt s t b
  let come := l.filter (fun x => hasCome s x.2)
  (if come.isEmpty then l else come).take 16

/-- R235: the requester that a bank serves next, after the one it served last, with its oldest queued request. -/
def nextRequest (s : State) (t b : Nat) : Option (Nat × BankReq) :=
  let last := getD 5 b (coreAt s t).bankRR
  let l := bankQueue s t b
  pick (fun i => let q := (last + 1 + i) % 6
    (l.find? (fun r => r.1 == q)).map (fun r => (q, r.2.req))) (upTo 6)

/-- R235, R237: a request of a requester comes to its bank, unless the bank's queue or the requester's reorder buffer is full, when it is
held, or it is there already. -/
def comeToBank (s : State) (t q num unit : Nat) : State :=
  let l := requestsOf s t q
  match l.find? (fun r => !r.served && r.key.2 == num && (match r.req with
    | .word _ w => w == unit
    | .part _ _ _ j => j == unit)) with
  | none => s
  | some r =>
    if hasCome s r || 16 ≤ ((waitingAt s t (bankOf r.pa)).filter (fun x => hasCome s x.2)).length ||
        64 ≤ ((l.filter (hasCome s)).dropWhile (fun x => x.served)).length then s
    else { s with arrived := s.arrived ++ [(num, q, unit)] }

/-- R235: whether the bank of an element in a scratchpad serves it next. -/
def hasTurn (s : State) (a : Access) (e : Elem) : Bool :=
  match nextRequest s (padOwner e.pa) (bankOf e.pa) with
  | some (q, .word b w) => b.id == a.id && w == unitOf a e.pa && requester a e.path == some q
  | _ => false

/-- R235: the banks of some words of a core have served a requester. -/
def bankTurns (s : State) (t q : Nat) (pas : List Nat) : State :=
  updCore s t (fun c => { c with bankRR := pas.foldl (fun m a => setD 5 (bankOf a) q m) c.bankRR })

/-- R235: whether a request that has come to the bank of a location of a core stands before another access to it. -/
def bankTaken (s : State) (t a : Nat) : Bool :=
  !s.arrived.isEmpty && (waitingAt s t (bankOf a)).any (fun x => hasCome s x.2)

/-- One location in each bank that a run of bytes touches. -/
def bankSpan (pa n : Nat) : List Nat := (upTo (min 32 ((pa % 8 + n + 7) / 8))).map (fun i => pa + 8 * i)

/-- R235: whether the router's traffic may pass at the banks of a run of bytes of a core: input copies, launch records, and the traffic of
the save engine and of hosts move their bytes in one step, when no request that has come to those banks stands before them (log entry
80). -/
def banksFree (s : State) (t pa n : Nat) : Bool := !(bankSpan pa n).any (bankTaken s t)

/-- R235: the banks of a run of bytes of a core have served the router. -/
def routerTurn (s : State) (t pa n : Nat) : State := bankTurns s t 5 (bankSpan pa n)

/-- R235: whether an access that comes over the deck may pass at a run of bytes: where it is a scratchpad's, at its banks. -/
def deckFree (s : State) (pa n : Nat) : Bool := devPath pa != .sys || banksFree s (padOwner pa) pa n

/-- R235: an access that comes over the deck has had the turn of the banks of a scratchpad. -/
def deckTurn (s : State) (pa n : Nat) : State := if devPath pa == .sys then routerTurn s (padOwner pa) pa n else s

end Sys2Proof.Machine
end

