-- ==== Sys2Proof/Machine/Names.lean ====
section
/-! DEFINITION. Class N on names and launches: PUB, SUBS, UNSUB, DROP, AWAIT, BAR, BARX and SPAWN (R376 to R383, R397, R398,
R443 to R447, R458 to R460, R467 to R469), with the pending-launch pool's allocation (R95, R97, R98). -/

namespace Sys2Proof.Machine

/-- The low register of a name pair. -/
def pairLo (n : NPair) : SReg := BitVec.ofNat 6 (2 * n.toNat)
/-- The high register of a name pair. -/
def pairHi (n : NPair) : SReg := BitVec.ofNat 6 (2 * n.toNat + 1)
/-- R144: the 96 bits of a name pair. -/
def pairBits (s : State) (n : NPair) : Name := (rdS s (pairHi n)).val.setWidth 32 ++ (rdS s (pairLo n)).val
/-- R60: below system privilege a name's context is the instance's own. -/
def ownName (s : State) (th : Thread) (n : Name) : Name :=
  if th.priv = 2 then n
  else mkName (nameTid n) (nameCoords n) (s.issue.src.tag.toNat / 65536) (nameIter n) (namePlane n)
/-- The name of a pair as its instruction forms it. -/
def pairName (s : State) (th : Thread) (n : NPair) : Name := ownName s th (pairBits s n)

/-- R230: whether n bytes at an address lie in the own-scratchpad range of a core. -/
def inPad (t b n : Nat) : Bool := b < padSize t && b + n ≤ padSize t

/-- Table 18.8: the first check of a PUB that fails. -/
def pubCheck (s : State) (th : Thread) (n : Name) (b len : Nat) : Option (FaultClass × Option Nat × Word) :=
  let pl := namePlane n
  if (th.priv = 0 && (pl = 2 || pl = 3 || pl = 4)) || (th.priv = 1 && (pl = 3 || pl = 4)) ||
      (th.priv < 2 && 0xFF0000 ≤ nameTid n) then
    -- Table 14.1: a PRIV found at execution has Table 6.16 with why 0
    some (.priv, none, BitVec.ofNat 64 (4 * 2 ^ 24 + s.issue.idx * 2 ^ 8))
  else if b % 8 != 0 then some (.align, some b, 8)
  else if 16384 < len || !inPad s.tile b len then some (.perm, some b, 0)
  else none

/-- Table 18.9: the pmap of a PUB, from the poison of the payload's bytes. -/
def pubMap (bad : List Bool) (all : Bool) : Word :=
  (upTo ((bad.length + 255) / 256)).foldl (fun m i =>
    if all || ((bad.drop (256 * i)).take 256).any (fun b => b) then m ||| (1#64 <<< i) else m) 0

/-- Table 3.3: whether a publication of a length is wholly poisoned: it has a byte, and every block of it is. -/
def whollyBad (n : Nat) (pmap : Word) : Bool := 0 < n && (upTo ((n + 255) / 256)).all (fun i => pmap.getLsbD i)

/-- R445: the publication that a PUB makes. -/
def pubMake (s : State) (n : Name) (scp : Scope) (rel : Bool) (data : List Byte) (pmap : Word) : Pub :=
  let g := graphAt s (nameCtx n)
  let d := g.bind (fun g => stagePub g (nameTid n))
  let fmt := match d with
    | none => 0
    | some d => d.fmt
  let nsub := match g, d with
    | some g, some d => declNsub g d n
    | _, _ => 0
  let clean := match g with
    | none => false
    | some g => nameClean g (nameTid n)
  let sp := scalePlane (namePlane n) fmt
  { name := n, nsub := nsub, sv := sp.1, splane := sp.2, pmap := pmap, rel := rel, clean := clean,
    wp := whollyBad data.length pmap, scope := scp.code.toNat, fmt := fmt, data := data }

/-- Whether the payload read of a thread's PUB is in flight. -/
def payloadComing (s : State) (uid : Nat) : Bool := s.inflight.any (fun a => a.uid == uid && a.dst == .payload)

/-- R235, R270: the payload read of a PUB enters flight: the router reads each aligned 32-bit word at an instant of its own. -/
def readPayload (s : State) (th : Thread) (base len : Nat) : State :=
  let w := whoOf s.issue.key th
  let word (i : Nat) : Elem := mkElem [i] (base + 4 * i, padBase s.tile + base + 4 * i, .own) (if len < 4 * i + 4 then len - 4 * i else 4) 0 0 []
  addAccess s { id := 0, uid := th.uid, tile := s.tile, kind := .load, ty := .u32, dst := .payload, poison := false,
                elems := (upTo ((len + 3) / 4)).map word, scp := 0, acq := false, rel := false, ctx := w.ctx, who := w,
                psink := s.issue.src.psink, miss := false, leaves := [],
                serves := match th.kind with
                  | .handler _ u => some u
                  | .task => none
                  | .alert _ => none,
                ahead := [] }

/-- R444 to R447: a PUB that has its payload sends the publication; one of a clean name with a poisoned byte is a sink first. -/
def publish (s : State) (th : Thread) (p : Pub) : State :=
  let after := if p.rel then releaseList s th.uid p.scope else []
  let send (s : State) := sendPub (if p.rel then flushAt s th p.scope else s) p s.tile th.uid after p.scope
  if p.clean && p.pmap != 0 then
    let w := whoOf s.issue.key th
    let seq := sinkSeq s w.ctx
    let s := poisonRecord s w 6 s.issue.src.psink p.pmap (p.name.toNat / 2 ^ 32)
    if s.issue.src.psink then freeze s .poisonsink none (BitVec.ofNat 64 (6 * 2 ^ 32 + seq % 2 ^ 32))
    else send s
  else send s

/-- R443 to R447: PUB: once its payload is read, after every earlier store of the thread that overlaps it (R270), it publishes. -/
def execPub (g : PReg) (scp : Scope) (rel : Bool) (n : NPair) (b c : SReg) (s : State) : Result :=
  syllable s g (fun th =>
    let name := pairName s th n
    let base := (rdS s b).val.toNat
    let len := (rdS s c).val.toNat
    match pubCheck s th name base len with
    | some (cls, a, aux) => freeze s cls a aux
    | none =>
      match (if len = 0 then some ([], []) else s.issue.payload) with
      | some (data, bad) =>
        let all := (rdS s (pairLo n)).poison || (rdS s (pairHi n)).poison || (rdS s c).poison
        publish s th (pubMake s name scp rel data (pubMap bad all))
      | none =>
        if payloadComing s th.uid || storesOver s th.uid none (padBase s.tile + base) len then waitFor s .cond
        else waitFor (readPayload s th base len) .cond)

/-- The outstanding dynamic subscription of a thread to a name (R378). -/
def dynFind (th : Thread) (n : Name) : Option DynSub := th.dyn.find? (fun d => d.name == n)

/-- The tile-scope publication of a name that a tile's router holds. -/
def tilePubAt (s : State) (t : Nat) (n : Name) : Option Pub :=
  ((coreAt s t).tilePubs.find? (fun e => e.1.name == n)).map (fun e => readCopy s t e.1)

/-- R468: a new dynamic subscription: a tile-scope publication of the name held at the tile is delivered at once, and
otherwise it goes to the name's home. -/
def addDyn (s : State) (th : Thread) (n : Name) (scp : Nat) : State :=
  let s := readTile s s.tile (fun m => m == n)
  let got := tilePubAt s s.tile n
  let s := updIssuer s (fun t => { t with dyn := t.dyn ++ [⟨n, th.subsN, scp, got, false⟩], subsN := th.subsN + 1 })
  if got.isSome then s
  else { s with net := s.net ++ [.sub { name := n, anyIter := false, tile := s.tile, of_ := .thread th.uid th.subsN, scope := scp,
                                        direct := false, routers := [], seen := [] }] }

/-- R468: SUBS. -/
def execSubs (g : PReg) (scp : Scope) (n : NPair) (s : State) : Result :=
  syllable s g (fun th =>
    let name := pairName s th n
    if (dynFind th name).isSome then s
    else if 16 ≤ th.dyn.length then freeze s .perm none 0
    else addDyn s th name scp.code.toNat)

/-- R469: a dynamic subscription is withdrawn: the tile forgets it and the withdrawal goes to the home. -/
def dropDyn (s : State) (th : Thread) (n : Name) : State :=
  let l := th.dyn.filter (fun d => d.name == n)
  let s := updIssuer s (fun t => { t with dyn := t.dyn.filter (fun d => d.name != n) })
  { s with net := s.net ++ l.map (fun d => .unsub n s.tile (.thread th.uid d.seq)) }

/-- R469: UNSUB. -/
def execUnsub (g : PReg) (n : NPair) (s : State) : Result :=
  syllable s g (fun th =>
    let name := pairName s th n
    if (dynFind th name).isSome then dropDyn s th name else s)

/-- R398: DROP. -/
def execDrop (g : PReg) (n : NPair) (s : State) : Result :=
  syllable s g (fun th => { s with net := s.net ++ [.drop (pairName s th n) s.tile th.uid] })

/-- R70, R71, R378: a publication's header and payload are copied to a place; lines that receive a poisoned byte are
poisoned. -/
def placePub (s : State) (pa : Nat) (p : Pub) : State :=
  let n := p.data.length
  let s := writeClean s pa (pubHeader p ++ (upTo n).map (pubByte p))
  (upTo ((n + 255) / 256)).foldl (fun s i =>
    if pubBad p (256 * i) then
      (upTo (if n < 256 * i + 256 then n - 256 * i else 256)).foldl (fun s k =>
        setLinePoison s (pa + 32 + 256 * i + k) true) s
    else s) s

/-- R378 steps 2 to 5: an AWAIT that holds its subscription. -/
def awaitGot (s : State) (th : Thread) (p : Bool) (n : Name) (b : Nat) (d : DynSub) : State :=
  if d.bad then freeze s .scope (some b) 0
  else match d.got with
    | none => waitFor s .cond
    | some q =>
      if readHeld s th || !banksFree s s.tile (padBase s.tile + b) (32 + q.data.length) then waitFor s .cond
      else if q.wp && !p && !th.pass then freeze s .poisondep (some b) 2
      else
        let s := placePub (routerTurn s s.tile (padBase s.tile + b) (32 + q.data.length)) (padBase s.tile + b) q
        updIssuer s (fun t => { t with dyn := t.dyn.filter (fun e => e.name != n), pass := false })

/-- R376 to R379: AWAIT. -/
def execAwait (g : PReg) (p : Bool) (n : NPair) (b : SReg) (s : State) : Result :=
  syllable s g (fun th =>
    let name := pairName s th n
    let base := (rdS s b).val.toNat
    if base % 32 != 0 then freeze s .align (some base) 32
    else if !inPad s.tile base 16416 then freeze s .perm (some base) 0
    else match dynFind th name with
      | some d => awaitGot s th p name base d
      | none =>
        if 16 ≤ th.dyn.length then freeze s .perm (some base) 0
        else
          let s := addDyn s th name 2
          match issuer s with
          | none => s
          | some th => match dynFind th name with
            | none => s
            | some d => awaitGot s th p name base d)

/-! Span barriers. -/

/-- R381: how many episodes of a barrier a thread has passed. -/
def episodeOf (th : Thread) (n : Nat) : Nat := getD 0 n th.episode

/-- Whether an identity is resident, saved, or waits for a slot. -/
def identAlive (s : State) (id : Ident) : Bool :=
  s.threads.any (fun e => e.2.kind == .task && identOf e.2 == id) || s.saved.any (fun v => v.th.kind == .task && identOf v.th == id) ||
  s.cores.any (fun c => (c.2.fired ++ c.2.cursor).any (fun f => f.1 == id))

/-- Whether every access of an identity to targets in wafer scope has taken effect (Table 11.5). -/
def identQuiet (s : State) (id : Ident) : Bool :=
  s.inflight.all (fun a => !(a.who.tag == id.tag && a.who.inst.toNat == id.tmpl * 2 ^ 32 + id.inst.toNat) ||
    a.elems.all (fun e => e.done || 2 < e.path.scope))

/-- The thread of an identity, resident or saved. -/
def identThread (s : State) (id : Ident) : Option Thread :=
  match pick (fun (e : Nat × Thread) => if e.2.kind == .task && identOf e.2 == id then some e.2 else none) s.threads with
  | some th => some th
  | none => pick (fun v => if v.th.kind == .task && identOf v.th == id then some v.th else none) s.saved

/-- R381: whether a member has arrived at episode e of barrier n, been excused from it, been killed or ended. -/
def memberDone (s : State) (g : Graph) (id : Ident) (n e : Nat) : Bool :=
  match identThread s id with
  | some th => e < episodeOf th n || (episodeOf th n == e && th.arrived.getLsbD n) ||
      (th.excused.contains (n, e) && identQuiet s id)
  | none => g.firedIds.contains id && !identAlive s id && identQuiet s id

/-- R381: whether every member of a thread's span group has done so. -/
def barrierOpen (s : State) (th : Thread) (n : Nat) : Bool :=
  let id := identOf th
  match graphAt s id.ctx, th.member with
  | some g, some (grp, _) =>
    (g.placed.filter (fun p => p.tmpl == id.tmpl && (match p.grp with
      | some (h, _) => h == grp
      | none => false))).all (fun p => memberDone s g { id with inst := p.inst } n (episodeOf th n))
  | _, _ => true

/-- R381: the issue of a BAR: it arrives once its span and tile accesses are done, and commits when the episode ends; a member that
was excused from the episode passes (R334). -/
def barIssue (s : State) (th : Thread) (n : Nat) : State :=
  if th.excused.contains (n, episodeOf th n) then
    updIssuer s (fun t => { t with episode := setD 0 n (episodeOf th n + 1) t.episode })
  else if !th.arrived.getLsbD n && !accessesDone s th.uid 1 0b011 then waitFor s .cond
  else
    let s := updIssuer s (fun t => { t with arrived := t.arrived ||| (1#16 <<< n) })
    if barrierOpen s { th with arrived := th.arrived ||| (1#16 <<< n) } n then
      updIssuer s (fun t => { t with arrived := t.arrived &&& ~~~(1#16 <<< n),
                                     episode := setD 0 n (episodeOf th n + 1) t.episode })
    else waitFor s .cond

/-- R380 to R382: BAR. -/
def execBar (g : PReg) (n : BitVec 4) (s : State) : Result :=
  syllable s g (fun th => if th.member.isNone then freeze s .perm none 0 else barIssue s th n.toNat)

/-- What a capability register names. -/
inductive Target where
  /-- Nothing: it is null or stale. -/
  | none
  /-- A thread that a pre-emption or a lowering is moving. -/
  | moving
  /-- The frozen thread of a slot. -/
  | thread (key : Nat)
  deriving DecidableEq, Repr

/-- R341: whether the save of a task has begun to hold it: its graph's grace ended on its tile, or a lowering empties the
tile. -/
def saveHolds (s : State) (k : Nat) (th : Thread) : Bool :=
  th.kind == .task &&
  ((match s.vacate, th.graph with
    | some v, some c => v.expired.contains (c, tileOf k)
    | _, _ => false) ||
   (match s.lowVac with
    | some v => v.sites.contains (tileOf k) ||
        v.also.contains (th.graph.getD 0, th.regs.inst.toNat / 2 ^ 32, BitVec.ofNat 30 th.regs.inst.toNat)
    | Option.none => false))

/-- R120, R337, R341: what a capability register names. -/
def capTarget (s : State) (k : KReg) : Target :=
  if k != 0 then .none
  else match s.issue.src.k0 with
    | Option.none => .none
    | some c =>
      if s.saved.any (fun v => v.th.uid == c.uid && v.th.fzGen == c.gen) then .moving
      else match keyOfUid s c.uid with
        | Option.none => .none
        | some j => match threadAt s j with
          | Option.none => .none
          | some th =>
            if th.fzGen == c.gen && th.status == .frozen then (if saveHolds s j th then .moving else .thread j) else .none

/-- R120, R324, R341: an instruction on a frozen thread: PERM for a null or stale capability, a wait while the thread is
being moved. -/
def onFrozen (s : State) (k : KReg) (f : Nat → Thread → State) : State :=
  match capTarget s k with
  | .none => freeze s .perm none 0
  | .moving => waitFor s .cond
  | .thread j => match threadAt s j with
    | none => s
    | some th => f j th

/-- R383: BARX. -/
def execBarx (g : PReg) (k : KReg) (n : BitVec 4) (s : State) : Result :=
  syllable s g (fun _ => onFrozen s k (fun j th =>
    if th.member.isNone then freeze s .perm none 0
    else if th.arrived.getLsbD n.toNat then s
    else setThread s j { th with excused := th.excused ++ [(n.toNat, episodeOf th n.toNat)] }))

/-! Launching. -/

/-- R90: whether a launch record is malformed. -/
def recMalformed (r : List Byte) : Bool :=
  (upTo 3).any (fun k => 1024 < recExtent r k) || leNat (r.take 8) % 2 ^ 12 != 0
/-- R98: whether a launch is a zero-count launch. -/
def recZero (r : List Byte) : Bool := (upTo 3).any (fun k => recExtent r k == 0)
/-- The priority of a launch record. -/
def recPrio (r : List Byte) : Nat := leNat ((r.drop 14).take 1) % 8
/-- gbase of a launch record. -/
def recBase (r : List Byte) : Nat := leNat (r.take 8) % 2 ^ 53

/-- R97: the first free record after an ID, by fuel. -/
def poolFree (s : State) : Nat → Nat → Option Nat
  | 0, _ => none
  | fuel + 1, i => if (find i s.pool).isNone then some i else poolFree s fuel ((i + 1) % Config.poolSize)

/-- R97: the record that the next allocation takes. -/
def poolNext (s : State) : Option Nat := poolFree s Config.poolSize ((s.lastId + 1) % Config.poolSize)

/-- The handle of a record that is about to be taken (R91). -/
def poolHandle (s : State) (id : Nat) : Nat := getD 0 id s.poolGen * 65536 + id

/-- R95, R97, R98: a launch enters the pool under an ID; a malformed or zero-count one completes at once. -/
def poolTake (s : State) (id : Nat) (r : List Byte) (parent : Option Nat) (depth : Nat) (host : Option (Nat × Nat))
    (part : Option Nat) (root : Word) (bad : Bool) : State :=
  let s := { s with lastId := id }
  if bad then completeLaunch s (poolHandle s id) parent host r none 1 2
  else if recZero r then completeLaunch s (poolHandle s id) parent host r none 0 0
  else { s with
    pool := put id { record := r, parent := parent, depth := depth, prio := recPrio r, seq := s.poolSeq, host := host,
                     part := part, root := root, bad := bad, taken := false } s.pool,
    poolSeq := s.poolSeq + 1 }

/-- R94, R95, R459: the decision of a SPAWN: status and handle with the state after it. A thread of the keystone launches at depth 1,
with no parent and no partition, a handler that serves a graph's record there too (DEDUCED, log entry 114). -/
def spawnDecide (s : State) (th : Thread) (r : List Byte) (bad : Bool) : State × Nat × Nat :=
  let go (parent : Option Nat) (depth : Nat) (part : Option Nat) (root : Word) : State × Nat × Nat :=
    if 24 < depth then (s, 2, 0)
    else match poolNext s with
      | none => (s, 1, 0)
      | some id => (poolTake s id r parent depth none part root bad, 0, poolHandle s id)
  match (if isKs s.tile then none else th.graph.bind (fun c => (graphAt s c).map (fun g => (c, g)))) with
  | none => go none 1 none (msRaw s 0x80A)
  | some (c, g) => go (some (g.launch * 256 + c)) (g.depth + 1) g.part g.root

/-- R48, R235, R458 to R460: SPAWN: once what it releases is done, the router may read its record and the tile may send. -/
def execSpawn (g : PReg) (d c b : SReg) (s : State) : Result :=
  syllable s g (fun th =>
    let base := (rdS s b).val.toNat
    if base % 64 != 0 then freeze s .align (some base) 64
    else if !inPad s.tile base 64 then freeze s .perm (some base) 0
    else
      let pa := padBase s.tile + base
      if !(releaseList s th.uid 2).isEmpty || readHeld s th || storesOver s th.uid none pa 64 || !banksFree s s.tile pa 64 ||
          injectionStopped s s.tile then waitFor s .cond
      else
        let s := discover (routerTurn s s.tile pa 64) pa 64
        let r := readBytes s pa 64
        let bad := rangePoison s pa 64 || (rdS s b).poison || recMalformed r
        let (t, st, h) := spawnDecide s th r bad
        wrS (wrS t d st false) c h false)

end Sys2Proof.Machine
end

