-- ==== Sys2Proof/Machine/Stream.lean ====
section
/-! DEFINITION. The stream instructions: STRM, SWAIT, SCANCEL and GSET (R282 to R288, R294, R412, R413, R453, R454, R464,
R465). -/

namespace Sys2Proof.Machine

/-- The element count that a pattern has (R284), and the scratchpad side's element width (R287). -/
def scratchWidth (cv : Bool) (pat : BitVec 256) : Nat := if cv then 4 else patW pat

/-- R286: the first check of a STRM that fails. -/
def strmCheck (s : State) (th : Thread) (port : Port) (cv : Bool) (pat : BitVec 256) (sa : Nat) :
    Option (FaultClass × Nat × Word) :=
  let ws := scratchWidth cv pat
  if sa % ws != 0 then some (.align, sa, BitVec.ofNat 64 ws)
  else if !inPad s.tile sa (patE pat * ws) then some (.perm, sa, 0)
  else if (portOb port).isSome && ((coreAt s s.tile).holder != some th.uid || th.kind != .task) then some (.perm, sa, 0)
  else none

/-- R275: the earlier store-type accesses that a command with `.ord` follows. -/
def storesBefore (s : State) (uid : Nat) : List Nat :=
  (s.inflight.filter (fun a => a.uid == uid && a.id < s.issue.acc0 && a.kind != .load)).map (fun a => a.id)

/-- R288: how many commands a thread has issued to an engine. -/
def strmCount (th : Thread) (e : Nat) : Nat := if e = 0 then th.strm0 else th.strm1

/-- R285, R307: the extents that a command's generator holds: those patched for its template's pattern, while lp is 1. -/
def patchedFor (s : State) (th : Thread) (gr : GReg) (pat : BitVec 256) : List Extent :=
  if !pat.getLsbD 63 then []
  else match (coreAt s s.tile).gens.find? (fun g => th.kind == .task && th.graph == some g.ctx &&
      g.tmpl == th.regs.inst.toNat / 2 ^ 32 && g.reg == gr.toNat) with
    | none => []
    | some g => g.ext

/-- R60, R465: a name with the context of its instance, at every privilege. -/
def instName (s : State) (n : Name) : Name :=
  mkName (nameTid n) (nameCoords n) (s.issue.src.tag.toNat / 65536) (nameIter n) (namePlane n)

/-- The space in which a command is translated. -/
def cmdSpace (s : State) (t : Nat) (c : Cmd) : Space :=
  match threadOfUid s c.uid with
  | some th => { spaceOf s (keyOf t 0) th with eng := true }
  | none =>
    if isKs t then ⟨t, c.priv, 0, msRaw s 0x80A, true⟩
    else ⟨t, c.priv, c.graph, ((graphAt s c.graph).map (fun g => g.root)).getD 0, true⟩

/-- R465: the command that a STRM queues. -/
def strmCmd (s : State) (th : Thread) (port : Port) (dir : Bool) (e : Nat) (scp : Scope) (ordf cons cv : Bool) (rm : Rm)
    (ty : Ty) (gr : GReg) (a : SVal) (n : NPair) : Cmd :=
  let pat := s.issue.src.rdG gr
  let m := rm.mode s.issue.src.rm
  { uid := th.uid, graph := th.graph.getD 0, priv := th.priv, eng := e, seq := strmCount th e % 2 ^ 32, port := port, out := dir,
    scp := scp.code.toNat, cons := cons, cv := cv,
    -- R190: a stream conversion never rounds stochastically
    mode := if m = 5 then 0 else m, ty := ty, pat := pat, ext := patchedFor s th gr pat,
    who := whoOf s.issue.key th, sa := a.val.toNat,
    poison := a.poison || (n != 0 && ((rdS s (pairLo n)).poison || (rdS s (pairHi n)).poison)),
    name := instName s (pairBits s n), named := n != 0, ord := (coreAt s s.tile).mqOrd,
    after := if ordf then storesBefore s th.uid else [], running := false, next := 0, pfx := 0, ahead := [],
    recount := [], chunks := [], seen := 0, steps := 0, cyc := 0, held := none, cancelled := false, stopped := false, src := none,
    srcBad := false, anyBad := false }

/-- R293: a command whose source is named subscribes it at the command's scope. -/
def subscribeSource (s : State) (c : Cmd) : State × Cmd :=
  if c.port != .hname then (s, c)
  else
    let s := readTile s s.tile (fun m => m == c.name)
    match tilePubAt s s.tile c.name with
    | some p => (s, { c with src := some p })
    | none =>
      let q : Sub := { name := c.name, anyIter := false, tile := s.tile, of_ := .command c.uid c.eng c.seq, scope := c.scp,
                       direct := false, routers := [], seen := [] }
      ({ s with net := s.net ++ [.sub q] }, c)

/-- R285 to R288, R464, R465: STRM. -/
def execStrm (g : PReg) (port : Port) (dir : Bool) (eng : Bool) (scp : Scope) (ordf cons cv : Bool) (rm : Rm) (ty : Ty)
    (d : SReg) (gr : GReg) (a : SReg) (n : NPair) (s : State) : Result :=
  syllable s g (fun th =>
    let pat := s.issue.src.rdG gr
    let sa := rdS s a
    let e := if eng then 1 else 0
    if Config.engSize ≤ (engOf (coreAt s s.tile) e).length then waitFor s .operand
    else match strmCheck s th port cv pat sa.val.toNat with
      | some (cls, va, aux) => freeze s cls (some va) aux
      | none =>
        let (t, c) := subscribeSource s (strmCmd s th port dir e scp ordf cons cv rm ty gr sa n)
        let t := updCore t t.tile (fun k => { (setEng k e (engOf k e ++ [c])) with mqOrd := k.mqOrd + 1 })
        let t := updIssuer t (fun th => if eng then { th with strm1 := th.strm1 + 1 }
          else { th with strm0 := th.strm0 + 1 })
        wrS t d (e * 2 ^ 32 + c.seq) false)

/-- R453: the command that an identifier names, if it has not ended. -/
def cmdNamed (s : State) (th : Thread) (v : Word) : Option Cmd :=
  (engOf (coreAt s s.tile) (v.toNat / 2 ^ 32 % 2)).find? (fun c => c.uid == th.uid && c.seq == v.toNat % 2 ^ 32)

/-- R454: SWAIT. -/
def execSwait (g : PReg) (a : SReg) (s : State) : Result :=
  syllable s g (fun th => if (cmdNamed s th (rdS s a).val).isSome then waitFor s .cond else s)

/-- R454: SCANCEL. -/
def execScancel (g : PReg) (a : SReg) (s : State) : Result :=
  syllable s g (fun th =>
    match cmdNamed s th (rdS s a).val with
    | none => s
    | some c => wakeTile (cancelCmd s s.tile c) s.tile)

/-- The low bit and width of a geometry field (Table 12.1). -/
def gfieldAt : GField → Nat × Nat
  | .base => (0, 53)
  | .n0 => (64, 16) | .n1 => (80, 16) | .n2 => (96, 16) | .n3 => (112, 16)
  | .st0 => (128, 32) | .st1 => (160, 32) | .st2 => (192, 32) | .st3 => (224, 32)
  | .esz => (53, 2)

/-- A field of a 256-bit register replaced. -/
def putField (x : BitVec 256) (lo w v : Nat) : BitVec 256 :=
  BitVec.ofNat 256 (x.toNat - x.toNat / 2 ^ lo % 2 ^ w * 2 ^ lo + v % 2 ^ w * 2 ^ lo)

/-- R283: a geometry register with a field written; `base` clears lp. -/
def gsetVal (x : BitVec 256) (f : GField) (v : Nat) : BitVec 256 :=
  let y := putField x (gfieldAt f).1 (gfieldAt f).2 v
  if f = .base then putField y 63 1 0 else y

/-- R283, R412, R413: GSET. -/
def execGset (g : PReg) (gr : GReg) (sel : GField) (a : SReg) (s : State) : Result :=
  syllable s g (fun _ => setRegs s (fun r => r.wrG gr (gsetVal (s.issue.src.rdG gr) sel (rdS s a).val.toNat)))

end Sys2Proof.Machine
end

