-- ==== Sys2Proof/Machine/StreamEvents.lean ====
section
/-! DEFINITION. The steps of the stream engines: dispatch, chunk start and chunk done (R284, R287, R289 to R293, R295), and the instants that words
of a chunk have of their own (R238). -/

namespace Sys2Proof.Machine

/-- R289: whether two ports are one port. -/
def samePort (p q : Port) : Bool :=
  p == q || ((p == .rim || p == .hname) && (q == .rim || q == .hname))

/-- Whether a command is stopped for a save, or its thread is frozen with PREEMPT: its engine starts no chunk (R297). -/
def cmdPreempted (s : State) (c : Cmd) : Bool :=
  c.stopped ||
  match threadOfUid s c.uid with
  | none => false
  | some th => match th.fault with
    | some r => r.cls == .preempt
    | none => false

/-- The head command of an engine, if it is still to be started. -/
def waitingHead (s : State) (t e : Nat) : Option Cmd :=
  match engOf (coreAt s t) e with
  | [] => none
  | c :: _ => if c.running || c.held.isSome || c.cancelled || cmdPreempted s c then none else some c

/-- Whether a running command of the other engine uses a command's port. -/
def portBusy (s : State) (t : Nat) (c : Cmd) : Bool :=
  (cmdsOf (coreAt s t)).any (fun d => d.running && !(d.stopped && d.chunks.isEmpty) && samePort d.port c.port)

/-- R225: the file that an ended thread still holds for its fills is released with the last of them. -/
def dropFile (s : State) (t uid : Nat) : State :=
  if (threadOfUid s uid).isSome || s.saved.any (fun v => v.th.uid == uid) then s else fill (releaseFile s t uid) t

/-- R284, R289: a command starts; one without elements ends at once. -/
def startCmd (s : State) (t : Nat) (c : Cmd) : State :=
  if patE c.pat = 0 then dropFile (publishStream (removeCmd s t c) t c 0 none 0) t c.uid
  else putCmd s t { c with running := true }

/-- R289: the head that the dispatcher starts. -/
def dispatchable (s : State) (t : Nat) : Option Cmd :=
  leastBy (fun c => c.ord) (((upTo 2).filterMap (waitingHead s t)).filter (fun c => !portBusy s t c))

/-- R289: STREAM_DISPATCH. -/
def execStreamDispatch (tile : Nat) (s : State) : Result :=
  .next (if asleep s tile then s else match dispatchable s tile with
  | none => s
  | some c => startCmd s tile c)

/-- R290: the elements of the chunk that begins at an element, by fuel. -/
def chunkLen (c : Cmd) (e : Nat) : Nat → Nat → Nat
  | 0, n => n
  | fuel + 1, n =>
    let a := patA c.pat (e + n)
    if e + n < patE c.pat && a == (patA c.pat e + n * c.pw) % 2 ^ 53 && a % 128 != 0 && (c.sa + (e + n) * c.ws) % 128 != 0 then
      chunkLen c e fuel (n + 1)
    else n

/-- Table 12.2: whether a port reaches memory by a path. -/
def portTakes : Port → Path → Bool
  | .bnd, .bonded => true
  | .rim, .hbm | .rim, .host | .rim, .peer => true
  | .view, .view => true
  | _, _ => false

/-- R285, R293, R295, R307: the checks of one element at the port side, by the extents that the generator holds or a translation. -/
def elemAt (s : State) (t : Nat) (c : Cmd) (e : Nat) : State × Tr :=
  let a := patA c.pat e
  let w := c.pw
  if a % w != 0 then (s, .fault .align 0)
  else if (portOb c.port).isSome then
    if a + w ≤ 0x4800 then (s, .ok a .own) else (s, .fault .perm 0)
  else if c.port == .hname then
    if c.srcBad then (s, .fault .scope 0)
    else match c.src with
      | none => (s, .wait)
      | some p => if a + w ≤ p.data.length then (s, .ok a .own) else (s, .fault .perm 0)
  else if c.port == .view && (isKs t || a < 0x1000000 || 0x2000000 < a + w) then (s, .fault .perm 0)
  else match extentAt c.ext a c.out with
    | some (pa, p) => if portTakes c.port p then (s, .ok pa p) else (s, .fault .perm 0)
    | none =>
      match translate s (cmdSpace s t c) (if c.out then needWr else needRd) a with
      | (s, .ok pa p) => if portTakes c.port p then (s, .ok pa p) else (s, .fault .perm 0)
      | r => r

/-- The checks of the elements of a chunk: the first location, or the first element that fails. -/
def elemsAt (s : State) (t : Nat) (c : Cmd) : List Nat → State × Option (Nat × FaultClass) × Option (Nat × Path)
  | [] => (s, none, none)
  | e :: l =>
    match elemAt s t c e with
    | (s, .fault cls _) => (s, some (e, cls), none)
    | (s, .wait) => (s, none, none)
    | (s, .ok pa p) =>
      match elemsAt s t c l with
      | (s, some f, _) => (s, some f, none)
      | (s, none, none) => (s, none, if l.isEmpty then some (pa, p) else none)
      | (s, none, some _) => (s, none, some (pa, p))

/-- R220, R275: whether a chunk of a command may move yet. -/
def chunkFree (s : State) (t : Nat) (c : Cmd) : Bool :=
  c.after.all (fun id => match accAt s id with
    | none => true
    | some a => a.elems.all (fun e => e.done)) &&
  (!c.cons || match portOb c.port with
    | none => true
    | some b => !beforeFill (coreAt s t) c.ord b)

/-- R186, R187, R287: the bytes that elements leave at the destination, and the poison of each. -/
def convertBytes (c : Cmd) (src : List Byte) (bad : List Bool) : List Byte × List Bool :=
  let w := if c.out then c.ws else c.pw
  let n := src.length / w
  let els := (upTo n).map (fun i =>
    let x := leNat ((src.drop (w * i)).take w)
    let p := c.poison || ((bad.drop (w * i)).take w).any (fun b => b)
    if !c.cv then ((src.drop (w * i)).take w, p, w)
    else if c.out then
      let r := convert c.ty .f32 (Mode.ofCode c.mode) 0 false false x
      (leBytes c.pw r.bits, p || r.poison, c.pw)
    else (leBytes 4 (convert .f32 c.ty .rne 0 false false x).bits, p, 4))
  (els.flatMap (fun e => e.1), els.flatMap (fun e => List.replicate e.2.2 e.2.1))

/-- The bytes of a range with the poison of each, with what its read finds (R261). -/
def readRange (s : State) (pa n : Nat) (lost : Bool) : State × List Byte × List Bool :=
  if lost then
    let (t, v) := freeWord s n
    (t, leBytes n v, List.replicate n true)
  else
    let s := discover s pa n
    (s, readBytes s pa n, (upTo n).map (fun i => linePoison s (pa + i)))

/-- R262, R202: bytes of a chunk arrive at a place in memory. -/
def writeRange (s : State) (pa : Nat) (data : List Byte) (bad : List Bool) : State :=
  ((upTo bad.length).filter (fun i => nth false bad i)).foldl (fun s i => setLinePoison s (pa + i) true) (writeClean s pa data)

/-- R221: an operation that has started and not consumed a buffer notes the words of it that are about to be written. -/
def noteWords (k : Core) (b o n : Nat) : Core :=
  let old (w : Nat) : Nat × Nat × List Byte × Bool :=
    (b, w, (upTo 4).map (fun i => getD 0 (18432 * b + 4 * w + i) k.ob), getD false (obSeg b (w / 16)) k.obBad)
  { k with mq := k.mq.map (fun m => if m.started && !m.consumed && m.buffers.contains b then
      { m with olds := m.olds ++ (upTo ((o % 4 + n + 3) / 4)).map (fun i => old (o / 4 + i)) } else m) }

/-- R207: bytes of a chunk arrive in an operand buffer; a segment that receives a poisoned byte is poisoned. -/
def writeOb (s : State) (t b o : Nat) (data : List Byte) (bad : List Bool) : State :=
  updCore s t (fun k =>
    let k := noteWords k b o data.length
    { k with
      ob := ((upTo data.length).zip data).foldl (fun m e => setD 0 (18432 * b + o + e.1) e.2 m) k.ob,
      obBad := ((upTo data.length).filter (fun i => nth false bad i)).foldl (fun m i =>
        setD false (obSeg b ((o + i) / 64)) true m) k.obBad })

/-- R295: a command meets a fault at an element: it starts nothing more, and the fault is delivered once its chunks in
flight are written. One whose thread has ended has nobody to serve it, and ends as a cancelled one does (log entry 51). -/
def holdCmd (s : State) (t : Nat) (c : Cmd) : State :=
  match c.held with
  | none => putCmd s t c
  | some f =>
    if !c.chunks.isEmpty then flushCmd (putCmd s t c) t c
    else if (threadOfUid s c.uid).isNone then dropFile (publishStream (endFill (removeCmd s t c) t c) t c 1 none c.pfx) t c.uid
    else
      let s := endFill (putCmd s t { c with running := false }) t c
      wakeTile { s with net := s.net ++ [.afault c.uid { f with aux := c.aux }] } t

/-- A chunk of a command with a new state of it. -/
def putChunk (s : State) (t : Nat) (c : Cmd) (k : Chunk) : State :=
  putCmd s t { c with chunks := c.chunks.map (fun d => if d.id == k.id then k else d) }

/-- Every word of the source of a chunk is read: its bytes, and the poison of each. -/
def Chunk.whole (k : Chunk) (t : Nat) (c : Cmd) (data : List Byte) (bad : List Bool) : Chunk :=
  { k with data := data, bad := bad, waiting := false, src := upTo (wordsIn (srcBase t c k) (srcLen c k)) }

/-- R246, R247: a chunk's read of a host or a peer leaves the device; a peer without a route answers poisoned. -/
def requestChunk (s : State) (t : Nat) (c : Cmd) (k : Chunk) : State × Chunk :=
  let len := srcLen c k
  if k.path == .peer && devId s = 0xFFF then
    let (s, v) := freeWord s len
    (s, { (k.whole t c (leBytes len v) (List.replicate len true)) with sent := true })
  else
    let out := if k.path == .host then Out.hostRead (hostAddr k.pa).1 (hostAddr k.pa).2 len (64 * k.num)
      else Out.peerReq (k.pa / 2 ^ 35 % 4096) (k.pa % 2 ^ 35) (64 * k.num) .load (List.replicate len .keep)
    ({ s with outHost := s.outHost ++ [out] }, { k with waiting := true, sent := true })

/-- R246, R247, R293: a chunk asks a remote end for its source, or takes it from its command's copy of a publication; every other source
is read word by word. -/
def fetchChunk (s : State) (t : Nat) (c : Cmd) (k : Chunk) : State × Chunk :=
  let n := srcLen c k
  if c.out then (s, k)
  else if c.port == .hname then
    match c.src with
    | none => (s, k)
    | some q => (s, k.whole t c ((upTo n).map (fun i => pubByte q (k.pa + i))) ((upTo n).map (fun i => pubBad q (k.pa + i))))
  else if k.path.remote then requestChunk s t c k
  else (s, k)

/-- Whether a chunk at a location must wait: its stack is in training (R356), its network interface is full (R243), or injection at
its tile is stopped (R48). -/
def chunkWaits (s : State) (t : Nat) (c : Cmd) (p : Path) (pa : Nat) : Bool :=
  !(portOb c.port).isSome && c.port != .hname &&
    (!stackReady s pa || (p.ni && Config.niSize ≤ niCount s t) || (p != .view && injectionStopped s t))

/-- R307, R309: the leaves that a chunk was translated through, by its command's extents or by the engine's TLB. -/
def chunkLeaves (s : State) (t : Nat) (c : Cmd) (vas : List Nat) : List (Nat × Nat) :=
  let held := c.ext.flatMap (fun x => x.leaves.filter (fun r => vas.any (fun va => (extentAt [x] va c.out).isSome && within r va)))
  held ++ usedLeaves s (cmdSpace s t c) (vas.filter (fun va => (extentAt c.ext va c.out).isNone))

/-- R290, R295: the running command of an engine starts its next chunk; one with an element that fails goes on its way too, and the
engine finds the fault when it comes back. -/
def chunkStart (s : State) (t : Nat) (c : Cmd) : State :=
  let e := c.next
  let n := chunkLen c e 127 1
  let chunk (s : State) (pa : Nat) (p : Path) (f : Option (Nat × FaultClass)) : Chunk :=
    { id := e, num := s.nextAcc, n := n, pa := pa, path := p, data := List.replicate (n * (if c.out then c.ws else c.pw)) 0,
      bad := List.replicate (n * (if c.out then c.ws else c.pw)) false, waiting := false, sent := false, cut := false,
      src := [], dst := [], left := 0, leaves := if c.port == .hname || (portOb c.port).isSome then [] else chunkLeaves s t c [patA c.pat e, patA c.pat (e + n - 1)],
      flt := f }
  match elemsAt s t c ((upTo n).map (fun i => e + i)) with
  | (s, some f, _) =>
    putCmd { s with nextAcc := s.nextAcc + 1 } t { c with next := e + n, chunks := c.chunks ++ [chunk s 0 .own (some f)] }
  | (s, none, none) => s
  | (s, none, some (pa, p)) =>
    if chunkWaits s t c p pa || !chunkRoutes s t c p pa then s
    else
      let (s, k) := fetchChunk { s with nextAcc := s.nextAcc + 1 } t c (chunk s pa p none)
      putCmd s t { c with next := e + n, chunks := c.chunks ++ [k] }

/-- The running command of an engine. -/
def runningCmd (s : State) (t e : Nat) : Option Cmd := (engOf (coreAt s t) e).find? (fun c => c.running)

/-- R290: STREAM_CHUNK_START. -/
def execStreamChunkStart (tile eng : Nat) (s : State) : Result :=
  .next (if asleep s tile then s else match runningCmd s tile eng with
  | none => s
  | some c =>
    if c.held.isSome || c.cancelled || cmdPreempted s c || patE c.pat ≤ c.next || 16 ≤ c.chunks.length || !chunkFree s tile c then s
    else chunkStart s tile c)

/-- R290: the prefix and the list of chunks past it, after another chunk is done, by fuel over the list. -/
def absorb (ws : Nat) : Nat → Nat → List (Nat × Nat) → Nat × List (Nat × Nat)
  | 0, p, l => (p, l)
  | fuel + 1, p, l =>
    match l.find? (fun a => a.1 * ws == p) with
    | none => (p, l)
    | some a => absorb ws fuel ((a.1 + a.2) * ws) (l.erase a)

/-- R292: the chunk completions that a prefix allows, in ascending step, by fuel over the steps. -/
def publishSteps (s : State) (t : Nat) : Nat → Cmd → State × Cmd
  | 0, c => (s, c)
  | fuel + 1, c =>
    let n3 := patN c.pat 3
    let rows := patN c.pat 0 * patN c.pat 1 * patN c.pat 2
    if c.named && 2 ≤ n3 && n3 ≤ 1024 && c.steps < n3 && rows * (c.steps + 1) * c.ws ≤ c.pfx then
      publishSteps (publishStream s t c 0 (some c.steps) c.pfx) t fuel { c with steps := c.steps + 1 }
    else (s, c)

/-- R290 to R295: a chunk of a command is written: the count, the prefix, the completions, and the command's end; a command that a
save has stopped ends its fill here (R222). -/
def chunkEnd (s : State) (t : Nat) (c : Cmd) (k : Chunk) : State :=
  let ahead := c.ahead ++ [(k.id, k.n)]
  let r := absorb c.ws ahead.length c.pfx ahead
  let c := { c with
    chunks := c.chunks.filter (fun d => d.id != k.id), pfx := r.1, ahead := r.2,
    seen := if c.recount.contains k.id then c.seen else c.seen + 1,
    anyBad := c.anyBad || (c.out && k.path == .host && (convertBytes c k.data k.bad).2.any (fun b => b)) }
  let s := wakeTile { s with olds := del k.num s.olds, arrived := s.arrived.filter (fun x => x.1 != k.num) } t
  let (s, c) := if c.cancelled then (s, c) else publishSteps s t 1024 c
  if !c.chunks.isEmpty then putCmd s t c
  else if c.cancelled then dropFile (publishStream (endFill (removeCmd s t c) t c) t c 1 none c.pfx) t c.uid
  else if c.held.isSome then holdCmd s t c
  else if patE c.pat ≤ c.next then dropFile (publishStream (removeCmd s t c) t c 0 none c.pfx) t c.uid
  else if c.stopped then endFill (putCmd s t c) t c
  else putCmd s t c

/-- R246, R247, R262: a chunk's write to a host or a peer leaves the device, and waits for its acknowledgement. -/
def sendChunk (s : State) (t : Nat) (c : Cmd) (k : Chunk) : State :=
  let r := convertBytes c k.data k.bad
  let mark (s : State) := flushCmd (putChunk s t c { k with sent := true, waiting := true, left := s.nextAcc }) t c
  if k.path == .host then
    mark { s with outHost := s.outHost ++ [.hostWrite (hostAddr k.pa).1 (hostAddr k.pa).2
      ((r.1.zip r.2).map (fun e => if e.2 then none else some e.1)) (64 * k.num)] }
  else mark { s with outHost := s.outHost ++ [.peerReq (k.pa / 2 ^ 35 % 4096) (k.pa % 2 ^ 35) (64 * k.num) .store
      ((r.1.zip r.2).map (fun e => if e.2 then .bad else .val e.1))] }

/-- Table 2.8: a chunk whose write is lost takes the store row. -/
def lostChunk (s : State) (c : Cmd) (k : Chunk) : State :=
  let w := cmdWho s c
  lostStore s w.1 c.uid w.2 7 1 (patA c.pat k.id)

/-- A list with a run of elements replaced. -/
def overlay {α : Type} (l new : List α) (o : Nat) : List α := l.take o ++ new ++ l.drop (o + new.length)

/-- R238, R275: word j of a chunk's source is read. -/
def readWord (s : State) (t : Nat) (c : Cmd) (k : Chunk) (j : Nat) : State :=
  if !canRead s t c k j then s
  else
    let p := wordPart (srcBase t c k) (srcLen c k) j
    let (s, data, bad) := readRange s p.1 p.2 (!c.out && portGone s k)
    let o := p.1 - srcBase t c k
    putChunk s t c { k with data := overlay k.data data o, bad := overlay k.bad bad o, src := j :: k.src }

/-- R202, R207, R220: the lines of memory or segments of a buffer that a chunk has filled lose their poison where all of it is clean. -/
def filled (s : State) (t : Nat) (c : Cmd) (k : Chunk) (bad : List Bool) : State :=
  let base := dstBase t c k
  let len := dstLen c k
  let whole := (upTo 3).filterMap (fun i =>
    let g := (base + 63) / 64 + i
    if 64 * g + 64 ≤ base + len then some g else none)
  let clean := whole.filter (fun g => !((bad.drop (64 * g - base)).take 64).any (fun b => b))
  match (if c.out then portOb c.port else none) with
  | some b =>
    let s := { s with struck := strikesLeft s (fun x => match x with
      | .seg u g => u == t && g / 288 == b && whole.contains (g % 288)
      | .line _ => false
      | .block _ _ _ => false
      | .header _ _ => false) }
    updCore s t (fun x => { x with
      obBad := clean.foldl (fun m g => setD false (obSeg b g) false m) x.obBad,
      -- what an earlier fill left unwritten is written now
      ends := x.ends.map (fun e => if e.2.1 = b then (e.1, e.2.1, e.2.2.filter (fun g => !clean.contains g)) else e) })
  | none => clean.foldl (fun s g => setLinePoison s (64 * g) false) s

/-- R238, R187: word j of what a chunk writes in the device is written. -/
def writeWord (s : State) (t : Nat) (c : Cmd) (k : Chunk) (j : Nat) : State :=
  if !canWrite s t c k j then s
  else
    let r := convertBytes c k.data k.bad
    let p := wordPart (dstBase t c k) (dstLen c k) j
    let o := p.1 - dstBase t c k
    let data := (r.1.drop o).take p.2
    let bad := (r.2.drop o).take p.2
    let s := match (if c.out then portOb c.port else none) with
      | some b => writeOb s t b p.1 data bad
      | none => writeRange s p.1 data bad
    let k := { k with dst := j :: k.dst }
    putChunk (if allWritten t c k then filled s t c k r.2 else s) t c k

/-- R295: the engine finds the first element of a command whose check failed, and starts no further chunk of it. -/
def findFault (s : State) (t : Nat) (c : Cmd) : State :=
  match pick (fun (k : Chunk) => k.flt) c.chunks with
  | none => s
  | some (f, cls) => holdCmd s t { c with
      held := some ⟨cls, some (BitVec.ofNat 53 (patA c.pat f)), 0⟩, chunks := c.chunks.filter (fun k => k.flt.isNone) }

/-- R207, R290: a chunk is done: all of it is written at its destination, or it leaves for a host or a peer, or its acknowledgement has
come. -/
def chunkDone (s : State) (t : Nat) (c : Cmd) (k : Chunk) : State :=
  if k.flt.isSome then findFault s t c
  else if k.waiting || k.cut then s
  else if c.out && k.path.remote && k.sent then chunkEnd s t c k
  else if writeLost s t c k then chunkEnd (lostChunk s c k) t c k
  else if c.out && k.path.remote then (if allRead t c k then sendChunk s t c k else s)
  else if !allWritten t c k then s
  else if c.out && !(portOb c.port).isSome && (answerRoute s t k.path k.pa).isNone then chunkEnd (lostChunk s c k) t c k
  else chunkEnd s t c k

/-- R290: STREAM_CHUNK_DONE: the chunk of an engine's command that begins at element `chunk`. -/
def execStreamChunkDone (tile eng chunk : Nat) (s : State) : Result :=
  .next (if asleep s tile then s
  else match pick (fun c => (c.chunks.find? (fun k => k.id == chunk)).map (fun k => (c, k))) (engOf (coreAt s tile) eng) with
  | none => s
  | some (c, k) => chunkDone s tile c k)

/-- A remote answer to the request of a chunk: bytes of a read, or the acknowledgement of a write to a peer (R246, R247); a posted write
has none of its own (R280). -/
def chunkAnswer (s : State) (id : Nat) (ext : Ext) : State :=
  match (if id % 64 = 0 then chunkAt s (id / 64) else none) with
  | none => s
  | some (t, c, k) =>
    if !k.waiting || k.cut || (c.out && k.path == .host) then s
    else if c.out then
      (if ext.err then putChunk (lostChunk s c k) t c { k with waiting := false } else putChunk s t c { k with waiting := false })
    else
      let len := srcLen c k
      let (s, bytes) : State × List Byte :=
        if ext.err || ext.bytes.length < len then
          let (s, v) := freeWord s len
          (s, leBytes len v)
        else (s, ext.bytes.take len)
      putChunk s t c (k.whole t c bytes (List.replicate len (ext.err || ext.ep || ext.bytes.length < len)))

/-- R51, Table 2.8: a chunk that was cut, or that had no answer in time: a read is made again, and what it had read stays read, unless its
source is lost: then it reads poison, but for what it has passed on. A write takes the store row. -/
def chunkFate (s : State) (t : Nat) (c : Cmd) (k : Chunk) : State :=
  if c.out then chunkEnd (lostChunk s c k) t c k
  else if !portGone s k && !chunkRoutes s t c k.path k.pa then s
  else if k.waiting then
    let (s, k) := requestChunk s t c { k with cut := false }
    putChunk s t c k
  else
    let passed := k.dst.flatMap (feeders t c k)
    putChunk s t c { k with cut := false, src := if portGone s k then k.src.filter (fun j => passed.contains j) else k.src }

end Sys2Proof.Machine
end

