-- ==== Sys2Proof/Machine/Checkpoint.lean ====
section
/-! DEFINITION. The checkpoint service (R364). -/

namespace Sys2Proof.Machine

/-- The Cufort ports whose links are up, in ascending number. -/
def upPorts (s : State) : List Nat := (upTo 144).filter (linkIsUp s)

/-- How many Cufort ports have their links up. -/
def portsUp (s : State) : Nat := (upPorts s).length

/-- R364: ms.ckst with a checkpoint ended or refused. -/
def ckEnd (s : State) (res gib : Nat) : State := msPut s 0x831 (BitVec.ofNat 64 (gib * 2 ^ 32 + res * 4 + 2))

/-- R364: a write to ms.ckreq: refused while busy, when malformed, or with too few links. -/
def ckRequest (s : State) (v mask : Word) : State :=
  if msField s 0x831 0 1 = 1 then msSetField s 0x831 2 3 1
  else
    let s := msWriteBits s 0x830 v mask
    let what := msField s 0x830 0 2
    let n := msField s 0x830 16 8
    let dev := msField s 0x830 32 12
    if what = 0 || n < 56 || 144 < n || dev = 0xFFF || dev = devId s then ckEnd s 2 0
    else if portsUp s < n then ckEnd s 3 0
    else msPut { s with ckpt := some ⟨what, n, dev⟩ } 0x831 (BitVec.ofNat 64 ((msRaw s 0x831).toNat / 2 % 2 * 2 + 1))

/-- R364: CHECKPOINT_REQUEST. -/
def execCheckpointRequest (v : Word) (s : State) : Result := .next (ckRequest s v (BitVec.allOnes 64))

/-- R364: whether a checkpoint sends a line: by its selection, and not in a slice of a site that is not home-capable. -/
def ckTakes (s : State) (what line : Nat) : Bool :=
  let a := 64 * line
  if a < 0x020000000000 then what / 2 % 2 == 1
  else a < 0x039000000000 && what % 2 == 1 && homeCapable s (sliceOf a)

/-- The lines of memory that hold a listed byte or poison, in ascending order; every other line holds blank bytes. -/
def listedLines (s : State) : List Nat :=
  (s.poison.foldl (fun m e => put e.1 () m) (s.mem.foldl (fun m e => put (e.1 / 64) () m) ([] : Map Unit))).map (fun e => e.1)

/-- R364: the GiB of a whole selection. -/
def ckGib (s : State) (what : Nat) : Nat :=
  (if what % 2 = 1 then ((upTo Config.sites).filter (fun n => homeCapable s (tileOfSite n))).length / 16 else 0) +
  (if what / 2 % 2 = 1 then 2048 else 0)

/-- R364: the runs of lines that a checkpoint sends, each with its first line and its length, in ascending address: the stacks, and the
slices of home-capable sites. -/
def ckRanges (s : State) (what : Nat) : List (Nat × Nat) :=
  (if what / 2 % 2 = 1 then (upTo 32).map (fun n => (n * 0x1000000000 / 64, 0x40000000)) else []) ++
  (if what % 2 = 1 then ((upTo 25600).filter (homeCapable s)).map (fun t =>
    ((0x020000000000 + t * 0x4000000) / 64, 0x100000)) else [])

/-- The lines from one to an end, of which some hold a listed byte or poison: each of those by itself, and each run of others. -/
def ckLines (s : State) (c : Checkpoint) (ports : List Nat) (lo hi : Nat) : List Nat → List Out
  | [] => if lo < hi then [.ckptBlank c.dev ports (64 * lo) (hi - lo) (stackFailed s (64 * lo))] else []
  | k :: l =>
    (if lo < k then [.ckptBlank c.dev ports (64 * lo) (k - lo) (stackFailed s (64 * lo))] else []) ++
    .ckpt c.dev (nth 0 ports (Config.ckptPort k % ports.length)) (64 * k) (readBytes s (64 * k) 64)
      (linePoison s (64 * k) || stackFailed s (64 * k)) :: ckLines s c ports (k + 1) hi l

/-- R364: all that a checkpoint sends, on the lowest-numbered ports whose links are up, each at its abutment (R19). -/
def ckSend (s : State) (c : Checkpoint) : List Out :=
  let ports := (upPorts s).take c.nport
  let listed := (listedLines s).filter (ckTakes s c.what)
  (ckRanges s c.what).flatMap (fun r =>
    ckLines s c ports r.1 (r.1 + r.2) (listed.filter (fun k => r.1 ≤ k && k < r.1 + r.2)))

/-- R261, R364: what a checkpoint reads is found uncorrectable where it is. -/
def ckFind (s : State) (what : Nat) : State := (ckRanges s what).foldl (fun s r => discover s (64 * r.1) (64 * r.2)) s

/-- R356: whether every stack that a checkpoint reads has ended its training. -/
def ckReady (s : State) (what : Nat) : Bool := (ckRanges s what).all (fun r => stackReady s (64 * r.1))

/-- R364: CHECKPOINT_END: it completed, with every line of its selection sent, or a target error or route failure ended it. -/
def execCheckpointEnd (res : Nat) (s : State) : Result :=
  .next (match s.ckpt with
  | none => s
  | some c =>
    let fin (s : State) : State := logEvent s 6 [msRaw s 0x831]
    if res = 0 then if !ckReady s c.what then s else
      let s := ckFind s c.what
      fin (ckEnd { s with ckpt := none, outHost := s.outHost ++ ckSend s c } 0 (ckGib s c.what))
    else if res = 4 then
      -- how much was sent is not given (log entry 7)
      let (s, v) := freeWord { s with ckpt := none } 4
      fin (ckEnd s 4 v)
    else s)

end Sys2Proof.Machine
end

