-- ==== Sys2Proof/Machine/Control.lean ====
section
/-! DEFINITION. Class C: branches, NOP, TEND, YIELD, TRAP and SLEEP (R155, R387, R388, R414, R423, R436, R452, R457, R471,
R474, R521). Opening a bundle sets the pc past it; a taken branch replaces it. -/

namespace Sys2Proof.Machine

/-- The bytes of the issuing core's scratchpad: the end of its program space. -/
def codeEnd (s : State) : Nat := padSize s.tile
/-- The pc after the bundle. -/
def nextPc (s : State) : Nat := s.issue.pc.toNat + 8 * s.issue.words.length
/-- R388: a relative target, exact. -/
def target (s : State) (off : BitVec 28) : Int := s.issue.pc.toNat + 8 * off.toInt
/-- The issuing thread's pc replaced. -/
def setPc (s : State) (pc : Nat) : State := updIssuer s (fun th => { th with pc := BitVec.ofNat 64 pc })

/-- R155, R388: a taken relative branch; a target outside the scratchpad raises PERM with that target (log entry 20). -/
def jumpTo (s : State) (off : BitVec 28) (k : State → State) : State :=
  let t := target s off
  if t < 0 || (codeEnd s : Int) ≤ t then freeze s .perm (some (t % 2 ^ 53).toNat) 0
  else k (setPc s t.toNat)

/-- R387, R388: BR. -/
def execBr (g : PReg) (off : BitVec 28) (s : State) : Result := syllable s g (fun _ => jumpTo s off (fun s => s))

/-- R388: the test of a BRP. -/
def testP (t : PTest) (x : Word) : Bool :=
  match t with
  | .any => x != 0
  | .all => x == BitVec.allOnes 64
  | .none => x == 0

/-- R387, R388: BRP. -/
def execBrp (g : PReg) (t : PTest) (q : PReg) (off : BitVec 28) (s : State) : Result :=
  syllable s g (fun _ => if testP t (rdP s q) then jumpTo s off (fun s => s) else s)

/-- R387, R388: CALL. -/
def execCall (g : PReg) (a : SReg) (off : BitVec 28) (s : State) : Result :=
  syllable s g (fun _ => jumpTo s off (fun t => wrS t a (nextPc s) false))

/-- R414: a jump to a register's held value. -/
def jumpReg (s : State) (a : SReg) : State :=
  let v := (rdS s a).val.toNat
  if v % 8 != 0 then freeze s .align (some v) 8
  else if codeEnd s ≤ v then freeze s .perm (some v) 0
  else setPc s v

/-- R414: JMP. -/
def execJmp (g : PReg) (a : SReg) (s : State) : Result := syllable s g (fun _ => jumpReg s a)
/-- R452: RET. -/
def execRet (g : PReg) (a : SReg) (s : State) : Result := syllable s g (fun _ => jumpReg s a)

/-- R423: LOOP. -/
def execLoop (g : PReg) (a : SReg) (off : BitVec 28) (s : State) : Result :=
  syllable s g (fun _ =>
    let x := rdS s a
    if x.val = 0 then s
    else
      let put (t : State) := setRegs t (fun r => r.wrS a ⟨x.val - 1, x.poison⟩)
      if x.val - 1 = 0 then put s else jumpTo s off put)

/-- R436: NOP. -/
def execNop (g : PReg) (s : State) : Result := syllable s g (fun _ => s)

/-- R521: YIELD. -/
def execYieldC (g : PReg) (s : State) : Result :=
  syllable s g (fun _ => updIssuer s (fun th => { th with status := .waiting .yield }))

/-- R474: TRAP. -/
def execTrap (g : PReg) (code : BitVec 24) (s : State) : Result :=
  syllable s g (fun _ => freeze s .trapsw none (code.setWidth 64))

/-- R457: SLEEP: the bundle commits once its tile has counted that many cycles from its issue. -/
def execSleep (g : PReg) (n : BitVec 24) (s : State) : Result :=
  syllable s g (fun _ =>
    if n.toNat ≤ ((coreAt s s.tile).cyc - s.issue.cyc).toNat then s else waitFor s (.sleep (s.issue.cyc + n.setWidth 64)))

/-- R226, R298, R471: whether TEND commits: no command or matrix operation of an earlier bundle is left, and no register
write is outstanding. -/
def tendReady (s : State) (th : Thread) : Bool :=
  let c := coreAt s s.tile
  (c.eng0 ++ c.eng1).all (fun d => d.uid != th.uid || s.issue.ord0 ≤ d.ord) &&
  c.mq.all (fun m => m.uid != th.uid || s.issue.ord0 ≤ m.ord) &&
  s.inflight.all (fun a => a.uid != th.uid || a.dst == .none || s.issue.acc0 ≤ a.id)

/-- R323: what a handler that ends leaves: a thread still frozen under its capability is killed and the event logged. -/
def handlerEnd (s : State) (th : Thread) : State :=
  match th.regs.k0 with
  | none => s
  | some c => match keyOfUid s c.uid with
    | none => s
    | some k => match threadAt s k with
      | none => s
      | some v =>
        if v.fzGen == c.gen && v.status == .frozen then
          let s := match v.fault with
            | none => s
            | some r => logEvent s 5 (recWords r)
          killThread s k
        else s

/-- R323, R358, R471: a thread ends at its TEND. -/
def endThread (s : State) (k : Nat) (th : Thread) : State :=
  let t := tileOf k
  let s := dropThread (withdrawAll s t th) k
  match th.kind with
  | .task => fill (releaseFile (countRun (freeEntries s (identOf th)) t th) t th.uid) t
  | .handler _ _ => takeRecord (handlerEnd s th) t
  | .alert _ => nextAlert s

/-- Whether the thread that a handler serves is being moved (R341): its handler's TEND waits for it (log entry 21). -/
def servedSaved (s : State) (th : Thread) : Bool :=
  match th.regs.k0 with
  | none => false
  | some c => s.saved.any (fun v => v.th.uid == c.uid && v.th.fzGen == c.gen)

/-- R471: TEND. -/
def execTend (g : PReg) (s : State) : Result :=
  syllable s g (fun th =>
    if !tendReady s th || (th.kind != .task && servedSaved s th) then waitFor s .cond
    else endThread s s.issue.key th)

end Sys2Proof.Machine
end

