-- ==== Sys2Proof/Machine/Bundle.lean ====
section
/-! DEFINITION. The bundle: what its syllables read and write, its decode checks (R111, R112, R119, R139, R147, R156 to R158),
and what it needs before it can issue (R113, R133, R211, R215, R218). -/

namespace Sys2Proof.Machine

/-- A register of a file. -/
inductive RegName where
  | s (r : SReg)
  | v (r : VReg)
  | p (r : PReg)
  | sh (r : ShReg)
  | g (r : GReg)
  deriving DecidableEq, Repr

/-- The register that the operand of a frozen-state instruction names (R408). -/
def fileReg (file : File) (r : BitVec 6) : RegName := if file.isVector then .v (r.setWidth 5) else .s r

/-- The registers that a syllable writes; one not listed here writes none. -/
def writesOf (i : Instr) : List RegName :=
  match i with
  | .add _ _ d _ _ | .addImmediate _ _ d _ _ | .sub _ _ d _ _ | .subImmediate _ _ d _ _ | .mul _ _ d _ _
  | .mulImmediate _ _ d _ _ | .mulh _ _ d _ _ | .mulhImmediate _ _ d _ _ | .divS _ _ d _ _ | .divSImmediate _ _ d _ _
  | .rem _ _ d _ _ | .remImmediate _ _ d _ _ | .andS _ _ d _ _ | .andSImmediate _ _ d _ _ | .orS _ _ d _ _
  | .orSImmediate _ _ d _ _ | .xor _ _ d _ _ | .xorImmediate _ _ d _ _ | .andn _ _ d _ _ | .andnImmediate _ _ d _ _
  | .shl _ _ d _ _ | .shlImmediate _ _ d _ _ | .shr _ _ d _ _ | .shrImmediate _ _ d _ _ | .sra _ _ d _ _
  | .sraImmediate _ _ d _ _ | .minS _ _ d _ _ | .minSImmediate _ _ d _ _ | .maxS _ _ d _ _ | .maxSImmediate _ _ d _ _
  | .sel _ d _ _ _ | .limm _ d _ | .clz _ _ d _ | .popc _ _ d _ | .bfx _ _ d _ _ _ | .bfi _ _ d _ _ _
  | .fadd _ _ _ d _ _ | .fsub _ _ _ d _ _ | .fmul _ _ _ d _ _ | .ffma _ _ _ d _ _ _ | .fmin _ _ d _ _
  | .fmax _ _ d _ _ | .fcvt _ _ _ _ _ _ d _ | .pcnt _ d _ | .pmovToScalar _ d _ | .vred _ _ _ _ d _ | .vext _ _ d _ _
  | .ld _ _ d _ _ _ | .amo _ _ _ _ _ d _ _ _ | .acas _ _ _ _ d _ _ _ _ | .strm _ _ _ _ _ _ _ _ _ _ d _ _ _
  | .csrr _ d _ | .frzinf _ d _ _ | .clsrd _ d _ => [.s d]
  | .cmp _ _ _ d _ _ | .cmpImmediate _ _ _ d _ _ | .fcmp _ _ _ d _ _ | .pand _ d _ _ | .por _ d _ _ | .pxor _ d _ _
  | .pnot _ d _ | .pfirst _ d _ | .pmov _ d _ | .pmovFromScalar _ d _ | .vcmp _ _ _ d _ _ => [.p d]
  | .vadd _ _ _ d _ _ | .vsub _ _ _ d _ _ | .vmul _ _ _ d _ _ | .vmulh _ _ d _ _ | .vmin _ _ d _ _ | .vmax _ _ d _ _
  | .vand _ _ d _ _ | .vor _ _ d _ _ | .vxor _ _ d _ _ | .vshl _ _ d _ _ | .vshr _ _ d _ _ | .vsra _ _ d _ _
  | .vfma _ _ _ d _ _ _ | .vabs _ _ d _ | .vneg _ _ d _ | .vmov _ _ d _ | .vclass _ _ d _ | .vrcp _ _ _ d _
  | .vrsq _ _ _ d _ | .vexp2 _ _ _ d _ | .vlog2 _ _ _ d _ | .vsel _ d _ _ _ | .vbcast _ _ d _ | .viota _ _ d _
  | .vperm _ d _ _ | .vcomp _ d _ _ | .vscan _ _ _ _ d _ | .vcvt _ _ _ _ _ _ d _ | .vins _ _ d _ _ | .vdqnt _ _ d _ _
  | .vcbd _ _ d _ _ | .vpack _ _ _ _ _ _ d _ _ | .vunpk _ _ _ _ d _ | .vld _ _ d _ _ _ | .vgather _ _ d _ _ _ => [.v d]
  | .vqnt _ _ _ _ _ d c _ => [.v d, .v c]
  | .mrd _ v _ _ => [.v v]
  | .mshape _ sh _ _ => [.sh sh]
  | .gset _ gr _ _ => [.g gr]
  | .spawn _ d c _ => [.s d, .s c]
  | .call _ a _ | .loop _ a _ => [.s a]
  | .frzrd _ file d _ _ => [fileReg file d]
  | _ => []

/-- The scalar, vector and shape registers that a syllable reads, a vector destination with disabled lanes among them; one
not listed here reads none. -/
def readsOf (i : Instr) : List RegName :=
  match i with
  | .add _ _ _ a b | .sub _ _ _ a b | .mul _ _ _ a b | .mulh _ _ _ a b | .divS _ _ _ a b | .rem _ _ _ a b
  | .andS _ _ _ a b | .orS _ _ _ a b | .xor _ _ _ a b | .andn _ _ _ a b | .shl _ _ _ a b | .shr _ _ _ a b
  | .sra _ _ _ a b | .minS _ _ _ a b | .maxS _ _ _ a b | .cmp _ _ _ _ a b | .sel _ _ _ a b | .fadd _ _ _ _ a b
  | .fsub _ _ _ _ a b | .fmul _ _ _ _ a b | .fmin _ _ _ a b | .fmax _ _ _ a b | .fcmp _ _ _ _ a b | .ld _ _ _ a b _
  | .pref _ a b _ | .amo _ _ _ _ _ _ a _ b => [.s a, .s b]
  | .addImmediate _ _ _ a _ | .subImmediate _ _ _ a _ | .mulImmediate _ _ _ a _ | .mulhImmediate _ _ _ a _
  | .divSImmediate _ _ _ a _ | .remImmediate _ _ _ a _ | .andSImmediate _ _ _ a _ | .orSImmediate _ _ _ a _
  | .xorImmediate _ _ _ a _ | .andnImmediate _ _ _ a _ | .shlImmediate _ _ _ a _ | .shrImmediate _ _ _ a _
  | .sraImmediate _ _ _ a _ | .minSImmediate _ _ _ a _ | .maxSImmediate _ _ _ a _ | .cmpImmediate _ _ _ _ a _
  | .clz _ _ _ a | .popc _ _ _ a | .bfx _ _ _ a _ _ | .fcvt _ _ _ _ _ _ _ a | .pmovFromScalar _ _ a | .binrst _ a _
  | .swait _ a | .scancel _ a | .gset _ _ _ a | .jmp _ a | .ret _ a | .loop _ a _ | .csrw _ _ a | .resumeAtPc _ _ a
  | .tlbinv _ a | .tlbinvAll _ a | .clsrd _ _ a => [.s a]
  | .bfi _ _ d a _ _ => [.s a, .s d]
  | .ffma _ _ _ _ a b c | .acas _ _ _ _ _ a _ b c => [.s a, .s b, .s c]
  | .vadd _ _ _ d a b | .vsub _ _ _ d a b | .vmul _ _ _ d a b | .vmulh _ _ d a b | .vmin _ _ d a b | .vmax _ _ d a b
  | .vand _ _ d a b | .vor _ _ d a b | .vxor _ _ d a b | .vshl _ _ d a b | .vshr _ _ d a b | .vsra _ _ d a b
  | .vsel _ d _ a b | .vperm _ d a b | .vdqnt _ _ d a b | .vcbd _ _ d a b | .vpack _ _ _ _ _ _ d a b => [.v a, .v b, .v d]
  | .vfma _ _ _ d a b c => [.v a, .v b, .v c, .v d]
  | .vabs _ _ d a | .vneg _ _ d a | .vmov _ _ d a | .vclass _ _ d a | .vrcp _ _ _ d a | .vrsq _ _ _ d a
  | .vexp2 _ _ _ d a | .vlog2 _ _ _ d a | .vcomp _ d _ a | .vscan _ _ _ _ d a | .vcvt _ _ _ _ _ _ d a
  | .vunpk _ _ _ _ d a => [.v a, .v d]
  | .vcmp _ _ _ _ a b => [.v a, .v b]
  | .vbcast _ _ d a | .viota _ _ d a => [.s a, .v d]
  | .vred _ _ _ _ _ a => [.v a]
  | .vext _ _ _ a b => [.v a, .s b]
  | .vins _ _ d a b | .vld _ _ d a b _ | .vst _ _ d a b _ => [.s a, .s b, .v d]
  | .vqnt _ _ _ _ _ d c a => [.v a, .v c, .v d]
  | .mma _ _ _ _ sh _ _ | .mmacb _ _ _ _ _ sh _ _ => [.sh sh]
  | .mrd _ _ _ b | .mshape _ _ b _ | .spawn _ _ _ b | .frzrd _ _ _ _ b | .frzinf _ _ _ b => [.s b]
  | .mwr _ _ v b => [.v v, .s b]
  | .st _ _ d a b _ => [.s a, .s b, .s d]
  | .vgather _ _ d a b _ | .vscatter _ _ d a b _ | .vscadd _ _ d a b _ | .binapp _ _ d a b _ => [.s a, .v b, .v d]
  | .pub _ _ _ n b c => [.s (pairLo n), .s (pairHi n), .s b, .s c]
  | .subs _ _ n | .unsub _ n | .drop _ n => [.s (pairLo n), .s (pairHi n)]
  | .await _ _ n b => [.s (pairLo n), .s (pairHi n), .s b]
  | .frzwr _ file _ b a => [.s b, fileReg file a]
  | .strm _ _ _ _ _ _ _ _ _ _ _ _ a n => if n = 0 then [.s a] else [.s a, .s (pairLo n), .s (pairHi n)]
  | _ => []

/-- The accumulator that an M syllable names. -/
def acOf (i : Instr) : Option AcReg :=
  match i with
  | .mma _ _ _ ac _ _ _ | .mmacb _ _ _ _ ac _ _ _ | .mzero _ ac | .mrd _ _ ac _ | .mwr _ ac _ _ => some ac
  | _ => none

/-- The control register that a syllable names. -/
def csrOf (i : Instr) : Option (BitVec 12) :=
  match i with
  | .csrr _ _ n | .csrw _ n _ => some n
  | _ => none

/-- R157: the lowest privilege that may execute a syllable: 0 task, 1 handler, 2 system. -/
def privOf (i : Instr) : Nat :=
  match i with
  | .tlbinv _ _ | .tlbinvAll _ _ => 2
  | .csrr _ _ n | .csrw _ n _ => if 0x800 ≤ n.toNat then 2 else 0
  | .frzrd _ _ _ _ _ | .frzwr _ _ _ _ _ | .frzinf _ _ _ _ | .resume _ _ | .resumeAtPc _ _ _ | .kill _ _ | .clsrd _ _ _
  | .barx _ _ _ => 1
  | _ => 0

/-! Decode checks. -/

/-- Whether a word is an X syllable. -/
def isX (w : Word) : Bool := w.extractLsb' 60 3 == 6#3
/-- The class field of a word. -/
def wordCls (w : Word) : Nat := (w.extractLsb' 60 3).toNat
/-- How many payload bits the syllable of a word lets an X syllable use. -/
def wordX (w : Word) : Option Nat := (Syl.ofWord w none).xBits

/-- The extension of syllable i, where Table 6.6 gives it one. -/
def extOf (ws : List Word) (i : Nat) : Option (BitVec 60) :=
  let x := nth 0 ws (i + 1)
  if i + 1 < ws.length && isX x && (wordX (nth 0 ws i)).isSome then some (x.extractLsb' 0 60) else none

/-- Syllable i of a bundle decoded. -/
def decodeAt (ws : List Word) (i : Nat) : Except Illegal Instr := decodeSyl (Syl.ofWord (nth 0 ws i) (extOf ws i))

/-- The syllables of a bundle that decode, by index. -/
def instrsOf (ws : List Word) : List (Nat × Instr) :=
  (upTo ws.length).filterMap (fun i =>
    if isX (nth 0 ws i) then none
    else match decodeAt ws i with
      | .ok j => some (i, j)
      | .error _ => none)

/-- R111: the limit of a class. -/
def classLimit (c : Nat) : Nat := if c < 3 then 2 else if c < 6 then 1 else 6

/-- The reasons of Table 6.15 that syllable i breaks by itself. -/
def ownReasons (ws : List Word) (i : Nat) : List Nat :=
  let w := nth 0 ws i
  if isX w then
    if i = 0 then [3]
    else match wordX (nth 0 ws (i - 1)) with
      | none => [3]
      | some n => if w.extractLsb' 0 60 >>> n == 0 then [] else [8]
  else match decodeAt ws i with
    | .ok _ => []
    | .error r => [r.why]

/-- Whether a bundle exceeds the limit of a class at syllable i (reason 5). -/
def overLimit (ws : List Word) (i : Nat) : Bool :=
  let c := wordCls (nth 0 ws i)
  !isX (nth 0 ws i) && classLimit c ≤ ((upTo i).filter (fun j => wordCls (nth 0 ws j) == c)).length

/-- The registers whose second write is an error: all but s0 and p0. -/
def realWrites (i : Instr) : List RegName := (writesOf i).filter (fun r => r != .s 0 && r != .p 0)

/-- The bank of the accumulator that an M syllable names. -/
def bankOfM (i : Instr) : Option Nat := (acOf i).map (fun a => a.toNat / 2)

/-- The reasons 9 to 12 that a syllable breaks after the syllables before it; `noM` in a handler or keystone thread. -/
def lateReasons (noM : Bool) (ws : List Word) (before : List (Nat × Instr)) (i : Nat) (x : Instr) : List Nat :=
  let r := realWrites x
  (if r.any (fun y => 1 < r.count y || before.any (fun e => (realWrites e.2).contains y)) then [9] else []) ++
  (if (bankOfM x).isSome && before.any (fun e => bankOfM e.2 == bankOfM x) then [10] else []) ++
  (if noM && wordCls (nth 0 ws i) == 2 then [11] else []) ++
  (match csrOf x with
  | some n => if csrAssigned n then [] else [12]
  | none => [])

/-- R156: the reasons that a bundle breaks at index i. -/
def reasonsAt (noM : Bool) (ws : List Word) (i : Nat) : List Nat :=
  let l := instrsOf ws
  ownReasons ws i ++ (if overLimit ws i then [5] else []) ++
  (if i = 5 && !(nth 0 ws 5).getLsbD 63 then [4] else []) ++
  l.flatMap (fun e => if e.1 = i then lateReasons noM ws (l.filter (fun f => f.1 < i)) i e.2 else [])

/-- The smallest of some numbers. -/
def leastNat : List Nat → Option Nat
  | [] => none
  | a :: l => match leastNat l with
    | none => some a
    | some b => some (if a ≤ b then a else b)

/-- R156: the rule reported: the lowest index, and there the lowest reason. -/
def firstIllegal (noM : Bool) (ws : List Word) : Option (Nat × Nat) :=
  pick (fun i => (leastNat (reasonsAt noM ws i)).map (fun r => (i, r))) (upTo ws.length)

/-- R157: the lowest syllable above a privilege. -/
def firstPriv (priv : Nat) (ws : List Word) : Option Nat :=
  pick (fun e => if priv < privOf e.2 then some e.1 else none) (instrsOf ws)

/-- Table 6.16: the auxiliary word of a decode fault. An X syllable has no opcode (R136): where it is charged, the op field holds its
payload bits [59:52], where the others have theirs (DESIGN CHOICE, log entry 90). -/
def decodeAux (ws : List Word) (i why : Nat) : Word :=
  let w := nth 0 ws i
  BitVec.ofNat 64 (wordCls w * 2 ^ 24 + (w.extractLsb' 52 8).toNat * 2 ^ 16 + i * 2 ^ 8 + why)

/-- What decode makes of a bundle: its syllables in order, or the class, index and reason of its fault. -/
inductive Decoded where
  | ok (l : List (Nat × Instr))
  | bad (cls : FaultClass) (i why : Nat)
  deriving DecidableEq, Repr

/-- R156, R157: the decode of a bundle for a thread. -/
def decodeBundle (noM : Bool) (priv : Nat) (ws : List Word) : Decoded :=
  match firstIllegal noM ws with
  | some (i, r) => .bad .illegal i r
  | none => match firstPriv priv ws with
    | some i => .bad .priv i 0
    | none => .ok (instrsOf ws)

/-- R119: whether a thread may hold no M syllable. -/
def noMatrix (k : Nat) (th : Thread) : Bool := isKs (tileOf k) || th.kind != .task

/-- R139, R156, R157: the next bundle of a thread: its words, none where it cannot be fetched, and its decode. -/
def nextBundle (s : State) (k : Nat) (th : Thread) : Option (List Word × Decoded) :=
  (fetchBundle s (tileOf k) th.fetched th.pc.toNat).map (fun ws => (ws, decodeBundle (noMatrix k th) th.priv ws))

/-! What a bundle needs to issue. -/

/-- Whether the guard of a syllable lets it draw, enter a queue, or do anything at all (R114). -/
def guardLives (r : Regs) (g : PReg) (vector : Bool) : Bool := if vector then r.rdP g != 0 else (r.rdP g).getLsbD 0

/-- R133: whether a syllable draws an entry of the random-bit queue. -/
def drawsEntry (r : Regs) (i : Instr) : Bool :=
  let sr (m : Rm) : Bool := Mode.ofCode (m.mode r.rm) == .sr
  match i with
  | .fadd g _ m _ _ _ | .fsub g _ m _ _ _ | .fmul g _ m _ _ _ | .ffma g _ m _ _ _ _ => guardLives r g false && sr m
  | .vadd g ty m _ _ _ | .vsub g ty m _ _ _ | .vmul g ty m _ _ _ | .vfma g ty m _ _ _ _ =>
    guardLives r g true && ty.isFloat && sr m
  | .vrcp g _ m _ _ | .vrsq g _ m _ _ | .vexp2 g _ m _ _ | .vlog2 g _ m _ _ | .vqnt g _ m _ _ _ _ _ =>
    guardLives r g true && sr m
  | .vred g ty op m _ _ | .vscan g ty op m _ _ => guardLives r g true && redDraws ty op && sr m
  | .fcvt g ty src m _ _ _ _ => guardLives r g false && cvtDraws ty src && sr m
  | .vcvt g ty src m _ _ _ _ | .vpack g ty src m _ _ _ _ _ => guardLives r g true && cvtDraws ty src && sr m
  | .mma g _ m _ _ _ _ | .mmacb g _ m _ _ _ _ _ => guardLives r g false && sr m
  | _ => false

/-- R215: whether a syllable enters the matrix queue. -/
def entersQueue (r : Regs) (i : Instr) : Bool :=
  match i with
  | .mma g _ _ _ _ _ _ | .mmacb g _ _ _ _ _ _ _ | .mzero g _ | .mrd g _ _ _ | .mwr g _ _ _ => guardLives r g false
  | _ => false

/-- The register that an access writes when it returns. -/
def dstName : Dst → Option RegName
  | .none => none
  | .s r => some (.s r)
  | .v r => some (.v r)
  | .sh r => some (.sh r)
  | .payload => none

/-- R113: whether an access of a thread holds a bundle back that reads or writes some registers. -/
def holdsBack (u : Nat) (regs : List RegName) (a : Access) : Bool :=
  a.uid == u && (match dstName a.dst with
    | none => false
    | some r => regs.contains r)

/-- What keeps a thread from issuing its next bundle. -/
inductive Ready where
  /-- Nothing. -/
  | go
  /-- A long-latency access, an MRD or a full matrix queue: the thread is switched out (R106, R215, R218). -/
  | away
  /-- A scratchpad or span access: it waits in place (R106). -/
  | stall
  /-- Random bits: it waits in place (R133). -/
  | bits
  deriving DecidableEq, Repr

/-- R106, R113, R133, R215: what keeps a thread of a slot from issuing some syllables. An operation that has started holds its entry of
the matrix queue still, until its last row is written (DESIGN CHOICE, log entry 110). -/
def readiness (s : State) (k : Nat) (th : Thread) (l : List (Nat × Instr)) : Ready :=
  let c := coreAt s (tileOf k)
  let regs := l.flatMap (fun e => readsOf e.2 ++ writesOf e.2)
  let hold := s.inflight.filter (holdsBack th.uid regs)
  let rows := c.mq.any (fun m => m.uid == th.uid && (match m.kind with
    | .mrd v _ _ => regs.contains (.v v)
    | _ => false))
  let q := (l.filter (fun e => entersQueue th.regs e.2)).length
  let n := (l.filter (fun e => drawsEntry th.regs e.2)).length
  if hold.any longAccess || rows || (0 < q && Config.mqSize < c.mq.length + q) then .away
  else if !hold.isEmpty then .stall
  else if th.regs.rng.cnt < (if n < 4 then n else 4) then .bits
  else .go

end Sys2Proof.Machine
end

