-- ==== Sys2Proof/Machine/MemoryEvents.lean ====
section
/-! DEFINITION. The steps of memory: banks, owning points, read-modify-writes, responses, walks, drain tokens, scrubbing
and the random-bit generator (R106, R132, R235, R250, R261, R264, R302, R309). -/

namespace Sys2Proof.Machine

/-- The kinds that a bank performs itself: plain loads and stores. -/
def plain (a : Access) : Bool := a.kind == .load || a.kind == .store

/-- R260, R261: an uncorrectable word is found where a location is read. -/
def foundBad (s : State) (bad : Bool) (pa : Nat) : State := if bad then foundLine s pa else s

/-- What an element of an access does at its owning point: a plain access, or a read-modify-write. -/
def servedBy (s : State) (a : Access) (i : Nat) : State := if plain a then performElem s a i else rmwElem s a i

/-- R236, R250, R270: the elements of an access that a requester's word holds take effect. -/
def serveWord (s : State) (q w : Nat) (a : Access) : State :=
  ((upTo a.elems.length).zip a.elems).foldl (fun s e =>
    if unitOf a e.2.pa == w && requester a e.2.path == some q && elemReady s a e.2 then
      (match accAt s a.id with
      | none => s
      | some b => onRoute s b e.1 e.2 (fun s => servedBy s b e.1))
    else s) s

/-- Word j of a chunk has its instant: one that it reads (below 64) or writes. -/
def serveChunk (s : State) (t : Nat) (c : Cmd) (k : Chunk) (j : Nat) : State :=
  if j < 64 then readWord s t c k j else writeWord s t c k (j - 64)

/-- R235, R236, R250: a bank serves one request. -/
def execBankServe (tile bank : Nat) (bad : Bool) (s : State) : Result :=
  .next (if asleep s tile then s else match nextRequest s tile bank with
  | none => s
  | some (q, r) =>
    let s := updCore s tile (fun c => { c with bankRR := setD 5 bank q c.bankRR })
    match r with
    | .word a w => settle (serveWord (foundBad s (bad && a.kind == .load) (if a.dst = .payload then 4 * w else 8 * w)) q w a) a.id
    | .part t c k j => serveChunk s t c k j)

/-- Whether word j of a chunk lies where no bank serves it: at its port, and not in the span view. -/
def offBank (c : Cmd) (k : Chunk) (j : Nat) : Bool := (decide (j < 64) != c.out) && k.path != .view

/-- The requester and the core of word j of a chunk that banks serve: its engine at its own scratchpad, or the span crossbar. -/
def partAt (t : Nat) (c : Cmd) (k : Chunk) (j : Nat) : Nat × Nat :=
  if decide (j < 64) == c.out then (2 + c.eng, t) else (4, padOwner k.pa)

/-- R235, R264: ACCESS_AT_OWNING_POINT: an element reaches its slice controller or pier and takes effect, or leaves for a host or a peer;
in a scratchpad its request comes to its bank. Where the number is of a chunk, the same for one of the words that it reads (below 64)
or writes. -/
def execAccessAtOwningPoint (id elem : Nat) (bad : Bool) (s : State) : Result :=
  .next (match accAt s id with
  | none => match chunkAt s id with
    | none => s
    | some (t, c, k) =>
      if asleep s t then s
      else if offBank c k elem then serveChunk s t c k elem
      else comeToBank s (partAt t c k elem).2 (partAt t c k elem).1 k.num elem
  | some a => match a.elems[elem]? with
    | none => s
    | some e =>
      if !elemReady s a e then s
      else if e.path.remote then
        (if (requestRoute s a.tile e.path e.pa).isNone || (answerRoute s a.tile e.path e.pa).isNone then discarded s a elem
        else sendElem s a elem)
      else match requester a e.path with
        | some q => comeToBank s (padOwner e.pa) q a.id (unitOf a e.pa)
        | none =>
          if !plain a then s
          else settle (onRoute s a elem e (fun s => performElem (foundBad s (bad && a.kind == .load) e.pa) a elem)) id)

/-- R235: a read-modify-write takes its turn at the bank of its word. -/
def takeTurn (s : State) (a : Access) (e : Elem) : State :=
  match requester a e.path with
  | none => s
  | some q => updCore s (padOwner e.pa) (fun c => { c with bankRR := setD 5 (bankOf e.pa) q c.bankRR })

/-- R250: RMW_PERFORM: a read-modify-write at a slice controller or a pier, or the one whose turn it is at the bank of its word. -/
def execRmwPerform (id elem : Nat) (s : State) : Result :=
  .next (match accAt s id with
  | none => s
  | some a => match a.elems[elem]? with
    | none => s
    | some e =>
      if plain a || e.path.remote || !elemReady s a e || (e.path.pad && (asleep s (padOwner e.pa) || !hasTurn s a e)) then s
      else settle (onRoute (takeTurn s a e) a elem e (fun s => rmwElem s a elem)) id)

/-- R246: what a response carries for an element whose packet began at `lo`: its bytes and poison. -/
def extFor (s : State) (ext : Ext) (lo : Nat) (e : Elem) : State × Word × Bool :=
  let l := (ext.bytes.drop (e.pa - lo)).take e.w
  if ext.err || l.length < e.w then
    let (s, v) := freeWord s e.w
    (s, BitVec.ofNat 64 v, true)
  else (s, BitVec.ofNat 64 (leNat l), ext.ep)

/-- The access with an id retires, when every element has taken effect, no answer was cut, and nothing holds its response back
(R237). -/
def respond (s : State) (id : Nat) : State :=
  match accAt s id with
  | none => s
  | some a => if answerable s a then retire s id else s

/-- The chunks of a thread's commands that are posted writes to a port, made before a number, acknowledged. -/
def ackChunks (s : State) (uid id port : Nat) : State :=
  let ack (k : Chunk) : Chunk := if k.left ≤ id && k.posts port && !k.cut then { k with waiting := false } else k
  let go (l : List Cmd) : List Cmd := l.map (fun c => if c.uid == uid && c.out then { c with chunks := c.chunks.map ack } else c)
  { s with cores := s.cores.map (fun e => (e.1, { e.2 with eng0 := go e.2.eng0, eng1 := go e.2.eng1 })) }

/-- R280: the completion of a zero-length read acknowledges the earlier posted writes of its thread on the port, those of its stream
commands too. -/
def acknowledge (s : State) (a : Access) (port : Nat) : State :=
  let s := ackChunks s a.uid a.id port
  (s.inflight.filter (fun b => b.uid == a.uid && b.id < a.id && b.posts port)).foldl (fun s b =>
    respond (updAcc s b.id (fun b => { b with elems := b.elems.map (fun e =>
      if e.path == .host && (hostAddr e.pa).1 == port && e.sent then { e with done := true } else e) })) b.id) s

/-- R246, R247, R248, R280: a response or acknowledgement from a host or a peer ends the elements of its packet, but for a posted write
to a host, which has none of its own: only a zero-length read behind it acknowledges it; an error of
a store-type access takes the store row of Table 2.8, with kind 8 for a host AtomicOp (R335). -/
def remoteAnswer (s : State) (a : Access) (i : Nat) (ext : Ext) : State :=
  let l := (answered a i).filter (fun f => f.2.path.remote)
  match a.elems[i]? with
  | none => s
  | some e =>
    if l.isEmpty then s
    else if e.path == .host && a.kind == .store then s
    else if e.w = 0 then acknowledge (l.foldl (fun s f => elemDone s a.id f.1 0 false) s) a (hostAddr e.pa).1
    else if ext.err && a.kind != .load then elemLost s a i (if e.path == .host && a.kind != .store then 8 else 7)
    else
      let lo := (travels a i e).foldl (fun m f => if f.2.pa < m then f.2.pa else m) e.pa
      l.foldl (fun s f =>
        if a.kind = .store || a.kind = .scadd then elemDone s a.id f.1 0 false
        else
          let (s, v, p) := extFor s ext lo f.2
          elemDone s a.id f.1 v p) s

/-- R102: an answer to a read of the stage loader. -/
def loaderAnswer (s : State) (id : Nat) (ext : Ext) : State :=
  { s with fetched := s.fetched.map (fun e =>
      if e.2.req = id && e.2.got.isNone then
        (e.1, { e.2 with got := some (ext.bytes.take 4096), bad := ext.err || ext.ep || ext.bytes.length < 4096 }) else e) }

/-- R106: MEMORY_RESPONSE: the response of packet `id` (64 times the access, plus its element) arrives: a local access
that has taken effect writes its register; a host's or a peer's answer ends its packet first. -/
def execMemoryResponse (id : Nat) (ext : Ext) (s : State) : Result :=
  .next (match accAt s (id / 64) with
  | none => loaderAnswer (chunkAnswer s id ext) id ext
  | some a => respond (remoteAnswer s a (id % 64) ext) a.id)

/-- R280: PEER_ACK_ARRIVAL: the acknowledgement of a remote write, or the report that it failed. -/
def execPeerAckArrival (id : Nat) (err : Bool) (s : State) : Result :=
  .next (match accAt s (id / 64) with
  | none => chunkAnswer s id ⟨[], false, err⟩
  | some a => if a.kind = .store || a.kind = .scadd then respond (remoteAnswer s a (id % 64) ⟨[], false, err⟩) a.id else s)

/-- R302, R306: TRANSLATION_WALK_DONE: a walker ends the walk of an address in a live context; the leaf of a page that a task may
reach enters the TLBs, and any other result changes none (R308). -/
def execTranslationWalkDone (tile ctx va : Nat) (s : State) : Result :=
  let root : Option Word := if isKs tile then (if ctx = 0 then some (msRaw s 0x80A) else none)
    else (graphAt s ctx).map (fun g => g.root)
  .next (match root with
  | none => s
  | some r => if va < 0x2000000 || (0x4000000 ≤ va && va < 0x8000000) then s
    else match walk s r va with
      | .leaf pa e l => match leafCheck s ⟨tile, if isKs tile then 2 else 0, ctx, r, false⟩ ⟨true, false, false, none⟩ pa e with
        | .ok _ _ => installTlb s tile ⟨ctx, va / 2 ^ (13 + 10 * l), l, e⟩
        | _ => s
      | .bad w l a => walkFound s (.bad w l a)
      | .moving => s)

/-- Whether a port's token has reached the memory edge: every chunk before it is written. -/
def tokenHome (s : State) (p : Nat × Nat × Nat) : Bool :=
  (cmdsOf (coreAt s p.1)).all (fun c => c.ord != p.2.1 || c.chunks.all (fun k => p.2.2 ≤ k.id))

/-- R309: TLB_DRAIN_ACK: the tokens of a thread's `TLBINV` that reached the memory edge acknowledge. -/
def execTlbDrainAck (key : Nat) (s : State) : Result :=
  .next (match threadAt s key with
  | none => s
  | some th => { s with drains := s.drains.map (fun d =>
      if d.uid = th.uid then { d with ports := d.ports.filter (fun p => !tokenHome s p) } else d) })

/-- R261: SCRUB: a scrubber reads a line of bonded DRAM or HBM and poisons it if it is uncorrectable. -/
def execScrubLine (line : Nat) (bad : Bool) (s : State) : Result :=
  let here := isStruck s (.line line)
  .next (if (bad || here) && 64 * line < 0x039000000000 then foundLine s (64 * line) else s)

/-- R132: the slot that the generator serves: a thread that waits on an empty queue first, then the lowest slot whose
queue has room; a frozen thread's is not refilled (R315). -/
def refillKey (s : State) (t : Nat) : Option Nat :=
  let room := (threadsOn s t).filter (fun e => e.2.regs.rng.cnt < 4 && e.2.status != .frozen)
  match room.find? (fun e => e.2.regs.rng.cnt == 0 && e.2.status == .waiting .bits) with
  | some e => some e.1
  | none => room.head?.map (fun e => e.1)

/-- R132: RNG_REFILL. -/
def execRngRefill (tile : Nat) (s : State) : Result :=
  .next (match refillKey s tile with
  | none => s
  | some k => wakeTile (updThread s k (fun th => { th with
      regs := { th.regs with rng := th.regs.rng.refill th.regs.seed th.regs.tag } })) tile)

/-- R51: whether 65,536 cycles of a source tile passed since the epoch of a sudden lowering that a transaction was in flight at. -/
def timedOut (s : State) (num tile : Nat) : Bool :=
  match find num s.olds with
  | none => false
  | some c => 65536 ≤ ((coreAt s tile).cyc - c).toNat

/-- R51: whether an element counts as lost: it was cut, or the time is over and its answer has not come; one that does not travel the
deck has its answer, unless the scratchpad is lost. -/
def lostNow (s : State) (out : Bool) (e : Elem) : Bool :=
  e.cut || (out && !((e.path == .own || e.path == .view) && !siteLost s e.pa e.path) && !(e.done && e.path.remote))

/-- An element that counts as lost: done, with what it returns poisoned; a load that was done, or what had not been performed, returns
free data. -/
def loseElem (load : Bool) (v : Word) (e : Elem) : Elem :=
  let got := if e.done && !load then e.got else v
  { e with done := true, cut := false, gotP := true, got := got }

/-- Table 2.8: the fate of the packet of element i of a lost transaction: a load is sent again, unless its target is gone, and what it
has read already stays as read, which is in order (DEDUCED, log entry 113); a store-type access, performed or not, is recorded and not
sent again, and what it returns is poisoned. -/
def packetFate (out : Bool) (id : Nat) (s : State) (i : Nat) : State :=
  match accAt s id with
  | none => s
  | some a => match a.elems[i]? with
    | none => s
    | some e =>
      let l := (travels a i e).filter (fun f => lostNow s out f.2)
      if !lostNow s out e then s
      else if a.kind = .load && !siteLost s e.pa e.path then
        l.foldl (fun s f => updElem s id f.1 (fun x => { x with sent := false, cut := false })) s
      else
        let s := if a.kind = .load then s
          else lostStore s a.who a.uid a.psink 7 (laneMask (l.map (fun f => f.2))) ((l.head?.map (fun f => f.2.va)).getD e.va)
        l.foldl (fun s f =>
          let (s, v) := freeWord s f.2.w
          updElem s id f.1 (loseElem (a.kind == .load) (BitVec.ofNat 64 v))) s

/-- R51: LOST_TRANSACTION_TIMEOUT: what was cut, or all that has no answer once the time is over, counts as lost. -/
def execLostTransactionTimeout (id : Nat) (s : State) : Result :=
  .next (match accAt s id with
  | none => match chunkAt s id with
    | none => s
    | some (t, c, k) =>
      if timedOut s id t || k.cut then chunkFate { s with olds := del id s.olds } t c k else s
  | some a =>
    let out := timedOut s id a.tile
    if !out && !a.elems.any (fun e => e.cut) then s
    else
      let s := if out then { s with olds := del id s.olds } else s
      -- packets of a time that is over are all lost at once
      let t := (upTo a.elems.length).foldl (fun (s : State × List Nat) i =>
        if s.2.contains i then s
        else (packetFate out id s.1 i, (match a.elems[i]? with
          | none => []
          | some e => (travels a i e).map (fun f => f.1)) ++ s.2)) (s, [])
      settle t.1 id)

end Sys2Proof.Machine
end

