-- ==== Sys2Proof/Machine/Homes.lean ====
section
/-! DEFINITION. Names at their homes: publications, subscriptions, multicast trees, retirement, drops, withdrawals,
defers and resumes (R52, R65, R66, R72 to R80, R84, R398, R468, R469). -/

namespace Sys2Proof.Machine

/-- R41 to R43: the home of a name now. -/
def homeNow (s : State) (n : Name) : Option Nat :=
  homeOf s ((graphAt s (nameCtx n)).bind (fun g => nameBay g (nameTid n))) n

/-- R44, R48: whether the hash units are held: a lowering has new tables to load, and its links are being reset. -/
def hashHeld (s : State) : Bool :=
  match s.lowering with
  | none => false
  | some l => l.tables

/-- R468: the narrowest scope that contains two cores. -/
def reachOf (t u : Nat) : Nat :=
  if t = u then 0 else if t < Config.ks && u < Config.ks && spanOf t == spanOf u then 1 else 2

/-- The widest scope that a publication's delivery has: a system-scope one is delivered as a wafer-scope one (R65). -/
def Pub.width (p : Pub) : Nat := if p.scope < 2 then p.scope else 2

/-- R66: the publication that a home keeps under a name. -/
def heldAt (s : State) (n : Name) : Option HomeE := s.homes.find? (fun h => h.pub.name == n)

/-- Whether a subscription is to a name. -/
def Sub.takes (q : Sub) (n : Name) : Bool := if q.anyIter then nameAnyIter q.name == nameAnyIter n else q.name == n

/-- R65, R468: whether the scopes keep a publication from a subscription. -/
def outOfScope (q : Sub) (p : Pub) (src : Nat) : Bool := p.width < reachOf src q.tile || q.scope < p.width

/-- Bytes of a publication: header and payload. -/
def Pub.size (p : Pub) : Nat := 32 + p.data.length

/-- The names of some publications with the size of each, once for each name. -/
def namesOnce (l : List Pub) : List (Name × Nat) :=
  l.foldl (fun r p => if r.any (fun e => e.1 == p.name) then r else (p.name, p.size) :: r) []

/-- The publications that a router's cache holds: its copies, the tile's publications, those of which it is the home, and the
payloads that wait for the entries of the tile's matching store (R70, R76, R77). -/
def cacheHeld (s : State) (t : Nat) : List (Name × Nat) :=
  let c := coreAt s t
  namesOnce (c.cache ++ c.tilePubs.map (fun e => e.1) ++
    (s.homes.filter (fun h => h.site == t && h.place == .cache)).map (fun h => h.pub) ++ c.store.map (fun m => m.pub))

/-- The bytes that a router's publication cache holds. -/
def cacheUsed (s : State) (t : Nat) : Nat := (cacheHeld s t).foldl (fun n e => n + e.2) 0

/-- Whether a store slot of a site is free to hold publications: the site is memory-only and lends to no orphan (R76). -/
def storeSlot (s : State) (t k : Nat) (p : Pub) : Bool :=
  classOf s t == 2 && borrowers s t == 0 &&
  ((s.homes.filter (fun h => h.site == t && h.place == .slot k)).foldl (fun n h => n + h.pub.size) 0) + p.size ≤ 0x2000000

/-- R356: whether the training of a stack has ended well; stack 3 serves from the start. -/
def stackTrained (s : State) (a : Nat) : Bool := !stackFailed s (a * 0x1000000000) && (a == 3 || getD false a s.hbmEnd)

/-- R356: the pier that an area of a pier is at: itself, or the next in ascending number whose stack trained. -/
def servingPier (s : State) (a : Nat) : Nat :=
  if !stackFailed s (a * 0x1000000000) then a
  else (((upTo 31).map (fun i => (a + 1 + i) % 32)).find? (stackTrained s)).getD a

/-- R76, R245: whether the retire region of a pier, whose size is of this device (log entry 81), has room for a publication; the
region of a stack that failed training has none (R356). -/
def regionRoom (s : State) (a : Nat) (p : Pub) : Bool :=
  !stackFailed s (a * 0x1000000000) &&
  ((s.homes.filter (fun h => h.place == .retire a)).foldl (fun n h => n + h.pub.size) 0) + p.size ≤ (Config.retireSize a).toNat

/-- R76, R356: where a retired publication of a home goes: a store slot, or the retire region of its nearest pier, which is at the next
pier where that one's stack failed training; it stays in the cache where neither has room. -/
def retirePlace (s : State) (t : Nat) (p : Pub) : Place :=
  if storeSlot s t 0 p then .slot 0
  else if storeSlot s t 1 p then .slot 1
  else match nearestPier s t with
    | some n =>
      let a := servingPier s n
      if regionRoom s a p then .retire a else .cache
    | none => .cache

/-- The state with the home entry of a name updated. -/
def updHome (s : State) (n : Name) (f : HomeE → HomeE) : State :=
  { s with homes := s.homes.map (fun h => if h.pub.name == n then f h else h) }

/-- R76: a publication whose subscribers have all consumed it is retired. -/
def retireDone (s : State) (n : Name) : State :=
  match heldAt s n with
  | none => s
  | some h => if h.place == .cache && h.pub.nsub ≤ h.consumed then
      updHome s n (fun h => { h with place := retirePlace s h.site h.pub, pub := readCopy s h.site h.pub }) else s

/-- R76: one consumption of a publication is counted at its home; a tile-scope one has none. -/
def consume (s : State) (p : Pub) : State :=
  if p.scope = 0 then s else retireDone (updHome s p.name (fun h => { h with consumed := h.consumed + 1 })) p.name

/-- R77: a full cache frees space for a publication: tree copies first, oldest first, then publications that could not retire for
want of room and unconsumed ones, oldest first, which go to the retire area; by fuel over what it holds. -/
def makeRoom (t n : Nat) : Nat → State → State
  | 0, s => s
  | fuel + 1, s =>
    if cacheUsed s t + n ≤ Config.cacheSize then s
    else match (coreAt s t).cache with
      | _ :: l => makeRoom t n fuel (updCore s t (fun c => { c with cache := l }))
      | [] =>
        let goes (h : HomeE) : Bool := h.site == t && h.place == .cache && retirePlace s t h.pub != .cache
        match (s.homes.find? (fun h => goes h && h.pub.nsub ≤ h.consumed)).or (s.homes.find? goes) with
        | none => s
        | some h => makeRoom t n fuel (updHome s h.pub.name (fun h =>
            { h with place := retirePlace s t h.pub, pub := readCopy s t h.pub }))

/-- Fuel for `makeRoom`: what a router's cache holds. -/
def cacheItems (s : State) (t : Nat) : Nat := (coreAt s t).cache.length + s.homes.length + 1

/-- A message removed from the deck. -/
def takeMsg (s : State) (i : Nat) : State := { s with net := dropNth s.net i }

/-- The sender and name of a message whose order at its home is that of its sending (R398, R469). -/
def msgKey : Msg → Option (Nat × Name)
  | .pub p _ u _ _ _ => some (u, p.name)
  | .sub q => match q.of_ with
    | .template => none
    | .thread u _ => some (u, q.name)
    | .command u _ _ => some (u, q.name)
  | .drop n _ u => some (u, n)
  | .unsub n _ o => match o with
    | .template => none
    | .thread u _ => some (u, n)
    | .command u _ _ => some (u, n)
  | .copy _ _ _ | .deliver _ _ _ _ | .defer _ _ | .resume _ | .free _ _ | .pierSub _ _ _ | .pierRead _ _ _ _
  | .afault _ _ => none

/-- R84: the tile whose defers and resumes reach the homes in the order of their sending. -/
def pauseKey : Msg → Option Nat
  | .defer _ t => some t
  | .resume t => some t
  | .pub _ _ _ _ _ _ | .sub _ | .copy _ _ _ | .deliver _ _ _ _ | .drop _ _ _ | .unsub _ _ _ | .free _ _ | .pierSub _ _ _
  | .pierRead _ _ _ _ | .afault _ _ => none

/-- Whether no earlier message of the same sender and name, or pause of the same tile, is still on its way. -/
def inOrder (s : State) (i : Nat) : Bool :=
  match s.net[i]? with
  | none => false
  | some m => (s.net.take i).all (fun x => (msgKey m).isNone || msgKey x != msgKey m) &&
      (s.net.take i).all (fun x => (pauseKey m).isNone || pauseKey x != pauseKey m)

/-- R46, R47: whether a message of a core finds a route to a tile; where it finds none it is sent again (Table 2.8; log entry 104). A
site whose injection is stopped sends none (R48). -/
def carried (s : State) (t u : Nat) : Bool :=
  !injectionStopped s t && (t == u || (deckRoute s (coreEnd s t) (coreEnd s u)).isSome)

/-- The routers of the route of a subscription, from its tile, or from the edge tile where the keystone's enters the deck, to the
home. -/
def subRoute (s : State) (t h : Nat) : List Nat := (deckRoute s (coreEnd s t) (coreEnd s h)).getD [h]

/-- R47, Table 2.8: whether a message about a name reaches its home now, from a tile: the hash unit answers (R44), and a route is there.
A name without a home takes it too, and does nothing with it (R43). -/
def toHome (s : State) (t : Nat) (n : Name) : Bool :=
  !hashHeld s && match homeNow s n with
    | none => true
    | some h => carried s t h

/-- R47, Table 2.8: whether a delivery reaches its tile now. One whose sender is dead is sent again by the name's home. -/
def delivered (s : State) (p : Pub) (t u : Nat) : Bool :=
  carried s (if Config.ks ≤ u || u = t || routerUp s u then u else (homeNow s p.name).getD u) t

/-! Subscriptions of a tile and what a tile receives. -/

/-- R72: a report of SCOPE reaches the subscription. -/
def reportScope (s : State) (q : Sub) : State :=
  match q.of_ with
  | .template => s
  | .thread u k => updOwner s u (fun th => { th with dyn := th.dyn.map (fun d =>
      if d.seq == k then { d with bad := true } else d) })
  | .command u e k =>
    let go (l : List Cmd) := l.map (fun c =>
      if c.uid == u && c.eng == e && c.seq == k then { c with srcBad := true } else c)
    updCore s q.tile (fun c => { c with eng0 := go c.eng0, eng1 := go c.eng1 })

/-- Whether a tile has a template subscription that takes a name. -/
def tmplAt (s : State) (t : Nat) (n : Name) : Bool :=
  s.subs.any (fun q => q.of_ == .template && q.anyIter && q.tile == t && q.takes n) ||
  s.net.any (fun m => match m with
    | .sub q => q.of_ == .template && q.anyIter && q.tile == t && q.takes n
    | _ => false)

/-- The deliveries of a tile-scope publication on its tile: its templates, and each dynamic subscription to the name. -/
def deliverAt (s : State) (p : Pub) (t : Nat) : List Msg :=
  let thr := (threadsOn s t).flatMap (fun e => (e.2.dyn.filter (fun d => d.name == p.name && d.got.isNone && !d.bad)).map (fun d =>
    Msg.deliver p t (.thread e.2.uid d.seq) t))
  let cmd := ((cmdsOf (coreAt s t)).filter (fun d => d.port == .hname && d.name == p.name && d.src.isNone && !d.srcBad)).map
    (fun d => Msg.deliver p t (.command d.uid d.eng d.seq) t)
  (if tmplAt s t p.name then [Msg.deliver p t .template t] else []) ++ thr ++ cmd

/-- R66: a tile-scope publication of a stage at its publisher's router. -/
def tilePublish (s : State) (p : Pub) (t stage : Nat) : State :=
  if (coreAt s t).tilePubs.any (fun q => q.1.name == p.name) then s
  else
    let s := freshCopy (makeRoom t p.size (cacheItems s t) s) t p.name
    let s := updCore s t (fun c => { c with tilePubs := c.tilePubs ++ [(p, stage)] })
    { s with net := s.net ++ deliverAt s p t }

/-! Trees. -/

/-- The port of a router toward a neighbour: 0 to 3 the directions, 4 its own tile, 5 the rim link, to the keystone. -/
def portTo (t u : Nat) : Nat := if isKs u then 5 else ((upTo 4).find? (fun d => neighbour t d == some u)).getD 4

/-- R73: the key that routers record a subscription under. -/
def Sub.key (q : Sub) : NameKey := if q.anyIter then (nameAnyIter q.name, true) else (q.name, false)

/-- Whether an entry's key covers a name. -/
def keyCovers (k : NameKey) (n : Name) : Bool := if k.2 then k.1 == nameAnyIter n else k.1 == n

/-- The ports that a router records for a name. -/
def nmtPorts (s : State) (t : Nat) (n : Name) : List Nat :=
  ((coreAt s t).nmt.filter (fun e => keyCovers e.1 n)).flatMap (fun e => e.2)

/-- R73: a router records a port for a key. -/
def nmtAdd (s : State) (t : Nat) (key : NameKey) (port : Nat) : State :=
  let add (l : List (NameKey × List Nat)) : List (NameKey × List Nat) :=
    if l.any (fun e => e.1 == key) then l.map (fun e => if e.1 == key && !e.2.contains port then (e.1, e.2 ++ [port]) else e)
    else l ++ [(key, [port])]
  updCore s t (fun c => { c with nmt := add c.nmt })

/-- Whether a router can record a key (R74). -/
def nmtRoom (s : State) (t : Nat) (key : NameKey) : Bool :=
  (coreAt s t).nmt.any (fun e => e.1 == key) || (coreAt s t).nmt.length < Config.nmSize

/-- R73: each router of a route that has room records the port toward the subscriber, which comes last. -/
def nmtPath (s : State) (key : NameKey) : Nat → List Nat → State
  | _, [] => s
  | prev, r :: l => nmtPath (if nmtRoom s r key then nmtAdd s r key (portTo r prev) else s) key r l

/-- R74: a home tells some routers that no subscriber of a key is left below them. -/
def freeKey (s : State) (key : NameKey) (routers : List Nat) : State :=
  { s with net := s.net ++ (routers.filter (fun r => (coreAt s r).nmt.any (fun e => e.1 == key) &&
      !s.subs.any (fun q => q.key == key && q.routers.contains r))).map (fun r => Msg.free key r) }

/-- Subscriptions that have left their home: the routers that only they needed are told. -/
def freeSubs (s : State) (l : List Sub) : State := l.foldl (fun s q => freeKey s q.key q.routers) s

/-- The subscriber of a subscription below its home's router. -/
def Sub.receiver (q : Sub) : Receiver := ⟨q.tile, q.of_, q.routers.reverse.drop 1⟩

/-- R73 to R75: a publication at its home goes to the live subscriptions that it satisfies: down the tree, and to each direct
subscriber as its own copy; a dynamic subscription is then finished. -/
def sendDown (s : State) (h : HomeE) : State :=
  let p := h.pub
  let mine := s.subs.filter (fun q => q.takes p.name && !q.seen.contains p.name)
  let bad := mine.filter (fun q => q.of_ != .template && outOfScope q p h.src)
  let ok := mine.filter (fun q => !outOfScope q p h.src && (q.of_ != .template || q.anyIter))
  let s := bad.foldl reportScope s
  let direct := (ok.filter (fun q => q.direct)).map (fun q => Msg.deliver p q.tile q.of_ h.site)
  let below := (ok.filter (fun q => !q.direct)).map Sub.receiver
  let tree := if below.isEmpty then [] else [Msg.copy p h.site below]
  let gone (q : Sub) : Bool := q.takes p.name && (q.of_ != .template || !q.anyIter)
  let left := s.subs.filter gone
  let s := { s with
    subs := (s.subs.filter (fun q => !gone q)).map (fun q => if ok.contains q then { q with seen := q.seen ++ [p.name] } else q),
    net := s.net ++ direct ++ tree }
  freeSubs s left

/-- R66, R75, R76: a publication of a stage arrives at its home. -/
def homeKeep (s : State) (p : Pub) (t src stage : Nat) : State :=
  if (heldAt s p.name).isSome then s
  else
    let s := freshCopy (makeRoom t p.size (cacheItems s t) s) t p.name
    let h : HomeE := { pub := p, stage := stage, site := t, src := src, place := .cache, consumed := 0, deferred := [] }
    retireDone (sendDown { s with homes := s.homes ++ [h] } h) p.name

/-- R65, R66, R75, R78, R447: PUBLICATION_ARRIVAL. -/
def execPublicationArrival (i : Nat) (s : State) : Result :=
  .next (match s.net[i]? with
  | some (.pub p t _ after scp stage) =>
    if after.any (stillOpen s scp) || !inOrder s i then s
    else if stagePast s p.name stage then takeMsg s i
    else if p.scope = 0 then tilePublish (takeMsg s i) p t stage
    else if hashHeld s then s
    else match homeNow s p.name with
      | none => takeMsg s i
      | some h => if carried s t h then homeKeep (takeMsg s i) p h t stage else s
  | _ => s)

/-- R77: the copies that answer a subscription on its way, each as its router's cache reads it, with the router. -/
def cachedFor (s : State) (q : Sub) (l : List Nat) : List (Pub × Nat) :=
  l.foldl (fun (r : List (Pub × Nat)) t => r ++ (((coreAt s t).cache.filter (fun p => q.takes p.name && !(q.scope < p.width) &&
    !headerLost s t p.name && !r.any (fun x => x.1.name == p.name))).map (fun p => (readCopy s t p, t)))) []

/-- Whether a fall-through of a name is in progress. -/
def falling (s : State) (n : Name) : Bool :=
  s.net.any (fun m => match m with
    | .pierSub _ k _ => k == n
    | .pierRead k _ _ _ => k == n
    | _ => false)

/-- R79: a subscription that finds no publication at its home falls through to the pier; one that names no iteration,
under iteration 0 (log entry 22). -/
def fallThrough (s : State) (q : Sub) : State :=
  let n := if q.anyIter then nameAnyIter q.name else q.name
  match pierOf s n with
  | none => s
  | some a => if falling s n then s else { s with net := s.net ++ [.pierSub q n a] }

/-- R262: the homes that a test picks read what they hold: a name whose headers are both uncorrectable is lost, unless its tensor falls
through (R52). -/
def readHomes (s : State) (sel : HomeE → Bool) : State :=
  (s.homes.filter (fun h => sel h && headerLost s h.site h.pub.name)).foldl (fun s h =>
    loseName { s with homes := s.homes.filter (fun x => x.pub.name != h.pub.name) } h.pub.name) s

/-- R262: the home reads what it holds that satisfies a subscription. -/
def readHome (s : State) (q : Sub) : State := readHomes s (fun h => q.takes h.pub.name)

/-- A publication as its home reads it, from its cache or from where it retired to: the errors that struck the place that holds it set
pmap bits (R52, R262; log entry 105). -/
def HomeE.read (h : HomeE) (s : State) : Pub := readCopy s h.site h.pub

/-- R73, R74: a subscription that waits at its home is recorded by the routers of its route, or as direct where one of them has no
room. -/
def recordSub (s : State) (q : Sub) (path : List Nat) : State :=
  let rs := path.filter (fun r => nmtRoom s r q.key)
  let s := nmtPath s q.key q.tile path
  { s with subs := s.subs ++ [{ q with direct := rs.length != path.length, routers := rs }] }

/-- R75: a subscription at the home: each publication that satisfies it is delivered; a dynamic one is then finished, and one that
waits is recorded (R73). -/
def homeAnswer (s : State) (q : Sub) (path : List Nat) : State :=
  let s := readHome s q
  let l := s.homes.filter (fun h => q.takes h.pub.name && !q.seen.contains h.pub.name)
  if q.of_ = .template && !q.anyIter then (if l.isEmpty && q.seen.isEmpty then fallThrough s q else s)
  else
    let ok := l.filter (fun h => !outOfScope q h.pub h.src)
    let s := { s with net := s.net ++ ok.map (fun h => Msg.deliver (h.read s) q.tile q.of_ h.site) }
    if q.of_ = .template then
      let s := recordSub s { q with seen := q.seen ++ ok.map (fun h => h.pub.name) } path
      if l.isEmpty && q.seen.isEmpty then fallThrough s q else s
    else if !ok.isEmpty then s
    else if !l.isEmpty then reportScope s q
    else fallThrough (recordSub s q path) q

/-- R73 to R75, R77: SUBSCRIPTION_ARRIVAL: copies that a subscription meets on its way answer it; a dynamic one ends there, and any
other goes on to the home. -/
def execSubscriptionArrival (i : Nat) (s : State) : Result :=
  .next (match s.net[i]? with
  | some (.sub q) =>
    if !inOrder s i || hashHeld s then s
    else match homeNow s q.name with
      | none => takeMsg s i
      | some h =>
        if !carried s q.tile h then s
        else
          let s := takeMsg s i
          let path := subRoute s q.tile h
          let met := (cachedFor s q path).filter (fun p => !q.seen.contains p.1.name)
          if q.of_ != .template then
            (match met with
            | p :: _ => { s with net := s.net ++ [.deliver p.1 q.tile q.of_ p.2] }
            | [] => homeAnswer s q path)
          else
            let met := if q.anyIter then met else []
            homeAnswer { s with net := s.net ++ met.map (fun p => Msg.deliver p.1 q.tile q.of_ p.2) }
              { q with seen := q.seen ++ met.map (fun p => p.1.name) } path
  | _ => s)

/-- The next routers of some receivers, each once. -/
def nextRouters (l : List Receiver) : List Nat :=
  l.foldl (fun (r : List Nat) x => match x.path with
    | [] => r
    | u :: _ => if r.contains u then r else r ++ [u]) []

/-- The receivers whose next router is one, as that router has them. -/
def receiversBy (l : List Receiver) (u : Nat) : List Receiver :=
  l.filterMap (fun x => match x.path with
    | [] => none
    | v :: p => if v = u then some { x with path := p } else none)

/-- R73: whether a router passes a copy of a name to a neighbour: it has recorded the port, and the link is up. -/
def passes (s : State) (r u : Nat) (n : Name) : Bool :=
  routerUp s r && (nmtPorts s r n).contains (portTo r u) && linkTo s r (portTo r u) == some u

/-- R77: a router keeps a copy of a wafer-scope publication where its cache has room (log entry 15). -/
def keepCopy (s : State) (r : Nat) (p : Pub) : State :=
  if p.width < 2 || !routerUp s r || (cacheHeld s r).any (fun e => e.1 == p.name) || Config.cacheSize < cacheUsed s r + p.size then s
  else updCore (freshCopy s r p.name) r (fun c => { c with cache := c.cache ++ [p] })

/-- R78, R398: whether the home of a copy's name still holds its publication: a copy of one that was dropped is kept nowhere. -/
def stillHeld (s : State) (p : Pub) : Bool :=
  s.homes.any (fun h => { h.pub with pmap := 0 } == ({ p with pmap := 0 } : Pub))

/-- R73, R77: MULTICAST_COPY: a router passes a publication once on each recorded port that leads to a receiver, delivers it to
those of its tile, and may keep a copy. A receiver to which no recorded port leads any more is sent its own copy (R74). -/
def execMulticastCopy (i : Nat) (s : State) : Result :=
  .next (match s.net[i]? with
  | some (.copy p r dests) =>
    let s := takeMsg s i
    let (on, off) := (nextRouters dests).partition (fun u => passes s r u p.name)
    let here := (dests.filter (fun x => x.path.isEmpty)) ++ off.flatMap (receiversBy dests)
    let s := { s with net := s.net ++ on.map (fun u => Msg.copy p u (receiversBy dests u)) ++
                        here.map (fun x => Msg.deliver p x.tile x.of_ r) }
    if stillHeld s p && !s.homes.any (fun h => h.site == r && h.pub.name == p.name) then keepCopy s r p else s
  | _ => s)

/-- R74: NAME_MATCH_FREE: a router frees the entry of a key once every subscriber recorded below it has consumed what it was sent. -/
def execNameMatchFree (i : Nat) (s : State) : Result :=
  .next (match s.net[i]? with
  | some (.free key r) =>
    let onWay := s.net.any (fun m => match m with
      | .copy p _ _ => keyCovers key p.name
      | .deliver p _ _ _ => keyCovers key p.name
      | _ => false)
    if onWay then s
    else
      let s := takeMsg s i
      if s.subs.any (fun q => q.key == key && q.routers.contains r) then s
      else updCore s r (fun c => { c with nmt := c.nmt.filter (fun e => e.1 != key) })
  | _ => s)

/-- R78: a tile without some publications of a name: its cache's copy, and its record of the earliest arrived of any iteration. -/
def forget (n : Name) (c : Core) : Core :=
  { c with cache := c.cache.filter (fun p => p.name != n), anys := c.anys.filter (fun p => p.name != n) }

/-- R398: DROP_ARRIVAL: the home's publication, every tree copy and the issuing tile's tile-scope publication are
freed. -/
def execDropArrival (i : Nat) (s : State) : Result :=
  .next (match s.net[i]? with
  | some (.drop n t _) =>
    if !inOrder s i || !toHome s t n then s
    else
      let s := takeMsg s i
      let s := updCore s t (fun c => { c with tilePubs := c.tilePubs.filter (fun p => p.1.name != n) })
      match homeNow s n with
      | none => s
      | some _ => { s with
          homes := s.homes.filter (fun h => h.pub.name != n),
          cores := s.cores.map (fun e => (e.1, forget n e.2)) }
  | _ => s)

/-- R72, R469: UNSUB_ARRIVAL: a withdrawal reaches the home. -/
def execUnsubArrival (i : Nat) (s : State) : Result :=
  .next (match s.net[i]? with
  | some (.unsub n t o) =>
    if !inOrder s i || !toHome s t n then s
    else
      let s := takeMsg s i
      let mine (q : Sub) : Bool := q.of_ == o && q.tile == t && q.name == n
      freeSubs { s with subs := s.subs.filter (fun q => !mine q) } (s.subs.filter mine)
  | _ => s)

/-- R84: DEFER_MESSAGE: the home holds a publication for a tile. -/
def execDeferMessage (i : Nat) (s : State) : Result :=
  .next (match s.net[i]? with
  | some (.defer n t) =>
    if inOrder s i && toHome s t n then updHome (takeMsg s i) n (fun h => { h with deferred := h.deferred ++ [t] }) else s
  | _ => s)

/-- R84: RESUME_MESSAGE: the homes release what they held for a tile. -/
def execResumeMessage (i : Nat) (s : State) : Result :=
  .next (match s.net[i]? with
  | some (.resume t) =>
    if !inOrder s i || !(s.homes.filter (fun h => h.deferred.contains t)).all (fun h => toHome s t h.pub.name) then s
    else
      let s := readHomes (takeMsg s i) (fun h => h.deferred.contains t)
      let l := s.homes.filter (fun h => h.deferred.contains t)
      { s with homes := s.homes.map (fun h => { h with deferred := h.deferred.filter (fun u => u != t) }),
               net := s.net ++ l.map (fun h => Msg.deliver (h.read s) t .template h.site) }
  | _ => s)

end Sys2Proof.Machine
end

