-- ==== Sys2Proof/Machine/Matching.lean ====
section
/-! DEFINITION. What a delivery does at a tile: the matching store, firing, tag throttling, dynamic subscriptions and the
copies of bound inputs (R56, R69, R70, R72, R79, R84, R85, R378). -/

namespace Sys2Proof.Machine

/-- R85: the reserve Q of a tile, over every loaded stage. -/
def reserve (s : State) (t : Nat) : Nat :=
  s.graphs.foldl (fun n e =>
    if e.2.running then (stageTmpls e.2 e.2.stage).foldl (fun n m =>
      n + m.2.subs.length * (e.2.placed.filter (fun p => p.tmpl == m.1 && p.tile == t)).length) n
    else n) 0

/-- A subscription of an instance placed on a tile: template number, template, instance, subscription number and
declaration. -/
abbrev Bound := Nat × Template × BitVec 30 × Nat × SubDecl

/-- The subscriptions of the instances on a tile that bind a name at some iteration, and accept the scope of a publication of a
width (R67). -/
def boundSubs (s : State) (t : Nat) (n : Name) (w : Nat) : List Bound :=
  match graphAt s (nameCtx n) with
  | none => []
  | some g =>
    if !g.running then []
    else (g.placed.filter (fun p => p.tile == t)).flatMap (fun p =>
      let tm := tmplOf g p.tmpl
      (liveSubs tm p.inst).filterMap (fun e =>
        if subBinds e.2 p.inst (nameCtx n) n && w ≤ e.2.scope then some (p.tmpl, tm, p.inst, e.1, e.2) else none))

/-- Identities that hold entries of a matching store, each once. -/
def storeIds (l : List MEntry) : List Ident := l.foldl (fun r e => if r.contains e.id then r else r ++ [e.id]) []

/-- R69: whether a publication is the earliest-arrived of its name at the tile, over the iterations, of those whose scope a
subscription accepts (R67). -/
def earliest (c : Core) (scope : Nat) (n : Name) : Bool :=
  match c.anys.find? (fun p => nameAnyIter p.name == nameAnyIter n && p.width ≤ scope) with
  | none => true
  | some p => p.name == n

/-- Whether an identity may still take an entry of a subscription: it has not fired and the subscription is not
satisfied (R56, R70). -/
def canTake (g : Graph) (c : Core) (id : Ident) (j : Nat) (sd : SubDecl) : Bool :=
  !g.firedIds.contains id && !subDone id c.store j sd

/-- R69: the identities of an instance for which a publication satisfies a subscription: the one whose tag it gives, and, for
`any`, each that holds entries and that it fits. -/
def takers (c : Core) (b : Bound) (n : Name) : List Ident :=
  let (k, tm, i, j, sd) := b
  let made : List Ident := match identIter tm i j sd n with
    | some it => [⟨nameCtx n, k, i, BitVec.ofNat 24 (nameCtx n * 65536 + it)⟩]
    | none => []
  if sd.rel != 2 then made
  else if !earliest c sd.scope n then []
  else made ++ (storeIds c.store).filter (fun id => id.tmpl == k && id.inst == i && id.ctx == nameCtx n && anyFits tm id j n &&
    !made.contains id)

/-- R69, R70: the entries that a publication makes at a tile for the subscriptions it binds. -/
def directEntries (s : State) (t : Nat) (p : Pub) : List MEntry :=
  let c := coreAt s t
  match graphAt s (nameCtx p.name) with
  | none => []
  | some g => (boundSubs s t p.name p.width).flatMap (fun b =>
      ((takers c b p.name).filter (fun id => canTake g c id b.2.2.2.1 b.2.2.2.2)).map (fun id => ⟨id, b.2.2.2.1, p⟩))

/-- R69: a new identity binds the earliest-arrived publication of each of its `any` subscriptions, where it fits. -/
def anyEntries (s : State) (anys : List Pub) (have_ : List MEntry) (id : Ident) : List MEntry :=
  match graphAt s id.ctx with
  | none => []
  | some g =>
    let tm := tmplOf g id.tmpl
    (liveSubs tm id.inst).filterMap (fun e =>
      if e.2.rel = 2 && !have_.any (fun m => m.id == id && m.sub == e.1) then
        (anys.find? (fun p => subBinds e.2 id.inst id.ctx p.name && p.width ≤ e.2.scope)).bind
          (fun p => if anyFits tm id e.1 p.name then some ⟨id, e.1, p⟩ else none)
      else none)

/-- The tile's record of earliest-arrived publications with one more, where a subscription of the tile takes any iteration: the earliest
of each name for each scope that a subscription may accept. -/
def noteAny (s : State) (t : Nat) (p : Pub) : List Pub :=
  let c := coreAt s t
  if earliest c p.width p.name && !c.anys.any (fun q => q.name == p.name) && (boundSubs s t p.name p.width).any (fun b => b.2.2.2.2.rel == 2)
  then c.anys ++ [p] else c.anys

/-- All the entries that a delivery makes. -/
def newEntries (s : State) (t : Nat) (p : Pub) : List MEntry :=
  let c := coreAt s t
  let direct := directEntries s t p
  let fresh := (storeIds direct).filter (fun id => !c.store.any (fun m => m.id == id))
  direct ++ fresh.flatMap (anyEntries s (noteAny s t p) direct)

/-- The tag of a publication. -/
def pubTag (p : Pub) : BitVec 24 := BitVec.ofNat 24 (nameCtx p.name * 65536 + nameIter p.name)

/-- The oldest admitted tag of a context that still holds entries; the oldest of all where none does. -/
def oldestTag (c : Core) (ctx : Nat) : Option (BitVec 24) :=
  let l := c.admitted.filter (fun a => a.toNat / 65536 == ctx)
  (l.find? (fun a => c.store.any (fun m => pubTag m.pub == a || m.id.tag == a))).or l.head?

/-- R84, R85: whether a tile accepts a delivery that makes `n` entries. -/
def accepts (s : State) (t : Nat) (p : Pub) (n : Nat) : Bool :=
  let c := coreAt s t
  let tag := pubTag p
  let occ := c.store.length
  let oldest := oldestTag c (nameCtx p.name) == some tag
  occ + n ≤ Config.matchSize && (c.admitted.contains tag || occ ≤ 896) && (occ < Config.matchSize - reserve s t || oldest)

/-- R70: a ready identity fires; it waits in the fired list for a slot. In a gated bay, and in a
region being vacated, nothing fires (R109, R340); nor does an instance that moves with its span group. -/
def fireIdent (t : Nat) (s : State) (id : Ident) : State :=
  match graphAt s id.ctx with
  | none => s
  | some g =>
    let c := coreAt s t
    if identReady (tmplOf g id.tmpl) id c.store && !g.firedIds.contains id && !tileClosed s t && !movesAway s id then
      updCore (updGraph s id.ctx (fun g => { g with firedIds := g.firedIds ++ [id], ninst := g.ninst + 1 })) t
        (fun c => { c with fired := c.fired ++ [(id, c.cyc)] })
    else s

/-- R70, R105: the identities of a tile that are complete fire. -/
def fireReady (s : State) (t : Nat) : State := fill ((storeIds (coreAt s t).store).foldl (fireIdent t) s) t

/-- R79: a new identity's `same` and `minus one` subscriptions to pier tensors now name an iteration. -/
def askPiers (t : Nat) (s : State) (id : Ident) : State :=
  match graphAt s id.ctx with
  | none => s
  | some g =>
    let tm := tmplOf g id.tmpl
    let it := id.tag.toNat % 65536
    let l := (liveSubs tm id.inst).filterMap (fun e =>
      let k := if e.2.rel = 0 then it else it - 1
      if (e.2.rel = 0 || (e.2.rel = 1 && 0 < it)) && e.2.plane = 0 && (pierTensor g e.2.tid).isSome && !subDone id (coreAt s t).store e.1 e.2 then
        some (Msg.sub { name := subName e.2 id.inst id.ctx k, anyIter := false, tile := t, of_ := .template,
                        scope := e.2.scope, direct := false, routers := [], seen := [] })
      else none)
    { s with net := s.net ++ l }

/-- R70, R84: a delivery enters the matching store of its tile. -/
def enter (s : State) (t : Nat) (p : Pub) (l : List MEntry) : State :=
  let c := coreAt s t
  let fresh := (storeIds l).filter (fun id => !c.store.any (fun m => m.id == id))
  let tag := pubTag p
  -- the payload waits in the cache of the tile's router
  let s := if l.isEmpty || (cacheHeld s t).any (fun e => e.1 == p.name) then s
    else freshCopy (makeRoom t p.size (cacheItems s t) s) t p.name
  let s := updCore s t (fun c => { c with store := c.store ++ l, admitted := if c.admitted.contains tag || l.isEmpty then c.admitted
    else c.admitted ++ [tag] })
  let s := l.foldl (fun s m => consume s m.pub) s
  fireReady (fresh.foldl (askPiers t) s) t

/-- R69, R70, R84, R85: PUBLICATION_DELIVERY. -/
def execPublicationDelivery (i : Nat) (s : State) : Result :=
  .next (match s.net[i]? with
  | some (.deliver p t .template u) =>
    let l := newEntries s t p
    if !delivered s p t u then s
    else if !l.isEmpty && !accepts s t p l.length then
      -- a tile-scope publication has no home: its delivery waits at its router (DESIGN CHOICE, log entry 106)
      (if p.scope = 0 then s
       else
        let s := updCore (takeMsg s i) t (fun c => { c with deferring := true })
        { s with net := s.net ++ [.defer p.name t] })
    else
      let anys := noteAny s t p
      enter (updCore (takeMsg s i) t (fun c => { c with anys := anys })) t p l
  | _ => s)

/-- R66, R72: a dynamic subscription that a tile-scope publication satisfied leaves its home. -/
def leaveHome (s : State) (p : Pub) (t : Nat) (o : SubOf) : State :=
  if p.scope = 0 then { s with net := s.net ++ [.unsub p.name t o] } else s

/-- R72, R378: DYNAMIC_DELIVERY: a delivery waits in the dynamic subscription that it satisfies, and is a consumption
either way. -/
def execDynamicDelivery (i : Nat) (s : State) : Result :=
  .next (match s.net[i]? with
  | some (.deliver p t (.thread u n) r) =>
    if !delivered s p t r then s
    else
      let s := takeMsg s i
      let s := match keyOfUid s u with
        | none => s
        | some k => if tileOf k != t then s
          else updThread s k (fun th => { th with dyn := th.dyn.map (fun d =>
            if d.seq == n && d.got.isNone then { d with got := some p } else d) })
      consume (leaveHome s p t (.thread u n)) p
  | some (.deliver p t (.command u e k) r) =>
    if !delivered s p t r then s
    else
      let go (l : List Cmd) := l.map (fun c =>
        if c.uid == u && c.eng == e && c.seq == k && c.src.isNone then { c with src := some p } else c)
      consume (leaveHome (updCore (takeMsg s i) t (fun c => { c with eng0 := go c.eng0, eng1 := go c.eng1 })) p t (.command u e k)) p
  | _ => s)

/-- R52, R262: the names that an instance has bound and that its tile's router can read no more: a name of a pier tensor is read as it was
delivered, as the fall-through gives it again (DEDUCED, log entry 116). -/
def lostInputs (s : State) (t : Nat) (th : Thread) : List Name :=
  (th.inputs.map (fun x => x.pub.name)).filter (fun n => headerLost s t n && (pierOf s n).isNone)

/-- R52, R262: an instance whose bound inputs are lost before they are copied has those subscriptions unsatisfied again: it has not fired, and
its slot is free (DEDUCED, log entry 116). -/
def loseInputs (s : State) (key : Nat) (th : Thread) (l : List Name) : State :=
  let t := tileOf key
  let id := identOf th
  let s := updCore (dropThread s key) t (fun c => { c with
    copying := c.copying.filter (fun e => e != (id, slotOf key)), holder := if c.holder = some th.uid then none else c.holder,
    store := c.store.filter (fun m => !(m.id == id && l.contains m.pub.name)) })
  let s := updGraph s id.ctx (fun g => { g with firedIds := g.firedIds.erase id, ninst := g.ninst - 1 })
  fill (l.foldl nameLost s) t

/-- R70, R235: the bound inputs of an instance are copied by its router into its scratchpad, as the router's cache reads them; it is ready,
or freezes at its first bundle with POISONDEP. -/
def copyInputs (s : State) (key : Nat) (th : Thread) : State :=
  let t := tileOf key
  let lost := lostInputs s t th
  if !lost.isEmpty then loseInputs s key th lost
  else
  let s := th.inputs.foldl (fun s x =>
    placePub (routerTurn s t (padBase t + x.off) (32 + x.pub.data.length)) (padBase t + x.off) (readCopy s t x.pub)) s
  let s := updCore s t (fun c => { c with copying := c.copying.filter (fun e => e != (identOf th, slotOf key)) })
  let s := setThread s key { th with status := .ready }
  match th.inputs.find? (fun x => x.bad) with
  | none => s
  | some x => takeFault s key .poisondep th.pc 0 7 0 (some (BitVec.ofNat 53 x.off)) (BitVec.ofNat 64 (x.sub * 16 + 1))

/-- Whether the inputs of a thread are still being copied. -/
def copyPending (s : State) (key : Nat) (th : Thread) : Bool :=
  (coreAt s (tileOf key)).copying.contains (identOf th, slotOf key) && !s.saved.any (fun v => v.th.uid == th.uid)

/-- R235: whether the banks that the inputs of a thread go to have no other request before the copies. -/
def inputsFree (s : State) (t : Nat) (th : Thread) : Bool :=
  th.inputs.all (fun x => banksFree s t (padBase t + x.off) (32 + x.pub.data.length))

/-- R70: INPUT_COPY_DONE. -/
def execInputCopyDone (key : Nat) (s : State) : Result :=
  .next (match threadAt s key with
  | none => s
  | some th => if copyPending s key th && inputsFree s (tileOf key) th then copyInputs s key th else s)

end Sys2Proof.Machine
end

