-- ==== Sys2Proof/Machine/Pier.lean ====
section
/-! DEFINITION. Piers and the residency table: fall-through reads, fills, pins and evictions (R79 to R83). -/

namespace Sys2Proof.Machine

/-- The bytes of an element of a format (R80). -/
def fmtBytes (f : Nat) : Nat :=
  if f = 2 || f = 3 || f = 10 then 2 else if f = 1 || f = 8 || f = 9 || f = 11 then 4 else 1

/-- The elements of one dimension of a tile: from cj·Tj to its end or the extent's (R80). -/
def tileDim (ext tl c : Nat) : List Nat :=
  let hi := if c * tl + tl < ext then c * tl + tl else ext
  (upTo (hi - c * tl)).map (fun i => c * tl + i)

/-- R80: the byte offsets of the elements of a tile, dimension 0 innermost; none where the tile lies past the tensor. -/
def tileElems (tn : Tensor) (coords : Nat) : List Nat :=
  let x (j : Nat) := tileDim (nth 1 tn.ext j) (nth 1 tn.tile j) (coords / 2 ^ (10 * j) % 1024)
  let e (j : Nat) := nth 1 tn.ext j
  (x 3).flatMap (fun e3 => (x 2).flatMap (fun e2 => (x 1).flatMap (fun e1 => (x 0).map (fun e0 =>
    fmtBytes tn.fmt * (e0 + e 0 * (e1 + e 1 * (e2 + e 2 * e3)))))))

/-- The bytes that a pier reads for a tile from a base, and the poison of each. -/
def tileRead (s : State) (tn : Tensor) (coords base : Nat) (bonded : Bool) : State × List Byte × List Bool :=
  let w := fmtBytes tn.fmt
  (tileElems tn coords).foldl (fun (r : State × List Byte × List Bool) o =>
    let a := base + o
    let q := readRange r.1 a w (stackFailed s a || (bonded && siteLost s a .bonded))
    (q.1, r.2.1 ++ q.2.1, r.2.2 ++ q.2.2)) (s, [], [])

/-- The pmap of a payload with the poison of each byte. -/
def mapOf (bad : List Bool) : Word :=
  (upTo ((bad.length + 255) / 256)).foldl (fun m i =>
    if ((bad.drop (256 * i)).take 256).any (fun b => b) then m ||| (1#64 <<< i) else m) 0

/-- R80: the publication of a pier. R80 does not name wp: it is 1 for a wholly poisoned tile, as Table 3.3 defines it (log entry 82). -/
def pierPub (g : Graph) (tn : Tensor) (n : Name) (data : List Byte) (bad : List Bool) : Pub :=
  let sp := scalePlane 0 tn.fmt
  { name := n, nsub := (match stagePub g tn.tid with
      | none => 0
      | some d => declNsub g d n),
    sv := sp.1, splane := sp.2, pmap := mapOf bad, rel := false, clean := false, wp := whollyBad data.length (mapOf bad), scope := 2,
    fmt := tn.fmt, data := data }

/-- R79, R81: the residency entry of a tensor; the table has one for each of the pier tensors registered, at most 16,384 (log entry 107). -/
def resOf (s : State) (tid : Nat) : ResEntry := getD ⟨0, 0, 0, 0⟩ tid s.residency

/-- The state with a residency entry replaced. -/
def setRes (s : State) (tid : Nat) (r : ResEntry) : State :=
  { s with residency := setD ⟨0, 0, 0, 0⟩ tid r s.residency }

/-- R47, Table 2.8: whether what a home forwards to a pier finds a route now. A name that has lost its home forwards nothing (R43). -/
def toPier (s : State) (n : Name) (a : Nat) : Bool :=
  match homeNow s n with
  | none => true
  | some h => !injectionStopped s h && (deckRoute s (.tile h) (.agent a)).isSome

/-- R79, R81: PIER_SUBSCRIPTION_ARRIVAL: the pier consults the residency table and starts its read. -/
def execPierSubscriptionArrival (i : Nat) (s : State) : Result :=
  .next (match s.net[i]? with
  | some (.pierSub _ n a) =>
    if !toPier s n a then s else
    let s := takeMsg s i
    if (homeNow s n).isNone then s else
    match (graphAt s (nameCtx n)).bind (fun g => pierTensor g (nameTid n)) with
    | none => s
    | some tn =>
      let r := resOf s tn.tid
      if r.st = 2 || r.st = 3 then
        { setRes s tn.tid { r with refc := r.refc + 1 } with net := s.net ++ [.pierRead n a r.bbase true] }
      else { s with net := s.net ++ [.pierRead n a tn.base false] }
  | _ => s)

/-- R47, Table 2.8: whether the packets of a pier to the slices of some bonded addresses, and back, find routes; what goes to a lost slice
needs none, as its reads are poisoned. -/
def pierReaches (s : State) (a : Nat) (pas : List Nat) : Bool :=
  (pas.foldl (fun l p => insertNat (sliceOf p) l) []).all (fun t => !homeCapable s t ||
    ((deckRoute s (.agent a) (.tile t)).isSome && (deckRoute s (.tile t) (.agent a)).isSome))

/-- R47, R79, R80, R82: PIER_TILE_READ_DONE: the pier publishes the tile to the home; a read of a bonded copy that finds no route is made
again. -/
def execPierTileReadDone (i : Nat) (s : State) : Result :=
  .next (match s.net[i]? with
  | some (.pierRead n a base bonded) =>
    match graphAt s (nameCtx n) with
    | none => takeMsg s i
    | some g => match pierTensor g (nameTid n) with
      | none => takeMsg s i
      | some tn =>
        if !bonded && !stackReady s base then s
        else if bonded && !pierReaches s a ((tileElems tn (nameCoords n)).map (fun o => base + o)) then s
        else
          let s := takeMsg s i
          let (s, data, bad) := tileRead s tn (nameCoords n) base bonded
          let r := resOf s tn.tid
          let s := if bonded then setRes s tn.tid { r with refc := r.refc - 1 } else s
          sendPub s (pierPub g tn n data bad) (pierNode a) s.nextUid [] 0
  | _ => s)

/-! Residency requests (R82, R363): a write to ms.resreq1 sets busy; the request ends as its transition is made or
refused (log entry 23). -/

/-- The tensor that a residency request names, if a graph that was loaded has registered it (log entry 107). -/
def registered (s : State) (tid : Nat) : Option Tensor := find tid s.tensors

/-- The op, tensor and base of ms.resreq0, and npg of ms.resreq1. -/
def resOp (s : State) : Nat := msField s 0x814 35 3
/-- The tensor of a residency request. -/
def resTid (s : State) : Nat := msField s 0x814 40 24
/-- The bonded base of a residency request. -/
def resBase (s : State) : Nat := msField s 0x814 0 35 * 2 ^ 13
/-- The pages of a residency request. -/
def resPages (s : State) : Nat := msField s 0x815 0 32

/-- R363: a residency request ends with a result. -/
def resEnd (s : State) (res : Nat) : State := msPut s 0x816 (BitVec.ofNat 64 (res * 4 + 2))

/-- R363: a write to ms.resreq1: a request with an op not 1 to 4 is refused at once. -/
def resStart (s : State) : State :=
  if 1 ≤ resOp s && resOp s ≤ 4 then msSetField s 0x816 0 1 1 else resEnd s 1

/-- R82: whether a bonded page may hold a copy: in a slice of a home-capable site, mapped by no window. -/
def pageFree (s : State) (pa : Nat) : Bool :=
  let t := sliceOf pa
  let o := (pa - 0x020000000000) % 0x4000000
  0x020000000000 ≤ pa && pa < 0x039000000000 && homeCapable s t && winOf s t == 0 &&
    !s.partner.any (fun e => e.2 == (t, if o < 0x2000000 then 0 else 1))

/-- R82, Table 3.8: a request of an op in progress, on a registered tensor whose entry is in the state it needs. -/
def resRequest (s : State) (op st : Nat) (k : Nat → ResEntry → State) : State :=
  if msField s 0x816 0 1 = 0 || resOp s != op then s
  else
    let tid := resTid s
    if (registered s tid).isNone then resEnd s 2
    else if (resOf s tid).st != st then resEnd s 1
    else k tid (resOf s tid)

/-- R82: RESIDENCY_FILL. -/
def execResidencyFill (s : State) : Result :=
  .next (resRequest s 1 0 (fun tid _ =>
    if (upTo (resPages s)).all (fun i => pageFree s (resBase s + 8192 * i)) then
      resEnd (setRes s tid { st := 1, refc := 0, bbase := resBase s, npg := resPages s }) 0
    else resEnd s 3))
/-- R82: RESIDENCY_PIN. -/
def execResidencyPin (s : State) : Result :=
  .next (resRequest s 2 2 (fun tid r => resEnd (setRes s tid { r with st := 3 }) 0))
/-- R82: RESIDENCY_UNPIN. -/
def execResidencyUnpin (s : State) : Result :=
  .next (resRequest s 3 3 (fun tid r => resEnd (setRes s tid { r with st := 2 }) 0))
/-- R82: RESIDENCY_EVICT. -/
def execResidencyEvict (s : State) : Result :=
  .next (resRequest s 4 2 (fun tid r => resEnd (setRes s tid { r with st := 4 }) 0))

/-- R82: the pages of a bonded copy are copied from the tensor's HBM, poison included. -/
def copyPages (s : State) (src dst : Nat) : Nat → State
  | 0 => s
  | n + 1 =>
    let s := copyPages s src dst n
    let (s, data, bad) := readRange s (src + 8192 * n) 8192 (stackFailed s (src + 8192 * n))
    writeRange s (dst + 8192 * n) data bad

/-- R47, R82: FILL_COMPLETE: the pier of the tensor's HBM has copied every page; while a slice of the copy has no route it has not. -/
def execFillComplete (tid : Nat) (s : State) : Result :=
  let r := resOf s tid
  .next (if r.st != 1 then s
  else match registered s tid with
    | none => setRes s tid ⟨0, 0, 0, 0⟩
    | some tn =>
      if stackReady s tn.base && pierReaches s (tn.base / 2 ^ 36) ((upTo r.npg).map (fun i => r.bbase + 8192 * i)) then setRes (copyPages s tn.base r.bbase r.npg) tid { r with st := 2 } else s)

/-- R82: EVICT_REFC_ZERO. -/
def execEvictRefcZero (tid : Nat) (s : State) : Result :=
  let r := resOf s tid
  .next (if r.st = 4 && r.refc = 0 then setRes s tid ⟨0, 0, 0, 0⟩ else s)

end Sys2Proof.Machine
end

