-- ==== Sys2Proof/Machine/Loader.lean ====
section
/-! DEFINITION. The stage loader's reading of a `kxg` image (R102, R168, R170, R545, Tables 7.4 to 7.8) and its checks
(Table 4.6). -/

namespace Sys2Proof.Machine

/-- What stops a read of the loader: a refusal reason, bytes whose line is poisoned or uncorrectable or whose place is lost (reason 1),
a block of host or peer memory to fetch, or a page or stack that does not serve yet. -/
inductive LoadStop where
  | why (n : Nat)
  | marred (pa n : Nat)
  | need (pa : Nat) (p : Path)
  | wait
  deriving DecidableEq, Repr

/-- The state of the machine is read by the loader under a root. -/
structure Source where
  s : State
  ctx : Nat
  root : Word
  deriving DecidableEq, Repr

/-- R102, R302: the physical place of an image byte. -/
def imgPlace (r : Source) (va : Nat) : Except LoadStop (Nat × Path) :=
  if va < 0x2000000 || (0x4000000 ≤ va && va < 0x8000000) then .error (.why 1)
  else match walk r.s r.root va with
    | .bad w _ a => .error (if w = 5 then .marred a 8 else .why 1)
    | .moving => .error .wait
    | .leaf pa e _ =>
      if !e.getLsbD 2 then .error (.why 1)
      else match physical r.s ⟨Config.ks, 2, r.ctx, r.root, false⟩ pa with
        | .ok p path => .ok (p, path)
        | .fault _ _ => .error (.why 1)
        | .wait => .error .wait

/-- Bytes of an image that lie in one 64-byte line: a poisoned line is unreadable. -/
def imgLine (r : Source) (va n : Nat) : Except LoadStop (List Byte) :=
  match imgPlace r va with
  | .error e => .error e
  | .ok (pa, p) =>
    if p.remote then
      if p == .peer && devId r.s = 0xFFF then .error (.why 1)
      else match find (pa / 4096) r.s.fetched with
        | none => .error (.need (pa / 4096 * 4096) p)
        | some f => match f.got with
          | none => .error .wait
          | some l => if f.bad then .error (.why 1) else .ok ((l.drop (pa % 4096)).take n)
    else if !stackReady r.s pa then .error .wait
    else if stackFailed r.s pa || siteLost r.s pa p || (upTo n).any (fun i => lineBad r.s (pa + i)) then .error (.marred pa n)
    else .ok (readBytes r.s pa n)

/-- Bytes of an image, line by line, by fuel over the lines. -/
def imgLines (r : Source) : Nat → Nat → Nat → Except LoadStop (List Byte)
  | 0, _, _ => .ok []
  | fuel + 1, va, n =>
    if n = 0 then .ok []
    else
      let k := if n < 64 - va % 64 then n else 64 - va % 64
      do return (← imgLine r va k) ++ (← imgLines r fuel (va + k) (n - k))

/-- Bytes of an image. -/
def imgRead (r : Source) (va n : Nat) : Except LoadStop (List Byte) := imgLines r (n / 64 + 2) va n

/-- A little-endian field of n bytes at a byte offset. -/
def fieldAt (l : List Byte) (o n : Nat) : Nat := leNat ((l.drop o).take n)

/-- The entries of a table, each of `w` bytes. -/
def splitTable (w : Nat) : Nat → List Byte → List (List Byte)
  | 0, _ => []
  | n + 1, l => l.take w :: splitTable w n (l.drop w)

/-- A table of n entries of w bytes. -/
def imgTable (r : Source) (va n w : Nat) : Except LoadStop (List (List Byte)) :=
  (imgRead r va (n * w)).map (splitTable w n)

/-- Table 7.5. -/
def parseTensor (b : List Byte) : Tensor :=
  { tid := fieldAt b 0 3, fmt := fieldAt b 3 1, pier := fieldAt b 4 1 % 2 == 1, base := fieldAt b 8 8,
    ext := (upTo 4).map (fun j => fieldAt b (16 + 8 * j) 8), tile := (upTo 4).map (fun j => fieldAt b (48 + 2 * j) 2) }

/-- Table 7.6, a name entry. -/
def parseName (b : List Byte) : NameDecl :=
  let v := fieldAt b 0 8
  { tid := v % 2 ^ 24, clean := v / 2 ^ 24 % 2 == 1,
    bay := if v / 2 ^ 25 % 2 = 1 then some (v / 2 ^ 32 % 16, v / 2 ^ 36 % 16) else none }

/-- A signed field of n bytes. -/
def signedAt (b : List Byte) (o n : Nat) : Int := (BitVec.ofNat (8 * n) (fieldAt b o n)).toInt

/-- Table 7.8, a subscription; the tensor `launch` becomes the graph's own launch record (R91). -/
def parseSub (launch : Nat) (b : List Byte) : SubDecl :=
  let v := fieldAt b 24 4
  let isL := v / 32 % 2 == 1
  { tid := if isL then 0xFF0000 + launch % 65536 else fieldAt b 0 3, plane := if isL then 3 else fieldAt b 3 1,
    coef := (upTo 12).map (fun i => signedAt b (4 + i) 1), offs := (upTo 4).map (fun j => signedAt b (16 + 2 * j) 2),
    rel := if isL then 2 else v % 4, scope := v / 4 % 4, p := v / 16 % 2 == 1, launch := isL, at_ := fieldAt b 28 4 }

/-- Table 7.8, a publication. -/
def parsePub (b : List Byte) : PubDecl :=
  let v := fieldAt b 4 4
  { tid := fieldAt b 0 3, fmt := fieldAt b 3 1, scope := v % 4,
    nsub := if v / 4 % 2 = 1 then some (fieldAt b 8 2) else none }

/-- R118: whether code holds an M syllable. -/
def hasMatrix (code : List Byte) : Bool :=
  (splitTable 8 (code.length / 8) code).any (fun w => leNat w / 2 ^ 60 % 8 == 2)

/-- Code bytes and then data bytes of an entry. -/
def imgText (r : Source) (base off codeLen dataLen : Nat) : Except LoadStop (List Byte) := imgRead r (base + off) (codeLen + dataLen)

/-- Table 7.7, a template entry with its records; its code and data bytes are read with its own stage (R102). -/
def parseTmpl (r : Source) (base launch : Nat) (e : Bool × List Byte) : Except LoadStop Template :=
  let b := e.2
  let codeLen := if e.1 then fieldAt b 4 4 else 0
  let dataLen := if e.1 then fieldAt b 12 4 else 0
  do
    let subs ← imgTable r (base + fieldAt b 32 4) (fieldAt b 36 1) 32
    let pubs ← imgTable r (base + fieldAt b 40 4) (fieldAt b 44 2) 16
    let live ← imgTable r (base + fieldAt b 48 4) (fieldAt b 52 1) 8
    let text ← imgText r base (fieldAt b 16 8) codeLen dataLen
    return { code := fieldAt b 0 4, codeLen := fieldAt b 4 4, data := fieldAt b 8 4, dataLen := fieldAt b 12 4, text := text,
             n0 := fieldAt b 24 2, n1 := fieldAt b 26 2, n2 := fieldAt b 28 2, group := fieldAt b 30 1 % 32,
             subs := subs.map (parseSub launch), pubs := pubs.map parsePub,
             live := live.map (fun l => (fieldAt l 0 4, fieldAt l 4 4)), pats := [], matrix := hasMatrix (text.take codeLen) }

/-- Table 7.6, a handler entry. -/
def parseHandler (r : Source) (base : Nat) (b : List Byte) : Except LoadStop HandlerDecl :=
  (imgText r base (fieldAt b 24 8) (fieldAt b 12 4) (fieldAt b 20 4)).map (fun text =>
    { cls := fieldAt b 0 1 % 32, code := fieldAt b 8 4, codeLen := fieldAt b 12 4, data := fieldAt b 16 4,
      dataLen := fieldAt b 20 4, text := text })

/-- Table 7.7, a stage entry. -/
def parseStage (r : Source) (base : Nat) (b : List Byte) : Except LoadStop StageDecl :=
  (imgTable r (base + fieldAt b 8 4) (fieldAt b 12 4) 8).map (fun l =>
    { first := fieldAt b 0 4, count := fieldAt b 4 4, exits := l.map (fun e => BitVec.ofNat 64 (leNat e)) })

/-- The first multiple of 64 at or above a number. -/
def alignUp (n : Nat) : Nat := (n + 63) / 64 * 64

/-- R545: the offsets of the tables after the header: tensors, names, shapes, handlers, stages, templates, records. -/
def imgOffsets (ntens nname nshape nhand nstage ntmpl : Nat) : List Nat :=
  let nm := alignUp (64 + 64 * ntens)
  let sh := alignUp (nm + 8 * nname)
  let hd := alignUp (sh + 8 * nshape)
  let st := alignUp (hd + 32 * nhand)
  let tm := alignUp (st + 16 * nstage)
  [64, nm, sh, hd, st, tm, alignUp (tm + 64 * ntmpl)]

/-- Whether bits of a little-endian field of n bytes, from one on, are all zero: R545 names no field there. -/
def clearFrom (b : List Byte) (o n bit : Nat) : Bool := fieldAt b o n / 2 ^ bit == 0

/-- A run of records, or of bytes, that an entry names: its offset, its bytes and what its offset is a multiple of. -/
abbrev ImgRun := Nat × Nat × Nat

/-- R545, Table 7.7: the runs of records of a template entry. -/
def tmplRuns (b : List Byte) : List ImgRun :=
  [(fieldAt b 32 4, 32 * fieldAt b 36 1, 8), (fieldAt b 40 4, 16 * fieldAt b 44 2, 8), (fieldAt b 48 4, 8 * fieldAt b 52 1, 8)]

/-- Whether a run lies at or past an offset, aligned (R545). -/
def runOk (from_ : Nat) (x : ImgRun) : Bool := x.2.1 == 0 || (from_ ≤ x.1 && x.1 % x.2.2 == 0)

/-- Where the last of some runs ends, or an offset where that is higher. -/
def runsEnd (from_ : Nat) (l : List ImgRun) : Nat :=
  l.foldl (fun e x => if x.2.1 != 0 && e < x.1 + x.2.1 then x.1 + x.2.1 else e) from_

/-- R545: whether a template entry's fields keep its form and the limits of R168; its code lies at a multiple of 8, as every syllable does,
and need not lie at one of 64, where kxas puts it (DEDUCED, log entry 18). -/
def tmplOk (b : List Byte) : Bool :=
  fieldAt b 36 1 ≤ 16 && fieldAt b 52 1 ≤ 16 && fieldAt b 30 1 % 32 ≤ 16 && fieldAt b 30 1 % 32 != 1 &&
  fieldAt b 0 4 % 8 == 0 && fieldAt b 0 4 + fieldAt b 4 4 ≤ 0x100000 && fieldAt b 8 4 + fieldAt b 12 4 ≤ 0x100000 &&
  clearFrom b 30 2 5 && clearFrom b 37 3 0 && clearFrom b 46 2 0 && clearFrom b 53 3 0 && clearFrom b 56 8 0

/-- R545: whether a handler entry keeps its form; its code lies at a multiple of 8 (DEDUCED, log entry 18). -/
def handOk (b : List Byte) : Bool :=
  clearFrom b 0 8 5 && fieldAt b 8 4 % 8 == 0 && fieldAt b 8 4 + fieldAt b 12 4 ≤ 0x100000 &&
  fieldAt b 16 4 + fieldAt b 20 4 ≤ 0x100000

/-- Table 7.8: whether a subscription record keeps its form, and the values of Table 3.5. -/
def subOk (b : List Byte) : Bool :=
  let v := fieldAt b 24 4
  v % 4 < 3 && v / 64 == 0 && (v / 32 % 2 == 0 || clearFrom b 0 4 0) && fieldAt b 28 4 % 32 == 0 && fieldAt b 28 4 < 0x100000 &&
  (upTo 4).all (fun j => -1024 ≤ signedAt b (16 + 2 * j) 2 && signedAt b (16 + 2 * j) 2 ≤ 1023)

/-- Table 7.8, R63: whether a publication record keeps its form. -/
def pubOk (b : List Byte) : Bool :=
  fieldAt b 3 1 ≤ 11 && clearFrom b 4 4 3 && clearFrom b 8 4 16 && clearFrom b 12 4 0

/-- Table 7.3: whether a live record's offset and length are multiples of 8 in the scratchpad. -/
def liveOk (b : List Byte) : Bool :=
  fieldAt b 0 4 % 8 == 0 && fieldAt b 4 4 % 8 == 0 && fieldAt b 0 4 + fieldAt b 4 4 ≤ 0x100000

/-- R545: whether a tensor entry has zeros where it names no field. -/
def tensorForm (b : List Byte) : Bool :=
  clearFrom b 4 4 1 && clearFrom b 56 8 0 && (fieldAt b 4 1 % 2 == 1 || clearFrom b 8 48 0)

/-- The code and data of an entry in a scratchpad: offset and bytes. -/
def textAt (code codeLen data dataLen : Nat) : List (Nat × Nat) := [(code, codeLen), (data, dataLen)]

/-- Whether some ranges meet others. -/
def rangesMeet (l m : List (Nat × Nat)) : Bool :=
  l.any (fun a => m.any (fun b => a.2 != 0 && b.2 != 0 && overlap a.1 a.2 b.1 b.2))

/-- Table 7.3: whether no handler's code or data overlaps a template's or another handler's. -/
def handlersApart (ts : List (List (Nat × Nat))) : List (List (Nat × Nat)) → Bool
  | [] => true
  | h :: l => !ts.any (rangesMeet h) && !l.any (rangesMeet h) && handlersApart ts l

/-- R80, R168: whether a tensor entry keeps the limits of its kind. -/
def tensorOk (t : Tensor) : Bool :=
  let b := fmtBytes t.fmt
  let prod (l : List Nat) := l.foldl (fun a x => a * x) 1
  let bytes := b * prod t.ext
  t.fmt ≤ 11 && (!t.pier ||
    (b * prod t.tile ≤ 16384 && t.ext.all (fun e => 0 < e && e ≤ 2 ^ 32) && t.tile.all (fun x => 0 < x) &&
      t.base + bytes ≤ 0x020000000000 &&
      -- no byte in a reserved area: the range lies below it in one stack
      t.base % 0x1000000000 + bytes ≤ 0xF80000000))

/-- Whether no element of a list of numbers is listed twice. -/
def noTwice : List Nat → Bool
  | [] => true
  | a :: l => !l.contains a && noTwice l

/-- The tables of an image as they stand in it: tensors, names, shapes, handlers, stages and templates, with the records of the
templates: subscriptions, publications and live extents. -/
structure RawImage where
  tn : List (List Byte)
  nm : List (List Byte)
  sh : List (List Byte)
  hd : List (List Byte)
  st : List (List Byte)
  tm : List (List Byte)
  subs : List (List Byte)
  pubs : List (List Byte)
  live : List (List Byte)
  deriving DecidableEq, Repr

/-- R545: whether the stages hold the templates from a number on in turn, every one of them in one stage. -/
def stagesCover (ntmpl : Nat) : Nat → List StageDecl → Bool
  | k, [] => k == ntmpl
  | k, x :: l => (x.count == 0 || x.first == k) && stagesCover ntmpl (k + x.count) l

/-- R168, R170, R545: what an image breaks, beyond its counts. -/
def imgBreaks (recs : Nat) (w : RawImage) (im : Image) : Bool :=
  let runs := w.tm.flatMap tmplRuns ++ w.st.map (fun b => (fieldAt b 8 4, 8 * fieldAt b 12 4, 8))
  let bytes := alignUp (runsEnd recs runs)
  !(runs.all (runOk recs) &&
    w.tm.all (fun b => runOk bytes (fieldAt b 16 8, fieldAt b 4 4 + fieldAt b 12 4, 64) && tmplOk b) &&
    w.hd.all (fun b => runOk bytes (fieldAt b 24 8, fieldAt b 12 4 + fieldAt b 20 4, 64) && handOk b) &&
    w.tn.all tensorForm && w.nm.all (fun b => fieldAt b 0 4 / 2 ^ 26 == 0 && clearFrom b 4 4 8) &&
    w.sh.all (fun b => fieldAt b 0 4 < w.tm.length && clearFrom b 4 4 20) &&
    w.subs.all subOk && w.pubs.all pubOk && w.live.all liveOk &&
    stagesCover w.tm.length 0 im.stages && im.tensors.all tensorOk &&
    im.handlers.all (fun h => 1 ≤ h.cls && h.cls ≤ 14) && noTwice (im.handlers.map (fun h => h.cls)) &&
    handlersApart (w.tm.map (fun b => textAt (fieldAt b 0 4) (fieldAt b 4 4) (fieldAt b 8 4) (fieldAt b 12 4)))
      (w.hd.map (fun b => textAt (fieldAt b 8 4) (fieldAt b 12 4) (fieldAt b 16 4) (fieldAt b 20 4))))

/-- The records of the templates of an image. -/
def imgRecords (r : Source) (base : Nat) (tm : List (List Byte)) (off cnt w size : Nat) : Except LoadStop (List (List Byte)) :=
  (tm.mapM (fun b => imgTable r (base + fieldAt b off 4) (fieldAt b cnt w) size)).map List.flatten

/-- The tables and records of an image, at the offsets of its tables. -/
def imgTables (r : Source) (base ntens nname nshape nhand nstage ntmpl : Nat) : Except LoadStop RawImage :=
  let off := imgOffsets ntens nname nshape nhand nstage ntmpl
  let table (k n w : Nat) := imgTable r (base + nth 0 off k) n w
  do
    let tm ← table 5 ntmpl 64
    return { tn := ← table 0 ntens 64, nm := ← table 1 nname 8, sh := ← table 2 nshape 8, hd := ← table 3 nhand 32,
             st := ← table 4 nstage 16, tm := tm, subs := ← imgRecords r base tm 32 36 1 32,
             pubs := ← imgRecords r base tm 40 44 2 16, live := ← imgRecords r base tm 48 52 1 8 }

/-- The template entries of an image, each with whether it is of a stage. -/
def ofStage (st : List (List Byte)) (k : Nat) (tm : List (List Byte)) : List (Bool × List Byte) :=
  let b := nth [] st k
  ((upTo tm.length).zip tm).map (fun e => (decide (fieldAt b 0 4 ≤ e.1 && e.1 < fieldAt b 0 4 + fieldAt b 4 4), e.2))

/-- R102, R170, R545: the image of a launch with the code and data of one of its stages, and the reasons that its own form gives to
refuse it: 2 for an extent of that stage, 4 and 7. The upper half of `ver` is the major version, which is 3 (DEDUCED, log entry 118). -/
def parseImage (r : Source) (base launch stage : Nat) : Except LoadStop (Image × List Nat) :=
  do
    let h ← imgRead r base 32
    if fieldAt h 0 4 != 0x3347584B || fieldAt h 6 2 != 3 then throw (.why 1)
    let w := fieldAt h 28 4
    let nhand := w / 2 ^ 28
    let nshape := w / 2 ^ 19 % 512
    let nname := w / 2 ^ 6 % 8192
    let ntmpl := fieldAt h 24 4
    let nstage := fieldAt h 12 4
    let ntens := fieldAt h 8 4
    let off := imgOffsets ntens nname nshape nhand nstage ntmpl
    let raw ← imgTables r base ntens nname nshape nhand nstage ntmpl
    let entries := ofStage raw.st stage raw.tm
    let im : Image := { tensors := raw.tn.map parseTensor, names := raw.nm.map parseName,
                        shapes := raw.sh.map (fun b => (fieldAt b 0 4, fieldAt b 4 4 % 2 ^ 20)),
                        handlers := ← raw.hd.mapM (parseHandler r base), stages := ← raw.st.mapM (parseStage r base),
                        tmpls := ← entries.mapM (parseTmpl r base launch) }
    let bad7 := ntmpl = 0 || 65536 < ntmpl || nstage = 0 || 65535 < nstage || 4096 < ntens || 4096 < nname || 256 < nshape ||
      14 < nhand || w % 64 != 0 || fieldAt h 16 8 != nth 0 off 4 || imgBreaks (nth 0 off 6) raw im
    let bad4 := im.tensors.any (fun t => 0xFF0000 ≤ t.tid)
    let bad2 := entries.any (fun e => e.1 &&
      (1024 < fieldAt e.2 24 2 || 1024 < fieldAt e.2 26 2 || 1024 < fieldAt e.2 28 2))
    return (im, (if bad2 then [2] else []) ++ (if bad4 then [4] else []) ++ (if bad7 then [7] else []))

/-- R102: the loader asks a host or a peer for a block of an image. -/
def askBlock (s : State) (pa : Nat) (p : Path) : State :=
  let req := 64 * s.nextAcc
  let out := if p == .host then Out.hostRead (hostAddr pa).1 (hostAddr pa).2 4096 req
    else Out.peerReq (pa / 2 ^ 35 % 4096) (pa % 2 ^ 35) req .load (List.replicate 4096 .keep)
  { s with nextAcc := s.nextAcc + 1, fetched := put (pa / 4096) ⟨req, none, false⟩ s.fetched, outHost := s.outHost ++ [out] }

end Sys2Proof.Machine
end

