-- ==== Sys2Proof/Machine/Launch.lean ====
section
/-! DEFINITION. From launch to running stage: the launch window, admission, placement, stage load and stage end (R57, R78,
R85, R86, R90 to R104). -/

namespace Sys2Proof.Machine

/-! The launch window. -/

/-- A slot's view before any launch. -/
def LaunchSlot.none : LaunchSlot := ⟨false, false, 0, 0, []⟩

/-- The state with a slot's view replaced. -/
def setSlot (s : State) (port slot : Nat) (l : LaunchSlot) : State := { s with slots := put (1024 * port + slot) l s.slots }

/-- R90, R93, R94, R97: one launch record arrives at a slot. -/
def hostLaunch (s : State) (port slot : Nat) (r : List Byte) : State :=
  if recMalformed r then setSlot s port slot ⟨true, false, 0, 3, []⟩
  else match poolNext s with
    | none => setSlot s port slot ⟨true, false, 0, 1, []⟩
    | some id =>
      let s := setSlot s port slot ⟨true, false, BitVec.ofNat 32 (poolHandle s id), 0, []⟩
      poolTake s id r none 1 (some (port, slot)) (some port) 0 false

/-- R93: LAUNCH_WINDOW_WRITE: bytes written at an offset of the launch window launch each slot that they cover whole. -/
def execLaunchWindowWrite (port off : Nat) (bytes : List Byte) (s : State) : Result :=
  .next (if port < 2 && pcieUp s then
    ((upTo 1024).filter (fun k => off ≤ 64 * k && 64 * k + 64 ≤ off + bytes.length)).foldl (fun s k =>
      hostLaunch s port k ((bytes.drop (64 * k - off)).take 64)) s
  else s)

/-- R94, Table 4.4: the view of a slot. -/
def slotView (l : LaunchSlot) : List Byte :=
  let v := l.acc + l.handle.toNat * 2 ^ 16 + (if l.ended then 2 ^ 62 else 0) + (if l.done then 2 ^ 63 else 0)
  leBytes 8 v ++ (l.cpl ++ List.replicate 32 0).take 32 ++ List.replicate 24 0

/-- R94: LAUNCH_SLOT_READ: a launch is accepted or refused as its record arrives, so a read never waits. -/
def execLaunchSlotRead (port slot : Nat) (s : State) : Result :=
  .next (if pcieUp s then
    { s with outHost := s.outHost ++ [.slotView port slot (slotView ((find (1024 * port + slot) s.slots).getD LaunchSlot.none))] }
  else s)

/-! Admission. -/

/-- R100: the lowest-numbered free context. -/
def freeCtx (s : State) : Option Nat := (upTo 256).find? (fun c => (graphAt s c).isNone)

/-- R100: the pool record that is admitted next: highest priority, then earliest. -/
def nextLaunch (s : State) : Option (Nat × PoolRec) :=
  leastBy (fun e => (7 - e.2.prio) * 2 ^ 64 + e.2.seq) (s.pool.filter (fun e => !e.2.taken))

/-- R300: the translation root that an admitted launch takes. -/
def rootOf (s : State) (r : PoolRec) : Word :=
  match r.host, r.parent with
  | some (port, _), _ => msRaw s (0x808 + port)
  | none, some _ => r.root
  | none, none => msRaw s 0x80A

/-- Table 4.1: the grace window in cycles. -/
def recGrace (r : List Byte) : Nat :=
  let g := leNat ((r.drop 20).take 2)
  if g = 0 then 20000 else 16 * g

/-- The graph of an admitted launch. -/
def newGraph (s : State) (handle : Nat) (r : PoolRec) : Graph :=
  { launch := handle, parent := r.parent, depth := r.depth, prio := r.prio, grace := recGrace r.record, part := r.part,
    root := rootOf s r, record := r.record, host := r.host, image := none, stage := 0, running := false, ending := none, barred := [], placed := [],
    earlier := [], firedIds := [], exitsDone := [], admitted := s.kcyc, runsum := 0, maxrun := 0, ninst := 0 }

/-- Table 4.2: the subscriptions of every stage of an image to a name. -/
def allSubs (g : Graph) (n : Name) : Nat :=
  match g.image with
  | none => 0
  | some im => im.tmpls.foldl (fun a tm => (instances g tm).foldl (fun a i =>
      a + (tm.subs.filter (fun sd => subBinds sd i (nameCtx n) n)).length) a) 0

/-- R91: the launch record's publication; its count of subscriptions is taken modulo 2^16 (DESIGN CHOICE, log entry 85). -/
def launchPub (g : Graph) (ctx : Nat) : Pub :=
  let n := mkName (0xFF0000 + g.launch % 65536) 0 ctx (g.launch / 65536) 3
  { name := n, nsub := allSubs g n % 65536, sv := false, splane := 0, pmap := 0, rel := false, clean := false, wp := false,
    scope := 2, fmt := 0, data := g.record }

/-- R100, R101: ADMISSION: the next launch takes a context and its record is published; the loader then has its graph.
The count of its subscriptions comes from the image, so blocks of it that a host or a peer holds are read first. -/
def execAdmission (s : State) : Result :=
  .next (match nextLaunch s, freeCtx s with
  | some (id, r), some c =>
    if stageOf s < 4 then s
    else
      let handle := poolHandle s id
      let g := newGraph s handle r
      -- no code of a stage is read yet: no stage has that number
      match parseImage ⟨s, c, g.root⟩ (recBase r.record) handle 65536 with
      | .error (.need pa p) => askBlock s pa p
      | .error .wait => s
      | q =>
        let g' := match q with
          | .ok (im, _) => { g with image := some im }
          | .error _ => g
        -- the poison log of the context counts from 0 (R335)
        let s := match q with
          | .error (.marred pa n) => discover s pa n
          | _ => s
        let s := { s with pool := put id { r with taken := true } s.pool, graphs := put c g s.graphs, sinks := del c s.sinks }
        sendPub s (launchPub g' c) Config.ks 0 [] 0
  | _, _ => s)

/-! Placement. -/

/-- R94, R352: whether a graph's partition keeps it from a bay. -/
def partOut (s : State) (g : Graph) (b : Nat) : Bool :=
  match g.part with
  | none => false
  | some port =>
    let k := bayOrd b
    let bit := if k < 64 then (msRaw s 0x806).getLsbD k else (msRaw s 0x807).getLsbD (k - 64)
    bit != (port == 1)

/-- R339, R352: the bays that a stage placed now may not use. -/
def barredNow (s : State) (g : Graph) : List Nat := bays.filter (fun b => partOut s g b || s.excluded.contains b)

/-- R43, R94, R346: the sites that a placement of a graph excludes, with the bays that its stage may not use. -/
def placeOut (s : State) (barred : List Nat) (t : Nat) : Bool :=
  placeExcluded s t || barred.contains (bayOf t) ||
    (match s.lowVac with
    | none => false
    | some v => v.sites.contains t)

/-- R86: the first span from a span on, wrapping, with a tile that is not excluded, by fuel over the spans. -/
def spanFrom (out : Nat → Bool) : Nat → Nat → Option Nat
  | 0, _ => none
  | fuel + 1, p =>
    if (spanTiles p).any (fun t => isSite t && !out t) then some p else spanFrom out fuel ((p + 1) % 1600)

/-- R86: where an instance of a template goes, and its span group. -/
def placeOne (s : State) (g : Graph) (ctx k : Nat) (tm : Template) (i : BitVec 30) : Option Placed :=
  let out := placeOut s g.barred
  if tm.group = 0 then
    (lookup out (placeKey k ctx i)).map (fun t => ⟨k, i, t, none⟩)
  else
    let l := linIndex g tm i
    let e := extents g tm
    let first := l / tm.group * tm.group
    let head := mkInst (first % e.1) (first / e.1 % e.2.1) (first / (e.1 * e.2.1))
    match (lookup out (placeKey k ctx head)).bind (fun t => spanFrom out 1600 (spanOf t)) with
    | none => none
    | some p =>
      let tiles := (spanTiles p).filter (fun t => isSite t && !out t)
      let m := l % tm.group
      (tiles[m % tiles.length]?).map (fun t => ⟨k, i, t, some (l / tm.group, m)⟩)

/-- R86: the placements of a stage, `none` for an instance that has no site. -/
def placeStage (s : State) (g : Graph) (ctx : Nat) (tms : List (Nat × Template)) : List (Option Placed) :=
  tms.flatMap (fun e => (instances g e.2).map (placeOne s g ctx e.1 e.2))

/-! The checks of a stage. -/

/-- R103: the narrowest scope that contains some tiles. -/
def reachAll : List Nat → Nat
  | [] => 0
  | t :: l => l.foldl (fun r u => let x := reachOf t u; if r < x then x else r) 0

/-- The templates of the stages up to one, with their numbers. -/
def tmplsUpTo (g : Graph) : List (Nat × Template) :=
  (upTo (g.stage + 1)).flatMap (fun st => stageTmpls g st)

/-- R103: whether a subscription of a template of the stage is accepted. -/
def subAccepted (g : Graph) (k : Nat) (sd : SubDecl) : Bool :=
  let tilesOf (j : Nat) := ((g.placed ++ g.earlier).filter (fun p => p.tmpl == j)).map (fun p => p.tile)
  let decls := (tmplsUpTo g).flatMap (fun e => (e.2.pubs.filter (fun d => d.tid == sd.tid)).map (fun d => (e.1, d)))
  if decls.isEmpty then 2 ≤ sd.scope && (sd.launch || (pierTensor g sd.tid).isSome)
  else decls.any (fun e => reachAll (tilesOf k ++ tilesOf e.1) ≤ e.2.scope && e.2.scope ≤ sd.scope)

/-- R43, Table 4.6: whether every bay-local name of the graph has a home-capable site in its bay. -/
def baysOk (s : State) (im : Image) : Bool :=
  im.names.all (fun d => match d.bay with
    | none => true
    | some (x, y) => baySlot (16 * y + x) && (bayTiles (16 * y + x)).any (fun t => !homeExcluded s t))

/-- Tiles of placements, each once. -/
def tilesOf (l : List Placed) : List Nat := l.foldl (fun r p => if r.contains p.tile then r else r ++ [p.tile]) []

/-- The least of some numbers. -/
def lowest (l : List Nat) : Option Nat := leastBy (fun n => n) l

/-- R102 to R104: the placements of a stage, or the lowest reason to refuse it. Where some instance has no site, the scopes and the
reserve are judged over those that have one. -/
def checkStage (s : State) (g : Graph) (ctx : Nat) (bad : List Nat) : Except Nat (List Placed) :=
  let tms := stageTmpls g g.stage
  -- extents past 1,024 are refused before a placement is sought
  if bad.contains 2 then .error 2
  else
    let all := placeStage s g ctx tms
    let pl := all.filterMap (fun p => p)
    let g' := { g with placed := pl, running := true }
    let s' := { s with graphs := put ctx g' s.graphs }
    let bay := if (g.image.map (baysOk s)).getD true then [] else [5]
    let scope := if tms.all (fun e => e.2.subs.all (subAccepted g' e.1)) then [] else [3]
    let room := if (tilesOf pl).any (fun t => 128 < reserve s' t) then [6] else []
    let site := if all.any Option.isNone then [8] else []
    match lowest (bad ++ bay ++ scope ++ room ++ site) with
    | some w => .error w
    | none => .ok pl

/-! Distribution. -/

/-- R179: the bytes of a run that the stage loader writes at an offset of a tile's scratchpad: none of the writable table. -/
def belowTable (t off : Nat) (l : List Byte) : List Byte := if isKs t then l else l.take (0xFFE00 - off)

/-- R140, R235, R547: the bytes of an entry's code and data are written into a core's scratchpad. -/
def writeText (s : State) (t code codeLen data : Nat) (text : List Byte) : State :=
  let put_ (s : State) (off : Nat) (l : List Byte) : State := writeClean (routerTurn s t (padBase t + off) l.length) (padBase t + off) l
  put_ (put_ s code (belowTable t code (text.take codeLen))) data (belowTable t data (text.drop codeLen))

/-- R547: a template's code and data on a tile. -/
def hostTmpl (s : State) (t : Nat) (tm : Template) : State := writeText s t tm.code tm.codeLen tm.data tm.text

/-- R102, step 2, R307: the loader patches the declared patterns of a template into the generators of a tile that hosts it. -/
def patchGens (s : State) (ctx t k : Nat) (g : Graph) (tm : Template) : State :=
  let sp : Space := ⟨t, 0, ctx, g.root, true⟩
  let new := tm.pats.map (fun e => (⟨ctx, k, e.1, patch s sp e.2⟩ : Gen))
  updCore (tm.pats.foldl (fun s e => patchFound s sp e.2) s) t (fun c => { c with gens := c.gens.filter (fun x => !(x.ctx == ctx && x.tmpl == k)) ++ new })

/-- R66, R75: the publications that a tile's router holds already go to the subscriptions of an instance placed there. -/
def tileAnswers (s : State) (g : Graph) (ctx t : Nat) : State :=
  let mine := g.placed.filter (fun p => p.tile == t)
  let binds (n : Name) : Bool := mine.any (fun p => (liveSubs (tmplOf g p.tmpl) p.inst).any (fun d => subBinds d.2 p.inst ctx n))
  let s := readTile s t binds
  let met := ((coreAt s t).tilePubs.filter (fun e => binds e.1.name)).map (fun e => Msg.deliver (readCopy s t e.1) t .template t)
  { s with net := s.net ++ met }

/-- R319: the handlers of a graph on a core. -/
def hostHandlers (s : State) (g : Graph) (t : Nat) : State :=
  match g.image with
  | none => s
  | some im => im.handlers.foldl (fun s h => writeText s t h.code h.codeLen h.data h.text) s

/-- R319: the cores that hold the handlers of a graph on some tiles: those of the spans that host it, and the keystone. -/
def handlerCores (s : State) (tiles : List Nat) : List Nat :=
  let spans := tiles.foldl (fun (r : List Nat) t => if r.contains (spanOf t) then r else r ++ [spanOf t]) []
  spans.flatMap (fun p => (spanTiles p).filter (computeCapable s)) ++ [Config.ks]

/-- R319: the handlers of a graph on every tile of the spans that host it, and on the keystone. -/
def spreadHandlers (s : State) (g : Graph) (tiles : List Nat) : State :=
  (handlerCores s tiles).foldl (fun s t => hostHandlers s g t) s

/-- The runs of bytes that an entry's code and data take in a core's scratchpad. -/
def textRuns (t code codeLen data : Nat) (text : List Byte) : List (Nat × Nat × Nat) :=
  [(t, code, min codeLen text.length), (t, data, text.length - codeLen)]

/-- R102, R319, R547: what the loader writes for some placements: cores, offsets and lengths. -/
def textsOf (s : State) (g : Graph) (pl : List Placed) (tiles : List Nat) : List (Nat × Nat × Nat) :=
  pl.flatMap (fun p => let tm := tmplOf g p.tmpl
    textRuns p.tile tm.code tm.codeLen tm.data tm.text) ++
  (handlerCores s tiles).flatMap (fun t => (g.image.elim [] (fun im => im.handlers)).flatMap (fun h =>
    textRuns t h.code h.codeLen h.data h.text))

/-- R235: whether the loader's writes may pass at the banks: no request stands before them (log entry 80). -/
def textFree (s : State) (l : List (Nat × Nat × Nat)) : Bool := l.all (fun e => banksFree s e.1 (padBase e.1 + e.2.1) e.2.2)

/-- R73, R102: the subscriptions of a placed instance, as its tile sends them: one for each name and tile. -/
def placedSubs (g : Graph) (ctx : Nat) (p : Placed) : List Sub :=
  (liveSubs (tmplOf g p.tmpl) p.inst).map (fun e =>
    { name := subName e.2 p.inst ctx 0, anyIter := true, tile := p.tile, of_ := .template, scope := e.2.scope,
      direct := false, routers := [], seen := [] })

/-- A list of subscriptions with a tile's subscription to one name once, at the widest scope asked. -/
def mergeSubs (l : List Sub) : List Sub :=
  l.foldl (fun r q =>
    if r.any (fun x => x.name == q.name && x.tile == q.tile) then
      r.map (fun x => if x.name == q.name && x.tile == q.tile && x.scope < q.scope then { x with scope := q.scope } else x)
    else r ++ [q]) []

/-- R69, R105: an instance that needs no publication stands at its tile's cursor from stage start, in ascending template number;
templates of different graphs with one number stand in the order of their stage loads (DESIGN CHOICE, log entry 83). -/
def atCursor (ctx : Nat) (s : State) (p : Placed) : State :=
  match graphAt s ctx with
  | none => s
  | some g =>
    if noInputs (tmplOf g p.tmpl) p.inst then
      let id : Ident := ⟨ctx, p.tmpl, p.inst, BitVec.ofNat 24 (ctx * 65536)⟩
      updCore (updGraph s ctx (fun g => { g with firedIds := g.firedIds ++ [id], ninst := g.ninst + 1 })) p.tile
        (fun c =>
          let low := c.cursor.filter (fun e => e.1.tmpl ≤ p.tmpl)
          let high := c.cursor.filter (fun e => p.tmpl < e.1.tmpl)
          { c with cursor := low ++ [(id, c.cyc)] ++ high })
    else s

/-- R79, R81: the pier tensors of a graph are registered: a residency entry may name them from then on, as far as the 16,384 entries of
the residency table go (log entry 107). -/
def registerAll (m : Map Tensor) (g : Graph) : Map Tensor :=
  match g.image with
  | none => m
  | some im => (im.tensors.filter (fun t => t.pier)).foldl (fun m t =>
      if (find t.tid m).isSome || m.length < 16384 then put t.tid t m else m) m

/-- R102, step 5: a stage is distributed and runs. -/
def distribute (s : State) (ctx : Nat) (g : Graph) (pl : List Placed) : State :=
  let tiles := tilesOf pl
  let g := { g with placed := pl, running := true, firedIds := [] }
  let s := { s with graphs := put ctx g s.graphs, fetched := [], tensors := registerAll s.tensors g }
  let s := (stageTmpls g g.stage).foldl (fun s e =>
    (tilesOf (pl.filter (fun p => p.tmpl == e.1))).foldl (fun s t => patchGens (hostTmpl s t e.2) ctx t e.1 g e.2) s) s
  let s := spreadHandlers s g tiles
  let s := { s with net := s.net ++ (mergeSubs (pl.flatMap (placedSubs g ctx))).map Msg.sub }
  let s := tiles.foldl (fun s t => tileAnswers s g ctx t) s
  let s := pl.foldl (atCursor ctx) s
  -- a wake for each gated bay that holds an instance (R110)
  let s := tiles.foldl (fun s t => requestWake s (bayOf t)) s
  tiles.foldl fill (startWakes s)

/-- R102 to R104: STAGE_LOAD. -/
def execStageLoad (ctx : Nat) (s : State) : Result :=
  .next (match graphAt s ctx with
  | none => s
  | some g =>
    if g.running || g.ending.isSome || hashHeld s then s
    -- R102, R278: the accesses of the stage before have taken effect, its posted writes among them (R280)
    else if !graphQuiet s ctx then flushOf (fun a => a.who.ctx == ctx) s
    else match parseImage ⟨s, ctx, g.root⟩ (recBase g.record) g.launch g.stage with
      | .error (.why w) => { abortGraph s ctx 1 w with fetched := [] }
      -- R261: an uncorrectable line is found, and the image is unreadable
      | .error (.marred pa n) => { abortGraph (discover s pa n) ctx 1 1 with fetched := [] }
      | .error (.need pa p) => askBlock s pa p
      | .error .wait => s
      | .ok (im, bad) =>
        let g := { g with image := some im, earlier := g.earlier ++ g.placed, placed := [], barred := barredNow s g }
        match checkStage s g ctx bad with
        | .error w => { abortGraph s ctx 1 w with fetched := [] }
        | .ok pl => if textFree s (textsOf s g pl (tilesOf pl)) then distribute s ctx g pl else s)

/-! The end of a stage. -/

/-- R57: whether every fired instance of a graph has ended. -/
def allEnded (s : State) (ctx : Nat) : Bool :=
  s.threads.all (fun e => e.2.kind != .task || e.2.graph != some ctx) && s.saved.all (fun v => v.th.graph != some ctx) &&
  s.cores.all (fun c => (c.2.fired ++ c.2.cursor).all (fun f => f.1.ctx != ctx))

/-- The context of a message about a publication or subscription. -/
def msgCtx : Msg → Option Nat
  | .pub p _ _ _ _ _ => some (nameCtx p.name)
  | .sub q => some (nameCtx q.name)
  | .copy p _ _ => some (nameCtx p.name)
  | .deliver p _ _ _ => some (nameCtx p.name)
  | .pierSub _ n _ => some (nameCtx n)
  | .pierRead n _ _ _ => some (nameCtx n)
  | .defer n _ => some (nameCtx n)
  | .resume _ | .drop _ _ _ | .unsub _ _ _ | .free _ _ | .afault _ _ => none

/-- R57: whether a graph is quiescent. -/
def quiescent (s : State) (ctx : Nat) : Bool :=
  s.net.all (fun m => msgCtx m != some ctx) &&
  s.homes.all (fun h => nameCtx h.pub.name != ctx || h.deferred.isEmpty) &&
  s.cores.all (fun c => (c.2.eng0 ++ c.2.eng1).all (fun d => d.graph != ctx))

/-- R57: whether the stage of a graph ends. -/
def stageOver (s : State) (ctx : Nat) (g : Graph) : Bool :=
  let exits := match g.image.bind (fun im => im.stages[g.stage]?) with
    | none => []
    | some st => st.exits
  g.running && allEnded s ctx &&
    (if exits.isEmpty then quiescent s ctx else exits.all (fun e => g.exitsDone.contains e))

/-- R78: whether a publication is freed with the stage of a graph that ends: it is of that stage, and no later one subscribes its
tensor; launch names stay with the graph. -/
def freedByStage (g : Graph) (ctx : Nat) (n : Name) (stage : Nat) : Bool :=
  nameCtx n == ctx && nameTid n < 0xFF0000 && stage == g.stage && !laterSubscribes g stage n

/-- R57, R78: unfired instances, their entries and the stage's subscriptions go, with the publications that no later
stage subscribes. -/
def clearStage (s : State) (ctx : Nat) (g : Graph) : State :=
  let gone := (s.homes.filter (fun h => freedByStage g ctx h.pub.name h.stage)).map (fun h => h.pub.name)
  resumeAll { s with
    homes := (s.homes.filter (fun h => !gone.contains h.pub.name)).map (fun h =>
      if nameCtx h.pub.name = ctx then { h with deferred := [] } else h),
    subs := s.subs.filter (fun q => nameCtx q.name != ctx || q.of_ != .template),
    cores := s.cores.map (fun e => (e.1, { e.2 with
      tilePubs := e.2.tilePubs.filter (fun p => !freedByStage g ctx p.1.name p.2),
      cache := e.2.cache.filter (fun p => !gone.contains p.name),
      anys := e.2.anys.filter (fun p => nameCtx p.name != ctx), store := e.2.store.filter (fun m => m.id.ctx != ctx),
      admitted := e.2.admitted.filter (fun a => a.toNat / 65536 != ctx),
      nmt := e.2.nmt.filter (fun m => nameCtx m.1.1 != ctx || s.subs.any (fun q => q.of_ != .template && q.key == m.1 && q.routers.contains e.1)),
      gens := e.2.gens.filter (fun x => x.ctx != ctx) })),
    net := (s.net.filter (fun m => match m with
      | .deliver p _ o _ => nameCtx p.name != ctx || o != .template
      | .sub q => nameCtx q.name != ctx || q.of_ != .template
      | .defer n _ => nameCtx n != ctx
      | .pierSub _ n _ => nameCtx n != ctx
      | _ => true)).map (fun m => match m with
      | .copy p r l => .copy p r (if nameCtx p.name = ctx then l.filter (fun x => x.of_ != .template) else l)
      | m => m) }

/-- Whether a graph has a handler thread still: the end of the graph waits for it, as its completion follows every access of the graph
(log entry 24). -/
def handled (s : State) (ctx : Nat) : Bool := s.threads.any (fun e => e.2.graph == some ctx)

/-- R57, R78, R92, R104: STAGE_END; the completion of a graph follows every access of it (Table 11.5), that of an aborted one too. -/
def execStageEnd (ctx : Nat) (s : State) : Result :=
  .next (match graphAt s ctx with
  | none => s
  | some g =>
    let last := (g.image.map (fun im => im.stages.length)).getD 0 ≤ g.stage + 1
    -- the end of a launch follows its posted writes too: the reads that acknowledge them go now (R278, R280)
    let flushed := flushOf (fun a => a.who.ctx == ctx) s
    if let some (res, why) := g.ending then (if graphQuiet s ctx then endGraph s ctx res why else flushed)
    else if !stageOver s ctx g then s
    else if last && (!graphQuiet s ctx || handled s ctx) then flushed
    else
      let s := clearStage s ctx g
      if last then endGraph s ctx 0 0
      else updGraph s ctx (fun g => { g with stage := g.stage + 1, running := false }))

end Sys2Proof.Machine
end

