-- ==== Sys2Proof/Machine/SaveImage.lean ====
section
/-! DEFINITION. Save areas and save images (R342 to R344, Tables 15.4 and 15.5). -/

namespace Sys2Proof.Machine

/-- R342: the save area of a pier. -/
def areaBase (a : Nat) : Nat := a * 0x1000000000 + 0xFC0000000

/-- R342, R356: the pier that takes a tile's images: the nearest, or the next in ascending number whose stack trained. -/
def savePier (s : State) (t : Nat) : Nat :=
  servingPier s ((nearestPier s t).getD 3)

/-- R342: the blocks of a save area that images hold. -/
def areaUsed (s : State) (a : Nat) : List (Nat × Nat) :=
  (s.saved.filter (fun v => areaBase a ≤ v.addr && v.addr < areaBase a + 0x40000000)).map (fun v =>
    ((v.addr - areaBase a) / 0x10000, v.blocks))

/-- R342: the lowest run of free blocks beside the blocks that images hold. -/
def areaLow (used : List (Nat × Nat)) (n : Nat) : Option Nat :=
  let free (b : Nat) : Bool := b + n ≤ 16384 && used.all (fun u => b + n ≤ u.1 || u.1 + u.2 ≤ b)
  leastBy (fun b => b) ((0 :: used.map (fun u => u.1 + u.2)).filter free)

/-- R342: the lowest run of free blocks of a save area. -/
def areaFind (s : State) (a n : Nat) : Option Nat := areaLow (areaUsed s a) n

/-- An extent joined with each later one that overlaps what it has grown to; the list is in ascending offset. -/
def joinFrom (o n : Nat) : List (Nat × Nat) → List (Nat × Nat)
  | [] => [(o, n)]
  | (p, m) :: l => if p < o + n then joinFrom o (if o + n < p + m then p + m - o else n) l else (o, n) :: joinFrom p m l

/-- Table 7.3, R344: extents with those that overlap merged; the list is in ascending offset. -/
def joinExtents : List (Nat × Nat) → List (Nat × Nat)
  | [] => []
  | (o, n) :: l => joinFrom o n l

/-- An extent put into a list in ascending offset. -/
def insertExtent (e : Nat × Nat) : List (Nat × Nat) → List (Nat × Nat)
  | [] => [e]
  | f :: l => if e.1 ≤ f.1 then e :: f :: l else f :: insertExtent e l

/-- R344: the extents of a thread: its template's `.live` lines, merged, and its bound inputs. -/
def extentsOf (s : State) (th : Thread) : List (Nat × Nat) :=
  let live := match th.graph.bind (graphAt s) with
    | none => []
    | some g => (tmplOf g (identOf th).tmpl).live
  joinExtents (live.foldl (fun l e => insertExtent e l) []) ++
    th.inputs.map (fun x => (x.off, (32 + x.pub.data.length + 7) / 8 * 8))

/-- Where the extent bytes begin (Table 15.4). -/
def imageD (mx : Bool) : Nat := if mx then 0x25700 else 0x2E00

/-- The bytes of an image. -/
def imageSize (mx : Bool) (ext : List (Nat × Nat)) : Nat := ext.foldl (fun n e => n + e.2) (imageD mx)

/-- Whether a thread holds its core's accumulator file. -/
def holdsFile (s : State) (t : Nat) (th : Thread) : Bool := (coreAt s t).holder == some th.uid

/-- The 64 KiB blocks that the image of a thread takes. -/
def imageBlocks (s : State) (t : Nat) (th : Thread) : Nat := (imageSize (holdsFile s t th) (extentsOf s th) + 65535) / 65536

/-- A list of bits as bytes, lowest first. -/
def bitBytes (n : Nat) (f : Nat → Bool) : List Byte :=
  (upTo n).map (fun i => BitVec.ofNat 8 ((upTo 8).foldl (fun a k => a + if f (8 * i + k) then 2 ^ k else 0) 0))

/-- Table 15.5: the header of an image. -/
def imageHeader (v : Saved) (fz : Bool) : List Byte :=
  let th := v.th
  let ext := v.extents.map (fun e => (e.1, e.2.1.length))
  let id := identOf th
  let n := 0x5653584B + 0x0300 * 2 ^ 32 + (if v.acc.isSome then 2 ^ 48 else 0) + (if fz then 2 ^ 49 else 0) + id.ctx * 2 ^ 56 +
    th.regs.tag.toNat * 2 ^ 64 + id.tmpl % 65536 * 2 ^ 96 + id.inst.toNat * 2 ^ 112 + th.pc.toNat % 2 ^ 22 * 2 ^ 144 +
    v.cmds.length * 2 ^ 168 + ext.length * 2 ^ 176 + th.arrived.toNat * 2 ^ 208 + th.ran % 2 ^ 64 * 2 ^ 256 +
    imageSize v.acc.isSome ext * 2 ^ 320
  leBytes 64 n

/-- Table 5.8: ctl.prio. -/
def prioWord (r : Regs) : Word := BitVec.ofNat 64 (r.level.toNat + r.lprio.toNat * 256 + if r.boost then 32768 else 0)
/-- Table 5.6: ctl.rngq. -/
def rngWordOf (r : Regs) : Word := BitVec.ofNat 64 (r.rng.cnt + r.rng.head.toNat * 16 + r.rng.ctr.toNat * 65536)

/-- Table 15.4: the registers of an image, from the scalar registers to the random-bit queue. -/
def imageRegs (r : Regs) : List Byte :=
  let z (n : Nat) : List Byte := List.replicate n 0
  (upTo 64).flatMap (fun i => leBytes 8 (r.rdS (BitVec.ofNat 6 i)).val.toNat) ++
  (upTo 16).flatMap (fun i => leBytes 8 (r.rdP (BitVec.ofNat 4 i)).toNat) ++
  bitBytes 8 (fun i => (r.rdS (BitVec.ofNat 6 i)).poison) ++
  (upTo 32).flatMap (fun k => bitBytes 8 (fun i => (Vec.lane (r.rdV (BitVec.ofNat 5 k)) i).poison)) ++ z 56 ++
  (upTo 8).flatMap (fun i => leBytes 16 (r.rdSh (BitVec.ofNat 3 i)).bits.toNat) ++
  [r.rm.toNat, if r.psink then 1 else 0, r.fflags.toNat, r.seed.toNat, (rngWordOf r).toNat, (prioWord r).toNat].flatMap (leBytes 8) ++
  bitBytes 1 (fun i => (r.rdSh (BitVec.ofNat 3 i)).valid) ++ z 15 ++
  (upTo 16).flatMap (fun i => leBytes 32 (r.rdG (BitVec.ofNat 4 i)).toNat) ++
  (upTo 4).flatMap (fun i => leBytes 128 (getD 0 i r.rng.ent).toNat)

/-- The held fault of a command in an image: a valid bit, its class and its address (log entry 55 for the places). -/
def heldWord (f : Option AFault) : Nat :=
  match f with
  | none => 0
  | some f => 2 ^ 63 + f.cls.code * 2 ^ 56 + (match f.addr with
    | none => 0
    | some a => a.toNat + 2 ^ 55)

/-- Table 15.4: the 64 bytes of a command: its pattern, sA, the name pair, the identifier and prefix, and the held fault. Where each
stands past the pattern is the model's (log entry 55). -/
def cmdBytes (c : Cmd) : List Byte :=
  leBytes 32 c.pat.toNat ++ leBytes 4 c.sa ++ leBytes 12 c.name.toNat ++
    leBytes 8 (c.seq % 2 ^ 32 + c.eng * 2 ^ 32 + c.pfx % 2 ^ 22 * 2 ^ 33) ++ leBytes 8 (heldWord c.held)

/-- Table 15.4: the commands of an image. -/
def imageCmds (l : List Cmd) : List Byte :=
  let r := (l.take 16).flatMap cmdBytes
  r ++ List.replicate (1024 - r.length) 0

/-- Table 15.4: the accumulator block. -/
def imageMx (acc : Map (List Lane)) (ob : Map Byte) (bad : Map Bool) : List Byte :=
  let lane (i : Nat) : Lane := nth Lane.zero (getD accRow (accKey (i / 1024) (i / 32 % 32)) acc) (i % 32)
  (upTo 16384).flatMap (fun i => leBytes 4 (lane i).val.toNat) ++ bitBytes 2048 (fun i => (lane i).poison) ++
  (upTo 73728).map (fun i => getD 0 i ob) ++
  (upTo 4).flatMap (fun b => bitBytes 36 (fun i => getD false (obSeg b i) bad) ++ List.replicate 28 0)

/-- R343: the bytes of an image, with the poison of each. -/
def imageBytes (v : Saved) (fz : Bool) : List Byte × List Bool :=
  let ext := v.extents
  let rec_ : List Byte := match v.th.fault with
    | none => List.replicate 64 0
    | some r => (upTo 8).flatMap (fun i => leBytes 8 (r.word i).toNat)
  let vecs := (upTo 32).flatMap (fun k => (upTo 64).flatMap (fun i =>
    leBytes 4 (Vec.lane (v.th.regs.rdV (BitVec.ofNat 5 k)) i).val.toNat))
  let tab := ((upTo 32).flatMap (fun i => match ext[i]? with
    | none => List.replicate 8 0
    | some e => leBytes 4 e.1 ++ leBytes 4 e.2.1.length))
  let mx := match v.acc with
    | none => []
    | some (a, o, b) => imageMx a o b
  let head := imageHeader v fz ++ rec_ ++ imageRegs v.th.regs ++ imageCmds v.cmds ++ vecs ++ tab ++ mx
  (head ++ ext.flatMap (fun e => e.2.1), List.replicate head.length false ++ ext.flatMap (fun e => e.2.2))

/-! Reading an image back (R347). -/

/-- An image as it reads: its bytes and the poison of each. -/
structure Stored where
  bytes : List Byte
  bad : List Bool
  deriving DecidableEq, Repr

/-- A part of an image. -/
def Stored.part (x : Stored) (o n : Nat) : Stored := ⟨(x.bytes.drop o).take n, (x.bad.drop o).take n⟩

/-- A little-endian field of an image. -/
def Stored.field (x : Stored) (o n : Nat) : Nat := leNat (x.part o n).bytes

/-- Whether a part of an image lies in a poisoned line. -/
def Stored.marred (x : Stored) (o n : Nat) : Bool := (x.part o n).bad.any (fun b => b)

/-- The parts of `w` bytes of a part of an image. -/
def Stored.cells (x : Stored) (o w n : Nat) : List Stored :=
  ((splitTable w n (x.part o (w * n)).bytes).zip (splitFlags w n (x.part o (w * n)).bad)).map (fun e => ⟨e.1, e.2⟩)
where
  /-- A list of flags in runs of w. -/
  splitFlags (w : Nat) : Nat → List Bool → List (List Bool)
    | 0, _ => []
    | n + 1, l => l.take w :: splitFlags w n (l.drop w)

/-- Whether any byte of a part is poisoned. -/
def Stored.dirty (x : Stored) : Bool := x.bad.any (fun b => b)

/-- The number that a part holds. -/
def Stored.val (x : Stored) : Nat := leNat x.bytes

/-- The bits of a part of an image. -/
def Stored.bits (x : Stored) (o n : Nat) : List Bool :=
  (x.part o n).bytes.flatMap (fun b => (upTo 8).map (fun k => b.getLsbD k))

/-- A map that lists no default, from the values of its keys in ascending order. -/
def listed {α : Type} [DecidableEq α] (d : α) (l : List α) : Map α :=
  ((upTo l.length).zip l).filter (fun e => e.2 != d)

/-- The lanes that some cells of four bytes and some shadow bits give: one in a poisoned line arrives poisoned. -/
def lanesOf (cells : List Stored) (shadow : List Bool) : List Lane :=
  (cells.zip shadow).map (fun e => ⟨BitVec.ofNat 32 e.1.val, e.2 || e.1.dirty⟩)

/-- A list cut into rows of n, the last of them first out, by fuel. -/
def rowsOf {α : Type} (n : Nat) : Nat → List α → List (List α)
  | 0, _ => []
  | k + 1, l => l.take n :: rowsOf n k (l.drop n)

/-- Table 15.4: the registers of an image; what an image does not hold stays. -/
def regsOf (r : Regs) (x : Stored) : Regs :=
  let word (k : Nat) : Nat := x.field (0x4C0 + 8 * k) 8
  let s := (((x.cells 0x80 8 64).zip (x.bits 0x300 8)).map (fun e => (⟨BitVec.ofNat 64 e.1.val, e.2 || e.1.dirty⟩ : SVal)))
  let shv := x.bits 0x4F0 1
  { r with
    s := (listed SVal.zero s).filter (fun e => e.1 != 0),
    p := (listed 0 ((x.cells 0x280 8 16).map (fun c => BitVec.ofNat 64 c.val))).filter (fun e => e.1 != 0),
    v := listed vecZero (rowsOf 64 32 (lanesOf (x.cells 0xD00 4 2048) (x.bits 0x308 256))),
    sh := listed ⟨0, false⟩ (((x.cells 0x440 16 8).zip shv).map (fun e => ⟨BitVec.ofNat 128 e.1.val, e.2⟩)),
    g := listed 0 ((x.cells 0x500 32 16).map (fun c => BitVec.ofNat 256 (c.val - c.val / 2 ^ 55 % 2 ^ 8 * 2 ^ 55))),
    rm := BitVec.ofNat 3 (word 0), psink := word 1 % 2 == 1, fflags := BitVec.ofNat 5 (word 2),
    seed := BitVec.ofNat 64 (word 3),
    rng := { ctr := BitVec.ofNat 48 (word 4 / 2 ^ 16), head := BitVec.ofNat 2 (word 4 / 16), cnt := word 4 % 8,
             ent := listed 0 ((x.cells 0x700 128 4).map (fun c => BitVec.ofNat 1024 c.val)) },
    level := BitVec.ofNat 3 (word 5), lprio := BitVec.ofNat 3 (word 5 / 256), boost := word 5 / 32768 % 2 == 1 }

/-- The class of a code of Table 0.4. -/
def classOfCode (n : Nat) : Option FaultClass :=
  [FaultClass.xlate, .perm, .align, .atomroute, .shape, .illegal, .priv, .poisonsink, .poisondep, .scope, .homepath, .trapsw,
    .preempt, .nest].find? (fun c => c.code == n)

/-- The address that a word of a record holds. -/
def addrOf (w : Nat) : Option (BitVec 53) := if w / 2 ^ 63 % 2 = 1 then some (BitVec.ofNat 53 w) else none

/-- Table 14.2: the fault record of an image, without the bits that the table reserves. -/
def recordOf (r : FaultRec) (x : Stored) : FaultRec :=
  let w (i : Nat) : Nat := x.field (0x40 + 8 * i) 8
  { cls := (classOfCode (w 0 % 256)).getD r.cls, lvl := w 0 / 2 ^ 8 % 4, slot := w 0 / 2 ^ 12 % 16, x := w 0 / 2 ^ 16 % 256,
    y := w 0 / 2 ^ 24 % 256, tag := BitVec.ofNat 24 (w 0 / 2 ^ 32), inst := BitVec.ofNat 48 (w 1 % 2 ^ 30 + w 1 / 2 ^ 32 % 2 ^ 16 * 2 ^ 32),
    epoch := BitVec.ofNat 16 (w 1 / 2 ^ 48), pc := BitVec.ofNat 22 (w 2), nsyl := w 2 / 2 ^ 24 % 8, fsyl := w 2 / 2 ^ 27 % 8,
    syl := BitVec.ofNat 64 (w 3), addr := addrOf (w 4), aux := BitVec.ofNat 64 (w 5), cyc := BitVec.ofNat 64 (w 6),
    via := w 7 / 2 ^ 16 % 4, hsite := w 7 / 2 ^ 32 % 2 ^ 16 }

/-- Table 15.5: the header of an image, as a number. -/
def Stored.header (x : Stored) : Nat := x.field 0 64

/-- Table 15.5: mx, whether an image has an accumulator block. -/
def Stored.mx (x : Stored) : Bool := x.header / 2 ^ 48 % 2 == 1

/-- Table 15.5: fz, whether the record of an image is of a freeze of its thread's own. -/
def Stored.fz (x : Stored) : Bool := x.header / 2 ^ 49 % 2 == 1

/-- Tables 15.4 and 15.5: the extents of an image: offset and length of each of its `next` entries. -/
def Stored.extents (x : Stored) : List (Nat × Nat) :=
  (upTo (x.header / 2 ^ 176 % 64)).filterMap (fun i =>
    if i < 32 then some (x.field (0x2D00 + 8 * i) 4, x.field (0x2D04 + 8 * i) 4) else none)

/-- R347: the thread of an image. -/
def threadOf (th : Thread) (x : Stored) : Thread :=
  let n := x.header
  { th with regs := { regsOf th.regs x with tag := BitVec.ofNat 24 (n / 2 ^ 64),
                                            inst := BitVec.ofNat 48 (n / 2 ^ 112 % 2 ^ 30 + n / 2 ^ 96 % 2 ^ 16 * 2 ^ 32) },
            graph := some (n / 2 ^ 56 % 256), pc := BitVec.ofNat 64 (n / 2 ^ 144 % 2 ^ 22), arrived := BitVec.ofNat 16 (n / 2 ^ 208),
            ran := n / 2 ^ 256 % 2 ^ 64, fault := th.fault.map (fun r => recordOf r x) }

/-- R347: a command of an image: what Table 15.4 names comes from there, the rest of it as it was saved (log entry 55). It restarts at
the prefix that the image gives, the chunks past another prefix than it was saved with to be copied again, and holds the fault that the
image gives. -/
def cmdOf (c : Cmd) (x : Stored) : Cmd :=
  let w := x.field 48 8
  let h := x.field 56 8
  let pfx := w / 2 ^ 33 % 2 ^ 22
  -- the elements before the prefix that it was saved with are counted already (R296)
  let again := c.recount ++ c.ahead.map (fun a => a.1) ++ (upTo (c.pfx / c.ws - pfx / c.ws)).map (fun i => pfx / c.ws + i)
  let c := if pfx = c.pfx then c else { c with pfx := pfx, next := pfx / c.ws, ahead := [], recount := again }
  { c with pat := BitVec.ofNat 256 (x.field 0 32), sa := x.field 32 4, name := BitVec.ofNat 96 (x.field 36 12), eng := w / 2 ^ 32 % 2,
           seq := w % 2 ^ 32,
           held := if h / 2 ^ 63 % 2 = 1 then ((classOfCode (h / 2 ^ 56 % 128)).or (c.held.map (fun f => f.cls))).map (fun cls =>
             ⟨cls, if h / 2 ^ 55 % 2 = 1 then some (BitVec.ofNat 53 h) else none, (c.held.map (fun f => f.aux)).getD 0⟩)
             else none }

/-- R347: the commands of an image, as many as its nstrm names of those that were saved. -/
def cmdsOfImage (l : List Cmd) (x : Stored) : List Cmd :=
  (l.take (x.header / 2 ^ 168 % 32)).zipWith cmdOf (x.cells 0x900 64 16)

/-- R347: the accumulator block of an image. -/
def fileOf (x : Stored) : Map (List Lane) × Map Byte × Map Bool :=
  let lanes := lanesOf (x.cells 0x2E00 4 16384) (x.bits 0x12E00 2048)
  (listed accRow (rowsOf 32 512 lanes), listed 0 (x.part 0x13600 73728).bytes,
    listed false ((((upTo 4).flatMap (fun b => (x.bits (0x25600 + 64 * b) 36))).zip (x.cells 0x13600 64 1152)).map (fun e =>
      e.1 || e.2.dirty)))

/-- R344, R347: the extents of an image, from where its extent bytes begin. -/
def extentsOfImage (x : Stored) : Nat → List (Nat × Nat) → List (Nat × List Byte × List Bool)
  | _, [] => []
  | o, e :: l => (e.1, (x.part o e.2).bytes, (x.part o e.2).bad) :: extentsOfImage x (o + e.2) l

end Sys2Proof.Machine
end

