-- ==== Sys2Proof/Machine/Vacate.lean ====
section
/-! DEFINITION. Pre-emption and region shrink: the request and its checks, grace, saving, rehoming, folding and restoring
(R87, R297, R338 to R349). -/

namespace Sys2Proof.Machine

/-! Regions. -/

/-- Whether a tile lies in a region being vacated. -/
def Vacate.has (v : Vacate) (t : Nat) : Bool := v.bays.contains (bayOf t) || v.sites.contains t

/-- Whether a tile lies in a region that some vacate or lowering empties. -/
def inRegion (s : State) (t : Nat) : Bool :=
  (match s.vacate with
  | none => false
  | some v => v.has t) ||
  (match s.lowVac with
  | none => false
  | some v => v.has t)

/-- Whether a lowering vacates a tile. -/
def inLowVac (s : State) (t : Nat) : Bool :=
  match s.lowVac with
  | none => false
  | some v => v.has t

/-- The bays of a request's rectangle that are present (Table 15.1). -/
def vacBays (v : Word) : List Nat :=
  let f (lo : Nat) := v.toNat / 2 ^ lo % 16
  bays.filter (fun b => f 0 ≤ b % 16 && b % 16 ≤ f 8 && f 4 ≤ b / 16 && b / 16 ≤ f 12)

/-- Whether a thread is a task instance that lives: one that was killed ends with its matrix operations. -/
def Thread.tasks (th : Thread) : Bool := th.kind == .task && !th.dying

/-- The task threads of a core. -/
def tasksOn (s : State) (t : Nat) : List (Nat × Thread) := (threadsOn s t).filter (fun e => e.2.tasks)

/-- The task threads of the tiles that a test picks. -/
def tasksIn (s : State) (p : Nat → Bool) : List (Nat × Thread) := s.threads.filter (fun e => e.2.tasks && p (tileOf e.1))

/-- Whether an instance moves with a region: its tile lies in it, or it moves with its span group. -/
def Vacate.takes (v : Vacate) (t : Nat) (id : Ident) : Bool := v.has t || v.also.contains (id.ctx, id.tmpl, id.inst)

/-! The checks of a request (R339). -/

/-- R339: the images of some threads put one by one into the save areas: the blocks that each area holds then. -/
def areasFit (s : State) : List (Nat × Thread) → List (Nat × Nat × Nat) → Bool
  | [], _ => true
  | (k, th) :: l, put_ =>
    let a := savePier s (tileOf k)
    let n := imageBlocks s (tileOf k) th
    let used := areaUsed s a ++ (put_.filter (fun e => e.1 == a)).map (fun e => e.2)
    match areaLow used n with
    | none => false
    | some b => areasFit s l ((a, b, n) :: put_)

/-- R339: the victims of a region: the graphs with an instance, fired or resident, on a site of it, or saved from one and not yet
folded. -/
def victim (s : State) (v : Vacate) (ctx : Nat) : Bool :=
  (tasksIn s v.has).any (fun e => e.2.graph == some ctx) ||
  s.saved.any (fun x => x.th.graph == some ctx && v.has x.from_ && x.to_.isNone) ||
  s.cores.any (fun c => v.has c.1 && (c.2.fired ++ c.2.cursor).any (fun f => f.1.ctx == ctx))

/-- R346: a graph with the region's bays among those that its stage may not use; the bits of a partition are those of the stage's
placement (R352). -/
def barRegion (v : Vacate) (g : Graph) : Graph := { g with barred := join g.barred v.bays }

/-- R86, R346: the placement that an instance takes with a region excluded for its graph. -/
def newPlace (s : State) (v : Vacate) (g : Graph) (ctx : Nat) (p : Placed) : Option Placed :=
  placeOne s (barRegion v g) ctx p.tmpl (tmplOf g p.tmpl) p.inst

/-- R346: the placement that an instance takes once a region is emptied: a new one where it moves with the region. -/
def rePlace (s : State) (v : Vacate) (g : Graph) (ctx : Nat) (p : Placed) : Option Placed :=
  if v.takes p.tile ⟨ctx, p.tmpl, p.inst, 0⟩ then newPlace s v g ctx p else some p

/-- R346, R349: the instances of other sites that move with a site of a lowering: members of a span group with a member there, which
moves whole, whose place changes (log entry 25). A span group lies in one bay, so that the region of a request holds all of it. -/
def groupMoves (s : State) (v : Vacate) : List (Nat × Nat × BitVec 30) :=
  s.graphs.flatMap (fun e =>
    if !e.2.running then []
    else
      let hit (p : Placed) : Bool := p.grp.any (fun m => e.2.placed.any (fun q => q.tmpl == p.tmpl && v.has q.tile &&
        q.grp.any (fun n => n.1 == m.1)))
      (e.2.placed.filter (fun p => !v.has p.tile && hit p && (newPlace s v e.2 e.1 p).any (fun q => q.tile != p.tile))).map (fun p =>
        (e.1, p.tmpl, p.inst)))

/-- The placements of a graph after a region is emptied; none where one has no site. -/
def rePlaceAll (s : State) (v : Vacate) (g : Graph) (ctx : Nat) : List Placed → Option (List Placed)
  | [] => some []
  | p :: l => match rePlace s v g ctx p, rePlaceAll s v g ctx l with
    | some q, some r => some (q :: r)
    | _, _ => none

/-- R339: the victims re-placed with a region emptied; none where some instance of one has no site. -/
def rePlaceGraphs (s : State) (v : Vacate) : Map Graph → Option (Map Graph)
  | [] => some []
  | (c, g) :: l =>
    match (if g.running && victim s v c then rePlaceAll s v g c g.placed else some g.placed), rePlaceGraphs s v l with
    | some pl, some r => some ((c, { g with placed := pl }) :: r)
    | _, _ => none

/-- R339: whether the fold of a region is possible: each victim's instance has a site, and no reserve passes 128. -/
def foldOk (s : State) (v : Vacate) : Bool :=
  match rePlaceGraphs s v s.graphs with
  | none => false
  | some gs =>
    let t := { s with graphs := gs }
    gs.all (fun e => (tilesOf (e.2.placed.filter (fun p => !(graphAt s e.1).any (fun g => g.placed.contains p)))).all
      (fun u => reserve t u ≤ 128))

/-- R339: the check of a region: the result it refuses with. -/
def vacCheck (s : State) (v : Vacate) : Option Nat :=
  let th := (tasksIn s v.has).filter (fun e => !s.saved.any (fun x => x.th.uid == e.2.uid))
  if !areasFit s th [] then some 3
  else if !foldOk s v then some 4
  else none

/-! The request. -/

/-- R338: a request is refused with a result. -/
def vacRefuse (s : State) (res : Nat) : State := msSetField (msSetField s 0x813 2 3 res) 0x813 1 1 1

/-- The state with the phase of the vacate in progress set, in its register too. -/
def vacPhase (s : State) (ph : Nat) : State :=
  match s.vacate with
  | none => s
  | some v => msSetField { s with vacate := some { v with phase := ph } } 0x813 8 3 ph

/-- R340, phase 1: the gate reaches the cores of some bays. -/
def gatesOf (s : State) (l : List Nat) (m : Map Word) : Map Word :=
  ((l.flatMap bayTiles).filter (computeCapable s)).foldl (fun m t =>
    match find t m with
    | some _ => m
    | none => put t (coreAt s t).cyc m) m

/-- R346: the region is excluded for its victims, and for the stages placed from now on. -/
def exclude (s : State) (v : Vacate) : State :=
  { s with excluded := join s.excluded v.bays,
           graphs := s.graphs.map (fun e => (e.1, if victim s v e.1 then barRegion v e.2 else e.2)) }

/-- R340: a request that passed its check runs. -/
def vacAccept (s : State) (bs gb : List Nat) (prio : Nat) : State :=
  let v : Vacate := { bays := bs, gateBays := gb, sites := [], prio := prio, phase := 1, gates := gatesOf s bs [], expired := [], also := [] }
  let st := (msRaw s 0x813).toNat / 2 % 2 * 2 + 1 + 2 ^ 8 + bs.length * 2 ^ 16
  msPut { exclude s v with vacate := some v } 0x813 (BitVec.ofNat 64 st)

/-- R339, R340: a region's check, and its start. -/
def vacStart (s : State) (bs gb : List Nat) (prio : Nat) : State :=
  match vacCheck s { bays := bs, gateBays := gb, sites := [], prio := prio, phase := 1, gates := [], expired := [], also := [] } with
  | some r => vacRefuse s r
  | none => vacAccept s bs gb prio

/-- R349: a higher request that arrives in phases 1 to 3 joins the region. -/
def vacMerge (s : State) (v : Vacate) (bs gb : List Nat) (prio : Nat) : State :=
  let w := { v with bays := join v.bays bs, gateBays := join v.gateBays gb, prio := prio }
  match vacCheck s w with
  | some r => vacRefuse s r
  | none =>
    let w := { w with phase := 1, gates := gatesOf s bs v.gates }
    let s := { exclude s w with vacate := some w }
    msSetField (msSetField (msSetField s 0x813 8 3 1) 0x813 16 8 w.bays.length) 0x813 2 3 0

/-- R349: a higher request that arrives in phases 4 and 5 is held, or joins the one held. -/
def vacHold (s : State) (bs gb : List Nat) (prio : Nat) : State :=
  match s.vacHeld with
  | none => { s with vacHeld := some ⟨bs, gb, prio⟩ }
  | some h =>
    if h.prio < prio then { s with vacHeld := some ⟨join h.bays bs, join h.gateBays gb, prio⟩ } else vacRefuse s 1

/-- R94, R339: whether a host's request names a bay outside its partition. -/
def outsidePart (s : State) (host : Option Nat) (bs : List Nat) : Bool :=
  match host with
  | none => false
  | some port => bs.any (fun b =>
    let k := bayOrd b
    (if k < 64 then (msRaw s 0x806).getLsbD k else (msRaw s 0x807).getLsbD (k - 64)) != (port == 1))

/-- R338, R339, R349: a request, by the word of ms.vacreq, is decided; the check of a vacate waits while the hash units are held (R44). A host's
share (result 5) is looked at before the areas and the fold (results 3 and 4; DESIGN CHOICE, log entry 112). -/
def vacDecide (s : State) (v : Word) (host : Option Nat) : State :=
  let f (lo w : Nat) := v.toNat / 2 ^ lo % 2 ^ w
  let bs := vacBays v
  let gb := if f 22 1 = 1 then bs else []
  if f 20 2 = 0 || f 20 2 = 3 || f 8 4 < f 0 4 || f 12 4 < f 4 4 then vacRefuse s 2
  else if f 20 2 = 1 && hashHeld s then { s with vacAsked := s.vacAsked ++ [(v, host)] }
  else match s.vacate with
    | none =>
      if outsidePart s host bs then vacRefuse s 5
      else if f 20 2 = 2 then
        msSetField (msSetField { s with excluded := s.excluded.filter (fun b => !bs.contains b) } 0x813 2 3 0) 0x813 1 1 1
      else vacStart s bs gb (f 16 3)
    | some r =>
      if f 20 2 = 2 || f 16 3 ≤ r.prio then vacRefuse s 1
      else if outsidePart s host bs then vacRefuse s 5
      else if r.phase ≤ 3 then vacMerge s r bs gb (f 16 3)
      else vacHold s bs gb (f 16 3)

/-- R338: a write to ms.vacreq starts its request. -/
def vacRequest (s : State) (host : Option Nat) : State := vacDecide s (msRaw s 0x812) host

/-- R44: the requests whose check waited for the hash units are decided, in order. -/
def vacAnswer (s : State) : State := s.vacAsked.foldl (fun s e => vacDecide s e.1 e.2) { s with vacAsked := [] }

/-- R338, R350: VACATE_REQUEST: a write to ms.vacreq with any op but release. -/
def execVacateRequest (v : Word) (host : Option Nat) (s : State) : Result :=
  .next (if v.toNat / 2 ^ 20 % 4 = 2 then s
    else vacRequest (msWriteBits s 0x812 v (BitVec.allOnes 64)) host)

/-- R338, R339: VACATE_RELEASE: a write to ms.vacreq with op 2. -/
def execVacateRelease (v : Word) (host : Option Nat) (s : State) : Result :=
  .next (if v.toNat / 2 ^ 20 % 4 = 2 then vacRequest (msWriteBits s 0x812 v (BitVec.allOnes 64)) host
    else s)

/-! Grace. -/

/-- R222, R280, R297: the commands of a thread stop at their prefixes, a queued one where it stands; a fill with chunks in flight ends with
the last of them, and every other one now, one that has not run yet too: its operand buffer then reads poisoned (DEDUCED, log entry 117);
the chunks that write host memory are acknowledged. -/
def stopCmds (s : State) (t uid : Nat) : State :=
  (threadCmds s t uid).foldl (fun s c =>
    -- chunks that only meet a fault move nothing
    let c := { c with chunks := c.chunks.filter (fun k => k.flt.isNone) }
    let s := if !c.stopped && c.held.isNone && c.chunks.isEmpty then endFill s t c else s
    flushCmd (putCmd s t { c with stopped := true }) t c) s

/-- R340, R341: a thread whose image is not yet written back gives its slot up again. -/
def backToList (s : State) (k : Nat) (th : Thread) : State :=
  let t := tileOf k
  let s := dropThread s k
  updCore s t (fun c => { c with
    copying := c.copying.filter (fun e => e.2 != slotOf k),
    holder := if c.holder = some th.uid then none else c.holder,
    fired := c.fired ++ [(identOf th, th.start)] })

/-- R340: an instance of the region freezes with PREEMPT where it stands; a frozen one keeps its record, and its record
leaves the queues. -/
def preemptThread (s : State) (k : Nat) : State :=
  match threadAt s k with
  | none => s
  | some th =>
    if th.dying then s
    else if s.saved.any (fun v => v.th.uid == th.uid && v.complete) then backToList s k th
    else
      let s := if copyPending s k th then copyInputs s k th else s
      let s := match threadAt s k with
        | none => s
        | some th => if th.status = .frozen then s else asyncFault s th.uid ⟨.preempt, none, 0⟩
      unqueue (stopCmds s (tileOf k) th.uid) th.uid

/-- R331, R341: a handler of the region is discarded; the thread it served is served again, where it is still frozen under it, unless it
moves with the region. -/
def discardHandler (s : State) (k : Nat) : State :=
  match threadAt s k with
  | none => s
  | some th =>
    let t := tileOf k
    let s := dropThread (unqueue (cancelAll (withdrawAll s t th) t th.uid) th.uid) k
    match th.kind with
    | .handler _ u => match keyOfUid s u with
      | none => s
      | some j => if inRegion s (tileOf j) && (slotOf j < 14 || tileOf j == t) then s else serveAgain s th
    | .task => s
    | .alert _ => s

/-- The handlers of a level and graph on a tile. -/
def handlersOn (s : State) (t ctx lvl : Nat) : List Nat :=
  ((threadsOn s t).filter (fun e => e.2.graph == some ctx && (match e.2.kind with
    | .handler l _ => l == lvl
    | .task => false
    | .alert _ => false))).map (fun e => e.1)

/-- R340, R341: the grace of a graph ends on a tile: its instances freeze, and its handlers there, and on every tile where its grace
has ended, are discarded. -/
def expireOn (s : State) (ctx t : Nat) (done_ : List Nat) : State :=
  let s := ((tasksOn s t).filter (fun e => e.2.graph == some ctx)).foldl (fun s e => preemptThread s e.1) s
  let s := (done_.flatMap (fun u => handlersOn s u ctx 2)).foldl discardHandler s
  let s := (done_.flatMap (fun u => handlersOn s u ctx 1)).foldl discardHandler s
  retryRecords (done_.foldl takeRecord s)

/-- R340: GRACE_EXPIRY: the grace window of a graph, in its tile's own cycles from the gate's arrival, ends. -/
def execGraceExpiry (ctx tile : Nat) (s : State) : Result :=
  .next (match s.vacate, graphAt s ctx with
  | some v, some g =>
    if v.expired.contains (ctx, tile) then s
    else match find tile v.gates with
      | none => s
      | some c =>
        if ((coreAt s tile).cyc - c).toNat < g.grace then s
        else
          let ex := v.expired ++ [(ctx, tile)]
          expireOn { s with vacate := some { v with expired := ex } } ctx tile
            ((ex.filter (fun e => e.1 == ctx)).map (fun e => e.2))
  | _, _ => s)

/-! Saving. -/

/-- R346, R349: whether a lowering moves a thread: it empties its tile, or moves its span group. -/
def lowMoves (s : State) (t : Nat) (th : Thread) : Bool := s.lowVac.any (fun v => v.takes t (identOf th))

/-- R340: whether the save of a thread is due: the last victim of its tile has frozen or ended, or a lowering moves it. -/
def saveDue (s : State) (t : Nat) (th : Thread) : Bool :=
  if lowMoves s t th then th.status == .frozen
  else s.vacate.any (fun v => v.has t && (tasksOn s t).all (fun e => e.2.status == .frozen &&
    e.2.graph.any (fun c => v.expired.contains (c, t))))

/-- The threads of a bay that a save is still to start for, by site and slot. -/
def saveNext (s : State) (b : Nat) : Option Nat :=
  leastBy (fun k => 16 * siteOf (tileOf k) + slotOf k)
    ((s.threads.filter (fun e => e.2.tasks && bayOf (tileOf e.1) == b && saveDue s (tileOf e.1) e.2 &&
      !s.saved.any (fun v => v.th.uid == e.2.uid))).map (fun e => e.1))

/-- R342: THREAD_SAVE: a bay's save engine begins its next thread, one at a time; for the holder of the accumulator file it
first waits for the matrix queue to empty (R224), and for every register write of a committed bundle (R315). -/
def execThreadSave (key : Nat) (s : State) : Result :=
  .next (match threadAt s key with
  | none => s
  | some th =>
    let t := tileOf key
    let b := bayOf t
    if saveNext s b != some key || s.saved.any (fun v => !v.complete && bayOf v.from_ == b) then s
    else if (holdsFile s t th && !(coreAt s t).mq.isEmpty) || s.inflight.any (fun a => a.uid == th.uid && a.dst != .none) then s
    else
      let n := imageBlocks s t th
      let p := savePier s t
      match areaFind s p n with
      | none => s
      | some b =>
        let v : Saved := { th := th, acc := none, cmds := [], extents := [], addr := areaBase p + 0x10000 * b, blocks := n,
                           from_ := t, to_ := none, complete := false }
        -- R278, R280: its posted writes are acknowledged before what it sends after its restore
        let s := flushOf (fun a => a.uid == th.uid) { s with saved := s.saved ++ [v] }
        if lowMoves s t th then s else vacPhase s 2)

/-- R297: a command as it is saved: one that ran restarts at its prefix, one with a held fault keeps it. -/
def saveCmd (c : Cmd) : Cmd := if c.held.isSome then { c with stopped := false, running := false } else c.restart

/-- R87: the withdrawals of a saved thread's unsatisfied subscriptions. -/
def withdrawOpen (t : Nat) (th : Thread) (cmds : List Cmd) : List Msg :=
  ((th.dyn.filter (fun d => d.got.isNone && !d.bad)).map (fun d => Msg.unsub d.name t (.thread th.uid d.seq))) ++
  ((cmds.filter (fun c => c.port == .hname && c.src.isNone && !c.srcBad)).map (fun c =>
    Msg.unsub c.name t (.command c.uid c.eng c.seq)))

/-- R87: the subscriptions that a restored thread makes again. -/
def renewOpen (t : Nat) (th : Thread) (cmds : List Cmd) : List Msg :=
  ((th.dyn.filter (fun d => d.got.isNone && !d.bad)).map (fun d =>
    Msg.sub { name := d.name, anyIter := false, tile := t, of_ := .thread th.uid d.seq, scope := d.scope, direct := false, routers := [],
              seen := [] })) ++
  ((cmds.filter (fun c => c.port == .hname && c.src.isNone && !c.srcBad)).map (fun c =>
    Msg.sub { name := c.name, anyIter := false, tile := t, of_ := .command c.uid c.eng c.seq, scope := c.scp, direct := false,
              routers := [], seen := [] }))

/-- R344: the bytes of a thread's extents, with their poison. -/
def readExtents (s : State) (t : Nat) : List (Nat × Nat) → State × List (Nat × List Byte × List Bool)
  | [] => (s, [])
  | (o, n) :: l =>
    let r := readRange (routerTurn s t (padBase t + o) n) (padBase t + o) n false
    let q := readExtents r.1 t l
    (q.1, (o, r.2.1, r.2.2) :: q.2)

/-- Whether a thread was frozen by a class other than PREEMPT. -/
def ownRecord (th : Thread) : Bool :=
  match th.fault with
  | none => false
  | some r => r.cls != .preempt

/-- R342 to R344, R348: the image of a thread is written and its slot is free. -/
def saveThread (s : State) (k : Nat) (th : Thread) (v : Saved) : State :=
  let t := tileOf k
  let s := if (coreAt s t).holder = some th.uid then findSegs s t (upTo 4) else s
  let c := coreAt s t
  let cmds := (threadCmds s t th.uid).map saveCmd
  let (s, ext) := readExtents s t (extentsOf s th)
  let th' := { th with ran := th.ran + (c.cyc - th.start).toNat }
  let w := { v with th := th', acc := if c.holder = some th.uid then some (c.acc, c.ob, c.obBad) else none, cmds := cmds,
                    extents := ext, complete := true }
  let (bytes, bad) := imageBytes w (ownRecord th)
  let s := writeRange s v.addr bytes bad
  let s := { s with saved := s.saved.map (fun x => if x.th.uid = th.uid then w else x),
                    net := s.net ++ withdrawOpen t th cmds }
  let s := unqueue (dropThread s k) th.uid
  let s := updCore s t (fun c => { c with
    eng0 := c.eng0.filter (fun d => d.uid != th.uid), eng1 := c.eng1.filter (fun d => d.uid != th.uid) })
  let s := wakeTile (releaseFile s t th.uid) t
  if lowMoves s t th then s else msSetField s 0x813 24 24 (msField s 0x813 24 24 + 1)

/-- R235: whether the save engine may read, or write back, some extents of a tile: no request stands before it at their banks. -/
def extentsFree (s : State) (t : Nat) (l : List (Nat × Nat)) : Bool := l.all (fun e => banksFree s t (padBase t + e.1) e.2)

/-- R278, R342, R348: SAVE_COMPLETE: the last byte of an image has taken effect, after every chunk of the thread's commands and
every committed access of it, its posted writes to hosts among them: the reads that acknowledge them go where they have not. -/
def execSaveComplete (uid : Nat) (s : State) : Result :=
  .next (match s.saved.find? (fun v => v.th.uid == uid && !v.complete), keyOfUid s uid with
  | some v, some k => match threadAt s k with
    | none => s
    | some th =>
      let busy := s.inflight.any (fun a => a.uid == uid && (a.dst != .none || a.elems.any (fun e => !e.done))) ||
        (threadCmds s (tileOf k) uid).any (fun c => !c.chunks.isEmpty)
      if busy then flushOf (fun a => a.uid == uid) s
      else if !stackReady s v.addr || !extentsFree s (tileOf k) (extentsOf s th) then s
      else saveThread s k th v
  | _, _ => s)

/-! Rehoming. -/

/-- The entries that a fired identity takes along: its fired-list or cursor time, counted on in the new tile's cycles. -/
def rebase (s : State) (t u : Nat) (w : Word) : Word := (coreAt s u).cyc - ((coreAt s t).cyc - w)

/-- An instance put at its cursor, in ascending template number and then linear index (R105). -/
def cursorAdd (s : State) (e : Ident × Word) (l : List (Ident × Word)) : List (Ident × Word) :=
  let key (f : Ident × Word) : Nat := match graphAt s f.1.ctx with
    | none => 0
    | some g => f.1.tmpl * 2 ^ 30 + linIndex g (tmplOf g f.1.tmpl) f.1.inst
  l.filter (fun f => key f ≤ key e) ++ [e] ++ l.filter (fun f => key e < key f)

/-- R87, R345: an instance of a graph moves from one tile to another: its entries, its fired identities or its place at a
cursor. With `lost` the old tile answers no more: its entries are lost, and with them the fired identities that wait there, which do not
fire again in this stage (R56). Entries that travel are all taken, past the 1,024 entries of R70 too (DESIGN CHOICE, log entry 93). -/
def moveOne (s : State) (ctx : Nat) (lost : Bool) (p q : Placed) : State :=
  let mine (id : Ident) : Bool := id.ctx == ctx && id.tmpl == p.tmpl && id.inst == p.inst
  let c := coreAt s p.tile
  let st := c.store.filter (fun e => mine e.id)
  let saved (id : Ident) : Bool := s.saved.any (fun v => v.th.kind == .task && identOf v.th == id)
  let fired := c.fired.filter (fun e => mine e.1)
  let kept := if lost then fired.filter (fun e => saved e.1) else fired
  let cur := c.cursor.filter (fun e => mine e.1)
  let anys := c.anys.filter (fun x => (boundSubs s p.tile x.name x.width).any (fun b => b.1 == p.tmpl && b.2.2.1 == p.inst))
  let s := setCore s p.tile { c with
    store := c.store.filter (fun e => !mine e.id), fired := c.fired.filter (fun e => !mine e.1),
    cursor := c.cursor.filter (fun e => !mine e.1) }
  let tags := if lost then [] else st.map (fun e => pubTag e.pub)
  let s := updCore s q.tile (fun c => { c with
    store := if lost then c.store else c.store ++ st,
    admitted := tags.foldl (fun l a => if l.contains a then l else l ++ [a]) c.admitted,
    anys := if lost then c.anys else anys.foldl (fun l x =>
      if l.any (fun y => nameAnyIter y.name == nameAnyIter x.name && y.width ≤ x.width) then l else l ++ [x]) c.anys,
    fired := c.fired ++ kept.map (fun e => (e.1, rebase s p.tile q.tile e.2)) })
  let s := cur.foldl (fun s e => updCore s q.tile (fun c => { c with
    cursor := cursorAdd s (e.1, rebase s p.tile q.tile e.2) c.cursor })) s
  { s with saved := s.saved.map (fun v =>
    if v.th.kind == .task && mine (identOf v.th) && v.to_.isSome then { v with to_ := some q.tile } else v) }

/-- Whether an instance of a graph subscribes a name. -/
def instTakes (g : Graph) (ctx : Nat) (n : Name) (p : Placed) : Bool :=
  nameCtx n == ctx && (liveSubs (tmplOf g p.tmpl) p.inst).any (fun e => subBinds e.2 p.inst ctx n)

/-- R65, R87: whether the subscription that a moved instance's new tile sends again brings it a publication: its home still holds it, and
its scope takes in that tile. -/
def homeAnswers (s : State) (p : Pub) (w : Nat) : Bool :=
  p.scope != 0 && (heldAt s p.name).any (fun h => !decide (p.width < reachOf h.src w))

/-- R345: what is on its way to the old tiles of moved instances, and comes to them from nowhere else once they have moved, follows them:
deliveries, copies on their way down a tree, and tile-scope publications that their router has not taken yet. -/
def redirect (s : State) (g : Graph) (ctx : Nat) (moves : List (Placed × Placed)) : State :=
  let stays (t : Nat) (n : Name) : Bool := g.placed.any (fun p => p.tile == t && instTakes g ctx n p && !moves.any (fun x => x.1 == p))
  let follow (p : Pub) (t : Nat) : List Nat :=
    (tilesOf ((moves.filter (fun x => x.1.tile == t && instTakes g ctx p.name x.1)).map (fun x => x.2))).filter (fun w => !homeAnswers s p w)
  let moved (p : Pub) (t : Nat) (m : Msg) (f : Nat → Msg) : List Msg :=
    if (follow p t).isEmpty then [m] else (if stays t p.name then [m] else []) ++ (follow p t).map f
  { s with net := s.net.flatMap (fun m => match m with
    | .deliver p t .template u => moved p t m (fun w => .deliver p w .template u)
    | .pub p t u l c k => if p.scope = 0 then moved p t m (fun w => .pub p w u l c k) else [m]
    | .copy p r l =>
      let go (x : Receiver) : Bool := x.of_ == .template && !(follow p x.tile).isEmpty
      .copy p r (l.filter (fun x => !go x || stays x.tile p.name)) ::
        (l.filter go).flatMap (fun x => (follow p x.tile).map (fun w => Msg.deliver p w .template r))
    | m => [m]) }

/-- R87, R345: the instances of a graph that leave a region move. -/
def moveGraph (s : State) (v : Vacate) (lost : Bool) (ctx : Nat) (g : Graph) : State :=
  let moves := (g.placed.filter (fun p => v.takes p.tile ⟨ctx, p.tmpl, p.inst, 0⟩)).filterMap (fun p => (rePlace s v g ctx p).map (fun q => (p, q)))
  let new := g.placed.map (fun p => match moves.find? (fun x => x.1 == p) with
    | none => p
    | some x => x.2)
  -- code, data and handlers on tiles and spans that did not hold them
  let s := moves.foldl (fun s x =>
    if g.placed.any (fun p => p.tmpl == x.2.tmpl && p.tile == x.2.tile) then s else hostTmpl s x.2.tile (tmplOf g x.2.tmpl)) s
  let fresh := (tilesOf (moves.map (fun x => x.2))).filter (fun t => !g.placed.any (fun p => spanOf p.tile == spanOf t))
  let s := if fresh.isEmpty then s else spreadHandlers s g fresh
  let s := redirect s g ctx moves
  let s := moves.foldl (fun s x => moveOne s ctx (lost && v.has x.1.tile) x.1 x.2) s
  let free (h : HomeE) : HomeE := if nameCtx h.pub.name = ctx then
      { h with deferred := h.deferred.filter (fun t => !v.has t) } else h
  let g' : Graph := (graphAt s ctx).getD g
  let s := { s with graphs := put ctx { g' with placed := new } s.graphs, homes := s.homes.map free }
  let old := mergeSubs (moves.flatMap (fun x => placedSubs g ctx x.1))
  let subs := mergeSubs (moves.flatMap (fun x => placedSubs g ctx x.2))
  let s := { s with net := s.net ++ old.map (fun q => Msg.unsub q.name q.tile .template) ++ subs.map Msg.sub }
  let tiles := tilesOf (moves.map (fun x => x.2))
  let s := tiles.foldl (fun s t => requestWake s (bayOf t)) s
  tiles.foldl fireReady (startWakes s)

/-- R340, R341: whether the inputs of a region may be rehomed: every instance of it has ended or is saved, and every handler has ended
or is discarded. -/
def rehomeReady (s : State) (v : Vacate) : Bool :=
  s.threads.all (fun e => !v.has (tileOf e.1) && !(e.2.tasks && v.takes (tileOf e.1) (identOf e.2))) &&
    s.saved.all (fun x => x.complete || !v.takes x.from_ (identOf x.th))

/-- R345: the inputs of a region are rehomed. -/
def rehome (s : State) (v : Vacate) (lost : Bool) : State :=
  resumeAll (s.graphs.foldl (fun s e => match graphAt s e.1 with
    | none => s
    | some g => if g.running then moveGraph s v lost e.1 g else s) s)

/-- R235: what the loader writes for the instances of a region that move: cores, offsets and lengths. -/
def rehomeTexts (s : State) (v : Vacate) : List (Nat × Nat × Nat) :=
  (s.graphs.filter (fun e => e.2.running)).flatMap (fun e =>
    let pl := (e.2.placed.filter (fun p => v.takes p.tile ⟨e.1, p.tmpl, p.inst, 0⟩)).filterMap (rePlace s v e.2 e.1)
    if pl.isEmpty then [] else textsOf s e.2 pl (tilesOf pl))

/-- R345: REHOME_PHASE, for the site of a lowering (R49) or for the region of a request; its placement lookups wait while the hash units
are held (R44). -/
def execRehomePhase (s : State) : Result :=
  .next (if hashHeld s then s else match s.lowVac with
  | some v =>
    if v.phase < 3 && rehomeReady s v && textFree s (rehomeTexts s v) then
      let lost := match s.lowering with
        | none => false
        | some l => l.sudden
      { rehome s v lost with lowVac := some { v with phase := 3 } }
    else s
  | none => match s.vacate with
    | none => s
    | some v => if v.phase < 3 && rehomeReady s v && textFree s (rehomeTexts s v) then vacPhase (rehome s v false) 3 else s)

/-! Folding. -/

/-- R346, R347: a saved instance enters the fired list of its new tile. -/
def foldOne (v : Vacate) (s : State) (x : Saved) : State :=
  if !(v.takes x.from_ (identOf x.th) && x.to_.isNone) then s
  else
    let id := identOf x.th
    match (graphAt s id.ctx).bind (fun g => placedAt g id) with
    | none => s
    | some p =>
      let s := { s with saved := s.saved.map (fun y => if y.th.uid = x.th.uid then { y with to_ := some p.tile } else y) }
      let s := updCore s p.tile (fun c => { c with fired := c.fired ++ [(id, c.cyc)] })
      startWakes (requestWake s (bayOf p.tile))

/-- R346: the saved instances of a region are folded. -/
def foldAll (s : State) (v : Vacate) : State :=
  let l := s.saved.filter (fun x => v.takes x.from_ (identOf x.th) && x.to_.isNone)
  let s := l.foldl (foldOne v) s
  (l.filterMap (fun x => (s.saved.find? (fun y => y.th.uid == x.th.uid)).bind (fun y => y.to_))).foldl fill s

/-- Whether an instance saved from a region still waits for its restore. -/
def stillSaved (s : State) (v : Vacate) : Bool := s.saved.any (fun x => v.has x.from_)

/-- R340, R349: a vacate ends: done is set, busy cleared, the bays gated where asked and R110 permits it, and a held request starts. The entry of the event
log has ms.vacst as it reads then (R362). -/
def vacFinish (s : State) (v : Vacate) : State :=
  let s := { s with vacate := none }
  let s := { s with gated := (v.gateBays.filter (gateable s)).foldl (fun m b => setD false b true m) s.gated }
  let s := msPut s 0x813 (BitVec.ofNat 64 (2 + v.bays.length * 2 ^ 16 + msField s 0x813 24 24 * 2 ^ 24))
  let s := logEvent s 6 [msRaw s 0x813 ||| (if s.vacHeld.isSome then 128 else 0)]
  match s.vacHeld with
  | none => s
  | some h => vacStart { s with vacHeld := none } h.bays h.gateBays h.prio

/-- R340: the vacate that runs ends when its last saved instance is restored; where a held request then starts, its check waits for the
hash units (R44). -/
def vacDone (s : State) : State :=
  match s.vacate with
  | none => s
  | some v => if 4 ≤ v.phase && !stillSaved s v && !(hashHeld s && s.vacHeld.isSome) then vacFinish s v else s

/-- R346: FOLD_PHASE: the saved instances are folded; the request then goes on to its restores, and with nothing left to restore it is
complete. -/
def execFoldPhase (s : State) : Result :=
  .next (match s.lowVac with
  | some v => if v.phase = 3 then { foldAll s v with lowVac := some { v with phase := 5 } } else s
  | none => match s.vacate with
    | none => s
    | some v => if v.phase = 3 then foldAll (vacPhase s 4) v else if v.phase = 4 then vacDone (vacPhase s 5) else vacDone s)

/-! Restoring. -/

/-- R307, R347: the commands of a restored thread enter their engines' queues, their patterns patched again. Of two in different queues
the one of engine 0 counts as queued earlier, as the image lists them (DESIGN CHOICE, log entry 108). -/
def restoreCmds (s : State) (key : Nat) (th : Thread) (l : List Cmd) : State :=
  let t := tileOf key
  let sp : Space := { spaceOf s (keyOf t 0) th with eng := true }
  l.foldl (fun s c => updCore (patchFound s sp c.pat) t (fun k =>
    let d := { c with ord := k.mqOrd, ext := patch s sp c.pat, who := whoOf key th }
    { (setEng k c.eng (engOf k c.eng ++ [d])) with mqOrd := k.mqOrd + 1 })) s

/-- Whether a live handler holds the capability of a frozen thread. -/
def hasServer (s : State) (th : Thread) : Bool :=
  s.threads.any (fun e => e.2.kind != .task && e.2.regs.k0 == some ⟨th.uid, th.fzGen⟩)

/-- R347: the image of a saved instance, as its save area holds it now: its fixed part says how long the rest of it is. -/
def readImage (s : State) (v : Saved) : State × Stored :=
  let (s, head, bad) := readRange s v.addr 0x2E00 false
  let x : Stored := ⟨head, bad⟩
  let (s, rest, bad) := readRange s (v.addr + 0x2E00) (imageSize x.mx x.extents - 0x2E00) false
  (s, ⟨head ++ rest, x.bad ++ bad⟩)

/-- R347: the bytes of an extent are written back, those that lie in the scratchpad. -/
def writeExtent (s : State) (t : Nat) (e : Nat × List Byte × List Bool) : State :=
  writeRange (routerTurn s t (padBase t + e.1) e.2.1.length) (padBase t + e.1) (e.2.1.take (padSize t - e.1))
    (e.2.2.take (padSize t - e.1))

/-- R341, R347: the image of an instance is written back; one that froze by itself stays frozen and its record is served again, unless
its handler kept its capability; any other issues its pc. -/
def restoreInto (s : State) (k : Nat) (v : Saved) (x : Stored) : State :=
  let t := tileOf k
  let cmds := cmdsOfImage v.cmds x
  let got := threadOf v.th x
  let th := { got with start := (coreAt s t).cyc, status := .frozen, fault := got.fault.map (fun r =>
    { r with x := coreX t, y := coreY t, slot := slotOf k }) }
  let s := setThread s k th
  let s := (extentsOfImage x (imageD x.mx) x.extents).foldl (fun s e => writeExtent s t e) s
  let s := updCore s t (fun c =>
    let c := { c with copying := c.copying.filter (fun e => e.2 != slotOf k) }
    if !x.mx || c.holder != some th.uid then c
    else
      let f := fileOf x
      { c with acc := f.1, ob := f.2.1, obBad := f.2.2 })
  let s := restoreCmds s k th cmds
  let s := { s with saved := s.saved.filter (fun x => x.th.uid != th.uid), net := s.net ++ renewOpen t th cmds }
  let s := if x.fz then (if hasServer s th then s else serveRecord s k)
    else updThread (resumeThread s k th.pc) k (fun x => { x with pass := th.pass })
  vacDone (wakeTile s t)

/-- Whether the engines of a tile have room for commands. -/
def cmdRoom (s : State) (t : Nat) (l : List Cmd) : Bool :=
  (upTo 2).all (fun e => (engOf (coreAt s t) e).length + (l.filter (fun c => c.eng == e)).length ≤ Config.engSize)

/-- The vacate in progress shows phase 5 from its first restore on. -/
def resumePhase (s : State) : State :=
  match s.vacate with
  | none => s
  | some v => if v.phase = 4 then vacPhase s 5 else s

/-- R347: RESTORE. -/
def execRestoreThread (uid : Nat) (s : State) : Result :=
  .next (match s.saved.find? (fun v => v.th.uid == uid && v.complete), keyOfUid s uid with
  | some v, some k =>
    let (u, x) := readImage s v
    if v.to_ = some (tileOf k) && cmdRoom s (tileOf k) (cmdsOfImage v.cmds x) && stackReady s v.addr && !inRegion s (tileOf k) &&
        extentsFree s (tileOf k) x.extents then
      restoreInto (resumePhase u) k v x
    else s
  | _, _ => s)

end Sys2Proof.Machine
end

