-- ==== Sys2Proof/Machine/Lowering.lean ====
section
/-! DEFINITION. Lowering a site's class at run time: requests, the order of R48, partner loss, the names that move, reset
tokens and abort flits (R31 to R36, R43, R48 to R54, R83). -/

namespace Sys2Proof.Machine

/-- R32, Table 2.4: whether a site may go from one class to another. -/
def loweringOk (old new : Nat) : Bool :=
  (old == 0 && (new == 1 || new == 2 || new == 3)) || (old == 1 && new == 3) || (old == 2 && new == 3)

/-- Whether a lowering takes the core of a site. -/
def losesCore (old new : Nat) : Bool := old < 2 && 2 ≤ new

/-- R49: the instances of a site that loses its core: frozen with PREEMPT where the core answers, killed where not; its
handlers are discarded. The members of their span groups on other tiles that move with them freeze too (R346; log entry 25). -/
def emptyCore (s : State) (t : Nat) (answers : Bool) : State :=
  let v : Vacate := { bays := [], gateBays := [], sites := [t], prio := 0, phase := 2, gates := [], expired := [], also := [] }
  let s := { s with lowVac := some v }
  let s := { s with lowVac := some { v with also := groupMoves s v } }
  let s := (s.threads.filter (fun e => e.2.tasks && tileOf e.1 != t && lowMoves s (tileOf e.1) e.2)).foldl
    (fun s e => preemptThread s e.1) s
  let s := (tasksOn s t).foldl (fun s e => if answers then preemptThread s e.1 else killThread s e.1) s
  let lvl (n : Nat) (e : Nat × Thread) : Bool := match e.2.kind with
    | .handler l _ => l == n
    | .task => false
    | .alert _ => false
  let s := (((threadsOn s t).filter (lvl 2)).map (fun e => e.1)).foldl discardHandler s
  -- the entries that this frees are for the records that found every place full (R321)
  retryRecords ((((threadsOn s t).filter (lvl 1)).map (fun e => e.1)).foldl discardHandler s)

/-- R48, steps 1 and 2: a queued lowering that Table 2.4 permits starts; one that it does not permit any more changes nothing, and one
that software asked for is refused (R31, R32). -/
def lowBegin : Nat → State → State
  | 0, s => s
  | fuel + 1, s =>
    match s.lowering, s.lowerQ with
    | none, l :: q =>
      let t := tileOfSite l.site
      let s := { s with lowerQ := q }
      if !loweringOk (classOf s t) l.cls then
        lowBegin fuel (if l.req then msSetField (msSetField s 0x811 1 2 1) 0x811 3 1 1 else s)
      else
        let s := msSetField { s with lowering := some l } 0x811 0 1 1
        if losesCore (classOf s t) l.cls then emptyCore s t l.core else s
    | _, _ => s

/-- The lowerings that wait start one at a time. -/
def lowNext (s : State) : State := lowBegin (s.lowerQ.length + 1) s

/-- The heartbeat record of a site that has neither beaten nor been probed. -/
def Beat.none : Beat := ⟨0, false, 0, 0, 0, false⟩

/-- The heartbeat record of a site. -/
def beatOf (s : State) (site : Nat) : Beat := getD Beat.none site s.beats

/-- R48: whether the router of a site answers: its last probe did not fail for want of a reply (R361; log entry 61). -/
def routerAnswers (s : State) (site : Nat) : Bool :=
  let b := beatOf s site
  b.fails == 0 || b.core0

/-- R49: whether the core of a site answers: its last probe did not fail (R361; log entry 61). -/
def coreAnswers (s : State) (site : Nat) : Bool := (beatOf s site).fails == 0

/-- R31, R32: a request for a lowering, unless one is in progress. -/
def classRequest (s : State) (v mask : Word) : State :=
  if msField s 0x811 0 1 = 1 then s
  else
    let s := msWriteBits s 0x810 v mask
    let n := msField s 0x810 0 15
    let c := msField s 0x810 16 2
    if Config.sites ≤ n then msSetField s 0x811 1 2 2
    else if !loweringOk (classOf s (tileOfSite n)) c then msSetField s 0x811 1 2 1
    else lowNext (requestLowering s n c (!routerAnswers s n) (coreAnswers s n) true none)

/-- R31: CLASS_LOWERING_REQUEST. -/
def execClassLoweringRequest (v : Word) (s : State) : Result := .next (classRequest s v (BitVec.allOnes 64))

/-- R32: SLICE_FAILURE_REPORT: the slice controller of a complete site reports its failure; which errors amount to one
arrives with the event. -/
def execSliceFailureReport (site : Nat) (s : State) : Result :=
  .next (if site < Config.sites && classOf s (tileOfSite site) == 0 then lowNext (requestLowering s site 1 false true false none)
    else s)

/-! The new tables. -/

/-- Whether a location lies in the slice or the scratchpad of a site. -/
def atSite (t : Nat) (p : Path) (pa : Nat) : Bool :=
  (p == .bonded && sliceOf pa == t) || ((p == .sys || p == .view) && inCore t pa)

/-- R48, step 3: whether the router of a site holds no packet: none crosses to or from its core, stream engines, slice or scratchpad. A
packet that has no route is in no router's buffers. -/
def routerEmpty (s : State) (t : Nat) : Bool :=
  s.inflight.all (fun a => a.elems.all (fun e =>
    !((a.tile == t && e.path.long) || (a.tile != t && atSite t e.path e.pa)) || (e.path.remote && e.sent) ||
      (requestRoute s a.tile e.path e.pa).isNone)) &&
  s.cores.all (fun c => (cmdsOf c.2).all (fun d => d.chunks.all (fun k =>
    (portOb d.port).isSome || d.port == .hname || !((c.1 == t && k.path.long) || (c.1 != t && atSite t k.path k.pa)) ||
      (k.path.remote && k.sent)))) &&
  s.net.all (fun m => match m with
    | .copy _ r _ => r != t
    | _ => true)

/-- The poison map with a run of lines poisoned. -/
def poisonRun (m : Map Bool) (lo n : Nat) : Map Bool :=
  m.filter (fun e => e.1 < lo) ++ (upTo n).map (fun i => (lo + i, true)) ++ m.filter (fun e => lo + n ≤ e.1)

/-- R54: the lines of a part of a slice start poisoned. -/
def poisonSlice (s : State) (t off size : Nat) : State :=
  { s with poison := poisonRun s.poison ((0x020000000000 + t * 0x4000000 + off) / 64) (size / 64) }

/-- R76: the retired publications of a store slot that is lent go to the pier, where its region has room, or else back to the cache. -/
def leaveSlot (s : State) (p k : Nat) : State :=
  (s.homes.filter (fun h => h.site == p && h.place == .slot k)).foldl (fun s h =>
    updHome s h.pub.name (fun h => { h with place := retirePlace s p h.pub })) s

/-- R54: a new window of an orphan. -/
def openWindow (s : State) (o : Nat) : State :=
  match partnerOf s o with
  | none => s
  | some (p, k) => leaveSlot (poisonSlice s p (lentOffset k) (if k = 2 then 0x1000000 else 0x2000000)) p k

/-- R40: a thread of an orphan takes HOMEPATH at a syllable of the bundle that it waits in, for its lost partner. -/
def lentFault (lost : Nat) (s : State) (k : Nat) (th : Thread) (i va : Nat) : State :=
  let w := (th.bundle.map (fun b => b.words)).getD []
  takeFault s k .homepath th.pc w.length i (nth 0 w i) (some (BitVec.ofNat 53 va)) (homepathAux 1 (some lost))

/-- R40, R211, R432: the syllable and address of the MSHAPE whose load a thread has in flight to the slice of a partner through its lent
window: its bundle has not committed. -/
def shapeInFlight (s : State) (lost : Nat) (th : Thread) : Option (Nat × Nat) :=
  pick (fun (a : Access) => match a.dst with
    | .sh r => if a.uid != th.uid then none
      else (a.elems.find? (fun e => e.path == .bonded && sliceOf e.pa == lost && 0x4000000 ≤ e.va && e.va < 0x8000000)).bind (fun e =>
        ((instrsOf ((th.bundle.map (fun b => b.words)).getD [])).find? (fun x => match x.2 with
          | .mshape _ sh _ _ => sh == r
          | _ => false)).map (fun x => (x.1, e.va)))
    | .none | .s _ | .v _ | .payload => none) s.inflight

/-- R40: a load-type bundle of an orphan that waits for its lost partner, or for its answer, freezes with HOMEPATH; a store-type access,
already issued, follows Table 2.8, or is made again after a controlled lowering, which loses none (R51). -/
def loseLent (sudden : Bool) (lost k : Nat) (s : State) (o : Nat) : State :=
  (threadsOn s o).foldl (fun s e => match e.2.status with
    | .waiting (.lent va i wr _) =>
      if wr && !sudden then s
      else if wr then setStatus s e.1 (.waiting (.gone i lost k))
      else lentFault lost s e.1 e.2 i va
    | .waiting .cond => match shapeInFlight s lost e.2 with
      | none => s
      | some (i, va) => lentFault lost s e.1 e.2 i va
    | _ => s) s

/-- R34, R54: the partners after a site's lowering: those who lost theirs, and a new orphan, are assigned; freed windows and
new ones start poisoned. -/
def newPartners (s : State) (t new : Nat) (sudden : Bool) : State :=
  let lent := if new = 1 || new = 3 then s.partner.filter (fun e => e.2.1 == t) else []
  let losers := lent.map (fun e => e.1)
  let own := if new = 3 then partnerOf s t else none
  let s := { s with partner := s.partner.filter (fun e => !losers.contains e.1 && !(new == 3 && e.1 == t)) }
  let s := match own with
    | some (p, 2) => if classOf s p == 0 then poisonSlice s p 0x3000000 0x1000000 else s
    | _ => s
  let need := losers ++ (if new = 1 then [t] else [])
  let order := need.foldl (fun (l : List Nat) o => l.filter (fun u => bayOrd (bayOf u) * 65536 + siteOf u < bayOrd (bayOf o) * 65536 + siteOf o) ++
    [o] ++ l.filter (fun u => bayOrd (bayOf o) * 65536 + siteOf o < bayOrd (bayOf u) * 65536 + siteOf u)) []
  let s := order.foldl (fun s o => openWindow (assignPartner s o) o) s
  lent.foldl (fun s e => loseLent sudden t e.2.2 s e.1) s

/-! The names that move. -/

/-- R52, R262: a copy of a publication in the cache of a live router, as it reads there; none of a copy whose headers are both
uncorrectable. -/
def liveCopy (s : State) (n : Name) : Option Pub :=
  pick (fun (e : Nat × Core) => if routerUp s e.1 && !headerLost s e.1 n then
    (e.2.cache.find? (fun p => p.name == n)).map (readCopy s e.1) else none) s.cores

/-- R52: a publication whose home moved: sent on by a router that answers, as it reads there, or recovered from a tree copy where the
home is dead; a name of a pier tensor falls through again; any other is lost. One whose headers are both uncorrectable is lost in the same
two ways (R262). One that had retired to a store slot is placed anew; one in a pier's retire region stays there (DESIGN CHOICE, log entry
115). -/
def moveName (alive : Nat → Bool) (s : State) (h : HomeE) : State :=
  let n := h.pub.name
  let rest := s.homes.filter (fun x => x.pub.name != n)
  match homeNow s n with
  | none => { s with homes := rest }
  | some u =>
    if alive h.site && headerLost s h.site n then loseName { s with homes := rest } n
    else if alive h.site then
      let p := h.read s
      let place := match h.place with
        | .slot _ => retirePlace s u p
        | .cache => .cache
        | .retire a => .retire a
      let s := if place == .cache then freshCopy (makeRoom u p.size (cacheItems s u) s) u n else s
      updHome s n (fun h => { h with pub := p, site := u, place := place })
    else match liveCopy s n with
      | some p =>
        let s := freshCopy (makeRoom u p.size (cacheItems s u) { s with homes := rest }) u n
        { s with homes := s.homes ++ [{ h with pub := p, site := u, place := .cache, consumed := 0, deferred := [] }] }
      | none => loseName { s with homes := rest } n

/-- The names that the device knows: those with a publication or a subscription at a home, and those that routers match. -/
def knownNames (s : State) : List Name :=
  s.homes.map (fun h => h.pub.name) ++ s.subs.map (fun q => q.name) ++ s.cores.flatMap (fun e => e.2.nmt.map (fun m => m.1.1))

/-- The names whose home new tables change. -/
def movedNames (before s : State) : List Name :=
  (knownNames before).foldl (fun l n => if l.contains n || homeNow before n == homeNow s n then l else l ++ [n]) []

/-- R43: the tensors of bay-local names that have no home any more in a bay: context and tensor. -/
def lostTensors (before s : State) : List (Nat × Nat) :=
  s.graphs.flatMap (fun e => match e.2.image with
    | none => []
    | some im => im.names.filterMap (fun d => match d.bay with
      | none => none
      | some (x, y) =>
        let open_ (s : State) : Bool := (bayTiles (16 * y + x)).any (fun t => !homeExcluded s t)
        if open_ before && !open_ s then some (e.1, d.tid) else none))

/-- R52, R53: the names and subscriptions whose home differs move. A subscription that a publication of the name has satisfied keeps
it, but for one that a lost home had deferred. -/
def moveNames (alive : Nat → Bool) (l : List Name) (s : State) : State :=
  let moved (n : Name) : Bool := l.contains n
  let subs := s.subs.filter (fun q => moved q.name)
  let lost := (s.homes.filter (fun h => moved h.pub.name && !alive h.site)).map (fun h => (h.pub.name, h.deferred))
  let again (q : Sub) : List Name := q.seen.filter (fun n => !lost.any (fun e => e.1 == n && e.2.contains q.tile))
  let s := (s.homes.filter (fun h => moved h.pub.name)).foldl (moveName alive) s
  { s with
    subs := s.subs.filter (fun q => !moved q.name),
    cores := s.cores.map (fun e => (e.1, { e.2 with nmt := e.2.nmt.filter (fun m => !moved m.1.1) })),
    net := (s.net.filter (fun m => match m with
      | .free k _ => !moved k.1
      | _ => true)) ++ subs.map (fun q => Msg.sub { q with direct := false, routers := [], seen := again q }) }

/-- R83: the residency entries whose bonded copy lost a slice become absent. -/
def loseCopies (s : State) : State :=
  let gone (r : ResEntry) : Bool := r.st != 0 && r.st != 4 && (upTo r.npg).any (fun i => !homeCapable s (sliceOf (r.bbase + 8192 * i)))
  { s with residency := s.residency.filter (fun e => !gone e.2) }

/-- The core of a site after its loss: the router's parts stay unless the site is dead. -/
def clearCore (s : State) (t new : Nat) : State :=
  updCore s t (fun c =>
    if new = 3 then { Core.reset with cyc := c.cyc }
    else { Core.reset with cyc := c.cyc, nmt := c.nmt, cache := c.cache, tilePubs := c.tilePubs })

/-- R51: the transactions that have 65,536 cycles of their tiles from a new epoch on: accesses and chunks whose answer is still to
come, those at a scratchpad that is lost among them. -/
def noteOlds (s : State) : State :=
  let accs := (s.inflight.filter (fun a => longAccess a || a.elems.any (fun e => !e.done && siteLost s e.pa e.path))).map (fun a =>
    (a.id, a.tile))
  let chunks := s.cores.flatMap (fun c => (cmdsOf c.2).flatMap (fun d => (d.chunks.filter (fun k => d.port != .hname &&
    (portOb d.port).isNone && (k.path.long || siteLost s k.pa k.path))).map (fun k => (k.num, c.1))))
  { s with olds := (accs ++ chunks).foldl (fun m e => put e.1 (coreAt s e.2).cyc m) s.olds }

/-! Link reset (R50). -/

/-- The routers that the packet of an element passes now: its request still, or its answer; none where no packet of it is on the
deck. -/
def elemRoute (s : State) (a : Access) (e : Elem) : Option (List Nat) :=
  if !e.path.long || e.cut then none
  else if e.path.remote then (if e.done then none else if e.sent then answerRoute s a.tile e.path e.pa else requestRoute s a.tile e.path e.pa)
  else if e.done then answerRoute s a.tile e.path e.pa
  else if e.sent then none
  else requestRoute s a.tile e.path e.pa

/-- The routers that the packet of a chunk passes now: the write of one that writes its port, the answer of one that reads it. -/
def chunkRoute (s : State) (t : Nat) (c : Cmd) (k : Chunk) : Option (List Nat) :=
  if (portOb c.port).isSome || c.port == .hname || !k.path.long || k.cut then none
  else if c.out && !k.sent then requestRoute s t k.path k.pa
  else answerRoute s t k.path k.pa

/-- The packets on the deck: the transaction, the elements of it that the packet carries, and its routers. -/
def packets (s : State) : List (Nat × List Nat × List Nat) :=
  s.inflight.flatMap (fun a => ((upTo a.elems.length).zip a.elems).filterMap (fun x =>
    let l := (travels a x.1 x.2).map (fun f => f.1)
    if l.headD x.1 != x.1 then none else (elemRoute s a x.2).map (fun r => (a.id, l, r)))) ++
  s.cores.flatMap (fun c => (cmdsOf c.2).flatMap (fun d => d.chunks.filterMap (fun k =>
    (chunkRoute s c.1 d k).map (fun r => (k.num, [], r)))))

/-- R50: the reset tokens to the live neighbours of a site, each on the link facing it, with the packets that the link's router sends
over it and those that came over it (log entry 36 for which these are). -/
def linkTokens (s : State) (t : Nat) : List Token :=
  let ps := packets s
  (upTo 4).filterMap (fun d => match neighbour t d with
    | none => none
    | some u => if !routerUp s u then none
      else
        let back := (d + 2) % 4
        let cuts := ps.filterMap (fun p => (aroundLink u back [] p.2.2).map (fun r => (⟨p.1, p.2.1, r.1⟩ : Cut)))
        let late := ps.filterMap (fun p => (aroundLink t d [] p.2.2).map (fun r => (⟨p.1, p.2.1, r.2⟩ : Cut)))
        some (.link u back cuts late))

/-- R48, steps 4 and 5: the hash units are held, the entry is written and the tables follow; a sudden lowering then resets the
links of its site. -/
def lowTables (s : State) (l : Lowering) : State :=
  let t := tileOfSite l.site
  let old := classOf s t
  let s0 := s
  let toks := if l.sudden then linkTokens s t else []
  let s := { s with live := setD 0 l.site (BitVec.ofNat 2 l.cls) s.live, epoch := s.epoch + 1, lowVac := none }
  let s := newPartners s t l.cls l.sudden
  let s := if losesCore old l.cls || l.cls = 3 then clearCore s t l.cls else s
  let s := if l.sudden then noteOlds { s with tokens := s.tokens ++ toks } else s
  let s := (lostTensors s0 s).foldl (fun s e => logEvent s 4 [BitVec.ofNat 64 e.2]) s
  { s with lowering := some { l with tables := true, old := old, moved := movedNames s0 s } }

/-- R48, steps 7 and 8: the hash units are released, names move, and the lowering is logged. -/
def lowFinish (s : State) (l : Lowering) : State :=
  let t := tileOfSite l.site
  let alive (u : Nat) : Bool := if u = t then !l.sudden else routerUp s u
  let s := vacAnswer { s with lowering := none }
  let s := loseCopies (moveNames alive l.moved s)
  let s := logEvent s 1 [BitVec.ofNat 64 l.site, BitVec.ofNat 64 l.old, BitVec.ofNat 64 l.cls, s.epoch.setWidth 64]
  let s := msSetField s 0x811 3 1 1
  let s := if l.req then msSetField s 0x811 1 2 0 else s
  let s := msSetField s 0x811 0 1 0
  lowNext (s.cores.foldl (fun s e => wakeTile s e.1) s)

/-- R48, step 6: a lowering whose tables are loaded goes on when every token and abort has been absorbed. -/
def lowRelease (s : State) : State :=
  match s.lowering with
  | none => s
  | some l => if l.tables && s.tokens.isEmpty && s.aborts.isEmpty then lowFinish s l else s

/-- R48: LOWERING_ROUTER_DRAINED: the site's instances are moved, its router is empty or answers no more, and the new tables
are loaded. -/
def execLoweringRouterDrained (s : State) : Result :=
  let s := lowNext s
  .next (match s.lowering with
  | none => s
  | some l =>
    let moved := match s.lowVac with
      | none => true
      | some v => v.phase == 5
    if !l.tables && moved && (l.sudden || routerEmpty s (tileOfSite l.site)) then lowRelease (lowTables s l) else s)

/-- A chunk with a number is cut. -/
def cutChunk (s : State) (num : Nat) : State :=
  match chunkAt s num with
  | none => s
  | some (t, c, k) => putChunk s t c { k with cut := true }

/-- R50: a transaction is marked as cut, for the elements that a packet of it carried. -/
def cutAt (s : State) (c : Cut) : State :=
  match accAt s c.id with
  | none => cutChunk s c.id
  | some _ => updAcc s c.id (fun a => { a with elems := ((upTo a.elems.length).zip a.elems).map (fun x =>
      if c.elems.contains x.1 then { x.2 with cut := true } else x.2) })

/-- R50: a destination discards a partial packet: a request is never performed, and is lost once its time is over (R51); an answer, or
a chunk, counts as cut. -/
def abortAt (s : State) (c : Cut) : State :=
  match accAt s c.id with
  | none => cutChunk s c.id
  | some _ => updAcc s c.id (fun a => { a with elems := ((upTo a.elems.length).zip a.elems).map (fun x =>
      if !c.elems.contains x.1 then x.2
      else if x.2.done || x.2.sent then { x.2 with cut := true }
      else { x.2 with sent := true }) })

/-- R50: RESET_TOKEN: at a router beside the site the link is marked down; each packet that was crossing it is discarded, its token
passes upstream, and behind each packet that came over it an abort flit passes downstream. A token that reaches the source of its packet
marks the transaction as cut. -/
def execResetToken (i : Nat) (s : State) : Result :=
  .next (match s.tokens[i]? with
  | none => s
  | some x =>
    let s := { s with tokens := dropNth s.tokens i }
    lowRelease (match x with
    | .link u d cuts late =>
      { s with downLinks := (u, d) :: s.downLinks.filter (fun l => l != (u, d)), tokens := s.tokens ++ cuts.map .up,
               aborts := s.aborts ++ late }
    | .up c => match c.path with
      | [] => cutAt s c
      | _ :: l => { s with tokens := s.tokens ++ [.up { c with path := l }] }))

/-- R50: ABORT_FLIT: an abort passes a router, or reaches the destination of its packet. -/
def execAbortFlit (i : Nat) (s : State) : Result :=
  .next (match s.aborts[i]? with
  | none => s
  | some c =>
    let s := { s with aborts := dropNth s.aborts i }
    lowRelease (match c.path with
    | [] => abortAt s c
    | _ :: l => { s with aborts := s.aborts ++ [{ c with path := l }] }))

end Sys2Proof.Machine
end

