-- ==== Sys2Proof/Machine/Heartbeat.lean ====
section
/-! DEFINITION. Heartbeats, probes and the two keystones (R33, R357, R361). -/

namespace Sys2Proof.Machine

/-- The state with a site's heartbeat record replaced. -/
def setBeat (s : State) (site : Nat) (b : Beat) : State := { s with beats := setD Beat.none site b s.beats }

/-- Whether the keystone watches a site: its router is live. -/
def watched (s : State) (site : Nat) : Bool := site < Config.sites && routerUp s (tileOfSite site)

/-- R361: a beat, or a reply with core 1, ends the sequence of a site. -/
def calm (s : State) (site : Nat) : State := setBeat s site { Beat.none with last := s.kcyc }

/-- R361: HEARTBEAT_BEAT. -/
def execHeartbeatBeat (site : Nat) (s : State) : Result := .next (if watched s site then calm s site else s)

/-- R361: HEARTBEAT_TIMEOUT: a site silent for ms.hb.to keystone cycles is probed. -/
def execHeartbeatTimeout (site : Nat) (s : State) : Result :=
  let b := beatOf s site
  .next (if watched s site && !b.probing && b.fails == 0 && msField s 0x820 0 32 ≤ (s.kcyc - b.last).toNat then
    setBeat s site { b with probing := true, sentAt := s.kcyc }
  else s)

/-- R361, Table 2.4: the lowering that two failed probes select. -/
def probeLowering (s : State) (site : Nat) (core0 : Bool) : State :=
  let c := classOf s (tileOfSite site)
  let s := { s with beats := del site s.beats }
  if core0 then
    (if c = 0 then lowNext (requestLowering s site 2 false false false none)
     else if c = 1 then lowNext (requestLowering s site 3 false false false none) else s)
  else lowNext (requestLowering s site 3 true false false none)

/-- R361, R362: a probe failed, with the reply that it had. -/
def probeFailed (s : State) (site : Nat) (reply : Nat) (core0 : Bool) : State :=
  let b := beatOf s site
  let s := logEvent s 3 [BitVec.ofNat 64 site, Config.probeWord reply]
  if b.fails = 0 then
    setBeat s site { b with probing := false, fails := 1, failedAt := s.kcyc, core0 := core0 }
  else probeLowering s site (b.core0 || core0)

/-- R361: PROBE_REPLY: within 2^16 keystone cycles of the probe, a reply with core 1 ends the sequence; core 0 fails where the site has a
core that is not gated. The eff and strn that it carries are the tile's level and its bay's strn as they stand, whatever the event
names. -/
def execProbeReply (site : Nat) (rtr core : Bool) (_eff : Nat) (_strn : Bool) (s : State) : Result :=
  let t := tileOfSite site
  let b := beatOf s site
  .next (if !b.probing || !rtr || 0x10000 ≤ (s.kcyc - b.sentAt).toNat then s
  else if core || !computeCapable s t || getD false (bayOf t) s.gated then calm s site
  else
    let strn := (msRead s (0xA00 + bayOf t)).getLsbD 16
    probeFailed s site (1 + 2 * ((coreAt s t).eff % 16) + (if strn then 32 else 0)) true)

/-- R361: PROBE_TIMEOUT: no reply within 2^16 keystone cycles. -/
def execProbeTimeout (site : Nat) (s : State) : Result :=
  let b := beatOf s site
  .next (if b.probing && 0x10000 ≤ (s.kcyc - b.sentAt).toNat then probeFailed s site 0 false else s)

/-- R361: PROBE_RETRY: the second probe, 2^16 keystone cycles after the failure. -/
def execProbeRetry (site : Nat) (s : State) : Result :=
  let b := beatOf s site
  .next (if !b.probing && b.fails == 1 && 0x10000 ≤ (s.kcyc - b.failedAt).toNat then
    setBeat s site { b with probing := true, sentAt := s.kcyc }
  else s)

/-- R357: the standby keystone, which mirrors the keystone's state, starts again what was in progress (log entry 89): a vacate from its
first phase on, with the gates' arrival and the grace anew and what it saved and moved kept; a lowering whose tables are not loaded from
its second step on. A residency request, and a checkpoint of which nothing is sent before its end, start again as they stand. -/
def restartWork (s : State) : State :=
  let s := match s.vacate with
    | none => s
    | some v => msSetField { s with vacate := some { v with phase := 1, gates := gatesOf s v.bays [], expired := [] } } 0x813 8 3 1
  match s.lowering with
  | none => s
  | some l =>
    if l.tables || s.lowVac.isNone then s
    else emptyCore s (tileOfSite l.site) l.core

/-- R357, R544: KEYSTONE_PROBE: after two failed probes the standby keystone serves, and starts again the requests in progress; an alert
thread's work ends, and its slot 13 stays empty until a new alert (DEDUCED from R544, log entry
111). -/
def execKeystoneProbe (ok : Bool) (s : State) : Result :=
  .next (if (msRaw s 0x801).getLsbD 59 then s
  else if ok then { s with probeFails := 0 }
  else if s.probeFails = 0 then { s with probeFails := 1 }
  else
    let k := keyOf Config.ks 13
    let s := match threadAt s k with
      | none => s
      | some th => dropThread (cancelAll s Config.ks th.uid) k
    restartWork (msSetField { s with probeFails := 0 } 0x801 59 1 1))

end Sys2Proof.Machine
end

