-- ==== Sys2Proof/Machine/Sensors.lean ====
section
/-! DEFINITION. Sensors, alerts, throttling and clock stretching (R23, R358 to R360). -/

namespace Sys2Proof.Machine

/-- A field of 16 bits of a register, signed. -/
def signed16 (v : Word) (lo : Nat) : Int := (BitVec.ofNat 16 (v.toNat / 2 ^ lo)).toInt

/-- The register of a bay's sensor. -/
def bayTemp (b : Nat) : Nat := 0x900 + b
/-- The register of a bay's throttle. -/
def bayThr (b : Nat) : Nat := 0xA00 + b
/-- The sensor register of a pier or abutment: agents 0 to 31 and 32 to 39. -/
def agentTemp (a : Nat) : Nat := if a < 32 then 0x9A0 + a else 0x9C0 + (a - 32)

/-- Whether a sensor has tripped. -/
def tripped (s : State) (reg : Nat) : Bool := (msRaw s reg).getLsbD 17

/-- R359: whether a trip forces a bay: its own sensor's, or that of a pier or abutment with an edge tile in it. -/
def bayTrip (s : State) (b : Nat) : Bool :=
  tripped s (bayTemp b) || (upTo 40).any (fun a => tripped s (agentTemp a) && (agentTiles a).any (fun t => bayOf t == b))

/-- R359, R360: trip and eff of a bay's throttle register follow its sensors and its level. -/
def thrUpdate (s : State) (b : Nat) : State :=
  let trip := bayTrip s b
  msSetField (msSetField s (bayThr b) 8 1 (if trip then 1 else 0)) (bayThr b) 4 4
    (if trip then 15 else msField s (bayThr b) 0 4)

/-- R358: the bits of ms.temp after a reading: temp, trip and armed, and whether an alert is raised. -/
def sensorNext (v : Word) (reading : BitVec 16) : Word × Bool :=
  let r := reading.toInt
  let hi := signed16 v 48
  let lo := signed16 v 32
  let trip := if 840 ≤ r then true else if r ≤ lo then false else v.getLsbD 17
  let rise := hi ≤ r && v.getLsbD 18
  let armed := if r ≤ lo then true else if rise then false else v.getLsbD 18
  let keep := v.toNat / 2 ^ 32 * 2 ^ 32
  (BitVec.ofNat 64 (keep + (if armed then 2 ^ 18 else 0) + (if trip then 2 ^ 17 else 0) +
    (if rise || v.getLsbD 16 then 2 ^ 16 else 0) + reading.toNat), rise)

/-- R358, R359: SENSOR_UPDATE: a reading at or above hi while armed raises an alert. Before stage 3 arms thermal protection, a reading
is only shown (R355). -/
def execSensorUpdate (reg : Nat) (reading : BitVec 16) (s : State) : Result :=
  .next (if !sensors.contains reg then s
  else if stageOf s < 3 then msSetField s reg 0 16 reading.toNat
  else
    let r := sensorNext (msRaw s reg) reading
    let s := bays.foldl thrUpdate (msPut s reg r.1)
    if r.2 then startAlert (logEvent s 2 [BitVec.ofNat 64 reg, reading.setWidth 64]) reg else s)

/-- R360: THROTTLE_APPLY: a tile takes its bay's effective level for the cycles from its next 16-cycle boundary on, which begins with
its next cycle. -/
def execThrottleApply (tile : Nat) (s : State) : Result :=
  .next (if isSite tile && ((coreAt s tile).cyc.toNat + 1) % 16 == 0 then
    updCore s tile (fun c => { c with eff := msField s (bayThr (bayOf tile)) 4 4 })
  else s)

/-- R360: DROOP_STRETCH: a cycle of a present bay is stretched. -/
def execDroopStretch (bay : Nat) (s : State) : Result :=
  .next (if bays.contains bay then
    { s with stretch := put bay (((find bay s.stretch).map (fun e => e.1)).getD 0 + 1, s.kcyc) s.stretch }
  else s)

end Sys2Proof.Machine
end

