-- ==== Sys2Proof/Machine/HostPort.lean ====
section
/-! DEFINITION. The PCI Express ports: BAR2, the keystone registers as a host and as CSRW write them, and MSI-X (R248, R281,
R350 to R352, R363). -/

namespace Sys2Proof.Machine

/-! Keystone registers. -/

/-- R350: the numbers of Table 16.1. -/
def msAssigned (n : Nat) : Bool :=
  (0x800 ≤ n && n ≤ 0x80C) || (0x810 ≤ n && n ≤ 0x818) || n == 0x820 || n == 0x821 || n == 0x830 || n == 0x831 ||
  sensors.contains n || (0xA00 ≤ n && bays.contains (n - 0xA00))

/-- Table 16.1: whether a host port may write a register. -/
def hostMay (port n : Nat) : Bool :=
  if n = 0x800 || n = 0x801 || n = 0x80A then false
  else if n = 0x802 || n = 0x803 || n = 0x806 || n = 0x807 then port == 0
  else if n = 0x804 || n = 0x805 then n == 0x804 + port
  else if n = 0x808 || n = 0x809 then n == 0x808 + port
  else if n = 0x80B || n = 0x80C then n == 0x80B + port
  else true

/-- R31, R338, R350, R358, R360, R363, R364, R394: a write to a keystone register; one that starts keystone work starts it,
with the bits outside the mask as they stood. -/
def msWrite (s : State) (n : Nat) (v mask : Word) (host : Option Nat) : State :=
  if n = 0x810 then classRequest s v mask
  else if n = 0x812 then vacRequest (msWriteBits s n v mask) host
  else if n = 0x815 then (if msField s 0x816 0 1 = 1 then s else resStart (msWriteBits s n v mask))
  else if n = 0x821 then nextAlert (msWriteBits s n v mask)
  else if n = 0x830 then ckRequest s v mask
  else if 0xA00 ≤ n && n < 0xAA0 then thrUpdate (msWriteBits s n v mask) (n - 0xA00)
  else msWriteBits s n v mask

/-! MSI-X (R351). -/

/-- Half entry k of a port's MSI-X table written: of the vector control only the mask bit. -/
def msixPut (s : State) (port k : Nat) (v : Word) : State :=
  let j := 4096 * port + k
  { s with msixTab := setD (msixReset j) j (if k % 2 = 0 then v else v &&& 0x1FFFFFFFF) s.msixTab }

/-- A message that the pending bit of an unmasked vector holds is sent. -/
def msixFlush (s : State) (port vec : Nat) : State :=
  let j := 2048 * port + vec
  if msixOpen s port vec && getD false j s.msixPend then
    sendVector { s with msixPend := setD false j false s.msixPend } port vec
  else s

/-- A host's write to half entry k of its MSI-X table. -/
def msixWrite (s : State) (port k : Nat) (v mask : Word) : State :=
  msixFlush (msixPut s port k ((msixHalf s port k &&& ~~~mask) ||| (v &&& mask))) port (k / 2)

/-- R350, R351: REGISTER_WRITE: bytes of the 8 at offset 8·n of BAR0 written: a keystone register, or half an entry of the MSI-X table;
any other offset ignores it. -/
def execRegisterWrite (port n : Nat) (v : Word) (be : BitVec 8) (s : State) : Result :=
  .next (if 2 ≤ port || be == 0 || !pcieUp s then s
  else if msAssigned n then (if hostMay port n then msWrite s n v (beMask be) (some port) else s)
  else if 0x100000 ≤ n && n < 0x101000 then msixWrite s port (n - 0x100000) v (beMask be)
  else s)

/-- R351: MSIX_UNMASK: a vector is unmasked, and a message that its pending bit holds is sent. -/
def execMsixUnmask (port vec : Nat) (s : State) : Result :=
  .next (if 2 ≤ port || 2048 ≤ vec || !pcieUp s then s else msixWrite s port (2 * vec + 1) 0 0x100000000)

/-! Reads of BAR0 (R30, R94, R350, R351, R362). They change nothing, so that no step stands for one. -/

/-- The pending-bit array of a port: 64 vectors from one on. -/
def msixPba (s : State) (port vec : Nat) : Word :=
  (upTo 64).foldl (fun w i => if getD false (2048 * port + vec + i) s.msixPend then w ||| (1#64 <<< i) else w) 0

/-- R351, Table 16.2: the 8 bytes that a host reads at offset 8·n of BAR0 of its port: a keystone register, the MSI-X table and its
pending bits, the view of a launch slot, a site's class record, the event log, and zero at any other offset. -/
def bar0Word (s : State) (port n : Nat) : Word :=
  if n < 0x1000 then (if msAssigned n then msRead s n else 0)
  else if 0x100000 ≤ n && n < 0x101000 then msixHalf s port (n - 0x100000)
  else if 0x101000 ≤ n && n < 0x101020 then msixPba s port (64 * (n - 0x101000))
  else if 0x200000 ≤ n && n < 0x202000 then
    let view := slotView ((find (1024 * port + (n - 0x200000) / 8) s.slots).getD LaunchSlot.none)
    BitVec.ofNat 64 (leNat ((view.drop (8 * (n % 8))).take 8))
  else if 0x400000 ≤ n && n < 0x405400 then
    let t := tileOfSite (n - 0x400000)
    classRecord s (tileX t) (tileY t)
  else if 0x600000 ≤ n && n < 0x602000 then BitVec.ofNat 64 (readLe s (0x3F81000000 + 8 * (n - 0x600000)) 8)
  else 0

/-- R351: the bytes of a host's read of BAR0, while PCI Express is visible. -/
def bar0Read (s : State) (port off len : Nat) : List Byte :=
  if !pcieUp s then []
  else (upTo len).map (fun i => BitVec.ofNat 8 ((bar0Word s port ((off + i) / 8)).toNat / 2 ^ (8 * ((off + i) % 8))))

/-- R351, R356, R362: whether the completion of a host's read of BAR0 is marked poisoned (EP): a byte of it comes from a line of the event
log in stack 3 that is poisoned or uncorrectable, or whose stack failed training. -/
def bar0Marred (s : State) (off len : Nat) : Bool :=
  (upTo len).any (fun i => 0x3000000 ≤ off + i && off + i < 0x3010000 && entryBad s (0x3F81000000 + (off + i - 0x3000000)))

/-! BAR2. -/

/-- Table 16.2: the physical address of an offset of a port's BAR2, if its window is enabled; before stage 2 no port is visible
(R355). -/
def bar2Addr (s : State) (port off : Nat) : Option Nat :=
  let m := msRaw s (0x80B + port)
  let size := 2 ^ (30 + Config.bar2Size port % 7)
  if port < 2 && pcieUp s && m.getLsbD 0 then some (m.toNat / 2 ^ 30 % 2 ^ 18 * 2 ^ 30 / size * size + off % size) else none

/-- R233, R351: whether BAR2 reaches an address: it lies in no range marked "none", in no host aperture and not in the peer
window; the ranges that belong to the issuing tile belong to no host. -/
def bar2Takes (s : State) (pa : Nat) : Bool :=
  pa < 0x039000000000 ||
  (0x03A000000000 ≤ pa && pa < 0x03B900000000 && computeCapable s ((pa - 0x03A000000000) / 0x400000) &&
    (pa - 0x03A000000000) % 0x400000 < 0x100000) ||
  (0x03C000000000 ≤ pa && pa < 0x03C000400000)

/-- Whether memory of the device holds nothing at an address any more: a failed stack, or a slice of a site that is not
home-capable. -/
def gone (s : State) (pa : Nat) : Bool := stackFailed s pa || siteLost s pa (devPath pa)

/-- R19: the abutment of a PCI Express port, as a rim agent. -/
def hostAgent (port : Nat) : Nat := 32 + 4 * port

/-- R109, R356: whether an address is to be waited for: its stack trains, or the scratchpad that holds it is switched off. -/
def bar2Waits (s : State) (pa : Nat) : Bool := !stackReady s pa || (devPath pa == .sys && asleep s (padOwner pa))

/-- R351: BAR2_READ: it completes with data, marked poisoned (EP) where a line is, or with Unsupported Request; where it finds no route it
is sent again (Table 2.8). -/
def execBar2Read (port off len : Nat) (s : State) : Result :=
  .next (match bar2Addr s port off with
  | none => { s with outHost := s.outHost ++ [.cpl port none false] }
  | some pa =>
    if !bar2Takes s pa || !bar2Takes s (pa + (len - 1)) then { s with outHost := s.outHost ++ [.cpl port none false] }
    else if bar2Waits s pa || !abutRoutes s (hostAgent port) pa || !deckFree s pa len then s
    else
      let (s, data, bad) := readRange (deckTurn s pa len) pa len (gone s pa)
      { s with outHost := s.outHost ++ [.cpl port (some data) (bad.any (fun b => b))] })

/-- R351: BAR2_WRITE: a posted write; a poisoned one leaves the bytes of its lines and sets their poison bits. Where it finds no route it
is lost (Table 2.8); and it does not come between a fetch and the acquire before it (log entry 94). -/
def execBar2Write (port off : Nat) (bytes : List Byte) (ep : Bool) (s : State) : Result :=
  .next (match bar2Addr s port off with
  | none => s
  | some pa =>
    if !bar2Takes s pa || !bar2Takes s (pa + (bytes.length - 1)) || bar2Waits s pa || gone s pa ||
        !abutRoutes s (hostAgent port) pa || aheadMeets s s.nextUid pa bytes.length || !deckFree s pa bytes.length then s
    else
      let s := deckTurn s pa bytes.length
      if ep then (upTo bytes.length).foldl (fun s i => setLinePoison s (pa + i) true) s else writeClean s pa bytes)

/-- The type that a host AtomicOp of some bytes works on. -/
def opTy (size : Nat) : Ty := if size = 4 then .u32 else .u64

/-- R351: the form that an AtomicOp executes as, with the operand widths that the port completes. -/
def opNew (op : HostAtomic) (size : Nat) (a b : Word) (old : Nat) : Option Nat :=
  let x (v : Word) := v.toNat % 2 ^ (8 * size)
  match op with
  | .fetchAdd => if size = 4 || size = 8 then some (amoNew .add (opTy size) old (x a)) else none
  | .swap => if size = 4 || size = 8 then some (amoNew .swap (opTy size) old (x a)) else none
  | .cas => if size = 8 then some (if old = x a then x b else old) else none

/-- R351: BAR2_ATOMICOP: it executes at its target's owning port, or completes with Unsupported Request; where it finds no route it is not
performed, and its result is poisoned (Table 2.8). -/
def execBar2Atomicop (port off : Nat) (op : HostAtomic) (size : Nat) (a b : Word) (s : State) : Result :=
  let ur := { s with outHost := s.outHost ++ [.cpl port none false] }
  .next (match bar2Addr s port off with
  | none => ur
  | some pa =>
    if !bar2Takes s pa || pa % size != 0 || (opNew op size a b 0).isNone then ur
    else if bar2Waits s pa || aheadMeets s s.nextUid pa size || !deckFree s pa size then s
    else if gone s pa || !abutRoutes s (hostAgent port) pa then
      let (s, data, _) := readRange s pa size true
      { s with outHost := s.outHost ++ [.cpl port (some data) true] }
    else
      let s := discover (deckTurn s pa size) pa size
      let old := readLe s pa size
      match opNew op size a b old with
      | none => ur
      | some v =>
        { writeLe s pa size v with outHost := s.outHost ++ [.cpl port (some (leBytes size old)) (rangePoison s pa size)] })

end Sys2Proof.Machine
end

