-- ==== Sys2Proof/Machine/Cufort.lean ====
section
/-! DEFINITION. Cufort: accesses that peers send, resends, replays and links (R247, R353, R354, R540). -/

namespace Sys2Proof.Machine

/-- R354: the physical address of an offset of the peer-visible window, while it is served. -/
def peerAddr (s : State) (off : Nat) : Option Nat :=
  if (msRaw s 0x803).getLsbD 0 && devId s != 0xFFF then some (msField s 0x803 35 13 * 2 ^ 35 + off % 2 ^ 35) else none

/-- R354: whether a peer's access may reach an address: the device's own HBM outside the reserved areas, or the slice of a
home-capable site. -/
def peerTakes (s : State) (pa : Nat) : Bool :=
  (pa < 0x020000000000 && pa % 0x1000000000 < 0xF80000000) ||
  (0x020000000000 ≤ pa && pa < 0x039000000000 && homeCapable s (sliceOf pa))

/-- The bytes that an access carries or asks for. -/
def peerSize (p : Peer) : Nat :=
  match p.kind with
  | .load => p.len
  | .store => p.bytes.length
  | .amo _ ty => ty.bits / 8
  | .acas ty => ty.bits / 8

/-- R247: the bytes of a remote store: clean ones are written, poisoned ones are left and their lines poisoned. A line that
they cover wholly with clean bytes loses its poison (R202). -/
def peerStore (s : State) (pa : Nat) (l : List PByte) : State :=
  let s := ((upTo l.length).zip l).foldl (fun s e => match e.2 with
    | .val b => writeByte s (pa + e.1) b
    | .bad => setLinePoison s (pa + e.1) true
    | .keep => s) s
  let clean (i : Nat) : Bool := match l[i]? with
    | some (.val _) => true
    | _ => false
  (upTo (l.length / 64 + 1)).foldl (fun s i =>
    let a := (pa + 63) / 64 * 64 + 64 * i
    if a + 64 ≤ pa + l.length && (upTo 64).all (fun o => clean (a - pa + o)) then setLinePoison s a false else s) s

/-- R248, R353: what an arriving access does, and its answer. -/
def peerPerform (s : State) (p : Peer) (pa : Nat) : State × List (Option Byte) :=
  let w := peerSize p
  let s := match p.kind with
    | .amo _ _ => discover s pa w
    | .acas _ => discover s pa w
    | .load => s
    | .store => s
  let answer (old : List Byte) (bad : List Bool) : List (Option Byte) :=
    (old.zip bad).map (fun e => if e.2 then none else some e.1)
  match p.kind with
  | .load =>
    let (s, data, bad) := readRange s pa p.len (stackFailed s pa)
    (s, answer data bad)
  | .store => (peerStore s pa p.bytes, [])
  | .amo op ty =>
    let old := readLe s pa w
    let bad := List.replicate w (rangePoison s pa w)
    (writeLe s pa w (amoNew op ty old (p.b.toNat % 2 ^ (8 * w))), answer (leBytes w old) bad)
  | .acas _ =>
    let old := readLe s pa w
    let bad := List.replicate w (rangePoison s pa w)
    (if old = p.b.toNat % 2 ^ (8 * w) then writeLe s pa w (p.c.toNat % 2 ^ (8 * w)) else s, answer (leBytes w old) bad)

/-- R19: the abutment, as a rim agent, at which the accesses of a peer come: that by which those to offset 0 of its window leave (DESIGN
CHOICE, log entry 77: the spec names none, as switches route adaptively, R353). -/
def peerAgent (s : State) (dev : Nat) : Nat := portAgent (peerPort s (0x800000000000 + dev % 4096 * 2 ^ 35))

/-- R353, R354: PEER_ACCESS_ARRIVAL: a duplicate is answered again and takes no effect; an access is performed, or answered
with an error. One that finds no route on the deck has the fate of Table 2.8: a load is sent again, and any other takes the store row at
its source, as an error makes it. -/
def execPeerAccessArrival (p : Peer) (s : State) : Result :=
  .next (match s.peerSeen.find? (fun e => e.1 == p.dev && e.2.1 == p.seq) with
  | some e => { s with outHost := s.outHost ++ [.peerAns p.dev p.seq e.2.2.1 e.2.2.2] }
  | none =>
    let fin (s : State) (b : List (Option Byte)) (err : Bool) : State :=
      { s with peerSeen := s.peerSeen ++ [(p.dev, p.seq, b, err)], outHost := s.outHost ++ [.peerAns p.dev p.seq b err] }
    match peerAddr s p.off with
    | none => fin s [] true
    | some pa =>
      if !peerTakes s pa || !peerTakes s (pa + (peerSize p - 1)) then fin s [] true
      else if !stackReady s pa || (p.kind != .load && aheadMeets s s.nextUid pa (peerSize p)) then s
      else if !abutRoutes s (peerAgent s p.dev) pa then (if p.kind = .load then s else fin s [] true)
      else if stackFailed s pa && p.kind != .load then fin s [] true
      else
        let r := peerPerform s p pa
        fin r.1 r.2 false)

/-- Whether a request to a peer is still unanswered. -/
def peerOpen (s : State) (id : Nat) : Bool :=
  (match accAt s (id / 64) with
  | none => false
  | some a => match a.elems[id % 64]? with
    | none => false
    | some e => e.path == .peer && e.sent && !e.done) ||
  s.cores.any (fun c => (c.2.eng0 ++ c.2.eng1).any (fun d => d.chunks.any (fun k => 64 * k.num == id && k.waiting && k.path == .peer))) ||
  s.fetched.any (fun e => e.2.req == id && e.2.got.isNone)

/-- The last request sent to a peer with a number. -/
def lastPeerReq (s : State) (id : Nat) : Option Out :=
  s.outHost.reverse.find? (fun o => match o with
    | .peerReq _ _ i _ _ => i == id
    | _ => false)

/-- R353, R540: CUFORT_RESEND_TIMEOUT: a request unanswered for 2^20 cycles is sent again; after the eighth resend no route
reaches the device, and it ends as an error answer does. -/
def execCufortResendTimeout (id : Nat) (s : State) : Result :=
  match lastPeerReq s id with
  | none => .next s
  | some o =>
    if !peerOpen s id then .next s
    else
      let n := getD 0 id s.resends
      if n < 8 then .next { s with resends := setD 0 id (n + 1) s.resends, outHost := s.outHost ++ [o] }
      else execMemoryResponse id ⟨[], false, true⟩ { s with resends := setD 0 id 0 s.resends }

/-- R353: LINK_REPLAY: a damaged flit is sent again; it changes no state. -/
def execLinkReplay (_port : Nat) (s : State) : Result := .next s

/-- R364: CUFORT_LINK_UP_DOWN. -/
def execCufortLinkUpDown (port : Nat) (up : Bool) (s : State) : Result :=
  .next (if port < 144 then { s with linksUp := setD false port up s.linksUp } else s)

/-- R314, R315, R296: ASYNC_FAULT_ARRIVAL: a stream fault reaches its thread. -/
def execAsyncFaultArrival (i : Nat) (s : State) : Result :=
  .next (match s.net[i]? with
  | some (.afault u f) => asyncFault (takeMsg s i) u f
  | _ => s)

end Sys2Proof.Machine
end

