-- ==== Sys2Proof/Machine/Invalidate.lean ====
section
/-! DEFINITION. Removing translations: which TLB entries go, which accesses used them, and which stream ports hold them
(R306, R309, R310). -/

namespace Sys2Proof.Machine

/-- The context number that stands for the keystone's own root. -/
def ksRoot : Nat := 256

/-- The translations removed: of every root or of some, among them the keystone's own (context 256), and of the leaves that cover an
address, where one is given (Table 19.6). -/
structure Removal where
  ctx : Option (List Nat)
  va : Option Nat
  deriving DecidableEq, Repr

/-- Whether a removal takes the translations of a root. -/
def Removal.ofRoot (r : Removal) (root : Nat) : Bool := match r.ctx with
  | none => true
  | some l => l.contains root

/-- Whether a removal takes a leaf: the one that covers its address. -/
def Removal.ofLeaf (r : Removal) (leaf : Nat × Nat) : Bool := match r.va with
  | none => true
  | some va => within leaf va

/-- Whether a removal takes an entry of a root. -/
def Removal.takes (r : Removal) (root : Nat) (e : TlbE) : Bool := r.ofRoot root && r.ofLeaf e.range

/-- The root of an entry in the TLB of a core. -/
def entryRoot (t : Nat) (e : TlbE) : Nat := if isKs t then ksRoot else e.ctx

/-- The state with the entries of a removal gone from every TLB. -/
def dropTlbs (s : State) (r : Removal) : State :=
  { s with
    cores := s.cores.map (fun c => (c.1, { c.2 with tlb := c.2.tlb.filter (fun e => !r.takes (entryRoot c.1 e) e) })),
    spanTlb := (s.spanTlb.map (fun q => (q.1, q.2.filter (fun e => !r.takes e.ctx e)))).filter (fun q => !q.2.isEmpty) }

/-- The root that an access was translated under. -/
def accRoot (a : Access) : Nat := if isKs a.tile then ksRoot else a.ctx

/-- Whether a translation of an address, through one of some leaves, was a removed one. -/
def Removal.used (r : Removal) (root : Nat) (leaves : List (Nat × Nat)) (a : Nat) : Bool :=
  paged a && r.ofRoot root && (r.va.isNone || leaves.any (fun l => within l a && r.ofLeaf l))

/-- R309, R310: whether every access numbered below `limit` that used a removed translation has taken effect. -/
def accessesClear (s : State) (limit : Nat) (r : Removal) : Bool :=
  s.inflight.all (fun a => limit ≤ a.id || a.elems.all (fun e => e.done || !r.used (accRoot a) a.leaves e.va))

/-- Whether an extent of a root was patched from a removed leaf. -/
def Removal.hits (r : Removal) (root : Nat) (x : Extent) : Bool := r.ofRoot root && x.leaves.any r.ofLeaf

/-- The root that the commands of a core translate under. -/
def cmdRoot (t : Nat) (d : Cmd) : Nat := if isKs t then ksRoot else d.graph

/-- R309: the stream ports with a chunk in flight for a removed page: tile, command, and the element after its last chunk. -/
def chunkPorts (s : State) (r : Removal) : List (Nat × Nat × Nat) :=
  s.cores.flatMap (fun c => (cmdsOf c.2).filterMap (fun d =>
    let root := cmdRoot c.1 d
    let hit := d.port != .hname && (portOb d.port).isNone && d.port != .view &&
      d.chunks.any (fun k => r.used root k.leaves (patA d.pat k.id) || r.used root k.leaves (patA d.pat (k.id + k.n - 1)))
    if hit then some (c.1, d.ord, d.next) else none))

/-- R309: the stream ports whose generator holds an extent of a removed page: for a command, with the element after its last chunk; for
a pattern that no command has taken yet, nothing goes before its token. -/
def extentPorts (s : State) (r : Removal) : List (Nat × Nat × Nat) :=
  s.cores.flatMap (fun c =>
    ((cmdsOf c.2).filter (fun d => d.ext.any (r.hits (cmdRoot c.1 d)))).map (fun d => (c.1, d.ord, d.next)) ++
    (c.2.gens.filter (fun g => g.ext.any (r.hits g.ctx))).map (fun _ => (c.1, c.2.mqOrd, 0)))

/-- R309: the stream ports that a removal sends a drain token, each once. -/
def drainPorts (s : State) (r : Removal) : List (Nat × Nat × Nat) :=
  (chunkPorts s r ++ extentPorts s r).foldl (fun l p => if l.contains p then l else l ++ [p]) []

/-- The pattern that a template declares for a geometry register. -/
def declaredPat (s : State) (x : Gen) : BitVec 256 :=
  match graphAt s x.ctx with
  | none => 0
  | some g => ((tmplOf g x.tmpl).pats.find? (fun e => e.1 == x.reg)).elim 0 (fun e => e.2)

/-- The space in which the loader patches a pattern of a graph on a tile (R307). -/
def genSpace (s : State) (t ctx : Nat) : Space := ⟨t, 0, ctx, ((graphAt s ctx).map (fun g => g.root)).getD 0, true⟩

/-- R309: the generators that hold an extent of a removed page are repatched in place by fresh walks. -/
def repatch (s : State) (r : Removal) : State :=
  let cmd (t : Nat) (d : Cmd) : Cmd :=
    if d.ext.any (r.hits (cmdRoot t d)) then { d with ext := patch s (cmdSpace s t d) d.pat } else d
  let gen (t : Nat) (x : Gen) : Gen :=
    if x.ext.any (r.hits x.ctx) then { x with ext := patch s (genSpace s t x.ctx) (declaredPat s x) } else x
  -- what the fresh walks find (R261)
  let walked := s.cores.foldl (fun u c =>
    let u := ((cmdsOf c.2).filter (fun d => d.ext.any (r.hits (cmdRoot c.1 d)))).foldl (fun u d =>
      patchFound u (cmdSpace s c.1 d) d.pat) u
    (c.2.gens.filter (fun x => x.ext.any (r.hits x.ctx))).foldl (fun u x =>
      patchFound u (genSpace s c.1 x.ctx) (declaredPat s x)) u) s
  { walked with cores := s.cores.map (fun c => (c.1, { c.2 with
      eng0 := c.2.eng0.map (cmd c.1), eng1 := c.2.eng1.map (cmd c.1), gens := c.2.gens.map (gen c.1) })) }

end Sys2Proof.Machine
end

