-- ==== Sys2Proof/Machine/Evictor.lean ====
section
/-! DEFINITION. Oversubscription: the tails of stream commands and the evictor (R308, R311, R312). -/

namespace Sys2Proof.Machine

/-- R311: the tail of a command. -/
def tailOf (c : Cmd) : Nat :=
  if (upTo 4).any (fun i => patSt c.pat i < 0) then 0
  else if c.running || c.held.isSome then patA c.pat (c.pfx / c.ws) / 8192 * 8192
  else c.pat.toNat % 2 ^ 53

/-- R311: TAIL_PUBLISH: the commands of a tile publish their tails. -/
def execTailPublish (tile : Nat) (s : State) : Result :=
  let c := coreAt s tile
  .next { s with tails := s.tails.filter (fun e => e.1 != tile) ++
    (c.eng0 ++ c.eng1).map (fun d => (tile, d.ord, d.graph, tailOf d)) }

/-- R311: the low-water mark of a context: 0 where some command of it has published no tail. -/
def lowWater (s : State) (ctx : Nat) : Nat :=
  let live := s.cores.flatMap (fun c => ((c.2.eng0 ++ c.2.eng1).filter (fun d => d.graph == ctx)).map (fun d => (c.1, d.ord)))
  (leastBy (fun n => n) (live.map (fun k =>
    (pick (fun e => if e.1 = k.1 ∧ e.2.1 = k.2 then some e.2.2.2 else none) s.tails).getD 0))).getD 0

/-- The address and level of the leaf entry of an address, walking from a table. -/
def leafAt (s : State) (va : Nat) : List Nat → Nat → Option (Nat × Nat)
  | [], _ => none
  | l :: ls, t =>
    let a := t + 8 * (va / 2 ^ (13 + 10 * l) % 1024)
    let e := readLe s a 8
    if e / 2 % 2 = 1 then some (a, l) else leafAt s va ls (e / 2 ^ 13 % 2 ^ 35 * 2 ^ 13)

/-- R311: whether a page moves from one frame to another: bonded pages to HBM, HBM pages to host memory. -/
def moveTiers (f1 f2 n : Nat) : Bool :=
  f2 % n == 0 &&
  ((0x020000000000 ≤ f1 && f1 < 0x039000000000 && f2 + n ≤ 0x020000000000) ||
   (f1 < 0x020000000000 && 0x040000000000 ≤ f2 && f2 + n ≤ 0x0C0000000000))

/-- R312: whether a frame of 8 KiB is in the free pool: as system software left it (log entry 79), or as the evictor changed it. -/
def frameFree (s : State) (f : Nat) : Bool := (find f s.frames).getD (Config.freeFrame f)

/-- The frames of 8 KiB of a page. -/
def framesOf (pa n : Nat) : List Nat := (upTo (n / 8192)).map (fun i => pa / 8192 + i)

/-- R312: a page's frames leave the free pool, or return to it. -/
def setFrames (s : State) (pa n : Nat) (free : Bool) : State :=
  { s with frames := (framesOf pa n).foldl (fun m f => put f free m) s.frames }

/-- The frames of bonded DRAM (0) and of HBM (1). -/
def tierFrame (tier f : Nat) : Bool :=
  if tier = 0 then 0x020000000000 ≤ 8192 * f && 8192 * f < 0x039000000000 else 8192 * f < 0x020000000000

/-- R311: the free frames of a tier. -/
def freeFrames (s : State) (tier : Nat) : Nat :=
  let own := s.frames.filter (fun e => tierFrame tier e.1)
  (Config.freeCount tier).toNat + (own.filter (fun e => e.2 && !Config.freeFrame e.1)).length -
    (own.filter (fun e => !e.2 && Config.freeFrame e.1)).length

/-- R311, R363: whether fewer GiB of a tier are free than its field of ms.evthr. -/
def belowLimit (s : State) (tier : Nat) : Bool :=
  freeFrames s tier * 8192 < msField s 0x817 (if tier = 0 then 32 else 0) 16 * 2 ^ 30

/-- R82, Table 3.8: the tensor with a resident copy that holds a bonded frame. -/
def residentAt (s : State) (pa : Nat) : Option (Nat × ResEntry) :=
  s.residency.find? (fun e => e.2.st == 2 && e.2.bbase ≤ pa && pa < e.2.bbase + 8192 * e.2.npg)

/-- R311: EVICTOR_TRIGGER: free pages of a tier are below its threshold, and the evictor takes a leaf page of that tier with ev 1 and
mv 0 wholly below its context's low-water mark, and a free frame, which leaves the pool: the page and the frame come with the event.
Where the frame is of a resident copy and bonded pages are short, the evictor gives that copy up (Table 3.8; log entry 30). -/
def execEvictorTrigger (ctx va frame : Nat) (s : State) : Result :=
  .next (match residentAt s frame with
  | some e => if belowLimit s 0 then setRes s e.1 { e.2 with st := 4 } else s
  | none => match s.move, graphAt s ctx with
  | none, some g =>
    match walk s g.root va, leafAt s va [3, 2, 1, 0] (g.root.toNat / 2 ^ 13 % 2 ^ 35 * 2 ^ 13) with
    | .leaf _ e l, some (a, _) =>
      let n := 2 ^ (13 + 10 * l)
      let f1 := e.toNat / 2 ^ 13 % 2 ^ 35 * 2 ^ 13
      if e.getLsbD 9 && va / n * n + n ≤ lowWater s ctx && moveTiers f1 frame n &&
          belowLimit s (if f1 < 0x020000000000 then 1 else 0) && (framesOf frame n).all (frameFree s) then
        { setFrames s frame n false with
          move := some { pte := a, f1 := f1, f2 := frame, ctx := ctx, va := va / n * n, lvl := l, phase := 0, limit := 0 } }
      else s
    | _, _ => s
  | _, _ => s)

/-- The entry of a page move with its frame and mv written. -/
def writePte (s : State) (m : PageMove) (frame : Nat) (mv : Bool) : State :=
  let e := readLe s m.pte 8
  let x := e - e / 2 ^ 10 % 2 * 2 ^ 10 - e / 2 ^ 13 % 2 ^ 35 * 2 ^ 13
  writeLe s m.pte 8 (x + (if mv then 2 ^ 10 else 0) + frame / 2 ^ 13 % 2 ^ 35 * 2 ^ 13)

/-- R246, R312: the bytes of a page leave for host memory, in packets of 512 bytes. -/
def pageToHost (f2 : Nat) (data : List Byte) : Nat → State → State
  | 0, s => s
  | n + 1, s =>
    let s := pageToHost f2 data n s
    { s with nextAcc := s.nextAcc + 1, outHost := s.outHost ++ [.hostWrite (hostAddr f2).1 ((hostAddr f2).2 + 512 * n)
      (((data.drop (512 * n)).take 512).map some) (64 * s.nextAcc)] }

/-- R312: steps 3 to 5: the page is copied, the entry names its new frame and the old one is free; a poisoned page stays out of host
memory, and the frame taken for it is free again. -/
def moveCopy (s : State) (m : PageMove) : State :=
  let n := 2 ^ (13 + 10 * m.lvl)
  let host := 0x040000000000 ≤ m.f2
  let (s, data, bad) := readRange s m.f1 n (stackFailed s m.f1 || siteLost s m.f1 (if m.f1 < 0x020000000000 then .hbm else .bonded))
  if host && bad.any (fun b => b) then { setFrames (writePte s m m.f1 false) m.f2 n true with move := none }
  else
    let s := if host then pageToHost m.f2 data (n / 512) s else writeRange s m.f2 data bad
    { setFrames (writePte s m m.f2 false) m.f1 n true with move := none }

/-- R300, R312: the translations of a page move: those of its address under the root of its context, which its sharers have too: SPAWN
children, other launches of its port, and the keystone where its root is the same. -/
def PageMove.removal (m : PageMove) (s : State) : Removal :=
  let table (w : Word) : Nat := w.toNat / 2 ^ 13 % 2 ^ 35
  let mine := (graphAt s m.ctx).map (fun g => table g.root)
  ⟨some ((m.ctx :: (s.graphs.filter (fun e => some (table e.2.root) == mine)).map (fun e => e.1)) ++
    (if some (table (msRaw s 0x80A)) == mine then [ksRoot] else [])), some m.va⟩

/-- R312: EVICTOR_PAGE_MOVE: the next step of the move: mv is set; the translations go; and, once every access and chunk
that used them is done, the copy, which waits for the stacks that it touches (R356). -/
def execEvictorPageMove (s : State) : Result :=
  .next (match s.move with
  | none => s
  | some m =>
    let r := m.removal s
    if m.phase = 0 then { writePte s m m.f1 true with move := some { m with phase := 1 } }
    else if m.phase = 1 then { repatch (dropTlbs s r) r with move := some { m with phase := 2, limit := s.nextAcc } }
    else if accessesClear s m.limit r && (chunkPorts s r).isEmpty && stackReady s m.f1 && stackReady s m.f2 then moveCopy s m
    else s)

end Sys2Proof.Machine
end

