-- ==== Sys2Proof/Machine/System.lean ====
section
/-! DEFINITION. Class C on control registers, frozen threads, translations and the class table: CSRR, CSRW, FRZINF, FRZRD,
FRZWR, RESUME, KILL, TLBINV and CLSRD (R123 to R131, R324 to R331, R389, R390, R393 to R395, R408, R409, R415 to R417, R450,
R451, R472, R473). -/

namespace Sys2Proof.Machine

/-! Control registers. -/

/-- Table 5.2: a control register of a thread, from some registers of it and a count; `ms.*` as the keystone holds it. -/
def csrRead (s : State) (k : Nat) (r : Regs) (cyc : Word) (n : Nat) : Word :=
  if n = 1 then r.rm.setWidth 64
  else if n = 2 then (if r.psink then 1 else 0)
  else if n = 3 then r.fflags.setWidth 64
  else if n = 4 then r.seed
  else if n = 5 then rngWordOf r
  else if n = 0x10 then r.tag.setWidth 64
  else if n = 0x11 then r.inst.setWidth 64
  else if n = 0x12 then ctlTile s k
  else if n = 0x13 then cyc
  else if n = 0x14 then prioWord r
  else msRead s n

/-- R112: a control register as it stood before the bundle: as it was read at the issue, or now where the bundle is issuing. -/
def csrBefore (s : State) (n : Nat) : Word :=
  (find n s.issue.csrs).getD (csrRead s s.issue.key s.issue.src s.issue.cyc n)

/-- R394: CSRR: the register as it stood before the bundle, clean. -/
def execCsrr (g : PReg) (d : SReg) (n : BitVec 12) (s : State) : Result :=
  syllable s g (fun _ => wrS s d (csrBefore s n.toNat).toNat false)

/-- R125: a value written to ctl.rm. -/
def putRm (r : Regs) (v : Word) : Regs := if v.toNat % 8 < 6 then { r with rm := v.setWidth 3 } else r
/-- R128: a seed written: the queue is empty and ctr is 0. -/
def putSeed (r : Regs) (v : Word) : Regs := { r with seed := v, rng := { r.rng with cnt := 0, ctr := 0 } }
/-- R131: a level written by a task thread: at most its launch priority. -/
def taskLevel (r : Regs) (v : Word) : BitVec 3 := if r.lprio.toNat < v.toNat % 8 then r.lprio else v.setWidth 3

/-- R123 to R131: what CSRW leaves in the registers of its thread; read-only registers ignore it. -/
def csrPut (task : Bool) (raised : Flags) (r : Regs) (n : Nat) (v : Word) : Regs :=
  if n = 1 then putRm r v
  else if n = 2 then { r with psink := v.getLsbD 0 }
  else if n = 3 then { r with fflags := v.setWidth 5 ||| raised }
  else if n = 4 then putSeed r v
  else if n = 0x14 then { r with level := if task then taskLevel r v else v.setWidth 3 }
  else r

/-- R394: CSRW. -/
def execCsrw (g : PReg) (n : BitVec 12) (a : SReg) (s : State) : Result :=
  syllable s g (fun th =>
    let v := (rdS s a).val
    if n.toNat < 0x800 then
      let s := if n = 4 then { s with issue := { s.issue with seeded := true } } else s
      setRegs s (fun r => csrPut (th.kind == .task) s.issue.flags r n.toNat v)
    else msWrite s n.toNat v (BitVec.allOnes 64) none)

/-! Frozen state. -/

/-- R324: FRZINF. -/
def execFrzinf (g : PReg) (d : SReg) (k : KReg) (b : SReg) (s : State) : Result :=
  syllable s g (fun _ => onFrozen s k (fun _ v =>
    let i := (rdS s b).val.toNat
    if 8 ≤ i then freeze s .perm none 0
    else wrS s d ((v.fault.map (fun (x : FaultRec) => x.word i)).getD 0).toNat false))

/-- Table 14.4: whether an index of a file is in range. -/
def frzIndex (file : File) (i : Nat) : Bool :=
  match file with
  | .s => i < 64
  | .v => i < 32
  | .p => i < 16
  | .ac => i < 512
  | .sh => i < 24
  | .g => i < 64
  | .ctl => (1 ≤ i && i ≤ 5) || (0x10 ≤ i && i ≤ 0x14)
  | .rq => i < 64

/-- R223, R326: whether a write of a committed bundle to an element of a frozen thread is still outstanding. -/
def frzPending (s : State) (k : Nat) (v : Thread) (file : File) (i : Nat) : Bool :=
  let mq := (coreAt s (tileOf k)).mq.filter (fun m => m.uid == v.uid)
  let acc (d : Dst) : Bool := s.inflight.any (fun a => a.uid == v.uid && a.dst == d)
  match file with
  | .s => acc (.s (BitVec.ofNat 6 i))
  | .v => acc (.v (BitVec.ofNat 5 i)) || mq.any (fun m => match m.kind with
    | .mrd w _ _ => w.toNat == i
    | _ => false)
  | .ac => mq.any (fun m => m.ac.toNat == i / 32)
  | .sh => acc (.sh (BitVec.ofNat 3 (i / 3)))
  | .p | .g | .ctl | .rq => false

/-- Word w of a register of several words. -/
def wordAt (x : Nat) (w : Nat) : Word := BitVec.ofNat 64 (x / 2 ^ (64 * w))
/-- A register of several words with word w replaced. -/
def withWord (x : Nat) (w : Nat) (v : Word) : Nat := x - x / 2 ^ (64 * w) % 2 ^ 64 * 2 ^ (64 * w) + v.toNat * 2 ^ (64 * w)

/-- R325: a frozen-state instruction on an element: its index is checked, its file must be held, and it waits for an
outstanding write. -/
def onElement (s : State) (k : KReg) (file : File) (b : SReg) (f : Nat → Thread → Nat → State) : State :=
  onFrozen s k (fun j v =>
    let i := (rdS s b).val.toNat
    if !frzIndex file i || (file == .ac && (coreAt s (tileOf j)).holder != some v.uid) then freeze s .perm none 0
    else if frzPending s j v file i then waitFor s .cond
    else f j v i)

/-- Table 14.4: a one-word element of a frozen thread, for the files that have such elements. -/
def frzWord (s : State) (j : Nat) (r : Regs) (file : File) (i : Nat) : SVal :=
  match file with
  | .s => r.rdS (BitVec.ofNat 6 i)
  | .p => ⟨r.rdP (BitVec.ofNat 4 i), false⟩
  | .sh =>
    let x := r.rdSh (BitVec.ofNat 3 (i / 3))
    ⟨if i % 3 = 2 then (if x.valid then 1 else 0) else wordAt x.bits.toNat (i % 3), false⟩
  | .g => ⟨wordAt (r.rdG (BitVec.ofNat 4 (i / 4))).toNat (i % 4), false⟩
  | .ctl => ⟨csrRead s j r (coreAt s (tileOf j)).cyc i, false⟩
  | .rq => ⟨wordAt (getD 0 (i / 16) r.rng.ent).toNat (i % 16), false⟩
  | .v | .ac => SVal.zero

/-- Table 14.4: a vector element of a frozen thread: a vector, or a row of an accumulator. -/
def frzVec (s : State) (j : Nat) (r : Regs) (file : File) (i : Nat) : Vec :=
  if file = .v then r.rdV (BitVec.ofNat 5 i)
  else getD accRow i (coreAt s (tileOf j)).acc ++ List.replicate 32 Lane.zero

/-- R324, R325: FRZRD. -/
def execFrzrd (g : PReg) (file : File) (d : BitVec 6) (k : KReg) (b : SReg) (s : State) : Result :=
  syllable s g (fun _ => onElement s k file b (fun j v i =>
    if file.isVector then setRegs s (fun r => r.wrV (d.setWidth 5) (frzVec s j v.regs file i))
    else
      let x := frzWord s j v.regs file i
      wrS s d x.val.toNat x.poison))

/-- R325: a control register of a frozen thread written. -/
def frzCtl (r : Regs) (n : Nat) (v : Word) : Regs :=
  if n = 5 then { r with rng := { r.rng with
    ctr := (v >>> 16).setWidth 48, head := (v >>> 4).setWidth 2,
    cnt := if v.toNat % 8 < 5 then v.toNat % 8 else r.rng.cnt } }
  else csrPut false 0 r n v

/-- R325: an element of a frozen thread's registers written; `x` is the scalar source. -/
def frzPut (r : Regs) (file : File) (i : Nat) (x : SVal) (y : Vec) : Regs :=
  match file with
  | .s => r.wrS (BitVec.ofNat 6 i) x
  | .v => r.wrV (BitVec.ofNat 5 i) y
  | .p => r.wrP (BitVec.ofNat 4 i) x.val
  | .sh =>
    let n := BitVec.ofNat 3 (i / 3)
    let h := r.rdSh n
    r.wrSh n (if i % 3 = 2 then ⟨h.bits, x.val.getLsbD 0 && h.bits.toNat / 2 ^ 92 % 2 ^ 36 == 0⟩
      else ⟨BitVec.ofNat 128 (withWord h.bits.toNat (i % 3) x.val), h.valid⟩)
  | .g =>
    let n := BitVec.ofNat 4 (i / 4)
    -- a write of word 0 sets lp to 0, and its bits 62 to 55 stay zero (Table 12.1)
    r.wrG n (BitVec.ofNat 256 (withWord (r.rdG n).toNat (i % 4) (if i % 4 = 0 then x.val &&& (1#64 <<< 55) - 1 else x.val)))
  | .ctl => frzCtl r i x.val
  | .rq => { r with rng := { r.rng with
      ent := setD 0 (i / 16) (BitVec.ofNat 1024 (withWord (getD 0 (i / 16) r.rng.ent).toNat (i % 16) x.val)) r.rng.ent } }
  | .ac => r

/-- R324, R325: FRZWR. -/
def execFrzwr (g : PReg) (file : File) (k : KReg) (b : SReg) (a : BitVec 6) (s : State) : Result :=
  syllable s g (fun _ => onElement s k file b (fun j v i =>
    let y := rdV s (a.setWidth 5)
    if file = .ac then updCore s (tileOf j) (fun c => { c with acc := setD accRow i (y.take 32) c.acc })
    else setThread s j { v with regs := frzPut v.regs file i (rdS s a) y }))

/-- R110, R327: RESUME of a thread at a pc: one in a gated bay asks for its wake. -/
def resumeAt (s : State) (j : Nat) (pc : Word) : State :=
  let s := resumeThread s j pc
  if isKs (tileOf j) then s else startWakes (requestWake s (bayOf (tileOf j)))

/-- R327: RESUME at the record's pc. -/
def execResume (g : PReg) (k : KReg) (s : State) : Result :=
  syllable s g (fun _ => onFrozen s k (fun j v =>
    resumeAt s j ((v.fault.map (fun (x : FaultRec) => x.pc.setWidth 64)).getD v.pc)))

/-- R327: RESUME at a written pc. -/
def execResumeAtPc (g : PReg) (k : KReg) (a : SReg) (s : State) : Result :=
  syllable s g (fun _ => onFrozen s k (fun j _ =>
    let pc := (rdS s a).val
    if pc.toNat % 8 != 0 then freeze s .align (some pc.toNat) 8
    else resumeAt s j pc))

/-- R329, R416: KILL. -/
def execKill (g : PReg) (k : KReg) (s : State) : Result :=
  syllable s g (fun _ => onFrozen s k (fun j _ => killThread s j))

/-! The class table and translations. -/

/-- R389, R390: CLSRD: the live record of a site, once no lowering is in progress. -/
def execClsrd (g : PReg) (d a : SReg) (s : State) : Result :=
  syllable s g (fun _ =>
    if msField s 0x811 0 1 = 1 then waitFor s .cond
    else
      let x := rdS s a
      wrS s d (classRecord s (x.val.toNat % 256) (x.val.toNat / 256 % 256)).toNat x.poison)

/-- Table 19.6: the root that sa selects. -/
def invRoot (v : Word) : Nat := if v.getLsbD 8 then ksRoot else v.toNat % 256

/-- What a drain removed. -/
def Drain.removal (d : Drain) : Removal := ⟨d.ctx, d.va⟩

/-- R309, R310: a TLBINV: its first issue removes the translations, sends the drain tokens and repatches the generators; it commits once
every token is home and every access that used a removed translation has taken effect. Issued again after a freeze, it goes on with what
the first issue removed and sent, and sends new tokens only for ports that still hold an affected extent. -/
def tlbInvalidate (s : State) (uid : Nat) (r : Removal) : State :=
  match s.drains.find? (fun d => d.uid == uid) with
  | some d =>
    if s.issue.wait.isSome then
      if d.ports.isEmpty && accessesClear s d.limit d.removal then
        { s with drains := s.drains.filter (fun d => d.uid != uid) }
      else waitFor s .cond
    else invStart s uid r
  | none => invStart s uid r
where
  /-- A first issue, or another one after a freeze. -/
  invStart (s : State) (uid : Nat) (r : Removal) : State :=
    let ports := match s.drains.find? (fun d => d.uid == uid && d.removal == r) with
      | none => drainPorts s r
      | some d => join d.ports (extentPorts s r)
    let s := repatch (dropTlbs s r) r
    let rest := s.drains.filter (fun d => d.uid != uid)
    if ports.isEmpty && accessesClear s s.issue.acc0 r then { s with drains := rest }
    else waitFor { s with drains := rest ++ [⟨uid, s.issue.acc0, r.ctx, r.va, ports⟩] } .cond

/-- R309, R472: TLBINV of an address. -/
def execTlbinv (g : PReg) (a : SReg) (s : State) : Result :=
  syllable s g (fun th =>
    let v := (rdS s a).val
    tlbInvalidate s th.uid ⟨some [invRoot v], some (v.toNat / 2 ^ 13 % 2 ^ 40 * 2 ^ 13)⟩)

/-- R309, R472: TLBINV.all. -/
def execTlbinvAll (g : PReg) (a : SReg) (s : State) : Result :=
  syllable s g (fun th =>
    let v := (rdS s a).val
    tlbInvalidate s th.uid ⟨if v.getLsbD 12 then none else some [invRoot v], none⟩)

end Sys2Proof.Machine
end

