-- ==== Sys2Proof/Machine/Issue.lean ====
section
/-! DEFINITION. The core's issue: choosing a thread, opening its bundle, boost, and the end of a wait (R105 to R107, R110, R130,
R313, R314, R316, R360, R457, R521). What an opened bundle does is in Machine/Run.lean. -/

namespace Sys2Proof.Machine

/-! A core's cycle. -/

/-- R130: one cycle of a core's clock; its running commands count it too, and the keystone's clock counts for the device. -/
def tick (s : State) (t : Nat) : State :=
  let run (l : List Cmd) : List Cmd := l.map (fun d => if d.running && !d.stopped then { d with cyc := d.cyc + 1 } else d)
  let s := updCore s t (fun c => { c with cyc := c.cyc + 1, eng0 := run c.eng0, eng1 := run c.eng1 })
  if isKs t then { s with kcyc := s.kcyc + 1 } else s

/-- R360: the low four bits of a count, reversed. -/
def rev4 (n : Nat) : Nat := n % 2 * 8 + n / 2 % 2 * 4 + n / 4 % 2 * 2 + n / 8 % 2

/-- R360: whether throttling suppresses a tile's cycle. -/
def suppressed (s : State) (t : Nat) : Bool :=
  let c := coreAt s t
  rev4 c.cyc.toNat < c.eff

/-- R521: the threads that executed YIELD in the cycle before are ready again after this one. -/
def yieldsOver (l : List Nat) (s : State) : State :=
  l.foldl (fun s k => updThread s k (fun th => if th.status = .waiting .yield then { th with status := .ready } else th)) s

/-- The threads of a core that executed YIELD in the cycle before. -/
def yielded (s : State) (t : Nat) : List Nat :=
  ((threadsOn s t).filter (fun e => e.2.status == .waiting .yield)).map (fun e => e.1)

/-! Selection. -/

/-- R107, R131: the order of a thread's level: boost, handlers, then tasks by level. The alert thread, which is none of these, has the
handler level (DESIGN CHOICE, log entry 98). -/
def issueLevel (th : Thread) : Nat :=
  if th.regs.boost then 9 else if th.kind == .task then th.regs.level.toNat else 8

/-- Whether a syllable takes a snapshot of the writable table as its bundle issues (R180). -/
def snapshots (i : Instr) : Bool :=
  match i with
  | .mmacb _ _ _ wt _ _ _ _ => wt
  | _ => false

/-- Whether an access has still to write what another thread has fetched before an acquire, and so waits for that one's instant. -/
def aheadBlocked (s : State) (b : Access) : Bool :=
  b.kind != .load && b.elems.any (fun e => !e.done && (elemRanges b.kind e).any (fun r => aheadMeets s b.uid r.1 r.2))

/-- R141, R271: whether a thread's next bundle may be fetched before the instant of an acquire that it has in flight: it decodes and takes
no snapshot, and neither the acquire nor what it may follow waits for another thread's acquire in the same way. What it has fetched then
stays so until the instant has come. -/
def runsAhead (s : State) (k : Nat) (th : Thread) (a : Access) : Bool :=
  s.inflight.all (fun b =>
    !(b.id ≤ a.id && (b.uid == a.uid || b.serves == some a.uid || a.serves == some b.uid)) || !aheadBlocked s b) &&
  match nextBundle s k th with
    | some (_, .ok l) => !l.any (fun e => snapshots e.2)
    | _ => false

/-- R141, R271, R278: the accesses that the fetch of a thread's next bundle has still to follow. -/
def fetchHeld (s : State) (k : Nat) (th : Thread) : List Access :=
  s.inflight.filter (fun a => follows th a || (a.uid == th.uid && a.acq && a.elems.any (fun e => !e.done) && !runsAhead s k th a))

/-- R106, R141: whether a thread of a slot is ready, and what then keeps its next bundle in place. A bundle that cannot be fetched
or decoded issues, and faults; its fetch, too, comes after what the thread has still to follow, where it waits in place for
accesses to scratchpads. -/
def readyState (s : State) (k : Nat) (th : Thread) : Option Ready :=
  let held := fetchHeld s k th
  if held.any longAccess then none
  else if th.status == .ready || th.status == .waiting .bits then
    if !held.isEmpty then some .stall
    else
    match nextBundle s k th with
    | some (_, .ok l) => match readiness s k th l with
      | .away => none
      | r => some r
    | _ => some .go
  else none

/-- R106: the ready threads of a core. -/
def readyOn (s : State) (t : Nat) : List (Nat × Thread × Ready) :=
  (threadsOn s t).filterMap (fun e => (readyState s e.1 e.2).map (fun r => (e.1, e.2, r)))

/-- R107: the distance of a slot from the one that issued last at its level. -/
def turn (c : Core) (k : Nat) (th : Thread) : Nat :=
  match find (issueLevel th) c.last with
  | none => slotOf k
  | some j => (slotOf k + 15 - j) % 16

/-- Whether one thread comes before another: the higher level, then the nearer turn. -/
def comesFirst (c : Core) (a b : Nat × Thread × Ready) : Bool :=
  issueLevel b.2.1 < issueLevel a.2.1 || (issueLevel a.2.1 == issueLevel b.2.1 && turn c a.1 a.2.1 ≤ turn c b.1 b.2.1)

/-- R107: the thread that a core selects. -/
def selected (c : Core) : List (Nat × Thread × Ready) → Option (Nat × Thread × Ready)
  | [] => none
  | e :: l => match selected c l with
    | none => some e
    | some f => some (if comesFirst c e f then e else f)

/-- R107: a task that has waited 4,064 issue cycles holds boost. -/
def reachBoost (th : Thread) : Thread :=
  if th.kind = .task && 4064 ≤ th.waited then { th with regs := { th.regs with boost := true } } else th

/-- R107: the ready threads that an issue cycle passed over have waited one more. -/
def passedOver (l : List (Nat × Thread × Ready)) (k : Nat) (s : State) : State :=
  l.foldl (fun s e => if e.1 = k then s else updThread s e.1 (fun th => reachBoost { th with waited := th.waited + 1 })) s

/-! Opening a bundle. -/

/-- R316: a bundle that cannot be fetched raises PERM. -/
def fetchFault (s : State) (k : Nat) (th : Thread) : State :=
  takeFault s k .perm th.pc 0 7 0 (some (BitVec.ofNat 53 th.pc.toNat)) 0

/-- R112, R180: what a bundle that issues keeps: its registers, and what its CSRR and MMACB read. -/
def keep (s : State) (k : Nat) (th : Thread) (l : List (Nat × Instr)) : Kept :=
  let cyc := (coreAt s (tileOf k)).cyc
  { src := th.regs, cyc := cyc,
    csrs := l.foldl (fun m e => match e.2 with
      | .csrr _ _ n => put n.toNat (csrRead s k th.regs cyc n.toNat) m
      | _ => m) [],
    table := if l.any (fun e => snapshots e.2) then some (tableNow s (tileOf k)) else none,
    shapes := [], payload := none }

/-- R112, R155: a bundle opens: the pc passes it; its boost is used. -/
def openWords (s : State) (k : Nat) (th : Thread) (ws : List Word) (l : List (Nat × Instr)) (wait : Option Wait) (kept : Kept)
    (undo : Option (List (Nat × Thread) × Map Nat)) : State :=
  let s := setThread s k { th with
    pc := BitVec.ofNat 64 (th.pc.toNat + 8 * ws.length), status := .ready, waited := 0, fetched := [],
    regs := { th.regs with boost := false } }
  { s with issue := {
      key := k, pc := th.pc, words := ws, src := kept.src, wait := wait, cyc := kept.cyc, csrs := kept.csrs, table := kept.table,
      shapes := kept.shapes, payload := kept.payload, undo := undo, todo := l, idx := 0, flags := 0, drawn := 0, seeded := false, miss := false, flow := .go,
      acc0 := s.nextAcc, ord0 := (coreAt s (tileOf k)).mqOrd } }

/-- R235, R260, R261: words of a bundle are fetched: their banks serve the core's fetch, and the reads find the errors that stand there. -/
def fetchTurn (s : State) (k : Nat) (pas : List Nat) : State :=
  pas.foldl (fun s a => discover s a 8) (bankTurns s (tileOf k) 0 pas)

/-- The places of the words of a bundle of n words at the pc of a thread. -/
def bundlePas (k : Nat) (th : Thread) (n : Nat) : List Nat := (upTo n).map (fun i => padBase (tileOf k) + th.pc.toNat + 8 * i)

/-- The words of a bundle that are still to be fetched. -/
def unfetched (k : Nat) (th : Thread) (n : Nat) : List Nat := (bundlePas k th n).filter (fun a => (find a th.fetched).isNone)

/-- R141, R235, R260: the words of a bundle not fetched yet are fetched, and the table that it takes a snapshot of is read. -/
def fetchFound (s : State) (k : Nat) (th : Thread) (n : Nat) (snap : Bool) : State :=
  let s := fetchTurn s k (unfetched k th n)
  if snap then discover s (entryPa (tileOf k) 0) 512 else s

/-- R271: the acquires of a thread that have still to have their instants note the code that it has fetched. -/
def noteAhead (s : State) (th : Thread) (pas : List Nat) : State :=
  { s with inflight := s.inflight.map (fun a => if a.uid == th.uid && a.acq && a.elems.any (fun e => !e.done) then
      { a with ahead := pas.map (fun p => (p, 8)) ++ a.ahead } else a) }

/-- R141, R235: of a bundle's words, those whose banks have requests before them wait; the others are fetched. -/
def fetchSome (s : State) (k : Nat) (th : Thread) (n : Nat) : State :=
  let l := (unfetched k th n).filter (fun a => !bankTaken s (tileOf k) a)
  let s := noteAhead (fetchTurn s k l) th l
  setThread s k { th with fetched := th.fetched ++ l.map (fun a => (a, BitVec.ofNat 64 (readLe s a 8))) }

/-- R141, R235: the bundle of a thread that has a word whose bank cannot serve its fetch yet: how many words it has. -/
def fetchStalls (s : State) (k : Nat) (th : Thread) : Option Nat :=
  match nextBundle s k th with
  | none => none
  | some (ws, _) => if (unfetched k th ws.length).any (bankTaken s (tileOf k)) then some ws.length else none

/-- R156 to R158, R316: the next bundle of a thread opens, or raises the fault of its fetch or decode. -/
def openBundle (s : State) (k : Nat) (th : Thread) (undo : Option (List (Nat × Thread) × Map Nat)) : State :=
  match nextBundle s k th with
  | none => fetchFault s k th
  | some (ws, .bad cls i why) =>
    takeFault (fetchFound s k th ws.length false) k cls th.pc ws.length i (nth 0 ws i) none (decodeAux ws i why)
  | some (ws, .ok l) =>
    openWords (noteAhead (fetchFound s k th ws.length (l.any (fun e => snapshots e.2))) th (bundlePas k th ws.length)) k th ws l none
      (keep s k th l) undo

/-- R313: a bundle that waits opens again, as it was fetched. -/
def reopen (s : State) (k : Nat) (th : Thread) (w : Wait) : State :=
  match th.bundle with
  | none => s
  | some b => openWords s k th b.words (instrsOf b.words) (some w) b.kept none

/-- R236: whether the load/store port of a core cannot take an L syllable yet. -/
def portTaken (s : State) (t : Nat) : Bool := (coreAt s t).cyc < (coreAt s t).portFree

/-- R236: whether the next bundle of a thread holds an L syllable. -/
def holdsL (s : State) (k : Nat) (th : Thread) : Bool :=
  match nextBundle s k th with
  | some (ws, .ok _) => ws.any (fun w => wordCls w == 3)
  | _ => false

/-- R107, R141, R236: one issue cycle of a core: the selected thread issues, unless it waits in place, or the load/store port cannot take
its L syllable yet (BACKPRESSURE_STALL), or the fetch of one of its words waits at a bank. `y` are the threads that executed YIELD in the
cycle before; a bundle that does not issue leaves them ready (R521). -/
def issueOn (s : State) (t : Nat) (y : List Nat) : State :=
  let l := readyOn s t
  match selected (coreAt s t) l with
  | none => s
  | some (k, th, r) => match r with
    | .bits => setStatus s k (.waiting .bits)
    | .stall | .away => s
    | .go =>
      if portTaken s t && holdsL s k th then s
      else if let some n := fetchStalls s k th then fetchSome s k th n
      else
        let undo := (threadsOn (yieldsOver y s) t, (coreAt s t).last)
        let s := passedOver l k s
        let s := updCore s t (fun c => { c with last := put (issueLevel th) (slotOf k) c.last })
        openBundle s k th (some undo)

/-- R107, R110: ISSUE_CYCLE: a cycle of a core; a core of a gated bay stands still. -/
def execIssueCycle (tile : Nat) (s : State) : Result :=
  .next (if !isKs tile && (!isSite tile || getD false (bayOf tile) s.gated) then s
  else
    let y := yielded s tile
    let s := tick s tile
    yieldsOver y (if suppressed s tile then s else issueOn s tile y))

/-- R107: BOOST. -/
def execBoostThread (key : Nat) (s : State) : Result := .next (updThread s key reachBoost)

/-- R105, R341: whether a slot's thread waits for its input copies or its restore. -/
def arriving (s : State) (k : Nat) : Bool := (coreAt s (tileOf k)).copying.any (fun e => e.2 == slotOf k)

/-- R236: whether the load/store port cannot take the L syllable of a waiting bundle yet. -/
def portHolds (s : State) (k : Nat) (th : Thread) : Bool :=
  portTaken s (tileOf k) && th.bundle.any (fun b => b.words.any (fun w => wordCls w == 3))

/-- R236, R313: BUNDLE_COMMIT: a bundle that waits on a condition or on a partner is tried again, once the load/store port can take its
L syllable. -/
def execBundleCommit (key : Nat) (s : State) : Result :=
  .next (match threadAt s key with
  | none => s
  | some th =>
    if arriving s key || portHolds s key th then s
    else match th.status with
      | .waiting .cond => reopen s key th .cond
      | .waiting (.lent va i w n) => reopen s key th (.lent va i w n)
      | .waiting (.gone i p j) => reopen s key th (.gone i p j)
      | _ => s)

/-- R236, R457: SLEEP_EXPIRY: ctl.cyc has reached the target of a bundle that sleeps, and the load/store port can take its L syllable. -/
def execSleepExpiry (key : Nat) (s : State) : Result :=
  .next (match threadAt s key with
  | none => s
  | some th => match th.status with
    | .waiting (.sleep t) => if t ≤ (coreAt s (tileOf key)).cyc && !portHolds s key th then reopen s key th (.sleep t) else s
    | _ => s)

end Sys2Proof.Machine
end

