-- ==== Sys2Proof/Machine/Predicate.lean ====
section
/-! DEFINITION. The predicate syllables of R438. -/

namespace Sys2Proof.Machine

/-- R438: PAND. -/
def execPand (g d a b : PReg) (s : State) : Result := syllable s g (fun _ => wrP s d (rdP s a &&& rdP s b))
/-- R438: POR. -/
def execPor (g d a b : PReg) (s : State) : Result := syllable s g (fun _ => wrP s d (rdP s a ||| rdP s b))
/-- R438: PXOR. -/
def execPxor (g d a b : PReg) (s : State) : Result := syllable s g (fun _ => wrP s d (rdP s a ^^^ rdP s b))
/-- R438: PNOT. -/
def execPnot (g d a : PReg) (s : State) : Result := syllable s g (fun _ => wrP s d (~~~(rdP s a)))
/-- R438: PCNT. -/
def execPcnt (g : PReg) (d : SReg) (a : PReg) (s : State) : Result :=
  syllable s g (fun _ => wrS s d (popcount 64 (rdP s a).toNat) false)
/-- R438: PFIRST: the lowest set bit. -/
def execPfirst (g d a : PReg) (s : State) : Result := syllable s g (fun _ => wrP s d (rdP s a &&& -(rdP s a)))
/-- R438: PMOV between predicates. -/
def execPmov (g d a : PReg) (s : State) : Result := syllable s g (fun _ => wrP s d (rdP s a))
/-- R438: PMOV from a scalar, its held value. -/
def execPmovFromScalar (g d : PReg) (a : SReg) (s : State) : Result := syllable s g (fun _ => wrP s d (rdS s a).val)
/-- R438: PMOV to a scalar, clean. -/
def execPmovToScalar (g : PReg) (d : SReg) (a : PReg) (s : State) : Result :=
  syllable s g (fun _ => wrS s d (rdP s a).toNat false)

end Sys2Proof.Machine
end

