-- ==== Sys2Proof/Machine/Start.lean ====
section
/-! DEFINITION. Staged start (R29, R34, R351, R355, R356). -/

namespace Sys2Proof.Machine

/-- R355, R362: a stage is reached. -/
def reachStage (s : State) (n : Nat) : State :=
  let s := msSetField s 0x801 60 4 n
  logEvent s 7 [msRead s 0x801]

/-- R29, R351, R355: POWER_GOOD: the keystone starts; the live table takes the fused classes and MSI-X its reset state. -/
def execPowerGood (s : State) : Result :=
  .next (if stageOf s = 0 then
    let live := s.fused.foldl (fun m e => setD 0 e.1 (BitVec.ofNat 2 e.2.toNat) m) []
    reachStage { s with live := live, msixTab := [], msixPend := [] } 1
  else s)

/-- R355: STAGE_ADVANCE: to stage 2, then 3. -/
def execStageAdvance (s : State) : Result :=
  .next (if stageOf s = 1 then reachStage s 2 else if stageOf s = 2 then reachStage s 3 else s)

/-- R356: SAFE_BAY_READY: the safe bay's partners are assigned and launches are admitted. -/
def execSafeBayReady (s : State) : Result :=
  .next (if stageOf s = 3 then reachStage (assignPartners s [safeBay]) 4 else s)

/-- R356: stage 6 follows stage 5 once every stack has ended training. -/
def stageSix (s : State) : State :=
  if stageOf s = 5 && (upTo 32).all (fun n => getD false n s.hbmEnd) then reachStage s 6 else s

/-- R356: WAFER_TABLES_LOADED: the routers of every site carry packets, and the whole wafer's partners are assigned. -/
def execWaferTablesLoaded (s : State) : Result :=
  .next (if stageOf s = 4 then
    let t := msSetField s 0x801 60 4 5
    let u := assignPartners t bays
    -- the retired publications of a store slot that is lent leave it first (R76)
    let u := (u.partner.filter (fun e => !t.partner.contains e)).foldl (fun s e => leaveSlot s e.2.1 e.2.2) u
    stageSix (logEvent u 7 [msRead u 0x801])
  else s)

/-- R356: the areas of a stack that failed training pass to the next pier whose stack trained: what was to lie in its retire region, and the
save areas whose images are not written yet. -/
def passAreas (s : State) (a : Nat) : State :=
  let b := servingPier s a
  { s with
    homes := s.homes.map (fun h => if h.place = .retire a then { h with place := .retire b } else h),
    saved := s.saved.foldl (fun (l : List Saved) v =>
      if v.complete || v.addr / 0x1000000000 != a then l ++ [v]
      else match areaFind { s with saved := l ++ s.saved.filter (fun x => x.addr / 0x1000000000 == b) } b v.blocks with
        | some n => l ++ [{ v with addr := areaBase b + 0x10000 * n }]
        | none => l ++ [v]) [] }

/-- R355, R356: HBM_TRAINING_END. -/
def execHbmTrainingEnd (stack : Nat) (ok : Bool) (s : State) : Result :=
  .next (if stageOf s = 0 || 32 ≤ stack || getD false stack s.hbmEnd then s
  else
    let s := { s with hbmEnd := setD false stack true s.hbmEnd }
    stageSix (if ok then msSetField s 0x801 32 6 (msField s 0x801 32 6 + 1) else passAreas (msSetField s 0x801 stack 1 1) stack))

/-- R356: FULL_WAFER: the exclusion maps follow the live class table, and names move as in a controlled change. -/
def execFullWafer (s : State) : Result :=
  .next (if stageOf s = 6 then
    let t := msSetField { s with epoch := s.epoch + 1 } 0x801 60 4 7
    logEvent (moveNames (routerUp t) (movedNames s t) t) 7 [msRead t 0x801]
  else s)

end Sys2Proof.Machine
end

