-- ==== Sys2Proof/Machine/Wake.lean ====
section
/-! DEFINITION. Waking and gating bays (R25, R109, R110). -/

namespace Sys2Proof.Machine

/-- R110: BAY_WAKE_REQUEST: a wake is queued, or merged with one. -/
def execBayWakeRequest (bay : Nat) (s : State) : Result := .next (startWakes (requestWake s bay))

/-- R109, R110: WAKE_COMPLETE: the bay is awake, the next wake starts, and its tiles fire and take records. -/
def execWakeComplete (bay : Nat) (s : State) : Result :=
  .next (if !s.inrush.contains bay then s
  else
    let s := startWakes { s with inrush := s.inrush.erase bay, gated := setD false bay false s.gated }
    (bayTiles bay).foldl (fun s t => takeRecord (fireReady s t) t) s)

/-- R110: BAY_GATE_REQUEST. -/
def execBayGateRequest (bay : Nat) (s : State) : Result :=
  .next (if gateable s bay then { s with gated := setD false bay true s.gated } else s)

end Sys2Proof.Machine
end

