-- ==== Sys2Proof/Machine/Dispatch.lean ====
section
/-! DEFINITION. The meaning of every instruction: one arm per constructor. -/

namespace Sys2Proof.Machine

def exec (i : Instr) (s : State) : Host.Outcome State Fault Refusal :=
  match i with
  | .add g ty d a b => Sys2Proof.Machine.execAdd g ty d a b s
  | .addImmediate g ty d a imm => Sys2Proof.Machine.execAddImmediate g ty d a imm s
  | .sub g ty d a b => Sys2Proof.Machine.execSub g ty d a b s
  | .subImmediate g ty d a imm => Sys2Proof.Machine.execSubImmediate g ty d a imm s
  | .mul g ty d a b => Sys2Proof.Machine.execMul g ty d a b s
  | .mulImmediate g ty d a imm => Sys2Proof.Machine.execMulImmediate g ty d a imm s
  | .mulh g ty d a b => Sys2Proof.Machine.execMulh g ty d a b s
  | .mulhImmediate g ty d a imm => Sys2Proof.Machine.execMulhImmediate g ty d a imm s
  | .divS g ty d a b => Sys2Proof.Machine.execDivS g ty d a b s
  | .divSImmediate g ty d a imm => Sys2Proof.Machine.execDivSImmediate g ty d a imm s
  | .rem g ty d a b => Sys2Proof.Machine.execRem g ty d a b s
  | .remImmediate g ty d a imm => Sys2Proof.Machine.execRemImmediate g ty d a imm s
  | .andS g ty d a b => Sys2Proof.Machine.execAndS g ty d a b s
  | .andSImmediate g ty d a imm => Sys2Proof.Machine.execAndSImmediate g ty d a imm s
  | .orS g ty d a b => Sys2Proof.Machine.execOrS g ty d a b s
  | .orSImmediate g ty d a imm => Sys2Proof.Machine.execOrSImmediate g ty d a imm s
  | .xor g ty d a b => Sys2Proof.Machine.execXor g ty d a b s
  | .xorImmediate g ty d a imm => Sys2Proof.Machine.execXorImmediate g ty d a imm s
  | .andn g ty d a b => Sys2Proof.Machine.execAndn g ty d a b s
  | .andnImmediate g ty d a imm => Sys2Proof.Machine.execAndnImmediate g ty d a imm s
  | .shl g ty d a b => Sys2Proof.Machine.execShl g ty d a b s
  | .shlImmediate g ty d a imm => Sys2Proof.Machine.execShlImmediate g ty d a imm s
  | .shr g ty d a b => Sys2Proof.Machine.execShr g ty d a b s
  | .shrImmediate g ty d a imm => Sys2Proof.Machine.execShrImmediate g ty d a imm s
  | .sra g ty d a b => Sys2Proof.Machine.execSra g ty d a b s
  | .sraImmediate g ty d a imm => Sys2Proof.Machine.execSraImmediate g ty d a imm s
  | .minS g ty d a b => Sys2Proof.Machine.execMinS g ty d a b s
  | .minSImmediate g ty d a imm => Sys2Proof.Machine.execMinSImmediate g ty d a imm s
  | .maxS g ty d a b => Sys2Proof.Machine.execMaxS g ty d a b s
  | .maxSImmediate g ty d a imm => Sys2Proof.Machine.execMaxSImmediate g ty d a imm s
  | .cmp g ty cond d a b => Sys2Proof.Machine.execCmp g ty cond d a b s
  | .cmpImmediate g ty cond d a imm => Sys2Proof.Machine.execCmpImmediate g ty cond d a imm s
  | .sel g d q a b => Sys2Proof.Machine.execSel g d q a b s
  | .limm g d imm => Sys2Proof.Machine.execLimm g d imm s
  | .clz g ty d a => Sys2Proof.Machine.execClz g ty d a s
  | .popc g ty d a => Sys2Proof.Machine.execPopc g ty d a s
  | .bfx g ty d a pos len => Sys2Proof.Machine.execBfx g ty d a pos len s
  | .bfi g ty d a pos len => Sys2Proof.Machine.execBfi g ty d a pos len s
  | .fadd g ty rm d a b => Sys2Proof.Machine.execFadd g ty rm d a b s
  | .fsub g ty rm d a b => Sys2Proof.Machine.execFsub g ty rm d a b s
  | .fmul g ty rm d a b => Sys2Proof.Machine.execFmul g ty rm d a b s
  | .ffma g ty rm d a b c => Sys2Proof.Machine.execFfma g ty rm d a b c s
  | .fmin g ty d a b => Sys2Proof.Machine.execFmin g ty d a b s
  | .fmax g ty d a b => Sys2Proof.Machine.execFmax g ty d a b s
  | .fcmp g ty cond d a b => Sys2Proof.Machine.execFcmp g ty cond d a b s
  | .fcvt g ty src rm fin sat d a => Sys2Proof.Machine.execFcvt g ty src rm fin sat d a s
  | .pand g d a b => Sys2Proof.Machine.execPand g d a b s
  | .por g d a b => Sys2Proof.Machine.execPor g d a b s
  | .pxor g d a b => Sys2Proof.Machine.execPxor g d a b s
  | .pnot g d a => Sys2Proof.Machine.execPnot g d a s
  | .pcnt g d a => Sys2Proof.Machine.execPcnt g d a s
  | .pfirst g d a => Sys2Proof.Machine.execPfirst g d a s
  | .pmov g d a => Sys2Proof.Machine.execPmov g d a s
  | .pmovFromScalar g d a => Sys2Proof.Machine.execPmovFromScalar g d a s
  | .pmovToScalar g d a => Sys2Proof.Machine.execPmovToScalar g d a s
  | .vadd g ty rm d a b => Sys2Proof.Machine.execVadd g ty rm d a b s
  | .vsub g ty rm d a b => Sys2Proof.Machine.execVsub g ty rm d a b s
  | .vmul g ty rm d a b => Sys2Proof.Machine.execVmul g ty rm d a b s
  | .vmulh g ty d a b => Sys2Proof.Machine.execVmulh g ty d a b s
  | .vmin g ty d a b => Sys2Proof.Machine.execVmin g ty d a b s
  | .vmax g ty d a b => Sys2Proof.Machine.execVmax g ty d a b s
  | .vand g ty d a b => Sys2Proof.Machine.execVand g ty d a b s
  | .vor g ty d a b => Sys2Proof.Machine.execVor g ty d a b s
  | .vxor g ty d a b => Sys2Proof.Machine.execVxor g ty d a b s
  | .vshl g ty d a b => Sys2Proof.Machine.execVshl g ty d a b s
  | .vshr g ty d a b => Sys2Proof.Machine.execVshr g ty d a b s
  | .vsra g ty d a b => Sys2Proof.Machine.execVsra g ty d a b s
  | .vfma g ty rm d a b c => Sys2Proof.Machine.execVfma g ty rm d a b c s
  | .vabs g ty d a => Sys2Proof.Machine.execVabs g ty d a s
  | .vneg g ty d a => Sys2Proof.Machine.execVneg g ty d a s
  | .vmov g ty d a => Sys2Proof.Machine.execVmov g ty d a s
  | .vclass g ty d a => Sys2Proof.Machine.execVclass g ty d a s
  | .vrcp g ty rm d a => Sys2Proof.Machine.execVrcp g ty rm d a s
  | .vrsq g ty rm d a => Sys2Proof.Machine.execVrsq g ty rm d a s
  | .vexp2 g ty rm d a => Sys2Proof.Machine.execVexp2 g ty rm d a s
  | .vlog2 g ty rm d a => Sys2Proof.Machine.execVlog2 g ty rm d a s
  | .vcmp g ty cond d a b => Sys2Proof.Machine.execVcmp g ty cond d a b s
  | .vsel g d q a b => Sys2Proof.Machine.execVsel g d q a b s
  | .vbcast g ty d a => Sys2Proof.Machine.execVbcast g ty d a s
  | .viota g ty d a => Sys2Proof.Machine.execViota g ty d a s
  | .vperm g d a b => Sys2Proof.Machine.execVperm g d a b s
  | .vcomp g d q a => Sys2Proof.Machine.execVcomp g d q a s
  | .vred g ty op rm d a => Sys2Proof.Machine.execVred g ty op rm d a s
  | .vscan g ty op rm d a => Sys2Proof.Machine.execVscan g ty op rm d a s
  | .vcvt g ty src rm fin sat d a => Sys2Proof.Machine.execVcvt g ty src rm fin sat d a s
  | .vext g ty d a b => Sys2Proof.Machine.execVext g ty d a b s
  | .vins g ty d a b => Sys2Proof.Machine.execVins g ty d a b s
  | .vqnt g ty rm fin sat d c a => Sys2Proof.Machine.execVqnt g ty rm fin sat d c a s
  | .vdqnt g ty d a b => Sys2Proof.Machine.execVdqnt g ty d a b s
  | .vcbd g wt d a b => Sys2Proof.Machine.execVcbd g wt d a b s
  | .vpack g ty src rm fin sat d a b => Sys2Proof.Machine.execVpack g ty src rm fin sat d a b s
  | .vunpk g ty src hi d a => Sys2Proof.Machine.execVunpk g ty src hi d a s
  | .mma g ty rm acd sh oba obb => Sys2Proof.Machine.execMma g ty rm acd sh oba obb s
  | .mmacb g ty rm wt acd sh oba obb => Sys2Proof.Machine.execMmacb g ty rm wt acd sh oba obb s
  | .mzero g acd => Sys2Proof.Machine.execMzero g acd s
  | .mrd g v aca b => Sys2Proof.Machine.execMrd g v aca b s
  | .mwr g acd v b => Sys2Proof.Machine.execMwr g acd v b s
  | .mshape g sh b off => Sys2Proof.Machine.execMshape g sh b off s
  | .ld g ty d a b off => Sys2Proof.Machine.execLd g ty d a b off s
  | .st g ty d a b off => Sys2Proof.Machine.execSt g ty d a b off s
  | .vld g ty d a b off => Sys2Proof.Machine.execVld g ty d a b off s
  | .vst g ty d a b off => Sys2Proof.Machine.execVst g ty d a b off s
  | .vgather g ty d a b off => Sys2Proof.Machine.execVgather g ty d a b off s
  | .vscatter g ty d a b off => Sys2Proof.Machine.execVscatter g ty d a b off s
  | .vscadd g ty d a b off => Sys2Proof.Machine.execVscadd g ty d a b off s
  | .binapp g ty d a b off => Sys2Proof.Machine.execBinapp g ty d a b off s
  | .binrst g a off => Sys2Proof.Machine.execBinrst g a off s
  | .pref g a b off => Sys2Proof.Machine.execPref g a b off s
  | .fence g scp sets => Sys2Proof.Machine.execFence g scp sets s
  | .amo g op ty scp ord d a off b => Sys2Proof.Machine.execAmo g op ty scp ord d a off b s
  | .acas g ty scp ord d a off b c => Sys2Proof.Machine.execAcas g ty scp ord d a off b c s
  | .pub g scp rel n b c => Sys2Proof.Machine.execPub g scp rel n b c s
  | .subs g scp n => Sys2Proof.Machine.execSubs g scp n s
  | .unsub g n => Sys2Proof.Machine.execUnsub g n s
  | .drop g n => Sys2Proof.Machine.execDrop g n s
  | .await g p n b => Sys2Proof.Machine.execAwait g p n b s
  | .strm g port dir eng scp ordf cons cv rm ty d gr a n => Sys2Proof.Machine.execStrm g port dir eng scp ordf cons cv rm ty d gr a n s
  | .swait g a => Sys2Proof.Machine.execSwait g a s
  | .scancel g a => Sys2Proof.Machine.execScancel g a s
  | .gset g gr sel a => Sys2Proof.Machine.execGset g gr sel a s
  | .spawn g d c b => Sys2Proof.Machine.execSpawn g d c b s
  | .bar g n => Sys2Proof.Machine.execBar g n s
  | .barx g k n => Sys2Proof.Machine.execBarx g k n s
  | .br g off => Sys2Proof.Machine.execBr g off s
  | .brp g t q off => Sys2Proof.Machine.execBrp g t q off s
  | .jmp g a => Sys2Proof.Machine.execJmp g a s
  | .call g a off => Sys2Proof.Machine.execCall g a off s
  | .ret g a => Sys2Proof.Machine.execRet g a s
  | .loop g a off => Sys2Proof.Machine.execLoop g a off s
  | .nop g => Sys2Proof.Machine.execNop g s
  | .tend g => Sys2Proof.Machine.execTend g s
  | .yieldC g => Sys2Proof.Machine.execYieldC g s
  | .trap g code => Sys2Proof.Machine.execTrap g code s
  | .csrr g d n => Sys2Proof.Machine.execCsrr g d n s
  | .csrw g n a => Sys2Proof.Machine.execCsrw g n a s
  | .frzrd g file d k b => Sys2Proof.Machine.execFrzrd g file d k b s
  | .frzwr g file k b a => Sys2Proof.Machine.execFrzwr g file k b a s
  | .frzinf g d k b => Sys2Proof.Machine.execFrzinf g d k b s
  | .resume g k => Sys2Proof.Machine.execResume g k s
  | .resumeAtPc g k a => Sys2Proof.Machine.execResumeAtPc g k a s
  | .kill g k => Sys2Proof.Machine.execKill g k s
  | .tlbinv g a => Sys2Proof.Machine.execTlbinv g a s
  | .tlbinvAll g a => Sys2Proof.Machine.execTlbinvAll g a s
  | .clsrd g d a => Sys2Proof.Machine.execClsrd g d a s
  | .sleep g n => Sys2Proof.Machine.execSleep g n s
  | .issueCycle tile => Sys2Proof.Machine.execIssueCycle tile s
  | .boostThread key => Sys2Proof.Machine.execBoostThread key s
  | .bundleCommit key => Sys2Proof.Machine.execBundleCommit key s
  | .memoryResponse id ext => Sys2Proof.Machine.execMemoryResponse id ext s
  | .sleepExpiry key => Sys2Proof.Machine.execSleepExpiry key s
  | .rngRefill tile => Sys2Proof.Machine.execRngRefill tile s
  | .bankServe tile bank bad => Sys2Proof.Machine.execBankServe tile bank bad s
  | .accessAtOwningPoint id elem bad => Sys2Proof.Machine.execAccessAtOwningPoint id elem bad s
  | .rmwPerform id elem => Sys2Proof.Machine.execRmwPerform id elem s
  | .translationWalkDone tile ctx va => Sys2Proof.Machine.execTranslationWalkDone tile ctx va s
  | .tlbDrainAck key => Sys2Proof.Machine.execTlbDrainAck key s
  | .scrubLine line bad => Sys2Proof.Machine.execScrubLine line bad s
  | .streamDispatch tile => Sys2Proof.Machine.execStreamDispatch tile s
  | .streamChunkStart tile eng => Sys2Proof.Machine.execStreamChunkStart tile eng s
  | .streamChunkDone tile eng chunk => Sys2Proof.Machine.execStreamChunkDone tile eng chunk s
  | .tailPublish tile => Sys2Proof.Machine.execTailPublish tile s
  | .matrixOpStart tile => Sys2Proof.Machine.execMatrixOpStart tile s
  | .matrixOperandConsume tile => Sys2Proof.Machine.execMatrixOperandConsume tile s
  | .matrixRowRead tile row => Sys2Proof.Machine.execMatrixRowRead tile row s
  | .matrixRowWrite tile row => Sys2Proof.Machine.execMatrixRowWrite tile row s
  | .asyncFaultArrival j => Sys2Proof.Machine.execAsyncFaultArrival j s
  | .launchWindowWrite port off bytes => Sys2Proof.Machine.execLaunchWindowWrite port off bytes s
  | .launchSlotRead port slot => Sys2Proof.Machine.execLaunchSlotRead port slot s
  | .admission => Sys2Proof.Machine.execAdmission s
  | .stageLoad ctx => Sys2Proof.Machine.execStageLoad ctx s
  | .stageEnd ctx => Sys2Proof.Machine.execStageEnd ctx s
  | .publicationArrival j => Sys2Proof.Machine.execPublicationArrival j s
  | .subscriptionArrival j => Sys2Proof.Machine.execSubscriptionArrival j s
  | .multicastCopy j => Sys2Proof.Machine.execMulticastCopy j s
  | .nameMatchFree j => Sys2Proof.Machine.execNameMatchFree j s
  | .publicationDelivery j => Sys2Proof.Machine.execPublicationDelivery j s
  | .deferMessage j => Sys2Proof.Machine.execDeferMessage j s
  | .resumeMessage j => Sys2Proof.Machine.execResumeMessage j s
  | .inputCopyDone key => Sys2Proof.Machine.execInputCopyDone key s
  | .dynamicDelivery j => Sys2Proof.Machine.execDynamicDelivery j s
  | .dropArrival j => Sys2Proof.Machine.execDropArrival j s
  | .unsubArrival j => Sys2Proof.Machine.execUnsubArrival j s
  | .pierSubscriptionArrival j => Sys2Proof.Machine.execPierSubscriptionArrival j s
  | .pierTileReadDone j => Sys2Proof.Machine.execPierTileReadDone j s
  | .residencyFill => Sys2Proof.Machine.execResidencyFill s
  | .residencyPin => Sys2Proof.Machine.execResidencyPin s
  | .residencyUnpin => Sys2Proof.Machine.execResidencyUnpin s
  | .residencyEvict => Sys2Proof.Machine.execResidencyEvict s
  | .fillComplete tid => Sys2Proof.Machine.execFillComplete tid s
  | .evictRefcZero tid => Sys2Proof.Machine.execEvictRefcZero tid s
  | .classLoweringRequest v => Sys2Proof.Machine.execClassLoweringRequest v s
  | .sliceFailureReport site => Sys2Proof.Machine.execSliceFailureReport site s
  | .loweringRouterDrained => Sys2Proof.Machine.execLoweringRouterDrained s
  | .resetToken j => Sys2Proof.Machine.execResetToken j s
  | .abortFlit j => Sys2Proof.Machine.execAbortFlit j s
  | .lostTransactionTimeout id => Sys2Proof.Machine.execLostTransactionTimeout id s
  | .heartbeatBeat site => Sys2Proof.Machine.execHeartbeatBeat site s
  | .heartbeatTimeout site => Sys2Proof.Machine.execHeartbeatTimeout site s
  | .probeReply site rtr core eff strn => Sys2Proof.Machine.execProbeReply site rtr core eff strn s
  | .probeTimeout site => Sys2Proof.Machine.execProbeTimeout site s
  | .probeRetry site => Sys2Proof.Machine.execProbeRetry site s
  | .keystoneProbe ok => Sys2Proof.Machine.execKeystoneProbe ok s
  | .sensorUpdate reg reading => Sys2Proof.Machine.execSensorUpdate reg reading s
  | .throttleApply tile => Sys2Proof.Machine.execThrottleApply tile s
  | .droopStretch bay => Sys2Proof.Machine.execDroopStretch bay s
  | .powerGood => Sys2Proof.Machine.execPowerGood s
  | .stageAdvance => Sys2Proof.Machine.execStageAdvance s
  | .safeBayReady => Sys2Proof.Machine.execSafeBayReady s
  | .waferTablesLoaded => Sys2Proof.Machine.execWaferTablesLoaded s
  | .hbmTrainingEnd stack ok => Sys2Proof.Machine.execHbmTrainingEnd stack ok s
  | .fullWafer => Sys2Proof.Machine.execFullWafer s
  | .bayWakeRequest bay => Sys2Proof.Machine.execBayWakeRequest bay s
  | .wakeComplete bay => Sys2Proof.Machine.execWakeComplete bay s
  | .bayGateRequest bay => Sys2Proof.Machine.execBayGateRequest bay s
  | .vacateRequest v host => Sys2Proof.Machine.execVacateRequest v host s
  | .vacateRelease v host => Sys2Proof.Machine.execVacateRelease v host s
  | .graceExpiry ctx tile => Sys2Proof.Machine.execGraceExpiry ctx tile s
  | .threadSave key => Sys2Proof.Machine.execThreadSave key s
  | .saveComplete uid => Sys2Proof.Machine.execSaveComplete uid s
  | .rehomePhase => Sys2Proof.Machine.execRehomePhase s
  | .foldPhase => Sys2Proof.Machine.execFoldPhase s
  | .restoreThread uid => Sys2Proof.Machine.execRestoreThread uid s
  | .checkpointRequest v => Sys2Proof.Machine.execCheckpointRequest v s
  | .checkpointEnd res => Sys2Proof.Machine.execCheckpointEnd res s
  | .evictorTrigger ctx va frame => Sys2Proof.Machine.execEvictorTrigger ctx va frame s
  | .evictorPageMove => Sys2Proof.Machine.execEvictorPageMove s
  | .bar2Read port off len => Sys2Proof.Machine.execBar2Read port off len s
  | .bar2Write port off bytes ep => Sys2Proof.Machine.execBar2Write port off bytes ep s
  | .bar2Atomicop port off op size a b => Sys2Proof.Machine.execBar2Atomicop port off op size a b s
  | .registerWrite port n v be => Sys2Proof.Machine.execRegisterWrite port n v be s
  | .peerAccessArrival p => Sys2Proof.Machine.execPeerAccessArrival p s
  | .peerAckArrival id err => Sys2Proof.Machine.execPeerAckArrival id err s
  | .cufortResendTimeout id => Sys2Proof.Machine.execCufortResendTimeout id s
  | .linkReplay port => Sys2Proof.Machine.execLinkReplay port s
  | .msixUnmask port vec => Sys2Proof.Machine.execMsixUnmask port vec s
  | .cufortLinkUpDown port up => Sys2Proof.Machine.execCufortLinkUpDown port up s

end Sys2Proof.Machine
end

