-- ==== Sys2Proof/Machine/Run.lean ====
section
/-! DEFINITION. Running an opened bundle through the meanings of its syllables: all of it commits, or none of it does (R112,
R155, R314, R316); and the step that comes where the schedule names none (log entry 1). The meanings are a parameter here. -/

namespace Sys2Proof.Machine

/-- One syllable of an opened bundle: it reads the registers as they were before the bundle (R112). -/
def runSyllable (run : Instr → State → Result) (src : Regs) (s : State) (e : Nat × Instr) : Result :=
  run e.2 { s with issue := { s.issue with src := src, idx := e.1, flow := .go } }

/-- Whether a syllable, run on a state, ends with a flow. -/
def endsWith (run : Instr → State → Result) (s : State) (f : Flow) (e : Nat × Instr) : Bool :=
  match runSyllable run s.issue.src s e with
  | .next t => t.issue.flow == f
  | _ => false

/-- Whether a syllable of a bundle that is issuing finds no entry that it needs. -/
def lacksEntry (run : Instr → State → Result) (s : State) (e : Nat × Instr) : Bool :=
  match runSyllable run s.issue.src s e with
  | .next t => (threadAt t s.issue.key).any (fun th => th.status == .waiting .operand)
  | _ => false

/-- R316: MMA and MMACB, whose shape check comes before the checks of every other syllable. -/
def isMultiply (i : Instr) : Bool :=
  match i with
  | .mma _ _ _ _ _ _ _ | .mmacb _ _ _ _ _ _ _ _ => true
  | _ => false

/-- Whether a syllable is of class C, whose effect on the pc comes at the commit (R155). -/
def isControl (s : State) (e : Nat × Instr) : Bool := wordCls (nth 0 s.issue.words e.1) == 5

/-- R316: the syllable of the opened bundle that faults first. -/
def firstFault (run : Instr → State → Result) (s : State) (l : List (Nat × Instr)) : Option (Nat × Instr) :=
  let bad (e : Nat × Instr) : Bool := endsWith run s .freeze e
  match l.find? (fun e => isMultiply e.2 && bad e) with
  | some e => some e
  | none => l.find? bad

/-- R316: whether a syllable that waits has checks of its own still to come: an access whose page is being moved or whose partner has not
accepted it, MSHAPE and PUB, which read first, and AWAIT, whose publication may be refused. -/
def checks (i : Instr) : Bool :=
  match i with
  | .fence _ _ _ => false
  | .mshape _ _ _ _ | .pub _ _ _ _ _ _ | .await _ _ _ _ => true
  | i => (encodeSyl i).any (fun y => y.cls == 3)

/-- Syllables run one after another, whatever their flow. -/
def runAll (run : Instr → State → Result) (src : Regs) : List (Nat × Instr) → State → Result
  | [], s => .next s
  | e :: l, s => match runSyllable run src s e with
    | .next t => runAll run src l t
    | r => r

/-- Syllables run one after another, each of which must go on; none where one does not. -/
def runThrough (run : Instr → State → Result) (src : Regs) : List (Nat × Instr) → State → Option Result
  | [], s => some (.next s)
  | e :: l, s => match runSyllable run src s e with
    | .next t => if t.issue.flow = .go then runThrough run src l t else none
    | r => some r

/-- The bundle has committed: what a POISONDEP resume granted it is used (R328). -/
def committed (s : State) (key uid : Nat) : State :=
  updThread s key (fun th => if th.uid = uid then { th with pass := false } else th)

/-- No bundle is open any more. -/
def closeIssue : Result → Result
  | .next s => .next { s with issue := Issue.none }
  | r => r

/-- R112, R288, R314, R316: an opened bundle: one for which an entry is wanting does not issue (R243); the first fault freezes it, and
nothing of it commits, unless a syllable before has still to be checked; else its waits hold it; else all its syllables take effect in the
order of the bundle, that of class C last: a matrix operation and a cons-1 STRM of its buffer count as issued in that order (R220; DESIGN
CHOICE, log entry 122). -/
def runOpened (run : Instr → State → Result) (s : State) (l : List (Nat × Instr)) : Result :=
  let w := l.filter (endsWith run s .wait)
  match l.find? (lacksEntry run s) with
  | some e => runSyllable run s.issue.src s e
  | none => match firstFault run s l with
  | some e => if w.any (fun x => x.1 < e.1 && !isMultiply e.2 && checks x.2) then runAll run s.issue.src w s else runSyllable run s.issue.src s e
  | none =>
    if w.isEmpty then
      match runThrough run s.issue.src (l.filter (fun e => !isControl s e) ++ l.filter (isControl s)) s with
      | some (.next t) => .next (match threadAt s s.issue.key with
        | none => t
        | some th => committed t s.issue.key th.uid)
      | some r => r
      -- the syllables go on one by one and not together: an entry that two of them need is not free
      | none => .next (waitFor s .operand)
    else runAll run s.issue.src w s

/-- What follows a step: the bundle that it opened, if it opened one, runs. -/
def runBundle (run : Instr → State → Result) (r : Result) : Result :=
  match r with
  | .next s => match s.issue.todo with
    | [] => .next s
    | l => closeIssue (runOpened run { s with issue := { s.issue with todo := [] } } l)
  | r => r

/-! The step that comes where the schedule names none. -/

/-- The step that serves an element of an access. -/
def serveStep (a : Access) (i : Nat) (e : Elem) : Instr :=
  if e.path.remote then .accessAtOwningPoint a.id i false
  else if e.path.pad then .bankServe (padOwner e.pa) (bankOf e.pa) false
  else if !plain a then .rmwPerform a.id i
  else .accessAtOwningPoint a.id i false

/-- The step that goes on with the oldest access that can go on. -/
def accessStep (s : State) : Option Instr :=
  pick (fun a => match (((upTo a.elems.length).zip a.elems).find? (fun e => elemReady s a e.2)) with
    | some e => some (serveStep a e.1 e.2)
    | none => if answerable s a then
        some (.memoryResponse (64 * a.id) ⟨[], false, false⟩) else none) s.inflight

/-- Whether a step lets a waiting thread go on. -/
def goesOn (run : Instr → State → Result) (s : State) (k : Nat) (i : Instr) : Bool :=
  match runBundle run (run i s) with
  | .next t => (match threadAt t k with
    | none => true
    | some th => th.bundle.isNone)
  | _ => false

/-- The step that ends a wait of a thread on a core. -/
def wakeStep (run : Instr → State → Result) (s : State) (t : Nat) : Option Instr :=
  pick (fun e => match e.2.status with
    | .waiting .bits => if e.2.regs.rng.cnt < 4 then some (.rngRefill t) else none
    | .waiting .cond => if goesOn run s e.1 (.bundleCommit e.1) then some (.bundleCommit e.1) else none
    | .waiting (.sleep c) => if c ≤ (coreAt s t).cyc then some (.sleepExpiry e.1) else none
    | _ => none) (threadsOn s t)

/-- The step that comes where the schedule names none: an access goes on, a wait on the core in focus ends, or that core has
an issue cycle. -/
def defaultStep (run : Instr → State → Result) (s : State) : Instr :=
  match accessStep s with
  | some i => i
  | none => match wakeStep run s s.focus with
    | some i => i
    | none => .issueCycle s.focus

/-- Whether an instruction is a step of the device: a syllable runs from its bundle only. -/
def isEvent (i : Instr) : Bool := (encodeSyl i).isNone

/-- The step that comes next, and the state with it taken from the schedule; a syllable in the schedule is no step. -/
def nextStep (run : Instr → State → Result) (s : State) : Instr × State :=
  match s.sched with
  | [] => (defaultStep run s, s)
  | i :: l =>
    let s := { s with sched := l }
    (if isEvent i then i else defaultStep run s, s)

/-- One step of the machine: the next step of the schedule, and the bundle that it opens. -/
def stepWith (run : Instr → State → Result) (s : State) : Result :=
  let n := nextStep run s
  runBundle run (run n.1 n.2)

/-! Placing a program (log entry 5). -/

/-- The bytes of some words. -/
def wordBytes (ws : List Word) : List Byte := ws.flatMap (fun w => leBytes 8 w.toNat)

/-- The words of a table row's bits: its syllable, which ends its bundle, or with a set E where it has an X syllable. -/
def rowWords (nbits w : Nat) : List Word :=
  let e := 1#64 <<< 63
  if nbits ≤ 64 then [BitVec.ofNat 64 w ||| e]
  else [BitVec.ofNat 64 w &&& ~~~e, BitVec.ofNat 64 (w >>> 64) ||| e]

/-- A task thread on tile (70, 5), about to issue at offset 0x1000; its privilege lets it run every instruction. -/
def placedThread (uid : Nat) : Thread := newThread uid .task none 2 Regs.reset 0x1000 0

/-- A state with some words placed as the next bundle of a task thread of tile (70, 5), slot 0, whose issue cycle is next. -/
def placeWords (s : State) (ws : List Word) : State :=
  let t := tileAt 70 5
  let s := writeBytes s (padBase t + 0x1000) (wordBytes ws)
  let s := setThread s (keyOf t 0) (placedThread s.nextUid)
  let s := updCore s t (fun c => { c with holder := some s.nextUid })
  { s with live := setD 0 (siteOf t) 0 s.live, gated := setD false (bayOf t) false s.gated, nextUid := s.nextUid + 1, focus := t,
           sched := .issueCycle t :: s.sched }

end Sys2Proof.Machine
end

