-- ==== Sys2Proof/Machine/Step.lean ====
section
/-! DEFINITION. One step of the machine, and where a program's next instruction lies. -/

namespace Sys2Proof.Machine

/-- One step: the next step of the schedule through the meanings, and the bundle that it opens. -/
def step (s : State) : Host.Outcome State Fault Refusal := stepWith exec s

/-- The state with an instruction placed where the next step fetches and runs it (log entry 5). -/
def State.withFetchWord (s : State) (nbits w : Nat) : State := placeWords s (rowWords nbits w)

end Sys2Proof.Machine
end

