-- ==== Sys2Proof/WellFormed.lean ====
section
/-! DEFINITION. Which instructions are well formed: the operand values the reference entries accept. -/

namespace Sys2Proof

/-- R464: the operand values STRM accepts. -/
def strmOk (port : Port) (dir cons cv : Bool) (rm : Rm) (ty : Ty) (n : NPair) : Bool :=
  let ob := 4 ≤ port.code.toNat
  (!ob || dir) && (port != .hname || (!dir && n != 0)) && (!cons || ob) && (cv || (ty == .u8 && rm == .dyn)) &&
  (!cv || (tyIn 0x0F00 ty.code && rm != .sr))

/-- The well-formed instructions. The steps of the device have no operand an encoding could get wrong. -/
def Instr.wf : Instr → Bool
  | .add _ ty _ _ _ => tyIn 0x00FF ty.code
  | .addImmediate _ ty _ _ _ => tyIn 0x00FF ty.code
  | .sub _ ty _ _ _ => tyIn 0x00FF ty.code
  | .subImmediate _ ty _ _ _ => tyIn 0x00FF ty.code
  | .mul _ ty _ _ _ => tyIn 0x00FF ty.code
  | .mulImmediate _ ty _ _ _ => tyIn 0x00FF ty.code
  | .mulh _ ty _ _ _ => tyIn 0x00FF ty.code
  | .mulhImmediate _ ty _ _ _ => tyIn 0x00FF ty.code
  | .divS _ ty _ _ _ => tyIn 0x00FF ty.code
  | .divSImmediate _ ty _ _ _ => tyIn 0x00FF ty.code
  | .rem _ ty _ _ _ => tyIn 0x00FF ty.code
  | .remImmediate _ ty _ _ _ => tyIn 0x00FF ty.code
  | .andS _ ty _ _ _ => tyIn 0x00FF ty.code
  | .andSImmediate _ ty _ _ _ => tyIn 0x00FF ty.code
  | .orS _ ty _ _ _ => tyIn 0x00FF ty.code
  | .orSImmediate _ ty _ _ _ => tyIn 0x00FF ty.code
  | .xor _ ty _ _ _ => tyIn 0x00FF ty.code
  | .xorImmediate _ ty _ _ _ => tyIn 0x00FF ty.code
  | .andn _ ty _ _ _ => tyIn 0x00FF ty.code
  | .andnImmediate _ ty _ _ _ => tyIn 0x00FF ty.code
  | .shl _ ty _ _ _ => tyIn 0x00FF ty.code
  | .shlImmediate _ ty _ _ _ => tyIn 0x00FF ty.code
  | .shr _ ty _ _ _ => tyIn 0x00FF ty.code
  | .shrImmediate _ ty _ _ _ => tyIn 0x00FF ty.code
  | .sra _ ty _ _ _ => tyIn 0x00FF ty.code
  | .sraImmediate _ ty _ _ _ => tyIn 0x00FF ty.code
  | .minS _ ty _ _ _ => tyIn 0x00FF ty.code
  | .minSImmediate _ ty _ _ _ => tyIn 0x00FF ty.code
  | .maxS _ ty _ _ _ => tyIn 0x00FF ty.code
  | .maxSImmediate _ ty _ _ _ => tyIn 0x00FF ty.code
  | .cmp _ ty cond _ _ _ => tyIn 0x00FF ty.code && cond.code.toNat < 6
  | .cmpImmediate _ ty cond _ _ _ => tyIn 0x00FF ty.code && cond.code.toNat < 6
  | .sel _ _ _ _ _ => true
  | .limm _ _ _ => true
  | .clz _ ty _ _ => tyIn 0x00FF ty.code
  | .popc _ ty _ _ => tyIn 0x00FF ty.code
  | .bfx _ ty _ _ _ _ => tyIn 0x00C0 ty.code
  | .bfi _ ty _ _ _ _ => tyIn 0x0040 ty.code
  | .fadd _ ty _ _ _ _ => tyIn 0x1C00 ty.code
  | .fsub _ ty _ _ _ _ => tyIn 0x1C00 ty.code
  | .fmul _ ty _ _ _ _ => tyIn 0x1C00 ty.code
  | .ffma _ ty _ _ _ _ _ => tyIn 0x1C00 ty.code
  | .fmin _ ty _ _ _ => tyIn 0x1C00 ty.code
  | .fmax _ ty _ _ _ => tyIn 0x1C00 ty.code
  | .fcmp _ ty _ _ _ _ => tyIn 0x1C00 ty.code
  | .fcvt _ ty src _ _ _ _ _ => tyIn 0x3FFF ty.code && tyIn 0x3FFF src.code
  | .pand _ _ _ _ => true
  | .por _ _ _ _ => true
  | .pxor _ _ _ _ => true
  | .pnot _ _ _ => true
  | .pcnt _ _ _ => true
  | .pfirst _ _ _ => true
  | .pmov _ _ _ => true
  | .pmovFromScalar _ _ _ => true
  | .pmovToScalar _ _ _ => true
  | .vadd _ ty rm _ _ _ => tyIn 0x1C3F ty.code && (rm == .dyn || tyIn 0x1C00 ty.code)
  | .vsub _ ty rm _ _ _ => tyIn 0x1C3F ty.code && (rm == .dyn || tyIn 0x1C00 ty.code)
  | .vmul _ ty rm _ _ _ => tyIn 0x1C3F ty.code && (rm == .dyn || tyIn 0x1C00 ty.code)
  | .vmulh _ ty _ _ _ => tyIn 0x003F ty.code
  | .vmin _ ty _ _ _ => tyIn 0x1C3F ty.code
  | .vmax _ ty _ _ _ => tyIn 0x1C3F ty.code
  | .vand _ ty _ _ _ => tyIn 0x003F ty.code
  | .vor _ ty _ _ _ => tyIn 0x003F ty.code
  | .vxor _ ty _ _ _ => tyIn 0x003F ty.code
  | .vshl _ ty _ _ _ => tyIn 0x003F ty.code
  | .vshr _ ty _ _ _ => tyIn 0x003F ty.code
  | .vsra _ ty _ _ _ => tyIn 0x003F ty.code
  | .vfma _ ty rm _ _ _ _ => tyIn 0x1C3F ty.code && (rm == .dyn || tyIn 0x1C00 ty.code)
  | .vabs _ ty _ _ => tyIn 0x1C3F ty.code
  | .vneg _ ty _ _ => tyIn 0x1C3F ty.code
  | .vmov _ ty _ _ => tyIn 0x7F3F ty.code
  | .vclass _ ty _ _ => tyIn 0x1F00 ty.code
  | .vrcp _ ty _ _ _ => tyIn 0x1C00 ty.code
  | .vrsq _ ty _ _ _ => tyIn 0x1C00 ty.code
  | .vexp2 _ ty _ _ _ => tyIn 0x1C00 ty.code
  | .vlog2 _ ty _ _ _ => tyIn 0x1C00 ty.code
  | .vcmp _ ty cond _ _ _ => tyIn 0x1C3F ty.code && (tyIn 0x1C00 ty.code || cond.code.toNat < 6)
  | .vsel _ _ _ _ _ => true
  | .vbcast _ ty _ _ => tyIn 0x7F3F ty.code
  | .viota _ ty _ _ => tyIn 0x003F ty.code
  | .vperm _ _ _ _ => true
  | .vcomp _ _ _ _ => true
  | .vred _ ty op rm _ _ => tyIn 0x1C3F ty.code && (op.code.toNat < 3 || !tyIn 0x1C00 ty.code) && (rm == .dyn || (op == .add && tyIn 0x1C00 ty.code))
  | .vscan _ ty op rm _ _ => tyIn 0x1C3F ty.code && (op.code.toNat < 3 || !tyIn 0x1C00 ty.code) && (rm == .dyn || (op == .add && tyIn 0x1C00 ty.code))
  | .vcvt _ ty src _ _ _ _ _ => tyIn 0x3F3F ty.code && tyIn 0x3F3F src.code
  | .vext _ ty _ _ _ => tyIn 0x7F3F ty.code
  | .vins _ ty _ _ _ => tyIn 0x7F3F ty.code
  | .vqnt _ ty _ _ _ d c _ => tyIn 0x0302 ty.code && d != c
  | .vdqnt _ ty _ _ _ => tyIn 0x0302 ty.code
  | .vcbd _ _ _ _ _ => true
  | .vpack _ ty src _ _ _ _ _ _ => tyIn 0x0F0F ty.code && tyIn 0x1C3F src.code
  | .vunpk _ ty src _ _ _ => unpkPair src.code ty.code
  | .mma _ ty _ _ _ _ _ => tyIn 0x0F00 ty.code
  | .mmacb _ ty _ _ _ _ _ _ => tyIn 0x0300 ty.code
  | .mzero _ _ => true
  | .mrd _ _ _ _ => true
  | .mwr _ _ _ _ => true
  | .mshape _ _ _ _ => true
  | .ld _ ty _ _ _ _ => tyIn 0x1FFF ty.code
  | .st _ ty _ _ _ _ => tyIn 0x1FFF ty.code
  | .vld _ ty _ _ _ _ => tyIn 0x1F3F ty.code
  | .vst _ ty _ _ _ _ => tyIn 0x1F3F ty.code
  | .vgather _ ty _ _ _ _ => tyIn 0x1F3F ty.code
  | .vscatter _ ty _ _ _ _ => tyIn 0x1F3F ty.code
  | .vscadd _ ty _ _ _ _ => tyIn 0x1030 ty.code
  | .binapp _ ty _ _ _ _ => tyIn 0x1030 ty.code
  | .binrst _ _ _ => true
  | .pref _ _ _ _ => true
  | .fence _ _ sets => sets != 0
  | .amo _ op ty _ _ _ _ _ _ => AmoOp.accepts op ty
  | .acas _ ty _ _ _ _ _ _ _ => tyIn 0x00F0 ty.code
  | .pub _ _ _ _ _ _ => true
  | .subs _ _ _ => true
  | .unsub _ _ => true
  | .drop _ _ => true
  | .await _ _ _ _ => true
  | .strm _ port dir _ _ _ cons cv rm ty _ _ _ n => strmOk port dir cons cv rm ty n
  | .swait _ _ => true
  | .scancel _ _ => true
  | .gset _ _ _ _ => true
  | .spawn _ d c _ => (d != c || d == 0)
  | .bar _ _ => true
  | .barx _ _ _ => true
  | .br _ _ => true
  | .brp _ _ _ _ => true
  | .jmp _ _ => true
  | .call _ _ _ => true
  | .ret _ _ => true
  | .loop _ _ _ => true
  | .nop _ => true
  | .tend _ => true
  | .yieldC _ => true
  | .trap _ _ => true
  | .csrr _ _ n => csrAssigned n
  | .csrw _ n _ => csrAssigned n
  | .frzrd _ file d _ _ => (!file.isVector || d.toNat < 32)
  | .frzwr _ file _ _ a => (!file.isVector || a.toNat < 32)
  | .frzinf _ _ _ _ => true
  | .resume _ _ => true
  | .resumeAtPc _ _ _ => true
  | .kill _ _ => true
  | .tlbinv _ _ => true
  | .tlbinvAll _ _ => true
  | .clsrd _ _ _ => true
  | .sleep _ _ => true
  | .issueCycle _ => true
  | .boostThread _ => true
  | .bundleCommit _ => true
  | .memoryResponse _ _ => true
  | .sleepExpiry _ => true
  | .rngRefill _ => true
  | .bankServe _ _ _ => true
  | .accessAtOwningPoint _ _ _ => true
  | .rmwPerform _ _ => true
  | .translationWalkDone _ _ _ => true
  | .tlbDrainAck _ => true
  | .scrubLine _ _ => true
  | .streamDispatch _ => true
  | .streamChunkStart _ _ => true
  | .streamChunkDone _ _ _ => true
  | .tailPublish _ => true
  | .matrixOpStart _ => true
  | .matrixOperandConsume _ => true
  | .matrixRowRead _ _ => true
  | .matrixRowWrite _ _ => true
  | .asyncFaultArrival _ => true
  | .launchWindowWrite _ _ _ => true
  | .launchSlotRead _ _ => true
  | .admission => true
  | .stageLoad _ => true
  | .stageEnd _ => true
  | .publicationArrival _ => true
  | .subscriptionArrival _ => true
  | .multicastCopy _ => true
  | .nameMatchFree _ => true
  | .publicationDelivery _ => true
  | .deferMessage _ => true
  | .resumeMessage _ => true
  | .inputCopyDone _ => true
  | .dynamicDelivery _ => true
  | .dropArrival _ => true
  | .unsubArrival _ => true
  | .pierSubscriptionArrival _ => true
  | .pierTileReadDone _ => true
  | .residencyFill => true
  | .residencyPin => true
  | .residencyUnpin => true
  | .residencyEvict => true
  | .fillComplete _ => true
  | .evictRefcZero _ => true
  | .classLoweringRequest _ => true
  | .sliceFailureReport _ => true
  | .loweringRouterDrained => true
  | .resetToken _ => true
  | .abortFlit _ => true
  | .lostTransactionTimeout _ => true
  | .heartbeatBeat _ => true
  | .heartbeatTimeout _ => true
  | .probeReply _ _ _ _ _ => true
  | .probeTimeout _ => true
  | .probeRetry _ => true
  | .keystoneProbe _ => true
  | .sensorUpdate _ _ => true
  | .throttleApply _ => true
  | .droopStretch _ => true
  | .powerGood => true
  | .stageAdvance => true
  | .safeBayReady => true
  | .waferTablesLoaded => true
  | .hbmTrainingEnd _ _ => true
  | .fullWafer => true
  | .bayWakeRequest _ => true
  | .wakeComplete _ => true
  | .bayGateRequest _ => true
  | .vacateRequest _ _ => true
  | .vacateRelease _ _ => true
  | .graceExpiry _ _ => true
  | .threadSave _ => true
  | .saveComplete _ => true
  | .rehomePhase => true
  | .foldPhase => true
  | .restoreThread _ => true
  | .checkpointRequest _ => true
  | .checkpointEnd _ => true
  | .evictorTrigger _ _ _ => true
  | .evictorPageMove => true
  | .bar2Read _ _ _ => true
  | .bar2Write _ _ _ _ => true
  | .bar2Atomicop _ _ _ _ _ _ => true
  | .registerWrite _ _ _ _ => true
  | .peerAccessArrival _ => true
  | .peerAckArrival _ _ => true
  | .cufortResendTimeout _ => true
  | .linkReplay _ => true
  | .msixUnmask _ _ => true
  | .cufortLinkUpDown _ _ => true

end Sys2Proof
end

