-- ==== Sys2Proof/Safety.lean ====
section
/-! DEFINITION. The terms that claims about the machine use: when a syllable runs, what an access is accepted on, what a
register syllable leaves unchanged, and the canonical form that every step keeps. -/

namespace Sys2Proof.Machine

/-! When a syllable runs. -/

/-- The bundle's thread, with the guard of an S, M, N or C syllable true (R114). -/
structure Runs (s : State) (th : Thread) (g : PReg) : Prop where
  thread : issuer s = some th
  guard : (rdP s g).getLsbD 0 = true

/-- The bundle's thread, with some lane of a V syllable's guard enabled (R114). -/
structure RunsV (s : State) (th : Thread) (g : PReg) : Prop where
  thread : issuer s = some th
  guard : rdP s g ≠ 0

/-- The syllables whose guard enables lanes: all of class V, and those of class L on vector registers (R114). -/
def byLanes (i : Instr) : Bool :=
  match i with
  | .vld _ _ _ _ _ _ | .vst _ _ _ _ _ _ | .vgather _ _ _ _ _ _ | .vscatter _ _ _ _ _ _ | .vscadd _ _ _ _ _ _
  | .binapp _ _ _ _ _ _ => true
  | _ => match encodeSyl i with
    | some e => e.cls == 1
    | none => false

/-- The syllables of the classes S and V, which act on registers alone. -/
def onRegisters (i : Instr) : Bool :=
  match encodeSyl i with
  | some e => e.cls == 0 || e.cls == 1
  | none => false

/-! Results as the spec states them. -/

/-- R174: the low w bits of a register, w the width of a type. -/
def narrow (ty : Ty) (x : Word) : BitVec ty.bits := x.setWidth ty.bits
/-- R174: w bits in a scalar register: sign-extended for a signed type, zero-extended for any other. -/
def widen (ty : Ty) (x : BitVec ty.bits) : Word := if ty.signed then x.signExtend 64 else x.setWidth 64
/-- R174: w bits in a vector lane. -/
def widenLane (ty : Ty) (x : BitVec ty.bits) : BitVec 32 := if ty.signed then x.signExtend 32 else x.setWidth 32
/-- R174: w bits read as an integer of a type. -/
def valueOf (ty : Ty) (x : BitVec ty.bits) : Int := if ty.signed then x.toInt else x.toNat

/-- The state with a scalar register of the bundle's thread written, and nothing else changed. -/
def putS (s : State) (d : SReg) (v : Word) (p : Bool) : State := setRegs s (fun r => r.wrS d ⟨v, p⟩)
/-- The state with a predicate of the bundle's thread written, and nothing else changed. -/
def putP (s : State) (d : PReg) (v : Word) : State := setRegs s (fun r => r.wrP d v)
/-- The state with a vector register of the bundle's thread written, and nothing else changed. -/
def putV (s : State) (d : VReg) (v : Vec) : State := setRegs s (fun r => r.wrV d v)

/-- A vector of 64 lanes whose enabled lanes are as a function gives them and whose others are those of an old one
(R114). -/
def LanesAre (g : Word) (old : Vec) (f : Nat → Lane) (v : Vec) : Prop :=
  v.length = 64 ∧ ∀ i, i < 64 → v.lane i = if g.getLsbD i then f i else old.lane i

/-- A float syllable's effect: the state before it with random bits drawn (R133), the flags raised (R127) and one change of
the registers. -/
def Rounded (s : State) (m : Mode) (f : Flags) (k : Regs → Regs) (t : State) : Prop :=
  t = setRegs (raise (draw s m).1 f) k

/-! The moulds. -/

/-- R371: the register form of a member of the scalar integer mould. -/
def RegForm (mk : PReg → Ty → SReg → SReg → SReg → Instr)
    (f : (ty : Ty) → BitVec ty.bits → BitVec ty.bits → BitVec ty.bits) : Prop :=
  ∀ (s : State) (th : Thread) (g : PReg) (ty : Ty) (d a b : SReg), Runs s th g → ty.isInt = true →
    exec (mk g ty d a b) s = .next (putS s d (widen ty (f ty (narrow ty (rdS s a).val) (narrow ty (rdS s b).val)))
      ((rdS s a).poison || (rdS s b).poison))

/-- R371: the immediate form of a member of the scalar integer mould. -/
def ImmForm (mk : PReg → Ty → SReg → SReg → Imm → Instr)
    (f : (ty : Ty) → BitVec ty.bits → BitVec ty.bits → BitVec ty.bits) : Prop :=
  ∀ (s : State) (th : Thread) (g : PReg) (ty : Ty) (d a : SReg) (v : Imm), Runs s th g → ty.isInt = true →
    exec (mk g ty d a v) s = .next (putS s d (widen ty (f ty (narrow ty (rdS s a).val) (narrow ty v.value)))
      (rdS s a).poison)

/-- R371: a member of the scalar integer mould: both forms, and its opcode in class S, which the immediate form has with 64
added. -/
def Member (op : BitVec 8) (mk : PReg → Ty → SReg → SReg → SReg → Instr) (mki : PReg → Ty → SReg → SReg → Imm → Instr)
    (f : (ty : Ty) → BitVec ty.bits → BitVec ty.bits → BitVec ty.bits) : Prop :=
  RegForm mk f ∧ ImmForm mki f ∧
  (∀ g ty d a b e, encodeSyl (mk g ty d a b) = some e → e.cls = 0 ∧ e.op = op) ∧
  (∀ g ty d a v e, encodeSyl (mki g ty d a v) = some e → e.cls = 0 ∧ e.op = op + 64)

/-- R476: an integer member of the vector lane mould: each enabled lane takes the function of the lanes of its sources, and
any other keeps its value and its shadow bit. -/
def LaneMember (mk : PReg → Ty → VReg → VReg → VReg → Instr)
    (f : (ty : Ty) → BitVec ty.bits → BitVec ty.bits → BitVec ty.bits) : Prop :=
  ∀ (s : State) (th : Thread) (g : PReg) (ty : Ty) (d a b : VReg), RunsV s th g → ty.isInt = true → ty.bits ≤ 32 →
    ∃ v, exec (mk g ty d a b) s = .next (putV s d v) ∧ LanesAre (rdP s g) (rdV s d) (fun i =>
      ⟨widenLane ty (f ty (((rdV s a).lane i).val.setWidth ty.bits) (((rdV s b).lane i).val.setWidth ty.bits)),
        ((rdV s a).lane i).poison || ((rdV s b).lane i).poison⟩) v

/-- R399, R400: a member of the scalar float mould: the rounded result with its flags, zero-extended, poisoned where a source
is; its mode is explicit or sampled (R190), and in SR it uses lane 0 of the entry it pops (R133). -/
def FloatMember (mk : PReg → Ty → Rm → SReg → SReg → SReg → Instr) (f : Fmt → Mode → Nat → Nat → Nat → RRes) : Prop :=
  ∀ (s : State) (th : Thread) (g : PReg) (ty : Ty) (rm : Rm) (d a b : SReg), Runs s th g → tyIn 0x1C00 ty.code = true →
    let m := modeOf s rm
    let r := f (tyFmt ty) m (rngLane (draw s m).2 0) (lowBits ty (rdS s a)) (lowBits ty (rdS s b))
    ∃ t, exec (mk g ty rm d a b) s = .next t ∧ Rounded s m r.flags (fun x => x.wrS d
      ⟨BitVec.ofNat 64 (r.bits % 2 ^ ty.bits), (rdS s a).poison || (rdS s b).poison || r.poison⟩) t

/-- R476: a float member of the vector lane mould: each enabled lane is rounded by itself, in SR with its own lane of the entry,
and the flags of the enabled lanes are ORed. -/
def LaneFloat (mk : PReg → Ty → Rm → VReg → VReg → VReg → Instr) (f : Fmt → Mode → Nat → Nat → Nat → RRes) : Prop :=
  ∀ (s : State) (th : Thread) (g : PReg) (ty : Ty) (rm : Rm) (d a b : VReg), RunsV s th g → tyIn 0x1C00 ty.code = true →
    let m := modeOf s rm
    let x (i : Nat) := (rdV s a).lane i
    let y (i : Nat) := (rdV s b).lane i
    let r (i : Nat) := f (tyFmt ty) m (rngLane (draw s m).2 i) (laneBits ty (x i)) (laneBits ty (y i))
    ∃ t v, exec (mk g ty rm d a b) s = .next t ∧
      Rounded s m (orFlags ((lanesOn (rdP s g)).map (fun i => (r i).flags))) (fun q => q.wrV d v) t ∧
      LanesAre (rdP s g) (rdV s d) (fun i =>
        ⟨BitVec.ofNat 32 ((r i).bits % 2 ^ ty.bits), (x i).poison || (y i).poison || (r i).poison⟩) v

/-- R486, R487: an elementwise function. -/
def LaneElementary (mk : PReg → Ty → Rm → VReg → VReg → Instr) (fn : Elementary) : Prop :=
  ∀ (s : State) (th : Thread) (g : PReg) (ty : Ty) (rm : Rm) (d a : VReg), RunsV s th g → tyIn 0x1C00 ty.code = true →
    let m := modeOf s rm
    let x (i : Nat) := (rdV s a).lane i
    let r (i : Nat) := elementary fn (tyFmt ty) m (rngLane (draw s m).2 i) (laneBits ty (x i))
    ∃ t v, exec (mk g ty rm d a) s = .next t ∧
      Rounded s m (orFlags ((lanesOn (rdP s g)).map (fun i => (r i).flags))) (fun q => q.wrV d v) t ∧
      LanesAre (rdP s g) (rdV s d) (fun i => ⟨BitVec.ofNat 32 ((r i).bits % 2 ^ ty.bits), (x i).poison || (r i).poison⟩) v

/-- A vector syllable whose enabled lanes are as a function of the state gives them, with no flag and no random bits. -/
def LanesOf (s : State) (g : PReg) (d : VReg) (i : Instr) (f : Nat → Lane) : Prop :=
  ∃ v, exec i s = .next (putV s d v) ∧ LanesAre (rdP s g) (rdV s d) f v

/-- R449: the shift count of a mould: y mod w, with its pattern read as unsigned. -/
def countOf {w : Nat} (y : BitVec w) : Nat := y.toNat % w

/-! What a syllable leaves unchanged. -/

/-- Registers that agree but for some named ones, the flags and the random-bit queue. -/
structure KeepsBut (w : List RegName) (r r' : Regs) : Prop where
  s : ∀ n, RegName.s n ∉ w → r'.rdS n = r.rdS n
  v : ∀ n, RegName.v n ∉ w → r'.rdV n = r.rdV n
  p : ∀ n, RegName.p n ∉ w → r'.rdP n = r.rdP n
  sh : r'.sh = r.sh
  g : r'.g = r.g
  k0 : r'.k0 = r.k0
  rm : r'.rm = r.rm
  psink : r'.psink = r.psink
  seed : r'.seed = r.seed
  tag : r'.tag = r.tag
  inst : r'.inst = r.inst
  boost : r'.boost = r.boost
  lprio : r'.lprio = r.lprio
  level : r'.level = r.level

/-! Accesses. -/

/-- R236, R302, R303: an access of some addresses passes its checks, with the state after its translations and the
locations; where an address lies in a lent window, the partner has accepted (R313) and is not lost (R40); the network interface has
room (R243); and where a lowering has stopped injection at the tile, the access stays in its span (R48). -/
def Accepted (s : State) (th : Thread) (n : Need) (carry : Path → Bool) (w : Nat) (addrs : List Nat) (s' : State)
    (l : List (Nat × Nat × Path)) : Prop :=
  checkAddrs (spaceOf s s.issue.key th) n carry w addrs s = (s', .ok l) ∧
  (∀ va ∈ addrs, inLent s' s'.tile va = true → lentAccepted s' = true) ∧ lentGone s' = none ∧
  (injectionStopped s' s'.tile = true → ∀ e ∈ l, e.2.2 = .own ∨ e.2.2 = .view) ∧
  niCount s' s'.tile + (niLines l).length ≤ Config.niSize

/-- R46, R47: the packets of a core to a location, and the answers to them, have a route. -/
def Reaches (s : State) (t : Nat) (p : Path) (pa : Nat) : Prop :=
  (requestRoute s t p pa).isSome = true ∧ (answerRoute s t p pa).isSome = true

/-- R260, R261: whether a read of a range finds it poisoned: a line of it is, or holds a word that is found uncorrectable. -/
def rangeBad (s : State) (pa n : Nat) : Bool := (List.range n).any (fun i => lineBad s (pa + i))

/-- A capability register names the frozen thread of a slot (R120). -/
def Serves (s : State) (k : KReg) (j : Nat) (v : Thread) : Prop := capTarget s k = .thread j ∧ threadAt s j = some v

/-! The canonical form. -/

/-- The canonical form of the poison bits: lines strictly rising, and only poisoned lines listed. -/
def poisonWf (m : Map Bool) : Bool := mapWf m && m.all (fun e => e.2)

/-- What every step keeps: memory and its poison bits in canonical form. -/
def State.inv (s : State) : Bool := Memory.wf s.mem && poisonWf s.poison

end Sys2Proof.Machine
end

