-- ==== Sys2Proof/Certificates/Slice0/Obligations.lean ====
section
/-! DEFINITION. The statements about the model: the step and the encoding, the scalar and vector syllables, the matrix unit,
memory, names, control and the steps of the device. -/

open Sys2Proof Sys2Proof.Machine

/-! The step, the encoding and the invariant. -/

/-- R107, R112, R155, R235, R236, R288, R314, R316: an issue cycle of a core runs the bundle of the thread that it selects, of any number
of syllables, where the load/store port can take its L syllable and no bank holds up its fetch: every syllable is run by its own
meaning, and reads the registers as they stood before the bundle. Where each goes on, they take effect one after another, that of
class C last, and the bundle is committed and closed; where an entry is wanting to one, the bundle does not issue; where one
freezes, nothing of the bundle commits but that freeze: of several it is the first in ascending order, a multiply's before any
other, and one before which a syllable has checks of its own to come waits for it; where none freezes and some wait, they wait.
Around it the step counts the core's cycle (R130), ends the waits of YIELD (R521), finds the errors of the lines that the fetch reads
(R260, R261), and lets the acquires in flight note what was fetched before they took effect (log entry 94). That the syllables
count as issued in their order in the bundle is the model's (log entry 122). -/
def Obligations.StepRunsTheDecodedInstruction : Prop :=
  ∀ (s : State) (t k : Nat) (l : List Instr) (th : Thread) (ws : List Word) (is : List (Nat × Instr)),
    s.sched = .issueCycle t :: l →
    (isKs t = true ∨ (isSite t = true ∧ getD false (bayOf t) s.gated = false)) →
    let u := tick { s with sched := l } t
    let y := yielded { s with sched := l } t
    let v := updCore (passedOver (readyOn u t) k u) t (fun c => { c with last := put (issueLevel th) (slotOf k) c.last })
    suppressed u t = false → selected (coreAt u t) (readyOn u t) = some (k, th, .go) →
    ((coreAt u t).cyc < (coreAt u t).portFree → holdsL u k th = false) → fetchStalls u k th = none →
    nextBundle v k th = some (ws, .ok is) → is ≠ [] →
    let f := noteAhead (fetchFound v k th ws.length (is.any (fun e => snapshots e.2))) th (bundlePas k th ws.length)
    let o := yieldsOver y (openWords f k th ws is none (keep v k th is) (some (threadsOn (yieldsOver y u) t, (coreAt u t).last)))
    let o := { o with issue := { o.issue with todo := [] } }
    let run (x : State) (e : Nat × Instr) : Result := exec e.2 { x with issue := { x.issue with src := th.regs, idx := e.1, flow := .go } }
    let ends (e : Nat × Instr) (fl : Flow) : Bool := match run o e with
      | .next r => r.issue.flow == fl
      | _ => false
    let wants (e : Nat × Instr) : Bool := match run o e with
      | .next r => (threadAt r k).any (fun x => x.status == .waiting .operand)
      | _ => false
    let control (e : Nat × Instr) : Bool := wordCls (nth 0 ws e.1) == 5
    let through (m : List (Nat × Instr)) (c : Nat → State) : Prop :=
      c 0 = o ∧ ∀ j e, m[j]? = some e → run (c j) e = .next (c (j + 1))
    let closed (r : State) : Result := .next { r with issue := Issue.none }
    let order := is.filter (fun e => !control e) ++ is.filter control
    let waits := is.filter (fun e => ends e .wait)
    let unchecked (e : Nat × Instr) : Prop := isMultiply e.2 = false ∧ ∃ x ∈ waits, x.1 < e.1 ∧ checks x.2 = true
    (∀ e r, is.find? wants = some e → run o e = .next r → step s = closed r) ∧
    ((∀ e ∈ is, wants e = false) →
      (∀ a e b r, is = a ++ e :: b → run o e = .next r → r.issue.flow = .freeze →
        (if isMultiply e.2 then ∀ x ∈ a, isMultiply x.2 = true → ends x .freeze = false
          else (∀ x ∈ a, ends x .freeze = false) ∧ ∀ x ∈ is, isMultiply x.2 = true → ends x .freeze = false) →
        (¬unchecked e → step s = closed r) ∧
        (unchecked e → ∀ c, through waits c → step s = closed (c waits.length))) ∧
      ((∀ e ∈ is, ends e .freeze = false) → waits ≠ [] → ∀ c, through waits c → step s = closed (c waits.length)) ∧
      ((∀ e ∈ is, ends e .go = true) → ∀ c, through order c → (∀ j, 0 < j → j ≤ order.length → (c j).issue.flow = .go) →
        step s = closed (committed (c order.length) k th.uid)))

/-- R136 to R154, R462 to R464: decoding the words of a well-formed syllable gives it back, with every operand. -/
def Obligations.DecodeOfEncode : Prop :=
  ∀ i : Instr, i.wf = true → encodeSyl i ≠ none → decodeWords (encode i) = some i

/-- R136 to R154: words written out from the encoding tables decode to what they stand for, at least one of each class and of each
format F0 to F7, and one with its X syllable; some are the words that the spec's entries give. A word whose class and opcode no opcode
map assigns, among them every word of class 7 and every X syllable that starts a bundle, decodes neither alone nor before another. -/
def Obligations.SpecWordsDecode : Prop :=
  decodeWords [0x80001851C0050000] = some (.add 0 .i32 6 5 7) ∧
  decodeWords [0x80C01851C0050000] = some (.sra 0 .i32 6 5 7) ∧
  decodeWords [0x8100184140200000] = some (.sel 0 6 2 4 5) ∧
  decodeWords [0x814018500023C700] = some (.bfx 0 .i64 6 5 60 8) ∧
  decodeWords [0x83000C1080000000] = some (.pand 0 3 1 2) ∧
  decodeWords [0x90200C10800C0000] = some (.vmul 0 .f32 .dyn 3 1 2) ∧
  decodeWords [0xB090004000400000] = some (.pref 0 4 0 ⟨0x400, none⟩) ∧
  decodeWords [0xB1002841800106A0] = some (.amo 0 .add .u64 .wafer .rel 10 4 ⟨0x10, none⟩ 6) ∧
  decodeWords [0xB0700C4080000400] = some (.binapp 0 .u32 3 4 2 ⟨0, none⟩) ∧
  decodeWords [0xD10000000002A000] = some (.trap 0 0x2A) ∧
  decodeWords [0xD080000000000000] = some (.yieldC 0) ∧
  decodeWords [0xD060000000000000] = some (.nop 0) ∧
  decodeWords [0xA000304C00000100] = some (.mma 0 .e4m3 .dyn 3 2 1 2) ∧
  decodeWords [0xA05000A000DFF000] = some (.mshape 0 5 6 0xFF8) ∧
  decodeWords [0xC00028C340A00000] = some (.pub 0 .wafer true 5 12 13) ∧
  decodeWords [0xC110000000400005] = some (.bar 0 5) ∧
  decodeWords [0xC08035C1061EC000] = some (.strm 0 .ob1 true true .wafer true true false .dyn .u8 7 3 4 3) ∧
  decodeWords [0xC0B0240240000000] = some (.gset 0 2 .n3 9) ∧
  decodeWords [0xD000FFFFFFE00000] = some (.br 0 0xFFFFFFE) ∧
  decodeWords [0xD010000000500D00] = some (.brp 0 .all 3 5) ∧
  decodeWords [0x0110100123456000, 0xE00000ABCDEF0123] = some (.limm 0 4 ⟨0x123456, some 0xABCDEF0123⟩) ∧
  ∀ w : BitVec 64,
    let op := (w.extractLsb' 52 8).toNat
    let assigned : Bool := match (w.extractLsb' 60 3).toNat with
      | 0 => decide (op ≤ 0x15) || decide (0x20 ≤ op ∧ op ≤ 0x27) || decide (0x30 ≤ op ∧ op ≤ 0x36) || decide (0x40 ≤ op ∧ op ≤ 0x4F)
      | 1 => decide (op ≤ 0x24)
      | 2 => decide (op ≤ 0x05)
      | 3 => decide (op ≤ 0x0A) || decide (op = 0x10 ∨ op = 0x11)
      | 4 => decide (op ≤ 0x04) || decide (0x08 ≤ op ∧ op ≤ 0x0B) || decide (0x10 ≤ op ∧ op ≤ 0x12)
      | 5 => decide (op ≤ 0x08) || decide (0x10 ≤ op ∧ op ≤ 0x1A)
      | _ => false
    assigned = false → decodeWords [w] = none ∧ ∀ x, decodeWords [w, x] = none

/-- R229, R261: whatever state a step begins in, where memory and the poison bits are in canonical form it leaves them so.
The form is the model's (log entry 3); it says that equal memories are equal data. -/
def Obligations.StepKeepsMemoryForm : Prop :=
  ∀ s t : State, s.inv = true → step s = .next t → t.inv = true

/-- R229: the state after reset has memory and poison bits in canonical form, which is the model's (log entry 3). -/
def Obligations.ResetHasMemoryForm : Prop := State.reset.inv = true

/-- R107, R112: no step of the machine refuses, whatever state it begins in and whatever the schedule names; the one fault is that
of a syllable without a thread. -/
def Obligations.StepNeverRefuses : Prop :=
  ∀ s : State, (∃ t, step s = .next t) ∨ step s = .fault .noThread

/-! Scalar integers. -/

/-- R371, R424, R433, R449: ADD, SUB and MUL, in both forms, leave the sum, difference and product modulo 2^w, extended under R174,
with the poison of their register sources, and change nothing else; MIN and MAX order by the sign of the type, and MULH keeps the
upper half of the exact product, rounded toward minus infinity. -/
def Obligations.IntegerArithmetic : Prop :=
  Member 0x00 .add .addImmediate (fun _ x y => x + y) ∧ Member 0x01 .sub .subImmediate (fun _ x y => x - y) ∧
  Member 0x02 .mul .mulImmediate (fun _ x y => x * y) ∧
  Member 0x0D .minS .minSImmediate (fun ty x y => if valueOf ty y < valueOf ty x then y else x) ∧
  Member 0x0E .maxS .maxSImmediate (fun ty x y => if valueOf ty x < valueOf ty y then y else x) ∧
  Member 0x03 .mulh .mulhImmediate (fun ty x y => BitVec.ofInt ty.bits (Int.fdiv (valueOf ty x * valueOf ty y) (2 ^ ty.bits)))

/-- R371, R375, R424, R437, R520: AND, OR, XOR and ANDN act on the patterns. -/
def Obligations.BitwiseForms : Prop :=
  Member 0x06 .andS .andSImmediate (fun _ x y => x &&& y) ∧ Member 0x07 .orS .orSImmediate (fun _ x y => x ||| y) ∧
  Member 0x08 .xor .xorImmediate (fun _ x y => x ^^^ y) ∧ Member 0x09 .andn .andnImmediate (fun _ x y => x &&& ~~~y)

/-- R449, R456, R461: SHL, SHR and SRA shift by the count modulo the width; SRA reads the pattern as signed whatever the sign
of the type. -/
def Obligations.Shifts : Prop :=
  Member 0x0A .shl .shlImmediate (fun _ x y => x <<< countOf y) ∧ Member 0x0B .shr .shrImmediate (fun _ x y => x >>> countOf y) ∧
  Member 0x0C .sra .sraImmediate (fun _ x y => x.sshiftRight (countOf y))

/-- R396, R449: DIV and REM: a zero divisor gives all ones and the dividend, the one overflow gives the dividend and 0, and any
other quotient is rounded toward zero; together they satisfy x = y·q + r modulo 2^w. -/
def Obligations.DivideAndRemainder : Prop :=
  let least (ty : Ty) (x y : BitVec ty.bits) : Bool := ty.signed && x == BitVec.intMin ty.bits && y == BitVec.allOnes ty.bits
  let q (ty : Ty) (x y : BitVec ty.bits) : BitVec ty.bits :=
    if y = 0 then BitVec.allOnes ty.bits else if least ty x y then x else if ty.signed then x.sdiv y else x / y
  let r (ty : Ty) (x y : BitVec ty.bits) : BitVec ty.bits :=
    if y = 0 then x else if least ty x y then 0 else if ty.signed then x.srem y else x % y
  Member 0x04 .divS .divSImmediate q ∧ Member 0x05 .rem .remImmediate r ∧
  ∀ (ty : Ty) (x y : BitVec ty.bits), ty.isInt = true → x = y * q ty x y + r ty x y

/-- R392, R422, R455: CMP writes all ones or all zeros by the condition, in both forms, and sets no flag; SEL moves 64 bits and
the shadow bit of the source selected; LIMM writes its immediate, clean. Each leaves everything else as it was. -/
def Obligations.CompareSelectLimm : Prop :=
  (∀ (s : State) (th : Thread) (g : PReg) (ty : Ty) (c : Cond) (d : PReg) (a b : SReg), Runs s th g → ty.isInt = true →
    exec (.cmp g ty c d a b) s = .next (putP s d (if intCond c (valueOf ty (narrow ty (rdS s a).val))
      (valueOf ty (narrow ty (rdS s b).val)) then BitVec.allOnes 64 else 0))) ∧
  (∀ (s : State) (th : Thread) (g : PReg) (ty : Ty) (c : Cond) (d : PReg) (a : SReg) (v : Imm), Runs s th g → ty.isInt = true →
    exec (.cmpImmediate g ty c d a v) s = .next (putP s d (if intCond c (valueOf ty (narrow ty (rdS s a).val))
      (valueOf ty (narrow ty v.value)) then BitVec.allOnes 64 else 0))) ∧
  (∀ (s : State) (th : Thread) (g q : PReg) (d a b : SReg), Runs s th g →
    exec (.sel g d q a b) s = .next (putS s d (if (rdP s q).getLsbD 0 then rdS s a else rdS s b).val
      (if (rdP s q).getLsbD 0 then rdS s a else rdS s b).poison)) ∧
  (∀ (s : State) (th : Thread) (g : PReg) (d : SReg) (lo : BitVec 24) (x : BitVec 40), Runs s th g →
    exec (.limm g d ⟨lo, none⟩) s = .next (putS s d (lo.signExtend 64) false) ∧
    exec (.limm g d ⟨lo, some x⟩) s = .next (putS s d (x ++ lo) false))

/-- R385, R391, R440: CLZ and POPC count over the low w bits, whatever the sign of the type; BFX extracts a field, sign-extended
for `.i64` when it is shorter than 64 bits, and BFI inserts one into the old destination. -/
def Obligations.BitCountsAndFields : Prop :=
  (∀ (s : State) (th : Thread) (g : PReg) (ty : Ty) (d a : SReg), Runs s th g → ty.isInt = true →
    (∃ n : Nat, exec (.clz g ty d a) s = .next (putS s d (BitVec.ofNat 64 n) (rdS s a).poison) ∧ n ≤ ty.bits ∧
      (∀ i, ty.bits - n ≤ i → i < ty.bits → (rdS s a).val.getLsbD i = false) ∧
      (n < ty.bits → (rdS s a).val.getLsbD (ty.bits - 1 - n) = true)) ∧
    exec (.popc g ty d a) s = .next (putS s d (BitVec.ofNat 64
      ((List.range ty.bits).countP (fun i => (rdS s a).val.getLsbD i))) (rdS s a).poison)) ∧
  (∀ (s : State) (th : Thread) (g : PReg) (ty : Ty) (d a : SReg) (pos len : BitVec 6), Runs s th g → (ty = .u64 ∨ ty = .i64) →
    ∃ v : Word, exec (.bfx g ty d a pos len) s = .next (putS s d v (rdS s a).poison) ∧
      ∀ i, i < 64 → v.getLsbD i =
        if i < fieldLen len then (decide (pos.toNat + i < 64) && (rdS s a).val.getLsbD (pos.toNat + i))
        else ty.signed && decide (pos.toNat + fieldLen len ≤ 64) && (rdS s a).val.getLsbD (pos.toNat + fieldLen len - 1)) ∧
  (∀ (s : State) (th : Thread) (g : PReg) (ty : Ty) (d a : SReg) (pos len : BitVec 6), Runs s th g →
    ∃ v : Word, exec (.bfi g ty d a pos len) s = .next (putS s d v ((rdS s a).poison || (rdS s d).poison)) ∧
      ∀ i, i < 64 → v.getLsbD i =
        if pos.toNat ≤ i ∧ i < pos.toNat + fieldLen len then (rdS s a).val.getLsbD (i - pos.toNat) else (rdS s d).val.getLsbD i)

/-- R438, R439: the predicate operations: AND, OR, XOR, NOT, the lowest set bit, the moves between predicates and scalars, and
the count. A write of p0 is discarded by `Regs.wrP`. -/
def Obligations.PredicateOperations : Prop :=
  ∀ (s : State) (th : Thread) (g p q d : PReg) (x y : SReg), Runs s th g →
    exec (.pand g d p q) s = .next (putP s d (rdP s p &&& rdP s q)) ∧
    exec (.por g d p q) s = .next (putP s d (rdP s p ||| rdP s q)) ∧
    exec (.pxor g d p q) s = .next (putP s d (rdP s p ^^^ rdP s q)) ∧
    exec (.pnot g d p) s = .next (putP s d (~~~(rdP s p))) ∧
    exec (.pmov g d p) s = .next (putP s d (rdP s p)) ∧
    exec (.pmovFromScalar g d x) s = .next (putP s d (rdS s x).val) ∧
    exec (.pmovToScalar g y p) s = .next (putS s y (rdP s p) false) ∧
    exec (.pcnt g y p) s = .next (putS s y (BitVec.ofNat 64 ((List.range 64).countP (fun i => (rdP s p).getLsbD i))) false) ∧
    ∃ v, exec (.pfirst g d p) s = .next (putP s d v) ∧
      ∀ i, i < 64 → v.getLsbD i = ((rdP s p).getLsbD i && decide (∀ j, j < i → (rdP s p).getLsbD j = false))

/-- R115: s0 and p0 read zero and all ones, and discard writes; any other register reads what was written last. -/
def Obligations.RegistersReadBack : Prop :=
  (∀ (r : Regs) (n m : SReg) (x : SVal), (r.wrS n x).rdS m = if m = 0 then SVal.zero else if m = n then x else r.rdS m) ∧
  (∀ (r : Regs) (n m : PReg) (x : Word), (r.wrP n x).rdP m = if m = 0 then BitVec.allOnes 64 else if m = n then x else r.rdP m) ∧
  (∀ (r : Regs) (n m : VReg) (x : Vec), (r.wrV n x).rdV m = if m = n then x else r.rdV m) ∧
  (∀ (r : Regs) (n m : ShReg) (x : Shape), (r.wrSh n x).rdSh m = if m = n then x else r.rdSh m) ∧
  (∀ (r : Regs) (n m : GReg) (x : BitVec 256), (r.wrG n x).rdG m = if m = n then x else r.rdG m)

/-! Guards and frames. -/

/-- R114: a syllable whose guard is false has no effect and raises no fault: for S, M, N and C syllables and for L syllables on
scalar registers, where bit 0 of the guard is 0; for V syllables and L syllables on vector registers, where no lane is enabled. -/
def Obligations.FalseGuardDoesNothing : Prop :=
  ∀ (i : Instr) (e : Syl) (s : State) (th : Thread), encodeSyl i = some e → issuer s = some th →
    (byLanes i = true → rdP s e.g = 0) → (byLanes i = false → (rdP s e.g).getLsbD 0 = false) → exec i s = .next s

/-- R112, R115, R127, R371, R439, R476: the frame of every S and V syllable that goes on: it changes registers of its own
thread, its flags and its random-bit queue, and nothing else of the machine: no byte of memory, no poison bit, no other thread,
no pc; of the registers only those that its encoding names as written; the flags only grow, by those that it raises; the queue
only where it draws. VCBD alone, where it reads the writable table, may also find an uncorrectable word, and poisons its line (R261,
R479). -/
def Obligations.RegisterSyllablesKeepTheRest : Prop :=
  ∀ (i : Instr) (s t : State) (th : Thread), onRegisters i = true → issuer s = some th → s.issue.flow = .go →
    exec i s = .next t → t.issue.flow = .go →
    t = { s with threads := t.threads, poison := t.poison, struck := t.struck,
                 issue := { s.issue with flags := t.issue.flags, drawn := t.issue.drawn } } ∧
    (∀ pa, readByte t pa = readByte s pa) ∧
    ((∀ g d a b, i ≠ .vcbd g true d a b) → t.poison = s.poison ∧ t.struck = s.struck) ∧
    (∀ pa, linePoison s pa = true → linePoison t pa = true) ∧
    (∀ pa, linePoison t pa = true → linePoison s pa = true ∨ isStruck s (.line (pa / 64)) = true) ∧
    (∀ k, k ≠ s.issue.key → threadAt t k = threadAt s k) ∧
    ∃ r, issuer t = some { th with regs := r } ∧ KeepsBut (writesOf i) th.regs r ∧
      (∃ f, r.fflags = th.regs.fflags ||| f ∧ t.issue.flags = s.issue.flags ||| f) ∧
      (t.issue.drawn = s.issue.drawn → r.rng = th.regs.rng)

/-! Floating point. -/

/-- R400, R405 to R407, R410, R401, R403: FADD, FSUB and FMUL round the exact result once, FFMA the exact product and sum;
FMIN and FMAX pick a source, FCMP writes a predicate with its flags, and FCVT converts. -/
def Obligations.ScalarFloat : Prop :=
  FloatMember .fadd fAdd ∧ FloatMember .fsub fSub ∧ FloatMember .fmul fMul ∧
  (∀ (s : State) (th : Thread) (g : PReg) (ty : Ty) (rm : Rm) (d a b c : SReg), Runs s th g → tyIn 0x1C00 ty.code = true →
    let m := modeOf s rm
    let r := fFma (tyFmt ty) m (rngLane (draw s m).2 0) (lowBits ty (rdS s a)) (lowBits ty (rdS s b)) (lowBits ty (rdS s c))
    ∃ t, exec (.ffma g ty rm d a b c) s = .next t ∧ Rounded s m r.flags (fun x => x.wrS d ⟨BitVec.ofNat 64 (r.bits % 2 ^ ty.bits),
      (rdS s a).poison || (rdS s b).poison || (rdS s c).poison || r.poison⟩) t) ∧
  (∀ (s : State) (th : Thread) (g : PReg) (ty : Ty) (c : Cond) (d a b : SReg) (p : PReg), Runs s th g →
    tyIn 0x1C00 ty.code = true →
    let x := lowBits ty (rdS s a)
    let y := lowBits ty (rdS s b)
    let bad := (rdS s a).poison || (rdS s b).poison
    exec (.fmin g ty d a b) s = .next (putS s d (BitVec.ofNat 64 (fMinMax (tyFmt ty) false x y % 2 ^ ty.bits)) bad) ∧
    exec (.fmax g ty d a b) s = .next (putS s d (BitVec.ofNat 64 (fMinMax (tyFmt ty) true x y % 2 ^ ty.bits)) bad) ∧
    exec (.fcmp g ty c p a b) s = .next (putP (raise s (fCmp (tyFmt ty) c x y).2) p
      (if (fCmp (tyFmt ty) c x y).1 then BitVec.allOnes 64 else 0))) ∧
  (∀ (s : State) (th : Thread) (g : PReg) (ty src : Ty) (rm : Rm) (fin sat : Bool) (d a : SReg), Runs s th g →
    let m := if ty.isInt && src.isInt then Mode.rne else modeOf s rm
    let r := convert ty src (modeOf s rm) (rngLane (draw s m).2 0) fin sat (lowBits src (rdS s a))
    ∃ t, exec (.fcvt g ty src rm fin sat d a) s = .next t ∧
      Rounded s m r.flags (fun x => x.wrS d ⟨BitVec.ofNat 64 (extend ty 64 r.bits), (rdS s a).poison || r.poison⟩) t)

/-- R182, R400, R405, R406: special values, in every format and mode: a NaN operand of a sum or product gives the canonical NaN
and no flag; opposite infinities added, and zero times an infinity, give it with nv; FMIN and FMAX pass over a single NaN; sums
and products do not depend on the order of their operands. -/
def Obligations.FloatSpecialValues : Prop :=
  ∀ (ty : Ty) (m : Mode) (u x y z : Nat), tyIn 0x1C00 ty.code = true →
    let f := tyFmt ty
    (f.value x = .nan ∨ f.value y = .nan → fAdd f m u x y = ⟨f.nan, 0, false⟩ ∧ fSub f m u x y = ⟨f.nan, 0, false⟩ ∧
      fMul f m u x y = ⟨f.nan, 0, false⟩) ∧
    (∀ neg, f.value x = .inf neg → f.value y = .inf (!neg) → fAdd f m u x y = ⟨f.nan, flagNv, false⟩) ∧
    (∀ neg, f.value x = .inf neg → f.value y = .inf neg → fSub f m u x y = ⟨f.nan, flagNv, false⟩) ∧
    (∀ neg sgn e, f.value x = .inf neg → f.value y = .num sgn 0 e → fMul f m u x y = ⟨f.nan, flagNv, false⟩ ∧
      fFma f m u x y z = ⟨f.nan, flagNv, false⟩) ∧
    (f.value x = .nan → f.value y ≠ .nan → fMinMax f true x y = y ∧ fMinMax f false x y = y ∧ fMinMax f true y x = y ∧
      fMinMax f false y x = y) ∧
    fAdd f m u x y = fAdd f m u y x ∧ fMul f m u x y = fMul f m u y x

/-! Vectors. -/

/-- R476, R500, R515, R519: the integer members of the vector lane mould, lane by lane, with 8, 16 or 32 bits. -/
def Obligations.VectorIntegerLanes : Prop :=
  (∀ rm, LaneMember (fun g ty d a b => .vadd g ty rm d a b) (fun _ x y => x + y)) ∧
  (∀ rm, LaneMember (fun g ty d a b => .vsub g ty rm d a b) (fun _ x y => x - y)) ∧
  (∀ rm, LaneMember (fun g ty d a b => .vmul g ty rm d a b) (fun _ x y => x * y)) ∧
  LaneMember .vmulh (fun ty x y => BitVec.ofInt ty.bits (Int.fdiv (valueOf ty x * valueOf ty y) (2 ^ ty.bits))) ∧
  LaneMember .vmin (fun ty x y => if valueOf ty y < valueOf ty x then y else x) ∧
  LaneMember .vmax (fun ty x y => if valueOf ty x < valueOf ty y then y else x) ∧
  LaneMember .vand (fun _ x y => x &&& y) ∧ LaneMember .vor (fun _ x y => x ||| y) ∧ LaneMember .vxor (fun _ x y => x ^^^ y) ∧
  LaneMember .vshl (fun _ x y => x <<< countOf y) ∧ LaneMember .vshr (fun _ x y => x >>> countOf y) ∧
  LaneMember .vsra (fun _ x y => x.sshiftRight (countOf y))

/-- R476, R481, R490, R500: VABS and VNEG on integers and on floats, where the sign is cleared or inverted, a NaN gives the canonical
NaN, and no flag is raised; VFMA on integers (x·y + z modulo 2^w), VMIN and VMAX on floats, and the class of VCLASS; and VCMP, whose
bits for disabled lanes stay as they were. -/
def Obligations.VectorUnaryAndCompare : Prop :=
  (∀ (s : State) (th : Thread) (g : PReg) (ty : Ty) (d a : VReg), RunsV s th g → ty.isInt = true → ty.bits ≤ 32 →
    let x (i : Nat) : BitVec ty.bits := ((rdV s a).lane i).val.setWidth ty.bits
    LanesOf s g d (.vabs g ty d a) (fun i => ⟨widenLane ty (if ty.signed && (x i).msb then -(x i) else x i), ((rdV s a).lane i).poison⟩) ∧
    LanesOf s g d (.vneg g ty d a) (fun i => ⟨widenLane ty (-(x i)), ((rdV s a).lane i).poison⟩)) ∧
  (∀ (s : State) (th : Thread) (g : PReg) (ty : Ty) (rm : Rm) (d a b c : VReg), RunsV s th g → ty.isInt = true → ty.bits ≤ 32 →
    let x (r : VReg) (i : Nat) : BitVec ty.bits := ((rdV s r).lane i).val.setWidth ty.bits
    LanesOf s g d (.vfma g ty rm d a b c) (fun i => ⟨widenLane ty (x a i * x b i + x c i),
      ((rdV s a).lane i).poison || ((rdV s b).lane i).poison || ((rdV s c).lane i).poison⟩)) ∧
  (∀ (s : State) (th : Thread) (g : PReg) (ty : Ty) (d a b : VReg), RunsV s th g → tyIn 0x1C00 ty.code = true →
    let x (r : VReg) (i : Nat) := laneBits ty ((rdV s r).lane i)
    let bad (i : Nat) := ((rdV s a).lane i).poison || ((rdV s b).lane i).poison
    LanesOf s g d (.vmin g ty d a b) (fun i => ⟨BitVec.ofNat 32 (fMinMax (tyFmt ty) false (x a i) (x b i)), bad i⟩) ∧
    LanesOf s g d (.vmax g ty d a b) (fun i => ⟨BitVec.ofNat 32 (fMinMax (tyFmt ty) true (x a i) (x b i)), bad i⟩) ∧
    LanesOf s g d (.vclass g ty d a) (fun i => ⟨BitVec.ofNat 32 (classify (tyFmt ty) (x a i)), ((rdV s a).lane i).poison⟩) ∧
    LanesOf s g d (.vabs g ty d a) (fun i => ⟨BitVec.ofNat 32 (if (tyFmt ty).value (x a i) = .nan then (tyFmt ty).nan
      else x a i % 2 ^ (ty.bits - 1)), ((rdV s a).lane i).poison⟩) ∧
    LanesOf s g d (.vneg g ty d a) (fun i => ⟨BitVec.ofNat 32 (if (tyFmt ty).value (x a i) = .nan then (tyFmt ty).nan
      else (x a i + 2 ^ (ty.bits - 1)) % 2 ^ ty.bits), ((rdV s a).lane i).poison⟩) ∧
    ∀ (c : Cond) (p : PReg), ∃ t w, exec (.vcmp g ty c p a b) s = .next t ∧
      t = putP (raise s (orFlags ((lanesOn (rdP s g)).map (fun i => (fCmp (tyFmt ty) c (x a i) (x b i)).2)))) p w ∧
      ∀ i, i < 64 → w.getLsbD i = if (rdP s g).getLsbD i then (fCmp (tyFmt ty) c (x a i) (x b i)).1 else (rdP s p).getLsbD i) ∧
  (∀ (s : State) (th : Thread) (g p : PReg) (ty : Ty) (c : Cond) (a b : VReg), RunsV s th g → ty.isInt = true → ty.bits ≤ 32 →
    let x (r : VReg) (i : Nat) : BitVec ty.bits := ((rdV s r).lane i).val.setWidth ty.bits
    ∃ w, exec (.vcmp g ty c p a b) s = .next (putP s p w) ∧ ∀ i, i < 64 → w.getLsbD i =
      if (rdP s g).getLsbD i then intCond c (valueOf ty (x a i)) (valueOf ty (x b i)) else (rdP s p).getLsbD i)

/-- R476, R486, R487, R490, R500: the lanes that round: VADD, VSUB, VMUL, VFMA, and the four elementwise functions. -/
def Obligations.VectorFloatLanes : Prop :=
  LaneFloat .vadd fAdd ∧ LaneFloat .vsub fSub ∧ LaneFloat .vmul fMul ∧
  LaneElementary .vrcp .rcp ∧ LaneElementary .vrsq .rsq ∧ LaneElementary .vexp2 .exp2 ∧ LaneElementary .vlog2 .log2 ∧
  ∀ (s : State) (th : Thread) (g : PReg) (ty : Ty) (rm : Rm) (d a b c : VReg), RunsV s th g → tyIn 0x1C00 ty.code = true →
    let m := modeOf s rm
    let x (r : VReg) (i : Nat) := (rdV s r).lane i
    let r (i : Nat) := fFma (tyFmt ty) m (rngLane (draw s m).2 i) (laneBits ty (x a i)) (laneBits ty (x b i)) (laneBits ty (x c i))
    ∃ t v, exec (.vfma g ty rm d a b c) s = .next t ∧
      Rounded s m (orFlags ((lanesOn (rdP s g)).map (fun i => (r i).flags))) (fun q => q.wrV d v) t ∧
      LanesAre (rdP s g) (rdV s d) (fun i => ⟨BitVec.ofNat 32 ((r i).bits % 2 ^ ty.bits),
        (x a i).poison || (x b i).poison || (x c i).poison || (r i).poison⟩) v

/-- R174, R175, R477, R482, R489, R497, R500, R503, R514: the syllables that move lanes. VCOMP packs the selected lanes into the enabled
ones' positions, with zeros after them; VINS and VEXT act where the lane that they name is enabled, and change nothing where it
is not. VMOV, VBCAST, VIOTA, VEXT and VINS move w bits, extended by their type; that they keep 20 bits for .s20 too is the model's
reading (DEDUCED, log entry 73). -/
def Obligations.VectorMoves : Prop :=
  ∀ (s : State) (th : Thread) (g q : PReg) (ty : Ty) (d a b : VReg) (x y z : SReg), RunsV s th g →
    let la (i : Nat) := (rdV s a).lane i
    let lb (i : Nat) := (rdV s b).lane i
    let j := (rdS s y).val.toNat % 64
    LanesOf s g d (.vsel g d q a b) (fun i => if (rdP s q).getLsbD i then la i else lb i) ∧
    LanesOf s g d (.vperm g d a b) (fun i => ⟨(la ((lb i).val.toNat % 64)).val, (la ((lb i).val.toNat % 64)).poison || (lb i).poison⟩) ∧
    LanesOf s g d (.vcomp g d q a) (fun i => nth Lane.zero (((List.range 64).filter (fun k => (rdP s q).getLsbD k)).map la) i) ∧
    (ty.bits ≤ 32 →
      LanesOf s g d (.vmov g ty d a) (fun i => ⟨widenLane ty ((la i).val.setWidth ty.bits), (la i).poison⟩) ∧
      LanesOf s g d (.vbcast g ty d x) (fun _ => ⟨widenLane ty (narrow ty (rdS s x).val), (rdS s x).poison⟩) ∧
      LanesOf s g d (.viota g ty d x) (fun i => ⟨widenLane ty (narrow ty ((rdS s x).val + BitVec.ofNat 64 i)), false⟩) ∧
      ((rdP s g).getLsbD j = true →
        exec (.vext g ty z a y) s = .next (putS s z (widen ty ((la j).val.setWidth ty.bits)) ((la j).poison || (rdS s y).poison)) ∧
        exec (.vins g ty d x y) s = .next (putV s d (setNth ⟨widenLane ty (narrow ty (rdS s x).val),
          (rdS s x).poison || (rdS s y).poison⟩ (rdV s d) j))) ∧
      ((rdP s g).getLsbD j = false → exec (.vext g ty z a y) s = .next s ∧ exec (.vins g ty d x y) s = .next s))

/-- R508, R509: VRED and VSCAN complete on every operand: they combine the enabled lanes strictly in ascending order, from the
first lane canonicalised by one rounded step for each further lane. VRED writes the last value, with the poison of every lane that
it combined; VSCAN writes every enabled lane with the value up to it and leaves the others; both raise the flags of the steps. -/
def Obligations.VectorReduce : Prop :=
  ∀ (s : State) (th : Thread) (g : PReg) (ty : Ty) (op : Red) (rm : Rm) (d : SReg) (v a : VReg), RunsV s th g →
    let m := modeOf s rm
    let e := (draw s (if redDraws ty op then m else .rne))
    let on := lanesOn (rdP s g)
    let l := redRun ty op m e.2 (rdV s a) on none
    let u := raise e.1 (orFlags (l.map (fun x => x.2.2.2)))
    let last := l.getLast?.getD (0, 0, false, 0)
    exec (.vred g ty op rm d a) s = .next (putS u d (BitVec.ofNat 64 (extend ty 64 last.2.1)) last.2.2.1) ∧
    (∃ q, exec (.vscan g ty op rm v a) s = .next (putV u v q) ∧
      (∀ x ∈ l, x.1 < (rdV s v).length → q.lane x.1 = ⟨BitVec.ofNat 32 (extend ty 32 x.2.1), x.2.2.1⟩) ∧
      ∀ i, (rdP s g).getLsbD i = false → q.lane i = (rdV s v).lane i) ∧
    l.map (fun x => x.1) = on ∧ l ≠ [] ∧
    (∀ i, on[0]? = some i → l[0]? = some (i, canonNan ty (laneBits ty ((rdV s a).lane i)), ((rdV s a).lane i).poison, 0)) ∧
    ∀ n x j, l[n]? = some x → on[n + 1]? = some j →
      let r := redStep ty op m (rngLane e.2 j) x.2.1 (laneBits ty ((rdV s a).lane j))
      l[n + 1]? = some (j, canonNan ty r.bits, x.2.2.1 || ((rdV s a).lane j).poison, r.flags)

/-- R484, R502, R504 to R506, R478, R483, R518: the converting vector syllables. VCVT converts lane by lane; VDQNT multiplies by the
scale of its half; VPACK packs 128 converted elements; VUNPK spreads half a vector; VCBD writes the weights of the default table, or of
the writable one (R180) once no earlier access of the thread to it is left; that it also waits in place for an acquire in flight that its
read of the table follows (R271) is the model's reading (DEDUCED, log entry 94). VQNT writes the elements and the two scales. -/
def Obligations.VectorConversions : Prop :=
  ∀ (s : State) (th : Thread) (g : PReg) (ty src : Ty) (rm : Rm) (fin sat hi : Bool) (d c a b : VReg), RunsV s th g →
    let m := modeOf s rm
    let la (i : Nat) := (rdV s a).lane i
    let lb (i : Nat) := (rdV s b).lane i
    let on := lanesOn (rdP s g)
    let w := if ty.isInt && src.isInt then Mode.rne else m
    (let r (i : Nat) := convert ty src m (rngLane (draw s w).2 i) fin sat (laneBits src (la i))
     ∃ t v, exec (.vcvt g ty src rm fin sat d a) s = .next t ∧
      Rounded s w (orFlags (on.map (fun i => (r i).flags))) (fun q => q.wrV d v) t ∧
      LanesAre (rdP s g) (rdV s d) (fun i => ⟨BitVec.ofNat 32 (extend ty 32 (r i).bits), (la i).poison || (r i).poison⟩) v) ∧
    (let r (i : Nat) := dequantise ty (lb (i / 32)).val.toNat (laneBits ty (la i))
     ∃ v, exec (.vdqnt g ty d a b) s = .next (setRegs (raise s (orFlags (on.map (fun i => (r i).flags)))) (fun q => q.wrV d v)) ∧
      LanesAre (rdP s g) (rdV s d) (fun i => ⟨BitVec.ofNat 32 ((r i).bits % 2 ^ 32), (la i).poison || (lb (i / 32)).poison || (r i).poison⟩) v) ∧
    (let x (k : Nat) := if k < 64 then la k else lb (k - 64)
     let r (k : Nat) := convert ty src m (packBits (draw s w).2 k) fin sat (laneBits src (x k))
     let n := 32 / ty.bits
     (ty.bits = 8 ∨ ty.bits = 16) →
     ∃ t v, exec (.vpack g ty src rm fin sat d a b) s = .next t ∧
      Rounded s w (orFlags ((List.range 128).map (fun k => (r k).flags))) (fun q => q.wrV d v) t ∧ v.length = 64 ∧
      (∀ i, i < 64 → (rdP s g).getLsbD i = false → v.lane i = (rdV s d).lane i) ∧
      (∀ i, i < 64 → (rdP s g).getLsbD i = true → 127 < n * i → v.lane i = Lane.zero) ∧
      (∀ i, i < 64 → (rdP s g).getLsbD i = true → n * i ≤ 127 →
        (∀ j, j < n → (v.lane i).val.toNat / 2 ^ (ty.bits * j) % 2 ^ ty.bits = (r (n * i + j)).bits % 2 ^ ty.bits) ∧
        ((v.lane i).poison = true ↔ ∃ j, j < n ∧ ((x (n * i + j)).poison || (r (n * i + j)).poison) = true))) ∧
    (let n := 32 / src.bits
     let k (i : Nat) := (if hi then 64 else 0) + i
     let x (i : Nat) := (la (k i / n)).val.toNat / 2 ^ (src.bits * (k i % n)) % 2 ^ src.bits
     LanesOf s g d (.vunpk g ty src hi d a) (fun i => ⟨BitVec.ofNat 32 (if src.isInt then extend src 32 (x i)
       else (convert ty src .rne 0 false false (x i)).bits), (la (k i / n)).poison⟩)) ∧
    (∀ wt : Bool,
     let e (i : Nat) := la ((lb i).val.toNat / 8 % 64)
     let at_ (i : Nat) := entryPa s.tile ((e i).val.toNat % 65536 / 256)
     let ent (i : Nat) := if wt then readLe s (at_ i) 2 else defaultEntry ((e i).val.toNat % 65536 / 256)
     let held : Prop := readHeld s th = true ∨ ∃ i ∈ on, accessOver s th.uid (at_ i) 2 = true
     let u := if wt then on.foldl (fun s i => discover s (at_ i) 2) s else s
     (wt = true → held → exec (.vcbd g wt d a b) s = .next (waitFor s .cond)) ∧
     ((wt = true → ¬held) → ∃ v, exec (.vcbd g wt d a b) s = .next (putV u d v) ∧ LanesAre (rdP s g) (rdV s d)
       (fun i => ⟨BitVec.ofNat 32 (weightBits (weightHalves (ent i) ((e i).val.toNat % 65536)
         ((lb i).val.toNat % 8))), (e i).poison || (lb i).poison || (wt && lineBad s (at_ i))⟩) v)) ∧
    (c ≠ d →
      let blk (j : Nat) := on.filter (fun i => i / 32 == j)
      let sc (j : Nat) := blockScale ty ((blk j).map (fun i => (la i).val.toNat))
      let bad (j : Nat) := (blk j).any (fun i => (la i).poison || (fin && (finiteMag (la i).val.toNat).isNone))
      let r (i : Nat) := quantise ty m (rngLane (draw s m).2 i) fin sat (sc (i / 32)) (la i).val.toNat
      ∃ t v z, exec (.vqnt g ty rm fin sat d c a) s = .next t ∧
        Rounded s m (orFlags (on.map (fun i => (r i).flags))) (fun q => (q.wrV d v).wrV c z) t ∧
        LanesAre (rdP s g) (rdV s d) (fun i => ⟨BitVec.ofNat 32 (extend ty 32 (r i).bits), bad (i / 32)⟩) v ∧
        (∀ j, j < 2 → j < (rdV s c).length → z.lane j = if (blk j).isEmpty then (rdV s c).lane j else ⟨BitVec.ofNat 32 (sc j), bad j⟩) ∧
        ∀ i, 2 ≤ i → z.lane i = (rdV s c).lane i)

/-! The matrix unit. -/

/-- R212, R213, R215, R425, R430, R435: MMA, MMACB, MZERO, MRD and MWR enter the matrix queue of their tile in order, with what they read
at issue, and change nothing else; a multiply enters once its shape record passes the checks of R212, with its mode and, in SR,
its entry. Where a check fails, in the order of Table 9.4, it freezes with SHAPE and the auxiliary word of R213, and nothing enters. -/
def Obligations.MatrixSyllablesQueue : Prop :=
  ∀ (s : State) (th : Thread) (g : PReg) (ty : Ty) (rm : Rm) (wt : Bool) (ac : AcReg) (sh : ShReg) (oba obb : ObReg)
    (v : VReg) (b : SReg), Runs s th g →
    let op (kind : MKind) (shape : BitVec 128) (mode : Nat) (e : BitVec 1024) (n : Nat) : MOp :=
      { uid := th.uid, ord := n, kind := kind, ac := ac, shape := shape, mode := mode, entry := e, started := false,
        consumed := false, sums := [], read := [], wrote := [], olds := [] }
    let queued (u : State) (f : Nat → MOp) : State := updCore u s.tile (fun c => { c with mq := c.mq ++ [f c.mqOrd], mqOrd := c.mqOrd + 1 })
    let h := (rdS s b).val.toNat % 16
    let r := s.issue.src.rdSh sh
    let m := rm.mode s.issue.src.rm
    let e := draw s (Mode.ofCode m)
    let t := s.issue.table.getD (tableNow s s.tile)
    exec (.mzero g ac) s = .next (queued s (op .mzero 0 0 0)) ∧
    exec (.mrd g v ac b) s = .next (queued s (op (.mrd v h (rdS s b).poison) 0 0 0)) ∧
    exec (.mwr g ac v b) s = .next (queued s (op (.mwr h (rdV s v) (rdS s b).poison) 0 0 0)) ∧
    (shapeCheck r ty false = none → exec (.mma g ty rm ac sh oba obb) s = .next (queued e.1 (op (.mma ty oba obb) r.bits m e.2))) ∧
    (shapeCheck r ty true = none → exec (.mmacb g ty rm wt ac sh oba obb) s = .next (queued e.1 (op
      (.mmacb ty oba obb (if wt then some t.1 else none) (if wt then t.2 else 0)) r.bits m e.2)) ∧
      (s.issue.table = none → t.1 = readBytes s (entryPa s.tile 0) 512 ∧ t.2 = tablePoison s s.tile)) ∧
    (∀ (cb : Bool) (i : Instr) (why val bnd : Nat), i = (if cb then .mmacb g ty rm wt ac sh oba obb else .mma g ty rm ac sh oba obb) →
      s.issue.idx < 8 → shapeCheck r ty cb = some (why, val, bnd) → ∃ aux : Word, exec i s = .next (freeze s .shape none aux) ∧
        aux.extractLsb' 0 4 = BitVec.ofNat 4 why ∧ aux.extractLsb' 4 4 = 0 ∧ aux.extractLsb' 8 3 = sh ∧ aux.getLsbD 11 = false ∧
        aux.extractLsb' 12 3 = BitVec.ofNat 3 s.issue.idx ∧ aux.getLsbD 15 = false ∧ aux.extractLsb' 16 16 = BitVec.ofNat 16 bnd ∧
        aux.extractLsb' 32 16 = BitVec.ofNat 16 val ∧ aux.extractLsb' 48 16 = 0) ∧
    ∀ cb : Bool,
      let b := r.bits
      let rbnd := (b.extractLsb' 48 8).toNat
      let cbnd := (b.extractLsb' 56 8).toNat
      let kbnd := (b.extractLsb' 64 16).toNat
      let lim := if cb || ty.bits = 8 then 512 else 256
      let table : List (Bool × Nat × Nat × Nat) :=
        [(decide (rbnd < shRows b), 1, shRows b, rbnd), (decide (cbnd < shCols b), 2, shCols b, cbnd), (decide (kbnd < shK b), 3, shK b, kbnd),
         (decide (32 < rbnd), 4, rbnd, 32), (decide (32 < cbnd), 4, cbnd, 32), (decide (32 < shA0 b + rbnd), 4, shA0 b + rbnd, 32),
         (decide (32 < shB0 b + cbnd), 4, shB0 b + cbnd, 32), (decide (lim < kbnd), 5, kbnd, lim),
         (((shSca b || shScb b) && (ty.bits == 16 || shK b % 32 != 0)) || (cb && shK b % 128 != 0), 6, 0, 0), (!r.valid, 7, 0, 0)]
      shapeCheck r ty cb = (table.find? (fun e => e.1)).map (fun e => e.2)

/-- R109, R178, R195, R196, R198, R199, R205, R206, R216 to R219, R221, R227, R260, R425, R430: the steps of the matrix unit, which stands still in a gated
bay. The first operation not yet started starts, when its conditions hold; the started multiply consumes its operands, which fixes its
sums; and the first operation that may read or write a row does so. What a multiply writes is its row value, and MZERO writes zero to
every row; MRD writes its vector register once both its rows are read. The sum of an element without scales is that of R195, and of one
with scales, of MMACB always, that of R196, over B's elements or the weights that its CB2 indices decode to (R178, R206); it is poisoned
where an element or a scale of it is, or a scale is a NaN (R198, R199). Its row value adds it to the old element, and keeps the columns
past cols. Of words that a fill has written
since the operation started, which value it reads is free (log entry 95). -/
def Obligations.MatrixUnitSteps : Prop :=
  (∀ (s : State) (t row : Nat) (o : MOp),
    let c := coreAt s t
    let f := (obMix (findSegs s t o.buffers) t o).2
    let put (p : MOp) := c.mq.map (fun q => if q.ord == o.ord then p else q)
    let got : MOp := { o with read := Sys2Proof.Machine.put row (getD accRow (accKey o.ac.toNat row) c.acc) o.read }
    (asleep s t = true → exec (.matrixOpStart t) s = .next s ∧ exec (.matrixOperandConsume t) s = .next s ∧
      exec (.matrixRowRead t row) s = .next s ∧ exec (.matrixRowWrite t row) s = .next s) ∧
    (asleep s t = false →
    (startable c = some o → MOp.ended { o with started := true } = false →
      ∃ u, exec (.matrixOpStart t) s = .next u ∧ (coreAt u t).mq = put { o with started := true }) ∧
    (let sums := o.readRows.map (fun m => (m, (List.range (shCols o.shape)).map (fun n =>
        BitVec.ofNat 64 ((elementSum f o m n).1 + if (elementSum f o m n).2 then 2 ^ 32 else 0))))
     let used : MOp := { o with consumed := true, sums := sums, olds := [] }
     c.mq.find? (fun p => p.started && p.array && !p.consumed) = some o → MOp.ended used = false →
      ∃ u, exec (.matrixOperandConsume t) s = .next u ∧ (coreAt u t).mq = put used ∧ (coreAt u t).acc = c.acc) ∧
    (o.olds = [] → f = obNow (coreAt (findSegs s t o.buffers) t)) ∧
    (∀ before,
      (splitAtFirst (fun p => p.open_ && p.toRead row) c.mq = some (before, o) → rowBusy before o.ac row false = false →
        ((∀ v h b, o.kind ≠ .mrd v h b) → MOp.ended got = false →
          ∃ u, exec (.matrixRowRead t row) s = .next u ∧ (coreAt u t).mq = put got) ∧
        ∀ v h b k th, o.kind = .mrd v h b → h < 16 → keyOfUid s o.uid = some k → threadAt s k = some th → th.dying = false →
          let other := if row = 2 * h then 2 * h + 1 else 2 * h
          let line (m : Nat) : List Lane := ((find m got.read).getD []).map (fun (l : Lane) => { l with poison := l.poison || b })
          (find other o.read = none → ∃ u, exec (.matrixRowRead t row) s = .next u ∧ (coreAt u t).mq = put got ∧
            ∃ th', threadAt u k = some th' ∧ th'.regs = th.regs) ∧
          (find other o.read ≠ none → ∃ u, exec (.matrixRowRead t row) s = .next u ∧ (∀ p ∈ (coreAt u t).mq, p.ord ≠ o.ord) ∧
            ∃ th', threadAt u k = some th' ∧ th'.regs = th.regs.wrV v (line (2 * h) ++ line (2 * h + 1)))) ∧
      (splitAtFirst (fun p => p.open_ && p.toWrite row) c.mq = some (before, o) →
        (∃ k th, keyOfUid s o.uid = some k ∧ threadAt s k = some th ∧ th.dying = false) →
        (o.kind ≠ .mzero → rowBusy before o.ac row true = false →
          ∀ l, rowValue o c row = some l → ∃ u, exec (.matrixRowWrite t row) s = .next u ∧
            getD accRow (accKey o.ac.toNat row) (coreAt u t).acc = l ∧
            ∀ k, k ≠ accKey o.ac.toNat row → getD accRow k (coreAt u t).acc = getD accRow k c.acc) ∧
        (o.kind = .mzero → (∀ m, m < 32 → rowBusy before o.ac m true = false) →
          ∃ u, exec (.matrixRowWrite t row) s = .next u ∧
            ∀ m, m < 32 → getD accRow (accKey o.ac.toNat m) (coreAt u t).acc = List.replicate 32 Lane.zero))))) ∧
  (∀ (c : ObView) (o : MOp) (ty : Ty) (oba obb : ObReg) (m n : Nat) (B : Nat → FV × Bool) (sb : Nat → Option (Nat × Int) × Bool)
    (scb : Bool),
    let K := shK o.shape
    let la := shA0 o.shape + m
    let lb := shB0 o.shape + n
    let one : Option (Nat × Int) × Bool := (some (1, 0), false)
    -- the elements and scales of B: FP8, FP16 or BF16 elements, or CB2 indices that R178 decodes (R206)
    ((o.kind = .mma ty oba obb ∧ scb = shScb o.shape ∧ (∀ k, B k = obElem c obb.toNat lb ty k) ∧
        ∀ blk, sb blk = if scb then obScale c obb.toNat lb blk else one) ∨
      (∃ (table : Option (List Byte)) (bad : BitVec 8), o.kind = .mmacb ty oba obb table bad ∧ scb = true ∧
        (∀ blk, sb blk = obScale c obb.toNat lb (blk / 4)) ∧ ∀ k,
          let at_ := 512 * lb + 2 * (k / 8)
          let idx := obByte c obb.toNat at_ + 256 * obByte c obb.toNat (at_ + 1)
          let base := idx / 256
          let ent := match table with
            | none => (base ^^^ 0xFF) * 256 + base
            | some l => (nth 0 l (2 * base)).toNat + 256 * (nth 0 l (2 * base + 1)).toNat
          let sign (i : Nat) : Nat := if i < 7 then idx / 2 ^ (i + 1) % 2 else ((List.range 7).map (fun j => idx / 2 ^ (j + 1) % 2)).sum % 2
          let mag : Int := 2 * (ent / 2 ^ (2 * (k % 8)) % 4 : Nat) + 1
          let halves : Int := (if sign (k % 8) = 1 then -mag else mag) - (idx % 2 : Nat)
          B k = (.num (decide (halves < 0)) halves.natAbs (-1), obPoison c obb.toNat at_ || bad.getLsbD (base / 32)))) →
    let A (k : Nat) := obElem c oba.toNat la ty k
    let sa (blk : Nat) : Option (Nat × Int) × Bool := if shSca o.shape then obScale c oba.toNat la blk else one
    let prod (k : Nat) : FV := if k < K then (A k).1.mul (B k).1 else .num false 0 0
    let round (x : FV) : Nat := (fp32.roundFV .rne 0 x).bits
    let pair (p k : Nat) : Nat := round (FV.sum .rne [fp32.value p, prod k, prod (k + 1)])
    let dirty : Prop := ∃ k, k < K ∧ ((A k).2 || (B k).2) = true
    (shSca o.shape = false → scb = false → ∀ p : Nat → Nat, p 0 = 0 → (∀ j, p (j + 1) = pair (p j) (2 * j)) →
      (elementSum c o m n).1 = p ((K + 1) / 2) ∧ ((elementSum c o m n).2 = true ↔ dirty)) ∧
    ((shSca o.shape = true ∨ scb = true) →
      ((elementSum c o m n).2 = true ↔ dirty ∨ ∃ blk, blk < K / 32 ∧
        ((sa blk).2 = true ∨ (sb blk).2 = true ∨ (sa blk).1 = none ∨ (sb blk).1 = none)) ∧
      ∀ (p : Nat → Nat → Nat) (q t : Nat → Nat), t 0 = 0 →
      (∀ blk, p blk 0 = 0) → (∀ blk j, p blk (j + 1) = pair (p blk j) (32 * blk + 2 * j)) →
      (∀ blk, q blk = match (sa blk).1, (sb blk).1 with
        | some (f, i), some (h, j) => if f = 0 ∨ h = 0 then 0 else round ((fp32.value (p blk 16)).mul (.num false (f * h) (i + j)))
        | _, _ => fp32.nan) →
      (∀ blk, t (blk + 1) = (fAdd fp32 .rne 0 (t blk) (q blk)).bits) → (elementSum c o m n).1 = t (K / 32))) ∧
  (∀ (o : MOp) (c : Core) (row : Nat) (old : List Lane) (sums : List (BitVec 64)), o.array = true →
    find row o.read = some old → find row o.sums = some sums → ∃ l, rowValue o c row = some l ∧ ∀ n, n < 32 → nth Lane.zero l n =
      if n < shCols o.shape then
        ⟨BitVec.ofNat 32 (fAdd fp32 (Mode.ofCode o.mode) (elementBits o.entry row n) (nth Lane.zero old n).val.toNat
          ((nth 0 sums n).toNat % 2 ^ 32)).bits, (nth Lane.zero old n).poison || (nth 0 sums n).getLsbD 32⟩
      else nth Lane.zero (getD accRow (accKey o.ac.toNat row) c.acc) n)

/-! Memory: issue. -/

/-- R106, R112, R211, R249, R302, R306, R418 to R421, R431, R432, R491 to R493: LD, VLD, VGATHER and MSHAPE whose addresses pass
their checks enter flight with an element for each lane and write no register yet; what the checks change is cached translations, and
the mark that one missed: of a core, its TLB alone. MSHAPE waits for its record; once that is read it completes, and writes the shape
register alone. -/
def Obligations.LoadsEnterFlight : Prop :=
  (∀ (s s' : State) (th : Thread) (n : Need) (carry : Path → Bool) (w : Nat) (l : List Nat) (r : List (Nat × Nat × Path)),
    Accepted s th n carry w l s' r →
      s' = { s with cores := s'.cores, spanTlb := s'.spanTlb, issue := { s.issue with miss := s'.issue.miss } } ∧
      (∀ k, coreAt s' k = { coreAt s k with tlb := (coreAt s' k).tlb }) ∧
      r.map (fun x => x.1) = l ∧ ∀ va ∈ l, va % w = 0) ∧
  (∀ (s s' : State) (th : Thread) (g : PReg) (ty : Ty) (d a b : SReg) (off : Off) (va pa : Nat) (p : Path), Runs s th g →
    Accepted s th needRd anyPath (ty.bits / 8) [((rdS s a).val.toNat + (rdS s b).val.toNat + off.value) % 2 ^ 53] s' [(va, pa, p)] →
    exec (.ld g ty d a b off) s = .next (launch s' th .load ty (.s d) ((rdS s a).poison || (rdS s b).poison)
      [mkElem [0] (va, pa, p) (ty.bits / 8) 0 0 []] 0 false false)) ∧
  (∀ (s s' : State) (th : Thread) (g : PReg) (ty : Ty) (d v : VReg) (a b : SReg) (off : Off) (l : List (Nat × Nat × Path)),
    RunsV s th g →
    let on := lanesOn (rdP s g)
    let w := ty.bits / 8
    (Accepted s th needRd anyPath w
        (on.map (fun i => ((rdS s a).val.toNat + (rdS s b).val.toNat + off.value + i * w) % 2 ^ 53)) s' l →
      exec (.vld g ty d a b off) s = .next (launch s' th .load ty (.v d) false
        ((on.zip l).map (fun e => mkElem [e.1] e.2 w 0 0 [(rdS s a).poison || (rdS s b).poison])) 0 false false)) ∧
    (Accepted s th needRd anyPath w
        (on.map (fun i => ((rdS s a).val.toNat + ((rdV s v).lane i).val.toNat + off.value) % 2 ^ 53)) s' l →
      exec (.vgather g ty d a v off) s = .next (launch s' th .load ty (.v d) false
        ((on.zip l).map (fun e => mkElem [e.1] e.2 w 0 0 [(rdS s a).poison || ((rdV s v).lane e.1).poison])) 0 false false))) ∧
  (∀ (s s' : State) (th : Thread) (g : PReg) (sh : ShReg) (b : SReg) (off : Off12) (va pa : Nat) (p : Path), Runs s th g →
    (∀ v, find sh.toNat s.issue.shapes = some v → exec (.mshape g sh b off) s = .next (setRegs s (fun r => r.wrSh sh v))) ∧
    (find sh.toNat s.issue.shapes = none → shapeComing s th.uid sh = true → exec (.mshape g sh b off) s = .next (waitFor s .cond)) ∧
    (find sh.toNat s.issue.shapes = none → shapeComing s th.uid sh = false →
      Accepted s th needRd anyPath 16 [((rdS s b).val + off.signExtend 64).toNat % 2 ^ 53] s' [(va, pa, p)] →
      storesOver s' th.uid none pa 16 = false →
      exec (.mshape g sh b off) s = .next (waitFor (launch s' th .load .u64 (.sh sh) (rdS s b).poison
        [mkElem [0] (va, pa, p) 8 0 0 [], mkElem [1] (va + 8, pa + 8, p) 8 0 0 []] 0 false false) .cond)))

/-- R201, R335, R462, R463, R491, R494: ST, VST and VSCATTER of clean data to accepted addresses enter flight with their bytes,
VSCATTER's later lane alone where two lanes have one address. A store of poisoned data, or to a poisoned address, is a sink: it appends one
poison record, of kind 1, or 2 for VSCATTER, whose mask holds the sink lanes; with psink 1 it freezes with POISONSINK and writes nothing,
and with psink 0 its clean lanes write, and its sink lanes poison their lines and write nothing. That a sink lane which VSCATTER's merge
drops leaves its line as it is, is the model's reading (DEDUCED, log entry 119). -/
def Obligations.StoresEnterFlight : Prop :=
  (∀ (s s' : State) (th : Thread) (g : PReg) (ty : Ty) (d a b : SReg) (off : Off) (va pa : Nat) (p : Path), Runs s th g →
    let addr := ((rdS s a).val.toNat + (rdS s b).val.toNat + off.value) % 2 ^ 53
    let bad := (rdS s d).poison || (rdS s a).poison || (rdS s b).poison
    let w := ty.bits / 8
    Accepted s th needWr anyPath w [addr] s' [(va, pa, p)] →
    (bad = false → exec (.st g ty d a b off) s = .next (launch s' th .store ty .none false
      [mkElem [0] (va, pa, p) w (rdS s d).val 0 (List.replicate w true)] 0 false false)) ∧
    (bad = true → s.issue.src.psink = false → exec (.st g ty d a b off) s = .next (launch
      (poisonRecord s' (whoOf s.issue.key th) 1 false 1 addr) th .store ty .none false
      [mkElem [0] (va, pa, p) w (rdS s d).val 0 (List.replicate w false)] 0 false false)) ∧
    (bad = true → s.issue.src.psink = true → exec (.st g ty d a b off) s = .next (freeze
      (poisonRecord s' (whoOf s.issue.key th) 1 true 1 addr) .poisonsink (some addr)
      (BitVec.ofNat 64 (2 ^ 32 + sinkSeq s' (whoOf s.issue.key th).ctx % 2 ^ 32))))) ∧
  (∀ (s s' : State) (th : Thread) (g : PReg) (ty : Ty) (d v : VReg) (a b : SReg) (off : Off) (l : List (Nat × Nat × Path)),
    RunsV s th g →
    let on := lanesOn (rdP s g)
    let w := ty.bits / 8
    let elem (e : Nat × Nat × Nat × Path) := mkElem [e.1] e.2 w (((rdV s d).lane e.1).val.setWidth 64) 0 (List.replicate w true)
    let va (i : Nat) := ((rdS s a).val.toNat + ((rdV s v).lane i).val.toNat + off.value) % 2 ^ 53
    (rdS s a).poison = false → (∀ i ∈ on, ((rdV s d).lane i).poison = false) →
    ((rdS s b).poison = false → Accepted s th needWr anyPath w
        (on.map (fun i => ((rdS s a).val.toNat + (rdS s b).val.toNat + off.value + i * w) % 2 ^ 53)) s' l →
      exec (.vst g ty d a b off) s = .next (launch s' th .store ty .none false ((on.zip l).map elem) 0 false false)) ∧
    ((∀ i ∈ on, ((rdV s v).lane i).poison = false) → Accepted s th needWr anyPath w (on.map va) s' l →
      exec (.vscatter g ty d a v off) s = .next (launch s' th .store ty .none false
        (((on.zip l).filter (fun e => !on.any (fun j => e.1 < j && va j == va e.1))).map elem) 0 false false))) ∧
  (∀ (s s' : State) (th : Thread) (g : PReg) (ty : Ty) (d v : VReg) (a b : SReg) (off : Off) (l : List (Nat × Nat × Path)) (i : Instr)
    (kind : Nat) (merge : Bool) (addr : Nat → Nat) (bad : Nat → Bool) (j : Nat), RunsV s th g →
    let on := lanesOn (rdP s g)
    let w := ty.bits / 8
    let who := whoOf s.issue.key th
    ((i = .vst g ty d a b off ∧ kind = 1 ∧ merge = false ∧
        (∀ n, addr n = ((rdS s a).val.toNat + (rdS s b).val.toNat + off.value + n * w) % 2 ^ 53) ∧
        ∀ n, bad n = ((rdS s a).poison || (rdS s b).poison || ((rdV s d).lane n).poison)) ∨
      (i = .vscatter g ty d a v off ∧ kind = 2 ∧ merge = true ∧
        (∀ n, addr n = ((rdS s a).val.toNat + ((rdV s v).lane n).val.toNat + off.value) % 2 ^ 53) ∧
        ∀ n, bad n = ((rdS s a).poison || ((rdV s v).lane n).poison || ((rdV s d).lane n).poison))) →
    Accepted s th needWr anyPath w (on.map addr) s' l → on.find? bad = some j → ∃ mask : Word,
      (∀ n, n < 64 → mask.getLsbD n = (on.contains n && bad n)) ∧
      (s.issue.src.psink = true → exec i s = .next (freeze (poisonRecord s' who kind true mask (addr j)) .poisonsink (some (addr j))
        (BitVec.ofNat 64 (kind * 2 ^ 32 + sinkSeq s' who.ctx % 2 ^ 32)))) ∧
      (s.issue.src.psink = false → exec i s = .next (launch (poisonRecord s' who kind false mask (addr j)) th .store ty .none false
        (((on.zip l).filter (fun e => !(merge && on.any (fun n => e.1 < n && addr n == addr e.1)))).map (fun e =>
          mkElem [e.1] e.2 w (((rdV s d).lane e.1).val.setWidth 64) 0 (List.replicate w (!bad e.1)))) 0 false false)))

/-- R239, R249, R256: a misaligned access raises ALIGN at its bundle, with the address and the width it needed, and nothing is
performed: the bundle freezes, and no access enters flight before the freeze. Of a vector access the first enabled lane speaks first
(R316). -/
def Obligations.MisalignedAccessesFreeze : Prop :=
  (∀ (s : State) (th : Thread) (g : PReg) (ty : Ty) (d v : VReg) (a b : SReg) (off : Off) (i : Nat), RunsV s th g →
    (lanesOn (rdP s g)).head? = some i →
    let w := ty.bits / 8
    let va := ((rdS s a).val.toNat + (rdS s b).val.toNat + off.value + i * w) % 2 ^ 53
    let vx := ((rdS s a).val.toNat + ((rdV s v).lane i).val.toNat + off.value) % 2 ^ 53
    let ta := ((rdS s a).val.toNat + off.value) % 2 ^ 53
    let stop (x n : Nat) : Result := .next (freeze s .align (some x) (BitVec.ofNat 64 n))
    (va % w ≠ 0 → exec (.vld g ty d a b off) s = stop va w ∧ exec (.vst g ty d a b off) s = stop va w) ∧
    (vx % w ≠ 0 → exec (.vgather g ty d a v off) s = stop vx w ∧ exec (.vscatter g ty d a v off) s = stop vx w) ∧
    (vx % 4 ≠ 0 → exec (.vscadd g ty d a v off) s = stop vx 4) ∧ (ta % 64 ≠ 0 → exec (.binapp g ty d a v off) s = stop ta 64)) ∧
  ∀ (s : State) (th : Thread) (g : PReg) (ty : Ty) (scp : Scope) (ord : Ord) (op : AmoOp) (d a b c : SReg) (sh : ShReg)
    (off : Off) (oa : OffA) (om : Off12), Runs s th g →
    let w := ty.bits / 8
    let va := ((rdS s a).val.toNat + (rdS s b).val.toNat + off.value) % 2 ^ 53
    let ua := ((rdS s a).val.toNat + oa.value) % 2 ^ 53
    let ma := ((rdS s b).val + om.signExtend 64).toNat % 2 ^ 53
    let ta := ((rdS s a).val.toNat + off.value) % 2 ^ 53
    let stop (x n : Nat) : Result := .next (freeze s .align (some x) (BitVec.ofNat 64 n))
    (va % w ≠ 0 → exec (.ld g ty d a b off) s = stop va w ∧ exec (.st g ty d a b off) s = stop va w) ∧
    (ua % w ≠ 0 → exec (.amo g op ty scp ord d a oa b) s = stop ua w ∧ exec (.acas g ty scp ord d a oa b c) s = stop ua w) ∧
    (ma % 16 ≠ 0 → find sh.toNat s.issue.shapes = none → shapeComing s th.uid sh = false → exec (.mshape g sh b om) s = stop ma 16) ∧
    (ta % 64 ≠ 0 → exec (.binrst g a off) s = stop ta 64)

/-- R201, R248, R252, R253, R255 to R257, R280, R303, R366 to R373, R386, R511: AMO and ACAS of clean operands enter flight at their
scope and order, a release of system scope behind the reads that acknowledge its thread's posted host writes; VSCADD groups its
lanes by address and adds each group's lanes in lane order; BINAPP and BINRST read their table's header, where they find its errors
(R261), once its checks hold. One with a poisoned operand is a sink: it appends one poison record, of kind 5 for AMO and ACAS, 3 for
VSCADD and 4 for BINAPP and BINRST, whose mask holds the sink lanes; with psink 1 it freezes with POISONSINK and performs nothing. With
psink 0 AMO and ACAS write their destination zero and poisoned and poison their line; a VSCADD group with a sink lane poisons its line,
and the other groups perform; BINAPP skips its sink lanes, and with a poisoned sa performs nothing, as BINRST does. -/
def Obligations.AtomicsEnterFlight : Prop :=
  (∀ (s s' : State) (th : Thread) (g : PReg) (ty : Ty) (scp : Scope) (ord : Ord) (op : AmoOp) (d a b c : SReg) (off : OffA)
    (x : Nat × Nat × Path), Runs s th g → (rdS s a).poison = false → (rdS s b).poison = false →
    let w := ty.bits / 8
    let addr := ((rdS s a).val.toNat + off.value) % 2 ^ 53
    let u := if ord.code.getLsbD 1 then flushAt s' th scp.code.toNat else s'
    (Accepted s th ⟨true, true, true, hostCap (.amo op) ty⟩ (atomicCarried (.amo op) ty) w [addr] s' [x] →
      exec (.amo g op ty scp ord d a off b) s = .next (launch u th (.amo op) ty (.s d) false
        [mkElem [0] x w (rdS s b).val 0 [true]] scp.code.toNat (ord.code.getLsbD 0) (ord.code.getLsbD 1))) ∧
    ((rdS s c).poison = false → Accepted s th ⟨true, true, true, hostCap .cas ty⟩ (atomicCarried .cas ty) w [addr] s' [x] →
      exec (.acas g ty scp ord d a off b c) s = .next (launch u th .cas ty (.s d) false
        [mkElem [0] x w (rdS s b).val (rdS s c).val [true]] scp.code.toNat (ord.code.getLsbD 0) (ord.code.getLsbD 1)))) ∧
  (∀ (s s' : State) (th : Thread) (g : PReg) (ty : Ty) (scp : Scope) (ord : Ord) (op : AmoOp) (d a b c : SReg) (off : OffA)
    (x : Nat × Nat × Path) (i : Instr) (kind : AccKind), Runs s th g →
    let w := ty.bits / 8
    let addr := ((rdS s a).val.toNat + off.value) % 2 ^ 53
    let who := whoOf s.issue.key th
    ((i = .amo g op ty scp ord d a off b ∧ kind = .amo op ∧ ((rdS s a).poison || (rdS s b).poison) = true) ∨
      (i = .acas g ty scp ord d a off b c ∧ kind = .cas ∧ ((rdS s a).poison || (rdS s b).poison || (rdS s c).poison) = true)) →
    Accepted s th ⟨true, true, true, hostCap kind ty⟩ (atomicCarried kind ty) w [addr] s' [x] →
    (s.issue.src.psink = true → exec i s = .next (freeze (poisonRecord s' who 5 true 1 addr) .poisonsink (some addr)
      (BitVec.ofNat 64 (5 * 2 ^ 32 + sinkSeq s' who.ctx % 2 ^ 32)))) ∧
    (s.issue.src.psink = false → exec i s = .next (putS (launch (poisonRecord s' who 5 false 1 addr) th .store ty
      .none false [mkElem [0] x w 0 0 (List.replicate w false)] 0 false false) d 0 true))) ∧
  (∀ (s s' : State) (th : Thread) (g : PReg) (ty : Ty) (d v : VReg) (a : SReg) (off : Off) (l : List (Nat × Nat × Path)) (j : Nat),
    RunsV s th g →
    let on := lanesOn (rdP s g)
    let who := whoOf s.issue.key th
    let va (i : Nat) := ((rdS s a).val.toNat + ((rdV s v).lane i).val.toNat + off.value) % 2 ^ 53
    let bad (i : Nat) := (rdS s a).poison || ((rdV s v).lane i).poison || ((rdV s d).lane i).poison
    let group (i : Nat) := on.filter (fun j => va j == va i)
    Accepted s th ⟨true, true, true, none⟩ (fun p => p != .host) 4 (on.map va) s' l → on.find? bad = some j → ∃ mask : Word,
      (∀ n, n < 64 → mask.getLsbD n = (on.contains n && bad n)) ∧
      (s.issue.src.psink = true → exec (.vscadd g ty d a v off) s = .next (freeze (poisonRecord s' who 3 true mask (va j)) .poisonsink
        (some (va j)) (BitVec.ofNat 64 (3 * 2 ^ 32 + sinkSeq s' who.ctx % 2 ^ 32)))) ∧
      (s.issue.src.psink = false → exec (.vscadd g ty d a v off) s = .next (launch (poisonRecord s' who 3 false mask (va j)) th .scadd ty
        .none false (((on.zip l).filter (fun e => !on.any (fun j => j < e.1 && va j == va e.1))).map (fun e =>
          mkElem (group e.1) e.2 4 (BitVec.ofNat 64 (groupSum ty ((group e.1).map (fun j => ((rdV s d).lane j).val.toNat)))) 0
            [!(group e.1).any bad])) 0 false false))) ∧
  (∀ (s s' : State) (th : Thread) (g : PReg) (ty : Ty) (d v : VReg) (a : SReg) (off : Off) (x : Nat × Nat × Path),
    let t := ((rdS s a).val.toNat + off.value) % 2 ^ 53
    let who := whoOf s.issue.key th
    let on := lanesOn (rdP s g)
    let bad (i : Nat) := (rdS s a).poison || ((rdV s v).lane i).poison || ((rdV s d).lane i).poison
    let u := discover s' x.2.1 64
    let stop (mask : Word) : Result := .next (freeze (poisonRecord u who 4 true mask t) .poisonsink (some t)
      (BitVec.ofNat 64 (4 * 2 ^ 32 + sinkSeq u who.ctx % 2 ^ 32)))
    t < 0x2000000 → Accepted s th ⟨true, true, true, none⟩ (fun p => p == .own || p == .view) 64 [t] s' [x] →
    readHeld s' th = false → storesOver s' th.uid (some x.2.2) x.2.1 64 = false → binCheck s' x.1 x.2.1 = none →
    (Runs s th g → (rdS s a).poison = true →
      (s.issue.src.psink = true → exec (.binrst g a off) s = stop 1) ∧
      (s.issue.src.psink = false → exec (.binrst g a off) s = .next (poisonRecord u who 4 false 1 t))) ∧
    (RunsV s th g → (∃ i ∈ on, bad i = true) → ∃ mask : Word, (∀ n, n < 64 → mask.getLsbD n = (on.contains n && bad n)) ∧
      (s.issue.src.psink = true → exec (.binapp g ty d a v off) s = stop mask) ∧
      (s.issue.src.psink = false → (rdS s a).poison = true → exec (.binapp g ty d a v off) s = .next (poisonRecord u who 4 false mask t)) ∧
      (s.issue.src.psink = false → (rdS s a).poison = false →
        let z := poisonRecord u who 4 false mask t
        let word (i : Nat) := readLe z (x.2.1 + 4 * i) 4
        exec (.binapp g ty d a v off) s = .next (launch z th (.binapp t (word 0) (word 2) (word 3) (word 4) (word 5) (word 6)) ty
          .none false (mkElem on x 64 0 0 [] :: (on.filter (fun i => !bad i)).map (fun i =>
            { mkElem [i] x 4 (((rdV s v).lane i).val.setWidth 64) (((rdV s d).lane i).val.setWidth 64) [] with done := true }))
          0 false false)))) ∧
  (∀ (s s' : State) (th : Thread) (g : PReg) (ty : Ty) (d v : VReg) (a : SReg) (off : Off) (l : List (Nat × Nat × Path)), RunsV s th g →
    let on := lanesOn (rdP s g)
    let va (i : Nat) := ((rdS s a).val.toNat + ((rdV s v).lane i).val.toNat + off.value) % 2 ^ 53
    (rdS s a).poison = false → (∀ i ∈ on, ((rdV s d).lane i).poison = false ∧ ((rdV s v).lane i).poison = false) →
    Accepted s th ⟨true, true, true, none⟩ (fun p => p != .host) 4 (on.map va) s' l →
    exec (.vscadd g ty d a v off) s = .next (launch s' th .scadd ty .none false
      (((on.zip l).filter (fun e => !on.any (fun j => j < e.1 && va j == va e.1))).map (fun e =>
        mkElem (on.filter (fun j => va j == va e.1)) e.2 4 (BitVec.ofNat 64 (groupSum ty
          ((on.filter (fun j => va j == va e.1)).map (fun j => ((rdV s d).lane j).val.toNat)))) 0 [true])) 0 false false)) ∧
  (∀ (s s' : State) (th : Thread) (g : PReg) (ty : Ty) (d v : VReg) (a : SReg) (off : Off) (x : Nat × Nat × Path),
    let t := ((rdS s a).val.toNat + off.value) % 2 ^ 53
    let pa := x.2.1
    let word (i : Nat) := readLe s' (pa + 4 * i) 4
    (rdS s a).poison = false → t < 0x2000000 →
    Accepted s th ⟨true, true, true, none⟩ (fun p => p == .own || p == .view) 64 [t] s' [x] →
    readHeld s' th = false → storesOver s' th.uid (some x.2.2) pa 64 = false → binCheck s' x.1 pa = none →
    let u := discover s' pa 64
    (Runs s th g → exec (.binrst g a off) s = .next (launch u th (.binrst t (word 0) (word 3)) .u32 .none false
      [mkElem [0] x 64 0 0 []] 0 false false)) ∧
    (RunsV s th g → (∀ i ∈ lanesOn (rdP s g), ((rdV s d).lane i).poison = false ∧ ((rdV s v).lane i).poison = false) →
      exec (.binapp g ty d a v off) s = .next (launch u th (.binapp t (word 0) (word 2) (word 3) (word 4) (word 5) (word 6)) ty
        .none false (mkElem (lanesOn (rdP s g)) x 64 0 0 [] :: (lanesOn (rdP s g)).map (fun i =>
          { mkElem [i] x 4 (((rdV s v).lane i).val.setWidth 64) (((rdV s d).lane i).val.setWidth 64) [] with done := true }))
        0 false false)))

/-- R273, R274, R280, R442: PREF changes nothing, whatever its address: of the effects on TLBs that R442 permits the model takes
none (log entry 75). A FENCE commits once the accesses of its sets and scope have
taken effect and, where it names streams, every command of its thread has ended, or has read all that it copies past the scope (log
entry 34 says which command that is); until then it waits. At system scope, whatever its sets, reads go behind the posted host writes of
the thread and of its commands and acknowledge them. -/
def Obligations.PrefetchAndFence : Prop :=
  ∀ (s : State) (th : Thread) (g : PReg) (a b : SReg) (off : Off) (scp : Scope) (sets : BitVec 3), Runs s th g →
    exec (.pref g a b off) s = .next s ∧
    exec (.fence g scp sets) s = .next (if
      (s.inflight.all (fun x => x.uid != th.uid || !(decide (x.id < s.issue.acc0)) || !inSets sets x.kind ||
        x.elems.all (fun e => e.done || scp.code.toNat < e.path.scope || e.w == 0)) &&
       (!sets.getLsbD 2 || (threadCmds s s.tile th.uid).all (fun c => s.issue.ord0 ≤ c.ord || cmdPast s.tile c scp.code.toNat)))
      then flushAt s th scp.code.toNat
      else waitFor (flushAt s th scp.code.toNat) .cond)

/-! Memory: effects. -/

/-- R4, R229, R234: bytes of memory: a byte written reads as written, every other byte reads as before; a number written
little-endian reads back. -/
def Obligations.MemoryReadsBack : Prop :=
  (∀ (s : State) (pa qa : Nat) (b : Byte), readByte (writeByte s pa b) qa = if qa = pa then b else readByte s qa) ∧
  (∀ (s : State) (pa n v : Nat), readLe (writeLe s pa n v) pa n = v % 256 ^ n) ∧
  (∀ (s : State) (pa n v qa : Nat), qa < pa ∨ pa + n ≤ qa → readByte (writeLe s pa n v) qa = readByte s qa) ∧
  (∀ (s : State) (pa qa : Nat) (b : Bool), linePoison (setLinePoison s pa b) qa = if qa / 64 = pa / 64 then b else linePoison s qa)

/-- R229, R235, R237, R260, R261, R264: a load or store that takes effect at a slice controller or a pier, or in a scratchpad bank: a
load changes no memory, and poisons the lines it reads in which it finds an uncorrectable word; a store writes its bytes at its
element's address, which its checks gave, and no byte outside it. A bank serves the requester after the one it served last. -/
def Obligations.AccessesTakeEffect : Prop :=
  (∀ (s : State) (id i : Nat) (a : Access) (e : Elem), accAt s id = some a → a.elems[i]? = some e → elemReady s a e = true →
    plain a = true → (e.path = .bonded ∨ e.path = .hbm) → stackFailed s e.pa = false → Reaches s a.tile e.path e.pa →
    ∃ t, exec (.accessAtOwningPoint id i false) s = .next t ∧
      (a.kind = .load → t.mem = s.mem ∧ (∀ x, linePoison t x = (linePoison s x ||
          (isStruck s (.line (x / 64)) && overlap (64 * (x / 64)) 64 e.pa e.w))) ∧
        accAt t id = some { a with elems := setNth { e with
          done := true, got := BitVec.ofNat 64 (readLe s e.pa e.w), gotP := rangeBad s e.pa e.w } a.elems i }) ∧
      (a.kind = .store → e.mask = List.replicate e.w true →
        (∀ o, o < e.w → readByte t (e.pa + o) = BitVec.ofNat 8 (e.data.toNat / 256 ^ o)) ∧
        (∀ pa, pa < e.pa ∨ e.pa + e.w ≤ pa → readByte t pa = readByte s pa) ∧
        ∀ pa, linePoison s pa = false → linePoison t pa = false) ∧
      (a.kind = .store → a.elems = [e] → e.mask = List.replicate e.w false →
        t.mem = s.mem ∧ ∀ o, o < e.w → linePoison t (e.pa + o) = true)) ∧
  (∀ (s : State) (tile bank q w : Nat) (a : Access), asleep s tile = false → nextRequest s tile bank = some (q, .word a w) →
    plain a = true → accAt s a.id = some a → (∀ e ∈ a.elems, Reaches s a.tile e.path e.pa) →
    ∃ t, exec (.bankServe tile bank false) s = .next t ∧ getD 5 bank (coreAt t tile).bankRR = q ∧
      (a.kind = .load → t.mem = s.mem) ∧
      (∀ pa, (∀ e ∈ a.elems, unitOf a e.pa = w → pa < e.pa ∨ e.pa + e.w ≤ pa) → readByte t pa = readByte s pa) ∧
      (∀ e, a.elems = [e] → a.kind = .store → e.mask = List.replicate e.w true →
        ∀ o, o < e.w → readByte t (e.pa + o) = BitVec.ofNat 8 (e.data.toNat / 256 ^ o)))

/-- R235, R250 to R253, R257, R258, R370, R373: a read-modify-write at its owning point, in a scratchpad as its bank's turn comes to
it: AMO and VSCADD leave the new value, ACAS swaps where it compares equal, and BINRST leaves zero counts, ofcnt and lost. BINAPP, where
the parts of its table do not overlap, gives the lanes of a cell its next slots in lane order; a count rises by the appends that its cell
has received, past the capacity too; a lane without a slot, or of no cell, takes the next overflow entry, in lane order, or counts as lost
where there is none. None changes a byte outside the ranges it names, and what
an AMO or ACAS returns is what stood there before. -/
def Obligations.ReadModifyWrites : Prop :=
  ∀ (s : State) (id i : Nat) (a : Access) (e : Elem), accAt s id = some a → a.elems[i]? = some e → elemReady s a e = true →
    plain a = false → e.path.remote = false → stackFailed s e.pa = false → Reaches s a.tile e.path e.pa →
    (e.path.pad = true → asleep s (padOwner e.pa) = false ∧ hasTurn s a e = true) →
    let old := readLe s e.pa e.w
    ∃ t, exec (.rmwPerform id i) s = .next t ∧
      (∀ pa, (∀ r ∈ elemRanges a.kind e, pa < r.1 ∨ r.1 + r.2 ≤ pa) → readByte t pa = readByte s pa) ∧
      (∀ op, a.kind = .amo op → readLe t e.pa e.w = amoNew op a.ty old (e.data.toNat % 2 ^ (8 * e.w)) % 256 ^ e.w) ∧
      (a.kind = .cas → readLe t e.pa e.w =
        if old = e.data.toNat % 2 ^ (8 * e.w) then e.data2.toNat % 2 ^ (8 * e.w) else old) ∧
      (a.kind = .scadd → nth false e.mask 0 = true → readLe t e.pa e.w = scaddNew a.ty old e.data.toNat % 256 ^ e.w) ∧
      (∀ x ncell cap cnt bin ofo ofc, a.kind = .binapp x ncell cap cnt bin ofo ofc →
        let lanes := (a.elems.drop 1).map (fun f => (f.data.toNat, f.data2.toNat))
        t.mem = (binAppend s e.pa ncell cap cnt bin ofo ofc lanes).mem ∧
        (cap < 2 ^ 32 → ofc < 2 ^ 32 → List.Pairwise (fun (x y : Nat × Nat) => x.1 + x.2 ≤ y.1 ∨ y.1 + y.2 ≤ x.1)
            [(28, 8), (cnt, 4 * ncell), (bin, 4 * cap * ncell), (ofo, 8 * ofc)] →
          let had (c : Nat) := readLe s (e.pa + cnt + 4 * c) 4
          let got (c : Nat) := (lanes.filter (fun x => x.1 == c)).map (fun x => x.2)
          let spill := ((List.range lanes.length).filter (fun i => let c := (nth (0, 0) lanes i).1
            decide (ncell ≤ c) || decide (cap ≤ had c + (lanes.take i).countP (fun x => x.1 == c)))).map (nth (0, 0) lanes)
          let ent := readLe s (e.pa + 28) 4
          (∀ c, c < ncell → readLe t (e.pa + cnt + 4 * c) 4 = min (had c + (got c).length) (2 ^ 32 - 1) ∧
            ∀ n, n < cap → readLe t (e.pa + bin + 4 * (cap * c + n)) 4 =
              if had c ≤ n ∧ n - had c < (got c).length then nth 0 (got c) (n - had c) % 2 ^ 32
              else readLe s (e.pa + bin + 4 * (cap * c + n)) 4) ∧
          (∀ m, m < spill.length → ent + m < ofc →
            readLe t (e.pa + ofo + 8 * (ent + m)) 4 = (nth (0, 0) spill m).1 % 2 ^ 32 ∧
            readLe t (e.pa + ofo + 8 * (ent + m) + 4) 4 = (nth (0, 0) spill m).2 % 2 ^ 32) ∧
          readLe t (e.pa + 28) 4 = (if ent < ofc then min (ent + spill.length) ofc else ent) ∧
          readLe t (e.pa + 32) 4 = min (readLe s (e.pa + 32) 4 + (spill.length - (ofc - ent))) (2 ^ 32 - 1))) ∧
      (∀ x ncell cnt, a.kind = .binrst x ncell cnt →
        (∀ o, o < 4 * ncell → readByte t (e.pa + cnt + o) = 0) ∧ (∀ o, o < 8 → readByte t (e.pa + 28 + o) = 0)) ∧
      (longAccess a = true → ((∃ op, a.kind = .amo op) ∨ a.kind = .cas) → accAt t id = some { a with
        elems := setNth { e with done := true, got := BitVec.ofNat 64 old, gotP := rangeBad s e.pa e.w } a.elems i })

/-- R258: BINRST at its owning point writes zero to every count, ofcnt and lost in one step, and leaves every byte of the bins,
the overflow area and the rest of the memory that no count and neither word covers. -/
def Obligations.BinResetClearsCounts : Prop :=
  ∀ (s : State) (id i x ncell cnt : Nat) (a : Access) (e : Elem), accAt s id = some a → a.elems[i]? = some e →
    elemReady s a e = true → a.kind = .binrst x ncell cnt → e.path.remote = false → stackFailed s e.pa = false →
    Reaches s a.tile e.path e.pa → (e.path.pad = true → asleep s (padOwner e.pa) = false ∧ hasTurn s a e = true) →
    ∃ t, exec (.rmwPerform id i) s = .next t ∧
      (∀ c, c < ncell → readLe t (e.pa + cnt + 4 * c) 4 = 0) ∧ readLe t (e.pa + 28) 4 = 0 ∧ readLe t (e.pa + 32) 4 = 0 ∧
      ∀ pa, (pa < e.pa + cnt ∨ e.pa + cnt + 4 * ncell ≤ pa) → (pa < e.pa + 28 ∨ e.pa + 36 ≤ pa) → readByte t pa = readByte s pa

/-- R106, R113, R211, R237, R264, R270, R308, R370, R419, R493: the response of an access whose elements have all taken effect, that
no earlier one of its requester holds back, writes its register: for LD, AMO and ACAS the value read, extended by its type and poisoned
where the address, or the line it came from, was; for VLD and VGATHER the same of every lane that an element read, and no other lane;
for MSHAPE and PUB what it read is kept for their bundle. The access leaves flight, and no memory changes. -/
def Obligations.ResponsesWriteRegisters : Prop :=
  ∀ (s : State) (n k : Nat) (ext : Ext) (a : Access) (th : Thread), accAt s (n / 64) = some a → answerable s a = true →
    keyOfUid s a.uid = some k → threadAt s k = some th →
    ∃ t th', exec (.memoryResponse n ext) s = .next t ∧ t.mem = s.mem ∧ t.inflight = s.inflight.filter (fun b => b.id != a.id) ∧
      threadAt t k = some th' ∧ (a.dst = .none → th'.regs = th.regs) ∧
      (∀ r, a.dst = .sh r → th'.regs = th.regs ∧ th'.bundle = th.bundle.map (fun b =>
        { b with kept := { b.kept with shapes := put r.toNat (shapeGot a) b.kept.shapes } })) ∧
      (a.dst = .payload → th'.regs = th.regs ∧ th'.bundle = th.bundle.map (fun b =>
        { b with kept := { b.kept with payload := some (payloadGot a) } })) ∧
      (∀ d e l, a.dst = .s d → a.elems = e :: l →
        th'.regs = th.regs.wrS d ⟨BitVec.ofNat 64 (extend a.ty 64 e.got.toNat), a.poison || e.gotP⟩) ∧
      ∀ v, a.dst = .v v → a.kind = .load → (th.regs.rdV v).length = 64 →
        a.elems.Pairwise (fun e f => ∀ i ∈ e.lanes, i ∉ f.lanes) →
        ∃ x : Vec, th'.regs = th.regs.wrV v x ∧
          (∀ e ∈ a.elems, ∀ i ∈ e.lanes, i < 64 →
            x.lane i = ⟨BitVec.ofNat 32 (extend a.ty 32 e.got.toNat), a.poison || e.gotP || nth false e.mask 0⟩) ∧
          ∀ i, (∀ e ∈ a.elems, i ∉ e.lanes) → x.lane i = (th.regs.rdV v).lane i


/-! Names, streams, barriers and launches. -/

/-- R60, R270, R376 to R378, R398, R443 to R447, R468, R469: PUB, SUBS, UNSUB, DROP and AWAIT. A name below system privilege has
the instance's own context, and a plane or tensor ID above the privilege raises PRIV (the fault's auxiliary word is Table 6.16's). PUB
waits until the router has read its payload, word by word and after the thread's own stores to it, and then sends one publication, a
release of system scope behind the reads that acknowledge posted host writes; a clean one with a poisoned block is a sink, whose mask
is the poison map (log entry 45). A misaligned payload raises ALIGN, and one that is too long or leaves the scratchpad PERM. SUBS, UNSUB
and DROP send their messages; a publication that the tile holds and whose headers are both lost is none (R262). An AWAIT checks its
buffer; without a subscription it makes one at wafer scope first, a subscription that failed raises SCOPE, and one whose publication has
come copies it and ends; it waits where none has. That it also waits while its copy has still to follow an acquire (log entry 94), or
where requests at its banks stand before the router's copy (80), are the model's. -/
def Obligations.NamesPublishAndSubscribe : Prop :=
  (∀ (s : State) (th : Thread) (g : PReg) (scp : Scope) (rel : Bool) (n : NPair) (b c : SReg), Runs s th g →
    let name := pairName s th n
    let base := (rdS s b).val.toNat
    let len := (rdS s c).val.toNat
    let pa := padBase s.tile + base
    let bad := (rdS s (pairLo n)).poison || (rdS s (pairHi n)).poison || (rdS s c).poison
    let may : Prop := th.priv = 2 ∨ (nameTid name < 0xFF0000 ∧ namePlane name ≠ 3 ∧ namePlane name ≠ 4 ∧
      (th.priv = 1 ∨ namePlane name ≠ 2))
    (th.priv ≠ 2 → nameCtx name = s.issue.src.tag.toNat / 65536) ∧
    (th.priv < 2 → ¬may → exec (.pub g scp rel n b c) s = .next (freeze s .priv none (BitVec.ofNat 64 (4 * 2 ^ 24 + s.issue.idx * 2 ^ 8)))) ∧
    (may → base % 8 ≠ 0 → exec (.pub g scp rel n b c) s = .next (freeze s .align (some base) 8)) ∧
    (may → base % 8 = 0 → (16384 < len ∨ padSize s.tile ≤ base ∨ padSize s.tile < base + len) →
      exec (.pub g scp rel n b c) s = .next (freeze s .perm (some base) 0)) ∧
    (may → base % 8 = 0 → len ≤ 16384 → base < padSize s.tile → base + len ≤ padSize s.tile →
      (len ≠ 0 → s.issue.payload = none →
        ((payloadComing s th.uid = true ∨ storesOver s th.uid none pa len = true) →
          exec (.pub g scp rel n b c) s = .next (waitFor s .cond)) ∧
        (payloadComing s th.uid = false → storesOver s th.uid none pa len = false →
          ∃ x, exec (.pub g scp rel n b c) s = .next (waitFor (addAccess s x) .cond) ∧ x.kind = .load ∧ x.dst = .payload ∧
            x.uid = th.uid ∧ x.elems.length = (len + 3) / 4 ∧ ∀ i e, x.elems[i]? = some e → e.pa = pa + 4 * i ∧ e.path = .own ∧
              e.w = (if len < 4 * i + 4 then len - 4 * i else 4) ∧ e.done = false)) ∧
      ∀ data per, (if len = 0 then data = [] ∧ per = [] else s.issue.payload = some (data, per)) →
        let p := pubMake s name scp rel data (pubMap per bad)
        let after := if rel then releaseList s th.uid scp.code.toNat else []
        let send (v : State) : Result :=
          .next (sendPub (if rel then flushAt v th scp.code.toNat else v) p s.tile th.uid after scp.code.toNat)
        p.name = name ∧ p.data = data ∧ p.rel = rel ∧ p.scope = scp.code.toNat ∧
        (∀ i, i < 64 → p.pmap.getLsbD i = (decide (256 * i < per.length) && (bad || ((per.drop (256 * i)).take 256).any (fun x => x)))) ∧
        ((p.clean = false ∨ p.pmap = 0) → exec (.pub g scp rel n b c) s = send s) ∧
        (p.clean = true → p.pmap ≠ 0 → s.issue.src.psink = false → exec (.pub g scp rel n b c) s =
          send (poisonRecord s (whoOf s.issue.key th) 6 false p.pmap (name.toNat / 2 ^ 32))) ∧
        (p.clean = true → p.pmap ≠ 0 → s.issue.src.psink = true → exec (.pub g scp rel n b c) s = .next (freeze
          (poisonRecord s (whoOf s.issue.key th) 6 true p.pmap (name.toNat / 2 ^ 32)) .poisonsink none
          (BitVec.ofNat 64 (6 * 2 ^ 32 + sinkSeq s (whoOf s.issue.key th).ctx % 2 ^ 32)))))) ∧
  (∀ (s : State) (th : Thread) (g : PReg) (scp : Scope) (n : NPair), Runs s th g →
    let name := pairName s th n
    let v := readTile s s.tile (fun m => m == name)
    let got := tilePubAt v v.tile name
    let renamed (s : State) (f : Thread → Thread) (m : List Msg) : State := { updIssuer s f with net := s.net ++ m }
    (headerLost s s.tile name = false → v = s) ∧ (headerLost s s.tile name = true → got = none) ∧
    exec (.drop g n) s = .next { s with net := s.net ++ [.drop name s.tile th.uid] } ∧
    ((∃ d ∈ th.dyn, d.name = name) → exec (.subs g scp n) s = .next s ∧ exec (.unsub g n) s = .next (renamed s
      (fun t => { t with dyn := th.dyn.filter (fun d => d.name != name) })
      ((th.dyn.filter (fun d => d.name == name)).map (fun d => .unsub name s.tile (.thread th.uid d.seq))))) ∧
    ((∀ d ∈ th.dyn, d.name ≠ name) → exec (.unsub g n) s = .next s ∧
      (16 ≤ th.dyn.length → exec (.subs g scp n) s = .next (freeze s .perm none 0)) ∧
      (th.dyn.length < 16 → exec (.subs g scp n) s = .next (renamed v
        (fun t => { t with dyn := th.dyn ++ [⟨name, th.subsN, scp.code.toNat, got, false⟩], subsN := th.subsN + 1 })
        (if got.isSome then [] else [.sub ⟨name, false, s.tile, .thread th.uid th.subsN, scp.code.toNat, false, [], []⟩]))))) ∧
  (∀ (s : State) (th : Thread) (g : PReg) (p : Bool) (n : NPair) (b : SReg), Runs s th g →
    let name := pairName s th n
    let base := (rdS s b).val.toNat
    let pa := padBase s.tile + base
    (base % 32 ≠ 0 → exec (.await g p n b) s = .next (freeze s .align (some base) 32)) ∧
    (base % 32 = 0 → padSize s.tile < base + 16416 → exec (.await g p n b) s = .next (freeze s .perm (some base) 0)) ∧
    (base % 32 = 0 → base + 16416 ≤ padSize s.tile →
      ((∀ d ∈ th.dyn, d.name ≠ name) → 16 ≤ th.dyn.length → exec (.await g p n b) s = .next (freeze s .perm (some base) 0)) ∧
      ((∀ d ∈ th.dyn, d.name ≠ name) → th.dyn.length < 16 → ∀ u, exec (.subs g .wafer n) s = .next u →
        exec (.await g p n b) s = exec (.await g p n b) u) ∧
      ∀ d, th.dyn.find? (fun d => d.name == name) = some d →
        (d.bad = true → exec (.await g p n b) s = .next (freeze s .scope (some base) 0)) ∧
        (d.bad = false → d.got = none → exec (.await g p n b) s = .next (waitFor s .cond)) ∧
        (∀ q, d.bad = false → d.got = some q → (readHeld s th = true ∨ banksFree s s.tile pa (32 + q.data.length) = false) →
          exec (.await g p n b) s = .next (waitFor s .cond)) ∧
        (∀ q, d.bad = false → d.got = some q → readHeld s th = false → banksFree s s.tile pa (32 + q.data.length) = true →
          (q.wp && !p && !th.pass) = true → exec (.await g p n b) s = .next (freeze s .poisondep (some base) 2)) ∧
        (∀ q, d.bad = false → d.got = some q → readHeld s th = false → banksFree s s.tile pa (32 + q.data.length) = true →
          (q.wp && !p && !th.pass) = false → q.data.length ≤ 16384 →
          ∃ t th', exec (.await g p n b) s = .next t ∧ issuer t = some th' ∧ th'.regs = th.regs ∧
            th'.dyn = th.dyn.filter (fun e => e.name != name) ∧
            (∀ i, i < 32 → readByte t (pa + i) = nth 0 (pubHeader q) i) ∧
            (∀ i, i < q.data.length → readByte t (pa + 32 + i) = pubByte q i) ∧
            (∀ a, a < pa ∨ pa + 32 + q.data.length ≤ a → readByte t a = readByte s a))))

/-- R282, R283, R285 to R288, R293, R454, R464, R465: STRM queues a command at the end of its engine, with its element count
checked against the scratchpad, and writes the command's identifier. With its engine full it waits for an entry, whatever its operands;
else ALIGN, and PERM where the bytes do not lie in the scratchpad, name the scratchpad address, and so does PERM at an operand buffer's
port without the accumulator file, which is the model's choice (log entry 48). The command is poisoned where its address is, or the
pair of a name that it has. The name has the context of its instance, at every privilege. SWAIT commits once no command of that identifier is left; SCANCEL cancels a command that has not ended and does nothing
to one that has. GSET replaces one field of a geometry register. -/
def Obligations.StreamCommands : Prop :=
  (∀ (s : State) (th : Thread) (g : PReg) (port : Port) (dir eng : Bool) (scp : Scope) (ordf cons cv : Bool) (rm : Rm) (ty : Ty)
    (d : SReg) (gr : GReg) (a : SReg) (n : NPair), Runs s th g →
    let pat := s.issue.src.rdG gr
    let sa := (rdS s a).val.toNat
    let ws := if cv then 4 else patW pat
    let e := if eng then 1 else 0
    let q := engOf (coreAt s s.tile) e
    let id := e * 2 ^ 32 + (if eng then th.strm1 else th.strm0) % 2 ^ 32
    (Config.engSize ≤ q.length → exec (.strm g port dir eng scp ordf cons cv rm ty d gr a n) s = .next (waitFor s .operand)) ∧
    (q.length < Config.engSize → sa % ws ≠ 0 → exec (.strm g port dir eng scp ordf cons cv rm ty d gr a n) s =
      .next (freeze s .align (some sa) (BitVec.ofNat 64 ws))) ∧
    (q.length < Config.engSize → sa % ws = 0 → (padSize s.tile ≤ sa ∨ padSize s.tile < sa + patE pat * ws ∨
        ((portOb port).isSome = true ∧ ((coreAt s s.tile).holder ≠ some th.uid ∨ th.kind ≠ .task))) →
      exec (.strm g port dir eng scp ordf cons cv rm ty d gr a n) s = .next (freeze s .perm (some sa) 0)) ∧
    (q.length < Config.engSize → sa % ws = 0 → sa < padSize s.tile → sa + patE pat * ws ≤ padSize s.tile →
      ((portOb port).isSome = true → (coreAt s s.tile).holder = some th.uid ∧ th.kind = .task) →
      ∃ t th' c, exec (.strm g port dir eng scp ordf cons cv rm ty d gr a n) s = .next t ∧
        (port ≠ .hname ∨ headerLost s s.tile (instName s (pairBits s n)) = false → t.mem = s.mem) ∧
        c.poison = ((rdS s a).poison || (n != 0 && ((rdS s (pairLo n)).poison || (rdS s (pairHi n)).poison))) ∧ engOf (coreAt t s.tile) e = q ++ [c] ∧ engOf (coreAt t s.tile) (1 - e) = engOf (coreAt s s.tile) (1 - e) ∧
        c.uid = th.uid ∧ c.port = port ∧ c.out = dir ∧ c.pat = pat ∧ c.sa = sa ∧ c.ord = (coreAt s s.tile).mqOrd ∧
        c.running = false ∧ c.chunks = [] ∧ c.named = (n != 0) ∧ c.name = instName s (pairBits s n) ∧
        nameCtx c.name = s.issue.src.tag.toNat / 65536 ∧ issuer t = some th' ∧ th'.regs = th.regs.wrS d ⟨BitVec.ofNat 64 id, false⟩ ∧
        th'.strm0 = th.strm0 + (if eng then 0 else 1) ∧ th'.strm1 = th.strm1 + (if eng then 1 else 0))) ∧
  (∀ (s : State) (th : Thread) (g : PReg) (a : SReg), Runs s th g →
    (cmdNamed s th (rdS s a).val = none → exec (.swait g a) s = .next s ∧ exec (.scancel g a) s = .next s) ∧
    (∀ c, cmdNamed s th (rdS s a).val = some c → exec (.swait g a) s = .next (waitFor s .cond) ∧
      ∃ t, exec (.scancel g a) s = .next t ∧ t.mem = s.mem ∧ (c.eng = (rdS s a).val.toNat / 2 ^ 32 % 2 →
        ∀ f ∈ engOf (coreAt t s.tile) c.eng, f.uid = c.uid → f.seq = c.seq → f.cancelled = true))) ∧
  (∀ (s : State) (th : Thread) (g : PReg) (gr : GReg) (sel : GField) (a : SReg), Runs s th g →
    let lo := (gfieldAt sel).1
    let w := (gfieldAt sel).2
    ∃ x : BitVec 256, exec (.gset g gr sel a) s = .next (setRegs s (fun r => r.wrG gr x)) ∧
      ∀ i, i < 256 → x.getLsbD i = if lo ≤ i ∧ i < lo + w then (rdS s a).val.getLsbD (i - lo)
        else if sel = .base ∧ i = 63 then false else (s.issue.src.rdG gr).getLsbD i)

/-- R95, R97, R334, R380 to R383, R458 to R460: BAR, BARX and SPAWN. BAR raises PERM outside a span group; a member that was excused
from its episode passes; any other arrives once its accesses to its tile and span have taken effect, and commits when its episode
ends. BARX excuses a frozen member, and raises PERM for the null or a stale capability (R120). SPAWN, once the accesses that it releases
and those that its read of the record follows have taken effect, no request stands before the read at its banks (log entry 80), and no
lowering has stopped injection at its tile (R48), enters a launch in the pending-launch pool and answers its handle, or a busy pool, or the
depth limit; its read finds the errors of the record's line. A malformed or poisoned record and a zero-count one are accepted, and
complete at once, with result 1 and reason 2, and with result 0 (R95, R98); the completion, of wafer scope and with rel 1, frees its pool
record. A thread of the keystone launches at depth 1; that one which serves a graph's record there does so too is the model's
(log entry 114). -/
def Obligations.BarriersAndSpawn : Prop :=
  (∀ (s : State) (th : Thread) (g : PReg) (n : BitVec 4), Runs s th g →
    let m : BitVec 16 := 1#16 <<< n.toNat
    let e := episodeOf th n.toNat
    let u := updIssuer s (fun t => { t with arrived := t.arrived ||| m })
    (th.member = none → exec (.bar g n) s = .next (freeze s .perm none 0)) ∧
    (th.member ≠ none → (n.toNat, e) ∈ th.excused →
      exec (.bar g n) s = .next (updIssuer s (fun t => { t with episode := setD 0 n.toNat (e + 1) t.episode }))) ∧
    (th.member ≠ none → (n.toNat, e) ∉ th.excused → th.arrived.getLsbD n.toNat = false → accessesDone s th.uid 1 0b011 = false →
      exec (.bar g n) s = .next (waitFor s .cond)) ∧
    (th.member ≠ none → (n.toNat, e) ∉ th.excused → (th.arrived.getLsbD n.toNat = true ∨ accessesDone s th.uid 1 0b011 = true) →
      (barrierOpen u { th with arrived := th.arrived ||| m } n.toNat = false → exec (.bar g n) s = .next (waitFor u .cond)) ∧
      (barrierOpen u { th with arrived := th.arrived ||| m } n.toNat = true → exec (.bar g n) s = .next (updIssuer s (fun t =>
        { t with arrived := t.arrived &&& ~~~m, episode := setD 0 n.toNat (e + 1) t.episode }))))) ∧
  (∀ (s : State) (th : Thread) (g : PReg) (k : KReg) (n : BitVec 4), Runs s th g → capTarget s k = .none →
    exec (.barx g k n) s = .next (freeze s .perm none 0)) ∧
  (∀ (s : State) (th v : Thread) (g : PReg) (k : KReg) (j : Nat) (n : BitVec 4), Runs s th g → Serves s k j v →
    (v.member = none → exec (.barx g k n) s = .next (freeze s .perm none 0)) ∧
    (v.member ≠ none → v.arrived.getLsbD n.toNat = true → exec (.barx g k n) s = .next s) ∧
    (v.member ≠ none → v.arrived.getLsbD n.toNat = false → exec (.barx g k n) s = .next (setThread s j
      { v with excused := v.excused ++ [(n.toNat, episodeOf v n.toNat)] }))) ∧
  (∀ (s : State) (th : Thread) (g : PReg) (d c b : SReg), Runs s th g →
    let base := (rdS s b).val.toNat
    let pa := padBase s.tile + base
    let r := readBytes s pa 64
    let u := discover (routerTurn s s.tile pa 64) pa 64
    let may : Prop := releaseList s th.uid 2 = [] ∧ readHeld s th = false ∧ storesOver s th.uid none pa 64 = false ∧
      banksFree s s.tile pa 64 = true ∧ injectionStopped s s.tile = false
    let wrong : Prop := rangeBad s pa 64 = true ∨ (rdS s b).poison = true ∨ recMalformed r = true
    let answer (t : State) (st h : Nat) : Result := .next (putS (putS t d (BitVec.ofNat 64 st) false) c (BitVec.ofNat 64 h) false)
    (base % 64 ≠ 0 → exec (.spawn g d c b) s = .next (freeze s .align (some base) 64)) ∧
    (base % 64 = 0 → padSize s.tile < base + 64 → exec (.spawn g d c b) s = .next (freeze s .perm (some base) 0)) ∧
    (base % 64 = 0 → base + 64 ≤ padSize s.tile → ¬may → exec (.spawn g d c b) s = .next (waitFor s .cond)) ∧
    (base % 64 = 0 → base + 64 ≤ padSize s.tile → may →
      -- the parent: its context, depth, partition and root, by the thread's graph; of the keystone's threads, none
      ∀ (parent : Option Nat) (depth : Nat) (part : Option Nat) (root : Word),
      ((isKs s.tile = true ∧ parent = none ∧ depth = 1 ∧ part = none ∧ root = msRaw s 0x80A) ∨
        (isKs s.tile = false ∧ ∃ x gr, th.graph = some x ∧ graphAt s x = some gr ∧ parent = some (gr.launch * 256 + x) ∧
          depth = gr.depth + 1 ∧ part = gr.part ∧ root = gr.root)) →
      (24 < depth → exec (.spawn g d c b) s = answer u 2 0) ∧
      (depth ≤ 24 → poolNext s = none → exec (.spawn g d c b) s = answer u 1 0) ∧
      (∀ id, depth ≤ 24 → poolNext s = some id →
        (wrong → exec (.spawn g d c b) s =
          answer (completeLaunch { u with lastId := id } (poolHandle s id) parent none r none 1 2) 0 (poolHandle s id)) ∧
        (¬wrong → recZero r = true → exec (.spawn g d c b) s =
          answer (completeLaunch { u with lastId := id } (poolHandle s id) parent none r none 0 0) 0 (poolHandle s id)) ∧
        (¬wrong → recZero r = false → exec (.spawn g d c b) s = answer { u with
          lastId := id, poolSeq := s.poolSeq + 1,
          pool := put id ⟨r, parent, depth, recPrio r, s.poolSeq, none, part, root, false, false⟩ s.pool } 0 (poolHandle s id))))) ∧
  (∀ (s : State) (handle res why : Nat) (parent : Option Nat) (r : List Byte),
    let t := completeLaunch s handle parent none r none res why
    t.pool = del (handle % 65536) s.pool ∧ getD 0 (handle % 65536) t.poolGen = (getD 0 (handle % 65536) s.poolGen + 1) % 65536 ∧
    t.mem = s.mem ∧ ((∃ p, parent = some p ∧ parentLive s p = false) → t.net = s.net) ∧
    ((∀ p, parent = some p → parentLive s p = true) → ∃ q stage, t.net = s.net ++ [.pub q Config.ks 0 [] 3 stage] ∧
      q.name = launchName handle ((parent.map (fun p => p % 256)).getD 0) ∧ q.rel = true ∧ q.scope = 2 ∧ q.pmap = 0 ∧
      q.data = leBytes 8 (res + why * 256) ++ List.replicate 24 0))

/-! Control. -/

/-- R155, R387, R388, R414, R423, R452: branches. A taken one sets the pc to its target; one that is not leaves it past the
bundle, where opening the bundle put it. CALL writes the address of the bundle after it; LOOP counts down and is taken while the
count is not 0. A target outside the scratchpad raises PERM and one that is no multiple of 8 ALIGN; that the address of that PERM is
the target, modulo 2^53, is the model's (log entry 20). -/
def Obligations.BranchesAndJumps : Prop :=
  (∀ (s : State) (th : Thread) (g q : PReg) (t : PTest) (a : SReg) (off : BitVec 28), Runs s th g →
    let tgt : Int := s.issue.pc.toNat + 8 * off.toInt
    let next := s.issue.pc.toNat + 8 * s.issue.words.length
    let go := setPc s tgt.toNat
    let x := rdS s a
    let hit : Bool := match t with
      | .any => rdP s q != 0
      | .all => rdP s q == BitVec.allOnes 64
      | .none => rdP s q == 0
    (hit = false → exec (.brp g t q off) s = .next s) ∧
    (x.val = 0 → exec (.loop g a off) s = .next s) ∧
    (x.val = 1 → exec (.loop g a off) s = .next (putS s a 0 x.poison)) ∧
    (0 ≤ tgt → tgt < padSize s.tile → exec (.br g off) s = .next go ∧ (hit = true → exec (.brp g t q off) s = .next go) ∧
      exec (.call g a off) s = .next (putS go a (BitVec.ofNat 64 next) false) ∧
      (1 < x.val.toNat → exec (.loop g a off) s = .next (putS go a (x.val - 1) x.poison))) ∧
    ((tgt < 0 ∨ padSize s.tile ≤ tgt) → let stop : Result := .next (freeze s .perm (some (tgt % 2 ^ 53).toNat) 0)
      exec (.br g off) s = stop ∧ (hit = true → exec (.brp g t q off) s = stop) ∧ exec (.call g a off) s = stop ∧
      (1 < x.val.toNat → exec (.loop g a off) s = stop))) ∧
  (∀ (s : State) (th : Thread) (g : PReg) (a : SReg), Runs s th g →
    let v := (rdS s a).val.toNat
    (v % 8 ≠ 0 → exec (.jmp g a) s = .next (freeze s .align (some v) 8) ∧ exec (.ret g a) s = .next (freeze s .align (some v) 8)) ∧
    (v % 8 = 0 → padSize s.tile ≤ v →
      exec (.jmp g a) s = .next (freeze s .perm (some v) 0) ∧ exec (.ret g a) s = .next (freeze s .perm (some v) 0)) ∧
    (v % 8 = 0 → v < padSize s.tile → exec (.jmp g a) s = .next (setPc s v) ∧ exec (.ret g a) s = .next (setPc s v)))

/-- R436, R457, R471, R521: NOP changes nothing; YIELD makes its thread not ready; SLEEP commits once its core has counted its
cycles from the issue and waits until then; TEND waits for the commands, matrix operations and register writes of earlier bundles
(that a command of its own bundle does not count is the model's, log entry 51), and then its thread ends: no slot of the machine holds it
any more. A handler's TEND frees its slot, which takes the next waiting record; where the thread that it serves is still frozen, that one
is killed with the effect of KILL and the event is logged (R323); where it is saved, the TEND waits for it (log entry 21). -/
def Obligations.NopYieldSleepEnd : Prop :=
  (∀ (s : State) (th : Thread) (g : PReg) (n : BitVec 24), Runs s th g →
    let past := ((coreAt s s.tile).cyc - s.issue.cyc).toNat
    exec (.nop g) s = .next s ∧
    exec (.yieldC g) s = .next (updIssuer s (fun t => { t with status := .waiting .yield })) ∧
    (n.toNat ≤ past → exec (.sleep g n) s = .next s) ∧
    (past < n.toNat → exec (.sleep g n) s = .next (waitFor s (.sleep (s.issue.cyc + n.setWidth 64))))) ∧
  (∀ (s : State) (th : Thread) (g : PReg), Runs s th g →
    let c := coreAt s s.tile
    let left := (c.eng0 ++ c.eng1).any (fun d => d.uid == th.uid && decide (d.ord < s.issue.ord0)) ||
      c.mq.any (fun m => m.uid == th.uid && decide (m.ord < s.issue.ord0)) ||
      s.inflight.any (fun a => a.uid == th.uid && a.dst != .none && decide (a.id < s.issue.acc0))
    (left = true → exec (.tend g) s = .next (waitFor s .cond)) ∧
    (left = false → (th.kind = .task ∨ th.regs.k0 = none) → ∃ t, exec (.tend g) s = .next t ∧
      (s.saved = [] → th.uid < s.nextUid → (∀ j v, threadAt s j = some v → v.uid = th.uid → j = s.issue.key) →
        ∀ j v, threadAt t j = some v → v.uid ≠ th.uid)) ∧
    (∀ cls u c, left = false → th.kind = .handler cls u → th.regs.k0 = some c →
      let saved : Prop := ∃ v ∈ s.saved, v.th.uid = c.uid ∧ v.th.fzGen = c.gen
      let gone := dropThread (withdrawAll s (tileOf s.issue.key) th) s.issue.key
      (saved → exec (.tend g) s = .next (waitFor s .cond)) ∧
      (¬saved → (∀ k v, keyOfUid gone c.uid = some k → threadAt gone k = some v → v.fzGen ≠ c.gen ∨ v.status ≠ .frozen) →
        exec (.tend g) s = .next (takeRecord gone (tileOf s.issue.key))) ∧
      (∀ k v r, ¬saved → keyOfUid gone c.uid = some k → threadAt gone k = some v → v.fzGen = c.gen → v.status = .frozen → v.fault = some r → exec (.tend g) s =
          .next (takeRecord (killThread (logEvent gone 5 [r.word 0, r.word 1, r.word 2]) k) (tileOf s.issue.key)))))

/-- R31, R123 to R131, R389, R390, R394: CSRR writes a control register as it stood before the bundle, as its issue read it where
the bundle has waited, clean; CSRW writes the bits its register takes: an unassigned rounding mode is ignored, a seed empties the
random-bit queue, a task's level is at most its launch priority, and the read-only registers ignore it. CLSRD writes a class record,
and waits while a lowering is in progress. That a write of the seed leaves the head of the queue where it is (log entry 52), and that a
CSRR whose bundle has waited gives what its issue read (65), are the model's. Which privilege they need is in
TranslationsInvalidated. -/
def Obligations.ControlRegisters : Prop :=
  (∀ (s : State) (th : Thread) (g : PReg) (d : SReg) (n : BitVec 12), Runs s th g →
    let r := s.issue.src
    (∀ w, find n.toNat s.issue.csrs = some w → exec (.csrr g d n) s = .next (putS s d w false)) ∧
    (find n.toNat s.issue.csrs = none → ∃ v : Word, exec (.csrr g d n) s = .next (putS s d v false) ∧
      (n = 1 → v = r.rm.setWidth 64) ∧ (n = 2 → v = if r.psink then 1 else 0) ∧ (n = 3 → v = r.fflags.setWidth 64) ∧
      (n = 4 → v = r.seed) ∧ (n = 5 → r.rng.cnt ≤ 4 → v.toNat % 16 = r.rng.cnt ∧ v.extractLsb' 4 2 = r.rng.head ∧ v.extractLsb' 16 48 = r.rng.ctr) ∧
      (n = 0x10 → v = r.tag.setWidth 64) ∧ (n = 0x11 → v = r.inst.setWidth 64) ∧ (n = 0x12 → v = ctlTile s s.issue.key) ∧
      (n = 0x13 → v = s.issue.cyc) ∧ (n = 0x14 → v.extractLsb' 0 3 = r.level ∧ v.extractLsb' 8 3 = r.lprio ∧ v.getLsbD 15 = r.boost) ∧
      (0x800 ≤ n.toNat → v = msRead s n.toNat))) ∧
  (∀ (s : State) (th : Thread) (g : PReg) (n : BitVec 12) (a : SReg), Runs s th g →
    let v := (rdS s a).val
    (0x800 ≤ n.toNat → exec (.csrw g n a) s = .next (msWrite s n.toNat v (BitVec.allOnes 64) none)) ∧
    (n = 1 → exec (.csrw g n a) s = .next (setRegs s (fun r => { r with rm := if v.toNat % 8 < 6 then v.setWidth 3 else r.rm }))) ∧
    (n = 2 → exec (.csrw g n a) s = .next (setRegs s (fun r => { r with psink := v.getLsbD 0 }))) ∧
    (n = 3 → exec (.csrw g n a) s = .next (setRegs s (fun r => { r with fflags := v.setWidth 5 ||| s.issue.flags }))) ∧
    (n = 4 → exec (.csrw g n a) s = .next (setRegs { s with issue := { s.issue with seeded := true } } (fun r =>
      { r with seed := v, rng := { r.rng with cnt := 0, ctr := 0 } }))) ∧
    (n = 0x14 → exec (.csrw g n a) s = .next (setRegs s (fun r => { r with level :=
      if th.kind = .task ∧ r.lprio.toNat < v.toNat % 8 then r.lprio else v.setWidth 3 }))) ∧
    (n ∈ ([5, 0x10, 0x11, 0x12, 0x13] : List (BitVec 12)) → ∃ t, exec (.csrw g n a) s = .next t ∧ issuer t = some th ∧
      t.mem = s.mem ∧ t.ms = s.ms)) ∧
  (∀ (s : State) (th : Thread) (g : PReg) (d a : SReg), Runs s th g →
    let x := rdS s a
    (msField s 0x811 0 1 = 1 → exec (.clsrd g d a) s = .next (waitFor s .cond)) ∧
    (msField s 0x811 0 1 = 0 → exec (.clsrd g d a) s = .next (putS s d
      (classRecord s (x.val.toNat % 256) (x.val.toNat / 256 % 256)) x.poison)))

/-- R120, R324 to R327, R329, R415: the frozen-state instructions on the thread that k0 names: each raises PERM for the null or a
stale capability. FRZINF reads a word of its record; FRZRD and FRZWR an element of its registers, as Table 14.4 gives it, once no write
to it is outstanding, and PERM outside the table's ranges or for an accumulator whose file the thread does not hold; RESUME makes it ready at its record's pc, or at a written one, and stale; KILL ends it, at once, or where one of its
matrix operations has started once the last of them is done. -/
def Obligations.FrozenThreads : Prop :=
  (∀ (s : State) (th : Thread) (g : PReg) (k : KReg) (d b a : SReg) (x : BitVec 6) (file : File), Runs s th g → capTarget s k = .none →
    let stop : Result := .next (freeze s .perm none 0)
    exec (.frzinf g d k b) s = stop ∧ exec (.frzrd g file x k b) s = stop ∧ exec (.frzwr g file k b x) s = stop ∧
    exec (.resume g k) s = stop ∧ exec (.resumeAtPc g k a) s = stop ∧ exec (.kill g k) s = stop) ∧
  (∀ (s : State) (th v : Thread) (g : PReg) (k : KReg) (j : Nat) (d b : SReg) (x : BitVec 6), Runs s th g → Serves s k j v →
    let i := (rdS s b).val.toNat
    let e := rdS s x
    (i < 8 → exec (.frzinf g d k b) s = .next (putS s d ((v.fault.map (fun (r : FaultRec) => r.word i)).getD 0) false)) ∧
    (8 ≤ i → exec (.frzinf g d k b) s = .next (freeze s .perm none 0)) ∧
    (i < 64 → frzPending s j v .s i = false →
      exec (.frzrd g .s x k b) s = .next (putS s x (v.regs.rdS (BitVec.ofNat 6 i)).val (v.regs.rdS (BitVec.ofNat 6 i)).poison) ∧
      exec (.frzwr g .s k b x) s = .next (setThread s j { v with regs := v.regs.wrS (BitVec.ofNat 6 i) e })) ∧
    (i < 32 → frzPending s j v .v i = false →
      exec (.frzrd g .v x k b) s = .next (putV s (x.setWidth 5) (v.regs.rdV (BitVec.ofNat 5 i))) ∧
      exec (.frzwr g .v k b x) s = .next (setThread s j { v with regs := v.regs.wrV (BitVec.ofNat 5 i) (rdV s (x.setWidth 5)) })) ∧
    (i < 16 → exec (.frzrd g .p x k b) s = .next (putS s x (v.regs.rdP (BitVec.ofNat 4 i)) false) ∧
      exec (.frzwr g .p k b x) s = .next (setThread s j { v with regs := v.regs.wrP (BitVec.ofNat 4 i) e.val })) ∧
    (i < 512 → (coreAt s (tileOf j)).holder = some v.uid → frzPending s j v .ac i = false →
      exec (.frzrd g .ac x k b) s = .next (putV s (x.setWidth 5) (getD accRow i (coreAt s (tileOf j)).acc ++ List.replicate 32 Lane.zero)) ∧
      exec (.frzwr g .ac k b x) s = .next (updCore s (tileOf j) (fun c => { c with acc := setD accRow i ((rdV s (x.setWidth 5)).take 32) c.acc }))) ∧
    (i < 24 → frzPending s j v .sh i = false →
      let n : ShReg := BitVec.ofNat 3 (i / 3)
      let h := v.regs.rdSh n
      ∃ (w : Word) (y : Shape), exec (.frzrd g .sh x k b) s = .next (putS s x w false) ∧
      exec (.frzwr g .sh k b x) s = .next (setThread s j { v with regs := v.regs.wrSh n y }) ∧
      (i % 3 = 0 → w = h.bits.extractLsb' 0 64 ∧ y = ⟨h.bits.extractLsb' 64 64 ++ e.val, h.valid⟩) ∧
      (i % 3 = 1 → w = h.bits.extractLsb' 64 64 ∧ y = ⟨e.val ++ h.bits.extractLsb' 0 64, h.valid⟩) ∧
      (i % 3 = 2 → w = (if h.valid then 1 else 0) ∧ y = ⟨h.bits, e.val.getLsbD 0 && decide (h.bits.extractLsb' 92 36 = 0)⟩)) ∧
    (i < 64 →
      let n : GReg := BitVec.ofNat 4 (i / 4)
      let lo := 64 * (i % 4)
      ∃ y : BitVec 256, exec (.frzrd g .g x k b) s = .next (putS s x ((v.regs.rdG n).extractLsb' lo 64) false) ∧
      exec (.frzwr g .g k b x) s = .next (setThread s j { v with regs := v.regs.wrG n y }) ∧
      ∀ m, m < 256 → y.getLsbD m = if lo ≤ m ∧ m < lo + 64 then e.val.getLsbD (m - lo) && !(decide (55 ≤ m ∧ m < 64))
        else (v.regs.rdG n).getLsbD m) ∧
    (i < 64 →
      let old := getD 0 (i / 16) v.regs.rng.ent
      let lo := 64 * (i % 16)
      ∃ y : BitVec 1024, exec (.frzrd g .rq x k b) s = .next (putS s x (old.extractLsb' lo 64) false) ∧
      exec (.frzwr g .rq k b x) s = .next (setThread s j { v with
        regs := { v.regs with rng := { v.regs.rng with ent := setD 0 (i / 16) y v.regs.rng.ent } } }) ∧
      ∀ m, m < 1024 → y.getLsbD m = if lo ≤ m ∧ m < lo + 64 then e.val.getLsbD (m - lo) else old.getLsbD m) ∧
    (let ctl (w : Word) (r : Regs) : Prop := exec (.frzrd g .ctl x k b) s = .next (putS s x w false) ∧
        exec (.frzwr g .ctl k b x) s = .next (setThread s j { v with regs := r })
     let r := v.regs
     (i = 1 → ctl (r.rm.setWidth 64) { r with rm := if e.val.toNat % 8 < 6 then e.val.setWidth 3 else r.rm }) ∧
     (i = 2 → ctl (if r.psink then 1 else 0) { r with psink := e.val.getLsbD 0 }) ∧
     (i = 3 → ctl (r.fflags.setWidth 64) { r with fflags := e.val.setWidth 5 }) ∧
     (i = 4 → ctl r.seed { r with seed := e.val, rng := { r.rng with cnt := 0, ctr := 0 } }) ∧
     (i = 5 → ∃ w,
       let cnt := if 5 ≤ e.val.toNat % 8 then r.rng.cnt else e.val.toNat % 8
       ctl w { r with rng := { r.rng with ctr := e.val.extractLsb' 16 48, head := e.val.extractLsb' 4 2, cnt := cnt } } ∧
       (r.rng.cnt ≤ 4 → w.toNat % 16 = r.rng.cnt ∧ w.extractLsb' 4 2 = r.rng.head ∧ w.extractLsb' 16 48 = r.rng.ctr)) ∧
     (i = 0x10 → ctl (r.tag.setWidth 64) r) ∧ (i = 0x11 → ctl (r.inst.setWidth 64) r) ∧ (i = 0x12 → ctl (ctlTile s j) r) ∧
     (i = 0x13 → ctl (coreAt s (tileOf j)).cyc r) ∧
     (i = 0x14 → ∃ w, ctl w { r with level := e.val.setWidth 3 } ∧
       w.extractLsb' 0 3 = r.level ∧ w.extractLsb' 8 3 = r.lprio ∧ w.getLsbD 15 = r.boost)) ∧
    ∀ f : File,
      let inside : Prop := match f with
        | .s | .g | .rq => i < 64
        | .v => i < 32
        | .p => i < 16
        | .ac => i < 512
        | .sh => i < 24
        | .ctl => (1 ≤ i ∧ i ≤ 5) ∨ (0x10 ≤ i ∧ i ≤ 0x14)
      let holds : Prop := f = .ac → (coreAt s (tileOf j)).holder = some v.uid
      ((¬inside ∨ ¬holds) → exec (.frzrd g f x k b) s = .next (freeze s .perm none 0) ∧
        exec (.frzwr g f k b x) s = .next (freeze s .perm none 0)) ∧
      (inside → holds → frzPending s j v f i = true → exec (.frzrd g f x k b) s = .next (waitFor s .cond) ∧
        exec (.frzwr g f k b x) s = .next (waitFor s .cond))) ∧
  (∀ (s : State) (th v : Thread) (g : PReg) (k : KReg) (j : Nat) (a : SReg), Runs s th g → Serves s k j v → v.held = [] →
    let ready (pc : Word) (t : State) : Prop := ∃ v', threadAt t j = some v' ∧ v'.status = .ready ∧ v'.pc = pc ∧ v'.fault = none ∧
      v'.fzGen = v.fzGen + 1 ∧ v'.regs = v.regs ∧ t.mem = s.mem
    let pc := (rdS s a).val
    (∃ t, exec (.resume g k) s = .next t ∧ ready ((v.fault.map (fun (r : FaultRec) => r.pc.setWidth 64)).getD v.pc) t) ∧
    (pc.toNat % 8 ≠ 0 → exec (.resumeAtPc g k a) s = .next (freeze s .align (some pc.toNat) 8)) ∧
    (pc.toNat % 8 = 0 → ∃ t, exec (.resumeAtPc g k a) s = .next t ∧ ready pc t)) ∧
  (∀ (s : State) (th v : Thread) (g : PReg) (k : KReg) (j : Nat), Runs s th g → Serves s k j v →
    let started := (coreAt s (tileOf j)).mq.any (fun m => m.uid == v.uid && m.started)
    ∃ t, exec (.kill g k) s = .next t ∧ t.mem = s.mem ∧
      (started = true → ∃ x, threadAt t j = some x ∧ x.uid = v.uid ∧ x.dying = true ∧ x.fault = none ∧ x.fzGen = v.fzGen + 1) ∧
      (started = false → s.saved = [] → v.uid < s.nextUid → (∀ i x, threadAt s i = some x → x.uid = v.uid → i = j) →
        ∀ i x, threadAt t i = some x → x.uid ≠ v.uid))

/-- R309, R310, R472: TLBINV removes the translations of an address of one root, and TLBINV.all those of a root or of every root;
it commits at once where no access that used one is open and no stream port holds a chunk or an extent of a removed page. R135, R157:
it needs system privilege, as CSRR and CSRW of a machine register do, and the frozen-state instructions, CLSRD and BARX need that of a
handler; a bundle that breaks no decode rule raises PRIV at its lowest syllable above its thread's privilege, and decodes to its
syllables where there is none. -/
def Obligations.TranslationsInvalidated : Prop :=
  (∀ (s : State) (th : Thread) (g : PReg) (a : SReg), Runs s th g → s.drains = [] → s.inflight = [] →
    (∀ c ∈ s.cores, c.2.eng0 = [] ∧ c.2.eng1 = [] ∧ c.2.gens = []) →
    let v := (rdS s a).val
    let va := v.toNat / 2 ^ 13 % 2 ^ 40 * 2 ^ 13
    exec (.tlbinv g a) s = .next (dropTlbs s ⟨some [invRoot v], some va⟩) ∧
    exec (.tlbinvAll g a) s = .next (dropTlbs s ⟨if v.getLsbD 12 then none else some [invRoot v], none⟩) ∧
    (∀ t e, ⟨t, e⟩ ∈ (dropTlbs s ⟨some [invRoot v], some va⟩).cores.flatMap (fun c => c.2.tlb.map (fun e => (c.1, e))) →
      entryRoot t e = invRoot v → e.vpage ≠ va / 2 ^ (13 + 10 * e.lvl))) ∧
  (∀ x : Instr, (2 ≤ privOf x ↔ (∃ g a, x = .tlbinv g a) ∨ (∃ g a, x = .tlbinvAll g a) ∨
      (∃ g d n, x = .csrr g d n ∧ 0x800 ≤ n.toNat) ∨ ∃ g n a, x = .csrw g n a ∧ 0x800 ≤ n.toNat) ∧
    (1 ≤ privOf x ↔ 2 ≤ privOf x ∨ (∃ g f d k b, x = .frzrd g f d k b) ∨ (∃ g f k b a, x = .frzwr g f k b a) ∨
      (∃ g d k b, x = .frzinf g d k b) ∨ (∃ g k, x = .resume g k) ∨ (∃ g k a, x = .resumeAtPc g k a) ∨ (∃ g k, x = .kill g k) ∨
      (∃ g d a, x = .clsrd g d a) ∨ ∃ g a b, x = .barx g a b)) ∧
  (∀ (noM : Bool) (priv : Nat) (ws : List Word), firstIllegal noM ws = none →
    ((∀ e ∈ instrsOf ws, privOf e.2 ≤ priv) → decodeBundle noM priv ws = .ok (instrsOf ws)) ∧
    ((∃ e ∈ instrsOf ws, priv < privOf e.2) → ∃ e ∈ instrsOf ws, decodeBundle noM priv ws = .bad .priv e.1 0 ∧
      priv < privOf e.2 ∧ ∀ f ∈ instrsOf ws, priv < privOf f.2 → e.1 ≤ f.1))

/-! Taking a fault. -/

/-- R314 to R319, R474: taking a fault, and TRAP as the syllable whose own effect it is. On a tile with a free handler slot and a
handler bound to the class, the thread freezes at the bundle, with its record; the handler's thread starts in the slot at the
handler's code, at handler privilege, with the capability to the frozen thread in its k0 and every other register as at firing;
no other thread and no byte of memory changes. That the freeze clears boost, and that the record keeps the pc modulo 2^22, are the
model's (log entry 86). -/
def Obligations.TrapTakesTheException : Prop :=
  (∀ (s : State) (th : Thread) (g : PReg) (code : BitVec 24), Runs s th g →
    exec (.trap g code) s = .next (takeFault { s with issue := { s.issue with flow := .freeze } } s.issue.key .trapsw s.issue.pc
      s.issue.words.length s.issue.idx (nth 0 s.issue.words s.issue.idx) none (code.setWidth 64))) ∧
  (∀ (s : State) (k j c : Nat) (th : Thread) (gr : Graph) (h : HandlerDecl) (cls : FaultClass) (pc : Word) (n f : Nat) (w : Word)
    (addr : Option (BitVec 53)) (aux : Word), threadAt s k = some th → th.kind = .task → cls ≠ .preempt → th.graph = some c →
    graphAt s c = some gr → handlerOf gr cls = some h → isKs (tileOf k) = false → freeHandler s (tileOf k) = some j →
    let t := takeFault s k cls pc n f w addr aux
    let hk := keyOf (tileOf k) j
    ∃ v r x, threadAt t k = some v ∧ v.status = .frozen ∧ v.pc = pc ∧ v.fault = some r ∧ v.uid = th.uid ∧
      v.regs = { th.regs with boost := false } ∧
      r.cls = cls ∧ r.pc = pc.setWidth 22 ∧ r.nsyl = n ∧ r.fsyl = f ∧ r.syl = w ∧ r.addr = addr ∧ r.aux = aux ∧
      r.tag = th.regs.tag ∧ r.inst = th.regs.inst ∧ r.slot = slotOf k ∧ r.lvl = 0 ∧ r.epoch = s.epoch ∧
      r.x = tileX (tileOf k) ∧ r.y = tileY (tileOf k) ∧ r.cyc = (coreAt s (tileOf k)).cyc ∧ r.via = 0 ∧ r.hsite = siteOf (tileOf k) ∧
      threadAt t hk = some x ∧ x.kind = .handler 1 th.uid ∧ x.status = .ready ∧ x.priv = 1 ∧ x.pc = BitVec.ofNat 64 h.code ∧
      x.regs.k0 = some ⟨th.uid, th.fzGen⟩ ∧ x.regs.tag = th.regs.tag ∧ x.regs.inst = th.regs.inst ∧
      x.regs.s = [] ∧ x.regs.v = [] ∧ x.regs.p = [] ∧ x.regs.sh = [] ∧ x.regs.g = [] ∧ x.regs.psink = true ∧ x.regs.fflags = 0 ∧
      x.regs.rm = 0 ∧ x.regs.seed = 0 ∧ x.regs.rng.cnt = 0 ∧ x.regs.rng.ctr = 0 ∧ x.regs.boost = false ∧
      x.regs.lprio = BitVec.ofNat 3 gr.prio ∧ x.regs.level = BitVec.ofNat 3 gr.prio ∧
      (∀ q, q ≠ k → q ≠ hk → threadAt t q = threadAt s q) ∧ t.mem = s.mem ∧ t.poison = s.poison)

/-- R320: a graph that binds no handler to the class: the keystone appends the record to its event log and kills the instance
with the effect of KILL. That the freeze before it clears boost and keeps the pc modulo 2^22 in the record (log entry 86), and drops
what the bundle had read and not used (11), are the model's. -/
def Obligations.UnhandledFaultKills : Prop :=
  ∀ (s : State) (k c : Nat) (th : Thread) (cls : FaultClass) (pc : Word) (n f : Nat) (w : Word) (addr : Option (BitVec 53))
    (aux : Word), threadAt s k = some th → th.kind = .task → cls ≠ .preempt → th.graph = some c →
    (∀ gr, graphAt s c = some gr → handlerOf gr cls = none) →
    ∃ r : FaultRec, r.cls = cls ∧ r.tag = th.regs.tag ∧ r.inst = th.regs.inst ∧ r.pc = pc.setWidth 22 ∧ r.aux = aux ∧
      takeFault s k cls pc n f w addr aux = killThread (logEvent (setThread
        { s with inflight := s.inflight.filter (fun a => !(a.uid == th.uid && a.inner)) } k { th with
        status := .frozen, bundle := none, fault := some r, pc := pc, waited := 0, fetched := [], regs := { th.regs with boost := false } }) 5 [r.word 0, r.word 1, r.word 2]) k


/-! The steps of the device. -/

/-- R105 to R107, R110, R130, R132, R191, R313, R360, R457: the steps of a core. A cycle of an awake core counts, suppressed or not;
a gated one stands still; a selected thread's bundle opens, unless it has an L syllable that the load/store port cannot take yet
(R236), or a bank has yet to serve the fetch of one of its words (R141, R235), when those that can be fetched are. A thread passed over 4,064 times holds boost; a bundle that waits opens again as it was fetched, a sleeping one once its
target is reached and the port can take its L syllable; the generator places one entry of the slot it serves. R111, R112, R119, R139, R156: a bundle decodes where each of
its syllables does, no class is over its limit, no register is written twice but s0 and p0, no accumulator bank is named twice, an X
syllable has its place and no payload bit too many, and its sixth syllable ends it; any other raises ILLEGAL at the lowest index that
breaks a rule, with the lowest reason there, and nothing of it opens. That a waiting bundle opens again with the words it was fetched as
(log entry 68) and with what it kept (65), and that the auxiliary word of a charged X syllable has the bits that stand at the place of an
opcode (90), are the model's. -/
def Obligations.CoreSteps : Prop :=
  (∀ (s : State) (t : Nat),
    let y := yielded s t
    let u := tick s t
    ((isKs t = false ∧ (isSite t = false ∨ getD false (bayOf t) s.gated = true)) → exec (.issueCycle t) s = .next s) ∧
    ((isKs t = true ∨ (isSite t = true ∧ getD false (bayOf t) s.gated = false)) →
      (coreAt u t).cyc = (coreAt s t).cyc + 1 ∧ u.mem = s.mem ∧ u.threads = s.threads ∧
      (suppressed u t = true → exec (.issueCycle t) s = .next (yieldsOver y u)) ∧
      (suppressed u t = false → selected (coreAt u t) (readyOn u t) = none → exec (.issueCycle t) s = .next (yieldsOver y u)) ∧
      (∀ k th, suppressed u t = false → selected (coreAt u t) (readyOn u t) = some (k, th, .go) →
        (coreAt u t).cyc < (coreAt u t).portFree → holdsL u k th = true → exec (.issueCycle t) s = .next (yieldsOver y u)) ∧
      (∀ k th, suppressed u t = false → selected (coreAt u t) (readyOn u t) = some (k, th, .go) →
        ((coreAt u t).cyc < (coreAt u t).portFree → holdsL u k th = false) →
        (∀ n, fetchStalls u k th = some n →
          exec (.issueCycle t) s = .next (yieldsOver y (fetchSome u k th n)) ∧ (fetchSome u k th n).mem = s.mem ∧
          ∃ v, threadAt (fetchSome u k th n) k = some v ∧ v.pc = th.pc ∧ v.regs = th.regs ∧ v.status = th.status ∧
            v.waited = th.waited ∧ ∀ a ∈ (unfetched k th n), bankTaken u (tileOf k) a = false → (find a v.fetched).isSome = true) ∧
        (fetchStalls u k th = none →
          exec (.issueCycle t) s = .next (yieldsOver y (openBundle (updCore (passedOver (readyOn u t) k u) t (fun c =>
            { c with last := put (issueLevel th) (slotOf k) c.last })) k th (some (threadsOn (yieldsOver y u) t, (coreAt u t).last)))))))) ∧
  (∀ (s : State) (k : Nat) (th : Thread), threadAt s k = some th →
    (th.kind = .task → 4064 ≤ th.waited → exec (.boostThread k) s = .next (setThread s k { th with regs := { th.regs with boost := true } })) ∧
    ((th.kind ≠ .task ∨ th.waited < 4064) → exec (.boostThread k) s = .next (setThread s k th)) ∧
    (∀ b, th.bundle = some b → arriving s k = false →
      let busy := portTaken s (tileOf k) && b.words.any (fun w => wordCls w == 3)
      let again (w : Wait) : State := openWords s k th b.words (instrsOf b.words) (some w) b.kept none
      (busy = true → exec (.bundleCommit k) s = .next s) ∧
      (busy = false → (th.status = .waiting .cond → exec (.bundleCommit k) s = .next (again .cond)) ∧
        (∀ va i w n, th.status = .waiting (.lent va i w n) → exec (.bundleCommit k) s = .next (again (.lent va i w n))) ∧
        (∀ i p j, th.status = .waiting (.gone i p j) → exec (.bundleCommit k) s = .next (again (.gone i p j))))) ∧
    (∀ b w, th.bundle = some b → th.status = .waiting (.sleep w) →
      let busy := portTaken s (tileOf k) && b.words.any (fun w => wordCls w == 3)
      (busy = true → exec (.sleepExpiry k) s = .next s) ∧
      (busy = false → w.toNat ≤ (coreAt s (tileOf k)).cyc.toNat → exec (.sleepExpiry k) s =
        .next (openWords s k th b.words (instrsOf b.words) (some (.sleep w)) b.kept none)) ∧
      ((coreAt s (tileOf k)).cyc.toNat < w.toNat → exec (.sleepExpiry k) s = .next s))) ∧
  (∀ (s : State) (t k : Nat) (th : Thread), refillKey s t = some k → threadAt s k = some th →
    ∃ u v, exec (.rngRefill t) s = .next u ∧ threadAt u k = some v ∧ v.regs.rng.cnt = th.regs.rng.cnt + 1 ∧
      v.regs.rng.ctr = th.regs.rng.ctr + 1 ∧ v.regs.rng.head = th.regs.rng.head ∧
      getD 0 ((th.regs.rng.head.toNat + th.regs.rng.cnt) % 4) v.regs.rng.ent = rngEntry th.regs.seed th.regs.tag th.regs.rng.ctr.toNat) ∧
  (∀ (noM : Bool) (ws : List Word), firstIllegal noM ws = none ↔
    (∀ i < ws.length, let w := nth 0 ws i
      (isX w = true → 0 < i ∧ ∃ n, wordX (nth 0 ws (i - 1)) = some n ∧ w.toNat % 2 ^ 60 < 2 ^ n) ∧
      (isX w = false → (∃ x, decodeAt ws i = .ok x) ∧ (noM = true → wordCls w ≠ 2)) ∧
      (i = 5 → w.getLsbD 63 = true)) ∧
    (∀ c < 6, ((upTo ws.length).filter (fun i => wordCls (nth 0 ws i) == c)).length ≤ (if c < 3 then 2 else 1)) ∧
    (∀ e ∈ instrsOf ws, (realWrites e.2).Nodup ∧ ∀ n, csrOf e.2 = some n → csrAssigned n = true) ∧
    ∀ e ∈ instrsOf ws, ∀ f ∈ instrsOf ws, e.1 < f.1 →
      (∀ y ∈ realWrites e.2, y ∉ realWrites f.2) ∧ (bankOfM e.2 ≠ none → bankOfM e.2 ≠ bankOfM f.2)) ∧
  (∀ (noM : Bool) (ws : List Word) (i why : Nat), firstIllegal noM ws = some (i, why) →
    (∀ priv, decodeBundle noM priv ws = .bad .illegal i why) ∧ i < ws.length ∧ why ∈ reasonsAt noM ws i ∧
      (∀ x ∈ reasonsAt noM ws i, why ≤ x) ∧ ∀ j < i, reasonsAt noM ws j = []) ∧
  (∀ (s : State) (k : Nat) (th : Thread) (u : Option (List (Nat × Thread) × Map Nat)) (ws : List Word) (cls : FaultClass) (i why : Nat),
    nextBundle s k th = some (ws, .bad cls i why) →
    openBundle s k th u = takeFault (fetchFound s k th ws.length false) k cls th.pc ws.length i (nth 0 ws i) none (decodeAux ws i why))

/-- R51, R261, R296, R302, R306, R308, R309, R314: the steps beside the accesses: a walk's leaf that a task may reach enters the TLBs
and any other result changes none of them; a drain token that is home acknowledges; a scrubber poisons a line it cannot correct; a lost
load of a live target is sent again, and what it has read already stays as read (DEDUCED, log entry 113); an asynchronous fault freezes its thread, or is held by a frozen one. That the end of a walk is an
event of its own, that enters a leaf where a task may reach it, is the model's (log entries 35 and 75). -/
def Obligations.MemorySteps : Prop :=
  (∀ (s : State) (t c va : Nat) (g : Graph), isKs t = false → graphAt s c = some g → 0x2000000 ≤ va →
    (va < 0x4000000 ∨ 0x8000000 ≤ va) →
    (∀ pa e l, walk s g.root va = .leaf pa e l →
      let check := leafCheck s ⟨t, 0, c, g.root, false⟩ ⟨true, false, false, none⟩ pa e
      (∀ q p, check = .ok q p → exec (.translationWalkDone t c va) s = .next (installTlb s t ⟨c, va / 2 ^ (13 + 10 * l), l, e⟩)) ∧
      ((∀ q p, check ≠ .ok q p) → exec (.translationWalkDone t c va) s = .next s)) ∧
    (walk s g.root va = .moving → exec (.translationWalkDone t c va) s = .next s) ∧
    (∀ w l a, walk s g.root va = .bad w l a →
      exec (.translationWalkDone t c va) s = .next (if w = 5 then discover s a 8 else s))) ∧
  (∀ (s : State) (k : Nat) (th : Thread), threadAt s k = some th → ∃ t, exec (.tlbDrainAck k) s = .next t ∧ t.mem = s.mem ∧
    (∀ d ∈ t.drains, d.uid = th.uid → ∀ p ∈ d.ports, tokenHome s p = false) ∧
    (∀ d, d.uid ≠ th.uid → (d ∈ t.drains ↔ d ∈ s.drains))) ∧
  (∀ (s : State) (n pa : Nat),
    (isStruck s (.line n) = false → exec (.scrubLine n false) s = .next s) ∧
    (0x039000000000 ≤ 64 * n → ∀ bad, exec (.scrubLine n bad) s = .next s) ∧
    (64 * n < 0x039000000000 → ∃ t, exec (.scrubLine n true) s = .next t ∧ t.mem = s.mem ∧
      (linePoison t pa = if pa / 64 = n then true else linePoison s pa))) ∧
  (∀ (s : State) (id : Nat) (a : Access) (e : Elem), accAt s id = some a → find id s.olds = none →
    ((∀ f ∈ a.elems, f.cut = false) → exec (.lostTransactionTimeout id) s = .next s) ∧
    (a.kind = .load → a.elems = [e] → e.cut = true → siteLost s e.pa e.path = false →
      ∃ t, exec (.lostTransactionTimeout id) s = .next t ∧ t.mem = s.mem ∧
        (e.done = false → accAt t id = some { a with elems := [{ e with sent := false, cut := false }] }) ∧
        (∀ b, accAt t id = some b → b.elems = [{ e with sent := false, cut := false }]))) ∧
  (∀ (s : State) (i u k : Nat) (f : AFault) (th : Thread), s.net[i]? = some (.afault u f) → keyOfUid s u = some k →
    threadAt s k = some th → s.saved.any (fun v => v.th.uid == u) = false →
    (th.status = .frozen → exec (.asyncFaultArrival i) s = .next (setThread (takeMsg s i) k { th with held := th.held ++ [f] })) ∧
    (th.status = .ready → exec (.asyncFaultArrival i) s = .next (takeFault (takeMsg s i) k f.cls th.pc
      ((th.bundle.map (fun b => b.words.length)).getD 0) 7 0 f.addr f.aux)))

/-- R109, R186, R187, R235, R238, R246, R247, R275, R284, R287, R289, R290, R293, R295, R311: the steps of a stream engine of an awake bay:
the dispatcher starts the oldest head whose port is free, one without elements ending at once. A chunk that starts, of either direction
and width, has its run of elements; it asks a host or a peer for them at once, takes those of a named source from its command's copy,
and reads any other source word by word, each aligned 32-bit word at an instant of its own, where a bank serves it or at its port.
What it has read it converts (R287), and it writes its destination in the same way, word by word, changing no other byte; what goes
to a host leaves whole, once all is read. A chunk with an element that fails goes on its way, and once it comes back holds its command
with the first such element; a chunk ends once all of it is written. The commands of a tile publish their tails. That the file of an
ended thread goes with its last fill is the model's reading (log entry 51). -/
def Obligations.StreamSteps : Prop :=
  (∀ (s : State) (t e n : Nat), asleep s t = true → exec (.streamDispatch t) s = .next s ∧ exec (.streamChunkStart t e) s = .next s ∧
    exec (.streamChunkDone t e n) s = .next s) ∧
  (∀ (s : State) (t : Nat), asleep s t = false → (dispatchable s t = none → exec (.streamDispatch t) s = .next s) ∧
    ∀ c, dispatchable s t = some c →
      (patE c.pat ≠ 0 → exec (.streamDispatch t) s = .next (putCmd s t { c with running := true })) ∧
      (patE c.pat = 0 → exec (.streamDispatch t) s = .next (dropFile (publishStream (removeCmd s t c) t c 0 none 0) t c.uid))) ∧
  (∀ (s s' : State) (t e : Nat) (c : Cmd), asleep s t = false → runningCmd s t e = some c → c.held = none → c.cancelled = false → cmdPreempted s c = false → c.next < patE c.pat → c.chunks.length < 16 →
    chunkFree s t c = true →
    let n := chunkLen c c.next 127 1
    let l := (upTo n).map (fun i => c.next + i)
    (∀ f cls x, elemsAt s t c l = (s', some (f, cls), x) → f ∈ l ∧ ∃ k, exec (.streamChunkStart t e) s =
      .next (putCmd { s' with nextAcc := s'.nextAcc + 1 } t { c with next := c.next + n, chunks := c.chunks ++ [k] }) ∧
      k.id = c.next ∧ k.flt = some (f, cls)) ∧
    (∀ pa p, elemsAt s t c l = (s', none, some (pa, p)) → chunkWaits s' t c p pa = false → chunkRoutes s' t c p pa = true →
      ∃ k v, exec (.streamChunkStart t e) s = .next (putCmd v t { c with next := c.next + n, chunks := c.chunks ++ [k] }) ∧
        v = { s' with nextAcc := s'.nextAcc + 1, outHost := v.outHost, free := v.free } ∧
        k.id = c.next ∧ k.flt = none ∧ k.num = s'.nextAcc ∧ k.n = n ∧ k.pa = pa ∧ k.path = p ∧ k.cut = false ∧ k.dst = [] ∧
        ((c.out = true ∨ (c.port ≠ .hname ∧ p.remote = false)) → k.src = [] ∧ k.waiting = false ∧ v.outHost = s'.outHost) ∧
        (∀ q, c.out = false → c.port = .hname → c.src = some q → k.waiting = false ∧ v.outHost = s'.outHost ∧ allRead t c k = true ∧
          k.data = (upTo (n * c.pw)).map (fun i => pubByte q (pa + i)) ∧ k.bad = (upTo (n * c.pw)).map (fun i => pubBad q (pa + i))) ∧
        (c.out = false → c.port ≠ .hname → p = .host → k.waiting = true ∧
          v.outHost = s'.outHost ++ [.hostRead (hostAddr pa).1 (hostAddr pa).2 (n * c.pw) (64 * k.num)]) ∧
        (c.out = false → c.port ≠ .hname → p = .peer → devId s' ≠ 0xFFF → k.waiting = true ∧
          v.outHost = s'.outHost ++ [.peerReq (pa / 2 ^ 35 % 4096) (pa % 2 ^ 35) (64 * k.num) .load (List.replicate (n * c.pw) .keep)])) ∧
    (∀ pa p, elemsAt s t c l = (s', none, some (pa, p)) → (chunkWaits s' t c p pa = true ∨ chunkRoutes s' t c p pa = false) →
      exec (.streamChunkStart t e) s = .next s')) ∧
  (∀ (s : State) (t e n : Nat) (c : Cmd) (k : Chunk),
    pick (fun c => (c.chunks.find? (fun k => k.id == n)).map (fun k => (c, k))) (engOf (coreAt s t) e) = some (c, k) →
    asleep s t = false →
    (∀ d f cls, c.chunks.find? (fun x => x.flt.isSome) = some d → d.flt = some (f, cls) → k.flt.isSome = true →
      exec (.streamChunkDone t e n) s = .next (holdCmd s t { c with
        held := some ⟨cls, some (BitVec.ofNat 53 (patA c.pat f)), 0⟩, chunks := c.chunks.filter (fun x => x.flt.isNone) })) ∧
    (k.flt = none → k.waiting = false → k.cut = false → writeLost s t c k = false →
      (c.out = true → k.path.remote = true → k.sent = false → allRead t c k = false → exec (.streamChunkDone t e n) s = .next s) ∧
      (c.out = true → k.path = .host → k.sent = false → allRead t c k = true →
        ∃ u, exec (.streamChunkDone t e n) s = .next u ∧ u.mem = s.mem ∧
          u.outHost = s.outHost ++ [.hostWrite (hostAddr k.pa).1 (hostAddr k.pa).2
            (((convertBytes c k.data k.bad).1.zip (convertBytes c k.data k.bad).2).map (fun x => if x.2 then none else some x.1))
            (64 * k.num)]) ∧
      ((c.out = false ∨ k.path.remote = false) → allWritten t c k = false → exec (.streamChunkDone t e n) s = .next s) ∧
      ((c.out = false ∨ (portOb c.port).isSome = true ∨ (answerRoute s t k.path k.pa).isSome = true) →
        (c.out = false ∨ k.path.remote = false) → allWritten t c k = true → exec (.streamChunkDone t e n) s = .next (chunkEnd s t c k)))) ∧
  -- a word of a chunk has its instant at its port, or where a bank serves it
  (∀ (s : State) (i : Instr) (id tile bank q t j : Nat) (bad : Bool) (c : Cmd) (k : Chunk),
    ((i = .accessAtOwningPoint id j bad ∧ accAt s id = none ∧ chunkAt s id = some (t, c, k) ∧ asleep s t = false ∧ offBank c k j = true) ∨
      (i = .bankServe tile bank bad ∧ asleep s tile = false ∧ nextRequest s tile bank = some (q, .part t c k j))) →
    let src := wordPart (srcBase t c k) (srcLen c k) j
    let dst := wordPart (dstBase t c k) (dstLen c k) (j - 64)
    let r := convertBytes c k.data k.bad
    let o := dst.1 - dstBase t c k
    (j < 64 → canRead s t c k j = true → (c.out = true ∨ portGone s k = false) →
      ∃ v d, exec i s = .next (putChunk v t c d) ∧ v.mem = s.mem ∧ v.inflight = s.inflight ∧
        d = { k with data := overlay k.data (readBytes s src.1 src.2) (src.1 - srcBase t c k),
                     bad := overlay k.bad ((upTo src.2).map (fun x => lineBad s (src.1 + x))) (src.1 - srcBase t c k), src := j :: k.src }) ∧
    (64 ≤ j → canWrite s t c k (j - 64) = true → (c.out = false ∨ portOb c.port = none) → ∃ u, exec i s = .next u ∧
      (∀ x, x < dst.2 → o + x < r.1.length → readByte u (dst.1 + x) = nth 0 r.1 (o + x)) ∧
      (∀ x, x < dst.2 → nth false r.2 (o + x) = true → linePoison u (dst.1 + x) = true) ∧
      ∀ pa, pa < dst.1 ∨ dst.1 + dst.2 ≤ pa → readByte u pa = readByte s pa) ∧
    (∀ b, 64 ≤ j → canWrite s t c k (j - 64) = true → c.out = true → portOb c.port = some b → ∃ u, exec i s = .next u ∧ u.mem = s.mem ∧
      (∀ x, x < dst.2 → o + x < r.1.length → getD 0 (18432 * b + dst.1 + x) (coreAt u t).ob = nth 0 r.1 (o + x)) ∧
      ∀ y, y < 18432 * b + dst.1 ∨ 18432 * b + dst.1 + dst.2 ≤ y → getD 0 y (coreAt u t).ob = getD 0 y (coreAt s t).ob)) ∧
  (∀ (c : Cmd) (src : List Byte) (bad : List Bool) (n : Nat),
    let w := if c.out then c.ws else c.pw
    let v := if c.out then c.pw else c.ws
    let r := convertBytes c src bad
    0 < w → src.length = n * w → r.1.length = n * v ∧ r.2.length = n * v ∧ ∀ i, i < n →
      let x := leNat ((src.drop (w * i)).take w)
      let narrow := convert c.ty .f32 (Mode.ofCode c.mode) 0 false false x
      leNat ((r.1.drop (v * i)).take v) = (if c.cv = false then x else if c.out then narrow.bits % 2 ^ (8 * v)
        else (convert .f32 c.ty .rne 0 false false x).bits % 2 ^ 32) ∧
      ∀ y, y < v → nth false r.2 (v * i + y) =
        (c.poison || ((bad.drop (w * i)).take w).any (fun b => b) || (c.cv && c.out && narrow.poison))) ∧
  (∀ (s : State) (t : Nat), ∃ u, exec (.tailPublish t) s = .next u ∧ u.mem = s.mem ∧
    (∀ c ∈ (coreAt s t).eng0 ++ (coreAt s t).eng1, (t, c.ord, c.graph, tailOf c) ∈ u.tails) ∧
    ∀ x, x.1 ≠ t → (x ∈ u.tails ↔ x ∈ s.tails))

/-- R90 to R104: the steps of a launch: a record that a host writes enters the pool and its slot shows the outcome; the next launch
takes the lowest free context, whose poison records count from 0 again, and its record is published; a stage that loads runs with its
placements, or its graph is aborted with the reason, an uncorrectable line of its image being found (R261); while accesses of the graph
are left, a stage that is to load and a graph that is to end wait, behind the reads that acknowledge its posted host writes (R278, R280); a
stage that is over makes way for the next one, or ends its graph, once all its
accesses have taken effect, as an aborted one does. That the end of a graph waits for its handlers too (log entry 24), that a record
with an extent of 0 is malformed (49), and that the loader's writes wait for requests before them at the banks (80), are the model's. -/
def Obligations.LaunchSteps : Prop :=
  (∀ (s : State) (p k : Nat) (r : List Byte), p < 2 → k < 1024 → r.length = 64 → pcieUp s = true →
    let view (t : State) := find (1024 * p + k) t.slots
    (recMalformed r = true → ∃ t, exec (.launchWindowWrite p (64 * k) r) s = .next t ∧ view t = some ⟨true, false, 0, 3, []⟩ ∧
      t.pool = s.pool) ∧
    (recMalformed r = false → poolNext s = none → ∃ t, exec (.launchWindowWrite p (64 * k) r) s = .next t ∧
      view t = some ⟨true, false, 0, 1, []⟩ ∧ t.pool = s.pool) ∧
    (∀ id, recMalformed r = false → poolNext s = some id → recZero r = false → ∃ t, exec (.launchWindowWrite p (64 * k) r) s = .next t ∧
      view t = some ⟨true, false, BitVec.ofNat 32 (poolHandle s id), 0, []⟩ ∧
      find id t.pool = some ⟨r, none, 1, recPrio r, s.poolSeq, some (p, k), some p, 0, false, false⟩ ∧ t.mem = s.mem)) ∧
  (∀ (s : State) (p k : Nat), pcieUp s = true → ∃ b, exec (.launchSlotRead p k) s = .next { s with outHost := s.outHost ++ [.slotView p k b] } ∧
    ∀ l, find (1024 * p + k) s.slots = some l → l.acc < 4 →
      leNat (b.take 8) = l.acc + l.handle.toNat * 2 ^ 16 + (if l.ended then 2 ^ 62 else 0) + (if l.done then 2 ^ 63 else 0)) ∧
  (∀ (s : State) (id c : Nat) (r : PoolRec) (im : Image) (bad : List Nat), nextLaunch s = some (id, r) → freeCtx s = some c →
    let g := newGraph s (poolHandle s id) r
    (stageOf s < 4 → exec .admission s = .next s) ∧
    (4 ≤ stageOf s → parseImage ⟨s, c, g.root⟩ (recBase r.record) (poolHandle s id) 65536 = .ok (im, bad) →
      ∃ t, exec .admission s = .next t ∧ graphAt t c = some g ∧ find id t.pool = some { r with taken := true } ∧
        t.net = s.net ++ [.pub (launchPub { g with image := some im } c) Config.ks 0 [] 0 0] ∧ sinkSeq t c = 0 ∧ t.mem = s.mem)) ∧
  (∀ (s : State) (c : Nat) (g : Graph), graphAt s c = some g → g.running = false → g.ending = none → graphQuiet s c = true →
    hashHeld s = false →
    let src : Source := ⟨s, c, g.root⟩
    let now (im : Image) : Graph :=
      { g with image := some im, earlier := g.earlier ++ g.placed, placed := [], barred := barredNow s g }
    (∀ pa n, parseImage src (recBase g.record) g.launch g.stage = .error (.marred pa n) →
      exec (.stageLoad c) s = .next { abortGraph (discover s pa n) c 1 1 with fetched := [] }) ∧
    (∀ w, parseImage src (recBase g.record) g.launch g.stage = .error (.why w) →
      exec (.stageLoad c) s = .next { abortGraph s c 1 w with fetched := [] }) ∧
    (∀ im bad w, parseImage src (recBase g.record) g.launch g.stage = .ok (im, bad) → checkStage s (now im) c bad = .error w →
      exec (.stageLoad c) s = .next { abortGraph s c 1 w with fetched := [] }) ∧
    (∀ im bad pl, parseImage src (recBase g.record) g.launch g.stage = .ok (im, bad) → checkStage s (now im) c bad = .ok pl →
      textFree s (textsOf s (now im) pl (tilesOf pl)) = true → ∃ t h, exec (.stageLoad c) s = .next t ∧ graphAt t c = some h ∧ h.running = true ∧ h.placed = pl ∧ h.stage = g.stage ∧
        h.image = some im)) ∧
  (∀ (s : State) (c : Nat) (g : Graph), graphAt s c = some g → ∀ res why, g.ending = some (res, why) →
    (graphQuiet s c = true → exec (.stageEnd c) s = .next (endGraph s c res why) ∧ graphAt (endGraph s c res why) c = none) ∧
    (graphQuiet s c = false → exec (.stageEnd c) s = .next (flushOf (fun a => a.who.ctx == c) s))) ∧
  (∀ (s : State) (c : Nat) (g : Graph), graphAt s c = some g → g.running = false → g.ending = none → hashHeld s = false →
    graphQuiet s c = false → exec (.stageLoad c) s = .next (flushOf (fun a => a.who.ctx == c) s)) ∧
  (∀ (s : State) (c : Nat) (g : Graph) (im : Image), graphAt s c = some g → g.image = some im → g.ending = none →
    (stageOver s c g = false → exec (.stageEnd c) s = .next s) ∧
    (stageOver s c g = true → g.stage + 1 < im.stages.length → ∃ t h, exec (.stageEnd c) s = .next t ∧ graphAt t c = some h ∧
      h.stage = g.stage + 1 ∧ h.running = false ∧ t.mem = s.mem) ∧
    (stageOver s c g = true → im.stages.length ≤ g.stage + 1 → graphQuiet s c = true → handled s c = false →
      ∃ t, exec (.stageEnd c) s = .next t ∧ graphAt t c = none))

/-- R44, R65, R66, R72 to R75, R77, R84, R262, R398, R469: the steps of a name's home and its tree: the first publication of a name is kept and
any later one discarded, and so is one whose stage has ended where no later stage subscribes its tensor; one of tile scope stays at its
router; a copy on a subscription's way answers a dynamic one, and any other
goes on to its home; each router of its route that has room records it, and one without room makes it a direct one; a copy goes out
on every recorded port that leads to a receiver; a router frees an entry that no subscription needs; a drop frees every copy; a
withdrawal, a defer and a resume reach the home, and what it releases then it reads as its cache holds it. While the hash units are
held none of them arrives. Which routers keep a copy (log entries 15 and 46), that a router without room alone makes its subscriber a
direct one (16), and that a message without a route is sent again until it has one (104), are the model's. -/
def Obligations.HomeSteps : Prop :=
  (∀ (s : State) (i t u scp stage : Nat) (p : Pub) (after : List Nat), s.net[i]? = some (.pub p t u after scp stage) →
    after.any (stillOpen s scp) = false → inOrder s i = true →
    (stagePast s p.name stage = true → exec (.publicationArrival i) s = .next (takeMsg s i)) ∧
    (stagePast s p.name stage = false →
    (p.scope ≠ 0 → hashHeld s = true → exec (.publicationArrival i) s = .next s) ∧
    (∀ h, p.scope ≠ 0 → hashHeld s = false → homeNow s p.name = some h → carried s t h = true →
      (heldAt s p.name ≠ none → exec (.publicationArrival i) s = .next (takeMsg s i)) ∧
      (heldAt s p.name = none → ∃ v e, exec (.publicationArrival i) s = .next v ∧ heldAt v p.name = some e ∧ e.pub = p ∧
        e.stage = stage ∧ e.site = h ∧ e.src = t ∧ v.mem = s.mem)) ∧
    (p.scope = 0 → ∃ v, exec (.publicationArrival i) s = .next v ∧ (∃ q ∈ (coreAt v t).tilePubs, q.1.name = p.name) ∧
      ((∀ q ∈ (coreAt s t).tilePubs, q.1.name ≠ p.name) → (p, stage) ∈ (coreAt v t).tilePubs)))) ∧
  (∀ (s : State) (c st : Nat) (g : Graph) (n : Name), graphAt s c = some g → nameCtx n = c → stagePast s n st = true →
    st < g.stage ∧ nameTid n < 0xFF0000 ∧ ∀ j, st < j → ∀ im, g.image = some im → j < im.stages.length →
      ∀ e ∈ stageTmpls g j, ∀ d ∈ e.2.subs, d.tid ≠ nameTid n) ∧
  (∀ (s : State) (i h : Nat) (q : Sub), s.net[i]? = some (.sub q) → inOrder s i = true → hashHeld s = false →
    homeNow s q.name = some h → carried s q.tile h = true →
    let u := takeMsg s i
    let path := subRoute u q.tile h
    let met := (cachedFor u q path).filter (fun x => !q.seen.contains x.1.name)
    (q.of_ ≠ .template → ∀ p r l, met = (p, r) :: l →
      exec (.subscriptionArrival i) s = .next { u with net := u.net ++ [.deliver p q.tile q.of_ r] }) ∧
    (q.of_ = .template → q.anyIter = true → exec (.subscriptionArrival i) s =
      .next (homeAnswer { u with net := u.net ++ met.map (fun x => Msg.deliver x.1 q.tile q.of_ x.2) }
        { q with seen := q.seen ++ met.map (fun x => x.1.name) } path)) ∧
    ((∀ r ∈ path, ∀ p ∈ (coreAt s r).cache, q.takes p.name = false) →
      exec (.subscriptionArrival i) s = .next (homeAnswer u q path))) ∧
  (∀ (s : State) (q : Sub) (l : List Nat),
    let v := recordSub s q l
    v.mem = s.mem ∧ v.homes = s.homes ∧ (∀ r, r ∉ l → (coreAt v r).nmt = (coreAt s r).nmt) ∧
    (∀ r ∈ l, nmtRoom s r q.key = true → nmtPorts v r q.name ≠ []) ∧
    (∀ r ∈ l, nmtRoom s r q.key = false → (coreAt v r).nmt = (coreAt s r).nmt) ∧
    ∃ x, v.subs = s.subs ++ [x] ∧ x = { q with direct := x.direct, routers := x.routers } ∧
      (∀ r, r ∈ x.routers ↔ r ∈ l ∧ nmtRoom s r q.key = true) ∧ (x.direct = true ↔ ∃ r ∈ l, nmtRoom s r q.key = false)) ∧
  (∀ (s : State) (i r : Nat) (p : Pub) (dests : List Receiver), s.net[i]? = some (.copy p r dests) →
    ∃ t l, exec (.multicastCopy i) s = .next t ∧ t.mem = s.mem ∧ t.homes = s.homes ∧ t.net = (takeMsg s i).net ++ l ∧
      (∀ x ∈ dests, x.path = [] → Msg.deliver p x.tile x.of_ r ∈ l) ∧
      ∀ u ∈ nextRouters dests, (passes s r u p.name = true → Msg.copy p u (receiversBy dests u) ∈ l) ∧
        (passes s r u p.name = false → ∀ x ∈ receiversBy dests u, Msg.deliver p x.tile x.of_ r ∈ l)) ∧
  (∀ (s : State) (i r : Nat) (key : NameKey), s.net[i]? = some (.free key r) →
    (∀ p x l, Msg.copy p x l ∈ s.net → keyCovers key p.name = false) → (∀ p x o u, Msg.deliver p x o u ∈ s.net → keyCovers key p.name = false) →
    (∀ q ∈ s.subs, q.key = key → r ∉ q.routers) →
    ∃ t, exec (.nameMatchFree i) s = .next t ∧ t.mem = s.mem ∧ (∀ e ∈ (coreAt t r).nmt, e.1 ≠ key) ∧
      (∀ e ∈ (coreAt s r).nmt, e.1 ≠ key → e ∈ (coreAt t r).nmt) ∧ ∀ x, x ≠ r → (coreAt t x).nmt = (coreAt s x).nmt) ∧
  (∀ (s : State) (i t u h : Nat) (n : Name), s.net[i]? = some (.drop n t u) → inOrder s i = true →
    toHome s t n = true → homeNow (updCore (takeMsg s i) t (fun c => { c with tilePubs := c.tilePubs.filter (fun p => p.1.name != n) })) n = some h →
    ∃ v, exec (.dropArrival i) s = .next v ∧ v.mem = s.mem ∧ heldAt v n = none ∧ (∀ p ∈ (coreAt v t).tilePubs, p.1.name ≠ n) ∧
      (∀ c ∈ v.cores, (∀ p ∈ c.2.cache, p.name ≠ n) ∧ ∀ p ∈ c.2.anys, p.name ≠ n) ∧ (∀ k, k ≠ n → heldAt v k = heldAt s k)) ∧
  (∀ (s : State) (i t : Nat) (n : Name) (o : SubOf), s.net[i]? = some (.unsub n t o) → inOrder s i = true → toHome s t n = true →
    ∃ v, exec (.unsubArrival i) s = .next v ∧ v.mem = s.mem ∧ v.subs = s.subs.filter (fun q => !(q.of_ == o && q.tile == t && q.name == n))) ∧
  (∀ (s : State) (i t : Nat) (n : Name), s.net[i]? = some (.defer n t) → inOrder s i = true → toHome s t n = true →
    exec (.deferMessage i) s = .next (updHome (takeMsg s i) n (fun h => { h with deferred := h.deferred ++ [t] }))) ∧
  (∀ (s : State) (i t : Nat), s.net[i]? = some (.resume t) → inOrder s i = true →
    (∀ h ∈ s.homes, t ∈ h.deferred → toHome s t h.pub.name = true) → ∃ v, exec (.resumeMessage i) s = .next v ∧
    (∀ h ∈ v.homes, t ∉ h.deferred) ∧
    ((∀ h ∈ s.homes, headerLost s h.site h.pub.name = false) → v.mem = s.mem ∧ ∀ h ∈ s.homes, t ∈ h.deferred →
      Msg.deliver (h.read s) t .template h.site ∈ v.net) ∧
    ∀ h ∈ s.homes, t ∈ h.deferred → headerLost s h.site h.pub.name = true → ∀ x ∈ v.homes, x.pub.name ≠ h.pub.name) ∧
  (∀ (s : State) (i t u scp stage : Nat) (p : Pub) (after : List Nat) (n : Name) (q : Sub), hashHeld s = true →
    (s.net[i]? = some (.pub p t u after scp stage) → p.scope ≠ 0 → stagePast s p.name stage = false →
      exec (.publicationArrival i) s = .next s) ∧
    (s.net[i]? = some (.sub q) → exec (.subscriptionArrival i) s = .next s) ∧
    (s.net[i]? = some (.drop n t u) → exec (.dropArrival i) s = .next s) ∧
    (s.net[i]? = some (.unsub n t q.of_) → exec (.unsubArrival i) s = .next s) ∧
    (s.net[i]? = some (.defer n t) → exec (.deferMessage i) s = .next s))

/-- R69 to R72, R84, R85, R262, R378: the steps of a delivery: it enters the matching store, or a home holds it; a dynamic one waits in its
subscription, and its home counts it consumed; an instance is ready once its input stands in its scratchpad, as the router's cache
reads it; one to a stream command is its source (R293). That a delivery of tile scope, which no home can hold, waits as it is where its
tile refuses it (log entry 106), that a delivery without a route waits as it is (104), and that the copy waits for the banks of its
buffers (80), are the model's. -/
def Obligations.DeliverySteps : Prop :=
  (∀ (s : State) (i t u : Nat) (p : Pub), s.net[i]? = some (.deliver p t .template u) → delivered s p t u = true →
    let l := newEntries s t p
    (l ≠ [] → accepts s t p l.length = false → p.scope = 0 → exec (.publicationDelivery i) s = .next s) ∧
    (l ≠ [] → accepts s t p l.length = false → p.scope ≠ 0 → ∃ v, exec (.publicationDelivery i) s = .next v ∧
      v.net = (takeMsg s i).net ++ [.defer p.name t] ∧ (coreAt v t).deferring = true ∧ (coreAt v t).store = (coreAt s t).store) ∧
    ((l = [] ∨ accepts s t p l.length = true) → ∃ v, exec (.publicationDelivery i) s = .next v ∧ v.mem = s.mem ∧
      (coreAt v t).store = (coreAt s t).store ++ l)) ∧
  (∀ (s : State) (i t u n r k : Nat) (p : Pub), s.net[i]? = some (.deliver p t (.thread u n) r) → delivered s p t r = true →
    keyOfUid s u = some k → tileOf k = t →
    exec (.dynamicDelivery i) s = .next (consume (leaveHome (updThread (takeMsg s i) k (fun th => { th with dyn := th.dyn.map (fun d =>
      if d.seq == n && d.got.isNone then { d with got := some p } else d) })) p t (.thread u n)) p)) ∧
  (∀ (s : State) (i t u e n r : Nat) (p : Pub), s.net[i]? = some (.deliver p t (.command u e n) r) → delivered s p t r = true →
    let takes (c : Cmd) : Prop := c.uid = u ∧ c.eng = e ∧ c.seq = n ∧ c.src = none
    ∃ (v : State) (l m : List Cmd), exec (.dynamicDelivery i) s = .next (consume (leaveHome v p t (.command u e n)) p) ∧
      v = { takeMsg s i with cores := v.cores } ∧ coreAt v t = { coreAt s t with eng0 := l, eng1 := m } ∧
      l.length = (coreAt s t).eng0.length ∧ m.length = (coreAt s t).eng1.length ∧ (∀ k, k ≠ t → coreAt v k = coreAt s k) ∧
      (∀ (j : Nat) (c : Cmd), (coreAt s t).eng0[j]? = some c →
        (takes c → l[j]? = some { c with src := some p }) ∧ (¬takes c → l[j]? = some c)) ∧
      ∀ (j : Nat) (c : Cmd), (coreAt s t).eng1[j]? = some c →
        (takes c → m[j]? = some { c with src := some p }) ∧ (¬takes c → m[j]? = some c)) ∧
  (∀ (s : State) (i t r : Nat) (p : Pub) (o : SubOf), s.net[i]? = some (.deliver p t o r) → delivered s p t r = false →
    exec (.publicationDelivery i) s = .next s ∧ exec (.dynamicDelivery i) s = .next s) ∧
  (∀ (s : State) (k : Nat) (th : Thread), threadAt s k = some th → copyPending s k th = true → inputsFree s (tileOf k) th = false →
    exec (.inputCopyDone k) s = .next s) ∧
  (∀ (s : State) (k : Nat) (th : Thread) (x : Input), threadAt s k = some th → copyPending s k th = true → th.inputs = [x] →
    inputsFree s (tileOf k) th = true → (headerLost s (tileOf k) x.pub.name = false ∨ (pierOf s x.pub.name).isSome = true) →
    x.bad = false → x.pub.data.length ≤ 16384 →
    let a := padBase (tileOf k) + x.off
    let p := readCopy s (tileOf k) x.pub
    ∃ t v, exec (.inputCopyDone k) s = .next t ∧ threadAt t k = some v ∧ v.status = .ready ∧ v.regs = th.regs ∧
      (∀ i, i < 32 → readByte t (a + i) = nth 0 (pubHeader p) i) ∧
      (∀ i, i < x.pub.data.length → readByte t (a + 32 + i) = pubByte p i) ∧
      ∀ pa, pa < a ∨ a + 32 + x.pub.data.length ≤ pa → readByte t pa = readByte s pa)


/-- R79 to R83, R363: the piers and the residency table: a subscription that falls through is read from the bonded copy of a filled
or pinned tensor, which then counts a reader, or else from HBM; the pier publishes the bytes of the tile, with a bit of pmap for each block
that holds a poisoned one; a read or a fill of a bonded copy to whose slice the deck has no route is made again (R47, R51); a request makes
its transition, or ends with the result of Table 16.7; a fill copies the tensor's pages. That
wp of such a publication says that all of it is poisoned (log entry 82), that the transition ends its request (23), that a tensor stays registered after its graph (107), and that a pier's message without a
route waits as it is (104), are the model's. -/
def Obligations.PierSteps : Prop :=
  (∀ (s : State) (i a : Nat) (q : Sub) (n : Name) (tn : Tensor), s.net[i]? = some (.pierSub q n a) → homeNow s n ≠ none →
    (toPier s n a = false → exec (.pierSubscriptionArrival i) s = .next s) ∧
    (toPier s n a = true → (graphAt s (nameCtx n)).bind (fun g => pierTensor g (nameTid n)) = some tn →
    let r := resOf s tn.tid
    ((r.st = 2 ∨ r.st = 3) → ∃ t, exec (.pierSubscriptionArrival i) s = .next t ∧ resOf t tn.tid = { r with refc := r.refc + 1 } ∧
      t.net = (takeMsg s i).net ++ [.pierRead n a r.bbase true]) ∧
    (r.st ≠ 2 → r.st ≠ 3 → ∃ t, exec (.pierSubscriptionArrival i) s = .next t ∧ t.residency = s.residency ∧
      t.net = (takeMsg s i).net ++ [.pierRead n a tn.base false]))) ∧
  (∀ (s : State) (i a base : Nat) (n : Name) (g : Graph) (tn : Tensor), s.net[i]? = some (.pierRead n a base false) →
    graphAt s (nameCtx n) = some g → pierTensor g (nameTid n) = some tn → stackReady s base = true →
    (∀ o ∈ tileElems tn (nameCoords n), stackFailed s (base + o) = false) →
    ∃ t p, exec (.pierTileReadDone i) s = .next t ∧ t.mem = s.mem ∧
      t.net = (takeMsg s i).net ++ [.pub p (pierNode a) s.nextUid [] 0 g.stage] ∧
      p.name = n ∧ p.fmt = tn.fmt ∧ p.wp = whollyBad p.data.length p.pmap ∧
      ((∀ o ∈ tileElems tn (nameCoords n), rangeBad s (base + o) (fmtBytes tn.fmt) = false) → p.pmap = 0) ∧
      p.data = (tileElems tn (nameCoords n)).flatMap (fun o => readBytes s (base + o) (fmtBytes tn.fmt))) ∧
  (∀ (s : State) (i a base : Nat) (n : Name) (g : Graph) (tn : Tensor), s.net[i]? = some (.pierRead n a base true) →
    graphAt s (nameCtx n) = some g → pierTensor g (nameTid n) = some tn →
    let pas := (tileElems tn (nameCoords n)).map (fun o => base + o)
    (pierReaches s a pas = false → exec (.pierTileReadDone i) s = .next s) ∧
    (pierReaches s a pas = true → ∃ t p, exec (.pierTileReadDone i) s = .next t ∧
      t.net = (takeMsg s i).net ++ [.pub p (pierNode a) s.nextUid [] 0 g.stage] ∧ p.name = n ∧ p.fmt = tn.fmt ∧
      resOf t tn.tid = { resOf s tn.tid with refc := (resOf s tn.tid).refc - 1 })) ∧
  (∀ (s : State) (a pa : Nat), homeCapable s (sliceOf pa) = true → (pierReaches s a [pa] = true ↔
    (deckRoute s (.agent a) (.tile (sliceOf pa))).isSome = true ∧ (deckRoute s (.tile (sliceOf pa)) (.agent a)).isSome = true)) ∧
  (∀ (s : State) (tn : Tensor), msField s 0x816 0 1 = 1 → registered s (resTid s) = some tn →
    let r := resOf s (resTid s)
    let ends (i : Instr) (v : ResEntry) (res : Nat) : Prop := ∃ t, exec i s = .next t ∧ resOf t (resTid s) = v ∧
      msRaw t 0x816 = BitVec.ofNat 64 (4 * res + 2)
    (resOp s = 1 → r.st = 0 → (∀ i, i < resPages s → pageFree s (resBase s + 8192 * i) = true) →
      ends .residencyFill ⟨1, 0, resBase s, resPages s⟩ 0) ∧
    (resOp s = 1 → r.st = 0 → (∃ i, i < resPages s ∧ pageFree s (resBase s + 8192 * i) = false) → ends .residencyFill r 3) ∧
    (resOp s = 2 → r.st = 2 → ends .residencyPin { r with st := 3 } 0) ∧
    (resOp s = 3 → r.st = 3 → ends .residencyUnpin { r with st := 2 } 0) ∧
    (resOp s = 4 → r.st = 2 → ends .residencyEvict { r with st := 4 } 0) ∧
    (resOp s = 1 → r.st ≠ 0 → ends .residencyFill r 1) ∧ (resOp s = 2 → r.st ≠ 2 → ends .residencyPin r 1) ∧
    (resOp s = 3 → r.st ≠ 3 → ends .residencyUnpin r 1) ∧ (resOp s = 4 → r.st ≠ 2 → ends .residencyEvict r 1)) ∧
  (∀ (s : State) (tid : Nat) (tn : Tensor),
    let r := resOf s tid
    (r.st = 1 → registered s tid = some tn → stackReady s tn.base = true →
      (∀ i, i < r.npg → stackFailed s (tn.base + 8192 * i) = false) → tn.base + 8192 * r.npg ≤ r.bbase →
      pierReaches s (tn.base / 2 ^ 36) ((upTo r.npg).map (fun i => r.bbase + 8192 * i)) = true →
      ∃ t, exec (.fillComplete tid) s = .next t ∧ resOf t tid = { r with st := 2 } ∧
        (∀ i, i < 8192 * r.npg → readByte t (r.bbase + i) = readByte s (tn.base + i)) ∧
        ∀ pa, pa < r.bbase ∨ r.bbase + 8192 * r.npg ≤ pa → readByte t pa = readByte s pa) ∧
    (r.st = 1 → registered s tid = some tn →
      pierReaches s (tn.base / 2 ^ 36) ((upTo r.npg).map (fun i => r.bbase + 8192 * i)) = false → exec (.fillComplete tid) s = .next s) ∧
    (r.st = 4 → r.refc = 0 → ∃ t, exec (.evictRefcZero tid) s = .next t ∧ resOf t tid = ⟨0, 0, 0, 0⟩ ∧ t.mem = s.mem) ∧
    (r.st = 4 → r.refc ≠ 0 → exec (.evictRefcZero tid) s = .next s))

/-- R31, R32, R48, R50, R52: the steps of a class lowering: a request out of range ends with result 2 and one that Table 2.4 does
not permit with result 1; else it is queued and begins when none is in progress, and one that is no longer permitted as its turn
comes ends with result 1; a failed slice lowers its site to compute-only; the entry and the epoch change as the tables are loaded; a
token marks its link down, and sends a token up each packet that it cuts and an abort behind each that has passed; both go router by
router, and the lowering ends when all are absorbed. Which requests are sudden is the model's (log entry 61), and so is what a cut
packet is (36), and that a request refused as it is written leaves done as it stood (54). -/
def Obligations.LoweringSteps : Prop :=
  (∀ (s : State) (v : Word), msField s 0x811 0 1 = 0 →
    let n := v.toNat % 2 ^ 15
    let c := v.toNat / 2 ^ 16 % 4
    let u := msWriteBits s 0x810 v (BitVec.allOnes 64)
    let go := lowNext (requestLowering u n c (!routerAnswers u n) (coreAnswers u n) true none)
    (21504 ≤ n → exec (.classLoweringRequest v) s = .next (msSetField u 0x811 1 2 2)) ∧
    (n < 21504 → loweringOk (classOf s (tileOfSite n)) c = false → exec (.classLoweringRequest v) s = .next (msSetField u 0x811 1 2 1)) ∧
    (n < 21504 → loweringOk (classOf s (tileOfSite n)) c = true → exec (.classLoweringRequest v) s = .next go ∧
      (c = 1 → s.lowering = none → s.lowerQ = [] → go.lowering =
          some ⟨n, 1, !routerAnswers u n, coreAnswers u n, true, none, false, 0, []⟩ ∧
        msField go 0x811 0 1 = 1 ∧ go.live = s.live ∧ go.mem = s.mem))) ∧
  (∀ (s : State) (l : Lowering), s.lowering = none → s.lowerQ = [l] → loweringOk (classOf s (tileOfSite l.site)) l.cls = false →
    l.req = true → ∃ t, exec .loweringRouterDrained s = .next t ∧ t.lowering = none ∧ t.lowerQ = [] ∧ msField t 0x811 1 2 = 1 ∧
      msField t 0x811 3 1 = 1 ∧ t.live = s.live) ∧
  (∀ (s : State) (n : Nat), n < 21504 →
    (classOf s (tileOfSite n) = 0 → exec (.sliceFailureReport n) s = .next (lowNext (requestLowering s n 1 false true false none))) ∧
    (classOf s (tileOfSite n) ≠ 0 → exec (.sliceFailureReport n) s = .next s)) ∧
  (∀ (s : State) (l : Lowering), s.lowering = some l →
    ((∃ v, s.lowVac = some v ∧ v.phase ≠ 5) → exec .loweringRouterDrained s = .next s) ∧
    (s.lowVac = none → l.sudden = false → routerEmpty s (tileOfSite l.site) = false → exec .loweringRouterDrained s = .next s) ∧
    (l.tables = true → exec .loweringRouterDrained s = .next s) ∧
    (l.tables = false → (∀ v, s.lowVac = some v → v.phase = 5) → (l.sudden = true ∨ routerEmpty s (tileOfSite l.site) = true) →
      ∃ t, exec .loweringRouterDrained s = .next t ∧ getD 0 l.site t.live = BitVec.ofNat 2 l.cls ∧ t.epoch = s.epoch + 1 ∧
        ∀ n, n ≠ l.site → getD 0 n t.live = getD 0 n s.live)) ∧
  (∀ (s : State) (i u d : Nat) (cuts late : List Cut), s.tokens[i]? = some (.link u d cuts late) →
    let v := { s with
      downLinks := (u, d) :: s.downLinks.filter (fun l => l != (u, d)),
      tokens := dropNth s.tokens i ++ cuts.map .up, aborts := s.aborts ++ late }
    (v.tokens ≠ [] ∨ v.aborts ≠ [] → exec (.resetToken i) s = .next v) ∧
    (∀ l, v.tokens = [] → v.aborts = [] → s.lowering = some l → l.tables = true → s.lowerQ = [] →
      ∃ t, exec (.resetToken i) s = .next t ∧ t.lowering = none ∧ (u, d) ∈ t.downLinks ∧ msField t 0x811 0 1 = 0 ∧
        msField t 0x811 3 1 = 1)) ∧
  (∀ (s : State) (i : Nat) (c : Cut), s.tokens[i]? = some (.up c) → (2 ≤ s.tokens.length ∨ s.aborts ≠ []) →
    let v := { s with tokens := dropNth s.tokens i }
    (∀ r l, c.path = r :: l → exec (.resetToken i) s = .next { v with tokens := v.tokens ++ [.up { c with path := l }] }) ∧
    (c.path = [] → ∀ a, accAt s c.id = some a → ∃ t b, exec (.resetToken i) s = .next t ∧ t.mem = s.mem ∧ accAt t c.id = some b ∧
      b.elems.length = a.elems.length ∧ ∀ j e, b.elems[j]? = some e → j ∈ c.elems → e.cut = true)) ∧
  (∀ (s : State) (i : Nat) (c : Cut), s.aborts[i]? = some c → (2 ≤ s.aborts.length ∨ s.tokens ≠ []) →
    let v := { s with aborts := dropNth s.aborts i }
    (∀ r l, c.path = r :: l → exec (.abortFlit i) s = .next { v with aborts := v.aborts ++ [{ c with path := l }] }) ∧
    (c.path = [] → ∃ t, exec (.abortFlit i) s = .next t ∧ t.mem = s.mem ∧ t.aborts = v.aborts ∧
      (∀ a ∈ s.inflight, a.id ≠ c.id → a ∈ t.inflight) ∧
      ∀ a b, accAt s c.id = some a → accAt t c.id = some b → ∀ j e f, a.elems[j]? = some e → b.elems[j]? = some f → j ∈ c.elems →
        e.done = false → f.sent = true))

/-- R33, R355, R357 to R362: heartbeats, probes, sensors, throttling and stretching. A beat restarts its site's count; a silent site is
probed; a reply within its time counts, with the tile's level and its bay's strn; a first failure is logged and retried, a second
selects a lowering; a second failed keystone probe moves the work to the standby, which starts a vacate again (how far back is the
model's choice, log entry 89); a reading sets its sensor's bits and, with a trip, its bay's level to 15, once stage 3 has armed thermal
protection; a tile takes its bay's level from a 16-cycle boundary on. That a site without a core of its own to answer with counts as
answering (log entry 58), and that a takeover ends the work of an alert thread and leaves its slot empty (111), are the model's. -/
def Obligations.WatchSteps : Prop :=
  (∀ (s : State) (n : Nat), watched s n = true →
    let b := beatOf s n
    exec (.heartbeatBeat n) s = .next (setBeat s n ⟨s.kcyc, false, 0, 0, 0, false⟩) ∧
    (b.probing = false → b.fails = 0 → msField s 0x820 0 32 ≤ (s.kcyc - b.last).toNat →
      exec (.heartbeatTimeout n) s = .next (setBeat s n { b with probing := true, sentAt := s.kcyc })) ∧
    ((s.kcyc - b.last).toNat < msField s 0x820 0 32 → exec (.heartbeatTimeout n) s = .next s)) ∧
  (∀ (s : State) (n eff : Nat) (strn : Bool), (beatOf s n).probing = true →
    let b := beatOf s n
    let t := tileOfSite n
    let soon : Prop := (s.kcyc - b.sentAt).toNat < 0x10000
    let dead : Prop := computeCapable s t = true ∧ getD false (bayOf t) s.gated = false
    let note (w : Nat) := logEvent s 3 [BitVec.ofNat 64 n, Config.probeWord w]
    let w := 1 + 2 * ((coreAt s t).eff % 16) + (if (msRead s (0xA00 + bayOf t)).getLsbD 16 then 32 else 0)
    (soon → exec (.probeReply n true true eff strn) s = .next (setBeat s n ⟨s.kcyc, false, 0, 0, 0, false⟩)) ∧
    (soon → ¬dead → exec (.probeReply n true false eff strn) s = .next (setBeat s n ⟨s.kcyc, false, 0, 0, 0, false⟩)) ∧
    (soon → dead → b.fails = 0 → exec (.probeReply n true false eff strn) s = .next (setBeat (note w) n
      { b with probing := false, fails := 1, failedAt := s.kcyc, core0 := true })) ∧
    (soon → dead → b.fails ≠ 0 → exec (.probeReply n true false eff strn) s = .next (probeLowering (note w) n true)) ∧
    (∀ core, ¬soon → exec (.probeReply n true core eff strn) s = .next s) ∧
    ((s.kcyc - b.sentAt).toNat < 0x10000 → exec (.probeTimeout n) s = .next s) ∧
    (0x10000 ≤ (s.kcyc - b.sentAt).toNat → b.fails = 0 → exec (.probeTimeout n) s = .next (setBeat (note 0) n
      { b with probing := false, fails := 1, failedAt := s.kcyc, core0 := false })) ∧
    (0x10000 ≤ (s.kcyc - b.sentAt).toNat → b.fails = 1 → exec (.probeTimeout n) s = .next (probeLowering (note 0) n b.core0))) ∧
  (∀ (s : State) (n : Nat), (beatOf s n).probing = false → (beatOf s n).fails = 1 →
    0x10000 ≤ (s.kcyc - (beatOf s n).failedAt).toNat →
    exec (.probeRetry n) s = .next (setBeat s n { beatOf s n with probing := true, sentAt := s.kcyc })) ∧
  (∀ (s : State), (msRaw s 0x801).getLsbD 59 = false →
    exec (.keystoneProbe true) s = .next { s with probeFails := 0 } ∧
    (s.probeFails = 0 → exec (.keystoneProbe false) s = .next { s with probeFails := 1 }) ∧
    (s.probeFails ≠ 0 → s.lowering = none → ∃ t, exec (.keystoneProbe false) s = .next t ∧ (msRaw t 0x801).getLsbD 59 = true ∧
      t.probeFails = 0 ∧ threadAt t (keyOf Config.ks 13) = none ∧ t.mem = s.mem ∧ (msRead t 0x800).getLsbD 16 = true ∧
      (s.vacate = none → t.vacate = none) ∧
      ∀ v, s.vacate = some v → ∃ w, t.vacate = some w ∧ w.bays = v.bays ∧ w.phase = 1 ∧ w.expired = [] ∧ msField t 0x813 8 3 = 1)) ∧
  (∀ (s : State) (b : Nat) (x : BitVec 16), b ∈ bays → stageOf s < 3 →
    exec (.sensorUpdate (0x900 + b) x) s = .next (msSetField s (0x900 + b) 0 16 x.toNat)) ∧
  (∀ (s : State) (b : Nat) (x : BitVec 16), b ∈ bays → 3 ≤ stageOf s →
    let v := msRaw s (0x900 + b)
    ∃ t, exec (.sensorUpdate (0x900 + b) x) s = .next t ∧ (msRaw t (0x900 + b)).extractLsb' 0 16 = x ∧
      (840 ≤ x.toInt → (msRaw t (0x900 + b)).getLsbD 17 = true ∧ msField t (0xA00 + b) 4 4 = 15) ∧
      (x.toInt < 840 → x.toInt ≤ (v.extractLsb' 32 16).toInt → (msRaw t (0x900 + b)).getLsbD 17 = false) ∧
      (x.toInt < 840 → (v.extractLsb' 32 16).toInt < x.toInt → (msRaw t (0x900 + b)).getLsbD 17 = v.getLsbD 17) ∧
      (v.getLsbD 18 = true → (v.extractLsb' 48 16).toInt ≤ x.toInt → (msRaw t (0x900 + b)).getLsbD 16 = true)) ∧
  (∀ (s : State) (t b : Nat), (isSite t = true → ((coreAt s t).cyc.toNat + 1) % 16 = 0 → ∃ u, exec (.throttleApply t) s = .next u ∧
      (coreAt u t).eff = msField s (0xA00 + bayOf t) 4 4 ∧ u.mem = s.mem) ∧
    (b ∈ bays → ∃ u n, exec (.droopStretch b) s = .next u ∧ find b u.stretch = some (n + 1, s.kcyc) ∧
      n = ((find b s.stretch).map (fun e => e.1)).getD 0 ∧ u.mem = s.mem))

/-- R29, R34, R109, R110, R355, R356: staged start and bays. Each stage follows the one before it; POWER_GOOD sets the live table
from the fused classes; the end of a stack's training is counted or marked failed; the full wafer is a new epoch. A wake is queued
behind the others, is merged with one of its bay, and begins while fewer than two bays are in inrush; a bay without threads is gated.
That the whole live table is set with the first stage (log entry 62), and which bays are gated (57), are the model's. -/
def Obligations.StartSteps : Prop :=
  (∀ s : State,
    (stageOf s = 0 → mapWf s.fused = true → ∃ t, exec .powerGood s = .next t ∧ stageOf t = 1 ∧
      ∀ n, getD 0 n t.live = (getD 0 n s.fused).setWidth 2) ∧
    (stageOf s ≠ 0 → exec .powerGood s = .next s) ∧
    (stageOf s = 1 → ∃ t, exec .stageAdvance s = .next t ∧ stageOf t = 2 ∧ t.live = s.live) ∧
    (stageOf s = 2 → ∃ t, exec .stageAdvance s = .next t ∧ stageOf t = 3 ∧ t.live = s.live) ∧
    (stageOf s = 3 → ∃ t, exec .safeBayReady s = .next t ∧ stageOf t = 4 ∧ t.live = s.live) ∧
    (stageOf s = 4 → ∃ t, exec .waferTablesLoaded s = .next t ∧
      stageOf t = (if (List.range 32).all (fun n => getD false n s.hbmEnd) then 6 else 5) ∧ t.live = s.live) ∧
    (stageOf s = 6 → ∃ t, exec .fullWafer s = .next t ∧ stageOf t = 7 ∧ t.epoch = s.epoch + 1 ∧ t.live = s.live)) ∧
  (∀ (s : State) (n : Nat), stageOf s ≠ 0 → n < 32 → getD false n s.hbmEnd = false →
    (∃ t, exec (.hbmTrainingEnd n true) s = .next t ∧ getD false n t.hbmEnd = true ∧
      msField t 0x801 32 6 = (msField s 0x801 32 6 + 1) % 64 ∧ (msRaw t 0x801).getLsbD n = (msRaw s 0x801).getLsbD n) ∧
    (∃ t, exec (.hbmTrainingEnd n false) s = .next t ∧ getD false n t.hbmEnd = true ∧ (msRaw t 0x801).getLsbD n = true)) ∧
  (∀ (s : State) (b : Nat),
    (getD false b s.gated = true → s.wakeQ = [] → s.inrush = [] →
      exec (.bayWakeRequest b) s = .next { s with inrush := [b] }) ∧
    (getD false b s.gated = true → b ∉ s.wakeQ → b ∉ s.inrush → 2 ≤ s.inrush.length →
      exec (.bayWakeRequest b) s = .next { s with wakeQ := s.wakeQ ++ [b] }) ∧
    (∀ c l, getD false b s.gated = true → s.wakeQ = c :: l → b ∉ s.wakeQ → b ∉ s.inrush → s.inrush.length = 1 →
      exec (.bayWakeRequest b) s = .next { s with wakeQ := l ++ [b], inrush := s.inrush ++ [c] }) ∧
    ((b ∈ s.wakeQ ∨ b ∈ s.inrush) → 2 ≤ s.inrush.length → exec (.bayWakeRequest b) s = .next s) ∧
    (b ∈ s.inrush → ∃ t, exec (.wakeComplete b) s = .next t ∧ getD false b t.gated = false ∧ t.mem = s.mem) ∧
    (b ∉ s.inrush → exec (.wakeComplete b) s = .next s) ∧
    (gateable s b = true → ∃ t, exec (.bayGateRequest b) s = .next t ∧ getD false b t.gated = true ∧ t.mem = s.mem) ∧
    (gateable s b = false → exec (.bayGateRequest b) s = .next s))

/-- R87, R338 to R349: vacating a region: a malformed request ends with result 2; one that passes its checks starts in phase 1 with
its bays excluded, a higher one joins it with result 0, and a release admits the bays again; a graph's grace ends on a tile; a thread's
save begins and ends, freeing its slot; the inputs are rehomed, the instances folded, and the vacate ends with the last restore; a
saved thread is restored from its image as the save area holds it then (log entry 19). The checks wait while the hash units are held.
That a request which joins shows phase 1 again and a release is refused while a vacate runs (53), that a host's partition is checked
before the areas and the fold (112), and that the save engine and the loader move their bytes in one step, once no request stands before
them at the banks (80), are the model's. -/
def Obligations.VacateSteps : Prop :=
  (∀ (s : State) (v : Word) (host : Option Nat),
    let u := msWriteBits s 0x812 v (BitVec.allOnes 64)
    let f (lo w : Nat) := v.toNat / 2 ^ lo % 2 ^ w
    let bs := vacBays v
    let wrong : Prop := f 8 4 < f 0 4 ∨ f 12 4 < f 4 4
    ((f 20 2 = 0 ∨ f 20 2 = 3 ∨ (f 20 2 = 1 ∧ wrong)) → exec (.vacateRequest v host) s = .next (vacRefuse u 2)) ∧
    (f 20 2 = 1 → ¬wrong → hashHeld s = true → exec (.vacateRequest v host) s =
      .next { u with vacAsked := u.vacAsked ++ [(msRaw u 0x812, host)] }) ∧
    (f 20 2 = 1 → ¬wrong → hashHeld s = false → s.vacate = none → outsidePart s host bs = true →
      exec (.vacateRequest v host) s = .next (vacRefuse u 5)) ∧
    (f 20 2 = 1 → ¬wrong → hashHeld s = false → s.vacate = none → outsidePart s host bs = false → ∀ r,
      vacCheck u ⟨bs, if f 22 1 = 1 then bs else [], [], f 16 3, 1, [], [], []⟩ = some r →
      exec (.vacateRequest v host) s = .next (vacRefuse u r)) ∧
    (f 20 2 = 1 → ¬wrong → hashHeld s = false → s.vacate = none → outsidePart s host bs = false →
      vacCheck u ⟨bs, if f 22 1 = 1 then bs else [], [], f 16 3, 1, [], [], []⟩ = none →
      ∃ t w, exec (.vacateRequest v host) s = .next t ∧ t.vacate = some w ∧ w.bays = bs ∧ w.phase = 1 ∧ w.prio = f 16 3 ∧
        (∀ b ∈ bs, b ∈ t.excluded) ∧ msField t 0x813 0 1 = 1 ∧ t.mem = s.mem) ∧
    (∀ r, f 20 2 = 1 → ¬wrong → hashHeld s = false → s.vacate = some r → r.prio < f 16 3 → outsidePart s host bs = false → r.phase ≤ 3 →
      vacCheck u { r with bays := join r.bays bs, gateBays := join r.gateBays (if f 22 1 = 1 then bs else []), prio := f 16 3 } = none →
      ∃ t w, exec (.vacateRequest v host) s = .next t ∧ t.vacate = some w ∧ w.bays = join r.bays bs ∧ w.phase = 1 ∧ w.prio = f 16 3 ∧
        (∀ b ∈ bs, b ∈ t.excluded) ∧ msField t 0x813 2 3 = 0 ∧ msField t 0x813 8 3 = 1 ∧ t.mem = s.mem) ∧
    (f 20 2 = 2 → ¬wrong → s.vacate = none → outsidePart s host bs = false →
      ∃ t, exec (.vacateRelease v host) s = .next t ∧ t.excluded = s.excluded.filter (fun b => !bs.contains b) ∧
        msField t 0x813 1 1 = 1 ∧ msField t 0x813 2 3 = 0) ∧
    (f 20 2 = 2 → s.vacate ≠ none → ¬wrong → exec (.vacateRelease v host) s = .next (vacRefuse u 1))) ∧
  (∀ (s : State) (v : Vacate) (g : Graph) (c t : Nat) (w : Word), s.vacate = some v → graphAt s c = some g →
    (c, t) ∉ v.expired → find t v.gates = some w →
    (((coreAt s t).cyc - w).toNat < g.grace → exec (.graceExpiry c t) s = .next s) ∧
    (g.grace ≤ ((coreAt s t).cyc - w).toNat → exec (.graceExpiry c t) s =
      .next (expireOn { s with vacate := some { v with expired := v.expired ++ [(c, t)] } } c t
        (((v.expired ++ [(c, t)]).filter (fun e => e.1 == c)).map (fun e => e.2))))) ∧
  (∀ (s : State) (k b : Nat) (th : Thread), threadAt s k = some th → saveNext s (bayOf (tileOf k)) = some k →
    (∀ v ∈ s.saved, v.complete = true ∨ bayOf v.from_ ≠ bayOf (tileOf k)) → (coreAt s (tileOf k)).mq = [] →
    (∀ a ∈ s.inflight, a.uid ≠ th.uid ∨ a.dst = .none) →
    areaFind s (savePier s (tileOf k)) (imageBlocks s (tileOf k) th) = some b →
    ∃ t v, exec (.threadSave k) s = .next t ∧ t.saved = s.saved ++ [v] ∧ v.th = th ∧ v.complete = false ∧ v.from_ = tileOf k ∧
      v.addr = areaBase (savePier s (tileOf k)) + 0x10000 * b ∧ v.to_ = none ∧ t.mem = s.mem) ∧
  (∀ (s : State) (u k : Nat) (th : Thread) (v : Saved), s.saved.find? (fun v => v.th.uid == u && !v.complete) = some v →
    keyOfUid s u = some k → threadAt s k = some th → th.uid = u → (∀ a ∈ s.inflight, a.uid ≠ u) →
    threadCmds s (tileOf k) u = [] → stackReady s v.addr = true → extentsFree s (tileOf k) (extentsOf s th) = true →
    ∃ t x, exec (.saveComplete u) s = .next t ∧ threadAt t k = none ∧ x ∈ t.saved ∧ x.th.uid = u ∧ x.complete = true ∧
      x.th.regs = th.regs ∧ x.th.pc = th.pc) ∧
  (∀ (s : State) (v : Vacate), s.lowVac = none → s.vacate = some v →
    (hashHeld s = true → exec .rehomePhase s = .next s) ∧
    (hashHeld s = false → v.phase < 3 → rehomeReady s v = true → textFree s (rehomeTexts s v) = true → ∃ t w, exec .rehomePhase s = .next t ∧ t.vacate = some w ∧ w.phase = 3 ∧ w.bays = v.bays ∧
      msField t 0x813 8 3 = 3) ∧
    (v.phase < 3 → (rehomeReady s v = false ∨ textFree s (rehomeTexts s v) = false) → exec .rehomePhase s = .next s) ∧
    (v.phase = 3 → ∃ t w, exec .foldPhase s = .next t ∧ t.vacate = some w ∧ w.phase = 4 ∧ w.bays = v.bays ∧ msField t 0x813 8 3 = 4) ∧
    (v.phase = 4 → stillSaved s v = true → ∃ t w, exec .foldPhase s = .next t ∧ t.vacate = some w ∧ w.phase = 5 ∧ w.bays = v.bays ∧
      t.mem = s.mem) ∧
    ((v.phase = 4 ∨ v.phase = 5) → stillSaved s v = false → s.vacHeld = none → v.bays.length < 256 → ∃ t, exec .foldPhase s = .next t ∧ t.vacate = none ∧
      msField t 0x813 0 1 = 0 ∧ msField t 0x813 1 1 = 1 ∧ msField t 0x813 24 24 = msField s 0x813 24 24)) ∧
  (∀ (s w : State) (u k : Nat) (v : Saved) (x : Stored), s.saved.find? (fun v => v.th.uid == u && v.complete) = some v →
    keyOfUid s u = some k → v.to_ = some (tileOf k) → readImage s v = (w, x) → cmdRoom s (tileOf k) (cmdsOfImage v.cmds x) = true →
    inRegion s (tileOf k) = false → stackReady s v.addr = true → extentsFree s (tileOf k) x.extents = true → readLe s (v.addr + 6) 1 / 2 % 2 = 0 → v.th.held = [] →
    ∃ t th, exec (.restoreThread u) s = .next t ∧ threadAt t k = some th ∧
      th.uid = v.th.uid ∧ th.status = .ready ∧ th.regs = (threadOf v.th x).regs ∧ th.pc.toNat = readLe s (v.addr + 18) 4 % 2 ^ 22 ∧ th.fault = none ∧
      (∀ i : SReg, i ≠ 0 → (th.regs.rdS i).val.toNat = readLe s (v.addr + 0x80 + 8 * i.toNat) 8) ∧
      ∀ y ∈ t.saved, y.th.uid ≠ v.th.uid)

/-- R82, R308, R311, R312, R362 to R364: the checkpoint service and the evictor. A checkpoint request is refused while one runs,
malformed, or with too few links up; one that ends is logged with ms.ckst, and one that completes, once every stack of its selection has
ended training, has sent every line of it, with its poison, on its ports.
Below its threshold of ms.evthr the evictor takes a free frame for a page and moves it in three steps: mv is set in its entry, its
translations of its table go, under every context that it serves, and the page is copied, which frees its old frame, or stays where it is, where a line of a page that goes to host
memory is poisoned; or it gives up a resident copy, where the frame that the event names is of one (the model's way to choose, log entry
30). That all is sent as the checkpoint ends, blank lines as runs (63 and 87), and that a request which is refused while one runs sets
its result alone (54), are the model's too. -/
def Obligations.CheckpointAndEvictor : Prop :=
  (∀ (s : State) (v : Word),
    let what := v.toNat % 4
    let n := v.toNat / 2 ^ 16 % 256
    let dev := v.toNat / 2 ^ 32 % 4096
    let u := msWriteBits s 0x830 v (BitVec.allOnes 64)
    let bad : Prop := what = 0 ∨ n < 56 ∨ 144 < n ∨ dev = 0xFFF ∨ dev = devId s
    (msField s 0x831 0 1 = 1 → exec (.checkpointRequest v) s = .next (msSetField s 0x831 2 3 1)) ∧
    (msField s 0x831 0 1 = 0 → bad → exec (.checkpointRequest v) s = .next (ckEnd u 2 0)) ∧
    (msField s 0x831 0 1 = 0 → ¬bad → portsUp s < n → exec (.checkpointRequest v) s = .next (ckEnd u 3 0)) ∧
    (msField s 0x831 0 1 = 0 → ¬bad → n ≤ portsUp s → ∃ t, exec (.checkpointRequest v) s = .next t ∧ t.ckpt = some ⟨what, n, dev⟩ ∧
      msField t 0x831 0 1 = 1)) ∧
  (∀ (s : State) (c : Checkpoint), s.ckpt = some c →
    let logged (t : State) : Prop :=
      let n := (msRaw s 0x818).toNat
      let a := 0x3F81000000 + 64 * (n % 1024)
      readLe t (a + 8) 8 = 6 ∧ readLe t (a + 16) 8 = (msRaw t 0x831).toNat ∧ msRaw t 0x818 = BitVec.ofNat 64 ((n + 1) % 2 ^ 32)
    (ckReady s c.what = false → exec (.checkpointEnd 0) s = .next s) ∧
    (ckReady s c.what = true → ∃ t, exec (.checkpointEnd 0) s = .next t ∧ t.ckpt = none ∧ msField t 0x831 0 1 = 0 ∧
      msField t 0x831 1 1 = 1 ∧ msField t 0x831 2 3 = 0 ∧ logged t ∧
      let ports := (upPorts s).take c.nport
      (ports ≠ [] → ∀ n, ckTakes s c.what n = true →
        (∃ p ∈ ports, Out.ckpt c.dev p (64 * n) (readBytes s (64 * n) 64) (lineBad s (64 * n) || stackFailed s (64 * n)) ∈ t.outHost) ∨
        ∃ lo k, lo ≤ n ∧ n < lo + k ∧ Out.ckptBlank c.dev ports (64 * lo) k (stackFailed s (64 * lo)) ∈ t.outHost ∧
          lineBad s (64 * n) = false ∧ ∀ i, i < 64 → readByte s (64 * n + i) = blank (64 * n + i))) ∧
    (∃ t, exec (.checkpointEnd 4) s = .next t ∧ t.ckpt = none ∧ msField t 0x831 0 1 = 0 ∧ msField t 0x831 1 1 = 1 ∧
      msField t 0x831 2 3 = 4 ∧ logged t)) ∧
  (∀ (s : State) (c va frame : Nat) (e : Nat × ResEntry), residentAt s frame = some e →
    (belowLimit s 0 = true → ∃ t, exec (.evictorTrigger c va frame) s = .next t ∧ resOf t e.1 = { e.2 with st := 4 } ∧ t.mem = s.mem) ∧
    (belowLimit s 0 = false → exec (.evictorTrigger c va frame) s = .next s)) ∧
  (∀ (s : State) (c va frame pa l a l' : Nat) (e : Word) (g : Graph), residentAt s frame = none → s.move = none → graphAt s c = some g →
    walk s g.root va = .leaf pa e l → leafAt s va [3, 2, 1, 0] (g.root.toNat / 2 ^ 13 % 2 ^ 35 * 2 ^ 13) = some (a, l') →
    let n := 2 ^ (13 + 10 * l)
    let f1 := e.toNat / 2 ^ 13 % 2 ^ 35 * 2 ^ 13
    let may : Prop := e.getLsbD 9 = true ∧ va / n * n + n ≤ lowWater s c ∧ moveTiers f1 frame n = true ∧
      belowLimit s (if f1 < 0x020000000000 then 1 else 0) = true ∧ ∀ f ∈ framesOf frame n, frameFree s f = true
    (¬may → exec (.evictorTrigger c va frame) s = .next s) ∧
    (may → exec (.evictorTrigger c va frame) s = .next { setFrames s frame n false with move := some ⟨a, f1, frame, c, va / n * n, l, 0, 0⟩ })) ∧
  (∀ (s : State) (m : PageMove), s.move = some m →
    let n := 2 ^ (13 + 10 * m.lvl)
    (m.phase = 0 → ∃ t, exec .evictorPageMove s = .next t ∧ t.move = some { m with phase := 1 } ∧
      readLe t m.pte 8 / 2 ^ 10 % 2 = 1 ∧ (∀ pa, pa < m.pte ∨ m.pte + 8 ≤ pa → readByte t pa = readByte s pa)) ∧
    let r := m.removal s
    let table (w : Word) : Nat := w.toNat / 2 ^ 13 % 2 ^ 35
    (r.va = some m.va ∧ r.ofRoot m.ctx = true ∧ ∀ g, graphAt s m.ctx = some g →
      (∀ c h, graphAt s c = some h → table h.root = table g.root → r.ofRoot c = true) ∧
      (table (msRaw s 0x80A) = table g.root → r.ofRoot ksRoot = true)) ∧
    (m.phase = 1 → exec .evictorPageMove s = .next { repatch (dropTlbs s r) r with move := some { m with phase := 2, limit := s.nextAcc } }) ∧
    (2 ≤ m.phase → (accessesClear s m.limit r = false ∨ chunkPorts s r ≠ []) → exec .evictorPageMove s = .next s) ∧
    (2 ≤ m.phase → (stackReady s m.f1 = false ∨ stackReady s m.f2 = false) → exec .evictorPageMove s = .next s) ∧
    (2 ≤ m.phase → s.inflight = [] → (∀ c ∈ s.cores, c.2.eng0 = [] ∧ c.2.eng1 = []) → stackReady s m.f1 = true →
      0x040000000000 ≤ m.f2 → (∃ i, i < n ∧ lineBad s (m.f1 + i) = true) →
      ∃ t, exec .evictorPageMove s = .next t ∧ t.move = none ∧ t.outHost = s.outHost ∧ readLe t m.pte 8 / 2 ^ 10 % 2 = 0 ∧
        readLe t m.pte 8 / 2 ^ 13 % 2 ^ 35 = m.f1 / 2 ^ 13 % 2 ^ 35 ∧ ∀ f ∈ framesOf m.f2 n, frameFree t f = true) ∧
    (2 ≤ m.phase → s.inflight = [] → (∀ c ∈ s.cores, c.2.eng0 = [] ∧ c.2.eng1 = []) → stackReady s m.f1 = true → stackReady s m.f2 = true →
      stackFailed s m.f1 = false → m.f2 < 0x040000000000 → siteLost s m.f1 (if m.f1 < 0x020000000000 then .hbm else .bonded) = false →
      (m.pte + 8 ≤ m.f2 ∨ m.f2 + n ≤ m.pte) → (m.f1 + n ≤ m.f2 ∨ m.f2 + n ≤ m.f1) →
      ∃ t, exec .evictorPageMove s = .next t ∧ t.move = none ∧ (∀ i, i < n → readByte t (m.f2 + i) = readByte s (m.f1 + i)) ∧
        readLe t m.pte 8 / 2 ^ 10 % 2 = 0 ∧ readLe t m.pte 8 / 2 ^ 13 % 2 ^ 35 = m.f2 / 2 ^ 13 % 2 ^ 35 ∧
        ∀ f ∈ framesOf m.f1 n, frameFree t f = true))

/-- R31, R247, R248, R261, R350, R351, R353 to R355, R364, R540: the host ports and Cufort. A BAR0 write, from stage 2 on, reaches a
register that its port may write, or the MSI-X table, and no other; an unmasked vector sends what was pending to its entry's
address; BAR2 reads, writes and AtomicOps act on device memory, and are refused as Unsupported Requests outside it. A peer's store,
load or atomic is performed and answered, a duplicate answered again; a request without an answer is sent again; a replay changes
nothing. Each waits for a stack that trains and a scratchpad that is switched off, and has the fate of Table 2.8 where the deck has no
route for it. Which addresses BAR2 reaches (log entry 60), that of the vector control only the mask bit is kept (88), that a BAR2
access to a scratchpad that is switched off waits for its bay (91) and for requests before it at its banks (80), and that a write waits
where it would fall between a fetch and an acquire before it (94), are the model's. -/
def Obligations.HostAndPeerSteps : Prop :=
  (∀ (s : State) (p n : Nat) (v : Word) (be : BitVec 8),
    (p < 2 → msAssigned n = true → hostMay p n = true → be ≠ 0 → pcieUp s = true →
      exec (.registerWrite p n v be) s = .next (msWrite s n v (beMask be) (some p))) ∧
    (msAssigned n = true → hostMay p n = false → exec (.registerWrite p n v be) s = .next s) ∧
    (msAssigned n = false → (n < 0x100000 ∨ 0x101000 ≤ n) → exec (.registerWrite p n v be) s = .next s) ∧
    (∀ k, p < 2 → k < 4096 → be = 0xFF → pcieUp s = true → ∃ t, exec (.registerWrite p (0x100000 + k) v be) s = .next t ∧
      msixHalf t p k = (if k % 2 = 0 then v else v &&& 0x1FFFFFFFF)) ∧
    (pcieUp s = false → exec (.registerWrite p n v be) s = .next s)) ∧
  (∀ (s : State) (p vec : Nat), p < 2 → vec < 2048 → pcieUp s = true →
    let k := 2048 * p + vec
    ∃ t, exec (.msixUnmask p vec) s = .next t ∧ msixOpen t p vec = true ∧
      (getD false k s.msixPend = true → t.outHost = s.outHost ++
        [.msix p vec (msixHalf s p (2 * vec)) ((msixHalf s p (2 * vec + 1)).setWidth 32)] ∧ getD false k t.msixPend = false) ∧
      (getD false k s.msixPend = false → t.outHost = s.outHost)) ∧
  (∀ (s : State) (p off pa : Nat) (l : List Byte) (op : HostAtomic) (a b : Word), bar2Addr s p off = some pa →
    let ok (n : Nat) : Prop := bar2Takes s pa = true ∧ bar2Takes s (pa + (n - 1)) = true ∧ bar2Waits s pa = false ∧ gone s pa = false ∧
      abutRoutes s (hostAgent p) pa = true ∧ deckFree s pa n = true
    let early (n : Nat) : Prop := aheadMeets s s.nextUid pa n = true
    let ur : Result := .next { s with outHost := s.outHost ++ [.cpl p none false] }
    (∀ n, ok n → ∃ t, exec (.bar2Read p off n) s = .next t ∧ t.mem = s.mem ∧
      t.outHost = s.outHost ++ [.cpl p (some (readBytes s pa n)) (rangeBad s pa n)]) ∧
    (∀ n, bar2Takes s pa = false → exec (.bar2Read p off n) s = ur ∧ exec (.bar2Atomicop p off op n a b) s = ur ∧
      exec (.bar2Write p off l false) s = .next s) ∧
    (∀ n, bar2Takes s pa = true → bar2Takes s (pa + (n - 1)) = true →
      (bar2Waits s pa = true ∨ abutRoutes s (hostAgent p) pa = false ∨ deckFree s pa n = false) → exec (.bar2Read p off n) s = .next s) ∧
    ((bar2Waits s pa = true ∨ abutRoutes s (hostAgent p) pa = false ∨ deckFree s pa l.length = false) → exec (.bar2Write p off l false) s = .next s) ∧
    (∀ n, (pa % n ≠ 0 ∨ opNew op n a b 0 = none) → exec (.bar2Atomicop p off op n a b) s = ur) ∧
    (early l.length → exec (.bar2Write p off l false) s = .next s) ∧
    (ok l.length → ¬early l.length → exec (.bar2Write p off l false) s = .next (writeClean (deckTurn s pa l.length) pa l)) ∧
    (ok 8 → pa % 8 = 0 → early 8 → opNew op 8 a b 0 ≠ none → exec (.bar2Atomicop p off op 8 a b) s = .next s) ∧
    (ok 8 → pa % 8 = 0 → ¬early 8 → ∀ op v, (op = .fetchAdd ∧ v = (readLe s pa 8 + a.toNat) % 2 ^ 64) ∨ (op = .swap ∧ v = a.toNat) ∨
        (op = .cas ∧ v = if readLe s pa 8 = a.toNat then b.toNat else readLe s pa 8) →
      ∃ t, exec (.bar2Atomicop p off op 8 a b) s = .next t ∧ readLe t pa 8 = v ∧
        t.outHost = s.outHost ++ [.cpl p (some (leBytes 8 (readLe s pa 8))) (rangeBad s pa 8)] ∧
        ∀ x, x < pa ∨ pa + 8 ≤ x → readByte t x = readByte s x)) ∧
  (∀ (s : State) (p : Peer),
    let answer (b : List (Option Byte)) (e : Bool) (t : State) : Prop := t.outHost = s.outHost ++ [.peerAns p.dev p.seq b e]
    (∀ e, s.peerSeen.find? (fun e => e.1 == p.dev && e.2.1 == p.seq) = some e → ∃ t, exec (.peerAccessArrival p) s = .next t ∧
      answer e.2.2.1 e.2.2.2 t ∧ t.mem = s.mem) ∧
    (s.peerSeen.find? (fun e => e.1 == p.dev && e.2.1 == p.seq) = none →
      (peerAddr s p.off = none → ∃ t, exec (.peerAccessArrival p) s = .next t ∧ answer [] true t ∧ t.mem = s.mem) ∧
      (∀ pa, peerAddr s p.off = some pa → peerTakes s pa = true → peerTakes s (pa + (peerSize p - 1)) = true →
        (stackReady s pa = false → exec (.peerAccessArrival p) s = .next s) ∧
        (stackReady s pa = true → (p.kind = .load ∨ aheadMeets s s.nextUid pa (peerSize p) = false) →
        (abutRoutes s (peerAgent s p.dev) pa = false →
          (p.kind = .load → exec (.peerAccessArrival p) s = .next s) ∧
          (p.kind ≠ .load → ∃ t, exec (.peerAccessArrival p) s = .next t ∧ answer [] true t ∧ t.mem = s.mem)) ∧
        (abutRoutes s (peerAgent s p.dev) pa = true → stackFailed s pa = false →
        (p.kind = .load → ∃ t, exec (.peerAccessArrival p) s = .next t ∧ t.mem = s.mem ∧ answer ((upTo p.len).map (fun i =>
          if lineBad s (pa + i) then none else some (readByte s (pa + i)))) false t) ∧
        (∀ op ty, p.kind = .amo op ty →
          let w := peerSize p
          let old := readLe s pa w
          ∃ t, exec (.peerAccessArrival p) s = .next t ∧ readLe t pa w = amoNew op ty old (p.b.toNat % 2 ^ (8 * w)) % 2 ^ (8 * w) ∧
            answer ((leBytes w old).map (fun b => if rangeBad s pa w then none else some b)) false t ∧
            ∀ a, a < pa ∨ pa + w ≤ a → readByte t a = readByte s a) ∧
        (p.kind = .store → ∃ t, exec (.peerAccessArrival p) s = .next t ∧ answer [] false t ∧
          (∀ i b, p.bytes[i]? = some (.val b) → readByte t (pa + i) = b) ∧
          (∀ i, (p.bytes[i]? = some .bad ∨ p.bytes[i]? = some .keep) → readByte t (pa + i) = readByte s (pa + i)) ∧
          ∀ a, a < pa ∨ pa + p.bytes.length ≤ a → readByte t a = readByte s a)))))) ∧
  (∀ (s : State) (id : Nat) (a : Access) (err : Bool), accAt s (id / 64) = some a →
    (a.kind ≠ .store → a.kind ≠ .scadd → exec (.peerAckArrival id err) s = .next s) ∧
    (∀ e, a.kind = .store → a.elems = [e] → id % 64 = 0 → e.path = .peer → e.sent = true → e.done = false → e.cut = false → e.w ≠ 0 →
      a.dst = .none →
      ∃ t, exec (.peerAckArrival id false) s = .next t ∧ t.mem = s.mem ∧ t.inflight = s.inflight.filter (fun b => b.id != a.id))) ∧
  (∀ (s : State) (id : Nat) (o : Out), lastPeerReq s id = some o → peerOpen s id = true → getD 0 id s.resends < 8 →
    exec (.cufortResendTimeout id) s = .next { s with
      resends := setD 0 id (getD 0 id s.resends + 1) s.resends, outHost := s.outHost ++ [o] }) ∧
  (∀ (s : State) (p : Nat) (up : Bool), exec (.linkReplay p) s = .next s ∧
    (p < 144 → ∃ t, exec (.cufortLinkUpDown p up) s = .next t ∧ getD false p t.linksUp = up ∧ t.mem = s.mem))

/-! Reset. -/

/-- R7, R24, R122, R125 to R131, R355: what reset leaves where the spec gives it: the keystone has not started and no thread, graph or
name exists; the keystone registers hold the reset values of their tables; a thread fires with psink 1, rounding mode RNE, no flag,
seed 0, an empty random-bit queue and every general register zero and clean, and with its tag, instance and launch priority. That every
geometry register is zero at firing, where R122 and Table 12.1 give it the pattern its template declares, is the model's reading (log
entry 38). -/
def Obligations.ResetValues : Prop :=
  stageOf State.reset = 0 ∧ State.reset.threads = [] ∧ State.reset.graphs = [] ∧ State.reset.homes = [] ∧ State.reset.inflight = [] ∧
  msRaw State.reset 0x802 = 0xFFF ∧ msRaw State.reset 0x803 = 0 ∧ msRaw State.reset 0x817 = 0x0000001000000040 ∧
  msRaw State.reset 0x820 = 0x800000 ∧ msRaw State.reset 0x813 = 0 ∧ msRaw State.reset 0x811 = 0 ∧ msRaw State.reset 0x808 = 0 ∧
  ∀ (prio : Nat) (tag : BitVec 24) (inst : BitVec 48) (a : SReg) (v : VReg) (p : PReg) (sh : ShReg) (g : GReg),
    let r := firingRegs prio tag inst
    r.rdS a = ⟨0, false⟩ ∧ r.rdV v = List.replicate 64 ⟨0, false⟩ ∧ (p ≠ 0 → r.rdP p = 0) ∧ (r.rdSh sh).valid = false ∧ r.rdG g = 0 ∧
    r.k0 = none ∧ r.rm = 0 ∧ r.psink = true ∧ r.fflags = 0 ∧ r.seed = 0 ∧ r.rng.cnt = 0 ∧ r.rng.ctr = 0 ∧ r.tag = tag ∧ r.inst = inst ∧
    r.boost = false ∧ r.lprio = BitVec.ofNat 3 prio ∧ r.level = r.lprio
end

