-- ==== Sys2Proof/Laws/Maps.lean ====
section
/-! SUPPORT. The laws of the sparse maps: what is found after a change, and that every change keeps the canonical form. -/

namespace Sys2Proof.Machine

variable {α : Type}

@[simp] theorem find_nil (k : Nat) : find k ([] : Map α) = none := rfl

@[simp] theorem find_put (k j : Nat) (a : α) (m : Map α) : find j (put k a m) = if j = k then some a else find j m := by
  induction m with
  | nil => simp [put, find]
  | cons e m ih =>
    obtain ⟨i, b⟩ := e
    unfold put
    split_ifs <;> simp_all [find]

@[simp] theorem find_del (k j : Nat) (m : Map α) : find j (del k m) = if j = k then none else find j m := by
  induction m with
  | nil => simp [del]
  | cons e m ih =>
    obtain ⟨i, b⟩ := e
    unfold del
    split_ifs <;> simp_all [find]

@[simp] theorem getD_nil (d : α) (k : Nat) : getD d k [] = d := rfl

@[simp] theorem getD_setD [DecidableEq α] (d a : α) (k j : Nat) (m : Map α) :
    getD d j (setD d k a m) = if j = k then a else getD d j m := by
  unfold getD setD
  split_ifs <;> simp_all

/-- A bound may be lowered. -/
theorem keysAbove_mono {b c : Nat} (h : b ≤ c) {m : Map α} (w : keysAbove c m = true) : keysAbove b m = true := by
  cases m with
  | nil => rfl
  | cons e m => simp_all [keysAbove]; omega

theorem keysAbove_put {b k : Nat} (a : α) {m : Map α} (h : b ≤ k) (w : keysAbove b m = true) :
    keysAbove b (put k a m) = true := by
  induction m generalizing b with
  | nil => simp [put, keysAbove, h]
  | cons e m ih =>
    obtain ⟨j, c⟩ := e
    simp only [keysAbove, Bool.and_eq_true, decide_eq_true_eq] at w
    unfold put
    split_ifs with h1 h2
    · simp [keysAbove, h, w.2]; omega
    · subst h2; simp [keysAbove, w]
    · simp [keysAbove, w.1]; exact ih (by omega) w.2

theorem keysAbove_del {b : Nat} (k : Nat) {m : Map α} (w : keysAbove b m = true) : keysAbove b (del k m) = true := by
  induction m generalizing b with
  | nil => rfl
  | cons e m ih =>
    obtain ⟨j, c⟩ := e
    simp only [keysAbove, Bool.and_eq_true, decide_eq_true_eq] at w
    unfold del
    split_ifs with h
    · exact ih (keysAbove_mono (by omega) w.2)
    · simp [keysAbove, w.1, ih w.2]

theorem mapWf_put (k : Nat) (a : α) {m : Map α} (w : mapWf m = true) : mapWf (put k a m) = true :=
  keysAbove_put a (Nat.zero_le k) w

theorem mapWf_del (k : Nat) {m : Map α} (w : mapWf m = true) : mapWf (del k m) = true := keysAbove_del k w

/-- What a put map lists was listed before, or is what was put. -/
theorem mem_put {e : Nat × α} {k : Nat} {a : α} {m : Map α} (h : e ∈ put k a m) : e = (k, a) ∨ e ∈ m := by
  induction m with
  | nil => simpa [put] using h
  | cons f m ih =>
    obtain ⟨j, c⟩ := f
    unfold put at h
    split_ifs at h <;> simp only [List.mem_cons] at h ⊢ <;> tauto

/-- What a map without a key lists was listed before. -/
theorem mem_del {e : Nat × α} {k : Nat} {m : Map α} (h : e ∈ del k m) : e ∈ m := by
  induction m with
  | nil => simp [del] at h
  | cons f m ih =>
    obtain ⟨j, c⟩ := f
    unfold del at h
    split_ifs at h <;> simp only [List.mem_cons] at h ⊢ <;> tauto

end Sys2Proof.Machine
end

