-- ==== Sys2Proof/Laws/Memory.lean ====
section
/-! SUPPORT. Every operation on memory and its poison bits keeps their canonical form. -/

namespace Sys2Proof.Machine

theorem Memory.wf_memPut {m : Map Byte} (h : Memory.wf m = true) (pa : Nat) (b : Byte) : Memory.wf (memPut m pa b) = true := by
  simp only [Memory.wf, Bool.and_eq_true, List.all_eq_true] at h ⊢
  unfold memPut
  split_ifs with hb
  · exact ⟨mapWf_del pa h.1, fun e he => h.2 e (mem_del he)⟩
  · refine ⟨mapWf_put pa b h.1, fun e he => ?_⟩
    rcases mem_put he with rfl | he
    · simpa using hb
    · exact h.2 e he

theorem poisonWf_setD {m : Map Bool} (h : poisonWf m = true) (k : Nat) (b : Bool) : poisonWf (setD false k b m) = true := by
  simp only [poisonWf, Bool.and_eq_true, List.all_eq_true] at h ⊢
  unfold setD
  split_ifs with hb
  · exact ⟨mapWf_del k h.1, fun e he => h.2 e (mem_del he)⟩
  · refine ⟨mapWf_put k b h.1, fun e he => ?_⟩
    rcases mem_put he with rfl | he
    · simpa using hb
    · exact h.2 e he

/-- The form depends on memory and the poison bits alone. -/
theorem inv_congr {s t : State} (h : s.inv = true) (hm : t.mem = s.mem) (hp : t.poison = s.poison) : t.inv = true := by
  simpa [State.inv, hm, hp] using h

theorem inv_writeByte {s : State} (h : s.inv = true) (pa : Nat) (b : Byte) : (writeByte s pa b).inv = true := by
  simp only [State.inv, writeByte, Bool.and_eq_true] at h ⊢
  exact ⟨Memory.wf_memPut h.1 pa b, h.2⟩

theorem inv_setLinePoison {s : State} (h : s.inv = true) (pa : Nat) (b : Bool) : (setLinePoison s pa b).inv = true := by
  simp only [State.inv, setLinePoison, Bool.and_eq_true] at h ⊢
  exact ⟨h.1, poisonWf_setD h.2 _ b⟩

/-- A fold of steps that keep the form keeps it. -/
theorem inv_foldl {β : Type} (f : State → β → State) (hf : ∀ s b, s.inv = true → (f s b).inv = true) (l : List β) {s : State}
    (h : s.inv = true) : (l.foldl f s).inv = true := by
  induction l generalizing s with
  | nil => exact h
  | cons b l ih => exact ih (hf s b h)

theorem inv_writeBytes {s : State} (h : s.inv = true) (pa : Nat) (l : List Byte) : (writeBytes s pa l).inv = true := by
  induction l generalizing s pa with
  | nil => exact h
  | cons b l ih => exact ih (inv_writeByte h pa b) (pa + 1)

theorem inv_writeLe {s : State} (h : s.inv = true) (pa n v : Nat) : (writeLe s pa n v).inv = true := inv_writeBytes h pa _

theorem inv_writeClean {s : State} (h : s.inv = true) (pa : Nat) (l : List Byte) : (writeClean s pa l).inv = true := by
  unfold writeClean
  refine inv_foldl _ (fun s i hs => ?_) _ (inv_writeBytes h pa l)
  simp only
  split_ifs
  · exact inv_setLinePoison hs _ _
  · exact hs

end Sys2Proof.Machine
end

