-- ==== Sys2Proof/Laws/State.lean ====
section
/-! SUPPORT. What each plain update of the state leaves of each field: one lemma per field per update, true by unfolding. -/

namespace Sys2Proof.Machine

/-! `setCore` -/

@[simp] theorem setCore_sched (s : State) (t : Nat) (c : Core) : (setCore s t c).sched = s.sched := rfl
@[simp] theorem setCore_free (s : State) (t : Nat) (c : Core) : (setCore s t c).free = s.free := rfl
@[simp] theorem setCore_nextAcc (s : State) (t : Nat) (c : Core) : (setCore s t c).nextAcc = s.nextAcc := rfl
@[simp] theorem setCore_nextUid (s : State) (t : Nat) (c : Core) : (setCore s t c).nextUid = s.nextUid := rfl
@[simp] theorem setCore_issue (s : State) (t : Nat) (c : Core) : (setCore s t c).issue = s.issue := rfl
@[simp] theorem setCore_focus (s : State) (t : Nat) (c : Core) : (setCore s t c).focus = s.focus := rfl
@[simp] theorem setCore_mem (s : State) (t : Nat) (c : Core) : (setCore s t c).mem = s.mem := rfl
@[simp] theorem setCore_poison (s : State) (t : Nat) (c : Core) : (setCore s t c).poison = s.poison := rfl
@[simp] theorem setCore_struck (s : State) (t : Nat) (c : Core) : (setCore s t c).struck = s.struck := rfl
@[simp] theorem setCore_inflight (s : State) (t : Nat) (c : Core) : (setCore s t c).inflight = s.inflight := rfl
@[simp] theorem setCore_arrived (s : State) (t : Nat) (c : Core) : (setCore s t c).arrived = s.arrived := rfl
@[simp] theorem setCore_cores (s : State) (t : Nat) (c : Core) : (setCore s t c).cores = setD Core.reset t c s.cores := rfl
@[simp] theorem setCore_threads (s : State) (t : Nat) (c : Core) : (setCore s t c).threads = s.threads := rfl
@[simp] theorem setCore_spanQ (s : State) (t : Nat) (c : Core) : (setCore s t c).spanQ = s.spanQ := rfl
@[simp] theorem setCore_spanTlb (s : State) (t : Nat) (c : Core) : (setCore s t c).spanTlb = s.spanTlb := rfl
@[simp] theorem setCore_ksQ (s : State) (t : Nat) (c : Core) : (setCore s t c).ksQ = s.ksQ := rfl
@[simp] theorem setCore_faultWait (s : State) (t : Nat) (c : Core) : (setCore s t c).faultWait = s.faultWait := rfl
@[simp] theorem setCore_sinks (s : State) (t : Nat) (c : Core) : (setCore s t c).sinks = s.sinks := rfl
@[simp] theorem setCore_hbmEnd (s : State) (t : Nat) (c : Core) : (setCore s t c).hbmEnd = s.hbmEnd := rfl
@[simp] theorem setCore_fused (s : State) (t : Nat) (c : Core) : (setCore s t c).fused = s.fused := rfl
@[simp] theorem setCore_live (s : State) (t : Nat) (c : Core) : (setCore s t c).live = s.live := rfl
@[simp] theorem setCore_partner (s : State) (t : Nat) (c : Core) : (setCore s t c).partner = s.partner := rfl
@[simp] theorem setCore_epoch (s : State) (t : Nat) (c : Core) : (setCore s t c).epoch = s.epoch := rfl
@[simp] theorem setCore_gated (s : State) (t : Nat) (c : Core) : (setCore s t c).gated = s.gated := rfl
@[simp] theorem setCore_wakeQ (s : State) (t : Nat) (c : Core) : (setCore s t c).wakeQ = s.wakeQ := rfl
@[simp] theorem setCore_inrush (s : State) (t : Nat) (c : Core) : (setCore s t c).inrush = s.inrush := rfl
@[simp] theorem setCore_lowering (s : State) (t : Nat) (c : Core) : (setCore s t c).lowering = s.lowering := rfl
@[simp] theorem setCore_lowerQ (s : State) (t : Nat) (c : Core) : (setCore s t c).lowerQ = s.lowerQ := rfl
@[simp] theorem setCore_downLinks (s : State) (t : Nat) (c : Core) : (setCore s t c).downLinks = s.downLinks := rfl
@[simp] theorem setCore_tokens (s : State) (t : Nat) (c : Core) : (setCore s t c).tokens = s.tokens := rfl
@[simp] theorem setCore_aborts (s : State) (t : Nat) (c : Core) : (setCore s t c).aborts = s.aborts := rfl
@[simp] theorem setCore_errs (s : State) (t : Nat) (c : Core) : (setCore s t c).errs = s.errs := rfl
@[simp] theorem setCore_homes (s : State) (t : Nat) (c : Core) : (setCore s t c).homes = s.homes := rfl
@[simp] theorem setCore_subs (s : State) (t : Nat) (c : Core) : (setCore s t c).subs = s.subs := rfl
@[simp] theorem setCore_net (s : State) (t : Nat) (c : Core) : (setCore s t c).net = s.net := rfl
@[simp] theorem setCore_graphs (s : State) (t : Nat) (c : Core) : (setCore s t c).graphs = s.graphs := rfl
@[simp] theorem setCore_pool (s : State) (t : Nat) (c : Core) : (setCore s t c).pool = s.pool := rfl
@[simp] theorem setCore_poolGen (s : State) (t : Nat) (c : Core) : (setCore s t c).poolGen = s.poolGen := rfl
@[simp] theorem setCore_lastId (s : State) (t : Nat) (c : Core) : (setCore s t c).lastId = s.lastId := rfl
@[simp] theorem setCore_poolSeq (s : State) (t : Nat) (c : Core) : (setCore s t c).poolSeq = s.poolSeq := rfl
@[simp] theorem setCore_fetched (s : State) (t : Nat) (c : Core) : (setCore s t c).fetched = s.fetched := rfl
@[simp] theorem setCore_slots (s : State) (t : Nat) (c : Core) : (setCore s t c).slots = s.slots := rfl
@[simp] theorem setCore_residency (s : State) (t : Nat) (c : Core) : (setCore s t c).residency = s.residency := rfl
@[simp] theorem setCore_tensors (s : State) (t : Nat) (c : Core) : (setCore s t c).tensors = s.tensors := rfl
@[simp] theorem setCore_ms (s : State) (t : Nat) (c : Core) : (setCore s t c).ms = s.ms := rfl
@[simp] theorem setCore_kcyc (s : State) (t : Nat) (c : Core) : (setCore s t c).kcyc = s.kcyc := rfl
@[simp] theorem setCore_msixTab (s : State) (t : Nat) (c : Core) : (setCore s t c).msixTab = s.msixTab := rfl
@[simp] theorem setCore_msixPend (s : State) (t : Nat) (c : Core) : (setCore s t c).msixPend = s.msixPend := rfl
@[simp] theorem setCore_beats (s : State) (t : Nat) (c : Core) : (setCore s t c).beats = s.beats := rfl
@[simp] theorem setCore_probeFails (s : State) (t : Nat) (c : Core) : (setCore s t c).probeFails = s.probeFails := rfl
@[simp] theorem setCore_vacate (s : State) (t : Nat) (c : Core) : (setCore s t c).vacate = s.vacate := rfl
@[simp] theorem setCore_vacAsked (s : State) (t : Nat) (c : Core) : (setCore s t c).vacAsked = s.vacAsked := rfl
@[simp] theorem setCore_lowVac (s : State) (t : Nat) (c : Core) : (setCore s t c).lowVac = s.lowVac := rfl
@[simp] theorem setCore_vacHeld (s : State) (t : Nat) (c : Core) : (setCore s t c).vacHeld = s.vacHeld := rfl
@[simp] theorem setCore_excluded (s : State) (t : Nat) (c : Core) : (setCore s t c).excluded = s.excluded := rfl
@[simp] theorem setCore_saved (s : State) (t : Nat) (c : Core) : (setCore s t c).saved = s.saved := rfl
@[simp] theorem setCore_ckpt (s : State) (t : Nat) (c : Core) : (setCore s t c).ckpt = s.ckpt := rfl
@[simp] theorem setCore_move (s : State) (t : Nat) (c : Core) : (setCore s t c).move = s.move := rfl
@[simp] theorem setCore_frames (s : State) (t : Nat) (c : Core) : (setCore s t c).frames = s.frames := rfl
@[simp] theorem setCore_tails (s : State) (t : Nat) (c : Core) : (setCore s t c).tails = s.tails := rfl
@[simp] theorem setCore_stretch (s : State) (t : Nat) (c : Core) : (setCore s t c).stretch = s.stretch := rfl
@[simp] theorem setCore_drains (s : State) (t : Nat) (c : Core) : (setCore s t c).drains = s.drains := rfl
@[simp] theorem setCore_olds (s : State) (t : Nat) (c : Core) : (setCore s t c).olds = s.olds := rfl
@[simp] theorem setCore_resends (s : State) (t : Nat) (c : Core) : (setCore s t c).resends = s.resends := rfl
@[simp] theorem setCore_peerSeen (s : State) (t : Nat) (c : Core) : (setCore s t c).peerSeen = s.peerSeen := rfl
@[simp] theorem setCore_linksUp (s : State) (t : Nat) (c : Core) : (setCore s t c).linksUp = s.linksUp := rfl
@[simp] theorem setCore_outHost (s : State) (t : Nat) (c : Core) : (setCore s t c).outHost = s.outHost := rfl

/-! `setThread` -/

@[simp] theorem setThread_sched (s : State) (k : Nat) (th : Thread) : (setThread s k th).sched = s.sched := rfl
@[simp] theorem setThread_free (s : State) (k : Nat) (th : Thread) : (setThread s k th).free = s.free := rfl
@[simp] theorem setThread_nextAcc (s : State) (k : Nat) (th : Thread) : (setThread s k th).nextAcc = s.nextAcc := rfl
@[simp] theorem setThread_nextUid (s : State) (k : Nat) (th : Thread) : (setThread s k th).nextUid = s.nextUid := rfl
@[simp] theorem setThread_issue (s : State) (k : Nat) (th : Thread) : (setThread s k th).issue = s.issue := rfl
@[simp] theorem setThread_focus (s : State) (k : Nat) (th : Thread) : (setThread s k th).focus = s.focus := rfl
@[simp] theorem setThread_mem (s : State) (k : Nat) (th : Thread) : (setThread s k th).mem = s.mem := rfl
@[simp] theorem setThread_poison (s : State) (k : Nat) (th : Thread) : (setThread s k th).poison = s.poison := rfl
@[simp] theorem setThread_struck (s : State) (k : Nat) (th : Thread) : (setThread s k th).struck = s.struck := rfl
@[simp] theorem setThread_inflight (s : State) (k : Nat) (th : Thread) : (setThread s k th).inflight = s.inflight := rfl
@[simp] theorem setThread_arrived (s : State) (k : Nat) (th : Thread) : (setThread s k th).arrived = s.arrived := rfl
@[simp] theorem setThread_cores (s : State) (k : Nat) (th : Thread) : (setThread s k th).cores = s.cores := rfl
@[simp] theorem setThread_threads (s : State) (k : Nat) (th : Thread) : (setThread s k th).threads = put k th s.threads := rfl
@[simp] theorem setThread_spanQ (s : State) (k : Nat) (th : Thread) : (setThread s k th).spanQ = s.spanQ := rfl
@[simp] theorem setThread_spanTlb (s : State) (k : Nat) (th : Thread) : (setThread s k th).spanTlb = s.spanTlb := rfl
@[simp] theorem setThread_ksQ (s : State) (k : Nat) (th : Thread) : (setThread s k th).ksQ = s.ksQ := rfl
@[simp] theorem setThread_faultWait (s : State) (k : Nat) (th : Thread) : (setThread s k th).faultWait = s.faultWait := rfl
@[simp] theorem setThread_sinks (s : State) (k : Nat) (th : Thread) : (setThread s k th).sinks = s.sinks := rfl
@[simp] theorem setThread_hbmEnd (s : State) (k : Nat) (th : Thread) : (setThread s k th).hbmEnd = s.hbmEnd := rfl
@[simp] theorem setThread_fused (s : State) (k : Nat) (th : Thread) : (setThread s k th).fused = s.fused := rfl
@[simp] theorem setThread_live (s : State) (k : Nat) (th : Thread) : (setThread s k th).live = s.live := rfl
@[simp] theorem setThread_partner (s : State) (k : Nat) (th : Thread) : (setThread s k th).partner = s.partner := rfl
@[simp] theorem setThread_epoch (s : State) (k : Nat) (th : Thread) : (setThread s k th).epoch = s.epoch := rfl
@[simp] theorem setThread_gated (s : State) (k : Nat) (th : Thread) : (setThread s k th).gated = s.gated := rfl
@[simp] theorem setThread_wakeQ (s : State) (k : Nat) (th : Thread) : (setThread s k th).wakeQ = s.wakeQ := rfl
@[simp] theorem setThread_inrush (s : State) (k : Nat) (th : Thread) : (setThread s k th).inrush = s.inrush := rfl
@[simp] theorem setThread_lowering (s : State) (k : Nat) (th : Thread) : (setThread s k th).lowering = s.lowering := rfl
@[simp] theorem setThread_lowerQ (s : State) (k : Nat) (th : Thread) : (setThread s k th).lowerQ = s.lowerQ := rfl
@[simp] theorem setThread_downLinks (s : State) (k : Nat) (th : Thread) : (setThread s k th).downLinks = s.downLinks := rfl
@[simp] theorem setThread_tokens (s : State) (k : Nat) (th : Thread) : (setThread s k th).tokens = s.tokens := rfl
@[simp] theorem setThread_aborts (s : State) (k : Nat) (th : Thread) : (setThread s k th).aborts = s.aborts := rfl
@[simp] theorem setThread_errs (s : State) (k : Nat) (th : Thread) : (setThread s k th).errs = s.errs := rfl
@[simp] theorem setThread_homes (s : State) (k : Nat) (th : Thread) : (setThread s k th).homes = s.homes := rfl
@[simp] theorem setThread_subs (s : State) (k : Nat) (th : Thread) : (setThread s k th).subs = s.subs := rfl
@[simp] theorem setThread_net (s : State) (k : Nat) (th : Thread) : (setThread s k th).net = s.net := rfl
@[simp] theorem setThread_graphs (s : State) (k : Nat) (th : Thread) : (setThread s k th).graphs = s.graphs := rfl
@[simp] theorem setThread_pool (s : State) (k : Nat) (th : Thread) : (setThread s k th).pool = s.pool := rfl
@[simp] theorem setThread_poolGen (s : State) (k : Nat) (th : Thread) : (setThread s k th).poolGen = s.poolGen := rfl
@[simp] theorem setThread_lastId (s : State) (k : Nat) (th : Thread) : (setThread s k th).lastId = s.lastId := rfl
@[simp] theorem setThread_poolSeq (s : State) (k : Nat) (th : Thread) : (setThread s k th).poolSeq = s.poolSeq := rfl
@[simp] theorem setThread_fetched (s : State) (k : Nat) (th : Thread) : (setThread s k th).fetched = s.fetched := rfl
@[simp] theorem setThread_slots (s : State) (k : Nat) (th : Thread) : (setThread s k th).slots = s.slots := rfl
@[simp] theorem setThread_residency (s : State) (k : Nat) (th : Thread) : (setThread s k th).residency = s.residency := rfl
@[simp] theorem setThread_tensors (s : State) (k : Nat) (th : Thread) : (setThread s k th).tensors = s.tensors := rfl
@[simp] theorem setThread_ms (s : State) (k : Nat) (th : Thread) : (setThread s k th).ms = s.ms := rfl
@[simp] theorem setThread_kcyc (s : State) (k : Nat) (th : Thread) : (setThread s k th).kcyc = s.kcyc := rfl
@[simp] theorem setThread_msixTab (s : State) (k : Nat) (th : Thread) : (setThread s k th).msixTab = s.msixTab := rfl
@[simp] theorem setThread_msixPend (s : State) (k : Nat) (th : Thread) : (setThread s k th).msixPend = s.msixPend := rfl
@[simp] theorem setThread_beats (s : State) (k : Nat) (th : Thread) : (setThread s k th).beats = s.beats := rfl
@[simp] theorem setThread_probeFails (s : State) (k : Nat) (th : Thread) : (setThread s k th).probeFails = s.probeFails := rfl
@[simp] theorem setThread_vacate (s : State) (k : Nat) (th : Thread) : (setThread s k th).vacate = s.vacate := rfl
@[simp] theorem setThread_vacAsked (s : State) (k : Nat) (th : Thread) : (setThread s k th).vacAsked = s.vacAsked := rfl
@[simp] theorem setThread_lowVac (s : State) (k : Nat) (th : Thread) : (setThread s k th).lowVac = s.lowVac := rfl
@[simp] theorem setThread_vacHeld (s : State) (k : Nat) (th : Thread) : (setThread s k th).vacHeld = s.vacHeld := rfl
@[simp] theorem setThread_excluded (s : State) (k : Nat) (th : Thread) : (setThread s k th).excluded = s.excluded := rfl
@[simp] theorem setThread_saved (s : State) (k : Nat) (th : Thread) : (setThread s k th).saved = s.saved := rfl
@[simp] theorem setThread_ckpt (s : State) (k : Nat) (th : Thread) : (setThread s k th).ckpt = s.ckpt := rfl
@[simp] theorem setThread_move (s : State) (k : Nat) (th : Thread) : (setThread s k th).move = s.move := rfl
@[simp] theorem setThread_frames (s : State) (k : Nat) (th : Thread) : (setThread s k th).frames = s.frames := rfl
@[simp] theorem setThread_tails (s : State) (k : Nat) (th : Thread) : (setThread s k th).tails = s.tails := rfl
@[simp] theorem setThread_stretch (s : State) (k : Nat) (th : Thread) : (setThread s k th).stretch = s.stretch := rfl
@[simp] theorem setThread_drains (s : State) (k : Nat) (th : Thread) : (setThread s k th).drains = s.drains := rfl
@[simp] theorem setThread_olds (s : State) (k : Nat) (th : Thread) : (setThread s k th).olds = s.olds := rfl
@[simp] theorem setThread_resends (s : State) (k : Nat) (th : Thread) : (setThread s k th).resends = s.resends := rfl
@[simp] theorem setThread_peerSeen (s : State) (k : Nat) (th : Thread) : (setThread s k th).peerSeen = s.peerSeen := rfl
@[simp] theorem setThread_linksUp (s : State) (k : Nat) (th : Thread) : (setThread s k th).linksUp = s.linksUp := rfl
@[simp] theorem setThread_outHost (s : State) (k : Nat) (th : Thread) : (setThread s k th).outHost = s.outHost := rfl

/-! `dropThread` -/

@[simp] theorem dropThread_sched (s : State) (k : Nat) : (dropThread s k).sched = s.sched := rfl
@[simp] theorem dropThread_free (s : State) (k : Nat) : (dropThread s k).free = s.free := rfl
@[simp] theorem dropThread_nextAcc (s : State) (k : Nat) : (dropThread s k).nextAcc = s.nextAcc := rfl
@[simp] theorem dropThread_nextUid (s : State) (k : Nat) : (dropThread s k).nextUid = s.nextUid := rfl
@[simp] theorem dropThread_issue (s : State) (k : Nat) : (dropThread s k).issue = s.issue := rfl
@[simp] theorem dropThread_focus (s : State) (k : Nat) : (dropThread s k).focus = s.focus := rfl
@[simp] theorem dropThread_mem (s : State) (k : Nat) : (dropThread s k).mem = s.mem := rfl
@[simp] theorem dropThread_poison (s : State) (k : Nat) : (dropThread s k).poison = s.poison := rfl
@[simp] theorem dropThread_struck (s : State) (k : Nat) : (dropThread s k).struck = s.struck := rfl
@[simp] theorem dropThread_inflight (s : State) (k : Nat) : (dropThread s k).inflight = s.inflight := rfl
@[simp] theorem dropThread_arrived (s : State) (k : Nat) : (dropThread s k).arrived = s.arrived := rfl
@[simp] theorem dropThread_cores (s : State) (k : Nat) : (dropThread s k).cores = s.cores := rfl
@[simp] theorem dropThread_threads (s : State) (k : Nat) : (dropThread s k).threads = del k s.threads := rfl
@[simp] theorem dropThread_spanQ (s : State) (k : Nat) : (dropThread s k).spanQ = s.spanQ := rfl
@[simp] theorem dropThread_spanTlb (s : State) (k : Nat) : (dropThread s k).spanTlb = s.spanTlb := rfl
@[simp] theorem dropThread_ksQ (s : State) (k : Nat) : (dropThread s k).ksQ = s.ksQ := rfl
@[simp] theorem dropThread_faultWait (s : State) (k : Nat) : (dropThread s k).faultWait = s.faultWait := rfl
@[simp] theorem dropThread_sinks (s : State) (k : Nat) : (dropThread s k).sinks = s.sinks := rfl
@[simp] theorem dropThread_hbmEnd (s : State) (k : Nat) : (dropThread s k).hbmEnd = s.hbmEnd := rfl
@[simp] theorem dropThread_fused (s : State) (k : Nat) : (dropThread s k).fused = s.fused := rfl
@[simp] theorem dropThread_live (s : State) (k : Nat) : (dropThread s k).live = s.live := rfl
@[simp] theorem dropThread_partner (s : State) (k : Nat) : (dropThread s k).partner = s.partner := rfl
@[simp] theorem dropThread_epoch (s : State) (k : Nat) : (dropThread s k).epoch = s.epoch := rfl
@[simp] theorem dropThread_gated (s : State) (k : Nat) : (dropThread s k).gated = s.gated := rfl
@[simp] theorem dropThread_wakeQ (s : State) (k : Nat) : (dropThread s k).wakeQ = s.wakeQ := rfl
@[simp] theorem dropThread_inrush (s : State) (k : Nat) : (dropThread s k).inrush = s.inrush := rfl
@[simp] theorem dropThread_lowering (s : State) (k : Nat) : (dropThread s k).lowering = s.lowering := rfl
@[simp] theorem dropThread_lowerQ (s : State) (k : Nat) : (dropThread s k).lowerQ = s.lowerQ := rfl
@[simp] theorem dropThread_downLinks (s : State) (k : Nat) : (dropThread s k).downLinks = s.downLinks := rfl
@[simp] theorem dropThread_tokens (s : State) (k : Nat) : (dropThread s k).tokens = s.tokens := rfl
@[simp] theorem dropThread_aborts (s : State) (k : Nat) : (dropThread s k).aborts = s.aborts := rfl
@[simp] theorem dropThread_errs (s : State) (k : Nat) : (dropThread s k).errs = s.errs := rfl
@[simp] theorem dropThread_homes (s : State) (k : Nat) : (dropThread s k).homes = s.homes := rfl
@[simp] theorem dropThread_subs (s : State) (k : Nat) : (dropThread s k).subs = s.subs := rfl
@[simp] theorem dropThread_net (s : State) (k : Nat) : (dropThread s k).net = s.net := rfl
@[simp] theorem dropThread_graphs (s : State) (k : Nat) : (dropThread s k).graphs = s.graphs := rfl
@[simp] theorem dropThread_pool (s : State) (k : Nat) : (dropThread s k).pool = s.pool := rfl
@[simp] theorem dropThread_poolGen (s : State) (k : Nat) : (dropThread s k).poolGen = s.poolGen := rfl
@[simp] theorem dropThread_lastId (s : State) (k : Nat) : (dropThread s k).lastId = s.lastId := rfl
@[simp] theorem dropThread_poolSeq (s : State) (k : Nat) : (dropThread s k).poolSeq = s.poolSeq := rfl
@[simp] theorem dropThread_fetched (s : State) (k : Nat) : (dropThread s k).fetched = s.fetched := rfl
@[simp] theorem dropThread_slots (s : State) (k : Nat) : (dropThread s k).slots = s.slots := rfl
@[simp] theorem dropThread_residency (s : State) (k : Nat) : (dropThread s k).residency = s.residency := rfl
@[simp] theorem dropThread_tensors (s : State) (k : Nat) : (dropThread s k).tensors = s.tensors := rfl
@[simp] theorem dropThread_ms (s : State) (k : Nat) : (dropThread s k).ms = s.ms := rfl
@[simp] theorem dropThread_kcyc (s : State) (k : Nat) : (dropThread s k).kcyc = s.kcyc := rfl
@[simp] theorem dropThread_msixTab (s : State) (k : Nat) : (dropThread s k).msixTab = s.msixTab := rfl
@[simp] theorem dropThread_msixPend (s : State) (k : Nat) : (dropThread s k).msixPend = s.msixPend := rfl
@[simp] theorem dropThread_beats (s : State) (k : Nat) : (dropThread s k).beats = s.beats := rfl
@[simp] theorem dropThread_probeFails (s : State) (k : Nat) : (dropThread s k).probeFails = s.probeFails := rfl
@[simp] theorem dropThread_vacate (s : State) (k : Nat) : (dropThread s k).vacate = s.vacate := rfl
@[simp] theorem dropThread_vacAsked (s : State) (k : Nat) : (dropThread s k).vacAsked = s.vacAsked := rfl
@[simp] theorem dropThread_lowVac (s : State) (k : Nat) : (dropThread s k).lowVac = s.lowVac := rfl
@[simp] theorem dropThread_vacHeld (s : State) (k : Nat) : (dropThread s k).vacHeld = s.vacHeld := rfl
@[simp] theorem dropThread_excluded (s : State) (k : Nat) : (dropThread s k).excluded = s.excluded := rfl
@[simp] theorem dropThread_saved (s : State) (k : Nat) : (dropThread s k).saved = s.saved := rfl
@[simp] theorem dropThread_ckpt (s : State) (k : Nat) : (dropThread s k).ckpt = s.ckpt := rfl
@[simp] theorem dropThread_move (s : State) (k : Nat) : (dropThread s k).move = s.move := rfl
@[simp] theorem dropThread_frames (s : State) (k : Nat) : (dropThread s k).frames = s.frames := rfl
@[simp] theorem dropThread_tails (s : State) (k : Nat) : (dropThread s k).tails = s.tails := rfl
@[simp] theorem dropThread_stretch (s : State) (k : Nat) : (dropThread s k).stretch = s.stretch := rfl
@[simp] theorem dropThread_drains (s : State) (k : Nat) : (dropThread s k).drains = s.drains := rfl
@[simp] theorem dropThread_olds (s : State) (k : Nat) : (dropThread s k).olds = s.olds := rfl
@[simp] theorem dropThread_resends (s : State) (k : Nat) : (dropThread s k).resends = s.resends := rfl
@[simp] theorem dropThread_peerSeen (s : State) (k : Nat) : (dropThread s k).peerSeen = s.peerSeen := rfl
@[simp] theorem dropThread_linksUp (s : State) (k : Nat) : (dropThread s k).linksUp = s.linksUp := rfl
@[simp] theorem dropThread_outHost (s : State) (k : Nat) : (dropThread s k).outHost = s.outHost := rfl

/-! `writeByte` -/

@[simp] theorem writeByte_sched (s : State) (pa : Nat) (b : Byte) : (writeByte s pa b).sched = s.sched := rfl
@[simp] theorem writeByte_free (s : State) (pa : Nat) (b : Byte) : (writeByte s pa b).free = s.free := rfl
@[simp] theorem writeByte_nextAcc (s : State) (pa : Nat) (b : Byte) : (writeByte s pa b).nextAcc = s.nextAcc := rfl
@[simp] theorem writeByte_nextUid (s : State) (pa : Nat) (b : Byte) : (writeByte s pa b).nextUid = s.nextUid := rfl
@[simp] theorem writeByte_issue (s : State) (pa : Nat) (b : Byte) : (writeByte s pa b).issue = s.issue := rfl
@[simp] theorem writeByte_focus (s : State) (pa : Nat) (b : Byte) : (writeByte s pa b).focus = s.focus := rfl
@[simp] theorem writeByte_mem (s : State) (pa : Nat) (b : Byte) : (writeByte s pa b).mem = memPut s.mem pa b := rfl
@[simp] theorem writeByte_poison (s : State) (pa : Nat) (b : Byte) : (writeByte s pa b).poison = s.poison := rfl
@[simp] theorem writeByte_struck (s : State) (pa : Nat) (b : Byte) : (writeByte s pa b).struck = s.struck := rfl
@[simp] theorem writeByte_inflight (s : State) (pa : Nat) (b : Byte) : (writeByte s pa b).inflight = s.inflight := rfl
@[simp] theorem writeByte_arrived (s : State) (pa : Nat) (b : Byte) : (writeByte s pa b).arrived = s.arrived := rfl
@[simp] theorem writeByte_cores (s : State) (pa : Nat) (b : Byte) : (writeByte s pa b).cores = s.cores := rfl
@[simp] theorem writeByte_threads (s : State) (pa : Nat) (b : Byte) : (writeByte s pa b).threads = s.threads := rfl
@[simp] theorem writeByte_spanQ (s : State) (pa : Nat) (b : Byte) : (writeByte s pa b).spanQ = s.spanQ := rfl
@[simp] theorem writeByte_spanTlb (s : State) (pa : Nat) (b : Byte) : (writeByte s pa b).spanTlb = s.spanTlb := rfl
@[simp] theorem writeByte_ksQ (s : State) (pa : Nat) (b : Byte) : (writeByte s pa b).ksQ = s.ksQ := rfl
@[simp] theorem writeByte_faultWait (s : State) (pa : Nat) (b : Byte) : (writeByte s pa b).faultWait = s.faultWait := rfl
@[simp] theorem writeByte_sinks (s : State) (pa : Nat) (b : Byte) : (writeByte s pa b).sinks = s.sinks := rfl
@[simp] theorem writeByte_hbmEnd (s : State) (pa : Nat) (b : Byte) : (writeByte s pa b).hbmEnd = s.hbmEnd := rfl
@[simp] theorem writeByte_fused (s : State) (pa : Nat) (b : Byte) : (writeByte s pa b).fused = s.fused := rfl
@[simp] theorem writeByte_live (s : State) (pa : Nat) (b : Byte) : (writeByte s pa b).live = s.live := rfl
@[simp] theorem writeByte_partner (s : State) (pa : Nat) (b : Byte) : (writeByte s pa b).partner = s.partner := rfl
@[simp] theorem writeByte_epoch (s : State) (pa : Nat) (b : Byte) : (writeByte s pa b).epoch = s.epoch := rfl
@[simp] theorem writeByte_gated (s : State) (pa : Nat) (b : Byte) : (writeByte s pa b).gated = s.gated := rfl
@[simp] theorem writeByte_wakeQ (s : State) (pa : Nat) (b : Byte) : (writeByte s pa b).wakeQ = s.wakeQ := rfl
@[simp] theorem writeByte_inrush (s : State) (pa : Nat) (b : Byte) : (writeByte s pa b).inrush = s.inrush := rfl
@[simp] theorem writeByte_lowering (s : State) (pa : Nat) (b : Byte) : (writeByte s pa b).lowering = s.lowering := rfl
@[simp] theorem writeByte_lowerQ (s : State) (pa : Nat) (b : Byte) : (writeByte s pa b).lowerQ = s.lowerQ := rfl
@[simp] theorem writeByte_downLinks (s : State) (pa : Nat) (b : Byte) : (writeByte s pa b).downLinks = s.downLinks := rfl
@[simp] theorem writeByte_tokens (s : State) (pa : Nat) (b : Byte) : (writeByte s pa b).tokens = s.tokens := rfl
@[simp] theorem writeByte_aborts (s : State) (pa : Nat) (b : Byte) : (writeByte s pa b).aborts = s.aborts := rfl
@[simp] theorem writeByte_errs (s : State) (pa : Nat) (b : Byte) : (writeByte s pa b).errs = s.errs := rfl
@[simp] theorem writeByte_homes (s : State) (pa : Nat) (b : Byte) : (writeByte s pa b).homes = s.homes := rfl
@[simp] theorem writeByte_subs (s : State) (pa : Nat) (b : Byte) : (writeByte s pa b).subs = s.subs := rfl
@[simp] theorem writeByte_net (s : State) (pa : Nat) (b : Byte) : (writeByte s pa b).net = s.net := rfl
@[simp] theorem writeByte_graphs (s : State) (pa : Nat) (b : Byte) : (writeByte s pa b).graphs = s.graphs := rfl
@[simp] theorem writeByte_pool (s : State) (pa : Nat) (b : Byte) : (writeByte s pa b).pool = s.pool := rfl
@[simp] theorem writeByte_poolGen (s : State) (pa : Nat) (b : Byte) : (writeByte s pa b).poolGen = s.poolGen := rfl
@[simp] theorem writeByte_lastId (s : State) (pa : Nat) (b : Byte) : (writeByte s pa b).lastId = s.lastId := rfl
@[simp] theorem writeByte_poolSeq (s : State) (pa : Nat) (b : Byte) : (writeByte s pa b).poolSeq = s.poolSeq := rfl
@[simp] theorem writeByte_fetched (s : State) (pa : Nat) (b : Byte) : (writeByte s pa b).fetched = s.fetched := rfl
@[simp] theorem writeByte_slots (s : State) (pa : Nat) (b : Byte) : (writeByte s pa b).slots = s.slots := rfl
@[simp] theorem writeByte_residency (s : State) (pa : Nat) (b : Byte) : (writeByte s pa b).residency = s.residency := rfl
@[simp] theorem writeByte_tensors (s : State) (pa : Nat) (b : Byte) : (writeByte s pa b).tensors = s.tensors := rfl
@[simp] theorem writeByte_ms (s : State) (pa : Nat) (b : Byte) : (writeByte s pa b).ms = s.ms := rfl
@[simp] theorem writeByte_kcyc (s : State) (pa : Nat) (b : Byte) : (writeByte s pa b).kcyc = s.kcyc := rfl
@[simp] theorem writeByte_msixTab (s : State) (pa : Nat) (b : Byte) : (writeByte s pa b).msixTab = s.msixTab := rfl
@[simp] theorem writeByte_msixPend (s : State) (pa : Nat) (b : Byte) : (writeByte s pa b).msixPend = s.msixPend := rfl
@[simp] theorem writeByte_beats (s : State) (pa : Nat) (b : Byte) : (writeByte s pa b).beats = s.beats := rfl
@[simp] theorem writeByte_probeFails (s : State) (pa : Nat) (b : Byte) : (writeByte s pa b).probeFails = s.probeFails := rfl
@[simp] theorem writeByte_vacate (s : State) (pa : Nat) (b : Byte) : (writeByte s pa b).vacate = s.vacate := rfl
@[simp] theorem writeByte_vacAsked (s : State) (pa : Nat) (b : Byte) : (writeByte s pa b).vacAsked = s.vacAsked := rfl
@[simp] theorem writeByte_lowVac (s : State) (pa : Nat) (b : Byte) : (writeByte s pa b).lowVac = s.lowVac := rfl
@[simp] theorem writeByte_vacHeld (s : State) (pa : Nat) (b : Byte) : (writeByte s pa b).vacHeld = s.vacHeld := rfl
@[simp] theorem writeByte_excluded (s : State) (pa : Nat) (b : Byte) : (writeByte s pa b).excluded = s.excluded := rfl
@[simp] theorem writeByte_saved (s : State) (pa : Nat) (b : Byte) : (writeByte s pa b).saved = s.saved := rfl
@[simp] theorem writeByte_ckpt (s : State) (pa : Nat) (b : Byte) : (writeByte s pa b).ckpt = s.ckpt := rfl
@[simp] theorem writeByte_move (s : State) (pa : Nat) (b : Byte) : (writeByte s pa b).move = s.move := rfl
@[simp] theorem writeByte_frames (s : State) (pa : Nat) (b : Byte) : (writeByte s pa b).frames = s.frames := rfl
@[simp] theorem writeByte_tails (s : State) (pa : Nat) (b : Byte) : (writeByte s pa b).tails = s.tails := rfl
@[simp] theorem writeByte_stretch (s : State) (pa : Nat) (b : Byte) : (writeByte s pa b).stretch = s.stretch := rfl
@[simp] theorem writeByte_drains (s : State) (pa : Nat) (b : Byte) : (writeByte s pa b).drains = s.drains := rfl
@[simp] theorem writeByte_olds (s : State) (pa : Nat) (b : Byte) : (writeByte s pa b).olds = s.olds := rfl
@[simp] theorem writeByte_resends (s : State) (pa : Nat) (b : Byte) : (writeByte s pa b).resends = s.resends := rfl
@[simp] theorem writeByte_peerSeen (s : State) (pa : Nat) (b : Byte) : (writeByte s pa b).peerSeen = s.peerSeen := rfl
@[simp] theorem writeByte_linksUp (s : State) (pa : Nat) (b : Byte) : (writeByte s pa b).linksUp = s.linksUp := rfl
@[simp] theorem writeByte_outHost (s : State) (pa : Nat) (b : Byte) : (writeByte s pa b).outHost = s.outHost := rfl

/-! `setLinePoison` -/

@[simp] theorem setLinePoison_sched (s : State) (pa : Nat) (b : Bool) : (setLinePoison s pa b).sched = s.sched := rfl
@[simp] theorem setLinePoison_free (s : State) (pa : Nat) (b : Bool) : (setLinePoison s pa b).free = s.free := rfl
@[simp] theorem setLinePoison_nextAcc (s : State) (pa : Nat) (b : Bool) : (setLinePoison s pa b).nextAcc = s.nextAcc := rfl
@[simp] theorem setLinePoison_nextUid (s : State) (pa : Nat) (b : Bool) : (setLinePoison s pa b).nextUid = s.nextUid := rfl
@[simp] theorem setLinePoison_issue (s : State) (pa : Nat) (b : Bool) : (setLinePoison s pa b).issue = s.issue := rfl
@[simp] theorem setLinePoison_focus (s : State) (pa : Nat) (b : Bool) : (setLinePoison s pa b).focus = s.focus := rfl
@[simp] theorem setLinePoison_mem (s : State) (pa : Nat) (b : Bool) : (setLinePoison s pa b).mem = s.mem := rfl
@[simp] theorem setLinePoison_poison (s : State) (pa : Nat) (b : Bool) : (setLinePoison s pa b).poison = setD false (pa / 64) b s.poison := rfl
@[simp] theorem setLinePoison_struck (s : State) (pa : Nat) (b : Bool) :
    (setLinePoison s pa b).struck = strikesLeft s (fun x => x == .line (pa / 64)) := rfl
@[simp] theorem setLinePoison_inflight (s : State) (pa : Nat) (b : Bool) : (setLinePoison s pa b).inflight = s.inflight := rfl
@[simp] theorem setLinePoison_arrived (s : State) (pa : Nat) (b : Bool) : (setLinePoison s pa b).arrived = s.arrived := rfl
@[simp] theorem setLinePoison_cores (s : State) (pa : Nat) (b : Bool) : (setLinePoison s pa b).cores = s.cores := rfl
@[simp] theorem setLinePoison_threads (s : State) (pa : Nat) (b : Bool) : (setLinePoison s pa b).threads = s.threads := rfl
@[simp] theorem setLinePoison_spanQ (s : State) (pa : Nat) (b : Bool) : (setLinePoison s pa b).spanQ = s.spanQ := rfl
@[simp] theorem setLinePoison_spanTlb (s : State) (pa : Nat) (b : Bool) : (setLinePoison s pa b).spanTlb = s.spanTlb := rfl
@[simp] theorem setLinePoison_ksQ (s : State) (pa : Nat) (b : Bool) : (setLinePoison s pa b).ksQ = s.ksQ := rfl
@[simp] theorem setLinePoison_faultWait (s : State) (pa : Nat) (b : Bool) : (setLinePoison s pa b).faultWait = s.faultWait := rfl
@[simp] theorem setLinePoison_sinks (s : State) (pa : Nat) (b : Bool) : (setLinePoison s pa b).sinks = s.sinks := rfl
@[simp] theorem setLinePoison_hbmEnd (s : State) (pa : Nat) (b : Bool) : (setLinePoison s pa b).hbmEnd = s.hbmEnd := rfl
@[simp] theorem setLinePoison_fused (s : State) (pa : Nat) (b : Bool) : (setLinePoison s pa b).fused = s.fused := rfl
@[simp] theorem setLinePoison_live (s : State) (pa : Nat) (b : Bool) : (setLinePoison s pa b).live = s.live := rfl
@[simp] theorem setLinePoison_partner (s : State) (pa : Nat) (b : Bool) : (setLinePoison s pa b).partner = s.partner := rfl
@[simp] theorem setLinePoison_epoch (s : State) (pa : Nat) (b : Bool) : (setLinePoison s pa b).epoch = s.epoch := rfl
@[simp] theorem setLinePoison_gated (s : State) (pa : Nat) (b : Bool) : (setLinePoison s pa b).gated = s.gated := rfl
@[simp] theorem setLinePoison_wakeQ (s : State) (pa : Nat) (b : Bool) : (setLinePoison s pa b).wakeQ = s.wakeQ := rfl
@[simp] theorem setLinePoison_inrush (s : State) (pa : Nat) (b : Bool) : (setLinePoison s pa b).inrush = s.inrush := rfl
@[simp] theorem setLinePoison_lowering (s : State) (pa : Nat) (b : Bool) : (setLinePoison s pa b).lowering = s.lowering := rfl
@[simp] theorem setLinePoison_lowerQ (s : State) (pa : Nat) (b : Bool) : (setLinePoison s pa b).lowerQ = s.lowerQ := rfl
@[simp] theorem setLinePoison_downLinks (s : State) (pa : Nat) (b : Bool) : (setLinePoison s pa b).downLinks = s.downLinks := rfl
@[simp] theorem setLinePoison_tokens (s : State) (pa : Nat) (b : Bool) : (setLinePoison s pa b).tokens = s.tokens := rfl
@[simp] theorem setLinePoison_aborts (s : State) (pa : Nat) (b : Bool) : (setLinePoison s pa b).aborts = s.aborts := rfl
@[simp] theorem setLinePoison_errs (s : State) (pa : Nat) (b : Bool) : (setLinePoison s pa b).errs = s.errs := rfl
@[simp] theorem setLinePoison_homes (s : State) (pa : Nat) (b : Bool) : (setLinePoison s pa b).homes = s.homes := rfl
@[simp] theorem setLinePoison_subs (s : State) (pa : Nat) (b : Bool) : (setLinePoison s pa b).subs = s.subs := rfl
@[simp] theorem setLinePoison_net (s : State) (pa : Nat) (b : Bool) : (setLinePoison s pa b).net = s.net := rfl
@[simp] theorem setLinePoison_graphs (s : State) (pa : Nat) (b : Bool) : (setLinePoison s pa b).graphs = s.graphs := rfl
@[simp] theorem setLinePoison_pool (s : State) (pa : Nat) (b : Bool) : (setLinePoison s pa b).pool = s.pool := rfl
@[simp] theorem setLinePoison_poolGen (s : State) (pa : Nat) (b : Bool) : (setLinePoison s pa b).poolGen = s.poolGen := rfl
@[simp] theorem setLinePoison_lastId (s : State) (pa : Nat) (b : Bool) : (setLinePoison s pa b).lastId = s.lastId := rfl
@[simp] theorem setLinePoison_poolSeq (s : State) (pa : Nat) (b : Bool) : (setLinePoison s pa b).poolSeq = s.poolSeq := rfl
@[simp] theorem setLinePoison_fetched (s : State) (pa : Nat) (b : Bool) : (setLinePoison s pa b).fetched = s.fetched := rfl
@[simp] theorem setLinePoison_slots (s : State) (pa : Nat) (b : Bool) : (setLinePoison s pa b).slots = s.slots := rfl
@[simp] theorem setLinePoison_residency (s : State) (pa : Nat) (b : Bool) : (setLinePoison s pa b).residency = s.residency := rfl
@[simp] theorem setLinePoison_tensors (s : State) (pa : Nat) (b : Bool) : (setLinePoison s pa b).tensors = s.tensors := rfl
@[simp] theorem setLinePoison_ms (s : State) (pa : Nat) (b : Bool) : (setLinePoison s pa b).ms = s.ms := rfl
@[simp] theorem setLinePoison_kcyc (s : State) (pa : Nat) (b : Bool) : (setLinePoison s pa b).kcyc = s.kcyc := rfl
@[simp] theorem setLinePoison_msixTab (s : State) (pa : Nat) (b : Bool) : (setLinePoison s pa b).msixTab = s.msixTab := rfl
@[simp] theorem setLinePoison_msixPend (s : State) (pa : Nat) (b : Bool) : (setLinePoison s pa b).msixPend = s.msixPend := rfl
@[simp] theorem setLinePoison_beats (s : State) (pa : Nat) (b : Bool) : (setLinePoison s pa b).beats = s.beats := rfl
@[simp] theorem setLinePoison_probeFails (s : State) (pa : Nat) (b : Bool) : (setLinePoison s pa b).probeFails = s.probeFails := rfl
@[simp] theorem setLinePoison_vacate (s : State) (pa : Nat) (b : Bool) : (setLinePoison s pa b).vacate = s.vacate := rfl
@[simp] theorem setLinePoison_vacAsked (s : State) (pa : Nat) (b : Bool) : (setLinePoison s pa b).vacAsked = s.vacAsked := rfl
@[simp] theorem setLinePoison_lowVac (s : State) (pa : Nat) (b : Bool) : (setLinePoison s pa b).lowVac = s.lowVac := rfl
@[simp] theorem setLinePoison_vacHeld (s : State) (pa : Nat) (b : Bool) : (setLinePoison s pa b).vacHeld = s.vacHeld := rfl
@[simp] theorem setLinePoison_excluded (s : State) (pa : Nat) (b : Bool) : (setLinePoison s pa b).excluded = s.excluded := rfl
@[simp] theorem setLinePoison_saved (s : State) (pa : Nat) (b : Bool) : (setLinePoison s pa b).saved = s.saved := rfl
@[simp] theorem setLinePoison_ckpt (s : State) (pa : Nat) (b : Bool) : (setLinePoison s pa b).ckpt = s.ckpt := rfl
@[simp] theorem setLinePoison_move (s : State) (pa : Nat) (b : Bool) : (setLinePoison s pa b).move = s.move := rfl
@[simp] theorem setLinePoison_frames (s : State) (pa : Nat) (b : Bool) : (setLinePoison s pa b).frames = s.frames := rfl
@[simp] theorem setLinePoison_tails (s : State) (pa : Nat) (b : Bool) : (setLinePoison s pa b).tails = s.tails := rfl
@[simp] theorem setLinePoison_stretch (s : State) (pa : Nat) (b : Bool) : (setLinePoison s pa b).stretch = s.stretch := rfl
@[simp] theorem setLinePoison_drains (s : State) (pa : Nat) (b : Bool) : (setLinePoison s pa b).drains = s.drains := rfl
@[simp] theorem setLinePoison_olds (s : State) (pa : Nat) (b : Bool) : (setLinePoison s pa b).olds = s.olds := rfl
@[simp] theorem setLinePoison_resends (s : State) (pa : Nat) (b : Bool) : (setLinePoison s pa b).resends = s.resends := rfl
@[simp] theorem setLinePoison_peerSeen (s : State) (pa : Nat) (b : Bool) : (setLinePoison s pa b).peerSeen = s.peerSeen := rfl
@[simp] theorem setLinePoison_linksUp (s : State) (pa : Nat) (b : Bool) : (setLinePoison s pa b).linksUp = s.linksUp := rfl
@[simp] theorem setLinePoison_outHost (s : State) (pa : Nat) (b : Bool) : (setLinePoison s pa b).outHost = s.outHost := rfl

/-! `msPut` -/

@[simp] theorem msPut_sched (s : State) (n : Nat) (v : Word) : (msPut s n v).sched = s.sched := rfl
@[simp] theorem msPut_free (s : State) (n : Nat) (v : Word) : (msPut s n v).free = s.free := rfl
@[simp] theorem msPut_nextAcc (s : State) (n : Nat) (v : Word) : (msPut s n v).nextAcc = s.nextAcc := rfl
@[simp] theorem msPut_nextUid (s : State) (n : Nat) (v : Word) : (msPut s n v).nextUid = s.nextUid := rfl
@[simp] theorem msPut_issue (s : State) (n : Nat) (v : Word) : (msPut s n v).issue = s.issue := rfl
@[simp] theorem msPut_focus (s : State) (n : Nat) (v : Word) : (msPut s n v).focus = s.focus := rfl
@[simp] theorem msPut_mem (s : State) (n : Nat) (v : Word) : (msPut s n v).mem = s.mem := rfl
@[simp] theorem msPut_poison (s : State) (n : Nat) (v : Word) : (msPut s n v).poison = s.poison := rfl
@[simp] theorem msPut_struck (s : State) (n : Nat) (v : Word) : (msPut s n v).struck = s.struck := rfl
@[simp] theorem msPut_inflight (s : State) (n : Nat) (v : Word) : (msPut s n v).inflight = s.inflight := rfl
@[simp] theorem msPut_arrived (s : State) (n : Nat) (v : Word) : (msPut s n v).arrived = s.arrived := rfl
@[simp] theorem msPut_cores (s : State) (n : Nat) (v : Word) : (msPut s n v).cores = s.cores := rfl
@[simp] theorem msPut_threads (s : State) (n : Nat) (v : Word) : (msPut s n v).threads = s.threads := rfl
@[simp] theorem msPut_spanQ (s : State) (n : Nat) (v : Word) : (msPut s n v).spanQ = s.spanQ := rfl
@[simp] theorem msPut_spanTlb (s : State) (n : Nat) (v : Word) : (msPut s n v).spanTlb = s.spanTlb := rfl
@[simp] theorem msPut_ksQ (s : State) (n : Nat) (v : Word) : (msPut s n v).ksQ = s.ksQ := rfl
@[simp] theorem msPut_faultWait (s : State) (n : Nat) (v : Word) : (msPut s n v).faultWait = s.faultWait := rfl
@[simp] theorem msPut_sinks (s : State) (n : Nat) (v : Word) : (msPut s n v).sinks = s.sinks := rfl
@[simp] theorem msPut_hbmEnd (s : State) (n : Nat) (v : Word) : (msPut s n v).hbmEnd = s.hbmEnd := rfl
@[simp] theorem msPut_fused (s : State) (n : Nat) (v : Word) : (msPut s n v).fused = s.fused := rfl
@[simp] theorem msPut_live (s : State) (n : Nat) (v : Word) : (msPut s n v).live = s.live := rfl
@[simp] theorem msPut_partner (s : State) (n : Nat) (v : Word) : (msPut s n v).partner = s.partner := rfl
@[simp] theorem msPut_epoch (s : State) (n : Nat) (v : Word) : (msPut s n v).epoch = s.epoch := rfl
@[simp] theorem msPut_gated (s : State) (n : Nat) (v : Word) : (msPut s n v).gated = s.gated := rfl
@[simp] theorem msPut_wakeQ (s : State) (n : Nat) (v : Word) : (msPut s n v).wakeQ = s.wakeQ := rfl
@[simp] theorem msPut_inrush (s : State) (n : Nat) (v : Word) : (msPut s n v).inrush = s.inrush := rfl
@[simp] theorem msPut_lowering (s : State) (n : Nat) (v : Word) : (msPut s n v).lowering = s.lowering := rfl
@[simp] theorem msPut_lowerQ (s : State) (n : Nat) (v : Word) : (msPut s n v).lowerQ = s.lowerQ := rfl
@[simp] theorem msPut_downLinks (s : State) (n : Nat) (v : Word) : (msPut s n v).downLinks = s.downLinks := rfl
@[simp] theorem msPut_tokens (s : State) (n : Nat) (v : Word) : (msPut s n v).tokens = s.tokens := rfl
@[simp] theorem msPut_aborts (s : State) (n : Nat) (v : Word) : (msPut s n v).aborts = s.aborts := rfl
@[simp] theorem msPut_errs (s : State) (n : Nat) (v : Word) : (msPut s n v).errs = s.errs := rfl
@[simp] theorem msPut_homes (s : State) (n : Nat) (v : Word) : (msPut s n v).homes = s.homes := rfl
@[simp] theorem msPut_subs (s : State) (n : Nat) (v : Word) : (msPut s n v).subs = s.subs := rfl
@[simp] theorem msPut_net (s : State) (n : Nat) (v : Word) : (msPut s n v).net = s.net := rfl
@[simp] theorem msPut_graphs (s : State) (n : Nat) (v : Word) : (msPut s n v).graphs = s.graphs := rfl
@[simp] theorem msPut_pool (s : State) (n : Nat) (v : Word) : (msPut s n v).pool = s.pool := rfl
@[simp] theorem msPut_poolGen (s : State) (n : Nat) (v : Word) : (msPut s n v).poolGen = s.poolGen := rfl
@[simp] theorem msPut_lastId (s : State) (n : Nat) (v : Word) : (msPut s n v).lastId = s.lastId := rfl
@[simp] theorem msPut_poolSeq (s : State) (n : Nat) (v : Word) : (msPut s n v).poolSeq = s.poolSeq := rfl
@[simp] theorem msPut_fetched (s : State) (n : Nat) (v : Word) : (msPut s n v).fetched = s.fetched := rfl
@[simp] theorem msPut_slots (s : State) (n : Nat) (v : Word) : (msPut s n v).slots = s.slots := rfl
@[simp] theorem msPut_residency (s : State) (n : Nat) (v : Word) : (msPut s n v).residency = s.residency := rfl
@[simp] theorem msPut_tensors (s : State) (n : Nat) (v : Word) : (msPut s n v).tensors = s.tensors := rfl
@[simp] theorem msPut_kcyc (s : State) (n : Nat) (v : Word) : (msPut s n v).kcyc = s.kcyc := rfl
@[simp] theorem msPut_msixTab (s : State) (n : Nat) (v : Word) : (msPut s n v).msixTab = s.msixTab := rfl
@[simp] theorem msPut_msixPend (s : State) (n : Nat) (v : Word) : (msPut s n v).msixPend = s.msixPend := rfl
@[simp] theorem msPut_beats (s : State) (n : Nat) (v : Word) : (msPut s n v).beats = s.beats := rfl
@[simp] theorem msPut_probeFails (s : State) (n : Nat) (v : Word) : (msPut s n v).probeFails = s.probeFails := rfl
@[simp] theorem msPut_vacate (s : State) (n : Nat) (v : Word) : (msPut s n v).vacate = s.vacate := rfl
@[simp] theorem msPut_vacAsked (s : State) (n : Nat) (v : Word) : (msPut s n v).vacAsked = s.vacAsked := rfl
@[simp] theorem msPut_lowVac (s : State) (n : Nat) (v : Word) : (msPut s n v).lowVac = s.lowVac := rfl
@[simp] theorem msPut_vacHeld (s : State) (n : Nat) (v : Word) : (msPut s n v).vacHeld = s.vacHeld := rfl
@[simp] theorem msPut_excluded (s : State) (n : Nat) (v : Word) : (msPut s n v).excluded = s.excluded := rfl
@[simp] theorem msPut_saved (s : State) (n : Nat) (v : Word) : (msPut s n v).saved = s.saved := rfl
@[simp] theorem msPut_ckpt (s : State) (n : Nat) (v : Word) : (msPut s n v).ckpt = s.ckpt := rfl
@[simp] theorem msPut_move (s : State) (n : Nat) (v : Word) : (msPut s n v).move = s.move := rfl
@[simp] theorem msPut_frames (s : State) (n : Nat) (v : Word) : (msPut s n v).frames = s.frames := rfl
@[simp] theorem msPut_tails (s : State) (n : Nat) (v : Word) : (msPut s n v).tails = s.tails := rfl
@[simp] theorem msPut_stretch (s : State) (n : Nat) (v : Word) : (msPut s n v).stretch = s.stretch := rfl
@[simp] theorem msPut_drains (s : State) (n : Nat) (v : Word) : (msPut s n v).drains = s.drains := rfl
@[simp] theorem msPut_olds (s : State) (n : Nat) (v : Word) : (msPut s n v).olds = s.olds := rfl
@[simp] theorem msPut_resends (s : State) (n : Nat) (v : Word) : (msPut s n v).resends = s.resends := rfl
@[simp] theorem msPut_peerSeen (s : State) (n : Nat) (v : Word) : (msPut s n v).peerSeen = s.peerSeen := rfl
@[simp] theorem msPut_linksUp (s : State) (n : Nat) (v : Word) : (msPut s n v).linksUp = s.linksUp := rfl
@[simp] theorem msPut_outHost (s : State) (n : Nat) (v : Word) : (msPut s n v).outHost = s.outHost := rfl

end Sys2Proof.Machine
end

