-- ==== Sys2Proof/Laws/Ops.lean ====
section
/-! SUPPORT. What each operation that the meanings share can do, said once: how a syllable answers, how the registers of its thread
are written, and how a bundle waits. -/

namespace Sys2Proof.Machine

/-! Lists. -/

@[simp] theorem upTo_length (n : Nat) : (upTo n).length = n := List.length_range

@[simp] theorem mem_upTo {n i : Nat} : i ∈ upTo n ↔ i < n := List.mem_range

theorem nth_map_upTo {α : Type} (d : α) (f : Nat → α) {n i : Nat} (h : i < n) : nth d ((upTo n).map f) i = f i := by
  have g : ∀ (l : List α) (i : Nat) (h : i < l.length), nth d l i = l[i] := by
    intro l
    induction l with
    | nil => simp
    | cons a l ih =>
      intro i h
      cases i with
      | zero => rfl
      | succ i => exact ih i (by simpa using h)
  rw [g _ _ (by simpa [upTo] using h)]
  simp [upTo]

/-! How a syllable answers. -/

/-- A syllable of the bundle's thread answers a next state, or there is no such thread. -/
theorem onThread_cases (s : State) (f : Thread → State) :
    (∃ th, issuer s = some th ∧ onThread s f = .next (f th)) ∨ (issuer s = none ∧ onThread s f = .fault .noThread) := by
  unfold onThread
  cases h : issuer s with
  | none => exact .inr ⟨rfl, rfl⟩
  | some th => exact .inl ⟨th, rfl, rfl⟩

theorem onThread_some {s : State} {th : Thread} (h : issuer s = some th) (f : Thread → State) : onThread s f = .next (f th) := by
  simp [onThread, h]

theorem onThread_next {s t : State} {f : Thread → State} (h : onThread s f = .next t) : ∃ th, issuer s = some th ∧ t = f th := by
  rcases onThread_cases s f with ⟨th, hi, he⟩ | ⟨_, he⟩
  · exact ⟨th, hi, by simpa [he] using h.symm⟩
  · simp [he] at h

/-- R114: a syllable with its guard true acts; with its guard false it has no effect. -/
theorem syllable_runs {s : State} {th : Thread} {g : PReg} (h : Runs s th g) (f : Thread → State) : syllable s g f = .next (f th) := by
  have hg : guardOn s g = true := h.guard
  simp [syllable, onThread_some h.thread, hg]

theorem syllable_skips {s : State} {th : Thread} {g : PReg} (h : issuer s = some th) (hg : (rdP s g).getLsbD 0 = false)
    (f : Thread → State) : syllable s g f = .next s := by
  have hg' : guardOn s g = false := hg
  simp [syllable, onThread_some h, hg']

theorem syllable_next {s t : State} {g : PReg} {f : Thread → State} (h : syllable s g f = .next t) :
    ∃ th, issuer s = some th ∧ (((rdP s g).getLsbD 0 = true ∧ t = f th) ∨ ((rdP s g).getLsbD 0 = false ∧ t = s)) := by
  obtain ⟨th, hi, rfl⟩ := onThread_next h
  refine ⟨th, hi, ?_⟩
  cases hg : guardOn s g
  · exact .inr ⟨hg, by simp⟩
  · exact .inl ⟨hg, by simp⟩

/-- R114: a vector syllable with some lane enabled acts; with none it has no effect. -/
theorem vectorSyllable_runs {s : State} {th : Thread} {g : PReg} (h : RunsV s th g) (f : Thread → State) :
    vectorSyllable s g f = .next (f th) := by
  rw [vectorSyllable, onThread_some h.thread, if_neg h.guard]

theorem vectorSyllable_skips {s : State} {th : Thread} {g : PReg} (h : issuer s = some th) (hg : rdP s g = 0) (f : Thread → State) :
    vectorSyllable s g f = .next s := by
  rw [vectorSyllable, onThread_some h, if_pos hg]

theorem vectorSyllable_next {s t : State} {g : PReg} {f : Thread → State} (h : vectorSyllable s g f = .next t) :
    ∃ th, issuer s = some th ∧ ((rdP s g ≠ 0 ∧ t = f th) ∨ (rdP s g = 0 ∧ t = s)) := by
  obtain ⟨th, hi, rfl⟩ := onThread_next h
  refine ⟨th, hi, ?_⟩
  by_cases hg : rdP s g = 0
  · exact .inr ⟨hg, if_pos hg⟩
  · exact .inl ⟨hg, if_neg hg⟩

/-! The thread of the bundle and its registers. -/

theorem threadAt_setThread (s : State) (k j : Nat) (th : Thread) :
    threadAt (setThread s k th) j = if j = k then some th else threadAt s j := by
  simp [threadAt, setThread]

theorem threadAt_dropThread (s : State) (k j : Nat) : threadAt (dropThread s k) j = if j = k then none else threadAt s j := by
  simp [threadAt, dropThread]

theorem threadAt_updThread (s : State) (k j : Nat) (f : Thread → Thread) :
    threadAt (updThread s k f) j = if j = k then (threadAt s k).map f else threadAt s j := by
  unfold updThread
  cases h : threadAt s k with
  | none => split_ifs with e <;> simp_all
  | some th => simp [threadAt_setThread]

/-- What an update of a thread changes of the state: its entry in the thread map. -/
theorem updThread_eq (s : State) (k : Nat) (f : Thread → Thread) : ∃ m, updThread s k f = { s with threads := m } := by
  unfold updThread
  cases threadAt s k with
  | none => exact ⟨s.threads, rfl⟩
  | some th => exact ⟨_, rfl⟩

/-- A register update of the bundle's thread, with that thread known. -/
theorem setRegs_some {s : State} {th : Thread} (h : issuer s = some th) (f : Regs → Regs) :
    setRegs s f = setThread s s.issue.key { th with regs := f th.regs } := by
  have h' : threadAt s s.issue.key = some th := h
  simp [setRegs, updIssuer, updThread, h']

theorem issuer_setRegs (s : State) (f : Regs → Regs) : issuer (setRegs s f) = (issuer s).map (fun th => { th with regs := f th.regs }) := by
  obtain ⟨m, hm⟩ := updThread_eq s s.issue.key (fun th => { th with regs := f th.regs })
  have hk : (setRegs s f).issue = s.issue := by unfold setRegs updIssuer; rw [hm]
  unfold issuer
  rw [hk]
  simp [setRegs, updIssuer, threadAt_updThread]

/-- Every other thread is as it was after a register update of the bundle's. -/
theorem threadAt_setRegs (s : State) (f : Regs → Regs) {j : Nat} (h : j ≠ s.issue.key) : threadAt (setRegs s f) j = threadAt s j := by
  simp [setRegs, updIssuer, threadAt_updThread, h]

/-- What a register update leaves: everything but the thread map. -/
theorem setRegs_eq (s : State) (f : Regs → Regs) : ∃ m, setRegs s f = { s with threads := m } := updThread_eq _ _ _

@[simp] theorem setRegs_mem (s : State) (f : Regs → Regs) : (setRegs s f).mem = s.mem := by
  obtain ⟨m, h⟩ := setRegs_eq s f; rw [h]
@[simp] theorem setRegs_poison (s : State) (f : Regs → Regs) : (setRegs s f).poison = s.poison := by
  obtain ⟨m, h⟩ := setRegs_eq s f; rw [h]
@[simp] theorem setRegs_issue (s : State) (f : Regs → Regs) : (setRegs s f).issue = s.issue := by
  obtain ⟨m, h⟩ := setRegs_eq s f; rw [h]
@[simp] theorem setRegs_inflight (s : State) (f : Regs → Regs) : (setRegs s f).inflight = s.inflight := by
  obtain ⟨m, h⟩ := setRegs_eq s f; rw [h]
@[simp] theorem setRegs_cores (s : State) (f : Regs → Regs) : (setRegs s f).cores = s.cores := by
  obtain ⟨m, h⟩ := setRegs_eq s f; rw [h]

/-! Reading a register that was written. -/

theorem rdS_wrS (r : Regs) (d a : SReg) (v : SVal) :
    (r.wrS d v).rdS a = if a = 0 then SVal.zero else if a = d then v else r.rdS a := by
  unfold Regs.rdS Regs.wrS
  by_cases ha : a = 0
  · rw [if_pos ha, if_pos ha]
  · rw [if_neg ha, if_neg ha]
    by_cases e : a = d
    · subst e; rw [if_neg ha, if_pos rfl]; simp
    · have n : a.toNat ≠ d.toNat := fun h => e (BitVec.eq_of_toNat_eq h)
      rw [if_neg e]
      split_ifs <;> simp_all

theorem rdP_wrP (r : Regs) (d a : PReg) (v : Word) :
    (r.wrP d v).rdP a = if a = 0 then BitVec.allOnes 64 else if a = d then v else r.rdP a := by
  unfold Regs.rdP Regs.wrP
  by_cases ha : a = 0
  · rw [if_pos ha, if_pos ha]
  · rw [if_neg ha, if_neg ha]
    by_cases e : a = d
    · subst e; rw [if_neg ha, if_pos rfl]; simp
    · have n : a.toNat ≠ d.toNat := fun h => e (BitVec.eq_of_toNat_eq h)
      rw [if_neg e]
      split_ifs <;> simp_all

theorem rdV_wrV (r : Regs) (d a : VReg) (v : Vec) : (r.wrV d v).rdV a = if a = d then v else r.rdV a := by
  by_cases e : a = d
  · subst e; simp [Regs.rdV, Regs.wrV]
  · have n : a.toNat ≠ d.toNat := fun h => e (BitVec.eq_of_toNat_eq h)
    simp [Regs.rdV, Regs.wrV, e, n]

/-- R114: a vector written lane by lane under a guard. -/
theorem lane_laneWise (g : Word) (old : Vec) (f : Nat → Lane) {i : Nat} (h : i < 64) :
    (laneWise g old f).lane i = if g.getLsbD i then f i else old.lane i := nth_map_upTo _ _ h

theorem lanesAre_laneWise (g : Word) (old : Vec) (f : Nat → Lane) : LanesAre g old f (laneWise g old f) :=
  ⟨by simp [laneWise], fun _ h => lane_laneWise g old f h⟩

/-! Waiting. -/

/-- R313, R314: a bundle that waits to commit leaves its thread at it, with its words and what it keeps of its issue. -/
theorem holdFor_thread {s : State} {th : Thread} (h : issuer s = some th) (w : Wait) :
    threadAt (holdFor s w) s.issue.key = some { th with
      status := .waiting w, pc := s.issue.pc,
      bundle := some ⟨s.issue.words, s.issue.src, s.issue.cyc, s.issue.csrs, s.issue.table, s.issue.shapes, s.issue.payload⟩ } ∧
    (holdFor s w).mem = s.mem ∧ (holdFor s w).poison = s.poison ∧ (holdFor s w).inflight = s.inflight ∧
    (holdFor s w).issue = { s.issue with flow := .wait } ∧ ∀ j, j ≠ s.issue.key → threadAt (holdFor s w) j = threadAt s j := by
  have h' : threadAt s s.issue.key = some th := h
  have e : holdFor s w = setThread { s with issue := { s.issue with flow := .wait } } s.issue.key { th with
      status := .waiting w, pc := s.issue.pc,
      bundle := some ⟨s.issue.words, s.issue.src, s.issue.cyc, s.issue.csrs, s.issue.table, s.issue.shapes, s.issue.payload⟩ } := by
    unfold holdFor updIssuer updThread
    have : threadAt { s with issue := { s.issue with flow := .wait } } s.issue.key = some th := h'
    simp [this]
  rw [e]
  refine ⟨by simp [threadAt_setThread], rfl, rfl, rfl, rfl, fun j hj => ?_⟩
  rw [threadAt_setThread, if_neg hj]; rfl

/-- R106, R313: a syllable that waits on anything but an entry holds its bundle. -/
theorem waitFor_hold (s : State) {w : Wait} (h : w ≠ .operand) : waitFor s w = holdFor s w := if_neg h

/-- R243, R288: a syllable that wants an entry opens no bundle: where its bundle is issuing, it is as if it had not. -/
theorem waitFor_operand (s : State) : waitFor s .operand = match s.issue.undo with
    | some (l, last) => unissue s l last
    | none => holdFor s .cond := if_pos rfl

/-! Bytes. -/

/-- A byte written reads back, and no other byte changes. -/
theorem readByte_writeByte (s : State) (a b : Nat) (x : Byte) : readByte (writeByte s a x) b = if b = a then x else readByte s b := by
  unfold readByte writeByte memPut
  by_cases hb : x = blank a
  · by_cases e : b = a <;> simp_all
  · by_cases e : b = a <;> simp_all

theorem readByte_writeBytes_outside (l : List Byte) (s : State) (pa b : Nat) (h : b < pa ∨ pa + l.length ≤ b) :
    readByte (writeBytes s pa l) b = readByte s b := by
  induction l generalizing s pa with
  | nil => rfl
  | cons x l ih =>
    simp only [List.length_cons] at h
    rw [writeBytes, ih _ _ (by omega), readByte_writeByte, if_neg (by omega)]

theorem readByte_writeBytes_inside (l : List Byte) (s : State) (pa i : Nat) (h : i < l.length) :
    readByte (writeBytes s pa l) (pa + i) = l[i] := by
  induction l generalizing s pa i with
  | nil => simp at h
  | cons x l ih =>
    rw [writeBytes]
    cases i with
    | zero => rw [readByte_writeBytes_outside _ _ _ _ (by omega), readByte_writeByte]; simp
    | succ i =>
      have := ih (writeByte s pa x) (pa + 1) i (by simpa using h)
      rw [show pa + (i + 1) = pa + 1 + i by omega, this]; simp

/-- A fold of steps that leave memory as it is leaves it. -/
theorem foldl_mem {β : Type} (f : State → β → State) (hf : ∀ s b, (f s b).mem = s.mem) (l : List β) (s : State) :
    (l.foldl f s).mem = s.mem := by
  induction l generalizing s with
  | nil => rfl
  | cons b l ih => rw [List.foldl_cons, ih, hf]

/-- The same for the poison bits. -/
theorem foldl_poison {β : Type} (f : State → β → State) (hf : ∀ s b, (f s b).poison = s.poison) (l : List β) (s : State) :
    (l.foldl f s).poison = s.poison := by
  induction l generalizing s with
  | nil => rfl
  | cons b l ih => rw [List.foldl_cons, ih, hf]

/-- R202: a clean write changes no byte outside its range, and its bytes read back. -/
theorem writeClean_mem (s : State) (pa : Nat) (l : List Byte) : (writeClean s pa l).mem = (writeBytes s pa l).mem := by
  unfold writeClean
  refine foldl_mem _ (fun s i => ?_) _ _
  simp only
  split_ifs <;> rfl

theorem readByte_writeClean_outside (s : State) (pa : Nat) (l : List Byte) (b : Nat) (h : b < pa ∨ pa + l.length ≤ b) :
    readByte (writeClean s pa l) b = readByte s b := by
  rw [← readByte_writeBytes_outside l s pa b h, readByte, readByte, writeClean_mem]

theorem readByte_writeClean_inside (s : State) (pa : Nat) (l : List Byte) (i : Nat) (h : i < l.length) :
    readByte (writeClean s pa l) (pa + i) = l[i] := by
  rw [← readByte_writeBytes_inside l s pa i h, readByte, readByte, writeClean_mem]

/-! Little-endian numbers. -/

@[simp] theorem leBytes_length (n v : Nat) : (leBytes n v).length = n := by
  induction n generalizing v with
  | zero => rfl
  | succ n ih => simp [leBytes, ih]

theorem leNat_leBytes (n v : Nat) : leNat (leBytes n v) = v % 2 ^ (8 * n) := by
  induction n generalizing v with
  | zero => simp [leBytes, leNat, Nat.mod_one]
  | succ n ih =>
    rw [leBytes, leNat, ih, BitVec.toNat_ofNat, show 8 * (n + 1) = 8 + 8 * n by ring, pow_add, Nat.mod_mul]
    rfl

theorem readBytes_eq (s : State) (pa n : Nat) : readBytes s pa n = (List.range n).map (fun i => readByte s (pa + i)) := by
  induction n generalizing pa with
  | zero => rfl
  | succ n ih =>
    rw [readBytes, ih, List.range_succ_eq_map]
    simp [Function.comp_def, Nat.add_assoc, Nat.add_comm 1]

/-- A number written reads back. -/
theorem readLe_writeLe (s : State) (pa n v : Nat) : readLe (writeLe s pa n v) pa n = v % 2 ^ (8 * n) := by
  rw [readLe, ← leNat_leBytes]
  congr 1
  rw [readBytes_eq]
  refine List.ext_getElem (by simp) (fun i h _ => ?_)
  simp only [List.length_map, List.length_range] at h
  rw [List.getElem_map, List.getElem_range, writeLe, readByte_writeBytes_inside _ _ _ _ (by simpa using h)]

/-- A number written changes no byte outside it. -/
theorem readByte_writeLe_outside (s : State) (pa n v b : Nat) (h : b < pa ∨ pa + n ≤ b) :
    readByte (writeLe s pa n v) b = readByte s b :=
  readByte_writeBytes_outside _ _ _ _ (by simpa using h)

end Sys2Proof.Machine
end

