-- ==== Sys2Proof/Laws/Access.lean ====
section
/-! SUPPORT. The checks of an access: what they can change, what they give, and what an accepted and a misaligned access do. -/

namespace Sys2Proof.Machine

/-- Two states that differ in cached translations, and in the mark that an address of the bundle missed, alone. -/
def SameButTlb (s t : State) : Prop :=
  t = { s with cores := t.cores, spanTlb := t.spanTlb, issue := { s.issue with miss := t.issue.miss } } ∧
  ∀ k, coreAt t k = { coreAt s k with tlb := (coreAt t k).tlb }

theorem SameButTlb.refl (s : State) : SameButTlb s s := ⟨rfl, fun _ => rfl⟩

theorem SameButTlb.trans {s t u : State} (h : SameButTlb s t) (k : SameButTlb t u) : SameButTlb s u := by
  obtain ⟨h1, h2⟩ := h
  obtain ⟨k1, k2⟩ := k
  refine ⟨by rw [k1, h1], fun j => ?_⟩
  rw [k2, h2]

theorem SameButTlb.src {s t : State} (h : SameButTlb s t) : t.issue.src = s.issue.src := by
  rw [h.1]

theorem SameButTlb.rdS {s t : State} (h : SameButTlb s t) (a : SReg) : rdS t a = rdS s a := by
  simp only [Machine.rdS, h.src]

theorem SameButTlb.mem {s t : State} (h : SameButTlb s t) : t.mem = s.mem := by
  rw [h.1]

/-- A core of a state in which another one was replaced. -/
theorem coreAt_setCore (s : State) (t k : Nat) (c : Core) : coreAt (setCore s t c) k = if k = t then c else coreAt s k := by
  simp [coreAt]

/-- A core's own TLB replaced. -/
theorem updTlb_same (s : State) (t : Nat) (f : List TlbE → List TlbE) :
    SameButTlb s (updCore s t (fun c => { c with tlb := f c.tlb })) := by
  refine ⟨rfl, fun k => ?_⟩
  unfold updCore
  by_cases h : k = t <;> simp [coreAt_setCore, h]

theorem installTlb_same (s : State) (t : Nat) (e : TlbE) : SameButTlb s (installTlb s t e) := by
  unfold installTlb
  split
  · exact updTlb_same s t (tlbAdd Config.spanTlbSize e)
  · exact (updTlb_same s t (tlbAdd Config.tlbSize e)).trans ⟨rfl, fun _ => rfl⟩

theorem installFor_same (s : State) (sp : Space) (e : TlbE) : SameButTlb s (installFor s sp e) := by
  unfold installFor
  split
  · exact ⟨rfl, fun _ => rfl⟩
  · exact installTlb_same _ _ _

theorem noteMiss_same (s : State) (sp : Space) (va : Nat) : SameButTlb s (noteMiss s sp va) := by
  unfold noteMiss
  split <;> exact ⟨rfl, fun _ => rfl⟩

/-- R302, R303, R306: a translation that gives a location changes cached translations, and the mark that one missed, alone. -/
theorem pageAccess_same {s s' : State} {sp : Space} {n : Need} {va pa : Nat} {p : Path}
    (h : pageAccess s sp n va = (s', .ok pa p)) : SameButTlb s s' := by
  refine (noteMiss_same s sp va).trans ?_
  revert h
  unfold pageAccess
  generalize noteMiss s sp va = u
  intro h
  have hf : ∀ {r : Walk}, (match r with
    | .bad w l a => (walkFound u (.bad w l a), Tr.fault .xlate (xlateAux sp.ctx w l n.wr n.at_))
    | .moving => (u, Tr.wait)
    | .leaf pa e l => (installFor u sp ⟨sp.ctx, va / 2 ^ (13 + 10 * l), l, e⟩, leafCheck u sp n pa e)) = (s', .ok pa p) →
      SameButTlb u s' := by
    intro r hr
    cases r with
    | leaf pa e l => obtain ⟨rfl, -⟩ := Prod.mk.inj hr; exact installFor_same _ _ _
    | bad w l a => cases hr
    | moving => cases hr
  dsimp only at h
  split at h
  · exact hf h
  · split at h
    · exact hf h
    · obtain ⟨rfl, -⟩ := Prod.mk.inj h; exact .refl _

theorem translate_same {s s' : State} {sp : Space} {n : Need} {va pa : Nat} {p : Path}
    (h : translate s sp n va = (s', .ok pa p)) : SameButTlb s s' := by
  unfold translate at h
  repeat' split at h
  all_goals first
    | exact pageAccess_same h
    | (obtain ⟨rfl, -⟩ := Prod.mk.inj h; exact .refl _)

theorem locate_same {s s' : State} {sp : Space} {n : Need} {va pa : Nat} {p : Path}
    (h : locate s sp n va = (s', .ok pa p)) : SameButTlb s s' := by
  unfold locate at h
  repeat' split at h
  all_goals first
    | exact translate_same h
    | (obtain ⟨rfl, -⟩ := Prod.mk.inj h; exact .refl _)

/-- R249, R302, R306: checks that accept an access change cached translations, and the mark that one missed, alone. -/
theorem checkAddrs_same {sp : Space} {n : Need} {carry : Path → Bool} {w : Nat} {l : List Nat} {s s' : State}
    {r : List (Nat × Nat × Path)} (h : checkAddrs sp n carry w l s = (s', .ok r)) : SameButTlb s s' := by
  induction l generalizing s r with
  | nil => obtain ⟨rfl, -⟩ := Prod.mk.inj h; exact .refl _
  | cons va l ih =>
    unfold checkAddrs at h
    split at h
    · cases h
    · split at h
      · cases h
      · cases h
      · rename_i s1 pa p ht
        split at h
        · cases h
        · split at h
          · rename_i s2 r2 h2
            cases h
            exact (locate_same ht).trans (ih h2)
          · rename_i hn
            exact absurd h (hn _ _)

/-- R239, R249: addresses that pass their checks keep their order; each is aligned and at a point that carries the form. -/
theorem checkAddrs_ok {sp : Space} {n : Need} {carry : Path → Bool} {w : Nat} {l : List Nat} {s s' : State}
    {r : List (Nat × Nat × Path)} (h : checkAddrs sp n carry w l s = (s', .ok r)) :
    r.map (fun x => x.1) = l ∧ (∀ va ∈ l, va % w = 0) ∧ ∀ x ∈ r, carry x.2.2 = true := by
  induction l generalizing s r with
  | nil => simp only [checkAddrs, Prod.mk.injEq, Checked.ok.injEq] at h; simp [← h.2]
  | cons va l ih =>
    unfold checkAddrs at h
    split at h
    · cases h
    · rename_i hw
      split at h
      · cases h
      · cases h
      · rename_i s1 pa p ht
        split at h
        · cases h
        · rename_i hc
          split at h
          · rename_i s2 r2 h2
            cases h
            obtain ⟨h3, h4, h5⟩ := ih h2
            refine ⟨by simp [h3], ?_, ?_⟩
            · intro v hv
              rcases List.mem_cons.1 hv with rfl | hv
              · simpa using hw
              · exact h4 v hv
            · intro x hx
              rcases List.mem_cons.1 hx with rfl | hx
              · simpa using hc
              · exact h5 x hx
          · rename_i hn
            exact absurd h (hn _ _)

/-- R48, R243, R249, R313: an access that is accepted goes on to what follows its checks. -/
theorem withAccess_accepted {s s' : State} {th : Thread} {n : Need} {carry : Path → Bool} {w : Nat} {addrs : List Nat}
    {l : List (Nat × Nat × Path)} (h : Accepted s th n carry w addrs s' l) (k : State → List (Nat × Nat × Path) → State) :
    withAccess s th n carry w addrs k = k s' l := by
  obtain ⟨h1, h2, hg, hs, h3⟩ := h
  have h3' : ¬ Config.niSize < niCount s' s'.tile + (niLines l).length := by omega
  have hi : (injectionStopped s' s'.tile && l.any (fun e => !(e.2.2 == .own || e.2.2 == .view))) = false := by
    by_contra hc
    simp only [Bool.not_eq_false, Bool.and_eq_true, List.any_eq_true, Bool.not_eq_true', Bool.or_eq_false_iff] at hc
    obtain ⟨h5, e, he, h6, h7⟩ := hc
    rcases hs h5 e he with h | h <;> simp [h] at h6 h7
  unfold withAccess
  rw [h1]
  dsimp only
  rw [hi, if_neg (by simp), if_neg (by simp [h3'])]
  split
  · rename_i va hf
    have hl := h2 va (List.mem_of_find?_eq_some hf) (by simpa using List.find?_some hf)
    rw [if_pos hl, hg]
    rfl
  · rfl

/-- R239, R249: a misaligned first address freezes the bundle with ALIGN. -/
theorem withAccess_misaligned {s : State} (th : Thread) (n : Need) (carry : Path → Bool) {w va : Nat} (l : List Nat)
    (h : va % w ≠ 0) (k : State → List (Nat × Nat × Path) → State) :
    withAccess s th n carry w (va :: l) k = freeze s .align (some va) (BitVec.ofNat 64 w) := by
  have h' : (va % w != 0) = true := by simpa using h
  simp [withAccess, checkAddrs, h']

end Sys2Proof.Machine
end

