-- ==== Sys2Proof/Laws/Checkpoint.lean ====
section
/-! SUPPORT. The checkpoint service: every line of a selection lies in a run that is sent, and what is sent of a run covers each line
of it once, as it is listed or as blank. -/

namespace Sys2Proof.Machine

/-- R364: a line that a checkpoint takes lies in one of its runs. -/
theorem ckTakes_range {s : State} {what n : Nat} (h : ckTakes s what n = true) :
    ∃ r ∈ ckRanges s what, r.1 ≤ n ∧ n < r.1 + r.2 := by
  unfold ckTakes at h
  dsimp only at h
  split_ifs at h with ha
  · simp only [beq_iff_eq] at h
    refine ⟨(n / 0x40000000 * 0x1000000000 / 64, 0x40000000), ?_, by dsimp only; omega, by dsimp only; omega⟩
    unfold ckRanges
    rw [if_pos h]
    refine List.mem_append_left _ (List.mem_map.2 ⟨n / 0x40000000, ?_, rfl⟩)
    exact List.mem_range.2 (by omega)
  · simp only [Bool.and_eq_true, decide_eq_true_eq, beq_iff_eq] at h
    obtain ⟨⟨h1, h2⟩, h3⟩ := h
    have e : sliceOf (64 * n) = (64 * n - 0x020000000000) / 0x4000000 := rfl
    refine ⟨((0x020000000000 + sliceOf (64 * n) * 0x4000000) / 64, 0x100000), ?_, by dsimp only; omega, by dsimp only; omega⟩
    unfold ckRanges
    rw [if_pos h2]
    refine List.mem_append_right _ (List.mem_map.2 ⟨sliceOf (64 * n), List.mem_filter.2 ⟨?_, h3⟩, rfl⟩)
    exact List.mem_range.2 (by omega)

/-- R364: what is sent of a run holds each of its listed lines by itself, and every other line in a blank run between them. -/
theorem ckLines_covers (s : State) (c : Checkpoint) (ports : List Nat) {n hi : Nat} (hn : n < hi) :
    ∀ {l : List Nat} {lo : Nat}, lo ≤ n → l.Pairwise (· < ·) → (∀ k ∈ l, lo ≤ k) →
      (n ∈ l → Out.ckpt c.dev (nth 0 ports (Config.ckptPort n % ports.length)) (64 * n) (readBytes s (64 * n) 64)
        (linePoison s (64 * n) || stackFailed s (64 * n)) ∈ ckLines s c ports lo hi l) ∧
      (n ∉ l → ∃ a k, a ≤ n ∧ n < a + k ∧
        Out.ckptBlank c.dev ports (64 * a) k (stackFailed s (64 * a)) ∈ ckLines s c ports lo hi l) := by
  intro l
  induction l with
  | nil =>
    intro lo hlo _ _
    refine ⟨fun h => absurd h (by simp), fun _ => ⟨lo, hi - lo, hlo, by omega, ?_⟩⟩
    simp [ckLines, Nat.lt_of_le_of_lt hlo hn]
  | cons k l ih =>
    intro lo hlo hp hk
    rw [List.pairwise_cons] at hp
    have hlk : lo ≤ k := hk k List.mem_cons_self
    by_cases hnk : n < k
    · refine ⟨fun h => ?_, fun _ => ⟨lo, k - lo, hlo, by omega, ?_⟩⟩
      · rcases List.mem_cons.1 h with h | h
        · omega
        · have := hp.1 n h; omega
      · have : lo < k := by omega
        simp [ckLines, this]
    · by_cases e : n = k
      · subst e
        exact ⟨fun _ => by simp [ckLines], fun h => absurd List.mem_cons_self h⟩
      · obtain ⟨h1, h2⟩ := ih (lo := k + 1) (by omega) hp.2 (fun j hj => hp.1 j hj)
        refine ⟨fun h => ?_, fun h => ?_⟩
        · rcases List.mem_cons.1 h with h | h
          · exact absurd h e
          · exact List.mem_append_right _ (List.mem_cons_of_mem _ (h1 h))
        · obtain ⟨a, j, ha, hj, hm⟩ := h2 (fun hm => h (List.mem_cons_of_mem _ hm))
          exact ⟨a, j, ha, hj, List.mem_append_right _ (List.mem_cons_of_mem _ hm)⟩

end Sys2Proof.Machine
end

