-- ==== Sys2Proof/Laws/PerInstr.lean ====
section
/-! SUPPORT. What holds of every instruction as syntax: the family `Words`, one lemma per constructor. -/

namespace Sys2Proof.Laws.Words

/-- An instruction is at most two words: its syllable and its X syllable (R136, R146); its class is one of S, V, M, L, N and C. -/
def Statement (i : Instr) : Prop := (encode i).length ≤ 2 ∧ ∀ e, encodeSyl i = some e → e.cls.toNat < 6

theorem encode_length (i : Instr) : (encode i).length ≤ 2 := by
  unfold encode; split
  · simp
  · split <;> simp

theorem add (g : PReg) (ty : Ty) (d : SReg) (a : SReg) (b : SReg) : Statement (.add g ty d a b) := ⟨encode_length _, fun e h => by cases h; exact of_decide_eq_true rfl⟩
theorem addImmediate (g : PReg) (ty : Ty) (d : SReg) (a : SReg) (imm : Imm) : Statement (.addImmediate g ty d a imm) := ⟨encode_length _, fun e h => by cases h; exact of_decide_eq_true rfl⟩
theorem sub (g : PReg) (ty : Ty) (d : SReg) (a : SReg) (b : SReg) : Statement (.sub g ty d a b) := ⟨encode_length _, fun e h => by cases h; exact of_decide_eq_true rfl⟩
theorem subImmediate (g : PReg) (ty : Ty) (d : SReg) (a : SReg) (imm : Imm) : Statement (.subImmediate g ty d a imm) := ⟨encode_length _, fun e h => by cases h; exact of_decide_eq_true rfl⟩
theorem mul (g : PReg) (ty : Ty) (d : SReg) (a : SReg) (b : SReg) : Statement (.mul g ty d a b) := ⟨encode_length _, fun e h => by cases h; exact of_decide_eq_true rfl⟩
theorem mulImmediate (g : PReg) (ty : Ty) (d : SReg) (a : SReg) (imm : Imm) : Statement (.mulImmediate g ty d a imm) := ⟨encode_length _, fun e h => by cases h; exact of_decide_eq_true rfl⟩
theorem mulh (g : PReg) (ty : Ty) (d : SReg) (a : SReg) (b : SReg) : Statement (.mulh g ty d a b) := ⟨encode_length _, fun e h => by cases h; exact of_decide_eq_true rfl⟩
theorem mulhImmediate (g : PReg) (ty : Ty) (d : SReg) (a : SReg) (imm : Imm) : Statement (.mulhImmediate g ty d a imm) := ⟨encode_length _, fun e h => by cases h; exact of_decide_eq_true rfl⟩
theorem divS (g : PReg) (ty : Ty) (d : SReg) (a : SReg) (b : SReg) : Statement (.divS g ty d a b) := ⟨encode_length _, fun e h => by cases h; exact of_decide_eq_true rfl⟩
theorem divSImmediate (g : PReg) (ty : Ty) (d : SReg) (a : SReg) (imm : Imm) : Statement (.divSImmediate g ty d a imm) := ⟨encode_length _, fun e h => by cases h; exact of_decide_eq_true rfl⟩
theorem rem (g : PReg) (ty : Ty) (d : SReg) (a : SReg) (b : SReg) : Statement (.rem g ty d a b) := ⟨encode_length _, fun e h => by cases h; exact of_decide_eq_true rfl⟩
theorem remImmediate (g : PReg) (ty : Ty) (d : SReg) (a : SReg) (imm : Imm) : Statement (.remImmediate g ty d a imm) := ⟨encode_length _, fun e h => by cases h; exact of_decide_eq_true rfl⟩
theorem andS (g : PReg) (ty : Ty) (d : SReg) (a : SReg) (b : SReg) : Statement (.andS g ty d a b) := ⟨encode_length _, fun e h => by cases h; exact of_decide_eq_true rfl⟩
theorem andSImmediate (g : PReg) (ty : Ty) (d : SReg) (a : SReg) (imm : Imm) : Statement (.andSImmediate g ty d a imm) := ⟨encode_length _, fun e h => by cases h; exact of_decide_eq_true rfl⟩
theorem orS (g : PReg) (ty : Ty) (d : SReg) (a : SReg) (b : SReg) : Statement (.orS g ty d a b) := ⟨encode_length _, fun e h => by cases h; exact of_decide_eq_true rfl⟩
theorem orSImmediate (g : PReg) (ty : Ty) (d : SReg) (a : SReg) (imm : Imm) : Statement (.orSImmediate g ty d a imm) := ⟨encode_length _, fun e h => by cases h; exact of_decide_eq_true rfl⟩
theorem xor (g : PReg) (ty : Ty) (d : SReg) (a : SReg) (b : SReg) : Statement (.xor g ty d a b) := ⟨encode_length _, fun e h => by cases h; exact of_decide_eq_true rfl⟩
theorem xorImmediate (g : PReg) (ty : Ty) (d : SReg) (a : SReg) (imm : Imm) : Statement (.xorImmediate g ty d a imm) := ⟨encode_length _, fun e h => by cases h; exact of_decide_eq_true rfl⟩
theorem andn (g : PReg) (ty : Ty) (d : SReg) (a : SReg) (b : SReg) : Statement (.andn g ty d a b) := ⟨encode_length _, fun e h => by cases h; exact of_decide_eq_true rfl⟩
theorem andnImmediate (g : PReg) (ty : Ty) (d : SReg) (a : SReg) (imm : Imm) : Statement (.andnImmediate g ty d a imm) := ⟨encode_length _, fun e h => by cases h; exact of_decide_eq_true rfl⟩
theorem shl (g : PReg) (ty : Ty) (d : SReg) (a : SReg) (b : SReg) : Statement (.shl g ty d a b) := ⟨encode_length _, fun e h => by cases h; exact of_decide_eq_true rfl⟩
theorem shlImmediate (g : PReg) (ty : Ty) (d : SReg) (a : SReg) (imm : Imm) : Statement (.shlImmediate g ty d a imm) := ⟨encode_length _, fun e h => by cases h; exact of_decide_eq_true rfl⟩
theorem shr (g : PReg) (ty : Ty) (d : SReg) (a : SReg) (b : SReg) : Statement (.shr g ty d a b) := ⟨encode_length _, fun e h => by cases h; exact of_decide_eq_true rfl⟩
theorem shrImmediate (g : PReg) (ty : Ty) (d : SReg) (a : SReg) (imm : Imm) : Statement (.shrImmediate g ty d a imm) := ⟨encode_length _, fun e h => by cases h; exact of_decide_eq_true rfl⟩
theorem sra (g : PReg) (ty : Ty) (d : SReg) (a : SReg) (b : SReg) : Statement (.sra g ty d a b) := ⟨encode_length _, fun e h => by cases h; exact of_decide_eq_true rfl⟩
theorem sraImmediate (g : PReg) (ty : Ty) (d : SReg) (a : SReg) (imm : Imm) : Statement (.sraImmediate g ty d a imm) := ⟨encode_length _, fun e h => by cases h; exact of_decide_eq_true rfl⟩
theorem minS (g : PReg) (ty : Ty) (d : SReg) (a : SReg) (b : SReg) : Statement (.minS g ty d a b) := ⟨encode_length _, fun e h => by cases h; exact of_decide_eq_true rfl⟩
theorem minSImmediate (g : PReg) (ty : Ty) (d : SReg) (a : SReg) (imm : Imm) : Statement (.minSImmediate g ty d a imm) := ⟨encode_length _, fun e h => by cases h; exact of_decide_eq_true rfl⟩
theorem maxS (g : PReg) (ty : Ty) (d : SReg) (a : SReg) (b : SReg) : Statement (.maxS g ty d a b) := ⟨encode_length _, fun e h => by cases h; exact of_decide_eq_true rfl⟩
theorem maxSImmediate (g : PReg) (ty : Ty) (d : SReg) (a : SReg) (imm : Imm) : Statement (.maxSImmediate g ty d a imm) := ⟨encode_length _, fun e h => by cases h; exact of_decide_eq_true rfl⟩
theorem cmp (g : PReg) (ty : Ty) (cond : Cond) (d : PReg) (a : SReg) (b : SReg) : Statement (.cmp g ty cond d a b) := ⟨encode_length _, fun e h => by cases h; exact of_decide_eq_true rfl⟩
theorem cmpImmediate (g : PReg) (ty : Ty) (cond : Cond) (d : PReg) (a : SReg) (imm : Imm) : Statement (.cmpImmediate g ty cond d a imm) := ⟨encode_length _, fun e h => by cases h; exact of_decide_eq_true rfl⟩
theorem sel (g : PReg) (d : SReg) (q : PReg) (a : SReg) (b : SReg) : Statement (.sel g d q a b) := ⟨encode_length _, fun e h => by cases h; exact of_decide_eq_true rfl⟩
theorem limm (g : PReg) (d : SReg) (imm : Imm) : Statement (.limm g d imm) := ⟨encode_length _, fun e h => by cases h; exact of_decide_eq_true rfl⟩
theorem clz (g : PReg) (ty : Ty) (d : SReg) (a : SReg) : Statement (.clz g ty d a) := ⟨encode_length _, fun e h => by cases h; exact of_decide_eq_true rfl⟩
theorem popc (g : PReg) (ty : Ty) (d : SReg) (a : SReg) : Statement (.popc g ty d a) := ⟨encode_length _, fun e h => by cases h; exact of_decide_eq_true rfl⟩
theorem bfx (g : PReg) (ty : Ty) (d : SReg) (a : SReg) (pos : BitVec 6) (len : BitVec 6) : Statement (.bfx g ty d a pos len) := ⟨encode_length _, fun e h => by cases h; exact of_decide_eq_true rfl⟩
theorem bfi (g : PReg) (ty : Ty) (d : SReg) (a : SReg) (pos : BitVec 6) (len : BitVec 6) : Statement (.bfi g ty d a pos len) := ⟨encode_length _, fun e h => by cases h; exact of_decide_eq_true rfl⟩
theorem fadd (g : PReg) (ty : Ty) (rm : Rm) (d : SReg) (a : SReg) (b : SReg) : Statement (.fadd g ty rm d a b) := ⟨encode_length _, fun e h => by cases h; exact of_decide_eq_true rfl⟩
theorem fsub (g : PReg) (ty : Ty) (rm : Rm) (d : SReg) (a : SReg) (b : SReg) : Statement (.fsub g ty rm d a b) := ⟨encode_length _, fun e h => by cases h; exact of_decide_eq_true rfl⟩
theorem fmul (g : PReg) (ty : Ty) (rm : Rm) (d : SReg) (a : SReg) (b : SReg) : Statement (.fmul g ty rm d a b) := ⟨encode_length _, fun e h => by cases h; exact of_decide_eq_true rfl⟩
theorem ffma (g : PReg) (ty : Ty) (rm : Rm) (d : SReg) (a : SReg) (b : SReg) (c : SReg) : Statement (.ffma g ty rm d a b c) := ⟨encode_length _, fun e h => by cases h; exact of_decide_eq_true rfl⟩
theorem fmin (g : PReg) (ty : Ty) (d : SReg) (a : SReg) (b : SReg) : Statement (.fmin g ty d a b) := ⟨encode_length _, fun e h => by cases h; exact of_decide_eq_true rfl⟩
theorem fmax (g : PReg) (ty : Ty) (d : SReg) (a : SReg) (b : SReg) : Statement (.fmax g ty d a b) := ⟨encode_length _, fun e h => by cases h; exact of_decide_eq_true rfl⟩
theorem fcmp (g : PReg) (ty : Ty) (cond : Cond) (d : PReg) (a : SReg) (b : SReg) : Statement (.fcmp g ty cond d a b) := ⟨encode_length _, fun e h => by cases h; exact of_decide_eq_true rfl⟩
theorem fcvt (g : PReg) (ty : Ty) (src : Ty) (rm : Rm) (fin : Bool) (sat : Bool) (d : SReg) (a : SReg) : Statement (.fcvt g ty src rm fin sat d a) := ⟨encode_length _, fun e h => by cases h; exact of_decide_eq_true rfl⟩
theorem pand (g : PReg) (d : PReg) (a : PReg) (b : PReg) : Statement (.pand g d a b) := ⟨encode_length _, fun e h => by cases h; exact of_decide_eq_true rfl⟩
theorem por (g : PReg) (d : PReg) (a : PReg) (b : PReg) : Statement (.por g d a b) := ⟨encode_length _, fun e h => by cases h; exact of_decide_eq_true rfl⟩
theorem pxor (g : PReg) (d : PReg) (a : PReg) (b : PReg) : Statement (.pxor g d a b) := ⟨encode_length _, fun e h => by cases h; exact of_decide_eq_true rfl⟩
theorem pnot (g : PReg) (d : PReg) (a : PReg) : Statement (.pnot g d a) := ⟨encode_length _, fun e h => by cases h; exact of_decide_eq_true rfl⟩
theorem pcnt (g : PReg) (d : SReg) (a : PReg) : Statement (.pcnt g d a) := ⟨encode_length _, fun e h => by cases h; exact of_decide_eq_true rfl⟩
theorem pfirst (g : PReg) (d : PReg) (a : PReg) : Statement (.pfirst g d a) := ⟨encode_length _, fun e h => by cases h; exact of_decide_eq_true rfl⟩
theorem pmov (g : PReg) (d : PReg) (a : PReg) : Statement (.pmov g d a) := ⟨encode_length _, fun e h => by cases h; exact of_decide_eq_true rfl⟩
theorem pmovFromScalar (g : PReg) (d : PReg) (a : SReg) : Statement (.pmovFromScalar g d a) := ⟨encode_length _, fun e h => by cases h; exact of_decide_eq_true rfl⟩
theorem pmovToScalar (g : PReg) (d : SReg) (a : PReg) : Statement (.pmovToScalar g d a) := ⟨encode_length _, fun e h => by cases h; exact of_decide_eq_true rfl⟩
theorem vadd (g : PReg) (ty : Ty) (rm : Rm) (d : VReg) (a : VReg) (b : VReg) : Statement (.vadd g ty rm d a b) := ⟨encode_length _, fun e h => by cases h; exact of_decide_eq_true rfl⟩
theorem vsub (g : PReg) (ty : Ty) (rm : Rm) (d : VReg) (a : VReg) (b : VReg) : Statement (.vsub g ty rm d a b) := ⟨encode_length _, fun e h => by cases h; exact of_decide_eq_true rfl⟩
theorem vmul (g : PReg) (ty : Ty) (rm : Rm) (d : VReg) (a : VReg) (b : VReg) : Statement (.vmul g ty rm d a b) := ⟨encode_length _, fun e h => by cases h; exact of_decide_eq_true rfl⟩
theorem vmulh (g : PReg) (ty : Ty) (d : VReg) (a : VReg) (b : VReg) : Statement (.vmulh g ty d a b) := ⟨encode_length _, fun e h => by cases h; exact of_decide_eq_true rfl⟩
theorem vmin (g : PReg) (ty : Ty) (d : VReg) (a : VReg) (b : VReg) : Statement (.vmin g ty d a b) := ⟨encode_length _, fun e h => by cases h; exact of_decide_eq_true rfl⟩
theorem vmax (g : PReg) (ty : Ty) (d : VReg) (a : VReg) (b : VReg) : Statement (.vmax g ty d a b) := ⟨encode_length _, fun e h => by cases h; exact of_decide_eq_true rfl⟩
theorem vand (g : PReg) (ty : Ty) (d : VReg) (a : VReg) (b : VReg) : Statement (.vand g ty d a b) := ⟨encode_length _, fun e h => by cases h; exact of_decide_eq_true rfl⟩
theorem vor (g : PReg) (ty : Ty) (d : VReg) (a : VReg) (b : VReg) : Statement (.vor g ty d a b) := ⟨encode_length _, fun e h => by cases h; exact of_decide_eq_true rfl⟩
theorem vxor (g : PReg) (ty : Ty) (d : VReg) (a : VReg) (b : VReg) : Statement (.vxor g ty d a b) := ⟨encode_length _, fun e h => by cases h; exact of_decide_eq_true rfl⟩
theorem vshl (g : PReg) (ty : Ty) (d : VReg) (a : VReg) (b : VReg) : Statement (.vshl g ty d a b) := ⟨encode_length _, fun e h => by cases h; exact of_decide_eq_true rfl⟩
theorem vshr (g : PReg) (ty : Ty) (d : VReg) (a : VReg) (b : VReg) : Statement (.vshr g ty d a b) := ⟨encode_length _, fun e h => by cases h; exact of_decide_eq_true rfl⟩
theorem vsra (g : PReg) (ty : Ty) (d : VReg) (a : VReg) (b : VReg) : Statement (.vsra g ty d a b) := ⟨encode_length _, fun e h => by cases h; exact of_decide_eq_true rfl⟩
theorem vfma (g : PReg) (ty : Ty) (rm : Rm) (d : VReg) (a : VReg) (b : VReg) (c : VReg) : Statement (.vfma g ty rm d a b c) := ⟨encode_length _, fun e h => by cases h; exact of_decide_eq_true rfl⟩
theorem vabs (g : PReg) (ty : Ty) (d : VReg) (a : VReg) : Statement (.vabs g ty d a) := ⟨encode_length _, fun e h => by cases h; exact of_decide_eq_true rfl⟩
theorem vneg (g : PReg) (ty : Ty) (d : VReg) (a : VReg) : Statement (.vneg g ty d a) := ⟨encode_length _, fun e h => by cases h; exact of_decide_eq_true rfl⟩
theorem vmov (g : PReg) (ty : Ty) (d : VReg) (a : VReg) : Statement (.vmov g ty d a) := ⟨encode_length _, fun e h => by cases h; exact of_decide_eq_true rfl⟩
theorem vclass (g : PReg) (ty : Ty) (d : VReg) (a : VReg) : Statement (.vclass g ty d a) := ⟨encode_length _, fun e h => by cases h; exact of_decide_eq_true rfl⟩
theorem vrcp (g : PReg) (ty : Ty) (rm : Rm) (d : VReg) (a : VReg) : Statement (.vrcp g ty rm d a) := ⟨encode_length _, fun e h => by cases h; exact of_decide_eq_true rfl⟩
theorem vrsq (g : PReg) (ty : Ty) (rm : Rm) (d : VReg) (a : VReg) : Statement (.vrsq g ty rm d a) := ⟨encode_length _, fun e h => by cases h; exact of_decide_eq_true rfl⟩
theorem vexp2 (g : PReg) (ty : Ty) (rm : Rm) (d : VReg) (a : VReg) : Statement (.vexp2 g ty rm d a) := ⟨encode_length _, fun e h => by cases h; exact of_decide_eq_true rfl⟩
theorem vlog2 (g : PReg) (ty : Ty) (rm : Rm) (d : VReg) (a : VReg) : Statement (.vlog2 g ty rm d a) := ⟨encode_length _, fun e h => by cases h; exact of_decide_eq_true rfl⟩
theorem vcmp (g : PReg) (ty : Ty) (cond : Cond) (d : PReg) (a : VReg) (b : VReg) : Statement (.vcmp g ty cond d a b) := ⟨encode_length _, fun e h => by cases h; exact of_decide_eq_true rfl⟩
theorem vsel (g : PReg) (d : VReg) (q : PReg) (a : VReg) (b : VReg) : Statement (.vsel g d q a b) := ⟨encode_length _, fun e h => by cases h; exact of_decide_eq_true rfl⟩
theorem vbcast (g : PReg) (ty : Ty) (d : VReg) (a : SReg) : Statement (.vbcast g ty d a) := ⟨encode_length _, fun e h => by cases h; exact of_decide_eq_true rfl⟩
theorem viota (g : PReg) (ty : Ty) (d : VReg) (a : SReg) : Statement (.viota g ty d a) := ⟨encode_length _, fun e h => by cases h; exact of_decide_eq_true rfl⟩
theorem vperm (g : PReg) (d : VReg) (a : VReg) (b : VReg) : Statement (.vperm g d a b) := ⟨encode_length _, fun e h => by cases h; exact of_decide_eq_true rfl⟩
theorem vcomp (g : PReg) (d : VReg) (q : PReg) (a : VReg) : Statement (.vcomp g d q a) := ⟨encode_length _, fun e h => by cases h; exact of_decide_eq_true rfl⟩
theorem vred (g : PReg) (ty : Ty) (op : Red) (rm : Rm) (d : SReg) (a : VReg) : Statement (.vred g ty op rm d a) := ⟨encode_length _, fun e h => by cases h; exact of_decide_eq_true rfl⟩
theorem vscan (g : PReg) (ty : Ty) (op : Red) (rm : Rm) (d : VReg) (a : VReg) : Statement (.vscan g ty op rm d a) := ⟨encode_length _, fun e h => by cases h; exact of_decide_eq_true rfl⟩
theorem vcvt (g : PReg) (ty : Ty) (src : Ty) (rm : Rm) (fin : Bool) (sat : Bool) (d : VReg) (a : VReg) : Statement (.vcvt g ty src rm fin sat d a) := ⟨encode_length _, fun e h => by cases h; exact of_decide_eq_true rfl⟩
theorem vext (g : PReg) (ty : Ty) (d : SReg) (a : VReg) (b : SReg) : Statement (.vext g ty d a b) := ⟨encode_length _, fun e h => by cases h; exact of_decide_eq_true rfl⟩
theorem vins (g : PReg) (ty : Ty) (d : VReg) (a : SReg) (b : SReg) : Statement (.vins g ty d a b) := ⟨encode_length _, fun e h => by cases h; exact of_decide_eq_true rfl⟩
theorem vqnt (g : PReg) (ty : Ty) (rm : Rm) (fin : Bool) (sat : Bool) (d : VReg) (c : VReg) (a : VReg) : Statement (.vqnt g ty rm fin sat d c a) := ⟨encode_length _, fun e h => by cases h; exact of_decide_eq_true rfl⟩
theorem vdqnt (g : PReg) (ty : Ty) (d : VReg) (a : VReg) (b : VReg) : Statement (.vdqnt g ty d a b) := ⟨encode_length _, fun e h => by cases h; exact of_decide_eq_true rfl⟩
theorem vcbd (g : PReg) (wt : Bool) (d : VReg) (a : VReg) (b : VReg) : Statement (.vcbd g wt d a b) := ⟨encode_length _, fun e h => by cases h; exact of_decide_eq_true rfl⟩
theorem vpack (g : PReg) (ty : Ty) (src : Ty) (rm : Rm) (fin : Bool) (sat : Bool) (d : VReg) (a : VReg) (b : VReg) : Statement (.vpack g ty src rm fin sat d a b) := ⟨encode_length _, fun e h => by cases h; exact of_decide_eq_true rfl⟩
theorem vunpk (g : PReg) (ty : Ty) (src : Ty) (hi : Bool) (d : VReg) (a : VReg) : Statement (.vunpk g ty src hi d a) := ⟨encode_length _, fun e h => by cases h; exact of_decide_eq_true rfl⟩
theorem mma (g : PReg) (ty : Ty) (rm : Rm) (acd : AcReg) (sh : ShReg) (oba : ObReg) (obb : ObReg) : Statement (.mma g ty rm acd sh oba obb) := ⟨encode_length _, fun e h => by cases h; exact of_decide_eq_true rfl⟩
theorem mmacb (g : PReg) (ty : Ty) (rm : Rm) (wt : Bool) (acd : AcReg) (sh : ShReg) (oba : ObReg) (obb : ObReg) : Statement (.mmacb g ty rm wt acd sh oba obb) := ⟨encode_length _, fun e h => by cases h; exact of_decide_eq_true rfl⟩
theorem mzero (g : PReg) (acd : AcReg) : Statement (.mzero g acd) := ⟨encode_length _, fun e h => by cases h; exact of_decide_eq_true rfl⟩
theorem mrd (g : PReg) (v : VReg) (aca : AcReg) (b : SReg) : Statement (.mrd g v aca b) := ⟨encode_length _, fun e h => by cases h; exact of_decide_eq_true rfl⟩
theorem mwr (g : PReg) (acd : AcReg) (v : VReg) (b : SReg) : Statement (.mwr g acd v b) := ⟨encode_length _, fun e h => by cases h; exact of_decide_eq_true rfl⟩
theorem mshape (g : PReg) (sh : ShReg) (b : SReg) (off : Off12) : Statement (.mshape g sh b off) := ⟨encode_length _, fun e h => by cases h; exact of_decide_eq_true rfl⟩
theorem ld (g : PReg) (ty : Ty) (d : SReg) (a : SReg) (b : SReg) (off : Off) : Statement (.ld g ty d a b off) := ⟨encode_length _, fun e h => by cases h; exact of_decide_eq_true rfl⟩
theorem st (g : PReg) (ty : Ty) (d : SReg) (a : SReg) (b : SReg) (off : Off) : Statement (.st g ty d a b off) := ⟨encode_length _, fun e h => by cases h; exact of_decide_eq_true rfl⟩
theorem vld (g : PReg) (ty : Ty) (d : VReg) (a : SReg) (b : SReg) (off : Off) : Statement (.vld g ty d a b off) := ⟨encode_length _, fun e h => by cases h; exact of_decide_eq_true rfl⟩
theorem vst (g : PReg) (ty : Ty) (d : VReg) (a : SReg) (b : SReg) (off : Off) : Statement (.vst g ty d a b off) := ⟨encode_length _, fun e h => by cases h; exact of_decide_eq_true rfl⟩
theorem vgather (g : PReg) (ty : Ty) (d : VReg) (a : SReg) (b : VReg) (off : Off) : Statement (.vgather g ty d a b off) := ⟨encode_length _, fun e h => by cases h; exact of_decide_eq_true rfl⟩
theorem vscatter (g : PReg) (ty : Ty) (d : VReg) (a : SReg) (b : VReg) (off : Off) : Statement (.vscatter g ty d a b off) := ⟨encode_length _, fun e h => by cases h; exact of_decide_eq_true rfl⟩
theorem vscadd (g : PReg) (ty : Ty) (d : VReg) (a : SReg) (b : VReg) (off : Off) : Statement (.vscadd g ty d a b off) := ⟨encode_length _, fun e h => by cases h; exact of_decide_eq_true rfl⟩
theorem binapp (g : PReg) (ty : Ty) (d : VReg) (a : SReg) (b : VReg) (off : Off) : Statement (.binapp g ty d a b off) := ⟨encode_length _, fun e h => by cases h; exact of_decide_eq_true rfl⟩
theorem binrst (g : PReg) (a : SReg) (off : Off) : Statement (.binrst g a off) := ⟨encode_length _, fun e h => by cases h; exact of_decide_eq_true rfl⟩
theorem pref (g : PReg) (a : SReg) (b : SReg) (off : Off) : Statement (.pref g a b off) := ⟨encode_length _, fun e h => by cases h; exact of_decide_eq_true rfl⟩
theorem fence (g : PReg) (scp : Scope) (sets : BitVec 3) : Statement (.fence g scp sets) := ⟨encode_length _, fun e h => by cases h; exact of_decide_eq_true rfl⟩
theorem amo (g : PReg) (op : AmoOp) (ty : Ty) (scp : Scope) (ord : Ord) (d : SReg) (a : SReg) (off : OffA) (b : SReg) : Statement (.amo g op ty scp ord d a off b) := ⟨encode_length _, fun e h => by cases h; exact of_decide_eq_true rfl⟩
theorem acas (g : PReg) (ty : Ty) (scp : Scope) (ord : Ord) (d : SReg) (a : SReg) (off : OffA) (b : SReg) (c : SReg) : Statement (.acas g ty scp ord d a off b c) := ⟨encode_length _, fun e h => by cases h; exact of_decide_eq_true rfl⟩
theorem pub (g : PReg) (scp : Scope) (rel : Bool) (n : NPair) (b : SReg) (c : SReg) : Statement (.pub g scp rel n b c) := ⟨encode_length _, fun e h => by cases h; exact of_decide_eq_true rfl⟩
theorem subs (g : PReg) (scp : Scope) (n : NPair) : Statement (.subs g scp n) := ⟨encode_length _, fun e h => by cases h; exact of_decide_eq_true rfl⟩
theorem unsub (g : PReg) (n : NPair) : Statement (.unsub g n) := ⟨encode_length _, fun e h => by cases h; exact of_decide_eq_true rfl⟩
theorem drop (g : PReg) (n : NPair) : Statement (.drop g n) := ⟨encode_length _, fun e h => by cases h; exact of_decide_eq_true rfl⟩
theorem await (g : PReg) (p : Bool) (n : NPair) (b : SReg) : Statement (.await g p n b) := ⟨encode_length _, fun e h => by cases h; exact of_decide_eq_true rfl⟩
theorem strm (g : PReg) (port : Port) (dir : Bool) (eng : Bool) (scp : Scope) (ordf : Bool) (cons : Bool) (cv : Bool) (rm : Rm) (ty : Ty) (d : SReg) (gr : GReg) (a : SReg) (n : NPair) : Statement (.strm g port dir eng scp ordf cons cv rm ty d gr a n) := ⟨encode_length _, fun e h => by cases h; exact of_decide_eq_true rfl⟩
theorem swait (g : PReg) (a : SReg) : Statement (.swait g a) := ⟨encode_length _, fun e h => by cases h; exact of_decide_eq_true rfl⟩
theorem scancel (g : PReg) (a : SReg) : Statement (.scancel g a) := ⟨encode_length _, fun e h => by cases h; exact of_decide_eq_true rfl⟩
theorem gset (g : PReg) (gr : GReg) (sel : GField) (a : SReg) : Statement (.gset g gr sel a) := ⟨encode_length _, fun e h => by cases h; exact of_decide_eq_true rfl⟩
theorem spawn (g : PReg) (d : SReg) (c : SReg) (b : SReg) : Statement (.spawn g d c b) := ⟨encode_length _, fun e h => by cases h; exact of_decide_eq_true rfl⟩
theorem bar (g : PReg) (n : BitVec 4) : Statement (.bar g n) := ⟨encode_length _, fun e h => by cases h; exact of_decide_eq_true rfl⟩
theorem barx (g : PReg) (k : KReg) (n : BitVec 4) : Statement (.barx g k n) := ⟨encode_length _, fun e h => by cases h; exact of_decide_eq_true rfl⟩
theorem br (g : PReg) (off : BitVec 28) : Statement (.br g off) := ⟨encode_length _, fun e h => by cases h; exact of_decide_eq_true rfl⟩
theorem brp (g : PReg) (t : PTest) (q : PReg) (off : BitVec 28) : Statement (.brp g t q off) := ⟨encode_length _, fun e h => by cases h; exact of_decide_eq_true rfl⟩
theorem jmp (g : PReg) (a : SReg) : Statement (.jmp g a) := ⟨encode_length _, fun e h => by cases h; exact of_decide_eq_true rfl⟩
theorem call (g : PReg) (a : SReg) (off : BitVec 28) : Statement (.call g a off) := ⟨encode_length _, fun e h => by cases h; exact of_decide_eq_true rfl⟩
theorem ret (g : PReg) (a : SReg) : Statement (.ret g a) := ⟨encode_length _, fun e h => by cases h; exact of_decide_eq_true rfl⟩
theorem loop (g : PReg) (a : SReg) (off : BitVec 28) : Statement (.loop g a off) := ⟨encode_length _, fun e h => by cases h; exact of_decide_eq_true rfl⟩
theorem nop (g : PReg) : Statement (.nop g) := ⟨encode_length _, fun e h => by cases h; exact of_decide_eq_true rfl⟩
theorem tend (g : PReg) : Statement (.tend g) := ⟨encode_length _, fun e h => by cases h; exact of_decide_eq_true rfl⟩
theorem yieldC (g : PReg) : Statement (.yieldC g) := ⟨encode_length _, fun e h => by cases h; exact of_decide_eq_true rfl⟩
theorem trap (g : PReg) (code : BitVec 24) : Statement (.trap g code) := ⟨encode_length _, fun e h => by cases h; exact of_decide_eq_true rfl⟩
theorem csrr (g : PReg) (d : SReg) (n : BitVec 12) : Statement (.csrr g d n) := ⟨encode_length _, fun e h => by cases h; exact of_decide_eq_true rfl⟩
theorem csrw (g : PReg) (n : BitVec 12) (a : SReg) : Statement (.csrw g n a) := ⟨encode_length _, fun e h => by cases h; exact of_decide_eq_true rfl⟩
theorem frzrd (g : PReg) (file : File) (d : BitVec 6) (k : KReg) (b : SReg) : Statement (.frzrd g file d k b) := ⟨encode_length _, fun e h => by cases h; exact of_decide_eq_true rfl⟩
theorem frzwr (g : PReg) (file : File) (k : KReg) (b : SReg) (a : BitVec 6) : Statement (.frzwr g file k b a) := ⟨encode_length _, fun e h => by cases h; exact of_decide_eq_true rfl⟩
theorem frzinf (g : PReg) (d : SReg) (k : KReg) (b : SReg) : Statement (.frzinf g d k b) := ⟨encode_length _, fun e h => by cases h; exact of_decide_eq_true rfl⟩
theorem resume (g : PReg) (k : KReg) : Statement (.resume g k) := ⟨encode_length _, fun e h => by cases h; exact of_decide_eq_true rfl⟩
theorem resumeAtPc (g : PReg) (k : KReg) (a : SReg) : Statement (.resumeAtPc g k a) := ⟨encode_length _, fun e h => by cases h; exact of_decide_eq_true rfl⟩
theorem kill (g : PReg) (k : KReg) : Statement (.kill g k) := ⟨encode_length _, fun e h => by cases h; exact of_decide_eq_true rfl⟩
theorem tlbinv (g : PReg) (a : SReg) : Statement (.tlbinv g a) := ⟨encode_length _, fun e h => by cases h; exact of_decide_eq_true rfl⟩
theorem tlbinvAll (g : PReg) (a : SReg) : Statement (.tlbinvAll g a) := ⟨encode_length _, fun e h => by cases h; exact of_decide_eq_true rfl⟩
theorem clsrd (g : PReg) (d : SReg) (a : SReg) : Statement (.clsrd g d a) := ⟨encode_length _, fun e h => by cases h; exact of_decide_eq_true rfl⟩
theorem sleep (g : PReg) (n : BitVec 24) : Statement (.sleep g n) := ⟨encode_length _, fun e h => by cases h; exact of_decide_eq_true rfl⟩
theorem issueCycle (tile : Nat) : Statement (.issueCycle tile) := ⟨encode_length _, fun _ h => nomatch h⟩
theorem boostThread (key : Nat) : Statement (.boostThread key) := ⟨encode_length _, fun _ h => nomatch h⟩
theorem bundleCommit (key : Nat) : Statement (.bundleCommit key) := ⟨encode_length _, fun _ h => nomatch h⟩
theorem memoryResponse (id : Nat) (ext : Ext) : Statement (.memoryResponse id ext) := ⟨encode_length _, fun _ h => nomatch h⟩
theorem sleepExpiry (key : Nat) : Statement (.sleepExpiry key) := ⟨encode_length _, fun _ h => nomatch h⟩
theorem rngRefill (tile : Nat) : Statement (.rngRefill tile) := ⟨encode_length _, fun _ h => nomatch h⟩
theorem bankServe (tile : Nat) (bank : Nat) (bad : Bool) : Statement (.bankServe tile bank bad) := ⟨encode_length _, fun _ h => nomatch h⟩
theorem accessAtOwningPoint (id : Nat) (elem : Nat) (bad : Bool) : Statement (.accessAtOwningPoint id elem bad) := ⟨encode_length _, fun _ h => nomatch h⟩
theorem rmwPerform (id : Nat) (elem : Nat) : Statement (.rmwPerform id elem) := ⟨encode_length _, fun _ h => nomatch h⟩
theorem translationWalkDone (tile : Nat) (ctx : Nat) (va : Nat) : Statement (.translationWalkDone tile ctx va) := ⟨encode_length _, fun _ h => nomatch h⟩
theorem tlbDrainAck (key : Nat) : Statement (.tlbDrainAck key) := ⟨encode_length _, fun _ h => nomatch h⟩
theorem scrubLine (line : Nat) (bad : Bool) : Statement (.scrubLine line bad) := ⟨encode_length _, fun _ h => nomatch h⟩
theorem streamDispatch (tile : Nat) : Statement (.streamDispatch tile) := ⟨encode_length _, fun _ h => nomatch h⟩
theorem streamChunkStart (tile : Nat) (eng : Nat) : Statement (.streamChunkStart tile eng) := ⟨encode_length _, fun _ h => nomatch h⟩
theorem streamChunkDone (tile : Nat) (eng : Nat) (chunk : Nat) : Statement (.streamChunkDone tile eng chunk) := ⟨encode_length _, fun _ h => nomatch h⟩
theorem tailPublish (tile : Nat) : Statement (.tailPublish tile) := ⟨encode_length _, fun _ h => nomatch h⟩
theorem matrixOpStart (tile : Nat) : Statement (.matrixOpStart tile) := ⟨encode_length _, fun _ h => nomatch h⟩
theorem matrixOperandConsume (tile : Nat) : Statement (.matrixOperandConsume tile) := ⟨encode_length _, fun _ h => nomatch h⟩
theorem matrixRowRead (tile : Nat) (row : Nat) : Statement (.matrixRowRead tile row) := ⟨encode_length _, fun _ h => nomatch h⟩
theorem matrixRowWrite (tile : Nat) (row : Nat) : Statement (.matrixRowWrite tile row) := ⟨encode_length _, fun _ h => nomatch h⟩
theorem asyncFaultArrival (i : Nat) : Statement (.asyncFaultArrival i) := ⟨encode_length _, fun _ h => nomatch h⟩
theorem launchWindowWrite (port : Nat) (off : Nat) (bytes : List Byte) : Statement (.launchWindowWrite port off bytes) := ⟨encode_length _, fun _ h => nomatch h⟩
theorem launchSlotRead (port : Nat) (slot : Nat) : Statement (.launchSlotRead port slot) := ⟨encode_length _, fun _ h => nomatch h⟩
theorem admission : Statement (.admission) := ⟨encode_length _, fun _ h => nomatch h⟩
theorem stageLoad (ctx : Nat) : Statement (.stageLoad ctx) := ⟨encode_length _, fun _ h => nomatch h⟩
theorem stageEnd (ctx : Nat) : Statement (.stageEnd ctx) := ⟨encode_length _, fun _ h => nomatch h⟩
theorem publicationArrival (i : Nat) : Statement (.publicationArrival i) := ⟨encode_length _, fun _ h => nomatch h⟩
theorem subscriptionArrival (i : Nat) : Statement (.subscriptionArrival i) := ⟨encode_length _, fun _ h => nomatch h⟩
theorem multicastCopy (i : Nat) : Statement (.multicastCopy i) := ⟨encode_length _, fun _ h => nomatch h⟩
theorem nameMatchFree (i : Nat) : Statement (.nameMatchFree i) := ⟨encode_length _, fun _ h => nomatch h⟩
theorem publicationDelivery (i : Nat) : Statement (.publicationDelivery i) := ⟨encode_length _, fun _ h => nomatch h⟩
theorem deferMessage (i : Nat) : Statement (.deferMessage i) := ⟨encode_length _, fun _ h => nomatch h⟩
theorem resumeMessage (i : Nat) : Statement (.resumeMessage i) := ⟨encode_length _, fun _ h => nomatch h⟩
theorem inputCopyDone (key : Nat) : Statement (.inputCopyDone key) := ⟨encode_length _, fun _ h => nomatch h⟩
theorem dynamicDelivery (i : Nat) : Statement (.dynamicDelivery i) := ⟨encode_length _, fun _ h => nomatch h⟩
theorem dropArrival (i : Nat) : Statement (.dropArrival i) := ⟨encode_length _, fun _ h => nomatch h⟩
theorem unsubArrival (i : Nat) : Statement (.unsubArrival i) := ⟨encode_length _, fun _ h => nomatch h⟩
theorem pierSubscriptionArrival (i : Nat) : Statement (.pierSubscriptionArrival i) := ⟨encode_length _, fun _ h => nomatch h⟩
theorem pierTileReadDone (i : Nat) : Statement (.pierTileReadDone i) := ⟨encode_length _, fun _ h => nomatch h⟩
theorem residencyFill : Statement (.residencyFill) := ⟨encode_length _, fun _ h => nomatch h⟩
theorem residencyPin : Statement (.residencyPin) := ⟨encode_length _, fun _ h => nomatch h⟩
theorem residencyUnpin : Statement (.residencyUnpin) := ⟨encode_length _, fun _ h => nomatch h⟩
theorem residencyEvict : Statement (.residencyEvict) := ⟨encode_length _, fun _ h => nomatch h⟩
theorem fillComplete (tid : Nat) : Statement (.fillComplete tid) := ⟨encode_length _, fun _ h => nomatch h⟩
theorem evictRefcZero (tid : Nat) : Statement (.evictRefcZero tid) := ⟨encode_length _, fun _ h => nomatch h⟩
theorem classLoweringRequest (v : Word) : Statement (.classLoweringRequest v) := ⟨encode_length _, fun _ h => nomatch h⟩
theorem sliceFailureReport (site : Nat) : Statement (.sliceFailureReport site) := ⟨encode_length _, fun _ h => nomatch h⟩
theorem loweringRouterDrained : Statement (.loweringRouterDrained) := ⟨encode_length _, fun _ h => nomatch h⟩
theorem resetToken (i : Nat) : Statement (.resetToken i) := ⟨encode_length _, fun _ h => nomatch h⟩
theorem abortFlit (i : Nat) : Statement (.abortFlit i) := ⟨encode_length _, fun _ h => nomatch h⟩
theorem lostTransactionTimeout (id : Nat) : Statement (.lostTransactionTimeout id) := ⟨encode_length _, fun _ h => nomatch h⟩
theorem heartbeatBeat (site : Nat) : Statement (.heartbeatBeat site) := ⟨encode_length _, fun _ h => nomatch h⟩
theorem heartbeatTimeout (site : Nat) : Statement (.heartbeatTimeout site) := ⟨encode_length _, fun _ h => nomatch h⟩
theorem probeReply (site : Nat) (rtr : Bool) (core : Bool) (eff : Nat) (strn : Bool) : Statement (.probeReply site rtr core eff strn) := ⟨encode_length _, fun _ h => nomatch h⟩
theorem probeTimeout (site : Nat) : Statement (.probeTimeout site) := ⟨encode_length _, fun _ h => nomatch h⟩
theorem probeRetry (site : Nat) : Statement (.probeRetry site) := ⟨encode_length _, fun _ h => nomatch h⟩
theorem keystoneProbe (ok : Bool) : Statement (.keystoneProbe ok) := ⟨encode_length _, fun _ h => nomatch h⟩
theorem sensorUpdate (reg : Nat) (reading : BitVec 16) : Statement (.sensorUpdate reg reading) := ⟨encode_length _, fun _ h => nomatch h⟩
theorem throttleApply (tile : Nat) : Statement (.throttleApply tile) := ⟨encode_length _, fun _ h => nomatch h⟩
theorem droopStretch (bay : Nat) : Statement (.droopStretch bay) := ⟨encode_length _, fun _ h => nomatch h⟩
theorem powerGood : Statement (.powerGood) := ⟨encode_length _, fun _ h => nomatch h⟩
theorem stageAdvance : Statement (.stageAdvance) := ⟨encode_length _, fun _ h => nomatch h⟩
theorem safeBayReady : Statement (.safeBayReady) := ⟨encode_length _, fun _ h => nomatch h⟩
theorem waferTablesLoaded : Statement (.waferTablesLoaded) := ⟨encode_length _, fun _ h => nomatch h⟩
theorem hbmTrainingEnd (stack : Nat) (ok : Bool) : Statement (.hbmTrainingEnd stack ok) := ⟨encode_length _, fun _ h => nomatch h⟩
theorem fullWafer : Statement (.fullWafer) := ⟨encode_length _, fun _ h => nomatch h⟩
theorem bayWakeRequest (bay : Nat) : Statement (.bayWakeRequest bay) := ⟨encode_length _, fun _ h => nomatch h⟩
theorem wakeComplete (bay : Nat) : Statement (.wakeComplete bay) := ⟨encode_length _, fun _ h => nomatch h⟩
theorem bayGateRequest (bay : Nat) : Statement (.bayGateRequest bay) := ⟨encode_length _, fun _ h => nomatch h⟩
theorem vacateRequest (v : Word) (host : Option Nat) : Statement (.vacateRequest v host) := ⟨encode_length _, fun _ h => nomatch h⟩
theorem vacateRelease (v : Word) (host : Option Nat) : Statement (.vacateRelease v host) := ⟨encode_length _, fun _ h => nomatch h⟩
theorem graceExpiry (ctx : Nat) (tile : Nat) : Statement (.graceExpiry ctx tile) := ⟨encode_length _, fun _ h => nomatch h⟩
theorem threadSave (key : Nat) : Statement (.threadSave key) := ⟨encode_length _, fun _ h => nomatch h⟩
theorem saveComplete (uid : Nat) : Statement (.saveComplete uid) := ⟨encode_length _, fun _ h => nomatch h⟩
theorem rehomePhase : Statement (.rehomePhase) := ⟨encode_length _, fun _ h => nomatch h⟩
theorem foldPhase : Statement (.foldPhase) := ⟨encode_length _, fun _ h => nomatch h⟩
theorem restoreThread (uid : Nat) : Statement (.restoreThread uid) := ⟨encode_length _, fun _ h => nomatch h⟩
theorem checkpointRequest (v : Word) : Statement (.checkpointRequest v) := ⟨encode_length _, fun _ h => nomatch h⟩
theorem checkpointEnd (res : Nat) : Statement (.checkpointEnd res) := ⟨encode_length _, fun _ h => nomatch h⟩
theorem evictorTrigger (ctx : Nat) (va : Nat) (frame : Nat) : Statement (.evictorTrigger ctx va frame) := ⟨encode_length _, fun _ h => nomatch h⟩
theorem evictorPageMove : Statement (.evictorPageMove) := ⟨encode_length _, fun _ h => nomatch h⟩
theorem bar2Read (port : Nat) (off : Nat) (len : Nat) : Statement (.bar2Read port off len) := ⟨encode_length _, fun _ h => nomatch h⟩
theorem bar2Write (port : Nat) (off : Nat) (bytes : List Byte) (ep : Bool) : Statement (.bar2Write port off bytes ep) := ⟨encode_length _, fun _ h => nomatch h⟩
theorem bar2Atomicop (port : Nat) (off : Nat) (op : HostAtomic) (size : Nat) (a : Word) (b : Word) : Statement (.bar2Atomicop port off op size a b) := ⟨encode_length _, fun _ h => nomatch h⟩
theorem registerWrite (port : Nat) (n : Nat) (v : Word) (be : BitVec 8) : Statement (.registerWrite port n v be) := ⟨encode_length _, fun _ h => nomatch h⟩
theorem peerAccessArrival (p : Peer) : Statement (.peerAccessArrival p) := ⟨encode_length _, fun _ h => nomatch h⟩
theorem peerAckArrival (id : Nat) (err : Bool) : Statement (.peerAckArrival id err) := ⟨encode_length _, fun _ h => nomatch h⟩
theorem cufortResendTimeout (id : Nat) : Statement (.cufortResendTimeout id) := ⟨encode_length _, fun _ h => nomatch h⟩
theorem linkReplay (port : Nat) : Statement (.linkReplay port) := ⟨encode_length _, fun _ h => nomatch h⟩
theorem msixUnmask (port : Nat) (vec : Nat) : Statement (.msixUnmask port vec) := ⟨encode_length _, fun _ h => nomatch h⟩
theorem cufortLinkUpDown (port : Nat) (up : Bool) : Statement (.cufortLinkUpDown port up) := ⟨encode_length _, fun _ h => nomatch h⟩

end Sys2Proof.Laws.Words
end

