-- ==== Sys2Proof/Tests/Slice0.lean ====
section
/-! SUPPORT. The model's own tests: words of the spec decode, ill-formed terms are refused, sample results of the reference
entries, and for each statement with hypotheses a state and operands that meet them. -/

namespace Sys2Proof.Machine.Tests

-- one theorem after another: each waits for the kernel's check of the last
set_option Elab.async false

/-! Words written out in the reference entries (R371, R440, R438, R408, R422, R455) and what they stand for. -/

theorem test_decode_scalar :
    [0x80001851C0050000, 0x80801851C0060000, 0x80C01851C0050000, 0x84A0186000008700, 0x814018500023C700,
      0x8100184140200000, 0x83000C1080000000, 0x8360089000000100].map (fun w => decodeWords [w]) =
    [some (.add 0 .i32 6 5 7), some (.xor 0 .u64 6 5 7), some (.sra 0 .i32 6 5 7), some (.shlImmediate 0 .i64 6 6 ⟨8, none⟩),
      some (.bfx 0 .i64 6 5 60 8), some (.sel 0 6 2 4 5), some (.pand 0 3 1 2), some (.pmovFromScalar 0 2 9)] := by
  decide +kernel

/-- R401: FCVT.e4m3.f32.sat s9, s8. -/
theorem test_decode_convert : decodeWords [0x8270248000080C40] = some (.fcvt 0 .e4m3 .f32 .dyn false true 9 8) := by
  decide +kernel

/-- R476, R486, R481, R477, R502, R508, R514: vector syllables. -/
theorem test_decode_vector :
    [0x90000C20800C0000, 0x90901C1080040000, 0x90700810000C0000, 0x91B00810000C0000, 0x91C00810000C0000, 0x91900810000C0000,
      0x91A00810000C0000, 0x90300C1080050000, 0x9080081000010000, 0x90E00810C0030000, 0x91100C1000040000, 0x90400420C40C0000,
      0x91D00C10000C0000, 0x90F00810C00C0200].map (fun w => decodeWords [w]) =
    [some (.vadd 0 .f32 .dyn 3 2 2), some (.vand 0 .u32 7 1 2), some (.vabs 0 .f32 2 1), some (.vexp2 0 .f32 .dyn 2 1),
      some (.vlog2 0 .f32 .dyn 2 1), some (.vrcp 0 .f32 .dyn 2 1), some (.vrsq 0 .f32 .dyn 2 1), some (.vmulh 0 .i32 3 1 2),
      some (.vneg 0 .i8 2 1), some (.vsra 0 .i16 2 1 3), some (.vmov 0 .u32 3 1), some (.vfma 0 .f32 .dyn 1 2 3 4),
      some (.vclass 0 .f32 3 1), some (.vcmp 0 .f32 .lt 2 1 3)] := by
  decide +kernel

theorem test_decode_vector_moves :
    [0x9120045000040000, 0x9130040000040000, 0x9140101080000000, 0x9150142000300000, 0x91601820000C0000, 0x9180081000090C80,
      0x91E01821C0040000, 0x9200101005080080, 0x9210184140080000, 0x9220101080000100, 0x9230101080090C00, 0x92401440000C0900,
      0x9100184140200000].map (fun w => decodeWords [w]) =
    [some (.vbcast 0 .u32 1 5), some (.viota 0 .u32 1 0), some (.vperm 0 4 1 2), some (.vcomp 0 5 3 2), some (.vred 0 .f32 .add .dyn 6 2),
      some (.vcvt 0 .e5m2 .f32 .dyn true false 2 1), some (.vext 0 .u32 6 2 7), some (.vqnt 0 .e4m3 .dyn true false 4 5 1),
      some (.vdqnt 0 .e4m3 6 4 5), some (.vcbd 0 true 4 1 2), some (.vpack 0 .e5m2 .f32 .dyn false false 4 1 2),
      some (.vunpk 0 .f32 .e5m2 false 5 4), some (.vsel 0 6 2 4 5)] := by
  decide +kernel

/-- R425, R430, R435: matrix syllables. -/
theorem test_decode_matrix :
    [0xA010404E00000121, 0xA020300000000000, 0xA030030028E00000, 0xA040000008000000].map (fun w => decodeWords [w]) =
    [some (.mmacb 0 .e5m2 .dyn true 4 2 1 3), some (.mzero 0 3), some (.mrd 0 5 3 7), some (.mwr 0 0 1 0)] := by
  decide +kernel

/-- R418, R462, R491, R273, R366, R366, R386, R442: memory syllables. -/
theorem test_decode_memory :
    [0xB00024417FFF8500, 0xB010184000040400, 0xB020084000100400, 0xB030084000100400, 0xB040144080000400, 0xB0500C4080000400,
      0xB0700C4080000400, 0xB090004000400000, 0xB0A00000000000C7, 0xB1002841800106A0, 0xB1102841460006B0].map
      (fun w => decodeWords [w]) =
    [some (.ld 0 .i32 9 4 5 ⟨0x3FFF8, none⟩), some (.st 0 .u32 6 4 0 ⟨0x40, none⟩), some (.vld 0 .u32 2 4 0 ⟨0x100, none⟩),
      some (.vst 0 .u32 2 4 0 ⟨0x100, none⟩), some (.vgather 0 .u32 5 4 2 ⟨0, none⟩), some (.vscatter 0 .u32 3 4 2 ⟨0, none⟩),
      some (.binapp 0 .u32 3 4 2 ⟨0, none⟩), some (.pref 0 4 0 ⟨0x400, none⟩), some (.fence 0 .system 7),
      some (.amo 0 .add .u64 .wafer .rel 10 4 ⟨0x10, none⟩ 6), some (.acas 0 .u64 .wafer .acqrel 10 4 ⟨0, none⟩ 5 6)] := by
  decide +kernel

/-- R443, R376, R467, R468, R464, R465, R415, R380, R458: names, streams, barriers and launches. -/
theorem test_decode_names :
    [0xC00028C340A00000, 0xC010280000800000, 0xC03028C000010000, 0xC080300148500000, 0xC08044C180544000, 0xC0805081CA5A2600,
      0xC090000500000000, 0xC0A0000500000000, 0xC0B03401C0000000, 0xC110000000400003, 0xC120000000000003,
      0xC10000C2CA000000].map (fun w => decodeWords [w]) =
    [some (.pub 0 .wafer true 5 12 13), some (.subs 0 .wafer 5), some (.await 0 true 5 12),
      some (.strm 0 .bnd false false .tile false false false .dyn .u8 20 3 5 4),
      some (.strm 0 .ob0 true true .tile false true false .dyn .u8 21 4 6 0),
      some (.strm 0 .bnd true false .wafer false false true .rne .e4m3 22 5 7 5),
      some (.swait 0 20), some (.scancel 0 20), some (.gset 0 3 .n3 7), some (.bar 0 3), some (.barx 0 0 3),
      some (.spawn 0 10 11 12)] := by
  decide +kernel

/-- R387, R389, R414, R415, R324, R329, R472, R474, R457, R521, R471: control. -/
theorem test_decode_control :
    [0xD020000000050000, 0xD0400000000FC000, 0xD060000000000000, 0xD070000000000000, 0xD080000000000000, 0xD10000000002A000,
      0xD110200000012000, 0xD150140100000000, 0xD1300C0100000100, 0xD160000000000000, 0xD160006000000040,
      0xD170000000000000, 0xD180004000000000, 0xD180004000000100, 0xD1A00000003E8000, 0xD050FFFFFF424000].map
      (fun w => decodeWords [w]) =
    [some (.jmp 0 20), some (.ret 0 63), some (.nop 0), some (.tend 0), some (.yieldC 0), some (.trap 0 0x2A),
      some (.csrr 0 8 0x12), some (.frzinf 0 5 0 4), some (.frzrd 0 .v 3 0 4), some (.resume 0 0), some (.resumeAtPc 0 0 6),
      some (.kill 0 0), some (.tlbinv 0 4), some (.tlbinvAll 0 4), some (.sleep 0 1000), some (.loop 0 9 0xFFFFFF4)] := by
  decide +kernel

/-- An end bit that is clear belongs to a bundle that goes on (R136); a reserved class and a nonzero unused field do not decode
(R156). -/
theorem test_decode_refuses :
    decodeWords [0xF000000000000000] = none ∧ decodeWords [0xD060000000000001] = none ∧ decodeWords [0xDFF0000000000000] = none := by
  decide +kernel

/-- R142 to R154: an ill-formed term for each check of `Instr.wf` on scalar and vector syllables, which refuses it. -/
theorem test_wf_refuses_register_syllables :
    [Instr.add 0 .f32 1 2 3, .addImmediate 0 .s20 1 2 ⟨0, none⟩, .cmp 0 .f16 .eq 1 2 3, .cmp 0 .u32 .un 1 2 3,
      .cmpImmediate 0 .u32 .nun 1 2 ⟨0, none⟩, .clz 0 .f32 1 2, .popc 0 .e4m3 1 2, .bfx 0 .u32 1 2 3 4, .bfi 0 .i64 1 2 3 4,
      .fadd 0 .e4m3 .dyn 1 2 3, .ffma 0 .u32 .dyn 1 2 3 4, .fmin 0 .i8 1 2 3, .fcmp 0 .e5m2 .eq 1 2 3,
      .fcvt 0 .cb2 .f32 .dyn false false 1 2, .fcvt 0 .f32 .cb2 .dyn false false 1 2, .vadd 0 .u32 .rne 1 2 3,
      .vadd 0 .u64 .dyn 1 2 3, .vmulh 0 .f32 1 2 3, .vmin 0 .u64 1 2 3, .vand 0 .f32 1 2 3, .vfma 0 .i32 .sr 1 2 3 4,
      .vabs 0 .e4m3 1 2, .vmov 0 .u64 1 2, .vclass 0 .u32 1 2, .vrcp 0 .e5m2 .dyn 1 2, .vcmp 0 .u32 .un 1 2 3, .vcmp 0 .e4m3 .eq 1 2 3,
      .vbcast 0 .i64 1 2, .viota 0 .f32 1 2, .vred 0 .f32 .xor .dyn 1 2, .vred 0 .f32 .min .sr 1 2, .vred 0 .e4m3 .add .dyn 1 2,
      .vscan 0 .f16 .and .dyn 1 2, .vcvt 0 .u64 .f32 .dyn false false 1 2, .vcvt 0 .f32 .i64 .dyn false false 1 2,
      .vext 0 .u64 1 2 3, .vins 0 .u64 1 2 3, .vqnt 0 .f32 .dyn false false 1 2 3, .vqnt 0 .e4m3 .dyn false false 1 1 3,
      .vdqnt 0 .f16 1 2 3, .vpack 0 .f32 .f32 .dyn false false 1 2 3, .vpack 0 .e4m3 .e5m2 .dyn false false 1 2 3,
      .vunpk 0 .f32 .f32 false 1 2].all (fun i => !i.wf) = true := by
  decide +kernel

/-- The same for the syllables of the classes M, L, N and C. -/
theorem test_wf_refuses_other_syllables :
    [Instr.mma 0 .f32 .dyn 0 0 0 0, .mmacb 0 .f16 .dyn false 0 0 0 0, .ld 0 .s20 1 2 3 ⟨0, none⟩, .st 0 .cb2 1 2 3 ⟨0, none⟩,
      .vld 0 .u64 1 2 3 ⟨0, none⟩, .vst 0 .s20 1 2 3 ⟨0, none⟩, .vgather 0 .i64 1 2 3 ⟨0, none⟩, .vscatter 0 .u64 1 2 3 ⟨0, none⟩,
      .vscadd 0 .u16 1 2 3 ⟨0, none⟩, .binapp 0 .u8 1 2 3 ⟨0, none⟩, .fence 0 .tile 0, .amo 0 .add .u16 .tile .none 1 2 ⟨0, none⟩ 3,
      .amo 0 .fadd .u32 .tile .none 1 2 ⟨0, none⟩ 3, .acas 0 .u16 .tile .none 1 2 ⟨0, none⟩ 3 4,
      .strm 0 .ob0 false false .tile false false false .dyn .u8 1 2 3 0, .strm 0 .hname true false .tile false false false .dyn .u8 1 2 3 4,
      .strm 0 .hname false false .tile false false false .dyn .u8 1 2 3 0, .strm 0 .bnd false false .tile false true false .dyn .u8 1 2 3 0,
      .strm 0 .bnd false false .tile false false false .rne .u8 1 2 3 0, .strm 0 .bnd false false .tile false false true .sr .e4m3 1 2 3 0,
      .strm 0 .bnd false false .tile false false true .rne .f32 1 2 3 0, .spawn 0 5 5 6, .csrr 0 1 0x15, .csrw 0 0x7FF 1,
      .frzrd 0 .v 32 0 1, .frzwr 0 .ac 0 1 63].all (fun i => !i.wf) = true := by
  decide +kernel

/-! A state with one bundle open: a task of privilege 2 in slot 0 of tile (70, 5), and its registers before the bundle. -/

/-- The thread of the tests. -/
def thr (r : Regs) : Thread := newThread 0 .task none 2 r 0x1008 0
/-- The state with a thread's bundle of one syllable open. -/
def onT (th : Thread) (i : Instr) : State :=
  { State.reset with
    threads := [(13920, th)], nextUid := 1, cores := [(870, { Core.reset with holder := some 0 })],
    issue := { Issue.none with key := 13920, pc := 0x1000, words := encode i, src := th.regs } }
/-- The same for the thread of the tests. -/
def on (r : Regs) (i : Instr) : State := onT (thr r) i
/-- Scalar registers. -/
def sregs (l : List (Nat × Word)) : Regs := { Regs.reset with s := l.map (fun e => (e.1, ⟨e.2, false⟩)) }
/-- Vector registers whose 64 lanes are the same. -/
def vregs (l : List (Nat × BitVec 32)) : Regs :=
  { Regs.reset with v := l.map (fun e => (e.1, List.replicate 64 ⟨e.2, false⟩)) }
/-- The state that a result goes on with. -/
def out : Result → State
  | .next t => t
  | _ => State.reset
/-- Whether a result is a next state. -/
def goes : Result → Bool
  | .next _ => true
  | _ => false
theorem next_out {r : Result} (h : goes r = true) : r = .next (out r) := by
  cases r <;> simp_all [goes, out]
/-- The registers of the tests' thread after an instruction. -/
def after (r : Regs) (i : Instr) : Regs := ((issuer (out (exec i (on r i)))).map (fun t => t.regs)).getD Regs.reset

/-! Sample results of the reference entries. -/

/-- R371, R396, R424, R449, R520: the tables of sample results. -/
theorem test_scalar_samples :
    ((after (sregs [(5, 0x7F)]) (.addImmediate 0 .i8 6 5 ⟨1, none⟩)).rdS 6).val = 0xFFFFFFFFFFFFFF80 ∧
    ((after (sregs [(5, 0xFFFF1234), (7, 0x00F0)]) (.andn 0 .u16 6 5 7)).rdS 6).val = 0x1204 ∧
    ((after (sregs [(5, 17)]) (.divS 0 .u32 6 5 0)).rdS 6).val = 0xFFFFFFFF ∧
    ((after (sregs [(5, 0x80000000)]) (.divSImmediate 0 .i32 6 5 ⟨0xFFFFFF, none⟩)).rdS 6).val = 0xFFFFFFFF80000000 ∧
    ((after (sregs [(5, 0xFFFFFFFFFFFFFFF9)]) (.remImmediate 0 .i64 6 5 ⟨2, none⟩)).rdS 6).val = 0xFFFFFFFFFFFFFFFF ∧
    ((after (sregs [(5, 0x100000003), (7, 0x7FFFFFFF)]) (.mul 0 .i32 6 5 7)).rdS 6).val = 0x7FFFFFFD ∧
    ((after (sregs [(5, 0xFFFFFFFFFFFFFFFF)]) (.mulhImmediate 0 .i64 6 5 ⟨1, none⟩)).rdS 6).val = 0xFFFFFFFFFFFFFFFF ∧
    ((after (sregs [(5, 0x80)]) (.minSImmediate 0 .i8 6 5 ⟨1, none⟩)).rdS 6).val = 0xFFFFFFFFFFFFFF80 ∧
    ((after (sregs [(5, 1)]) (.shlImmediate 0 .i32 6 5 ⟨33, none⟩)).rdS 6).val = 2 ∧
    ((after (sregs [(5, 0x80)]) (.sraImmediate 0 .u8 6 5 ⟨1, none⟩)).rdS 6).val = 0xC0 ∧
    ((after (sregs [(5, 0x00FF)]) (.xorImmediate 0 .i8 6 5 ⟨0x7F, none⟩)).rdS 6).val = 0xFFFFFFFFFFFFFF80 ∧
    ((after (sregs [(5, 0xF000000000000000)]) (.bfx 0 .i64 6 5 60 8)).rdS 6).val = 0xF ∧
    ((after { Regs.reset with p := [(1, 0xA8)] } (.pcnt 0 5 1)).rdS 5).val = 3 ∧
    (after { Regs.reset with p := [(1, 0xA8)] } (.pfirst 0 2 1)).rdP 2 = 8 := by
  decide +kernel

/-- R476, R500, R519: the tables of sample results. -/
theorem test_vector_samples :
    ((after (vregs [(2, 0x3F800000)]) (.vadd 0 .f32 .dyn 3 2 2)).rdV 3).lane 63 = ⟨0x40000000, false⟩ ∧
    ((after (vregs [(1, 0xFF0F), (2, 0x0FF0)]) (.vand 0 .u32 7 1 2)).rdV 7).lane 5 = ⟨0x0F00, false⟩ ∧
    ((after (vregs [(1, 0xC0400000)]) (.vabs 0 .f32 2 1)).rdV 2).lane 0 = ⟨0x40400000, false⟩ ∧
    ((after (vregs [(1, 0x40400000), (2, 0xBF000000)]) (.vmul 0 .f32 .dyn 3 1 2)).rdV 3).lane 1 = ⟨0xBFC00000, false⟩ ∧
    ((after (vregs [(1, 0x40000000), (2, 8)]) (.vmulh 0 .i32 3 1 2)).rdV 3).lane 1 = ⟨2, false⟩ ∧
    ((after (vregs [(1, 0x80)]) (.vneg 0 .i8 2 1)).rdV 2).lane 1 = ⟨0xFFFFFF80, false⟩ ∧
    ((after (vregs [(1, 0x8000), (3, 4)]) (.vsra 0 .i16 2 1 3)).rdV 2).lane 1 = ⟨0xFFFFF800, false⟩ := by
  decide +kernel

/-- R128, R134, Table 5.1: a lane whose guard bit is 0 keeps its value; s0 discards what is written. -/
theorem test_guard_and_zero :
    ((after { vregs [(2, 1)] with p := [(1, 2)] } (.vadd 1 .u32 .dyn 2 2 2)).rdV 2).lane 0 = ⟨1, false⟩ ∧
    ((after { vregs [(2, 1)] with p := [(1, 2)] } (.vadd 1 .u32 .dyn 2 2 2)).rdV 2).lane 1 = ⟨2, false⟩ ∧
    (after (sregs [(5, 7)]) (.addImmediate 0 .i64 0 5 ⟨1, none⟩)).rdS 0 = ⟨0, false⟩ := by
  decide +kernel

/-- R474, R320: TRAP without a graph and a handler ends its thread; its next instruction is not reached. -/
theorem test_trap_unhandled : threadAt (out (step (State.reset.withFetchWord 64 0xD10000000002A000))) 13920 = none := by
  decide +kernel

/-- R371, R436: a step fetches and runs the placed word, and the pc passes it. -/
theorem test_step_runs_word :
    ((threadAt (out (step (State.reset.withFetchWord 64 0x8400000000001700))) 13920).map (fun t => t.pc)) = some 0x1008 ∧
    goes (step (State.reset.withFetchWord 64 0xD060000000000000)) = true := by
  decide +kernel

/-! Witnesses: for each statement with hypotheses, a state and operands that meet them together. -/

/-- A command of engine 1 that stays in its queue. -/
def queued : Cmd :=
  { uid := 9, graph := 0, priv := 2, eng := 1, seq := 0, port := .bnd, out := true, scp := 0, cons := false, cv := false, mode := 0, ty := .u8,
    pat := 0, ext := [], who := ⟨0, 0, 0, 0, 870⟩, sa := 0x2000, poison := false,
    name := 0, named := false, ord := 0, after := [], running := false, next := 0, pfx := 0, ahead := [], recount := [], chunks := [], seen := 0, steps := 0, cyc := 0,
    held := none, cancelled := false, stopped := false, src := none, srcBad := false, anyBad := false }

/-- StepRunsTheDecodedInstruction, for bundles of one syllable and of two: ADD, alone and before NOP, goes on; TRAP freezes, and after
MSHAPE, which still waits, does so unchecked; SLEEP waits; STRM wants an entry of a full queue. -/
theorem witness_StepRunsTheDecodedInstruction :
    ∀ x ∈ [([(0x80001851C0050000 : Word)], 0, [Flow.go], [false], [Flow.go]), ([0xD10000000002A000], 0, [.freeze], [false], []),
      ([0xD1A00000003E8000], 0, [.wait], [false], []), ([0x00001851C0050000, 0xD060000000000000], 0, [.go, .go], [false, false], [.go, .go]),
      ([0x205000A000C00000, 0xD10000000002A000], 0, [.wait, .freeze], [false, false], []),
      ([0xC08035C1061EC000], 8, [.wait], [true], [])],
      let s := updCore (placeWords State.reset x.1) 870 (fun c => { c with eng1 := List.replicate x.2.1 queued })
      let th := placedThread 0
      let u := tick { s with sched := [] } 870
      let y := yielded { s with sched := [] } 870
      let v := updCore (passedOver (readyOn u 870) 13920 u) 870 (fun c => { c with last := put (issueLevel th) (slotOf 13920) c.last })
      s.sched = [.issueCycle 870] ∧ (isSite 870 = true ∧ getD false (bayOf 870) s.gated = false) ∧ suppressed u 870 = false ∧
      selected (coreAt u 870) (readyOn u 870) = some (13920, th, .go) ∧
      ¬(coreAt u 870).cyc < (coreAt u 870).portFree ∧ holdsL u 13920 th = false ∧ fetchStalls u 13920 th = none ∧
      let is := instrsOf x.1
      nextBundle v 13920 th = some (x.1, .ok is) ∧ is.length = x.1.length ∧
        let f := noteAhead (fetchFound v 13920 th x.1.length (is.any (fun e => snapshots e.2))) th (bundlePas 13920 th x.1.length)
        let o := yieldsOver y (openWords f 13920 th x.1 is none (keep v 13920 th is) (some (threadsOn (yieldsOver y u) 870, (coreAt u 870).last)))
        let o := { o with issue := { o.issue with todo := [] } }
        let run (c : State) (e : Nat × Instr) : Result := exec e.2 { c with issue := { c.issue with src := th.regs, idx := e.1, flow := .go } }
        (∀ e ∈ is, goes (run o e) = true) ∧ is.map (fun e => (out (run o e)).issue.flow) = x.2.2.1 ∧
        is.map (fun e => (threadAt (out (run o e)) 13920).any (fun t => t.status == .waiting .operand)) = x.2.2.2.1 ∧
        (is.foldl (fun (c : State × List Flow) e => let r := out (run c.1 e); (r, c.2 ++ [r.issue.flow])) (o, [])).2.take x.2.2.2.2.length = x.2.2.2.2 ∧
        is.filter (fun e => wordCls (nth 0 x.1 e.1) == 5) = is.filter (fun e => isControl o e) := by
  decide +kernel

/-- The syllable that still waits before TRAP is one whose checks are to come. -/
theorem witness_StepRunsTheDecodedInstruction_unchecked :
    instrsOf [0x205000A000C00000, 0xD10000000002A000] = [(0, .mshape 0 5 6 0), (1, .trap 0 42)] ∧ checks (.mshape 0 5 6 0) = true ∧
    isMultiply (.trap 0 42) = false := by
  decide +kernel

/-- DecodeOfEncode. -/
theorem witness_DecodeOfEncode : (Instr.addImmediate 0 .i32 6 5 ⟨5, some 7⟩).wf = true ∧
    encodeSyl (.addImmediate 0 .i32 6 5 ⟨5, some 7⟩) ≠ none := by
  decide +kernel

/-- StepKeepsMemoryForm. -/
theorem witness_StepKeepsMemoryForm : (State.reset.withFetchWord 64 0xD060000000000000).inv = true ∧
    goes (step (State.reset.withFetchWord 64 0xD060000000000000)) = true := by
  decide +kernel

/-- A true guard: p0. -/
theorem runs (r : Regs) (i : Instr) : Runs (on r i) (thr r) 0 := ⟨rfl, by simp [rdP, Regs.rdP]⟩
/-- A guard that enables every lane: p0. -/
theorem runsV (r : Regs) (i : Instr) : RunsV (on r i) (thr r) 0 := ⟨rfl, by simp [rdP, Regs.rdP]⟩

/-- IntegerArithmetic, BitwiseForms, Shifts, DivideAndRemainder, CompareSelectLimm, BitCountsAndFields, PredicateOperations,
ScalarFloat: a bundle whose guard is true, and a type of each kind. -/
theorem witness_scalar_syllables : Runs (on Regs.reset (.nop 0)) (thr Regs.reset) 0 ∧ Ty.i8.isInt = true ∧ Ty.u64.isInt = true ∧
    tyIn 0x1C00 Ty.f32.code = true ∧ tyIn 0x1C00 Ty.f16.code = true ∧ tyIn 0x1C00 Ty.bf16.code = true :=
  ⟨runs _ _, by decide +kernel⟩

/-- FalseGuardDoesNothing: p1 = 0 for a scalar and for a vector syllable; p1 = 2, whose bit 0 is 0, for a scalar one. -/
theorem witness_FalseGuardDoesNothing :
    issuer (on Regs.reset (.nop 1)) = some (thr Regs.reset) ∧
    (encodeSyl (.add 1 .i32 6 5 7)).map (fun e => e.g) = some 1 ∧ byLanes (.add 1 .i32 6 5 7) = false ∧
    (rdP (on Regs.reset (.nop 1)) 1).getLsbD 0 = false ∧
    (rdP (on { Regs.reset with p := [(1, 2)] } (.nop 1)) 1).getLsbD 0 = false ∧
    byLanes (.vadd 1 .u32 .dyn 1 2 3) = true ∧ byLanes (.vld 1 .u32 1 2 3 ⟨0, none⟩) = true ∧ rdP (on Regs.reset (.nop 1)) 1 = 0 := by
  decide +kernel

/-- RegisterSyllablesKeepTheRest: a syllable that sets a flag, and one that draws random bits. -/
theorem witness_RegisterSyllablesKeepTheRest :
    ∀ i ∈ [Instr.fadd 0 .f32 .dyn 6 5 7, .vadd 0 .f32 .sr 1 2 3, .pnot 0 1 2],
      onRegisters i = true ∧ issuer (on Regs.reset i) = some (thr Regs.reset) ∧ (on Regs.reset i).issue.flow = .go ∧
      goes (exec i (on Regs.reset i)) = true ∧ (out (exec i (on Regs.reset i))).issue.flow = .go := by
  decide +kernel

/-- FloatSpecialValues: a NaN, infinities of both signs, a zero and a number, in FP32 and in FP16. -/
theorem witness_FloatSpecialValues :
    (tyFmt .f32).value 0x7FC00000 = .nan ∧ (tyFmt .f32).value 0x7F800000 = .inf false ∧ (tyFmt .f32).value 0xFF800000 = .inf true ∧
    (tyFmt .f16).value 0x7C00 = .inf false ∧ (tyFmt .f16).value 0xFC00 = .inf (!false) ∧
    (match (tyFmt .f32).value 0x80000000 with | .num _ m _ => m | _ => 1) = 0 ∧ (tyFmt .f32).value 0x3F800000 ≠ .nan := by
  decide +kernel

/-- VectorIntegerLanes, VectorUnaryAndCompare, VectorFloatLanes, VectorMoves, VectorReduce: some lane enabled, and a type of each
kind; lane 63 enabled and not, and one lane enabled alone. -/
theorem witness_vector_syllables : RunsV (on Regs.reset (.nop 0)) (thr Regs.reset) 0 ∧
    (∀ ty ∈ [Ty.u8, .i8, .u16, .i16, .u32, .i32], ty.isInt = true ∧ ty.bits ≤ 32) ∧
    (∀ ty ∈ [Ty.f16, .bf16, .f32], tyIn 0x1C00 ty.code = true) ∧
    (let r := { sregs [(5, 63), (6, 0)] with p := [(1, 1#64 <<< 63)] }
     let s := on r (.nop 0)
     issuer s = some (thr r) ∧ rdP s 1 ≠ 0 ∧ (rdP s 1).getLsbD ((rdS s 5).val.toNat % 64) = true ∧
     (rdP s 1).getLsbD ((rdS s 6).val.toNat % 64) = false ∧ lanesOn (rdP s 1) = [63] ∧ (rdV s 3).length = 64) :=
  ⟨runsV _ _, by decide +kernel⟩

/-- VectorConversions: both widths of VPACK, lanes within its result and past it, a writable table with no access to it left, an
error in it, two registers that differ, and a lane of each half. -/
theorem witness_VectorConversions : RunsV (on Regs.reset (.nop 0)) (thr Regs.reset) 0 ∧
    lineBad { on Regs.reset (.nop 0) with struck := [(0, .line 5)] } 320 = true ∧ Ty.e4m3.bits = 8 ∧ Ty.f16.bits = 16 ∧ (127 < 32 / Ty.e4m3.bits * 32 ∧ 32 / Ty.e4m3.bits * 31 ≤ 127) ∧
    (readHeld (on Regs.reset (.nop 0)) (thr Regs.reset) = false ∧ ∀ i ∈ lanesOn (rdP (on Regs.reset (.nop 0)) 0),
      accessOver (on Regs.reset (.nop 0)) 0 (entryPa 870 (((rdV (on Regs.reset (.nop 0)) 1).lane i).val.toNat % 65536 / 256)) 2 = false) ∧
    (1 : VReg) ≠ 2 ∧ 1 < (rdV (on Regs.reset (.nop 0)) 1).length :=
  ⟨runsV _ _, by decide +kernel⟩

/-! The matrix unit. -/

/-- A shape record of one row, one column and one term (Table 9.3). -/
def shape1 : Shape := ⟨BitVec.ofNat 128 (1 + 1 * 2 ^ 16 + 1 * 2 ^ 32 + 1 * 2 ^ 48 + 1 * 2 ^ 56 + 1 * 2 ^ 64), true⟩
/-- One of 128 terms, for MMACB. -/
def shape128 : Shape := ⟨BitVec.ofNat 128 (1 + 1 * 2 ^ 16 + 128 * 2 ^ 32 + 1 * 2 ^ 48 + 1 * 2 ^ 56 + 128 * 2 ^ 64), true⟩
/-- An operation in the queue. -/
def mop (kind : MKind) (started consumed : Bool) : MOp :=
  { uid := 0, ord := 0, kind := kind, ac := 0, shape := shape1.bits, mode := 0, entry := 0, started := started, consumed := consumed,
    sums := if consumed then [(0, [0])] else [], read := [], wrote := [], olds := [] }
/-- A machine whose tile (70, 5) has one operation in its queue. -/
def withOp (o : MOp) : State :=
  let s := on Regs.reset (.nop 0)
  { s with cores := [(870, { Core.reset with holder := some 0, mq := [o], mqOrd := 1 })] }

/-- MatrixSyllablesQueue: shapes that pass the checks of MMA and of MMACB, and a table that is read now. -/
theorem witness_MatrixSyllablesQueue :
    Runs (on { Regs.reset with sh := [(1, shape1), (2, shape128)] } (.nop 0)) (thr { Regs.reset with sh := [(1, shape1), (2, shape128)] }) 0 ∧
    shapeCheck ((on { Regs.reset with sh := [(1, shape1), (2, shape128)] } (.nop 0)).issue.src.rdSh 1) .f16 false = none ∧
    shapeCheck ((on { Regs.reset with sh := [(1, shape1), (2, shape128)] } (.nop 0)).issue.src.rdSh 2) .e4m3 true = none ∧
    (on Regs.reset (.nop 0)).issue.table = none :=
  ⟨runs _ _, by decide +kernel⟩

/-- MatrixUnitSteps: a gated bay and an awake one; an operation that can start, one whose operands are to be consumed, one to read a row, an
MRD that reads its first row and its second, the two that write one, and shape records with scales and without. -/
theorem witness_MatrixUnitSteps :
    let mma := MKind.mma .f16 0 1
    (asleep { withOp (mop mma false false) with gated := [(bayOf 870, true)] } 870 = true ∧ asleep (withOp (mop mma false false)) 870 = false) ∧
    startable (coreAt (withOp (mop mma false false)) 870) = some (mop mma false false) ∧
    MOp.ended { mop mma false false with started := true } = false ∧
    (coreAt (withOp (mop mma true false)) 870).mq.find? (fun p => p.started && p.array && !p.consumed) = some (mop mma true false) ∧
    MOp.ended { mop mma true false with consumed := true } = false ∧
    splitAtFirst (fun p => p.open_ && p.toRead 0) (coreAt (withOp (mop mma true true)) 870).mq = some ([], mop mma true true) ∧
    rowBusy [] 0 0 false = false ∧ MOp.ended { mop mma true true with read := [(0, accRow)] } = false ∧
    (let o := { mop mma true true with read := [(0, accRow)] }
     splitAtFirst (fun p => p.open_ && p.toWrite 0) (coreAt (withOp o) 870).mq = some ([], o) ∧
     (keyOfUid (withOp o) o.uid = some 13920 ∧ threadAt (withOp o) 13920 = some (thr Regs.reset) ∧ (thr Regs.reset).dying = false) ∧
     (rowValue o (coreAt (withOp o) 870) 0).isSome = true ∧
     o.array = true ∧ find 0 o.read = some accRow ∧ find 0 o.sums = some [0] ∧ o.kind = mma) ∧
    (∀ x ∈ [([] : Map (List Lane)), [(1, accRow)]],
      let o := { mop (.mrd 3 0 false) true false with read := x }
      splitAtFirst (fun p => p.open_ && p.toRead 0) (coreAt (withOp o) 870).mq = some ([], o) ∧ rowBusy [] o.ac 0 false = false ∧
      keyOfUid (withOp o) o.uid = some 13920 ∧ threadAt (withOp o) 13920 = some (thr Regs.reset) ∧
      (find 1 o.read = none) = (x = [])) ∧
    (let o := mop .mzero true false
     splitAtFirst (fun p => p.open_ && p.toWrite 31) (coreAt (withOp o) 870).mq = some ([], o) ∧
     keyOfUid (withOp o) o.uid = some 13920 ∧ ∀ m ∈ List.range 32, rowBusy [] o.ac m true = false) ∧
    ((shSca shape1.bits = false ∧ shScb shape1.bits = false) ∧ shSca (1#128 <<< 90) = true) := by
  decide +kernel

/-! Memory. -/

/-- The registers of the memory witnesses: s4 the address 0x2000, s6 a poisoned address, s7 a misaligned one. -/
def mregs (psink : Bool) : Regs :=
  { Regs.reset with s := [(4, ⟨0x2000, false⟩), (6, ⟨0x2000, true⟩), (7, ⟨0x2001, false⟩)], psink := psink }
/-- Where 0x2000 lies. -/
def at2000 : Nat × Nat × Path := (0x2000, 0x3A000000000 + 870 * 0x400000 + 0x2000, .own)
/-- The state of the memory witnesses. -/
def mem0 (psink : Bool) : State := on (mregs psink) (.nop 0)

/-- An access in flight with one element. -/
def accOf (k : AccKind) (dst : Dst) (e : Elem) : Access :=
  { id := 0, uid := 0, tile := 870, kind := k, ty := .u32, dst := dst, poison := false, elems := [e], scp := 0, acq := false,
    rel := false, ctx := 0, who := ⟨0, 0, 0, 0, 870⟩, psink := true, miss := false, leaves := [], serves := none, ahead := [] }
/-- The machine with it. -/
def flying (a : Access) : State := { mem0 true with inflight := [a], nextAcc := 1 }
/-- The first byte of the slice of tile (70, 5). -/
def slice870 : Nat := 0x020000000000 + 870 * 0x4000000
/-- An element of four bytes. -/
def elem4 (pa : Nat) (p : Path) (mask : List Bool) : Elem := mkElem [0] (0x2000, pa, p) 4 0xAABBCCDD 0 mask

/-- LoadsEnterFlight: a load, a vector load at consecutive addresses, a gather at one address, and a shape record that is not asked for
yet, that is on its way, and that has come. -/
theorem witness_LoadsEnterFlight : Runs (mem0 true) (thr (mregs true)) 0 ∧ RunsV (mem0 true) (thr (mregs true)) 0 ∧
    Accepted (mem0 true) (thr (mregs true)) needRd anyPath 4 [0x2000] (mem0 true) [at2000] ∧
    Accepted (mem0 true) (thr (mregs true)) needRd anyPath 1
      ((lanesOn (rdP (mem0 true) 0)).map (fun i => ((rdS (mem0 true) 4).val.toNat + (rdS (mem0 true) 0).val.toNat + 0 + i * 1) % 2 ^ 53))
      (mem0 true) ((List.range 64).map (fun i => (0x2000 + i, at2000.2.1 + i, .own))) ∧
    Accepted (mem0 true) (thr (mregs true)) needRd anyPath 4
      ((lanesOn (rdP (mem0 true) 0)).map (fun i => ((rdS (mem0 true) 4).val.toNat + ((rdV (mem0 true) 3).lane i).val.toNat + 0) % 2 ^ 53))
      (mem0 true) (List.replicate 64 at2000) ∧
    Accepted (mem0 true) (thr (mregs true)) needRd anyPath 16 [((rdS (mem0 true) 4).val + (0 : Off12).signExtend 64).toNat % 2 ^ 53]
      (mem0 true) [at2000] ∧
    storesOver (mem0 true) 0 none at2000.2.1 16 = false ∧
    (find 1 (mem0 true).issue.shapes = none ∧ shapeComing (mem0 true) 0 1 = false) ∧
    (let s := { mem0 true with inflight := [accOf .load (.sh 1) (elem4 at2000.2.1 .own [])] }
     find 1 s.issue.shapes = none ∧ shapeComing s 0 1 = true ∧ issuer s = some (thr (mregs true))) ∧
    (let s := { mem0 true with issue := { (mem0 true).issue with shapes := [(1, shape1)] } }
     find 1 s.issue.shapes = some shape1 ∧ find 2 s.issue.shapes = none ∧ issuer s = some (thr (mregs true))) :=
  ⟨runs _ _, runsV _ _, by unfold Accepted; decide +kernel⟩

/-- StoresEnterFlight: clean data, and a poisoned address with each value of psink. -/
theorem witness_StoresEnterFlight :
    (∀ b, Runs (mem0 b) (thr (mregs b)) 0 ∧ RunsV (mem0 b) (thr (mregs b)) 0 ∧ (mem0 b).issue.src.psink = b) ∧
    (∀ a ∈ [(4 : SReg), 6], ∀ b ∈ [true, false], checkAddrs (spaceOf (mem0 b) 13920 (thr (mregs b))) needWr anyPath 4
      [((rdS (mem0 b) a).val.toNat + 0) % 2 ^ 53] (mem0 b) = (mem0 b, .ok [at2000])) ∧
    Accepted (mem0 true) (thr (mregs true)) needWr anyPath 4 [0x2000] (mem0 true) [at2000] ∧
    ((rdS (mem0 true) 0).poison || (rdS (mem0 true) 4).poison || (rdS (mem0 true) 0).poison) = false ∧
    ((rdS (mem0 true) 0).poison || (rdS (mem0 true) 6).poison || (rdS (mem0 true) 0).poison) = true ∧
    (∀ i ∈ lanesOn (rdP (mem0 true) 0), ((rdV (mem0 true) 1).lane i).poison = false) ∧
    Accepted (mem0 true) (thr (mregs true)) needWr anyPath 4
      ((lanesOn (rdP (mem0 true) 0)).map (fun i => ((rdS (mem0 true) 4).val.toNat + ((rdV (mem0 true) 3).lane i).val.toNat + 0) % 2 ^ 53))
      (mem0 true) (List.replicate 64 at2000) :=
  ⟨fun b => ⟨runs _ _, runsV _ _, rfl⟩, by unfold Accepted; decide +kernel⟩

/-- MisalignedAccessesFreeze: one byte past an aligned address, for a scalar access and for lane 0 of a vector one. -/
theorem witness_MisalignedAccessesFreeze : Runs (mem0 true) (thr (mregs true)) 0 ∧ RunsV (mem0 true) (thr (mregs true)) 0 ∧
    (lanesOn (rdP (mem0 true) 0)).head? = some 0 ∧
    (∀ n ∈ [2, 4, 64], ((rdS (mem0 true) 7).val.toNat + (rdS (mem0 true) 0).val.toNat + 0 + 0 * 2) % 2 ^ 53 % n ≠ 0 ∧
      ((rdS (mem0 true) 7).val.toNat + ((rdV (mem0 true) 3).lane 0).val.toNat + 0) % 2 ^ 53 % n ≠ 0) ∧
    ((rdS (mem0 true) 7).val.toNat + 0) % 2 ^ 53 % (Ty.u16.bits / 8) ≠ 0 ∧ ((rdS (mem0 true) 7).val.toNat + 0) % 2 ^ 53 % 64 ≠ 0 ∧
    ((rdS (mem0 true) 7).val + (0 : Off12).signExtend 64).toNat % 2 ^ 53 % 16 ≠ 0 ∧
    find 1 (mem0 true).issue.shapes = none ∧ shapeComing (mem0 true) 0 1 = false :=
  ⟨runs _ _, runsV _ _, by decide +kernel⟩

/-- A bin table of one cell at 0x2000: ncell 1, cap 1, counts at 64, bins at 68, one overflow entry at 72 (Table 10.4). -/
def binTable (s : State) : State :=
  [(0, 1), (8, 1), (12, 64), (16, 68), (20, 72), (24, 1)].foldl (fun s e => writeLe s (at2000.2.1 + e.1) 4 e.2) s

/-- AtomicsEnterFlight: clean operands, a poisoned one with psink 0, lanes with one address, and a bin table that passes its
checks. -/
theorem witness_AtomicsEnterFlight : Runs (mem0 true) (thr (mregs true)) 0 ∧ Runs (mem0 false) (thr (mregs false)) 0 ∧
    RunsV (mem0 true) (thr (mregs true)) 0 ∧
    (rdS (mem0 true) 4).poison = false ∧ (rdS (mem0 true) 0).poison = false ∧ ((rdS (mem0 false) 6).poison || false) = true ∧
    (mem0 false).issue.src.psink = false ∧
    Accepted (mem0 true) (thr (mregs true)) ⟨true, true, true, hostCap (.amo .add) .u32⟩ (atomicCarried (.amo .add) .u32) 4
      [((rdS (mem0 true) 4).val.toNat + 0) % 2 ^ 53] (mem0 true) [at2000] ∧
    Accepted (mem0 false) (thr (mregs false)) ⟨true, true, true, hostCap (.amo .add) .u32⟩ (atomicCarried (.amo .add) .u32) 4
      [((rdS (mem0 false) 6).val.toNat + 0) % 2 ^ 53] (mem0 false) [at2000] ∧
    Accepted (mem0 true) (thr (mregs true)) ⟨true, true, true, hostCap .cas .u64⟩ (atomicCarried .cas .u64) 8
      [((rdS (mem0 true) 4).val.toNat + 0) % 2 ^ 53] (mem0 true) [at2000] ∧
    (∀ i ∈ lanesOn (rdP (mem0 true) 0), ((rdV (mem0 true) 1).lane i).poison = false ∧ ((rdV (mem0 true) 3).lane i).poison = false) ∧
    Accepted (mem0 true) (thr (mregs true)) ⟨true, true, true, none⟩ (fun p => p != .host) 4
      ((lanesOn (rdP (mem0 true) 0)).map (fun i => ((rdS (mem0 true) 4).val.toNat + ((rdV (mem0 true) 3).lane i).val.toNat + 0) % 2 ^ 53))
      (mem0 true) (List.replicate 64 at2000) ∧
    Accepted (binTable (mem0 true)) (thr (mregs true)) ⟨true, true, true, none⟩ (fun p => p == .own || p == .view) 64
      [((rdS (mem0 true) 4).val.toNat + 0) % 2 ^ 53] (binTable (mem0 true)) [at2000] ∧
    readHeld (binTable (mem0 true)) (thr (mregs true)) = false ∧ storesOver (binTable (mem0 true)) 0 (some .own) at2000.2.1 64 = false ∧
    binCheck (binTable (mem0 true)) 0x2000 at2000.2.1 = none ∧ issuer (binTable (mem0 true)) = some (thr (mregs true)) ∧
    ((rdS (mem0 true) 4).val.toNat + 0) % 2 ^ 53 < 0x2000000 := by
  unfold Accepted
  refine ⟨runs _ _, runs _ _, runsV _ _, ?_, ?_, ?_, ?_, ?_, ?_, ?_, ?_, ?_, ?_, ?_⟩ <;> decide +kernel

/-- AccessesTakeEffect: routes, an awake bay; a load and stores with each mask at a slice, and a load and a store at a bank of a scratchpad. -/
theorem witness_AccessesTakeEffect :
    (∀ x ∈ [(AccKind.load, ([] : List Bool)), (.store, List.replicate 4 true), (.store, List.replicate 4 false)],
      let e := elem4 slice870 .bonded x.2
      let a := accOf x.1 (if x.1 = .load then .s 5 else .none) e
      let s := flying a
      accAt s 0 = some a ∧ a.elems[0]? = some e ∧ elemReady s a e = true ∧ plain a = true ∧ e.path = .bonded ∧
        stackFailed s e.pa = false ∧ (requestRoute s a.tile e.path e.pa).isSome = true ∧ (answerRoute s a.tile e.path e.pa).isSome = true) ∧
    (∀ x ∈ [(AccKind.load, ([] : List Bool)), (.store, List.replicate 4 true)],
      let a := accOf x.1 .none (elem4 at2000.2.1 .own x.2)
      let s := flying a
      asleep s 870 = false ∧ nextRequest s 870 (bankOf at2000.2.1) = some (1, .word a (at2000.2.1 / 8)) ∧ accAt s a.id = some a ∧
        ∀ e ∈ a.elems, (requestRoute s a.tile e.path e.pa).isSome = true ∧ (answerRoute s a.tile e.path e.pa).isSome = true) := by
  decide +kernel

/-- VectorConversions: an earlier access to the writable table that is not done, and an acquire. -/
theorem witness_VectorConversions_waits :
    (let s := flying (accOf .load (.s 5) (elem4 (entryPa 870 0) .own []))
     accessOver { s with issue := { s.issue with acc0 := 1 } } 0 (entryPa 870 0) 2 = true) ∧
    readHeld (flying { accOf (.amo .add) (.s 5) (elem4 slice870 .bonded [true]) with acq := true }) (thr (mregs true)) = true := by
  decide +kernel

/-- ReadModifyWrites, BinResetClearsCounts: each kind at a slice, with a return register and without one, and in the own scratchpad,
as the next request of its bank. -/
theorem witness_ReadModifyWrites :
    (∀ k ∈ [AccKind.amo .add, .binrst 0x2000 1 64],
      let e := elem4 at2000.2.1 .own [true]
      let a := accOf k .none e
      let s := flying a
      accAt s 0 = some a ∧ a.elems[0]? = some e ∧ elemReady s a e = true ∧ plain a = false ∧ e.path.remote = false ∧
        stackFailed s e.pa = false ∧ e.path.pad = true ∧ asleep s (padOwner e.pa) = false ∧ hasTurn s a e = true ∧
        (requestRoute s a.tile e.path e.pa).isSome = true ∧ (answerRoute s a.tile e.path e.pa).isSome = true) ∧
    ∀ k ∈ [AccKind.amo .add, .cas, .scadd, .binapp 0x2000 1 1 64 68 72 1, .binrst 0x2000 1 64],
      let e := elem4 slice870 .bonded [true]
      let a := accOf k (if k = .cas || k = .amo .add then .s 5 else .none) e
      let s := flying a
      accAt s 0 = some a ∧ a.elems[0]? = some e ∧ elemReady s a e = true ∧ plain a = false ∧ e.path.remote = false ∧
        stackFailed s e.pa = false ∧ nth false e.mask 0 = true ∧ longAccess a = true ∧ e.path.pad = false ∧
        (requestRoute s a.tile e.path e.pa).isSome = true ∧ (answerRoute s a.tile e.path e.pa).isSome = true := by
  decide +kernel

/-- ResponsesWriteRegisters: a load whose elements are done, of a slice and of the own scratchpad, for each destination; one for a
vector register has two elements of a lane each. -/
theorem witness_ResponsesWriteRegisters :
    (∀ x ∈ [(slice870, Path.bonded), (at2000.2.1, .own)], ∀ d ∈ [Dst.s 5, .sh 1, .payload, .none],
    let a := accOf .load d { elem4 x.1 x.2 [] with done := true, got := 7 }
    accAt (flying a) (0 / 64) = some a ∧ answerable (flying a) a = true ∧ keyOfUid (flying a) a.uid = some 13920 ∧
    threadAt (flying a) 13920 = some (thr (mregs true))) ∧
    (let e (i : Nat) : Elem := { mkElem [i] (0x2000, at2000.2.1 + 4 * i, .own) 4 0 0 [] with done := true, got := 7 }
     let a := { accOf .load (.v 3) (e 0) with elems := [e 0, e 63] }
     accAt (flying a) (0 / 64) = some a ∧ answerable (flying a) a = true ∧ keyOfUid (flying a) a.uid = some 13920 ∧
     ((thr (mregs true)).regs.rdV 3).length = 64 ∧ a.elems.Pairwise (fun e f => ∀ i ∈ e.lanes, i ∉ f.lanes)) := by
  decide +kernel

/-! Names, streams, barriers and launches. -/

/-- A thread with some scalar registers, a privilege and dynamic subscriptions. -/
def user (l : List (Nat × Word)) (priv : Nat) (dyn : List DynSub) : Thread :=
  { newThread 0 .task (some 0) priv (sregs l) 0x1008 0 with dyn := dyn }
/-- The state of a thread, with its graph. -/
def inGraph (th : Thread) (g : Graph) : State := { onT th (.nop 0) with graphs := [(0, g)] }
/-- A graph whose image declares a name clean and binds a handler to TRAPSW. -/
def graph0 : Graph :=
  { launch := 0, parent := none, depth := 1, prio := 0, grace := 16, part := none, root := 0, record := [], host := none,
    image := some { tensors := [], names := [⟨7, true, none⟩], shapes := [], handlers := [⟨12, 0x4000, 8, 0, 0, []⟩], stages := [⟨0, 0, []⟩], tmpls := [] },
    stage := 0, running := true, ending := none, barred := [], placed := [], earlier := [], firedIds := [], exitsDone := [], admitted := 0, runsum := 0, maxrun := 0,
    ninst := 0 }
/-- A publication of a name. -/
def pubOf (n : Name) (data : List Byte) : Pub :=
  { name := n, nsub := 1, sv := false, splane := 0, pmap := 0, rel := false, clean := false, wp := false, scope := 2, fmt := 0,
    data := data }

theorem runsT (th : Thread) (i : Instr) : Runs (onT th i) th 0 := ⟨rfl, by simp [rdP, Regs.rdP]⟩

/-- NamesPublishAndSubscribe, PUB: names that a task may not publish (tensor 0xFF0000, planes 2 to 4), the last one that it may, a
payload of 16,384 bytes that ends with the scratchpad, which is not asked for yet, is on its way, and has come, no payload, and a clean
name with a poisoned block. -/
theorem witness_NamesPublishAndSubscribe_PUB :
    (∀ x ∈ [((0xFF0000 : Nat), (0 : Nat)), (1, 2), (1, 3), (1, 4)],
      let th := user [(10, BitVec.ofNat 64 x.2), (11, BitVec.ofNat 64 (256 * x.1))] 0 []
      let n := pairName (onT th (.nop 0)) th 5
      th.priv < 2 ∧ ¬(nameTid n < 0xFF0000 ∧ namePlane n ≠ 3 ∧ namePlane n ≠ 4 ∧ namePlane n ≠ 2)) ∧
    (let th := user [(10, 1), (11, 0xFEFFFF00), (12, 0xFC000), (13, 16384)] 0 []
     let s := onT th (.nop 0)
     let n := pairName s th 5
     nameTid n = 0xFEFFFF ∧ namePlane n = 1 ∧ (rdS s 12).val.toNat % 8 = 0 ∧ (rdS s 13).val.toNat ≤ 16384 ∧
      (rdS s 12).val.toNat < padSize s.tile ∧ (rdS s 12).val.toNat + (rdS s 13).val.toNat ≤ padSize s.tile ∧
      s.issue.payload = none ∧ payloadComing s 0 = false ∧ storesOver s 0 none (padBase s.tile + 0xFC000) 16384 = false ∧
      payloadComing { s with inflight := [accOf .load .payload (elem4 (padBase s.tile + 0xFC000) .own [])] } 0 = true ∧
      (rdS s 0).val.toNat = 0 ∧ (pubMake s n .wafer false [] (pubMap [] false)).clean = false) ∧
    (∀ b ∈ [true, false], let th := { user [] 0 [] with regs := { Regs.reset with
        s := [(11, ⟨0x700, false⟩), (12, ⟨0x2000, false⟩), (13, ⟨8, true⟩)], psink := b } }
     let s := inGraph th graph0
     let s := { s with issue := { s.issue with payload := some (List.replicate 8 0, List.replicate 8 false) } }
     let p := pubMake s (pairName s th 5) .wafer false (List.replicate 8 0) (pubMap (List.replicate 8 false)
       ((rdS s 10).poison || (rdS s 11).poison || (rdS s 13).poison))
     issuer s = some th ∧ p.clean = true ∧ p.pmap ≠ 0 ∧ s.issue.src.psink = b) := by
  decide +kernel

/-- NamesPublishAndSubscribe, the others: a subscription held and not held, 15 and 16 of them, with its publication and without, and one
that failed; a buffer that is misaligned, one that passes the end, and an access that the copy follows. -/
theorem witness_NamesPublishAndSubscribe_SUBS :
    let sub (got : Option Pub) : DynSub := ⟨0x700 <<< 64, 0, 2, got, false⟩
    let q := pubOf (0x700 <<< 64) [1, 2]
    (let s := onT (user [(12, 0x2001), (13, 0xFC000)] 2 []) (.nop 0)
     (rdS s 12).val.toNat % 32 ≠ 0 ∧ (rdS s 13).val.toNat % 32 = 0 ∧ padSize s.tile < (rdS s 13).val.toNat + 16416 ∧
      goes (exec (.subs 0 .wafer 5) s) = true ∧ ({ sub none with bad := true } : DynSub).bad = true) ∧
    (let th := user [(11, 0x700), (12, 0x2000)] 2 [sub none]
     let s := onT th (.nop 0)
     (∃ d ∈ th.dyn, d.name = pairName s th 5) ∧ th.dyn.find? (fun d => d.name == pairName s th 5) = some (sub none) ∧
      (sub none).bad = false ∧ (sub none).got = none ∧ (rdS s 12).val.toNat % 32 = 0 ∧ (rdS s 12).val.toNat + 16416 ≤ padSize s.tile) ∧
    (let th := user [(11, 0x700), (12, 0xFBFE0)] 2 [sub (some q)]
     let s := onT th (.nop 0)
     th.dyn.find? (fun d => d.name == pairName s th 5) = some (sub (some q)) ∧ (sub (some q)).got = some q ∧
      readHeld s th = false ∧ readHeld { s with inflight := [{ accOf .cas .none (elem4 slice870 .bonded [true]) with acq := true }] } th = true ∧
      (q.wp && !true && !th.pass) = false ∧ q.data.length ≤ 16384 ∧ ({ q with wp := true }.wp && !false && !th.pass) = true ∧
      (rdS s 12).val.toNat % 32 = 0 ∧ (rdS s 12).val.toNat + 16416 = padSize s.tile) ∧
    (∀ n ∈ [(15 : Nat), 16], let th := user [] 2 (List.replicate n (sub none))
      (∀ d ∈ th.dyn, d.name ≠ pairName (onT th (.nop 0)) th 5) ∧ th.dyn.length = n) := by
  decide +kernel

/-- A stream command of the tests' thread: one element of a byte. -/
def cmd (e : Nat) : Cmd :=
  { uid := 0, graph := 0, priv := 2, eng := e, seq := 0, port := .bnd, out := true, scp := 0, cons := false, cv := false, mode := 0, ty := .u8,
    pat := BitVec.ofNat 256 (slice870 + (1 + 2 ^ 16 + 2 ^ 32 + 2 ^ 48) * 2 ^ 64), ext := [], who := ⟨0, 0, 0, 0, 870⟩, sa := 0x2000, poison := false,
    name := 0, named := false, ord := 0, after := [], running := false, next := 0, pfx := 0, ahead := [], recount := [], chunks := [], seen := 0, steps := 0, cyc := 0,
    held := none, cancelled := false, stopped := false, src := none, srcBad := false, anyBad := false }
/-- The machine with commands in engine 0 of tile (70, 5). -/
def withCmds (l : List Cmd) : State :=
  let s := on (sregs [(4, 0xFFFFF), (7, 1)]) (.nop 0)
  { s with cores := [(870, { Core.reset with holder := some 0, eng0 := l, mqOrd := 1 })] }

/-- StreamCommands: a misaligned scratchpad address of a conversion; a command of one byte at the last byte of the scratchpad, to a
port and to an operand buffer, with 7 and with 8 commands queued; one that begins past the end and one that passes it, and an operand
buffer's of a thread without the accumulator file; an identifier that names a command and one that names none. -/
theorem witness_StreamCommands :
    let r := { sregs [(4, 0xFFFFF), (7, 1), (8, 0x100000)] with g := [(3, (cmd 0).pat), (4, (cmd 0).pat + (1 <<< 64))] }
    let s := on r (.nop 0)
    let none_ := { s with cores := [] }
    Runs s (thr r) 0 ∧ (rdS s 7).val.toNat % 4 ≠ 0 ∧ patW (s.issue.src.rdG 3) = 1 ∧ (rdS s 4).val.toNat < padSize s.tile ∧
    (rdS s 4).val.toNat + patE (s.issue.src.rdG 3) * 1 = padSize s.tile ∧
    ((coreAt s s.tile).holder = some 0 ∧ (thr r).kind = .task ∧ portOb .bnd = none ∧ (portOb .ob0).isSome = true) ∧
    (padSize s.tile ≤ (rdS s 8).val.toNat ∧ padSize s.tile < (rdS s 4).val.toNat + patE (s.issue.src.rdG 4) * 1 ∧
      issuer none_ = some (thr r) ∧ (coreAt none_ none_.tile).holder ≠ some 0) ∧
    Config.engSize ≤ (engOf (coreAt (withCmds (List.replicate 8 (cmd 0))) 870) 0).length ∧
    (engOf (coreAt (withCmds (List.replicate 7 (cmd 0))) 870) 0).length < Config.engSize ∧
    cmdNamed (withCmds [cmd 0]) (thr r) (rdS s 0).val = some (cmd 0) ∧ (cmd 0).eng = (rdS s 0).val.toNat / 2 ^ 32 % 2 ∧
    cmdNamed (withCmds [cmd 0]) (thr r) (rdS s 7).val = none :=
  ⟨runs _ _, by decide +kernel⟩

/-- A member of a span group of two. -/
def member (arrived : BitVec 16) : Thread :=
  { newThread 0 .task (some 0) 0 { Regs.reset with inst := 0 } 0x1008 0 with member := some (0, 0), arrived := arrived }
/-- A graph that places both members. -/
def graph2 (n : Nat) : Graph :=
  { graph0 with placed := (List.range n).map (fun i => ⟨0, BitVec.ofNat 30 i, 870 + i, some (0, i)⟩) }
/-- A handler in slot 14 with the capability to the frozen thread of slot 0. -/
def helper (r : Regs) : Thread := newThread 1 (.handler 1 0) none 2 { r with k0 := some ⟨0, 0⟩ } 0x1008 0
/-- The two of them, with the handler's bundle open. -/
def served (v : Thread) (r : Regs) : State :=
  let h := helper r
  { State.reset with
    threads := [(13920, { v with status := .frozen }), (13934, h)], nextUid := 2,
    cores := [(870, { Core.reset with holder := some 0 })],
    issue := { Issue.none with key := 13934, pc := 0x1000, words := [0], src := h.regs } }

/-- BarriersAndSpawn: BAR outside a group, in an episode that the member is excused from and in one that it is not, with a store to its own scratchpad open, with a member missing and with none. -/
theorem witness_BarriersAndSpawn_BAR :
    (thr Regs.reset).member = none ∧
    (let v := { member 0 with excused := [(15, 0)] }
     v.member ≠ none ∧ (15, episodeOf v 15) ∈ v.excused ∧ (15, episodeOf (member 0) 15) ∉ (member 0).excused) ∧
    (let s := { inGraph (member 0) (graph2 1) with
        inflight := [{ accOf .store .none (elem4 at2000.2.1 .own [true]) with id := 0 }], nextAcc := 1,
        issue := { (onT (member 0) (.nop 0)).issue with acc0 := 1 } }
     issuer s = some (member 0) ∧ (member 0).member ≠ none ∧ (member 0).arrived.getLsbD 15 = false ∧
     accessesDone s 0 1 0b011 = false) ∧
    (∀ n ∈ [(1 : Nat), 2], let s := inGraph (member 0) (graph2 n)
      accessesDone s 0 1 0b011 = true ∧ (member 0x8000).arrived.getLsbD 15 = true ∧
      barrierOpen (updIssuer s (fun t => { t with arrived := t.arrived ||| 0x8000 })) (member 0x8000) 15 = (n == 1)) := by
  decide +kernel

/-- BarriersAndSpawn, BARX: a frozen thread outside a group, and members that have arrived and have not. -/
theorem witness_BarriersAndSpawn_BARX :
    Runs (served (member 0) Regs.reset) (helper Regs.reset) 0 ∧
    (∀ v ∈ [thr Regs.reset, member 0, member 0x8000], Serves (served v Regs.reset) 0 13920 { v with status := .frozen }) ∧
    (thr Regs.reset).member = none ∧ (member 0).member ≠ none ∧ (member 0).arrived.getLsbD 15 = false ∧
    (member 0x8000).arrived.getLsbD 15 = true :=
  ⟨⟨rfl, by simp [rdP, Regs.rdP]⟩, by unfold Serves; decide +kernel⟩

/-- A pool with every record below a number taken. -/
def fullPool (n : Nat) (r : PoolRec) : Map PoolRec := (List.range n).map (fun i => (i, r))

theorem find_fullPool (n : Nat) (r : PoolRec) (i : Nat) (h : i < n) : (find i (fullPool n r)).isSome = true := by
  have g : ∀ (l : List Nat), i ∈ l → (find i (l.map (fun j => (j, r)))).isSome = true := by
    intro l
    induction l with
    | nil => simp
    | cons a l ih => intro hi; by_cases e : i = a <;> simp_all [find]
  exact g _ (List.mem_range.2 h)

theorem poolFree_full {s : State} (h : ∀ i, i < Config.poolSize → (find i s.pool).isSome = true) (n i : Nat)
    (hi : i < Config.poolSize) : poolFree s n i = none := by
  induction n generalizing i with
  | zero => rfl
  | succ n ih =>
    have := h i hi
    simp only [poolFree]
    cases hf : find i s.pool <;> simp_all
    exact ih _ (Nat.mod_lt _ (by decide))

theorem poolNext_full {s : State} (h : ∀ i, i < Config.poolSize → (find i s.pool).isSome = true) : poolNext s = none :=
  poolFree_full h _ _ (Nat.mod_lt _ (Nat.zero_lt_succ _))

theorem poolNext_with (s : State) (p : Map PoolRec) (h : ∀ i, i < Config.poolSize → (find i p).isSome = true) :
    poolNext { s with pool := p } = none := poolNext_full h

/-- A graph at a depth, in a thread that spawns the record at s12. -/
def spawner (depth : Nat) : State :=
  let s := inGraph (user [(12, 0xFFFC0)] 0 []) { graph0 with depth := depth }
  writeLe s (padBase 870 + 0xFFFC0 + 8) 8 0x0004000100010001
/-- One record of the pool. -/
def poolRec : PoolRec :=
  { record := [], parent := none, depth := 1, prio := 0, seq := 0, host := none, part := none, root := 0, bad := false, taken := false }

/-- BarriersAndSpawn, SPAWN: depths 23 and 24, a pool with room and a full one, and a record in the last 64 bytes. -/
theorem witness_BarriersAndSpawn_SPAWN :
    (∀ d ∈ [(23 : Nat), 24], let s := spawner d
      issuer s = some (user [(12, 0xFFFC0)] 0 []) ∧ (rdS s 12).val.toNat % 64 = 0 ∧ (rdS s 12).val.toNat + 64 = padSize s.tile ∧
      releaseList s 0 2 = [] ∧ readHeld s (user [(12, 0xFFFC0)] 0 []) = false ∧
      storesOver s 0 none (padBase s.tile + 0xFFFC0) 64 = false ∧ (graphAt s 0).map (fun g => g.depth) = some d ∧
      poolNext s = some 0 ∧ rangeBad s (padBase s.tile + 0xFFFC0) 64 = false ∧ (rdS s 12).poison = false ∧
      recMalformed (readBytes (writeLe s (padBase 870 + 0xFFFC0) 8 0x10000) (padBase s.tile + 0xFFFC0) 64) = false ∧
      recZero (readBytes s (padBase s.tile + 0xFFFC0) 64) = false) ∧
    ∃ p, poolNext { spawner 23 with pool := p } = none := by
  constructor
  · decide +kernel
  · exact ⟨_, poolNext_with _ _ (find_fullPool _ poolRec)⟩

/-! Control. -/

/-- BranchesAndJumps: targets 0, the last word of the scratchpad, and the first ones outside it on both sides; a test that holds and
one that does not; counts 0, 1 and 2; register targets that are aligned, misaligned, and past the end. -/
theorem witness_BranchesAndJumps :
    let r := sregs [(5, 1), (6, 2), (7, 0xFFFF8), (8, 0x100000), (9, 0xFFFFC)]
    let s := on r (.nop 0)
    let tgt (off : BitVec 28) : Int := s.issue.pc.toNat + 8 * off.toInt
    Runs s (thr r) 0 ∧ (rdP s 0 != 0) = true ∧ (rdP s 1 != 0) = false ∧ (rdS s 0).val = 0 ∧ (rdS s 5).val = 1 ∧ 1 < (rdS s 6).val.toNat ∧
    tgt (-512) = 0 ∧ tgt (-513) < 0 ∧ tgt 0x1FDFF + 8 = padSize s.tile ∧ tgt 0x1FE00 = padSize s.tile ∧
    (rdS s 9).val.toNat % 8 ≠ 0 ∧ ((rdS s 8).val.toNat % 8 = 0 ∧ padSize s.tile ≤ (rdS s 8).val.toNat) ∧
    ((rdS s 7).val.toNat % 8 = 0 ∧ (rdS s 7).val.toNat < padSize s.tile) :=
  ⟨runs _ _, by decide +kernel⟩

/-- What the only thread of a machine is. -/
theorem thread_only {th v : Thread} {j : Nat} (h : threadAt (onT th (.nop 0)) j = some v) : j = 13920 := by
  simp only [threadAt, onT, find, State.reset] at h
  split at h
  · assumption
  · cases h

/-- NopYieldSleepEnd: SLEEP 0 and SLEEP 1 in the cycle of their issue; TEND with a matrix operation of an earlier bundle left and
with nothing left, its thread alone with its number. -/
theorem witness_NopYieldSleepEnd :
    let s := on Regs.reset (.nop 0)
    Runs s (thr Regs.reset) 0 ∧ (0 : BitVec 24).toNat ≤ ((coreAt s s.tile).cyc - s.issue.cyc).toNat ∧
    ((coreAt s s.tile).cyc - s.issue.cyc).toNat < (1 : BitVec 24).toNat ∧
    (let u := { withOp (mop .mzero true false) with issue := { s.issue with ord0 := 1 } }
     issuer u = some (thr Regs.reset) ∧ (coreAt u u.tile).mq.any (fun m => m.uid == 0 && decide (m.ord < u.issue.ord0)) = true) ∧
    (s.saved = [] ∧ (coreAt s s.tile).mq = [] ∧ s.inflight = [] ∧ (thr Regs.reset).kind = .task ∧ (thr Regs.reset).uid < s.nextUid) ∧
    (∀ j v, threadAt s j = some v → v.uid = (thr Regs.reset).uid → j = s.issue.key) :=
  ⟨runs _ _, by decide +kernel, by decide +kernel, by decide +kernel, by decide +kernel, fun _ _ h _ => thread_only h⟩

/-- ControlRegisters: the first and the last register of each group, one read at the issue, and a lowering in progress and none. -/
theorem witness_ControlRegisters :
    let s := on Regs.reset (.nop 0)
    Runs s (thr Regs.reset) 0 ∧ (0x800 ≤ (0x800 : BitVec 12).toNat ∧ ¬0x800 ≤ (0x14 : BitVec 12).toNat) ∧
    (5 : BitVec 12) ∈ ([5, 0x10, 0x11, 0x12, 0x13] : List (BitVec 12)) ∧
    (find 0x13 s.issue.csrs = none ∧ find 0x13 { s with issue := { s.issue with csrs := [(0x13, 5)] } }.issue.csrs = some 5) ∧
    msField s 0x811 0 1 = 0 ∧ msField { s with ms := [(0x811, 1)] } 0x811 0 1 = 1 :=
  ⟨runs _ _, by decide +kernel⟩

/-- FrozenThreads: no capability; a frozen thread, indexes at both ends of each file, a held accumulator file, pcs aligned and not,
and a matrix operation of it that has started and none. -/
theorem witness_FrozenThreads :
    let r := sregs [(4, 7), (5, 8), (6, 63), (7, 31), (8, 15), (9, 511), (10, 23), (11, 0x14)]
    let s := served (thr Regs.reset) r
    let v := { thr Regs.reset with status := .frozen }
    Runs (on r (.nop 0)) (thr r) 0 ∧ capTarget (on r (.nop 0)) 0 = .none ∧ Runs s (helper r) 0 ∧ Serves s 0 13920 v ∧
    ((rdS s 4).val.toNat < 8 ∧ 8 ≤ (rdS s 5).val.toNat) ∧
    ((rdS s 6).val.toNat < 64 ∧ frzPending s 13920 v .s 63 = false) ∧ ((rdS s 7).val.toNat < 32 ∧ frzPending s 13920 v .v 31 = false) ∧
    (rdS s 8).val.toNat < 16 ∧
    ((rdS s 9).val.toNat < 512 ∧ (coreAt s (tileOf 13920)).holder = some v.uid ∧ frzPending s 13920 v .ac 511 = false) ∧
    ((rdS s 10).val.toNat < 24 ∧ frzPending s 13920 v .sh 23 = false) ∧ (rdS s 11).val.toNat ∈ [1, 2, 3, 4, 5, 0x10, 0x11, 0x12, 0x13, 0x14] ∧
    (v.held = [] ∧ (rdS s 4).val.toNat % 8 ≠ 0 ∧ (rdS s 5).val.toNat % 8 = 0) ∧ (s.saved = [] ∧ v.uid < s.nextUid) ∧
    (coreAt s 870).mq.any (fun m => m.uid == v.uid && m.started) = false ∧
    (let u := { s with cores := [(870, { Core.reset with holder := some 0, mq := [mop .mzero true false] })] }
     Serves u 0 13920 v ∧ (coreAt u 870).mq.any (fun m => m.uid == v.uid && m.started) = true) :=
  ⟨runs _ _, by decide +kernel, ⟨rfl, by simp [rdP, Regs.rdP]⟩, by unfold Serves; decide +kernel⟩

/-- FrozenThreads, KILL: the frozen thread alone has its number. -/
theorem witness_FrozenThreads_KILL (i : Nat) (x : Thread) (h : threadAt (served (thr Regs.reset) Regs.reset) i = some x)
    (u : x.uid = 0) : i = 13920 := by
  simp only [threadAt, served, find, State.reset] at h
  split at h
  · assumption
  · split at h
    · cases h; simp [helper, newThread] at u
    · cases h

/-- TranslationsInvalidated: nothing open, and a bundle of a machine register's read, for each privilege. -/
theorem witness_TranslationsInvalidated :
    (let ws : List Word := [0xD110000000800000]
     firstIllegal false ws = none ∧ instrsOf ws = [(0, .csrr 0 0 0x800)] ∧ privOf (.csrr 0 0 0x800) = 2) ∧
    let s := on Regs.reset (.nop 0)
    Runs s (thr Regs.reset) 0 ∧ s.drains = [] ∧ s.inflight = [] ∧ ∀ c ∈ s.cores, c.2.eng0 = [] ∧ c.2.eng1 = [] ∧ c.2.gens = [] :=
  ⟨by decide +kernel, runs _ _, by decide +kernel⟩

/-- TrapTakesTheException, UnhandledFaultKills: a task whose graph binds a handler to TRAPSW and none to PERM, and a free slot. -/
theorem witness_TrapTakesTheException :
    let th := user [] 0 []
    let s := inGraph th graph0
    threadAt s 13920 = some th ∧ th.kind = .task ∧ FaultClass.trapsw ≠ .preempt ∧ th.graph = some 0 ∧ graphAt s 0 = some graph0 ∧
    (handlerOf graph0 .trapsw).isSome = true ∧ isKs (tileOf 13920) = false ∧ freeHandler s (tileOf 13920) = some 14 ∧
    handlerOf graph0 .perm = none := by
  decide +kernel

/-! The steps of the device. -/

/-- A machine whose load/store port of tile (70, 5) is busy. -/
def busyPort (s : State) : State := updCore s 870 (fun c => { c with portFree := 5 })

/-- CoreSteps: a gated core; a cycle suppressed by throttling, one with no thread and one with a thread, with an L syllable and without
while the port is busy; waits of 4,063 and 4,064 cycles; a bundle that waits, that waits for a partner or has lost it, and one that sleeps
until a cycle reached and not reached, with the port taken and free; a queue with room; a bundle that breaks no rule, one that breaks one,
and a thread at such a one. -/
theorem witness_CoreSteps :
    let s := (State.reset.withFetchWord 64 0xD060000000000000)
    let idle := { State.reset with cores := [(870, { Core.reset with eff := 15 })] }
    let u := tick s 870
    (isKs 0 = false ∧ isSite 0 = false) ∧ (isKs 870 = false ∧ getD false (bayOf 870) [(bayOf 870, true)] = true) ∧
    (isKs Config.ks = true) ∧ (isSite 870 = true ∧ getD false (bayOf 870) s.gated = false) ∧
    suppressed (tick idle 870) 870 = true ∧ suppressed (tick State.reset 870) 870 = false ∧
    selected (coreAt (tick State.reset 870) 870) (readyOn (tick State.reset 870) 870) = none ∧
    suppressed u 870 = false ∧ selected (coreAt u 870) (readyOn u 870) = some (13920, placedThread 0, .go) ∧
    (∀ x ∈ [((0xB00024417FFF8500 : Nat), true), (0xD060000000000000, false)],
      let u := tick (busyPort (State.reset.withFetchWord 64 x.1)) 870
      suppressed u 870 = false ∧ selected (coreAt u 870) (readyOn u 870) = some (13920, placedThread 0, .go) ∧
        (coreAt u 870).cyc < (coreAt u 870).portFree ∧ holdsL u 13920 (placedThread 0) = x.2) ∧
    ((4064 : Nat) ≤ ({ thr Regs.reset with waited := 4064 }).waited ∧ ({ thr Regs.reset with waited := 4063 }).waited < 4064 ∧
      (thr Regs.reset).kind = .task ∧ (helper Regs.reset).kind ≠ .task) ∧
    (∀ st ∈ [Status.waiting .cond, .waiting (.lent 0x4000000 0 false 0), .waiting (.gone 0 871 1), .waiting (.sleep 0), .waiting (.sleep 1)],
      let b : Waiting := ⟨[0xB00024417FFF8500], ⟨Regs.reset, 0, [], none, [], none⟩⟩
      let th := { thr Regs.reset with status := st, bundle := some b }
      let s := onT th (.nop 0)
      threadAt s 13920 = some th ∧ th.bundle = some b ∧ arriving s 13920 = false ∧ portTaken s 870 = false ∧ portTaken (busyPort s) 870 = true ∧
        arriving (busyPort s) 13920 = false ∧ b.words.any (fun w => wordCls w == 3) = true) ∧
    ((0 : Word).toNat ≤ (coreAt (on Regs.reset (.nop 0)) 870).cyc.toNat ∧ (coreAt (on Regs.reset (.nop 0)) 870).cyc.toNat < (1 : Word).toNat) ∧
    refillKey (on Regs.reset (.nop 0)) 870 = some 13920 ∧
    firstIllegal false [0xD060000000000000] = none ∧ firstIllegal false [0xD060000000000001] = some (0, 8) ∧
    (let s := State.reset.withFetchWord 64 0xD060000000000001
     nextBundle s 13920 (placedThread 0) = some ([0xD060000000000001], .bad .illegal 0 8)) := by
  decide +kernel

/-- A machine at stage 7 with a page table: 8 GiB from address 0 are one page, readable and writable, that maps to itself; the root
is at 0x2000, and is ms.xrootk's. -/
def paged : State :=
  let s := { on Regs.reset (.nop 0) with ms := [(0x801, 0), (0x80A, 0x2001)] }
  let s := msPutStage s 7
  writeLe (writeLe s 0x2000 8 0x4001) 0x4000 8 0xF
where
  /-- The stage field of ms.status. -/
  msPutStage (s : State) (n : Nat) : State := { s with ms := put 0x801 (msRaw s 0x801 ||| (BitVec.ofNat 64 n <<< 60)) s.ms }
/-- A graph with that root. -/
def graphP : Graph := { graph0 with root := 0x2001 }
/-- A machine with it in context 0. -/
def pagedG : State := { paged with graphs := [(0, graphP)] }

/-- MemorySteps: va at the edges of the device's ranges, mapped and not, and a leaf that a task may not read; a thread; the first and the
last line of memory, one past it, and one that an error struck; a load that was cut and one that was not; an asynchronous fault for a ready and a frozen thread. -/
theorem witness_MemorySteps :
    (isKs 870 = false ∧ graphAt pagedG 0 = some graphP ∧ walk pagedG graphP.root 0x2000000 = .leaf 0x2000000 0xF 2 ∧
      walk pagedG graphP.root 0x3FFFFFF = .leaf 0x3FFFFFF 0xF 2 ∧ walk pagedG graphP.root 0x8000000 = .leaf 0x8000000 0xF 2 ∧
      walk pagedG graphP.root 0x200000000 = .bad 1 2 0x4008 ∧
      leafCheck pagedG ⟨870, 0, 0, graphP.root, false⟩ ⟨true, false, false, none⟩ 0x2000000 0xF = .ok 0x2000000 .hbm ∧
      (match leafCheck pagedG ⟨870, 0, 0, graphP.root, false⟩ ⟨true, false, false, none⟩ 0x2000000 0x3 with
      | .ok _ _ => false
      | _ => true) = true) ∧
    threadAt pagedG 13920 = some (thr Regs.reset) ∧
    (64 * 0 < 0x039000000000 ∧ 64 * 0xE3FFFFFFF < 0x039000000000 ∧ 0x039000000000 ≤ 64 * 0xE40000000) ∧
    (isStruck pagedG (.line 5) = false ∧ isStruck { pagedG with struck := [(0, .line 5)] } (.line 5) = true) ∧
    (∀ b ∈ [true, false],
      let e := { elem4 slice870 .bonded [] with sent := true, cut := b }
      let a := accOf .load (.s 5) e
      let s := flying a
      accAt s 0 = some a ∧ find 0 s.olds = none ∧ e.cut = b ∧ a.kind = .load ∧ a.elems = [e] ∧ e.done = false ∧ e.sent = true ∧
        e.path.remote = false ∧ siteLost s e.pa e.path = false) ∧
    (∀ st ∈ [Status.ready, .frozen],
      let th := { thr Regs.reset with status := st }
      let s := { onT th (.nop 0) with net := [.afault 0 ⟨.xlate, none, 0⟩] }
      s.net[0]? = some (.afault 0 ⟨.xlate, none, 0⟩) ∧ keyOfUid s 0 = some 13920 ∧ threadAt s 13920 = some th ∧ th.status = st ∧ s.saved = []) := by
  decide +kernel

/-- A machine at stage 7 whose page table also maps the 8 GiB around the slice of tile (70, 5) to themselves. -/
def mapped : State := writeLe paged (0x4000 + 8 * 262) 8 0x020C0000000F
/-- It with commands in engine 0. -/
def streaming (l : List Cmd) : State := { mapped with cores := [(870, { Core.reset with holder := some 0, eng0 := l })] }
/-- A chunk of one byte of them. -/
def chunk0 (bad : Bool) (p : Path) : Chunk :=
  { id := 0, num := 0, n := 1, pa := slice870, path := p, data := [7], bad := [bad], waiting := false, sent := false, cut := false,
    src := [], dst := [], flt := none, left := 0, leaves := [] }

/-- StreamSteps: a gated bay and an awake one; no head to start, one with an element and one without; a chunk at the first byte of a slice, one at an address
that is not mapped, and one whose injection is stopped; a chunk that is done, in both directions, clean and poisoned. -/
theorem witness_StreamSteps :
    (asleep { streaming [] with gated := [(bayOf 870, true)] } 870 = true ∧ asleep (streaming []) 870 = false) ∧
    dispatchable (streaming []) 870 = none ∧ dispatchable (streaming [cmd 0]) 870 = some (cmd 0) ∧ patE (cmd 0).pat ≠ 0 ∧
    (let c := { cmd 0 with pat := 0 }
     dispatchable (streaming [c]) 870 = some c ∧ patE c.pat = 0) ∧
    (∀ c ∈ [{ cmd 0 with running := true }, { cmd 0 with running := true, pat := (cmd 0).pat + 0x4000000000 }],
      let s := streaming [c]
      runningCmd s 870 0 = some c ∧ threadOfUid s c.uid = some (thr Regs.reset) ∧ c.held = none ∧ c.cancelled = false ∧
        cmdPreempted s c = false ∧ c.next < patE c.pat ∧ c.chunks.length < 16 ∧ chunkFree s 870 c = true ∧ chunkLen c c.next 127 1 = 1 ∧
        c.out = true ∧ c.cv = false) ∧
    (let c := { cmd 0 with running := true }
     let s' := (elemsAt (streaming [c]) 870 c [0]).1
     (elemsAt (streaming [c]) 870 c [0]).2 = (none, some (slice870, .bonded)) ∧
     chunkWaits s' 870 c .bonded slice870 = false ∧ chunkRoutes s' 870 c .bonded slice870 = true ∧
     chunkWaits { s' with lowering := some ⟨siteOf 870, 1, false, true, false, none, false, 0, []⟩ } 870 c .bonded slice870 = true) ∧
    (let c := { cmd 0 with running := true, pat := (cmd 0).pat + 0x4000000000 }
     (elemsAt (streaming [c]) 870 c [0]).2 = (some (0, .xlate), none)) ∧
    (let k := { chunk0 false .bonded with flt := some (0, .xlate) }
     let c := { cmd 0 with running := true, next := 1, chunks := [k] }
     pick (fun c => (c.chunks.find? (fun k => k.id == 0)).map (fun k => (c, k))) (engOf (coreAt (streaming [c]) 870) 0) = some (c, k) ∧
       c.chunks.find? (fun x => x.flt.isSome) = some k) ∧
    (∀ b ∈ [true, false], ∀ o ∈ [true, false],
      let k := chunk0 b (if o then .bonded else .hbm)
      let c := { cmd 0 with running := true, next := 1, out := o, chunks := [k] }
      let s := streaming [c]
      pick (fun c => (c.chunks.find? (fun k => k.id == 0)).map (fun k => (c, k))) (engOf (coreAt s 870) 0) = some (c, k) ∧
        k.waiting = false ∧ k.cut = false ∧ k.dst = [] ∧ k.bad.length ≤ k.data.length ∧ c.out = o ∧ portOb c.port = none ∧ k.flt = none ∧
        writeHeld s 870 c k = false ∧
        (o = true → k.path.remote = false ∧ stackFailed s k.pa = false ∧ siteLost s k.pa k.path = false ∧
          (requestRoute s 870 k.path k.pa).isSome = true ∧ (answerRoute s 870 k.path k.pa).isSome = true)) :=
  by refine ⟨?_, ?_, ?_, ?_, ?_, ?_, ?_, ?_, ?_, ?_⟩ <;> decide +kernel

/-- A launch record of some bytes after its header: extents 1. -/
def recOf (root : Nat) : List Byte := leBytes 8 root ++ leBytes 8 0x0004000100010001 ++ List.replicate 48 0
/-- A graph in context 0 whose image begins at an address; its stage is still to be loaded. -/
def graphI (root : Nat) : Graph := { graphP with record := recOf root, image := none, running := false }
/-- A machine that holds an image of one template with an extent at 0x8000000 (Tables 7.4 and 7.7), and that graph. -/
def imaged (n0 root : Nat) : State :=
  let s := [(0, 4, 0x3347584B), (6, 2, 3), (12, 4, 1), (16, 8, 64), (24, 4, 1), (68, 4, 1), (152, 2, n0)].foldl
    (fun s (e : Nat × Nat × Nat) => writeLe s (0x8000000 + e.1) e.2.1 e.2.2) { mapped with cores := [], threads := [] }
  { s with graphs := [(0, graphI root)] }
/-- The image that the loader reads there. -/
def image0 (n0 : Nat) : Image := { tensors := [], names := [], shapes := [], handlers := [], stages := [⟨0, 1, []⟩], tmpls := [{ Template.none with n0 := n0, n1 := 0, n2 := 0 }] }
/-- A launch of an image in the pool. -/
def launchRec (root : Nat) : PoolRec := { poolRec with record := recOf root, host := some (0, 0), root := 0x2001 }

/-- LaunchSteps, the window: the first and the last slot, a malformed record, a pool with room and a full one; a slot with a view. -/
theorem witness_LaunchSteps_window :
    (∀ p k, p < 2 → k < 1024 → (p = 0 ∧ k = 0 ∨ p = 1 ∧ k = 1023) → p < 2 ∧ k < 1024) ∧
    (recOf 0x8000000).length = 64 ∧ recMalformed (recOf 0x8000000) = false ∧ recZero (recOf 0x8000000) = false ∧
    poolNext State.reset = some 0 ∧ (∃ p, poolNext { State.reset with pool := p } = none) ∧
    (let r := leBytes 8 0 ++ leBytes 8 1025 ++ List.replicate 48 0
     recMalformed r = true ∧ r.length = 64) ∧
    (let l : LaunchSlot := ⟨true, true, 7, 3, []⟩
     find (1024 * 1 + 1023) { State.reset with slots := [(2047, l)] }.slots = some l ∧ l.acc < 4) := by
  refine ⟨by omega, by decide +kernel, by decide +kernel, by decide +kernel, by decide +kernel,
    ⟨_, poolNext_with _ _ (find_fullPool _ poolRec)⟩, by decide +kernel, by decide +kernel⟩

/-- LaunchSteps, ADMISSION: before stage 4, and after it. -/
theorem witness_LaunchSteps_admission :
    let s := { imaged 0 0x8000000 with pool := [(0, launchRec 0x8000000)], graphs := [] }
    nextLaunch s = some (0, launchRec 0x8000000) ∧ freeCtx s = some 0 ∧ 4 ≤ stageOf s ∧ stageOf { s with ms := [] } < 4 ∧
    nextLaunch { s with ms := [] } = some (0, launchRec 0x8000000) ∧ freeCtx { s with ms := [] } = some 0 ∧
    (let u := { s with ms := put 0x808 0x2001 s.ms }
     parseImage ⟨u, 0, (newGraph u (poolHandle u 0) (launchRec 0x8000000)).root⟩ (recBase (launchRec 0x8000000).record)
       (poolHandle u 0) 65536 = .ok (image0 0, []) ∧ nextLaunch u = some (0, launchRec 0x8000000) ∧ freeCtx u = some 0) := by
  decide +kernel

/-- LaunchSteps, STAGE_LOAD: an image that is not mapped, one with an extent of 1,025, and one with an extent of 1. -/
theorem witness_LaunchSteps_load :
    (∀ x ∈ [((0 : Nat), (0 : Nat)), (1025, 0x8000000), (0, 0x8000000)], let s := imaged x.1 x.2
      graphAt s 0 = some (graphI x.2) ∧ (graphI x.2).running = false ∧ (graphI x.2).ending = none ∧ graphQuiet s 0 = true ∧
        hashHeld s = false ∧ barredNow s (graphI x.2) = []) ∧
    parseImage ⟨imaged 0 0, 0, 0x2001⟩ (recBase (recOf 0)) 0 0 = .error (.why 1) ∧
    parseImage ⟨imaged 1025 0x8000000, 0, 0x2001⟩ (recBase (recOf 0x8000000)) 0 0 = .ok (image0 1025, [2]) ∧
    checkStage (imaged 1025 0x8000000) { graphI 0x8000000 with image := some (image0 1025) } 0 [2] = .error 2 ∧
    parseImage ⟨imaged 0 0x8000000, 0, 0x2001⟩ (recBase (recOf 0x8000000)) 0 0 = .ok (image0 0, []) ∧
    checkStage (imaged 0 0x8000000) { graphI 0x8000000 with image := some (image0 0) } 0 [] = .ok [⟨0, 0, 32, none⟩] := by
  decide +kernel

/-- LaunchSteps, STAGE_END: a stage that runs and has ended, the first of two and the last, and one that does not run; a graph that ends
with an access in flight and with none. -/
theorem witness_LaunchSteps_end :
    (∀ n ∈ [(1 : Nat), 2],
      let g := { graphI 0x8000000 with image := some { image0 0 with stages := List.replicate n ⟨0, 1, []⟩ }, running := true }
      let s := { imaged 0 0x8000000 with graphs := [(0, g)] }
      graphAt s 0 = some g ∧ g.ending = none ∧ stageOver s 0 g = true ∧ graphQuiet s 0 = true ∧ handled s 0 = false ∧ (g.stage + 1 < n ↔ n = 2)) ∧
    (let g := { graphI 0x8000000 with image := some (image0 0) }
     stageOver { imaged 0 0x8000000 with graphs := [(0, g)] } 0 g = false) ∧
    (let g := { graphI 0x8000000 with ending := some (1, 2) }
     let s := { imaged 0 0x8000000 with graphs := [(0, g)] }
     graphAt s 0 = some g ∧ g.ending = some (1, 2) ∧ graphQuiet s 0 = true ∧
       graphQuiet { s with inflight := [accOf .store .none (elem4 slice870 .bonded [true])] } 0 = false) := by
  decide +kernel

/-- The name of the home witnesses; its home on this machine is tile 2999. -/
def name7 : Name := 0x700 <<< 64
/-- A machine with one message on the deck, and with that name at its home or not. -/
def deck (m : Msg) (held : Bool) : State :=
  { mapped with net := [m], homes := if held then [⟨pubOf name7 [1], 0, 2999, 870, .cache, 0, []⟩] else [] }
/-- A template's subscription to it. -/
def subOf7 : Sub := { name := name7, anyIter := true, tile := 870, of_ := .template, scope := 2, direct := false, routers := [], seen := [] }

/-- HomeSteps, publications: of wafer scope at a home that holds the name and at one that does not, and while a lowering holds the hash
units; and of tile scope. -/
theorem witness_HomeSteps_pub :
    (∀ b ∈ [true, false], let s := deck (.pub (pubOf name7 [1]) 870 0 [] 2 0) b
      s.net[0]? = some (.pub (pubOf name7 [1]) 870 0 [] 2 0) ∧ ([] : List Nat).any (stillOpen s 2) = false ∧ inOrder s 0 = true ∧
        (pubOf name7 [1]).scope ≠ 0 ∧ (heldAt s name7).isSome = b ∧ hashHeld s = false ∧ homeNow s name7 = some 2999 ∧ carried s 870 2999 = true) ∧
    hashHeld { mapped with lowering := some ⟨0, 1, false, true, false, none, true, 0, []⟩ } = true ∧
    (let p := { pubOf name7 [1] with scope := 0 }
     let s := deck (.pub p 870 0 [] 2 0) false
     s.net[0]? = some (.pub p 870 0 [] 2 0) ∧ inOrder s 0 = true ∧ p.scope = 0 ∧ ∀ q ∈ (coreAt s 870).tilePubs, q.1.name ≠ p.name) := by
  decide +kernel

/-- HomeSteps, subscriptions: a dynamic one with a copy on its way, and one with none, to its own tile's home and to another. -/
theorem witness_HomeSteps_sub :
    (let q := { subOf7 with of_ := .thread 0 0, anyIter := false }
     let s := { deck (.sub q) false with cores := [(870, { Core.reset with cache := [pubOf name7 [1]] })] }
     s.net[0]? = some (.sub q) ∧ inOrder s 0 = true ∧ hashHeld s = false ∧ homeNow s name7 = some 2999 ∧ carried s 870 2999 = true ∧
       q.of_ ≠ .template ∧ (cachedFor (takeMsg s 0) q (subRoute (takeMsg s 0) 870 2999)).filter
         (fun x => !q.seen.contains x.1.name) = [(pubOf name7 [1], 870)]) ∧
    (∀ t ∈ [(870 : Nat), 2999], let q := { subOf7 with tile := t }
     let s := deck (.sub q) false
     s.net[0]? = some (.sub q) ∧ inOrder s 0 = true ∧ hashHeld s = false ∧ homeNow s name7 = some 2999 ∧ carried s t 2999 = true ∧
       ∀ r ∈ subRoute (takeMsg s 0) t 2999, (coreAt s r).cache = []) := by
  decide +kernel

/-- HomeSteps, the other messages: a copy at a router with a receiver of its own and one past a recorded port, and one past a port that
is not recorded; a free, a drop, a withdrawal, a defer and a resume, of a copy whose headers are lost and of one whose are not; a table without room. -/
theorem witness_HomeSteps_rest :
    (let l : List Receiver := [⟨870, .template, []⟩, ⟨871, .template, [871]⟩, ⟨869, .template, [869]⟩]
     let s := { deck (.copy (pubOf name7 [1]) 870 l) true with
        cores := [(870, { Core.reset with nmt := [((name7, false), [portTo 870 871, 4])] })] }
     s.net[0]? = some (.copy (pubOf name7 [1]) 870 l) ∧ nextRouters l = [871, 869] ∧ passes s 870 871 name7 = true ∧
       passes s 870 869 name7 = false) ∧
    (let s := deck (.free (name7, false) 870) false
     s.net = [.free (name7, false) 870] ∧ s.subs = []) ∧
    (let s := deck (.drop name7 870 0) true
     s.net[0]? = some (.drop name7 870 0) ∧ inOrder s 0 = true ∧ toHome s 870 name7 = true ∧
       homeNow (updCore (takeMsg s 0) 870 (fun c => { c with tilePubs := c.tilePubs.filter (fun p => p.1.name != name7) })) name7 = some 2999) ∧
    (let s := deck (.unsub name7 870 (.thread 0 0)) false
     s.net[0]? = some (.unsub name7 870 (.thread 0 0)) ∧ inOrder s 0 = true ∧ toHome s 870 name7 = true) ∧
    (∀ m ∈ [Msg.defer name7 870, .resume 870], (deck m true).net[0]? = some m ∧ inOrder (deck m true) 0 = true ∧
      toHome (deck m true) 870 name7 = true) ∧
    (∀ b ∈ [true, false], let h : HomeE := ⟨pubOf name7 [1], 0, 2999, 870, .cache, 0, [870]⟩
     let s := { deck (.resume 870) false with homes := [h], struck := if b then [(0, .header 2999 name7)] else [] }
     s.homes = [h] ∧ 870 ∈ h.deferred ∧ toHome s 870 h.pub.name = true ∧ inOrder s 0 = true ∧ headerLost s h.site h.pub.name = b) ∧
    (nmtRoom mapped 870 (name7, true) = true ∧
      nmtRoom { mapped with cores := [(870, { Core.reset with nmt := List.replicate Config.nmSize ((0, false), [4]) })] } 870
        (name7, true) = false) := by
  decide +kernel

/-- A graph whose template 0 subscribes the name at any iteration, placed on tile (70, 5). -/
def subscriber : Graph :=
  let sd : SubDecl := { tid := 7, plane := 0, coef := List.replicate 12 0, offs := [0, 0, 0, 0], rel := 0, scope := 2, p := false, launch := false, at_ := 0x2000 }
  { graphP with
    image := some { tensors := [], names := [], shapes := [], handlers := [], stages := [⟨0, 1, []⟩], tmpls := [{ Template.none with subs := [sd, sd] }] }
    placed := [⟨0, 0, 870, none⟩] }
/-- A name of tensor 7 in context 0, iteration 0. -/
def named : Name := mkName 7 0 0 0 0
/-- A machine with it and a delivery. -/
def delivering (scope n : Nat) : State :=
  { mapped with
    graphs := [(0, subscriber)], net := [.deliver { pubOf named [1] with scope := scope } 870 .template 2999]
    cores := [(870, { Core.reset with store := List.replicate n ⟨⟨0, 1, 0, 1⟩, 0, pubOf named [1]⟩ })] }

/-- DeliverySteps: a store without room for a delivery of tile and of wafer scope, one with room, and a name that nothing takes;
a dynamic delivery, and one that a lowering stops. -/
theorem witness_DeliverySteps :
    (∀ sc ∈ [(0 : Nat), 2], ∀ n ∈ [(0 : Nat), 1023],
      let s := delivering sc n
      let p := { pubOf named [1] with scope := sc }
      s.net[0]? = some (.deliver p 870 .template 2999) ∧ delivered s p 870 2999 = true ∧ newEntries s 870 p ≠ [] ∧ accepts s 870 p (newEntries s 870 p).length = (n == 0)) ∧
    (let s := { delivering 2 0 with graphs := [] }
     newEntries s 870 (pubOf named [1]) = []) ∧
    (let s := { onT (user [] 0 [⟨named, 0, 2, none, false⟩]) (.nop 0) with net := [.deliver (pubOf named [1]) 870 (.thread 0 0) 870] }
     let u := { s with lowering := some ⟨siteOf 870, 1, false, true, false, none, false, 0, []⟩ }
     s.net[0]? = some (.deliver (pubOf named [1]) 870 (.thread 0 0) 870) ∧ keyOfUid s 0 = some 13920 ∧ tileOf 13920 = 870 ∧
       delivered s (pubOf named [1]) 870 870 = true ∧ delivered u (pubOf named [1]) 870 870 = false) := by
  decide +kernel

/-- An input of a publication with some data. -/
def inputOf (l : List Byte) : Input := ⟨0, 0x2000, pubOf named l, false⟩
/-- A thread with that input, still being copied. -/
def copyingTh (l : List Byte) : Thread := { user [] 0 [] with inputs := [inputOf l] }
/-- Its machine. -/
def copying (l : List Byte) : State :=
  { onT (copyingTh l) (.nop 0) with cores := [(870, { Core.reset with copying := [(identOf (user [] 0 []), 0)] })] }

/-- DeliverySteps, INPUT_COPY_DONE: an input of 16,384 bytes that is still being copied. -/
theorem witness_DeliverySteps_copy :
    let l := List.replicate 16384 (1 : Byte)
    threadAt (copying l) 13920 = some (copyingTh l) ∧ copyPending (copying l) 13920 (copyingTh l) = true ∧
    (copyingTh l).inputs = [inputOf l] ∧ (inputOf l).bad = false ∧ (inputOf l).pub.data.length ≤ 16384 :=
  ⟨rfl, rfl, rfl, rfl, Nat.le_of_eq (List.length_replicate ..)⟩

/-- A graph with a pier tensor of four bytes at the start of stack 0, in tiles of two. -/
def pierGraph : Graph :=
  { graphP with image := some { tensors := [⟨7, 0, true, 0x10000, [4, 1, 1, 1], [2, 1, 1, 1]⟩], names := [], shapes := [], handlers := [], stages := [⟨0, 0, []⟩], tmpls := [] } }
/-- Its tensor. -/
def tensor7 : Tensor := ⟨7, 0, true, 0x10000, [4, 1, 1, 1], [2, 1, 1, 1]⟩
/-- A machine with it, a residency entry, and a residency request of an op for a page of a slice. -/
def pier (m : List Msg) (op st refc bbase : Nat) : State :=
  { mapped with
    graphs := [(0, pierGraph)], net := m, tensors := [(7, ⟨7, 0, true, 0x10000, [4, 1, 1, 1], [2, 1, 1, 1]⟩)], residency := [(7, ⟨st, refc, bbase, 1⟩)]
    ms := put 0x814 (BitVec.ofNat 64 (7 * 2 ^ 40 + op * 2 ^ 35 + slice870 / 2 ^ 13)) (put 0x815 1 (put 0x816 1 mapped.ms)) }

/-- PierSteps, reads: a subscription of a tensor that is filled, pinned and absent; the last tile, read from HBM. -/
theorem witness_PierSteps_reads :
    (∀ st ∈ [(0 : Nat), 1, 2, 3, 4], let s := pier [.pierSub subOf7 named 0] 0 st 0 0
      s.net[0]? = some (.pierSub subOf7 named 0) ∧ (∃ h ∈ homeNow s named, toPier s named 0 = true ∧
        toPier { s with lowering := some ⟨siteOf h, 1, false, true, false, none, false, 0, []⟩ } named 0 = false) ∧ (graphAt s (nameCtx named)).bind (fun g => pierTensor g (nameTid named)) = some tensor7 ∧
        (resOf s 7).st = st) ∧
    (let n := mkName 7 1 0 0 0
     let s := pier [.pierRead n 0 0x10000 false] 0 0 0 0
     s.net[0]? = some (.pierRead n 0 0x10000 false) ∧ graphAt s (nameCtx n) = some pierGraph ∧ pierTensor pierGraph (nameTid n) = some tensor7 ∧
       stackReady s 0x10000 = true ∧ tileElems tensor7 (nameCoords n) = [2, 3] ∧
       ∀ o ∈ tileElems tensor7 (nameCoords n), stackFailed s (0x10000 + o) = false) :=
  ⟨by decide +kernel, by decide +kernel⟩

/-- PierSteps, requests: each op on each state of the entry, at a page that is free and at one that a window maps; a fill and an
eviction that end, with a reader and with none. -/
theorem witness_PierSteps_requests :
    (∀ op ∈ [(1 : Nat), 2, 3, 4], ∀ st ∈ [(0 : Nat), 1, 2, 3, 4], let s := pier [] op st 0 slice870
      msField s 0x816 0 1 = 1 ∧ registered s (resTid s) = some tensor7 ∧ resOp s = op ∧ (resOf s (resTid s)).st = st) ∧
    (let s := { pier [] 1 0 0 0 with live := [(siteOf 870, 2)] }
     msField s 0x816 0 1 = 1 ∧ resOp s = 1 ∧ (resOf s (resTid s)).st = 0 ∧ registered s (resTid s) = some tensor7 ∧ resPages s = 1 ∧ (∀ i, i < resPages s → pageFree s (resBase s + 8192 * i) = true)) ∧
    (let s := pier [] 1 0 0 0
     0 < resPages s ∧ pageFree s (resBase s + 8192 * 0) = false ∧ msField s 0x816 0 1 = 1 ∧ resOp s = 1 ∧ (resOf s (resTid s)).st = 0 ∧
       registered s (resTid s) = some tensor7) ∧
    (let s := pier [] 0 1 0 slice870
     (resOf s 7).st = 1 ∧ registered s 7 = some tensor7 ∧ stackReady s tensor7.base = true ∧ (resOf s 7).npg = 1 ∧
       (∀ i, i < 1 → stackFailed s (tensor7.base + 8192 * i) = false) ∧ tensor7.base + 8192 * (resOf s 7).npg ≤ (resOf s 7).bbase) ∧
    (∀ n ∈ [(0 : Nat), 1], (resOf (pier [] 0 4 n slice870) 7).st = 4 ∧ (resOf (pier [] 0 4 n slice870) 7).refc = n) :=
  by refine ⟨?_, ?_, ?_, ?_, ?_⟩ <;> decide +kernel

/-- LoweringSteps: the last site, and a number past it; lowerings that Table 2.4 permits and not; a complete site and one that is not;
a queued one that is not permitted any more; a lowering whose instances still move, one whose router holds a packet, one that may commit,
and one whose tables are loaded; tokens and aborts on the way and at their ends, with others left and with none. -/
theorem witness_LoweringSteps :
    (msField mapped 0x811 0 1 = 0 ∧ mapped.lowering = none ∧ mapped.lowerQ = [] ∧
      (∀ x ∈ [((21504 : Nat), (1 : Nat)), (21503, 0), (21503, 1)],
        let v := BitVec.ofNat 64 (x.2 * 2 ^ 16 + x.1)
        v.toNat % 2 ^ 15 = x.1 ∧ v.toNat / 2 ^ 16 % 4 = x.2) ∧
      loweringOk (classOf mapped (tileOfSite 21503)) 0 = false ∧ loweringOk (classOf mapped (tileOfSite 21503)) 1 = true) ∧
    (21503 < 21504 ∧ classOf mapped (tileOfSite 21503) = 0 ∧ classOf { mapped with live := [(21503, 1)] } (tileOfSite 21503) ≠ 0) ∧
    (let l : Lowering := ⟨21503, 1, false, true, true, none, false, 0, []⟩
     let s := { mapped with live := [(21503, 2)], lowerQ := [l] }
     s.lowering = none ∧ s.lowerQ = [l] ∧ loweringOk (classOf s (tileOfSite l.site)) l.cls = false ∧ l.req = true) ∧
    (let l : Lowering := ⟨siteOf 870, 1, false, true, true, none, false, 0, []⟩
     let w (n : Nat) : Vacate := ⟨[], [], [870], 0, n, [], [], []⟩
     let s := { mapped with lowering := some l, net := [.copy (pubOf name7 [1]) 870 []] }
     s.lowering = some l ∧ (w 2).phase ≠ 5 ∧ (w 5).phase = 5 ∧ s.lowVac = none ∧ l.sudden = false ∧ l.tables = false ∧
       { l with tables := true }.tables = true ∧
       routerEmpty s (tileOfSite l.site) = false ∧ routerEmpty { s with net := [] } (tileOfSite l.site) = true) ∧
    (∀ cs ∈ [([] : List Cut), [⟨0, [0], []⟩]],
      let l : Lowering := ⟨siteOf 870, 1, true, true, true, none, true, 0, []⟩
      let s := { mapped with tokens := [.link 871 3 cs []], lowering := some l }
      s.tokens[0]? = some (.link 871 3 cs []) ∧ (dropNth s.tokens 0 ++ cs.map .up ≠ [] ↔ cs ≠ []) ∧ s.aborts = [] ∧
        s.lowering = some l ∧ l.tables = true ∧ s.lowerQ = []) ∧
    (∀ p ∈ [([] : List Nat), [870]],
      let c : Cut := ⟨0, [0], p⟩
      let a := accOf .load (.s 5) (elem4 slice870 .bonded [])
      let s := { flying a with tokens := [.up c, .up c], aborts := [c, c] }
      s.tokens[0]? = some (.up c) ∧ s.aborts[0]? = some c ∧ accAt s c.id = some a ∧ 2 ≤ s.tokens.length ∧ 2 ≤ s.aborts.length) := by
  decide +kernel

/-- WatchSteps: no vacate and one in progress, stages 2 and 3; a site before and at ms.hb.to and 2^16 cycles, that beats, is probed, has failed once; one whose core must answer
and one in a gated bay; a first and a second failed probe of the keystone; sensors at 840, at lo, between them and at hi. -/
theorem witness_WatchSteps :
    let n := siteOf 870
    let at_ (k : Word) (b : Beat) := { mapped with kcyc := k, beats := [(n, b)] }
    watched mapped n = true ∧ msField mapped 0x820 0 32 = 0x800000 ∧
    ((Beat.none.probing = false ∧ Beat.none.fails = 0) ∧ 0x800000 ≤ ((0x800000 : Word) - Beat.none.last).toNat ∧
      ((0x7FFFFF : Word) - Beat.none.last).toNat < 0x800000 ∧ watched (at_ 0x800000 Beat.none) n = true) ∧
    (∀ b ∈ [(⟨0, true, 0, 0, 0, false⟩ : Beat), ⟨0, true, 0, 1, 0, false⟩], beatOf (at_ 0xFFFF b) n = b ∧ b.probing = true ∧
      ((at_ 0xFFFF b).kcyc - b.sentAt).toNat < 0x10000 ∧ 0x10000 ≤ ((at_ 0x10000 b).kcyc - b.sentAt).toNat) ∧
    (computeCapable mapped (tileOfSite n) = true ∧ getD false (bayOf (tileOfSite n)) mapped.gated = false) ∧
    getD false (bayOf (tileOfSite n)) { mapped with gated := [(bayOf 870, true)] }.gated = true ∧
    (let b : Beat := ⟨0, false, 0, 1, 0, false⟩
     beatOf (at_ 0x10000 b) n = b ∧ b.probing = false ∧ b.fails = 1 ∧ 0x10000 ≤ ((at_ 0x10000 b).kcyc - b.failedAt).toNat) ∧
    ((msRaw mapped 0x801).getLsbD 59 = false ∧ mapped.probeFails = 0 ∧ { mapped with probeFails := 1 }.probeFails ≠ 0 ∧
      mapped.lowering = none ∧ mapped.vacate = none ∧ { mapped with vacate := some ⟨[], [], [], 0, 2, [], [], []⟩ }.vacate ≠ none) ∧
    (3 ≤ stageOf mapped ∧ stageOf (paged.msPutStage { State.reset with ms := [(0x801, 0)] } 2) < 3) ∧
    (bayOf 870 ∈ bays ∧ (let v : Word := 0x0320028000040000
      let s := { mapped with ms := put (0x900 + bayOf 870) v mapped.ms }
      msRaw s (0x900 + bayOf 870) = v ∧ v.getLsbD 18 = true ∧ (v.extractLsb' 48 16).toInt = 800 ∧ (v.extractLsb' 32 16).toInt = 640 ∧
        840 ≤ ((840 : BitVec 16)).toInt ∧ ((639 : BitVec 16)).toInt < 840 ∧ ((640 : BitVec 16)).toInt ≤ 640 ∧ 640 < ((641 : BitVec 16)).toInt ∧
        ((839 : BitVec 16)).toInt < 840 ∧ 800 ≤ ((800 : BitVec 16)).toInt)) ∧
    isSite 870 = true ∧ ((coreAt { mapped with cores := [(870, { Core.reset with cyc := 15 })] } 870).cyc.toNat + 1) % 16 = 0 := by
  decide +kernel

/-- StartSteps: each stage; the last stack, before and after the end of its training; bays that are gated, with no wake, with two in
inrush, behind another, queued, and awake. -/
theorem witness_StartSteps :
    (∀ n ∈ [(0 : Nat), 1, 2, 3, 4, 6], stageOf (paged.msPutStage { State.reset with ms := [(0x801, 0)] } n) = n) ∧
    mapWf (State.reset.fused) = true ∧
    (let s := { mapped with hbmEnd := [] }
     stageOf s ≠ 0 ∧ 31 < 32 ∧ getD false 31 s.hbmEnd = false) ∧
    (let b := bayOf 870
     let s := { mapped with gated := [(b, true)] }
     getD false b s.gated = true ∧ s.wakeQ = [] ∧ s.inrush = [] ∧ (2 ≤ ([1, 2] : List Nat).length ∧ b ∉ [b + 1, b + 2]) ∧
       (let u := { s with wakeQ := [b + 1], inrush := [b + 2] }
        getD false b u.gated = true ∧ u.wakeQ = [b + 1] ∧ b ∉ u.wakeQ ∧ b ∉ u.inrush ∧ u.inrush.length = 1) ∧
       (let u := { s with wakeQ := [b], inrush := [b + 1, b + 2] }
        b ∈ u.wakeQ ∧ 2 ≤ u.inrush.length) ∧
       b ∈ [b] ∧ b ∉ s.inrush ∧ gateable { mapped with threads := [], cores := [] } b = true ∧ gateable s b = false) := by
  decide +kernel

/-- A write to ms.vacreq: an operation on the bays of a rectangle. -/
def vacReq (op x0 y0 x1 y1 : Nat) : Word := BitVec.ofNat 64 (x0 + 16 * y0 + 256 * x1 + 4096 * y1 + 2 ^ 20 * op)
/-- A vacate of the bay of tile (70, 5). -/
def vac (phase : Nat) : Vacate := ⟨[bayOf 870], [], [], 0, phase, [(870, 0)], [(0, 870)], []⟩
/-- A frozen thread of that graph. -/
def victim : Thread := { user [] 0 [] with status := .frozen }
/-- A saved thread. -/
def savedOf (blocks : Nat) (to_ : Option Nat) (complete : Bool) : Saved :=
  { th := victim, acc := none, cmds := [], extents := [], addr := areaBase 3, blocks := blocks, from_ := 870, to_ := to_, complete := complete }
/-- A machine before its stage 5 with a vacate, the frozen thread in its region, and saved threads: the area of stack 3 takes the images. -/
def vacating (v : Option Vacate) (l : List Saved) : State :=
  { mapped with ms := [], threads := [(13920, victim)], nextUid := 1, graphs := [(0, graphP)], vacate := v, saved := l }
/-- The same without the thread. -/
def emptied (v : Option Vacate) (l : List Saved) : State := { vacating v l with threads := [] }

/-- VacateSteps, requests: ops 0 and 3, corners out of order, a partition's port and the other one, a region whose save area is full and
one that passes, one of a higher priority beside a vacate, and a release with and without a vacate. -/
theorem witness_VacateSteps_requests :
    let f (v : Word) (lo w : Nat) := v.toNat / 2 ^ lo % 2 ^ w
    let a := vacReq 1 0 0 9 9
    (f (vacReq 0 0 0 9 9) 20 2 = 0 ∧ f (vacReq 3 0 0 9 9) 20 2 = 3 ∧ (f (vacReq 1 1 0 0 9) 20 2 = 1 ∧ f (vacReq 1 1 0 0 9) 8 4 < f (vacReq 1 1 0 0 9) 0 4) ∧
      f (vacReq 1 0 1 9 0) 12 4 < f (vacReq 1 0 1 9 0) 4 4) ∧
    (f a 20 2 = 1 ∧ ¬(f a 8 4 < f a 0 4 ∨ f a 12 4 < f a 4 4) ∧ (vacating none []).vacate = none ∧
      outsidePart (vacating none []) (some 1) (vacBays a) = true ∧ outsidePart (vacating none []) (some 0) (vacBays a) = false ∧
      outsidePart (vacating none []) none (vacBays a) = false ∧ hashHeld (vacating none []) = false ∧
      hashHeld { vacating none [] with lowering := some ⟨siteOf 870, 1, false, true, false, none, true, 0, []⟩ } = true) ∧
    (let s := vacating none [⟨{ victim with uid := 7 }, none, [], [], areaBase 3, 16384, 870, none, true⟩]
     vacCheck (msWriteBits s 0x812 a (BitVec.allOnes 64)) ⟨vacBays a, if f a 22 1 = 1 then vacBays a else [], [], f a 16 3, 1, [], [], []⟩ = some 3 ∧
       s.vacate = none) ∧
    (let s := vacating none []
     vacCheck (msWriteBits s 0x812 a (BitVec.allOnes 64)) ⟨vacBays a, if f a 22 1 = 1 then vacBays a else [], [], f a 16 3, 1, [], [], []⟩ = none) ∧
    (let b := a + 2 ^ 16
     let s := vacating (some (vac 3)) []
     f b 20 2 = 1 ∧ ¬(f b 8 4 < f b 0 4 ∨ f b 12 4 < f b 4 4) ∧ s.vacate = some (vac 3) ∧ (vac 3).prio < f b 16 3 ∧
       outsidePart s none (vacBays b) = false ∧ (vac 3).phase ≤ 3 ∧
       vacCheck (msWriteBits s 0x812 b (BitVec.allOnes 64)) { vac 3 with
         bays := join (vac 3).bays (vacBays b), gateBays := join (vac 3).gateBays (if f b 22 1 = 1 then vacBays b else []), prio := f b 16 3 } =
         none) ∧
    (f (vacReq 2 0 0 9 9) 20 2 = 2 ∧ ¬(f (vacReq 2 0 0 9 9) 8 4 < f (vacReq 2 0 0 9 9) 0 4 ∨ f (vacReq 2 0 0 9 9) 12 4 < f (vacReq 2 0 0 9 9) 4 4) ∧
      outsidePart (vacating none []) none (vacBays (vacReq 2 0 0 9 9)) = false ∧ (vacating (some (vac 1)) []).vacate ≠ none) :=
  by refine ⟨?_, ?_, ?_, ?_, ?_, ?_⟩ <;> decide +kernel

/-- VacateSteps, grace and saving: a graph's grace of 16 cycles a cycle before its end and at it; a frozen thread that is next to be
saved; one whose save has begun and may end. -/
theorem witness_VacateSteps_save :
    (∀ n ∈ [(15 : Nat), 16],
      let v := { vac 1 with expired := [] }
      let s := { vacating (some v) [] with cores := [(870, { Core.reset with cyc := BitVec.ofNat 64 n })] }
      s.vacate = some v ∧ graphAt s 0 = some graphP ∧ (0, 870) ∉ v.expired ∧ find 870 v.gates = some 0 ∧
        (decide (((coreAt s 870).cyc - 0).toNat < graphP.grace) = (n == 15))) ∧
    (let s := vacating (some (vac 1)) []
     threadAt s 13920 = some victim ∧ saveNext s (bayOf (tileOf 13920)) = some 13920 ∧ s.saved = [] ∧ (coreAt s (tileOf 13920)).mq = [] ∧
       s.inflight = [] ∧ areaFind s (savePier s (tileOf 13920)) (imageBlocks s (tileOf 13920) victim) = some 0) ∧
    (let v := savedOf 1 none false
     let s := vacating (some (vac 2)) [v]
     s.saved.find? (fun v => v.th.uid == 0 && !v.complete) = some v ∧ keyOfUid s 0 = some 13920 ∧ threadAt s 13920 = some victim ∧
       victim.uid = 0 ∧ s.inflight = [] ∧ threadCmds s (tileOf 13920) 0 = [] ∧ stackReady s v.addr = true) :=
  ⟨by decide +kernel, by decide +kernel, by decide +kernel⟩

/-- VacateSteps, the end: a region before and after its threads left it, one with a saved thread left to fold or to restore and one
with none, and a saved thread whose new tile has its slot. -/
theorem witness_VacateSteps_end :
    (∀ b ∈ [true, false], let s := if b then emptied (some (vac 2)) [] else vacating (some (vac 2)) []
      s.lowVac = none ∧ s.vacate = some (vac 2) ∧ (vac 2).phase < 3 ∧ rehomeReady s (vac 2) = b) ∧
    (∀ n ∈ [(3 : Nat), 4, 5], ∀ l ∈ [[], [savedOf 1 none true]], let s := emptied (some (vac n)) l
     s.lowVac = none ∧ s.vacate = some (vac n) ∧ (vac n).phase = n ∧ stillSaved s (vac n) = !l.isEmpty ∧ s.vacHeld = none ∧
       (vac n).bays.length < 256) ∧
    (let v := savedOf 1 (some 870) true
     let s := vacating none [v]
     s.saved.find? (fun v => v.th.uid == 0 && v.complete) = some v ∧ keyOfUid s 0 = some 13920 ∧ v.to_ = some (tileOf 13920) ∧
       inRegion s (tileOf 13920) = false ∧ stackReady s v.addr = true ∧ readLe s (v.addr + 6) 1 / 2 % 2 = 0 ∧ v.th.held = [] ∧
       ∀ x : Stored, cmdRoom s (tileOf 13920) (cmdsOfImage v.cmds x) = true) ∧
    (let s := { emptied (some (vac 2)) [] with lowering := some ⟨siteOf 870, 1, false, true, false, none, true, 0, []⟩ }
     s.lowVac = none ∧ s.vacate = some (vac 2) ∧ hashHeld s = true) := by
  refine ⟨?_, ?_, ⟨?_, ?_, ?_, ?_, ?_, ?_, ?_, fun x => ?_⟩, ?_⟩
  case refine_10 =>
    have e : cmdsOfImage (savedOf 1 (some 870) true).cmds x = [] := by simp [cmdsOfImage, savedOf]
    simp only [e]
    decide +kernel
  all_goals decide +kernel

/-- A request for a checkpoint. -/
def ckReq (what n dev : Nat) : Word := BitVec.ofNat 64 (what + 2 ^ 16 * n + 2 ^ 32 * dev)
/-- A machine with 56 links up. -/
def linked : State := { mapped with linksUp := (List.range 56).map (fun p => (p, true)) }

/-- CheckpointAndEvictor, the checkpoint: busy; no selection, 55 and 145 links, the own device and 0xFFF; 56 links up and one less; one
that runs, and lines that it sends, one that is listed and one that is not, with
its stacks trained and before. -/
theorem witness_CheckpointAndEvictor_checkpoint :
    (msField { mapped with ms := put 0x831 1 mapped.ms } 0x831 0 1 = 1 ∧ msField mapped 0x831 0 1 = 0) ∧
    (∀ x ∈ [((0 : Nat), (56 : Nat), (1 : Nat)), (1, 55, 1), (1, 145, 1), (1, 56, 0xFFF), (3, 56, 1), (3, 144, 1)],
      (ckReq x.1 x.2.1 x.2.2).toNat % 4 = x.1 ∧ (ckReq x.1 x.2.1 x.2.2).toNat / 2 ^ 16 % 256 = x.2.1 ∧
        (ckReq x.1 x.2.1 x.2.2).toNat / 2 ^ 32 % 4096 = x.2.2) ∧
    devId mapped = 0xFFF ∧ portsUp mapped < 56 ∧ 56 ≤ portsUp linked ∧
    (let s := { linked with ckpt := some ⟨3, 56, 1⟩ }
     s.ckpt = some ⟨3, 56, 1⟩ ∧ ckReady s 3 = true ∧ ckReady { s with ms := [] } 3 = false ∧ (upPorts s).take 56 ≠ [] ∧ 0x2000 / 64 ∈ listedLines s ∧ ckTakes s 3 (0x2000 / 64) = true ∧
       0 ∉ listedLines s ∧ ckTakes s 3 0 = true) := by
  decide +kernel

/-- A machine whose 8 KiB page at the start of the slice of tile (70, 5) may be taken, with a command whose tail is past it or at its
start, a free frame or not, and a threshold. -/
def evictable (tail : Nat) (free : Bool) (limit : Nat) : State :=
  { writeLe (writeLe (writeLe mapped (0x4000 + 8 * 262) 8 0x6001) (0x6000 + 8 * 816) 8 0x8001) 0x8000 8 (slice870 + 0x20F) with
    graphs := [(0, graphP)], cores := [(870, { Core.reset with eng0 := [cmd 0] })], tails := [(870, 0, 0, tail)], frames := [(0, free)],
    ms := put 0x817 (BitVec.ofNat 64 (limit * 2 ^ 32)) mapped.ms }
/-- A page of 8 KiB that moves from that slice to stack 0. -/
def moving (phase : Nat) : PageMove := ⟨0x4000 + 8 * 262, slice870, 0x80000, 0, slice870, 0, phase, 1⟩

theorem limit_field (tail : Nat) (free : Bool) (limit : Nat) (h : limit < 2 ^ 16) :
    msField (evictable tail free limit) 0x817 32 16 = limit := by
  have e : msRaw (evictable tail free limit) 0x817 = BitVec.ofNat 64 (limit * 2 ^ 32) := rfl
  simp only [msField, e, BitVec.toNat_ofNat]
  omega

/-- However many frames system software left free, fewer GiB of them are free than the largest threshold. -/
theorem belowLimit_most (tail : Nat) (free : Bool) : belowLimit (evictable tail free 0xFFFF) 0 = true := by
  have h : (Config.freeCount 0).toNat < 2 ^ 32 := (Config.freeCount 0).isLt
  have l : msField (evictable tail free 0xFFFF) 0x817 32 16 = 0xFFFF := limit_field tail free 0xFFFF (by decide)
  have n : ((((evictable tail free 0xFFFF).frames.filter (fun e => tierFrame 0 e.1)).filter
      (fun e => e.2 && !Config.freeFrame e.1)).length ≤ 1) :=
    (List.length_filter_le _ _).trans ((List.length_filter_le _ _).trans (by simp [evictable]))
  unfold belowLimit freeFrames
  simp only [if_pos, l]
  simp only [decide_eq_true_eq]
  omega

theorem belowLimit_zero (tail : Nat) (free : Bool) : belowLimit (evictable tail free 0) 0 = false := by
  have l : msField (evictable tail free 0) 0x817 32 16 = 0 := limit_field tail free 0 (by decide)
  unfold belowLimit
  simp [l]

/-- CheckpointAndEvictor, the evictor: frames of a resident copy and others, with pages short and not; a page below the low-water mark and
one that is not, a frame that is free and one that is not; each phase of a move, with an access that used the translation and with
none, before its stacks are trained, and to host memory with a poisoned line. -/
theorem witness_CheckpointAndEvictor_evictor :
    (∀ lim ∈ [(0 : Nat), 0xFFFF], let e : Nat × ResEntry := (7, ⟨2, 0, slice870, 1⟩)
      residentAt { evictable 0 true lim with residency := [e] } slice870 = some e ∧ residentAt (evictable 0 true lim) 0 = none) ∧
    (∀ x ∈ [((slice870 + 0x2000 : Nat), true), (slice870, false)], ∀ lim ∈ [(0 : Nat), 0xFFFF],
      let s := evictable x.1 x.2 lim
      let n := 2 ^ (13 + 10 * 0)
      s.move = none ∧ graphAt s 0 = some graphP ∧ walk s graphP.root slice870 = .leaf slice870 0x020D9800020F 0 ∧
        leafAt s slice870 [3, 2, 1, 0] (graphP.root.toNat / 2 ^ 13 % 2 ^ 35 * 2 ^ 13) = some (0x8000, 0) ∧
        (0x020D9800020F : Word).getLsbD 9 = true ∧ decide (slice870 / n * n + n ≤ lowWater s 0) = x.2 ∧
        moveTiers slice870 0 n = true ∧ framesOf 0 n = [0] ∧ frameFree s 0 = x.2) ∧
    (∀ p ∈ [(0 : Nat), 1, 2], let s := { mapped with move := some (moving p) }
      s.move = some (moving p) ∧ (moving p).phase = p) ∧
    (let s := { mapped with move := some (moving 2), inflight := [{ accOf .load (.s 5) { elem4 slice870 .bonded [] with va := slice870 } with leaves := [(slice870, 2 ^ 13)] }] }
     accessesClear s (moving 2).limit ((moving 2).removal s) = false) ∧
    (let s := { pagedG with graphs := [(0, graphP), (1, graphP)] }
     let r := (moving 2).removal s
     graphAt s (moving 2).ctx = some graphP ∧ r.ofRoot 1 = true ∧ r.ofRoot ksRoot = true ∧ r.ofRoot 2 = false) ∧
    (let s := { mapped with move := some (moving 2), cores := [] }
     let m := moving 2
     let n := 2 ^ (13 + 10 * m.lvl)
     s.inflight = [] ∧ (∀ c ∈ s.cores, c.2.eng0 = [] ∧ c.2.eng1 = []) ∧ stackReady s m.f1 = true ∧ stackReady s m.f2 = true ∧
       stackReady { s with ms := [] } m.f2 = false ∧
       (let h := { m with f2 := 0x040000000000 }
        let u := { s with move := some h, poison := [(slice870 / 64, true)] }
        2 ≤ h.phase ∧ stackReady u h.f1 = true ∧ 0x040000000000 ≤ h.f2 ∧ 0 < n ∧ lineBad u (h.f1 + 0) = true) ∧
       stackFailed s m.f1 = false ∧ m.f2 < 0x040000000000 ∧
       siteLost s m.f1 (if m.f1 < 0x020000000000 then .hbm else .bonded) = false ∧
       (m.pte + 8 ≤ m.f2 ∨ m.f2 + n ≤ m.pte) ∧ (m.f1 + n ≤ m.f2 ∨ m.f2 + n ≤ m.f1)) :=
  by refine ⟨?_, ?_, ?_, ?_, ?_, ?_⟩ <;> decide +kernel

/-- HostAndPeerSteps, registers and vectors: registers that each port may write and may not, no register, both ends of the MSI-X table,
a port that is visible and one that is not yet, and the last vector of the last port, pending and not. -/
theorem witness_HostAndPeerSteps_registers :
    (∀ p, p < 2 → msAssigned 0x812 = true ∧ hostMay p 0x812 = true) ∧ (1 : BitVec 8) ≠ 0 ∧
    (pcieUp mapped = true ∧ pcieUp State.reset = false) ∧
    (∀ n ∈ [(0xFFFFF : Nat), 0x101000], msAssigned n = false ∧ (n < 0x100000 ∨ 0x101000 ≤ n)) ∧
    (msAssigned 0x80D = false ∧ hostMay 0 0x801 = false ∧ msAssigned 0x801 = true ∧ hostMay 1 0x804 = false ∧ hostMay 1 0x805 = true) ∧
    ((1 < 2 ∧ 2047 < 2048) ∧ getD false (2048 * 1 + 2047) { mapped with msixPend := [(4095, true)] }.msixPend = true ∧
      getD false (2048 * 1 + 2047) mapped.msixPend = false) := by
  decide +kernel

/-- A machine whose BAR2 of port 0 begins at an address. -/
def bar2 (base : Nat) : State := { mapped with ms := put 0x80B (BitVec.ofNat 64 (base + 1)) mapped.ms }

theorem pow_split (k : Nat) (h : k < 7) (x : Nat) : x * 2 ^ 36 / 2 ^ (30 + k) * 2 ^ (30 + k) = x * 2 ^ 36 := by
  have e : (2 : Nat) ^ 36 = 2 ^ (6 - k) * 2 ^ (30 + k) := by rw [← Nat.pow_add]; congr 1; omega
  rw [e, ← Nat.mul_assoc, Nat.mul_div_cancel _ (Nat.pow_pos (by decide))]

/-- An acquire in flight whose thread has fetched the eight bytes at an address. -/
def fetchedAt (pa : Nat) : Access :=
  { accOf (.amo .add) .none (elem4 slice870 .bonded [true]) with uid := 9, acq := true, ahead := [(pa, 8)] }

/-- HostAndPeerSteps, BAR2: address 0 and the first address that BAR2 does not reach, whatever sizes its hosts chose; a stack that trains,
a site that no route reaches, an acquire with that address fetched ahead of it, and an operation with no such width. -/
theorem witness_HostAndPeerSteps_bar2 :
    (∀ x ∈ [(0 : Nat), 57], bar2Addr (bar2 (x * 2 ^ 36)) 0 0 = some (x * 2 ^ 36)) ∧
    (bar2Takes (bar2 0) 0 = true ∧ bar2Takes (bar2 0) (0 + (8 - 1)) = true ∧ bar2Waits (bar2 0) 0 = false ∧ gone (bar2 0) 0 = false ∧
      abutRoutes (bar2 0) (hostAgent 0) 0 = true ∧ bar2Waits { bar2 0 with ms := [] } 0 = true ∧
      abutRoutes { bar2 0 with live := [(siteOf 870, 3)] } (hostAgent 0) slice870 = false ∧
      aheadMeets (bar2 0) (bar2 0).nextUid 0 8 = false ∧
      aheadMeets { bar2 0 with inflight := [fetchedAt 0] } (bar2 0).nextUid 0 8 = true ∧ opNew .cas 16 0 0 0 = none ∧
      opNew .cas 8 0 0 0 ≠ none ∧ 0 % 8 = 0) ∧ bar2Takes (bar2 (57 * 2 ^ 36)) (57 * 2 ^ 36) = false := by
  refine ⟨?_, by decide +kernel, by decide +kernel⟩
  intro x hx
  have g : (msRaw (bar2 (x * 2 ^ 36)) 0x80B).getLsbD 0 = true ∧ pcieUp (bar2 (x * 2 ^ 36)) = true ∧
      (msRaw (bar2 (x * 2 ^ 36)) 0x80B).toNat / 2 ^ 30 % 2 ^ 18 * 2 ^ 30 = x * 2 ^ 36 := by
    revert x; decide +kernel
  unfold bar2Addr
  simp only [Nat.zero_mod, Nat.add_zero]
  rw [g.1, g.2.1, g.2.2, pow_split _ (Nat.mod_lt _ (by decide))]
  simp

/-- A machine with its peer-visible window at the slice of tile (70, 5), as device 5, whose one link that is up is at abutment 32. -/
def visible : State :=
  { mapped with linksUp := [(0, true)], ms := put 0x802 5 (put 0x803 (BitVec.ofNat 64 (slice870 / 2 ^ 35 * 2 ^ 35 + 1)) mapped.ms) }
/-- Whatever port the free value would take first, the one that is up carries the traffic of every device. -/
theorem peerAgent_visible (dev : Nat) : peerAgent visible dev = 32 := by
  have h : ∀ q : Fin 144, ((upTo 144).map (fun i => (q.val + i) % 144)).find? (linkIsUp visible) = some 0 := by decide +kernel
  simp [peerAgent, peerPort, portAgent, h]
/-- A peer's access to the first bytes of that slice. -/
def peerOf (k : PeerKind) (l : List PByte) : Peer :=
  { dev := 6, seq := 1, off := slice870 % 2 ^ 35, len := 8, kind := k, bytes := l, b := 0, c := 0 }
/-- An access in flight to a peer. -/
def toPeer (k : AccKind) : Access := accOf k .none { elem4 (0x0C0000000000 + 64) .peer [true] with sent := true }

/-- HostAndPeerSteps, Cufort: a duplicate, a window that is not enabled, a load, a store whose bytes are clean, poisoned and left
out, and an atomic, with a route to the slice and with its neighbours gone; a load and a store to a peer that wait for their answers; the seventh and the last resend; both ends of the ports. -/
theorem witness_HostAndPeerSteps_cufort :
    (let s := { visible with peerSeen := [(6, 1, [], false)] }
     s.peerSeen.find? (fun e => e.1 == 6 && e.2.1 == 1) = some (6, 1, [], false)) ∧
    (visible.peerSeen.find? (fun e => e.1 == 6 && e.2.1 == 1) = none ∧ peerAddr mapped 0 = none ∧
      mapped.peerSeen.find? (fun e => e.1 == 6 && e.2.1 == 1) = none) ∧
    (∀ p ∈ [peerOf .load [], peerOf .store [.val 7, .bad, .keep], peerOf (.amo .add .u64) []],
      peerAddr visible p.off = some slice870 ∧ peerTakes visible slice870 = true ∧ peerTakes visible (slice870 + (peerSize p - 1)) = true ∧
        stackReady visible slice870 = true ∧ stackFailed visible slice870 = false ∧
        aheadMeets visible visible.nextUid slice870 (peerSize p) = false ∧ abutRoutes visible 32 slice870 = true ∧
        (let u := { visible with live := ((upTo 4).filterMap (neighbour 870)).map (fun t => (siteOf t, 3)) }
         peerAddr u p.off = some slice870 ∧ peerTakes u slice870 = true ∧ peerTakes u (slice870 + (peerSize p - 1)) = true ∧
          stackReady u slice870 = true ∧ abutRoutes u 32 slice870 = false)) ∧ (∀ dev, peerAgent visible dev = 32) ∧
    (stackReady { visible with ms := put 0x803 (BitVec.ofNat 64 1) (put 0x802 5 []) } 0 = false ∧
      peerAddr { visible with ms := put 0x803 (BitVec.ofNat 64 1) (put 0x802 5 []) } 0 = some 0 ∧
      peerTakes { visible with ms := put 0x803 (BitVec.ofNat 64 1) (put 0x802 5 []) } 0 = true) ∧
    (accAt (flying (toPeer .load)) (0 / 64) = some (toPeer .load) ∧ (toPeer .load).kind ≠ .store ∧ (toPeer .load).kind ≠ .scadd) ∧
    (let e := { elem4 (0x0C0000000000 + 64) .peer [true] with sent := true }
     accAt (flying (toPeer .store)) (0 / 64) = some (toPeer .store) ∧ (toPeer .store).kind = .store ∧ (toPeer .store).elems = [e] ∧
       e.path = .peer ∧ e.sent = true ∧ e.done = false ∧ e.cut = false ∧ e.w ≠ 0 ∧ (toPeer .store).dst = .none ∧ 0 % 64 = 0) ∧
    (let o : Out := .peerReq 6 64 0 .load []
     let s := { flying (toPeer .load) with outHost := [o], resends := [(0, 7)] }
     lastPeerReq s 0 = some o ∧ peerOpen s 0 = true ∧ getD 0 0 s.resends < 8) ∧ (0 < 144 ∧ 143 < 144) :=
  by refine ⟨?_, ?_, ?_, peerAgent_visible, ?_, ?_, ?_, ?_, ?_, ?_⟩ <;> decide +kernel

/-! Further clauses. -/

/-- MatrixSyllablesQueue: a shape record that no MSHAPE has loaded, and one whose rows pass their bound, as the last syllable that a bundle holds. -/
theorem witness_MatrixSyllablesQueue_SHAPE :
    shapeCheck ((on Regs.reset (.nop 0)).issue.src.rdSh 1) .e4m3 true = some (7, 0, 0) ∧
    shapeCheck ⟨shape1.bits + 1, true⟩ .f16 false = some (1, 2, 1) ∧
    ({ (on Regs.reset (.nop 0)).issue with idx := 5 } : Issue).idx < 8 := by
  decide +kernel

/-- MatrixUnitSteps, the element sums: an operation of each kind names what its B is, and a partial of no terms begins at 0. -/
theorem witness_MatrixUnitSteps_sums (c : ObView) :
    (∃ (B : Nat → FV × Bool) (sb : Nat → Option (Nat × Int) × Bool), let o := mop (.mma .f16 0 1) true false
      o.kind = .mma .f16 0 1 ∧ false = shScb o.shape ∧ (∀ k, B k = obElem c 1 (shB0 o.shape) .f16 k) ∧ ∀ blk, sb blk = (some (1, 0), false)) ∧
    (∃ sb : Nat → Option (Nat × Int) × Bool, let o := { mop (.mmacb .e4m3 0 1 none 0) true false with shape := shape128.bits }
      o.kind = .mmacb .e4m3 0 1 none 0 ∧ shK o.shape = 128 ∧ ∀ blk, sb blk = obScale c 1 (shB0 o.shape) (blk / 4)) ∧
    (∀ f : Nat → Nat → Nat, ∃ p : Nat → Nat, p 0 = 0 ∧ ∀ j, p (j + 1) = f (p j) j) :=
  ⟨⟨_, _, rfl, rfl, fun _ => rfl, fun _ => rfl⟩, ⟨_, rfl, by decide +kernel, fun _ => rfl⟩,
    fun f => ⟨fun n => Nat.rec 0 (fun j x => f x j) n, rfl, fun _ => rfl⟩⟩

/-- The registers of the sinks: those of memory, with lanes 3 and 63 of v1 poisoned. -/
def sinkRegs (psink : Bool) : Regs :=
  { mregs psink with v := [(1, (List.range 64).map (fun i => ⟨BitVec.ofNat 32 i, i == 3 || i == 63⟩))] }

/-- StoresEnterFlight and AtomicsEnterFlight, sinks: a poisoned lane and a poisoned address, with each value of psink, at addresses that
pass their checks, and a poisoned scalar of each atomic. -/
theorem witness_sinks :
    (∀ b, RunsV (on (sinkRegs b) (.nop 0)) (thr (sinkRegs b)) 0 ∧ Runs (on (sinkRegs b) (.nop 0)) (thr (sinkRegs b)) 0 ∧
      (on (sinkRegs b) (.nop 0)).issue.src.psink = b) ∧
    (∀ b ∈ [true, false], let s := on (sinkRegs b) (.nop 0)
      let lanes := lanesOn (rdP s 0)
      lanes.find? (fun n => (rdS s 4).poison || (rdS s 0).poison || ((rdV s 1).lane n).poison) = some 3 ∧
      lanes.find? (fun n => (rdS s 6).poison || (rdS s 0).poison || ((rdV s 1).lane n).poison) = some 0 ∧
      lanes.find? (fun n => (rdS s 4).poison || ((rdV s 3).lane n).poison || ((rdV s 1).lane n).poison) = some 3 ∧
      ((rdS s 6).poison || (rdS s 0).poison || (rdS s 0).poison) = true ∧
      (∀ a ∈ [(4 : SReg), 6],
        checkAddrs (spaceOf s 13920 (thr (sinkRegs b))) needWr anyPath 4
          (lanes.map (fun n => ((rdS s a).val.toNat + (rdS s 0).val.toNat + 0 + n * 4) % 2 ^ 53)) s =
          (s, .ok (lanes.map (fun n => (0x2000 + 4 * n, at2000.2.1 + 4 * n, .own)))) ∧
        checkAddrs (spaceOf s 13920 (thr (sinkRegs b))) needWr anyPath 4
          (lanes.map (fun n => ((rdS s a).val.toNat + ((rdV s 3).lane n).val.toNat + 0) % 2 ^ 53)) s = (s, .ok (List.replicate 64 at2000)) ∧
        checkAddrs (spaceOf s 13920 (thr (sinkRegs b))) ⟨true, true, true, none⟩ (fun p => p != .host) 4
          (lanes.map (fun n => ((rdS s a).val.toNat + ((rdV s 3).lane n).val.toNat + 0) % 2 ^ 53)) s = (s, .ok (List.replicate 64 at2000)) ∧
        checkAddrs (spaceOf s 13920 (thr (sinkRegs b))) ⟨true, true, true, hostCap .cas .u32⟩ (atomicCarried .cas .u32) 4
          [((rdS s a).val.toNat + 0) % 2 ^ 53] s = (s, .ok [at2000]))) ∧
    (∀ b ∈ [true, false], let s := binTable (on (sinkRegs b) (.nop 0))
      issuer s = some (thr (sinkRegs b)) ∧ s.issue.src.psink = b ∧ (rdS s 6).poison = true ∧ (rdS s 4).poison = false ∧
      (∃ i ∈ lanesOn (rdP s 0), ((rdS s 4).poison || ((rdV s 3).lane i).poison || ((rdV s 1).lane i).poison) = true) ∧
      readHeld s (thr (sinkRegs b)) = false ∧ storesOver s 0 (some .own) at2000.2.1 64 = false ∧ binCheck s 0x2000 at2000.2.1 = none ∧
      ∀ a ∈ [(4 : SReg), 6], ((rdS s a).val.toNat + 0) % 2 ^ 53 < 0x2000000 ∧
        checkAddrs (spaceOf s 13920 (thr (sinkRegs b))) ⟨true, true, true, none⟩ (fun p => p == .own || p == .view) 64
          [((rdS s a).val.toNat + 0) % 2 ^ 53] s = (s, .ok [at2000])) :=
  ⟨fun b => ⟨runsV _ _, runs _ _, rfl⟩, by decide +kernel, by decide +kernel⟩

/-- ReadModifyWrites, BINAPP: a table of one cell whose parts do not overlap. -/
theorem witness_ReadModifyWrites_BINAPP :
    (1 : Nat) < 2 ^ 32 ∧ List.Pairwise (fun (x y : Nat × Nat) => x.1 + x.2 ≤ y.1 ∨ y.1 + y.2 ≤ x.1)
      [(28, 8), (64, 4 * 1), (68, 4 * 1 * 1), (72, 8 * 1)] := by
  decide

/-- A load of its own scratchpad that has come to its bank. -/
def atBank (s : State) (pa : Nat) : State :=
  { s with inflight := [accOf .load (.s 60) (elem4 pa .own [])], nextAcc := s.nextAcc + 1, arrived := [(0, 1, pa / 8)] }

/-- NamesPublishAndSubscribe: a misaligned payload, one that is too long, one that begins past the scratchpad and one that leaves it;
a copy whose bank has a request before it, and one whose banks have none. -/
theorem witness_NamesPublishAndSubscribe_checks :
    (let th := user [(10, 1), (11, 0xFEFFFF00), (12, 0xFC004), (13, 16385), (14, 0x100000), (15, 0xFFFF8), (16, 16)] 0 []
     let s := onT th (.nop 0)
     (rdS s 12).val.toNat % 8 ≠ 0 ∧ 16384 < (rdS s 13).val.toNat ∧ (rdS s 14).val.toNat % 8 = 0 ∧ padSize s.tile ≤ (rdS s 14).val.toNat ∧
       (rdS s 15).val.toNat % 8 = 0 ∧ padSize s.tile < (rdS s 15).val.toNat + (rdS s 16).val.toNat) ∧
    (let s := onT (user [(11, 0x700), (12, 0xFBFE0)] 2 []) (.nop 0)
     let pa := padBase s.tile + 0xFBFE0
     banksFree s s.tile pa 34 = true ∧ banksFree (atBank s pa) s.tile pa 34 = false ∧
       headerLost s s.tile (pairName s (user [(11, 0x700), (12, 0xFBFE0)] 2 []) 5) = false ∧
       headerLost { s with struck := [(0, .header s.tile (pairName s (user [(11, 0x700), (12, 0xFBFE0)] 2 []) 5))] } s.tile
         (pairName s (user [(11, 0x700), (12, 0xFBFE0)] 2 []) 5) = true) := by
  decide +kernel

/-- BarriersAndSpawn, BARX and completions: no capability; a parent that is live and one that has ended. -/
theorem witness_BarriersAndSpawn_rest :
    Runs (on Regs.reset (.nop 0)) (thr Regs.reset) 0 ∧ capTarget (on Regs.reset (.nop 0)) 0 = .none ∧
    parentLive (spawner 1) 0 = true ∧ parentLive { spawner 1 with graphs := [] } 0 = false :=
  ⟨runs _ _, by decide +kernel⟩

/-- BarriersAndSpawn, SPAWN: banks that have a request before the read, a lowering at the tile, a poisoned record, a malformed and a
zero-count one, the depth limit, and a thread of the keystone. -/
theorem witness_BarriersAndSpawn_records :
    (let s := spawner 1
     let pa := padBase s.tile + 0xFFFC0
     banksFree s s.tile pa 64 = true ∧ banksFree (atBank s pa) s.tile pa 64 = false ∧ injectionStopped s s.tile = false ∧
       injectionStopped { s with lowering := some ⟨siteOf 870, 1, false, true, false, none, false, 0, []⟩ } s.tile = true ∧
       rangeBad { s with poison := [(pa / 64, true)] } pa 64 = true ∧
       recMalformed (readBytes (writeLe s (pa + 8) 8 0x0004000100010401) pa 64) = true ∧
       recZero (readBytes (writeLe s (pa + 8) 8 0x0004000100000001) pa 64) = true ∧
       recMalformed (readBytes (writeLe (writeLe s pa 8 0x10000) (pa + 8) 8 0x0004000100000001) pa 64) = false) ∧
    (graphAt (spawner 24) 0).map (fun g => g.depth + 1) = some 25 ∧ isKs (spawner 24).tile = false ∧
    isKs ({ spawner 1 with issue := { (spawner 1).issue with key := keyOf Config.ks 0 } } : State).tile = true := by
  decide +kernel

/-- A handler that ends, of a frozen thread with a record. -/
def ending (r : Option FaultRec) (st : Status) : State := served { thr Regs.reset with fault := r } Regs.reset |> fun s =>
  { s with threads := [(13920, { thr Regs.reset with fault := r, status := st }), (13934, helper Regs.reset)] }
/-- A fault's record. -/
def record0 : FaultRec := ⟨.perm, 0, 0, 70, 5, 0, 0, 0, 0x1000, 1, 0, 0, none, 0, 0, 0, siteOf 870⟩

/-- NopYieldSleepEnd, a handler's TEND: with the thread that it serves saved, ready again, and still frozen. -/
theorem witness_NopYieldSleepEnd_handler :
    Runs (ending (some record0) .frozen) (helper Regs.reset) 0 ∧
    (let th := helper Regs.reset
     th.kind = .handler 1 0 ∧ th.regs.k0 = some ⟨0, 0⟩) ∧
    (∃ v ∈ ({ ending (some record0) .frozen with saved := [⟨thr Regs.reset, none, [], [], 0, 1, 870, none, true⟩] } : State).saved,
      v.th.uid = 0 ∧ v.th.fzGen = 0) ∧
    (∀ st ∈ [Status.ready, .frozen], let s := ending (some record0) st
      let gone := dropThread (withdrawAll s (tileOf s.issue.key) (helper Regs.reset)) s.issue.key
      s.saved = [] ∧ keyOfUid gone 0 = some 13920 ∧ (threadAt gone 13920).map (fun v => (v.fzGen, v.status, v.fault)) = some (0, st, some record0) ∧
        (coreAt s s.tile).mq = [] ∧ s.inflight = []) :=
  ⟨⟨rfl, by simp [rdP, Regs.rdP]⟩, by decide +kernel, by decide +kernel, by decide +kernel⟩

/-- ControlRegisters: a queue of random bits that is empty, and one that is full. -/
theorem witness_ControlRegisters_rng : Regs.reset.rng.cnt ≤ 4 ∧ ({ Regs.reset.rng with cnt := 4 } : Rng).cnt ≤ 4 := by
  decide

/-- FrozenThreads: an element of each file whose write is outstanding, and indexes past each file's end. -/
theorem witness_FrozenThreads_pending :
    (∀ x ∈ [(File.s, Dst.s 63, 63), (.v, .v 31, 31), (.sh, .sh 7, 23)],
      let s := { served (thr Regs.reset) Regs.reset with inflight := [accOf .load x.2.1 (elem4 at2000.2.1 .own [])] }
      frzPending s 13920 { thr Regs.reset with status := .frozen } x.1 x.2.2 = true) ∧
    (let s := { served (thr Regs.reset) Regs.reset with cores := [(870, { Core.reset with holder := some 0, mq := [mop .mzero false false] })] }
     frzPending s 13920 { thr Regs.reset with status := .frozen } .ac 31 = true) ∧
    (64 ≤ (rdS (on (sregs [(4, 64), (5, 512), (6, 24), (7, 0), (8, 0x15)]) (.nop 0)) 4).val.toNat ∧
      ¬((1 ≤ 0 ∧ 0 ≤ 5) ∨ (0x10 ≤ 0 ∧ 0 ≤ 0x14))) := by
  decide +kernel

/-- CoreSteps, fetches: a bundle of two words of which one waits at its bank, and one whose banks are free. -/
theorem witness_CoreSteps_fetch :
    let u := tick (placeWords State.reset [0x00001851C0050000, 0xD060000000000000]) 870
    let pa := padBase 870 + 0x1000
    let w := atBank u pa
    fetchStalls w 13920 (placedThread 0) = some 2 ∧ suppressed w 870 = false ∧
    selected (coreAt w 870) (readyOn w 870) = some (13920, placedThread 0, .go) ∧
    unfetched 13920 (placedThread 0) 2 = [pa, pa + 8] ∧ bankTaken w 870 pa = true ∧ bankTaken w 870 (pa + 8) = false ∧
    fetchStalls u 13920 (placedThread 0) = none := by
  decide +kernel

/-- MemorySteps, a lost load that had read before its answer was cut. -/
theorem witness_MemorySteps_lost :
    let e := { elem4 slice870 .bonded [] with sent := true, cut := true, done := true, got := 5 }
    let a := accOf .load (.s 5) e
    let s := flying a
    accAt s 0 = some a ∧ find 0 s.olds = none ∧ a.kind = .load ∧ a.elems = [e] ∧ e.cut = true ∧ siteLost s e.pa e.path = false := by
  decide +kernel

/-- A machine at stage 7 that also maps 8 GiB to host memory and 8 GiB to a peer. -/
def mappedOut : State :=
  let s := writeLe (writeLe mapped (0x4000 + 8 * 512) 8 0x04000000000F) (0x4000 + 8 * 600) 8 0x80300000000F
  { s with ms := put 0x802 5 s.ms, linksUp := [(0, true)] }
/-- It with commands in engine 0. -/
def streamingOut (l : List Cmd) : State := { mappedOut with cores := [(870, { Core.reset with holder := some 0, eng0 := l })] }
/-- A pattern of one byte at an address. -/
def byteAt (va : Nat) : BitVec 256 := BitVec.ofNat 256 (va + (1 + 2 ^ 16 + 2 ^ 32 + 2 ^ 48) * 2 ^ 64)

/-- A command that reads one byte at an address, by a port. -/
def reading (p : Port) (va : Nat) : Cmd := { cmd 0 with running := true, out := false, port := p, pat := byteAt va }
/-- The machine of one command as its chunk starts. -/
def started (c : Cmd) : State := (elemsAt (streamingOut [c]) 870 c [0]).1

/-- StreamSteps, chunks that start to read: of a slice, of a host, of a peer and of a publication. -/
theorem witness_StreamSteps_reads :
    (∀ x ∈ [(slice870, slice870, Port.bnd, Path.bonded), (0x40000000000, 0x40000000000, .rim, .host), (0x4B000000000, 0x803000000000, .rim, .peer)],
      let c := reading x.2.2.1 x.1
      let s := streamingOut [c]
      runningCmd s 870 0 = some c ∧ c.next < patE c.pat ∧ chunkFree s 870 c = true ∧ chunkLen c c.next 127 1 = 1 ∧
        (elemsAt s 870 c [0]).2 = (none, some (x.2.1, x.2.2.2)) ∧ chunkWaits (started c) 870 c x.2.2.2 x.2.1 = false ∧ devId (started c) ≠ 0xFFF) ∧
    (∀ x ∈ [(slice870, slice870, Port.bnd, Path.bonded), (0x40000000000, 0x40000000000, .rim, .host)],
      chunkRoutes (started (reading x.2.2.1 x.1)) 870 (reading x.2.2.1 x.1) x.2.2.2 x.2.1 = true) ∧
    (let c := { reading .hname 0 with named := true, name := name7, src := some (pubOf name7 [1]) }
     let s := streamingOut [c]
     runningCmd s 870 0 = some c ∧ chunkFree s 870 c = true ∧ (elemsAt s 870 c [0]).2 = (none, some (0, .own)) ∧
       chunkWaits (started c) 870 c .own 0 = false ∧ chunkRoutes (started c) 870 c .own 0 = true) := by
  refine ⟨?_, ?_, ?_⟩ <;> decide +kernel

/-- The chunk of the peer has a route, whatever port the free value would take first: one alone is up. -/
theorem witness_StreamSteps_peer : chunkRoutes (started (reading .rim 0x4B000000000)) 870 (reading .rim 0x4B000000000) .peer 0x803000000000 = true := by
  have h : ∀ q : Fin 144, ((upTo 144).map (fun i => (q.val + i) % 144)).find? (linkIsUp (started (reading .rim 0x4B000000000))) = some 0 := by
    decide +kernel
  have r : (deckLink (started (reading .rim 0x4B000000000)) (coreEnd (started (reading .rim 0x4B000000000)) 870) (.agent (portAgent 0))).isSome = true ∧
      (deckLink (started (reading .rim 0x4B000000000)) (.agent (portAgent 0)) (coreEnd (started (reading .rim 0x4B000000000)) 870)).isSome = true := by
    decide +kernel
  simp [chunkRoutes, requestRoute, answerRoute, placeEnd, peerPort, h, r.1, r.2]

/-- StreamSteps, chunks that have come back: one for a host with its word read and not, and one in each direction all written and not. -/
theorem witness_StreamSteps_done :
    (∀ r ∈ [([] : List Nat), [0]],
      let k := { chunk0 false .host with pa := 0x40000000000, src := r }
      let c := { cmd 0 with running := true, next := 1, port := .rim, chunks := [k] }
      let s := streamingOut [c]
      pick (fun c => (c.chunks.find? (fun k => k.id == 0)).map (fun k => (c, k))) (engOf (coreAt s 870) 0) = some (c, k) ∧ k.path = .host ∧
        k.flt = none ∧ k.waiting = false ∧ k.cut = false ∧ k.sent = false ∧ writeLost s 870 c k = false ∧ (allRead 870 c k = true ↔ r = [0])) ∧
    (∀ o ∈ [true, false], ∀ r ∈ [([] : List Nat), [0]],
      let k := { chunk0 false .bonded with src := r, dst := r }
      let c := { cmd 0 with running := true, next := 1, out := o, chunks := [k] }
      let s := streamingOut [c]
      pick (fun c => (c.chunks.find? (fun k => k.id == 0)).map (fun k => (c, k))) (engOf (coreAt s 870) 0) = some (c, k) ∧
        (c.out = false ∨ k.path.remote = false) ∧ (answerRoute s 870 k.path k.pa).isSome = true ∧ writeLost s 870 c k = false ∧
        (allWritten 870 c k = true ↔ r = [0])) := by
  refine ⟨?_, ?_⟩ <;> decide +kernel

/-- StreamSteps, words: one read at a bank of the scratchpad and one at a slice; one written at a slice, at a bank and into an operand
buffer; and the bytes of two elements, as they are and converted. -/
theorem witness_StreamSteps_words :
    (let k := chunk0 false .bonded
     let c := { cmd 0 with running := true, next := 1, chunks := [k] }
     let s := streaming [c]
     asleep s 870 = false ∧ nextRequest s 870 (bankOf (padBase 870 + 0x2000)) = some (2, .part 870 c k 0) ∧ canRead s 870 c k 0 = true ∧ c.out = true) ∧
    (let k := chunk0 false .bonded
     let c := { cmd 0 with running := true, next := 1, out := false, chunks := [k] }
     let s := streaming [c]
     accAt s 0 = none ∧ chunkAt s 0 = some (870, c, k) ∧ asleep s 870 = false ∧ offBank c k 0 = true ∧ canRead s 870 c k 0 = true ∧ portGone s k = false) ∧
    (let k := { chunk0 false .bonded with src := [0] }
     let c := { cmd 0 with running := true, next := 1, chunks := [k] }
     let s := streaming [c]
     accAt s 0 = none ∧ chunkAt s 0 = some (870, c, k) ∧ offBank c k 64 = true ∧ canWrite s 870 c k (64 - 64) = true ∧ portOb c.port = none) ∧
    (let k := { chunk0 false .bonded with src := [0] }
     let c := { cmd 0 with running := true, next := 1, out := false, chunks := [k] }
     let s := streaming [c]
     nextRequest s 870 (bankOf (padBase 870 + 0x2000)) = some (2, .part 870 c k 64) ∧ canWrite s 870 c k (64 - 64) = true ∧ c.out = false) ∧
    (let k := { chunk0 false .own with src := [0], pa := 0 }
     let c := { cmd 0 with running := true, next := 1, port := .ob1, chunks := [k] }
     let s := streaming [c]
     accAt s 0 = none ∧ chunkAt s 0 = some (870, c, k) ∧ offBank c k 64 = true ∧ canWrite s 870 c k (64 - 64) = true ∧ portOb c.port = some 1) ∧
    (∀ cv ∈ [true, false], ∀ o ∈ [true, false], let c := { cmd 0 with cv := cv, out := o, ty := .e4m3 }
      0 < (if c.out then c.ws else c.pw) ∧ (List.replicate (2 * (if c.out then c.ws else c.pw)) (0 : Byte)).length = 2 * (if c.out then c.ws else c.pw)) := by
  refine ⟨?_, ?_, ?_, ?_, ?_, ?_⟩ <;> decide +kernel

/-- LaunchSteps: an image with a poisoned line, and a stage that has to wait for an access of its graph. -/
theorem witness_LaunchSteps_marred :
    (let s := { imaged 0 0x8000000 with poison := [(0x8000000 / 64, true)] }
     ∃ pa n, parseImage ⟨s, 0, 0x2001⟩ (recBase (recOf 0x8000000)) 0 0 = .error (.marred pa n)) ∧
    (let s := { imaged 0 0x8000000 with inflight := [accOf .store .none (elem4 slice870 .bonded [true])] }
     graphQuiet s 0 = false ∧ hashHeld s = false ∧ graphAt s 0 = some (graphI 0x8000000)) ∧
    (let s := imaged 0 0x8000000
     let g := { graphI 0x8000000 with image := some (image0 0) }
     textFree s (textsOf s g [⟨0, 0, 32, none⟩] (tilesOf [⟨0, 0, 32, none⟩])) = true) :=
  ⟨⟨0x8000000, 32, by decide +kernel⟩, by decide +kernel, by decide +kernel⟩

/-- HomeSteps: a publication of stage 0, in stage 1 of a graph whose template of that stage does not subscribe it. -/
theorem witness_HomeSteps_past :
    let im : Image := { tensors := [], names := [], shapes := [], handlers := [], stages := [⟨0, 1, []⟩, ⟨0, 1, []⟩], tmpls := [Template.none] }
    let g := { graphP with image := some im, stage := 1 }
    let s := { deck (.pub (pubOf name7 [1]) 870 0 [] 2 0) false with graphs := [(0, g)] }
    stagePast s name7 0 = true ∧ inOrder s 0 = true ∧ graphAt s 0 = some g ∧ nameCtx name7 = 0 ∧ stagePast s name7 1 = false := by
  decide +kernel

/-- DeliverySteps: one to a stream command; inputs whose banks have a request before their copy and have none, of a name whose headers
are lost and are not, and one that a pier serves. -/
theorem witness_DeliverySteps_rest :
    (let c := { cmd 0 with out := false, port := .hname, named := true, name := named }
     let s := { streaming [c] with net := [.deliver (pubOf named [1]) 870 (.command 0 0 0) 870] }
     s.net[0]? = some (.deliver (pubOf named [1]) 870 (.command 0 0 0) 870) ∧ delivered s (pubOf named [1]) 870 870 = true ∧
       (c.uid = 0 ∧ c.eng = 0 ∧ c.seq = 0 ∧ c.src = none)) ∧
    (let s := copying [1]
     inputsFree s 870 (copyingTh [1]) = true ∧ inputsFree (atBank s (padBase 870 + 0x2000)) 870 (copyingTh [1]) = false ∧
       threadAt s 13920 = some (copyingTh [1]) ∧ copyPending s 13920 (copyingTh [1]) = true ∧ headerLost s 870 named = false ∧
       headerLost { s with struck := [(0, .header 870 named)] } 870 named = true ∧
       (pierOf { s with graphs := [(0, pierGraph)] } named).isSome = true) := by
  refine ⟨?_, ?_⟩ <;> decide +kernel

/-- PierSteps: a read and a fill of a bonded copy, with a route to its slice and with that slice's neighbours gone. -/
theorem witness_PierSteps_bonded :
    let cut (s : State) : State := { s with live := ((upTo 4).filterMap (neighbour 870)).map (fun t => (siteOf t, 3)) }
    (let s := pier [.pierRead named 0 slice870 true] 0 2 1 slice870
     let pas := (tileElems tensor7 (nameCoords named)).map (fun o => slice870 + o)
     s.net[0]? = some (.pierRead named 0 slice870 true) ∧ graphAt s (nameCtx named) = some pierGraph ∧
       pierTensor pierGraph (nameTid named) = some tensor7 ∧ pierReaches s 0 pas = true ∧ pierReaches (cut s) 0 pas = false) ∧
    (let s := pier [] 0 1 0 slice870
     let pas := (upTo 1).map (fun i => slice870 + 8192 * i)
     (resOf s 7).st = 1 ∧ registered s 7 = some tensor7 ∧ pierReaches s (tensor7.base / 2 ^ 36) pas = true ∧
       pierReaches (cut s) (tensor7.base / 2 ^ 36) pas = false) ∧
    homeCapable (pier [] 0 1 0 slice870) (sliceOf slice870) = true := by
  refine ⟨?_, ?_, ?_⟩ <;> decide +kernel

/-- VacateSteps: extents and code whose banks have no request before them. -/
theorem witness_VacateSteps_banks :
    (let s := vacating (some (vac 2)) [savedOf 1 none false]
     extentsFree s (tileOf 13920) (extentsOf s victim) = true) ∧
    (let s := emptied (some (vac 2)) []
     hashHeld s = false ∧ textFree s (rehomeTexts s (vac 2)) = true) ∧
    extentsFree (vacating none [savedOf 1 (some 870) true]) 870 [(0, 8)] = true := by
  decide +kernel

/-- HostAndPeerSteps: BAR2 at a stack, and at a scratchpad whose bank has a request before it. -/
theorem witness_HostAndPeerSteps_banks :
    deckFree (bar2 0) 0 8 = true ∧ deckFree (bar2 0) (padBase 870 + 0x2000) 8 = true ∧
    deckFree (atBank (bar2 0) (padBase 870 + 0x2000)) (padBase 870 + 0x2000) 8 = false := by
  decide +kernel

end Sys2Proof.Machine.Tests
end

namespace Sys2Proof.Machine

/-! Routes over the deck depend on the class table, the keystone registers and the links alone (R46, R47, R546). -/

/-- Two states whose routers and links are the same. -/
structure SameDeck (s t : State) : Prop where
  live : s.live = t.live
  ms : s.ms = t.ms
  downLinks : s.downLinks = t.downLinks
  linksUp : s.linksUp = t.linksUp

theorem SameDeck.refl (s : State) : SameDeck s s := ⟨rfl, rfl, rfl, rfl⟩

theorem SameDeck.setCore (s : State) (k : Nat) (c : Core) : SameDeck (setCore s k c) s := ⟨rfl, rfl, rfl, rfl⟩

namespace SameDeck

variable {s t : State}

theorem msRaw_eq (h : SameDeck s t) : msRaw s = msRaw t := by
  funext n
  rw [msRaw, msRaw, h.ms]

theorem stackFailed_eq (h : SameDeck s t) : stackFailed s = stackFailed t := by
  funext pa
  rw [stackFailed, stackFailed, h.msRaw_eq]

theorem classOf_eq (h : SameDeck s t) : classOf s = classOf t := by
  funext u
  rw [classOf, classOf, h.live]

theorem routerUp_eq (h : SameDeck s t) : routerUp s = routerUp t := by
  funext u
  rw [routerUp, routerUp, stageOf, stageOf, h.classOf_eq, h.msRaw_eq]

theorem linkTo_eq (h : SameDeck s t) : linkTo s = linkTo t := by
  funext u d
  simp only [linkTo, h.routerUp_eq, h.downLinks]

theorem bfsLevel_eq (h : SameDeck s t) : bfsLevel s = bfsLevel t := by
  funext depth l acc
  induction l generalizing acc with
  | nil => rfl
  | cons u l ih => simp only [bfsLevel, h.linkTo_eq, ih]

theorem bfs_eq (h : SameDeck s t) : bfs s = bfs t := by
  funext fuel depth front m
  induction fuel generalizing depth front m with
  | zero => rfl
  | succ fuel ih => simp only [bfs, h.bfsLevel_eq, ih]

theorem treeDepths_eq (h : SameDeck s t) : treeDepths s = treeDepths t := by
  simp only [treeDepths, treeRoot, h.bfs_eq, h.routerUp_eq]

theorem distLevel_eq (h : SameDeck s t) : distLevel s = distLevel t := by
  funext dep n l acc
  induction l generalizing acc with
  | nil => rfl
  | cons x l ih => simp only [distLevel, h.linkTo_eq, h.routerUp_eq, ih]

theorem dists_eq (h : SameDeck s t) : dists s = dists t := by
  funext dep fuel n front m
  induction fuel generalizing n front m with
  | zero => rfl
  | succ fuel ih => simp only [dists, h.distLevel_eq, ih]

theorem detour_eq (h : SameDeck s t) : detour s = detour t := by
  funext m dep u
  simp only [detour, h.linkTo_eq]

theorem detourPath_eq (h : SameDeck s t) : detourPath s = detourPath t := by
  funext m dep goal fuel u
  induction fuel generalizing u with
  | zero => rfl
  | succ fuel ih => simp only [detourPath, h.detour_eq, h.linkTo_eq, ih]

theorem detourTo_eq (h : SameDeck s t) : detourTo s = detourTo t := by
  funext goal u
  simp only [detourTo, h.treeDepths_eq, h.dists_eq, h.detourPath_eq]

theorem routeFrom_eq (h : SameDeck s t) : routeFrom s = routeFrom t := by
  funext goal fallback fuel u
  induction fuel generalizing u with
  | zero => rfl
  | succ fuel ih => simp only [routeFrom, h.linkTo_eq, h.detourTo_eq, ih]

theorem route_eq (h : SameDeck s t) : route s = route t := by
  funext u v
  simp only [route, h.routerUp_eq, h.routeFrom_eq]

theorem routeToAgent_eq (h : SameDeck s t) : routeToAgent s = routeToAgent t := by
  funext u a
  simp only [routeToAgent, h.routerUp_eq, h.routeFrom_eq]

theorem exitTile_eq (h : SameDeck s t) : exitTile s = exitTile t := by
  funext a u
  simp only [exitTile, h.routerUp_eq]

theorem deckLink_eq (h : SameDeck s t) : deckLink s = deckLink t := by
  funext a b
  cases a <;> cases b <;> simp only [deckLink, deckRoute, h.route_eq, h.routeToAgent_eq, h.exitTile_eq]

theorem coreEnd_eq (h : SameDeck s t) : coreEnd s = coreEnd t := by
  funext u
  simp only [coreEnd, ksAgent, h.msRaw_eq]

theorem placeEnd_eq (h : SameDeck s t) : placeEnd s = placeEnd t := by
  have hl : linkIsUp s = linkIsUp t := by
    funext port
    rw [linkIsUp, linkIsUp, h.linksUp]
  funext p pa
  cases p <;> simp only [placeEnd, peerPort, h.coreEnd_eq, hl]

/-- R46, R47: the packets of a core reach a location, and their answers the core, in both states or in neither. -/
theorem reaches (h : SameDeck s t) {u : Nat} {p : Path} {pa : Nat} (r : Reaches t u p pa) : Reaches s u p pa := by
  simpa only [Reaches, requestRoute, answerRoute, h.placeEnd_eq, h.deckLink_eq, h.coreEnd_eq] using r

end SameDeck

/-! What leaves memory as it is: finding errors, the bookkeeping of accesses, and waking threads. -/

theorem readByte_of_mem_eq {s t : State} (h : s.mem = t.mem) (pa : Nat) : readByte s pa = readByte t pa := by
  rw [readByte, readByte, h]

@[simp] theorem countError_mem (s : State) (t : Nat) : (countError s t).mem = s.mem := by
  simp only [countError]
  split_ifs <;> rfl

@[simp] theorem foundLine_mem (s : State) (pa : Nat) : (foundLine s pa).mem = s.mem := by
  simp only [foundLine]
  split_ifs <;> simp

@[simp] theorem discover_mem (s : State) (pa n : Nat) : (discover s pa n).mem = s.mem := by
  refine foldl_mem _ (fun s x => ?_) _ _
  obtain ⟨_, k | _ | _ | _⟩ := x
  case line => dsimp only; split_ifs <;> simp
  all_goals rfl

@[simp] theorem updThread_mem (s : State) (k : Nat) (f : Thread → Thread) : (updThread s k f).mem = s.mem := by
  obtain ⟨m, h⟩ := updThread_eq s k f
  rw [h]

@[simp] theorem updOwner_mem (s : State) (uid : Nat) (f : Thread → Thread) : (updOwner s uid f).mem = s.mem := by
  unfold updOwner
  split
  · exact updThread_mem _ _ _
  · rfl

@[simp] theorem wakeTile_mem (s : State) (t : Nat) : (wakeTile s t).mem = s.mem := by
  refine foldl_mem _ (fun s x => ?_) _ _
  split
  · exact updThread_mem _ _ _
  · rfl

@[simp] theorem retire_mem (s : State) (id : Nat) : (retire s id).mem = s.mem := by
  unfold retire
  split
  · rfl
  · dsimp only
    rw [wakeTile_mem]
    split_ifs
    · rfl
    · exact updOwner_mem _ _ _

@[simp] theorem drainAll_mem (fuel : Nat) (s : State) : (drainAll fuel s).mem = s.mem := by
  induction fuel generalizing s with
  | zero => rfl
  | succ fuel ih =>
    rw [drainAll]
    split
    · rfl
    · rw [ih, retire_mem]

@[simp] theorem settle_mem (s : State) (id : Nat) : (settle s id).mem = s.mem := by
  unfold settle
  split
  · rfl
  · split_ifs
    · exact drainAll_mem _ _
    · rfl

@[simp] theorem elemDone_mem (s : State) (id i : Nat) (got : Word) (bad : Bool) : (elemDone s id i got bad).mem = s.mem := rfl

/-! R235, R250: a read-modify-write comes to its owning point. -/

/-- The turn of a bank changes a core's turns alone, if anything. -/
theorem takeTurn_eq (s : State) (a : Access) (e : Elem) :
    takeTurn s a e = s ∨ ∃ c, takeTurn s a e = setCore s (padOwner e.pa) c := by
  unfold takeTurn
  split
  · exact .inl rfl
  · exact .inr ⟨_, rfl⟩

@[simp] theorem takeTurn_mem (s : State) (a : Access) (e : Elem) : (takeTurn s a e).mem = s.mem := by
  obtain h | ⟨c, h⟩ := takeTurn_eq s a e <;> simp [h]

theorem takeTurn_sameDeck (s : State) (a : Access) (e : Elem) : SameDeck (takeTurn s a e) s := by
  obtain h | ⟨c, h⟩ := takeTurn_eq s a e <;> rw [h]
  · exact .refl s
  · exact .setCore s _ c

/-- R47: an element whose packets have their routes takes effect. -/
theorem onRoute_of_reaches {s : State} {a : Access} {e : Elem} (h : Reaches s a.tile e.path e.pa) (i : Nat) (f : State → State) :
    onRoute s a i e f = f s := by
  obtain ⟨hq, ha⟩ := h
  have hq' : (requestRoute s a.tile e.path e.pa).isNone = false := by
    rw [← Option.not_isSome, hq]; rfl
  simp [onRoute, hq', ha]

/-- R250: a read-modify-write that is ready, and whose bank's turn has come where it is at one, is performed. -/
theorem exec_rmwPerform_ready {s : State} {id i : Nat} {a : Access} {e : Elem} (ha : accAt s id = some a) (he : a.elems[i]? = some e)
    (hr : elemReady s a e = true) (hp : plain a = false) (hl : e.path.remote = false) (hd : Reaches s a.tile e.path e.pa)
    (ht : e.path.pad = true → asleep s (padOwner e.pa) = false ∧ hasTurn s a e = true) :
    exec (.rmwPerform id i) s = .next (settle (rmwElem (takeTurn s a e) a i) id) := by
  have hb : (e.path.pad && (asleep s (padOwner e.pa) || !hasTurn s a e)) = false := by
    cases h : e.path.pad
    · rfl
    · obtain ⟨h1, h2⟩ := ht h
      simp [h1, h2]
  have hx : exec (.rmwPerform id i) s = execRmwPerform id i s := rfl
  rw [hx, execRmwPerform]
  simp [ha, he, hr, hp, hl, hb, onRoute_of_reaches ((takeTurn_sameDeck s a e).reaches hd)]

/-! R258: what a bin-reset writes. -/

theorem readByte_writeZeros (s : State) (pa n b : Nat) :
    readByte (writeBytes s pa (List.replicate n 0)) b = if pa ≤ b ∧ b < pa + n then 0 else readByte s b := by
  split_ifs with h
  · obtain ⟨i, rfl⟩ := Nat.exists_eq_add_of_le h.1
    rw [readByte_writeBytes_inside _ _ _ _ (by simpa using h.2), List.getElem_replicate]
  · exact readByte_writeBytes_outside _ _ _ _ (by rw [List.length_replicate]; omega)

theorem writeLe_four_zero (s : State) (pa : Nat) : writeLe s pa 4 0 = writeBytes s pa (List.replicate 4 0) := rfl

/-- Bytes that are all zero hold the number zero. -/
theorem readLe_eq_zero {s : State} {pa n : Nat} (h : ∀ o, o < n → readByte s (pa + o) = 0) : readLe s pa n = 0 := by
  induction n generalizing pa with
  | zero => rfl
  | succ n ih =>
    have hn : readLe s (pa + 1) n = 0 := ih (fun o ho => by rw [Nat.add_assoc, Nat.add_comm 1]; exact h _ (by omega))
    have h0 : readByte s pa = 0 := h 0 (by omega)
    unfold readLe at hn ⊢
    rw [readBytes, leNat, h0, hn]
    rfl

/-- The bytes that a bin-reset covers: the counts, and ofcnt with lost behind it (Table 10.4). -/
abbrev ResetCovers (pa ncell cnt b : Nat) : Prop := (pa + cnt ≤ b ∧ b < pa + cnt + 4 * ncell) ∨ (pa + 28 ≤ b ∧ b < pa + 36)

/-- R258: a bin-reset leaves zero in every byte that it covers, and every other byte as it was. -/
theorem readByte_binReset (s : State) (pa ncell cnt b : Nat) :
    readByte (binReset s pa ncell cnt) b = if ResetCovers pa ncell cnt b then 0 else readByte s b := by
  rw [binReset, writeLe_four_zero, writeLe_four_zero, readByte_writeZeros, readByte_writeZeros, readByte_writeZeros,
    ← ite_or, ← ite_or]
  exact if_congr (by unfold ResetCovers; omega) rfl rfl

/-- R250, R258: the bytes after a bin-reset has been performed at its element. -/
theorem readByte_rmwElem_binrst {s : State} {a : Access} {i x ncell cnt : Nat} {e : Elem} (he : a.elems[i]? = some e)
    (hk : a.kind = .binrst x ncell cnt) (hf : stackFailed s e.pa = false) (b : Nat) :
    readByte (rmwElem s a i) b = if ResetCovers e.pa ncell cnt b then 0 else readByte s b := by
  have hm : ∀ l : List (Nat × Nat), (l.foldl (fun s r => discover s r.1 r.2) s).mem = s.mem :=
    fun l => foldl_mem _ (fun s r => discover_mem s r.1 r.2) l s
  simp only [rmwElem, he, hf, hk, Bool.false_eq_true, if_false]
  rw [readByte_of_mem_eq (elemDone_mem _ _ _ _ _), readByte_binReset, readByte_of_mem_eq (hm _)]

/-- Settles O35: the step is the bin-reset of the element after its bank's turn, which writes zero to the bytes it covers alone. -/
theorem binResetClearsCounts : Obligations.BinResetClearsCounts := by
  unfold Obligations.BinResetClearsCounts
  intro s id i x ncell cnt a e ha he hr hk hl hf hd ht
  have hp : plain a = false := by simp [plain, hk]
  have hf' : stackFailed (takeTurn s a e) e.pa = false := by rw [(takeTurn_sameDeck s a e).stackFailed_eq, hf]
  have hb (b : Nat) : readByte (settle (rmwElem (takeTurn s a e) a i) id) b =
      if ResetCovers e.pa ncell cnt b then 0 else readByte s b := by
    rw [readByte_of_mem_eq (settle_mem _ _), readByte_rmwElem_binrst he hk hf', readByte_of_mem_eq (takeTurn_mem _ _ _)]
  have hz {pa : Nat} (h : ∀ o, o < 4 → ResetCovers e.pa ncell cnt (pa + o)) :
      readLe (settle (rmwElem (takeTurn s a e) a i) id) pa 4 = 0 :=
    readLe_eq_zero (fun o ho => by rw [hb, if_pos (h o ho)])
  refine ⟨_, exec_rmwPerform_ready ha he hr hp hl hd ht, fun c hc => hz ?_, hz ?_, hz ?_, fun pa h1 h2 => ?_⟩
  · exact fun o ho => .inl (by omega)
  · exact fun o ho => .inr (by omega)
  · exact fun o ho => .inr (by omega)
  · rw [hb, if_neg (by unfold ResetCovers; omega)]

end Sys2Proof.Machine

namespace Sys2Proof.Machine

/-! R371: the scalar integer mould. The model runs it on integers and keeps them modulo 2^w; the laws below carry it over to
patterns of w bits. -/

/-- R174: a number read as an integer of a type is its low w bits read so. -/
theorem readInt_eq_valueOf (ty : Ty) (n : Nat) : readInt ty n = valueOf ty (BitVec.ofNat ty.bits n) := by
  unfold readInt valueOf
  cases ty.signed
  · simp
  · simp [BitVec.toInt_eq_msb_cond, BitVec.msb_eq_decide]

theorem readInt_toNat (ty : Ty) (x : Word) : readInt ty x.toNat = valueOf ty (narrow ty x) := by
  rw [readInt_eq_valueOf, BitVec.ofNat_toNat, narrow]

/-- The low w bits of an integer are its pattern. -/
theorem intBits_eq_toNat_ofInt (ty : Ty) (v : Int) : intBits ty v = (BitVec.ofInt ty.bits v).toNat := by
  simp [intBits, BitVec.toNat_ofInt]

/-- An integer of a type has the pattern it was read from. -/
@[simp] theorem ofInt_valueOf (ty : Ty) (x : BitVec ty.bits) : BitVec.ofInt ty.bits (valueOf ty x) = x := by
  unfold valueOf
  split_ifs <;> simp

@[simp] theorem pat_valueOf (ty : Ty) (x : BitVec ty.bits) : pat ty (valueOf ty x) = x.toNat := by
  rw [pat, intBits_eq_toNat_ofInt, ofInt_valueOf]

/-- R174: a pattern of w bits extended to a scalar register. -/
theorem ofNat_extend (ty : Ty) (x : BitVec ty.bits) : BitVec.ofNat 64 (extend ty 64 x.toNat) = widen ty x := by
  have hv : readInt ty x.toNat = valueOf ty x := by rw [readInt_eq_valueOf, BitVec.ofNat_toNat, BitVec.setWidth_eq]
  unfold extend widen
  rw [hv, valueOf, Nat.mod_eq_of_lt x.isLt]
  cases ty.signed
  · exact BitVec.ofNat_toNat 64 x
  · exact BitVec.eq_of_toNat_eq (by simpa [BitVec.signExtend, BitVec.toNat_ofInt] using Int.emod_lt_of_pos _ (by decide))

/-- A function of the mould, on integers, leaves modulo 2^w what a function of the patterns gives. -/
def Computes (F : Ty → Int → Int → Int) (f : (ty : Ty) → BitVec ty.bits → BitVec ty.bits → BitVec ty.bits) : Prop :=
  ∀ (ty : Ty) (x y : BitVec ty.bits), BitVec.ofInt ty.bits (F ty (valueOf ty x) (valueOf ty y)) = f ty x y

section
variable {F : Ty → Int → Int → Int} {f : (ty : Ty) → BitVec ty.bits → BitVec ty.bits → BitVec ty.bits}

theorem Computes.ofNat_mould (h : Computes F f) (ty : Ty) (x y : Word) :
    BitVec.ofNat 64 (mould F ty x y) = widen ty (f ty (narrow ty x) (narrow ty y)) := by
  rw [mould, readInt_toNat, readInt_toNat, intBits_eq_toNat_ofInt, h, ofNat_extend]

/-- A function that gives a pattern as a natural number computes that pattern. -/
theorem Computes.of_toNat (h : ∀ ty (x y : BitVec ty.bits), F ty (valueOf ty x) (valueOf ty y) = ((f ty x y).toNat : Int)) :
    Computes F f := by
  intro ty x y
  rw [h, BitVec.ofInt_natCast, BitVec.ofNat_toNat, BitVec.setWidth_eq]

/-- R371: the register form writes the function of its sources' patterns. -/
theorem Computes.mouldReg_runs (h : Computes F f) {s : State} {th : Thread} {g : PReg} (hr : Runs s th g) (ty : Ty) (d a b : SReg) :
    mouldReg F g ty d a b s = .next (putS s d (widen ty (f ty (narrow ty (rdS s a).val) (narrow ty (rdS s b).val)))
      ((rdS s a).poison || (rdS s b).poison)) := by
  rw [mouldReg, syllable_runs hr, wrS, h.ofNat_mould, putS]

/-- R371: the immediate form writes the function of its source's and its immediate's patterns. -/
theorem Computes.mouldImm_runs (h : Computes F f) {s : State} {th : Thread} {g : PReg} (hr : Runs s th g) (ty : Ty) (d a : SReg)
    (v : Imm) : mouldImm F g ty d a v s = .next (putS s d (widen ty (f ty (narrow ty (rdS s a).val) (narrow ty v.value)))
      (rdS s a).poison) := by
  rw [mouldImm, syllable_runs hr, wrS, h.ofNat_mould, putS]

/-- R371: two syllables that run the forms of the mould on one function, with its opcode, are a member of the mould. -/
theorem Computes.member (h : Computes F f) {op : BitVec 8} {mk : PReg → Ty → SReg → SReg → SReg → Instr}
    {mki : PReg → Ty → SReg → SReg → Imm → Instr}
    (hreg : ∀ g ty d a b s, exec (mk g ty d a b) s = mouldReg F g ty d a b s)
    (himm : ∀ g ty d a v s, exec (mki g ty d a v) s = mouldImm F g ty d a v s)
    (hop : ∀ g ty d a b, (encodeSyl (mk g ty d a b)).map (fun e => (e.cls, e.op)) = some (0, op))
    (hopi : ∀ g ty d a v, (encodeSyl (mki g ty d a v)).map (fun e => (e.cls, e.op)) = some (0, op + 64)) :
    Member op mk mki f := by
  refine ⟨fun s th g ty d a b hr _ => ?_, fun s th g ty d a v hr _ => ?_, fun g ty d a b e he => ?_, fun g ty d a v e he => ?_⟩
  · rw [hreg, h.mouldReg_runs hr]
  · rw [himm, h.mouldImm_runs hr]
  · simpa [he] using hop g ty d a b
  · simpa [he] using hopi g ty d a v

end

/-! The members: what each function of Tables 17.2, 18.4 and 19.1 gives on patterns. -/

theorem computes_fAddI : Computes fAddI (fun _ x y => x + y) := by
  intro ty x y
  rw [fAddI, BitVec.ofInt_add, ofInt_valueOf, ofInt_valueOf]

theorem computes_fSubI : Computes fSubI (fun _ x y => x - y) := by
  intro ty x y
  rw [fSubI, sub_eq_add_neg, BitVec.ofInt_add, BitVec.ofInt_neg, ofInt_valueOf, ofInt_valueOf,
    ← BitVec.sub_eq_add_neg]

theorem computes_fMulI : Computes fMulI (fun _ x y => x * y) := by
  intro ty x y
  rw [fMulI, BitVec.ofInt_mul, ofInt_valueOf, ofInt_valueOf]

theorem computes_fMulhI :
    Computes fMulhI (fun ty x y => BitVec.ofInt ty.bits (Int.fdiv (valueOf ty x * valueOf ty y) (2 ^ ty.bits))) :=
  fun _ _ _ => rfl

theorem computes_fMinI : Computes fMinI (fun ty x y => if valueOf ty y < valueOf ty x then y else x) := by
  intro ty x y
  rw [fMinI, apply_ite (BitVec.ofInt ty.bits), ofInt_valueOf, ofInt_valueOf]

theorem computes_fMaxI : Computes fMaxI (fun ty x y => if valueOf ty x < valueOf ty y then y else x) := by
  intro ty x y
  rw [fMaxI, apply_ite (BitVec.ofInt ty.bits), ofInt_valueOf, ofInt_valueOf]

theorem computes_fAndI : Computes fAndI (fun _ x y => x &&& y) :=
  .of_toNat fun ty x y => by rw [fAndI, pat_valueOf, pat_valueOf, BitVec.toNat_and]

theorem computes_fOrI : Computes fOrI (fun _ x y => x ||| y) :=
  .of_toNat fun ty x y => by rw [fOrI, pat_valueOf, pat_valueOf, BitVec.toNat_or]

theorem computes_fXorI : Computes fXorI (fun _ x y => x ^^^ y) :=
  .of_toNat fun ty x y => by rw [fXorI, pat_valueOf, pat_valueOf, BitVec.toNat_xor]

theorem computes_fAndnI : Computes fAndnI (fun _ x y => x &&& ~~~y) :=
  .of_toNat fun ty x y => by rw [fAndnI, pat_valueOf, pat_valueOf, BitVec.toNat_and, BitVec.toNat_not]

/-- Settles O7: each member runs the mould on its function, which gives on patterns what the statement says; which function a syllable
runs and its opcode are read off `exec` and `encodeSyl`. -/
theorem integerArithmetic : Obligations.IntegerArithmetic := by
  unfold Obligations.IntegerArithmetic
  refine ⟨computes_fAddI.member ?_ ?_ ?_ ?_, computes_fSubI.member ?_ ?_ ?_ ?_, computes_fMulI.member ?_ ?_ ?_ ?_,
    computes_fMinI.member ?_ ?_ ?_ ?_, computes_fMaxI.member ?_ ?_ ?_ ?_, computes_fMulhI.member ?_ ?_ ?_ ?_⟩ <;> intros <;> rfl

/-- Settles O8: each member runs the mould on its function, which gives on patterns the operation bit by bit; which function a
syllable runs and its opcode are read off `exec` and `encodeSyl`. -/
theorem bitwiseForms : Obligations.BitwiseForms := by
  unfold Obligations.BitwiseForms
  refine ⟨computes_fAndI.member ?_ ?_ ?_ ?_, computes_fOrI.member ?_ ?_ ?_ ?_, computes_fXorI.member ?_ ?_ ?_ ?_,
    computes_fAndnI.member ?_ ?_ ?_ ?_⟩ <;> intros <;> rfl

end Sys2Proof.Machine

namespace Sys2Proof.Machine

/-! R449: the shifts. The model reads a count, and for SRA a signed number, off the pattern of an integer of the type. -/

/-- R449: the mould's shift count of a number is that of its pattern. -/
@[simp] theorem shiftBy_valueOf (ty : Ty) (y : BitVec ty.bits) : shiftBy ty (valueOf ty y) = countOf y := by
  rw [shiftBy, pat_valueOf, countOf]

theorem bits_ne_zero (ty : Ty) : ty.bits ≠ 0 := by
  cases ty <;> decide

/-- R449: a pattern below 2^(w-1) reads as itself and any other as itself less 2^w: the pattern read as signed. -/
theorem ite_pattern_eq_toInt {w : Nat} (hw : w ≠ 0) (x : BitVec w) :
    (if (x.toNat : Int) < 2 ^ (w - 1) then (x.toNat : Int) else x.toNat - 2 ^ w) = x.toInt := by
  have hc : (x.toNat : Int) < 2 ^ (w - 1) ↔ 2 * x.toNat < 2 ^ w := by
    rw [← mul_pow_sub_one hw 2, Nat.mul_lt_mul_left two_pos]
    norm_cast
  rw [BitVec.toInt_eq_toNat_cond, if_congr hc rfl rfl]
  norm_cast

theorem ofInt_two_pow (w n : Nat) : BitVec.ofInt w (2 ^ n) = BitVec.twoPow w n :=
  BitVec.eq_of_toNat_eq (by rw [BitVec.toNat_twoPow]; norm_cast)

theorem computes_fShlI : Computes fShlI (fun _ x y => x <<< countOf y) := by
  intro ty x y
  rw [fShlI, shiftBy_valueOf, BitVec.ofInt_mul, ofInt_valueOf, ofInt_two_pow, ← BitVec.shiftLeft_eq_mul_twoPow]

theorem computes_fShrI : Computes fShrI (fun _ x y => x >>> countOf y) :=
  .of_toNat fun ty x y => by
    rw [fShrI, pat_valueOf, shiftBy_valueOf, BitVec.toNat_ushiftRight, Nat.shiftRight_eq_div_pow]

/-- R449: the quotient by a power of two, rounded toward minus infinity, is the arithmetic shift. -/
theorem computes_fSraI : Computes fSraI (fun _ x y => x.sshiftRight (countOf y)) := by
  intro ty x y
  have hf : fSraI ty (valueOf ty x) (valueOf ty y) = x.toInt >>> countOf y := by
    simp only [fSraI, pat_valueOf, shiftBy_valueOf, ite_pattern_eq_toInt (bits_ne_zero ty)]
    rw [Int.fdiv_eq_ediv_of_nonneg _ (by positivity), Int.shiftRight_eq_div_pow, Nat.cast_pow, Nat.cast_two]
  exact congrArg (BitVec.ofInt ty.bits) hf

/-- Settles O9: each member runs the mould on its function, which gives on patterns the shift by the count modulo the width; which
function a syllable runs and its opcode are read off `exec` and `encodeSyl`. -/
theorem shifts : Obligations.Shifts := by
  unfold Obligations.Shifts
  refine ⟨computes_fShlI.member ?_ ?_ ?_ ?_, computes_fShrI.member ?_ ?_ ?_ ?_, computes_fSraI.member ?_ ?_ ?_ ?_⟩ <;>
    intros <;> rfl

end Sys2Proof.Machine

namespace Sys2Proof

/-! R136 to R154: the encoder's fields, and their codes, read back. -/

@[simp] theorem Ty.ofCode_code (t : Ty) : Ty.ofCode t.code = t := by cases t <;> rfl
@[simp] theorem Rm.ofCode_code (t : Rm) : Rm.ofCode t.code = t := by cases t <;> rfl
@[simp] theorem Ord.ofCode_code (t : Ord) : Ord.ofCode t.code = t := by cases t <;> rfl
@[simp] theorem Scope.ofCode_code (t : Scope) : Scope.ofCode t.code = t := by cases t <;> rfl
@[simp] theorem Cond.ofCode_code (t : Cond) : Cond.ofCode t.code = t := by cases t <;> rfl
@[simp] theorem Red.ofCode_code (t : Red) : Red.ofCode t.code = t := by cases t <;> rfl
@[simp] theorem AmoOp.ofCode_code (t : AmoOp) : AmoOp.ofCode t.code = t := by cases t <;> rfl
@[simp] theorem File.ofCode_code (t : File) : File.ofCode t.code = t := by cases t <;> rfl
@[simp] theorem PTest.ofCode_code (t : PTest) : PTest.ofCode t.code = t := by cases t <;> rfl
@[simp] theorem Port.ofCode_code (t : Port) : Port.ofCode t.code = t := by cases t <;> rfl
@[simp] theorem GField.ofCode_code (t : GField) : GField.ofCode t.code = t := by cases t <;> rfl

/-! Table 6.5: the fields of a body read back, format by format, and so do the header and the payload of an X syllable. -/

@[simp] theorem F0.unpack_pack (f : F0) : F0.unpack f.pack = f := by
  cases f
  simp (disch := decide) only [F0.unpack, F0.pack, BitVec.extractLsb'_append_eq_of_le, BitVec.extractLsb'_append_eq_of_add_le,
    BitVec.extractLsb'_eq_self, Nat.reduceSub]

@[simp] theorem F1.unpack_pack (f : F1) : F1.unpack f.pack = f := by
  cases f
  simp (disch := decide) only [F1.unpack, F1.pack, BitVec.extractLsb'_append_eq_of_le, BitVec.extractLsb'_append_eq_of_add_le,
    BitVec.extractLsb'_eq_self, Nat.reduceSub]

@[simp] theorem F2.unpack_pack (f : F2) : F2.unpack f.pack = f := by
  cases f
  simp (disch := decide) only [F2.unpack, F2.pack, BitVec.extractLsb'_append_eq_of_le, BitVec.extractLsb'_append_eq_of_add_le,
    BitVec.extractLsb'_eq_self, Nat.reduceSub]

@[simp] theorem F3.unpack_pack (f : F3) : F3.unpack f.pack = f := by
  cases f
  simp (disch := decide) only [F3.unpack, F3.pack, BitVec.extractLsb'_append_eq_of_le, BitVec.extractLsb'_append_eq_of_add_le,
    BitVec.extractLsb'_eq_self, Nat.reduceSub]

@[simp] theorem F4.unpack_pack (f : F4) : F4.unpack f.pack = f := by
  cases f
  simp (disch := decide) only [F4.unpack, F4.pack, BitVec.extractLsb'_append_eq_of_le, BitVec.extractLsb'_append_eq_of_add_le,
    BitVec.extractLsb'_eq_self, Nat.reduceSub]

@[simp] theorem F5.unpack_pack (f : F5) : F5.unpack f.pack = f := by
  cases f
  simp (disch := decide) only [F5.unpack, F5.pack, BitVec.extractLsb'_append_eq_of_le, BitVec.extractLsb'_append_eq_of_add_le,
    BitVec.extractLsb'_eq_self, Nat.reduceSub]

@[simp] theorem F6.unpack_pack (f : F6) : F6.unpack f.pack = f := by
  cases f
  simp (disch := decide) only [F6.unpack, F6.pack, BitVec.extractLsb'_append_eq_of_le, BitVec.extractLsb'_append_eq_of_add_le,
    BitVec.extractLsb'_eq_self, Nat.reduceSub]

@[simp] theorem F7.unpack_pack (f : F7) : F7.unpack f.pack = f := by
  cases f
  simp (disch := decide) only [F7.unpack, F7.pack, BitVec.extractLsb'_append_eq_of_le, BitVec.extractLsb'_append_eq_of_add_le,
    BitVec.extractLsb'_eq_self, Nat.reduceSub]


@[simp] theorem Syl.ofWord_word (s : Syl) (e : BitVec 1) (x : Option (BitVec 60)) : Syl.ofWord (s.word e) x = { s with x := x } := by
  simp (disch := decide) only [Syl.ofWord, Syl.word, BitVec.extractLsb'_append_eq_of_le, BitVec.extractLsb'_append_eq_of_add_le,
    BitVec.extractLsb'_eq_self, Nat.reduceSub]

theorem xWord_fields (e : BitVec 1) (p : BitVec 60) : (xWord e p).extractLsb' 60 3 = 6#3 ∧ (xWord e p).extractLsb' 0 60 = p := by
  simp (disch := decide) only [xWord, BitVec.extractLsb'_append_eq_of_le, BitVec.extractLsb'_append_eq_of_add_le,
    BitVec.extractLsb'_eq_self, Nat.reduceSub, and_self]

/-! Table 6.15: what the codes and register numbers of an operand pass of the decoder's checks. -/

@[simp] theorem Rm.code_ne_seven (r : Rm) : r.code ≠ 7#3 := by cases r <;> decide
@[simp] theorem Rm.code_eq_zero (r : Rm) : r.code = 0#3 ↔ r = .dyn := by cases r <;> decide
@[simp] theorem Ty.code_ne_fifteen (t : Ty) : t.code ≠ 15#4 := by cases t <;> decide
@[simp] theorem GField.code_lt (f : GField) : f.code.toNat < 10 := by cases f <;> decide
@[simp] theorem Rm.code_lt_six (r : Rm) : r.code.toNat < 6 ↔ r ≠ .sr := by cases r <;> decide
@[simp] theorem Port.code_lt (p : Port) : p.code.toNat < 8 := by cases p <;> decide
@[simp] theorem Port.code_eq_two (p : Port) : p.code = 2#4 ↔ p = .hname := by cases p <;> decide
@[simp] theorem Ty.code_eq_zero (t : Ty) : t.code = 0#4 ↔ t = .u8 := by cases t <;> decide
@[simp] theorem PTest.code_ne_three (t : PTest) : t.code ≠ 3#2 := by cases t <;> decide

@[simp] theorem preg_fits (x : BitVec 4) : x.toNat % 64 < 16 := by omega
@[simp] theorem preg_not_over (x : BitVec 4) : 16 ≤ x.toNat % 64 ↔ False := by simp
@[simp] theorem vreg_fits (x : BitVec 5) : x.toNat % 64 < 32 := by omega
@[simp] theorem vreg_not_over (x : BitVec 5) : 32 ≤ x.toNat % 64 ↔ False := by simp
@[simp] theorem kreg_fits (x : BitVec 2) : x.toNat % 16 < 4 := by omega
@[simp] theorem kreg_not_over (x : BitVec 2) : 4 ≤ x.toNat % 16 ↔ False := by simp
@[simp] theorem code3_fits (x : BitVec 3) : x.toNat < 8 := x.isLt
@[simp] theorem code3_not_over (x : BitVec 3) : 8 ≤ x.toNat ↔ False := by simp
@[simp] theorem code3_mod32 (x : BitVec 3) : x.toNat % 32 = x.toNat := by omega
@[simp] theorem code3_mod16 (x : BitVec 3) : x.toNat % 16 = x.toNat := by omega
@[simp] theorem F7.unpack_zero : F7.unpack 0#48 = {} := rfl

/-! R144, R146, R147: operands that the encoder spreads over fields or widens. -/

@[simp] theorem Imm.of_fields (v : Imm) : (⟨v.lo, Option.map ((fun x => x.setWidth 40) ∘ fun x => BitVec.setWidth 60 x) v.x⟩ : Imm) = v := by
  obtain ⟨_, _ | _⟩ := v <;> simp [BitVec.setWidth_setWidth_of_le]

@[simp] theorem Off.of_fields (v : Off) : (⟨v.lo, Option.map ((fun x => x.setWidth 35) ∘ fun x => BitVec.setWidth 60 x) v.x⟩ : Off) = v := by
  obtain ⟨_, _ | _⟩ := v <;> simp [BitVec.setWidth_setWidth_of_le]

@[simp] theorem OffA.of_fields (v : OffA) : (⟨v.lo, Option.map ((fun x => x.setWidth 41) ∘ fun x => BitVec.setWidth 60 x) v.x⟩ : OffA) = v := by
  obtain ⟨_, _ | _⟩ := v <;> simp [BitVec.setWidth_setWidth_of_le]

@[simp] theorem ofBool_beq_one (b : Bool) : (BitVec.ofBool b == 1#1) = b := by cases b <;> rfl

@[simp] theorem pair_even (n : NPair) : (n ++ 0#1 : BitVec 6)[0] = false := by
  rw [BitVec.getElem_append]
  rfl

@[simp] theorem pair_number (n : NPair) : (n ++ 0#1 : BitVec 6).extractLsb' 1 5 = n := by
  simp (disch := decide) only [BitVec.extractLsb'_append_eq_of_le, BitVec.extractLsb'_eq_self, Nat.reduceSub]

@[simp] theorem bitField_fields (pos len : BitVec 6) : (0#12 ++ len ++ pos : BitVec 24).extractLsb' 12 12 = 0#12 ∧
   (0#12 ++ len ++ pos : BitVec 24).extractLsb' 0 6 = pos ∧ (0#12 ++ len ++ pos : BitVec 24).extractLsb' 6 6 = len := by
  simp (disch := decide) only [BitVec.extractLsb'_append_eq_of_le, BitVec.extractLsb'_append_eq_of_add_le,
    BitVec.extractLsb'_eq_self, Nat.reduceSub, and_true]

@[simp] theorem barx_fields (k : KReg) (n : BitVec 4) : (0#10 ++ k ++ n : BitVec 16).extractLsb' 6 10 = 0#10 ∧
    (0#10 ++ k ++ n : BitVec 16).extractLsb' 4 2 = k ∧ (0#10 ++ k ++ n : BitVec 16).setWidth 4 = n := by
  refine ⟨?_, ?_, BitVec.setWidth_append_eq_right⟩ <;>
  simp (disch := decide) only [BitVec.extractLsb'_append_eq_of_le, BitVec.extractLsb'_append_eq_of_add_le,
    BitVec.extractLsb'_eq_self, Nat.reduceSub]

@[simp] theorem vunpk_fields (hi : Bool) (c : BitVec 4) : (BitVec.ofBool hi ++ c : BitVec 5).setWidth 4 = c ∧ (BitVec.ofBool hi ++ c : BitVec 5)[4] = hi := by
  refine ⟨BitVec.setWidth_append_eq_right, ?_⟩
  rw [BitVec.getElem_append]
  cases hi <;> rfl

/-- The bits above a widened field are zero. -/
theorem extract_setWidth_zero {w v s n : Nat} (x : BitVec w) (h : w ≤ s) : (x.setWidth v).extractLsb' s n = 0#n := by
  ext i hi
  simp only [BitVec.getElem_extractLsb', BitVec.getLsbD_setWidth, BitVec.getElem_zero, Bool.and_eq_false_imp]
  exact fun _ => BitVec.getLsbD_of_ge _ _ (by omega)

/-- R464: operands that STRM accepts break none of its field checks. -/
theorem strmBad_of_ok {port : Port} {dir cons cv : Bool} {rm : Rm} {ty : Ty} {n : NPair} (h : strmOk port dir cons cv rm ty n = true) (f : F5)
    (hs : f.sel = port.code) (hd : f.dir = BitVec.ofBool dir) (hc : f.cons = BitVec.ofBool cons) (hv : f.cv = BitVec.ofBool cv)
    (hr : f.rmx = rm.code) (ht : f.ty = ty.code) (hb : f.b = n ++ 0#1) : strmBad f = false := by
  have hn : f.b = 0#6 ↔ n = 0 := by
    rw [hb]
    constructor
    · intro e
      rw [← pair_number n, e]
      rfl
    · rintro rfl
      rfl
  simp only [strmOk, Bool.and_eq_true, Bool.or_eq_true, Bool.not_eq_true', decide_eq_true_eq, decide_eq_false_iff_not, beq_iff_eq, bne_iff_ne] at h
  obtain ⟨⟨⟨⟨hob, hname⟩, hcons⟩, hplain⟩, hconv⟩ := h
  simp only [strmBad, hs, hd, hc, hv, hr, ht]
  cases dir <;> cases cons <;> cases cv <;> simp_all
  case false.false.true => tauto
  case false.false.false => tauto
  all_goals omega

section
variable {i : Instr} {s : Syl}

/-! R148 to R154: each class decodes what it encodes. Where a check reads a flag or an operation, the case split is over that. -/

theorem decodeSyl_encodeSyl_S (h : i.wf = true) (he : encodeSyl i = some s) (hc : s.cls = 0) : decodeSyl s = .ok i := by
  cases i
  all_goals simp only [encodeSyl, Option.some.injEq, reduceCtorEq] at he
  all_goals subst he
  all_goals simp only [BitVec.reduceEq] at hc
  all_goals simp_all [decodeSyl, decodeS, chk, Instr.wf]

theorem decodeSyl_encodeSyl_V (h : i.wf = true) (he : encodeSyl i = some s) (hc : s.cls = 1) : decodeSyl s = .ok i := by
  cases i
  all_goals simp only [encodeSyl, Option.some.injEq, reduceCtorEq] at he
  all_goals subst he
  all_goals simp only [BitVec.reduceEq] at hc
  all_goals simp only [Instr.wf, Bool.and_eq_true, Bool.or_eq_true, decide_eq_true_eq, beq_iff_eq, bne_iff_ne, Bool.not_eq_true'] at h
  case vcbd wt _ _ _ => cases wt <;> simp [decodeSyl, decodeV, chk]
  case vred op rm _ _ => cases op <;> simp_all [decodeSyl, decodeV, chk, Red.code, Red.ofCode]; tauto
  case vscan op rm _ _ => cases op <;> simp_all [decodeSyl, decodeV, chk, Red.code, Red.ofCode]; tauto
  case vcmp ty c _ _ _ => cases hf : tyIn 0x1C00 ty.code <;> simp_all [decodeSyl, decodeV, chk]
  case vadd rm _ _ _ => by_cases hr : rm = .dyn <;> simp_all [decodeSyl, decodeV, chk]
  case vsub rm _ _ _ => by_cases hr : rm = .dyn <;> simp_all [decodeSyl, decodeV, chk]
  case vmul rm _ _ _ => by_cases hr : rm = .dyn <;> simp_all [decodeSyl, decodeV, chk]
  case vfma rm _ _ _ _ => by_cases hr : rm = .dyn <;> simp_all [decodeSyl, decodeV, chk]
  all_goals simp_all [decodeSyl, decodeV, chk]

theorem decodeSyl_encodeSyl_ML (h : i.wf = true) (he : encodeSyl i = some s) (hc : s.cls = 2 ∨ s.cls = 3) : decodeSyl s = .ok i := by
  cases i
  all_goals simp only [encodeSyl, Option.some.injEq, reduceCtorEq] at he
  all_goals subst he
  all_goals simp only [BitVec.reduceEq, or_self] at hc
  case mmacb wt _ _ _ _ => cases wt <;> simp_all [decodeSyl, decodeM, chk, Instr.wf]
  all_goals simp_all [decodeSyl, decodeM, decodeL, chk, Instr.wf]

theorem decodeSyl_encodeSyl_NC (h : i.wf = true) (he : encodeSyl i = some s) (hc : s.cls = 4 ∨ s.cls = 5) : decodeSyl s = .ok i := by
  cases i
  all_goals simp only [encodeSyl, Option.some.injEq, reduceCtorEq] at he
  all_goals subst he
  all_goals simp only [BitVec.reduceEq, or_self] at hc
  case await p _ _ => cases p <;> simp [decodeSyl, decodeN, chk]
  case pub rel _ _ _ => cases rel <;> simp [decodeSyl, decodeN, chk]
  case strm =>
    have hb := strmBad_of_ok h
    simp [decodeSyl, decodeN, chk, hb]
  case frzrd f _ _ _ => cases f <;> simp_all [decodeSyl, decodeC, chk, File.code, File.isVector, File.ofCode, Instr.wf]
  case frzwr f _ _ _ => cases f <;> simp_all [decodeSyl, decodeC, chk, File.code, File.isVector, File.ofCode, Instr.wf]
  all_goals simp_all [decodeSyl, decodeN, decodeC, chk, Instr.wf, extract_setWidth_zero]

/-- R136 to R154: a well-formed syllable's encoding decodes to it. -/
theorem decodeSyl_encodeSyl (h : i.wf = true) (he : encodeSyl i = some s) : decodeSyl s = .ok i := by
  have hc : s.cls = 0 ∨ s.cls = 1 ∨ (s.cls = 2 ∨ s.cls = 3) ∨ s.cls = 4 ∨ s.cls = 5 := by
    cases i <;> cases he <;> simp
  rcases hc with hc | hc | hc | hc
  · exact decodeSyl_encodeSyl_S h he hc
  · exact decodeSyl_encodeSyl_V h he hc
  · exact decodeSyl_encodeSyl_ML h he hc
  · exact decodeSyl_encodeSyl_NC h he hc

/-- R146, R147, Table 6.6: an X syllable is encoded only where one may follow, and with no payload bit too many. -/
theorem xBits_encodeSyl (he : encodeSyl i = some s) {p : BitVec 60} (hp : s.x = some p) : ∃ n, s.xBits = some n ∧ p >>> n = 0 := by
  have hs {n : Nat} (x : BitVec n) (hn : n ≤ 60): x.setWidth 60 >>> n = 0 := by
    ext j hj
    simp only [BitVec.getElem_ushiftRight, BitVec.getLsbD_setWidth, BitVec.ofNat_eq_ofNat, BitVec.getElem_zero, Bool.and_eq_false_imp]
    exact fun _ => BitVec.getLsbD_of_ge _ _ (by omega)
  cases i
  all_goals simp only [encodeSyl, Option.some.injEq, reduceCtorEq] at he
  all_goals subst he
  all_goals simp only [reduceCtorEq, Option.map_eq_some_iff] at hp
  all_goals
    obtain ⟨x, -, rfl⟩ := hp
    exact ⟨_, rfl, hs x (by decide)⟩

end

/-- Settles O2: the header and, where there is one, the payload read back, and the syllable decodes class by class. -/
theorem decodeOfEncode : Obligations.DecodeOfEncode := by
  unfold Obligations.DecodeOfEncode
  intro i h hn
  obtain ⟨s, he⟩ := Option.ne_none_iff_exists'.1 hn
  have hd : decodeSyl s = .ok i := decodeSyl_encodeSyl h he
  cases hx : s.x with
  | none =>
    have hs : ({ s with x := none } : Syl) = s := by rw [← hx]
    simp [encode, he, hx, decodeWords, hs, hd]
  | some p =>
    obtain ⟨n, hb, hz⟩ := xBits_encodeSyl he hx
    have hs : ({ s with x := some p } : Syl) = s := by rw [← hx]
    simp [encode, he, hx, decodeWords, xWord_fields, hs, hb, hd, hz]

end Sys2Proof

namespace Sys2Proof.Machine

/-! R115, R392, R422, R438, R455: the registers, and the syllables that move and compare. -/

theorem rdSh_wrSh (r : Regs) (n m : ShReg) (x : Shape) : (r.wrSh n x).rdSh m = if m = n then x else r.rdSh m := by
  by_cases e : m = n
  · subst e; simp [Regs.rdSh, Regs.wrSh]
  · have h : m.toNat ≠ n.toNat := fun h => e (BitVec.eq_of_toNat_eq h)
    simp [Regs.rdSh, Regs.wrSh, e, h]

theorem rdG_wrG (r : Regs) (n m : GReg) (x : BitVec 256) : (r.wrG n x).rdG m = if m = n then x else r.rdG m := by
  by_cases e : m = n
  · subst e; simp [Regs.rdG, Regs.wrG]
  · have h : m.toNat ≠ n.toNat := fun h => e (BitVec.eq_of_toNat_eq h)
    simp [Regs.rdG, Regs.wrG, e, h]

/-- Settles O14: one law for each register file. -/
theorem registersReadBack : Obligations.RegistersReadBack := by
  unfold Obligations.RegistersReadBack
  exact ⟨fun r n m x => rdS_wrS r n m x, fun r n m x => rdP_wrP r n m x, fun r n m x => rdV_wrV r n m x, rdSh_wrSh, rdG_wrG⟩

/-- A pattern written as a natural number is that pattern. -/
theorem wrS_toNat (s : State) (d : SReg) (v : Word) (p : Bool) : wrS s d v.toNat p = putS s d v p := by
  rw [wrS, putS, BitVec.ofNat_toNat, BitVec.setWidth_eq]

theorem Imm.value_none (lo : BitVec 24) : Imm.value ⟨lo, none⟩ = lo.signExtend 64 := rfl
theorem Imm.value_some (lo : BitVec 24) (x : BitVec 40) : Imm.value ⟨lo, some x⟩ = x ++ lo := rfl

/-- Settles O11: the guard is true, so each syllable writes its one result. -/
theorem compareSelectLimm : Obligations.CompareSelectLimm := by
  unfold Obligations.CompareSelectLimm
  refine ⟨fun s th g ty c d a b h _ => ?_, fun s th g ty c d a v h _ => ?_, fun s th g q d a b h => ?_,
    fun s th g d lo x h => ⟨?_, ?_⟩⟩
  · show execCmp g ty c d a b s = _
    rw [execCmp, syllable_runs h, readInt_toNat, readInt_toNat]
    rfl
  · show execCmpImmediate g ty c d a v s = _
    rw [execCmpImmediate, syllable_runs h, readInt_toNat, readInt_toNat]
    rfl
  · show execSel g d q a b s = _
    rw [execSel, syllable_runs h, wrS_toNat, apply_ite (rdS s)]
  · show execLimm g d _ s = _
    rw [execLimm, syllable_runs h, wrS_toNat, Imm.value_none]
  · show execLimm g d _ s = _
    rw [execLimm, syllable_runs h, wrS_toNat, Imm.value_some]

/-- R438, R440: the model's count is the number of set bits. -/
theorem popcount_eq_countP (n x : Nat) : popcount n x = (List.range n).countP (fun i => x.testBit i) := by
  induction n generalizing x with
  | zero => rfl
  | succ n ih =>
    have hb : x % 2 = if x.testBit 0 then 1 else 0 := by
      rw [Nat.testBit_zero]
      rcases Nat.mod_two_eq_zero_or_one x with h | h <;> simp [h]
    rw [popcount, ih, List.range_succ_eq_map, List.countP_cons, List.countP_map, hb, Nat.add_comm]
    simp [Function.comp_def, Nat.testBit_succ]

/-- R438: a pattern and its negative share its lowest set bit alone. -/
theorem getLsbD_and_neg {w : Nat} (x : BitVec w) {i : Nat} (hi : i < w) :
    (x &&& -x).getLsbD i = (x.getLsbD i && decide (∀ j, j < i → x.getLsbD j = false)) := by
  rw [BitVec.getLsbD_and, BitVec.getLsbD_neg]
  have hn : (∀ j, j < i → x.getLsbD j = false) ↔ ¬ ∃ j < i, x.getLsbD j = true := by simp
  rw [decide_eq_decide.2 hn, decide_not]
  cases x.getLsbD i <;> simp [hi]

/-- Settles O13: the guard is true, so each syllable writes its one result; the count and the lowest set bit are those of the laws
above. -/
theorem predicateOperations : Obligations.PredicateOperations := by
  unfold Obligations.PredicateOperations
  intro s th g p q d x y h
  refine ⟨?_, ?_, ?_, ?_, ?_, ?_, ?_, ?_, _, ?_, fun i hi => getLsbD_and_neg _ hi⟩
  case refine_7 =>
    show execPmovToScalar g y p s = _
    rw [execPmovToScalar, syllable_runs h, wrS_toNat]
  case refine_8 =>
    show execPcnt g y p s = _
    rw [execPcnt, syllable_runs h, wrS, popcount_eq_countP]
    rfl
  all_goals exact syllable_runs h _

end Sys2Proof.Machine

namespace Sys2Proof.Machine

/-! R396, R449: DIV and REM. -/

theorem valueOf_of_signed {ty : Ty} (h : ty.signed = true) (x : BitVec ty.bits) : valueOf ty x = x.toInt := by
  rw [valueOf, if_pos h]

theorem valueOf_of_unsigned {ty : Ty} (h : ty.signed = false) (x : BitVec ty.bits) : valueOf ty x = x.toNat := by
  simp [valueOf, h]

/-- Patterns that read as one integer are equal. -/
theorem valueOf_inj {ty : Ty} {x y : BitVec ty.bits} : valueOf ty x = valueOf ty y ↔ x = y :=
  ⟨fun h => by rw [← ofInt_valueOf ty x, h, ofInt_valueOf], fun h => by rw [h]⟩

@[simp] theorem valueOf_zero (ty : Ty) : valueOf ty 0 = 0 := by
  cases h : ty.signed
  · rw [valueOf_of_unsigned h]; simp
  · rw [valueOf_of_signed h]; simp

theorem valueOf_eq_zero (ty : Ty) (x : BitVec ty.bits) : valueOf ty x = 0 ↔ x = 0 := by
  rw [← valueOf_zero ty, valueOf_inj]

theorem valueOf_intMin {ty : Ty} (h : ty.signed = true) : valueOf ty (BitVec.intMin ty.bits) = ty.least := by
  rw [valueOf_of_signed h, BitVec.toInt_intMin_of_pos (Nat.pos_of_ne_zero (bits_ne_zero ty)), Ty.least, if_pos h]

theorem valueOf_allOnes {ty : Ty} (h : ty.signed = true) : valueOf ty (BitVec.allOnes ty.bits) = -1 := by
  rw [valueOf_of_signed h, BitVec.toInt_allOnes, if_pos (Nat.pos_of_ne_zero (bits_ne_zero ty))]

/-- R396: the one overflow: the least number of a signed type over -1. -/
def overflows (ty : Ty) (x y : BitVec ty.bits) : Bool :=
  ty.signed && x == BitVec.intMin ty.bits && y == BitVec.allOnes ty.bits

theorem overflows_eq (ty : Ty) (x y : BitVec ty.bits) :
    (ty.signed && valueOf ty x == ty.least && valueOf ty y == -1) = overflows ty x y := by
  unfold overflows
  cases h : ty.signed
  · rfl
  · rw [← valueOf_intMin h, ← valueOf_allOnes h, Bool.eq_iff_iff]
    simp [valueOf_inj]

theorem ofInt_least {ty : Ty} (h : ty.signed = true) : BitVec.ofInt ty.bits ty.least = BitVec.intMin ty.bits := by
  rw [← valueOf_intMin h, ofInt_valueOf]

theorem ofInt_tdiv (ty : Ty) (x y : BitVec ty.bits) :
    BitVec.ofInt ty.bits (Int.tdiv (valueOf ty x) (valueOf ty y)) = if ty.signed then x.sdiv y else x / y := by
  cases h : ty.signed
  · rw [valueOf_of_unsigned h, valueOf_of_unsigned h]
    rw [← Int.ofNat_tdiv, BitVec.ofInt_natCast, ← BitVec.udiv_def]
    rfl
  · rw [valueOf_of_signed h, valueOf_of_signed h]
    exact BitVec.eq_of_toInt_eq (by simp [BitVec.toInt_sdiv])

theorem ofInt_tmod (ty : Ty) (x y : BitVec ty.bits) :
    BitVec.ofInt ty.bits (Int.tmod (valueOf ty x) (valueOf ty y)) = if ty.signed then x.srem y else x % y := by
  cases h : ty.signed
  · rw [valueOf_of_unsigned h, valueOf_of_unsigned h]
    rw [← Int.ofNat_tmod, BitVec.ofInt_natCast, ← BitVec.umod_def]
    rfl
  · rw [valueOf_of_signed h, valueOf_of_signed h, if_pos rfl, ← BitVec.toInt_srem, BitVec.ofInt_toInt]

theorem computes_quotient : Computes quotient (fun ty x y =>
    if y = 0 then BitVec.allOnes ty.bits else if overflows ty x y then x else if ty.signed then x.sdiv y else x / y) := by
  intro ty x y
  simp only [quotient, valueOf_eq_zero, overflows_eq]
  split_ifs with hy ho hs
  · rw [sub_eq_add_neg, BitVec.ofInt_add, ofInt_two_pow, BitVec.ofInt_neg, ← BitVec.neg_one_eq_allOnes]
    exact BitVec.eq_of_toNat_eq (by simp)
  · obtain ⟨⟨hs, hx⟩, -⟩ : (ty.signed = true ∧ x = BitVec.intMin ty.bits) ∧ _ := by simpa [overflows] using ho
    rw [ofInt_least hs, hx]
  · rw [ofInt_tdiv, if_pos hs]
  · rw [ofInt_tdiv, if_neg hs]

theorem computes_remainder : Computes remainder (fun ty x y =>
    if y = 0 then x else if overflows ty x y then 0 else if ty.signed then x.srem y else x % y) := by
  intro ty x y
  simp only [remainder, valueOf_eq_zero, overflows_eq]
  split_ifs with hy ho hs
  · exact ofInt_valueOf ty x
  · simp
  · rw [← Int.tmod_def, ofInt_tmod, if_pos hs]
  · rw [← Int.tmod_def, ofInt_tmod, if_neg hs]

/-- R396: dividend = divisor · quotient + remainder modulo 2^w, the corners included. -/
theorem ofInt_quotient_remainder (ty : Ty) (x y : BitVec ty.bits) :
    x = y * BitVec.ofInt ty.bits (quotient ty (valueOf ty x) (valueOf ty y)) +
      BitVec.ofInt ty.bits (remainder ty (valueOf ty x) (valueOf ty y)) := by
  simp only [quotient, remainder, valueOf_eq_zero, overflows_eq]
  split_ifs with hy ho
  · simp [hy]
  · obtain ⟨⟨hs, rfl⟩, rfl⟩ : (ty.signed = true ∧ x = BitVec.intMin ty.bits) ∧ y = BitVec.allOnes ty.bits := by
      simpa [overflows] using ho
    rw [ofInt_least hs, ← BitVec.neg_one_eq_allOnes, BitVec.neg_mul, BitVec.one_mul, BitVec.neg_intMin]
    simp
  · have hm (t : Int) : y * BitVec.ofInt ty.bits t = BitVec.ofInt ty.bits (valueOf ty y * t) := by
      rw [BitVec.ofInt_mul, ofInt_valueOf]
    rw [hm, ← BitVec.ofInt_add, add_sub_cancel, ofInt_valueOf]

/-- Settles O10: DIV and REM run the mould on the model's quotient and remainder, which give on patterns what the statement says;
the identity holds of the integers and so modulo 2^w. -/
theorem divideAndRemainder : Obligations.DivideAndRemainder := by
  unfold Obligations.DivideAndRemainder
  refine ⟨computes_quotient.member ?_ ?_ ?_ ?_, computes_remainder.member ?_ ?_ ?_ ?_, fun ty x y _ => ?_⟩
  case refine_9 =>
    have h := ofInt_quotient_remainder ty x y
    rwa [computes_quotient, computes_remainder] at h
  all_goals intros; rfl

end Sys2Proof.Machine

namespace Sys2Proof.Machine

/-! R384, R385, R391, R440: bit counts and bit fields. -/

/-- The low bits of a scalar, bit by bit. -/
theorem testBit_lowBits (ty : Ty) (x : SVal) (i : Nat) : (lowBits ty x).testBit i = (decide (i < ty.bits) && x.val.getLsbD i) := by
  rw [lowBits, Nat.testBit_mod_two_pow]
  rfl

theorem bits_le (ty : Ty) : ty.bits ≤ 64 := by cases ty <;> decide

/-- R391: the zeros above the highest set bit of a number of w bits, w where there is none. -/
def leadingZeros (w x : Nat) : Nat := if x = 0 then w else w - 1 - x.log2

theorem leadingZeros_spec {w x : Nat} (h : x < 2 ^ w) :
    leadingZeros w x ≤ w ∧ (∀ i, w - leadingZeros w x ≤ i → x.testBit i = false) ∧
      (leadingZeros w x < w → x.testBit (w - 1 - leadingZeros w x) = true) := by
  unfold leadingZeros
  split_ifs with hx
  · subst hx
    exact ⟨le_rfl, fun i _ => Nat.zero_testBit i, fun h => absurd h (lt_irrefl w)⟩
  · have hl : x.log2 < w := (Nat.log2_lt hx).2 h
    refine ⟨by omega, fun i hi => ?_, fun _ => ?_⟩
    · exact Nat.testBit_lt_two_pow ((Nat.log2_lt hx).1 (by omega))
    · rw [show w - 1 - (w - 1 - x.log2) = x.log2 by omega]
      exact Nat.testBit_log2 hx

/-- R385: the field that BFX extracts, bit by bit. -/
theorem testBit_bfxValue (ty : Ty) (x : Word) {pos len i : Nat} (hl : 0 < len) (hl64 : len ≤ 64) (hi : i < 64) :
    (bfxValue ty x.toNat pos len).testBit i = if i < len then (decide (pos + i < 64) && x.getLsbD (pos + i))
      else ty.signed && decide (pos + len ≤ 64) && x.getLsbD (pos + len - 1) := by
  unfold bfxValue
  set f := x.toNat / 2 ^ pos % 2 ^ len with hf
  have hlt : f < 2 ^ len := Nat.mod_lt _ (by positivity)
  have hb (j : Nat) : f.testBit j = (decide (j < len) && x.getLsbD (pos + j)) := by
    rw [hf, Nat.testBit_mod_two_pow, Nat.testBit_div_two_pow, Nat.add_comm]
    rfl
  have htop : 2 ^ (len - 1) ≤ f ↔ x.getLsbD (pos + len - 1) = true := by
    have ht : f.testBit (len - 1) = x.getLsbD (pos + len - 1) := by
      rw [hb, Nat.add_sub_assoc hl]
      simp [hl]
    rw [← ht]
    exact ⟨fun h => Nat.testBit_of_two_pow_le_and_two_pow_add_one_gt h (by rwa [Nat.sub_add_cancel hl]), Nat.ge_two_pow_of_testBit⟩
  have hin : x.getLsbD (pos + i) = (decide (pos + i < 64) && x.getLsbD (pos + i)) := by
    by_cases h : pos + i < 64
    · simp [h]
    · simp [h, BitVec.getLsbD_of_ge x _ (not_lt.1 h)]
  have hsign : x.getLsbD (pos + len - 1) = (decide (pos + len ≤ 64) && x.getLsbD (pos + len - 1)) := by
    by_cases h : pos + len ≤ 64
    · simp [h]
    · simp [h, BitVec.getLsbD_of_ge x (pos + len - 1) (by omega)]
  have hext (a : Nat) : (2 ^ len * a + f).testBit i = if i < len then x.getLsbD (pos + i) else a.testBit (i - len) := by
    rw [Nat.testBit_two_pow_mul_add a hlt, hb]
    split_ifs with h <;> simp [h]
  rw [← hin, Bool.and_assoc, ← hsign]
  by_cases hs : (ty.signed && decide (len < 64) && decide (2 ^ (len - 1) ≤ f)) = true
  · obtain ⟨⟨hsg, hl'⟩, ht⟩ : (ty.signed = true ∧ len < 64) ∧ 2 ^ (len - 1) ≤ f := by simpa using hs
    have he : f + 2 ^ 64 - 2 ^ len = 2 ^ len * (2 ^ (64 - len) - 1) + f := by
      rw [Nat.mul_sub, ← pow_add, Nat.add_sub_cancel' hl64, mul_one]
      have := Nat.pow_le_pow_right two_pos hl64
      omega
    rw [if_pos hs, he, hext, htop.1 ht, hsg, Nat.testBit_two_pow_sub_one, decide_eq_true (show i - len < 64 - len by omega)]
    rfl
  · have hf0 := hext 0
    rw [mul_zero, Nat.zero_add, Nat.zero_testBit] at hf0
    rw [if_neg hs, hf0]
    split_ifs with hi'
    · rfl
    · have hl' : len < 64 := by omega
      have hd : decide (2 ^ (len - 1) ≤ f) = x.getLsbD (pos + len - 1) := by
        rw [Bool.eq_iff_iff, decide_eq_true_iff, htop]
      rw [hd, decide_eq_true hl', Bool.and_true] at hs
      exact (Bool.eq_false_iff.2 hs).symm

/-- R385: the mask of BFI, bit by bit. -/
theorem getLsbD_bfiMask (pos len : Nat) {i : Nat} (hi : i < 64) : (bfiMask pos len).getLsbD i = decide (pos ≤ i ∧ i < pos + len) := by
  rw [bfiMask, BitVec.getLsbD_ofNat, Nat.testBit_mul_two_pow, Nat.testBit_two_pow_sub_one]
  by_cases h1 : pos ≤ i <;> simp [hi, h1]
  omega

/-- R385: what BFI writes. -/
def bfiValue (x o : Word) (pos len : Nat) : Word := (o &&& ~~~(bfiMask pos len)) ||| ((x <<< pos) &&& bfiMask pos len)

theorem getLsbD_bfiValue (x o : Word) (pos len : Nat) {i : Nat} (hi : i < 64) :
    (bfiValue x o pos len).getLsbD i = if pos ≤ i ∧ i < pos + len then x.getLsbD (i - pos) else o.getLsbD i := by
  rw [bfiValue, BitVec.getLsbD_or, BitVec.getLsbD_and, BitVec.getLsbD_and, BitVec.getLsbD_not, BitVec.getLsbD_shiftLeft,
    getLsbD_bfiMask pos len hi]
  by_cases hc : pos ≤ i ∧ i < pos + len
  · simp [hi, hc]
  · simp [hi, hc]

theorem fieldLen_bounds (len : BitVec 6) : 0 < fieldLen len ∧ fieldLen len ≤ 64 := by
  unfold fieldLen
  split_ifs with h
  · omega
  · have : len.toNat ≠ 0 := fun e => h (BitVec.eq_of_toNat_eq e)
    omega

/-- Settles O12: the guard is true, so each syllable writes its one result, whose bits the laws above give. -/
theorem bitCountsAndFields : Obligations.BitCountsAndFields := by
  unfold Obligations.BitCountsAndFields
  refine ⟨fun s th g ty d a h _ => ⟨⟨leadingZeros ty.bits (lowBits ty (rdS s a)), syllable_runs h _, ?_⟩, ?_⟩,
    fun s th g ty d a pos len h _ => ⟨_, syllable_runs h _, fun i hi => ?_⟩, fun s th g ty d a pos len h => ⟨_, ?_, fun i hi => getLsbD_bfiValue _ _ _ _ hi⟩⟩
  · obtain ⟨hle, hz, ho⟩ := leadingZeros_spec (w := ty.bits) (x := lowBits ty (rdS s a)) (Nat.mod_lt _ (by positivity))
    refine ⟨hle, fun i h1 h2 => ?_, fun h1 => ?_⟩
    · simpa [testBit_lowBits, h2] using hz i h1
    · have := ho h1
      rw [testBit_lowBits, Bool.and_eq_true] at this
      exact this.2
  · show execPopc g ty d a s = _
    rw [execPopc, syllable_runs h, wrS, popcount_eq_countP]
    rw [List.countP_congr (q := fun i => (rdS s a).val.getLsbD i) (fun i hi => by simp [testBit_lowBits, List.mem_range.1 hi])]
    rfl
  · rw [BitVec.getLsbD_ofNat, testBit_bfxValue ty _ (fieldLen_bounds len).1 (fieldLen_bounds len).2 hi]
    simp [hi]
  · show execBfi g ty d a pos len s = _
    rw [execBfi, syllable_runs h]
    exact congrArg _ (wrS_toNat _ _ _ _)

end Sys2Proof.Machine

namespace Sys2Proof.Machine

/-! R112, R127, R133: raising flags and drawing random bits leave the sources of the bundle as they were. -/

@[simp] theorem rdS_setRegs (s : State) (f : Regs → Regs) (a : SReg) : rdS (setRegs s f) a = rdS s a := by simp [rdS]
@[simp] theorem rdV_setRegs (s : State) (f : Regs → Regs) (a : VReg) : rdV (setRegs s f) a = rdV s a := by simp [rdV]
@[simp] theorem rdP_setRegs (s : State) (f : Regs → Regs) (a : PReg) : rdP (setRegs s f) a = rdP s a := by simp [rdP]
@[simp] theorem rdS_raise (s : State) (f : Flags) (a : SReg) : rdS (raise s f) a = rdS s a := by simp [raise, rdS]
@[simp] theorem rdV_raise (s : State) (f : Flags) (a : VReg) : rdV (raise s f) a = rdV s a := by simp [raise, rdV]
@[simp] theorem rdP_raise (s : State) (f : Flags) (a : PReg) : rdP (raise s f) a = rdP s a := by simp [raise, rdP]

theorem draw_src (s : State) (m : Mode) : (draw s m).1.issue.src = s.issue.src := by
  unfold draw
  split_ifs <;> simp

@[simp] theorem rdS_draw (s : State) (m : Mode) (a : SReg) : rdS (draw s m).1 a = rdS s a := by simp [rdS, draw_src]
@[simp] theorem rdV_draw (s : State) (m : Mode) (a : VReg) : rdV (draw s m).1 a = rdV s a := by simp [rdV, draw_src]
@[simp] theorem rdP_draw (s : State) (m : Mode) (a : PReg) : rdP (draw s m).1 a = rdP s a := by simp [rdP, draw_src]

/-! R400: the scalar floating-point syllables. -/

/-- The formats of the float moulds are no integer types. -/
theorem signed_of_float {ty : Ty} (h : tyIn 0x1C00 ty.code = true) : ty.signed = false := by
  revert h
  cases ty <;> decide

theorem isInt_of_float {ty : Ty} (h : tyIn 0x1C00 ty.code = true) : ty.isInt = false := by
  revert h
  cases ty <;> decide

/-- R174: a type that is not signed is zero-extended. -/
theorem extend_of_unsigned {ty : Ty} (h : ty.signed = false) (w x : Nat) : extend ty w x = x % 2 ^ ty.bits := by
  simp [extend, h]

/-- R399: a member of the scalar float mould rounds its sources once. -/
theorem floatMould_member {f : Fmt → Mode → Nat → Nat → Nat → RRes} {mk : PReg → Ty → Rm → SReg → SReg → SReg → Instr}
    (h : ∀ g ty rm d a b s, exec (mk g ty rm d a b) s = floatMould f g ty rm d a b s) : FloatMember mk f := by
  intro s th g ty rm d a b hr hty
  refine ⟨_, (h ..).trans (syllable_runs hr _), ?_⟩
  simp only [wrRounded, wrS, extend_of_unsigned (signed_of_float hty)]
  rfl

/-- Settles O17: the guard is true, so each syllable rounds, picks, compares or converts its sources as they stood. -/
theorem scalarFloat : Obligations.ScalarFloat := by
  unfold Obligations.ScalarFloat
  refine ⟨floatMould_member fun _ _ _ _ _ _ _ => rfl, floatMould_member fun _ _ _ _ _ _ _ => rfl,
    floatMould_member fun _ _ _ _ _ _ _ => rfl, fun s th g ty rm d a b c hr hty => ⟨_, syllable_runs hr _, ?_⟩,
    fun s th g ty c d a b p hr hty => ⟨?_, ?_, syllable_runs hr _⟩,
    fun s th g ty src rm fin sat d a hr => ⟨_, syllable_runs hr _, ?_⟩⟩
  · simp only [wrRounded, wrS, extend_of_unsigned (signed_of_float hty)]
    rfl
  · refine (syllable_runs hr _).trans ?_
    simp only [wrS, putS, extend_of_unsigned (signed_of_float hty)]
  · refine (syllable_runs hr _).trans ?_
    simp only [wrS, putS, extend_of_unsigned (signed_of_float hty)]
  · unfold cvtDraws Rounded
    cases ty.isInt && src.isInt <;> rfl

end Sys2Proof.Machine

namespace Sys2Proof.Machine

/-! R182, R400, R405, R406: special values of sums and products. -/

theorem FV.mul_comm (a b : FV) : a.mul b = b.mul a := by
  cases a <;> cases b <;> simp [FV.mul, bne_comm, Nat.mul_comm, Int.add_comm]

theorem FV.mulInvalid_comm (a b : FV) : a.mulInvalid b = b.mulInvalid a := by
  cases a <;> cases b <;> rfl

theorem leastExp_pair_comm (a b : Int) : leastExp [a, b] = leastExp [b, a] := by
  simp only [leastExp, List.foldl_cons, List.foldl_nil]
  split_ifs <;> omega

theorem FV.sum_pair_comm (m : Mode) (a b : FV) : FV.sum m [a, b] = FV.sum m [b, a] := by
  simp only [FV.sum, List.map_cons, List.map_nil, leastExp_pair_comm a.exp b.exp, List.any_cons, List.any_nil, List.all_cons,
    List.all_nil, List.foldl_cons, List.foldl_nil, zero_add, Bool.or_false, Bool.and_true]
  simp only [Bool.or_comm (b == _), Bool.and_comm b.isZero, Bool.and_comm b.neg, Bool.and_comm (!b.neg), Int.add_comm (b.scaledInt _)]

theorem FV.sumInvalid_pair_comm (a b : FV) : FV.sumInvalid [a, b] = FV.sumInvalid [b, a] := by
  simp only [FV.sumInvalid, List.any_cons, List.any_nil, Bool.or_false]
  simp only [Bool.or_comm (b == _)]

theorem fAdd_comm (f : Fmt) (m : Mode) (u x y : Nat) : fAdd f m u x y = fAdd f m u y x := by
  simp only [fAdd, FV.sum_pair_comm m (f.value x), FV.sumInvalid_pair_comm (f.value x)]

theorem fMul_comm (f : Fmt) (m : Mode) (u x y : Nat) : fMul f m u x y = fMul f m u y x := by
  simp only [fMul, FV.mul_comm (f.value x), FV.mulInvalid_comm (f.value x)]

theorem FV.sum_nan (m : Mode) (l : List FV) (h : FV.nan ∈ l) : FV.sum m l = .nan ∧ FV.sumInvalid l = false := by
  have hn : l.any (· == .nan) = true := List.any_eq_true.2 ⟨_, h, rfl⟩
  simp [FV.sum, FV.sumInvalid, hn]

/-- Infinities of both signs. -/
theorem FV.sum_opposite (m : Mode) (neg : Bool) : FV.sum m [.inf neg, .inf (!neg)] = .nan ∧ FV.sumInvalid [.inf neg, .inf (!neg)] = true := by
  cases neg <;> exact ⟨rfl, rfl⟩

theorem FV.mul_nan {a b : FV} (h : a = .nan ∨ b = .nan) : a.mul b = .nan ∧ a.mulInvalid b = false := by
  cases a <;> cases b <;> simp_all [FV.mul, FV.mulInvalid]

/-- Settles O18: what each operation gives on the values of its operands, and that it is symmetric in them. -/
theorem floatSpecialValues : Obligations.FloatSpecialValues := by
  unfold Obligations.FloatSpecialValues
  intro ty m u x y z _ f
  refine ⟨fun h => ?_, fun neg hx hy => ?_, fun neg hx hy => ?_, fun neg sgn e hx hy => ?_, fun hx hy => ?_, fAdd_comm .., fMul_comm ..⟩
  · obtain ⟨ha, ha'⟩ := FV.sum_nan m [f.value x, f.value y] (by rcases h with h | h <;> simp [h])
    obtain ⟨hs, hs'⟩ := FV.sum_nan m [f.value x, (f.value y).negate] (by rcases h with h | h <;> simp [h, FV.negate])
    obtain ⟨hm, hm'⟩ := FV.mul_nan h
    simp [fAdd, fSub, fMul, ha, ha', hs, hs', hm, hm', Fmt.roundFV, flagIf]
  · obtain ⟨h, h'⟩ := FV.sum_opposite m neg
    simp [fAdd, hx, hy, h, h', Fmt.roundFV, flagIf]
  · obtain ⟨h, h'⟩ := FV.sum_opposite m neg
    simp [fSub, hx, hy, FV.negate, h, h', Fmt.roundFV, flagIf]
  · obtain ⟨h, -⟩ := FV.sum_nan m [.nan, f.value z] (by simp)
    simp [fMul, fFma, hx, hy, FV.mul, FV.mulInvalid, h, Fmt.roundFV, flagIf]
  · cases hv : f.value y
    · exact absurd hv hy
    all_goals simp [fMinMax, hx, hv]

end Sys2Proof.Machine

namespace Sys2Proof.Machine

/-! R174, R476, R500: the vector lane mould. -/

theorem readInt_lane (ty : Ty) (x : BitVec 32) : readInt ty x.toNat = valueOf ty (x.setWidth ty.bits) := by
  rw [readInt_eq_valueOf, BitVec.ofNat_toNat]

/-- R174: a pattern of w bits extended to a vector lane. -/
theorem ofNat_extend_lane (ty : Ty) (x : BitVec ty.bits) : BitVec.ofNat 32 (extend ty 32 x.toNat) = widenLane ty x := by
  have hv : readInt ty x.toNat = valueOf ty x := by rw [readInt_eq_valueOf, BitVec.ofNat_toNat, BitVec.setWidth_eq]
  unfold extend widenLane
  rw [hv, valueOf, Nat.mod_eq_of_lt x.isLt]
  cases ty.signed
  · exact BitVec.ofNat_toNat 32 x
  · exact BitVec.eq_of_toNat_eq (by simpa [BitVec.signExtend, BitVec.toNat_ofInt] using Int.emod_lt_of_pos _ (by decide))

/-- R174: a lane of an integer that a pattern stands for. -/
theorem laneOf_intBits (ty : Ty) (v : Int) (p : Bool) : laneOf ty (intBits ty v) p = ⟨widenLane ty (BitVec.ofInt ty.bits v), p⟩ := by
  rw [laneOf, intBits_eq_toNat_ofInt, ofNat_extend_lane]

/-- R114, R476: a vector syllable whose enabled lanes are a function's. -/
theorem wrV_lanes (s : State) (g : PReg) (d : VReg) (f : Nat → Lane) :
    ∃ v, wrV s g d f = putV s d v ∧ LanesAre (rdP s g) (rdV s d) f v :=
  ⟨_, rfl, lanesAre_laneWise _ _ _⟩

theorem lanesOf_runs {s : State} {th : Thread} {g : PReg} (h : RunsV s th g) {d : VReg} {i : Instr} {f : Nat → Lane}
    (he : exec i s = vectorSyllable s g (fun _ => wrV s g d f)) : LanesOf s g d i f := by
  obtain ⟨v, hv, hl⟩ := wrV_lanes s g d f
  exact ⟨v, by rw [he, vectorSyllable_runs h, hv], hl⟩

theorem Computes.intLane {F : Ty → Int → Int → Int} {f : (ty : Ty) → BitVec ty.bits → BitVec ty.bits → BitVec ty.bits} (h : Computes F f)
    (ty : Ty) (x y : Lane) : intLane F ty x y =
      ⟨widenLane ty (f ty (x.val.setWidth ty.bits) (y.val.setWidth ty.bits)), x.poison || y.poison⟩ := by
  rw [Machine.intLane, readInt_lane, readInt_lane, laneOf_intBits, h]

/-- R476: a syllable that runs the integer mould on a function of the patterns is a member of the lane mould. -/
theorem Computes.laneMember {F : Ty → Int → Int → Int} {f : (ty : Ty) → BitVec ty.bits → BitVec ty.bits → BitVec ty.bits} (h : Computes F f)
    {mk : PReg → Ty → VReg → VReg → VReg → Instr}
    (he : ∀ g (ty : Ty) d a b s, ty.isInt = true → exec (mk g ty d a b) s = laneInt F g ty d a b s) : LaneMember mk f := by
  intro s th g ty d a b hr hi _
  simp only [← h.intLane]
  exact lanesOf_runs hr (he g ty d a b s hi)

theorem laneRound_int {fi : Ty → Int → Int → Int} {ff : Fmt → Mode → Nat → Nat → Nat → RRes} {ty : Ty} (h : ty.isInt = true) (g : PReg)
    (rm : Rm) (d a b : VReg) (s : State) : laneRound fi ff g ty rm d a b s = laneInt fi g ty d a b s := if_pos h

/-- Settles O19: each member runs the lane mould on the function that its scalar counterpart runs. -/
theorem vectorIntegerLanes : Obligations.VectorIntegerLanes := by
  unfold Obligations.VectorIntegerLanes
  refine ⟨fun rm => computes_fAddI.laneMember fun _ _ _ _ _ _ h => laneRound_int h .., fun rm => computes_fSubI.laneMember fun _ _ _ _ _ _ h => laneRound_int h ..,
    fun rm => computes_fMulI.laneMember fun _ _ _ _ _ _ h => laneRound_int h .., computes_fMulhI.laneMember ?_, computes_fMinI.laneMember fun _ _ _ _ _ _ h => if_pos h, computes_fMaxI.laneMember fun _ _ _ _ _ _ h => if_pos h,
    computes_fAndI.laneMember ?_, computes_fOrI.laneMember ?_, computes_fXorI.laneMember ?_, computes_fShlI.laneMember ?_, computes_fShrI.laneMember ?_,
    computes_fSraI.laneMember ?_⟩ <;> exact fun _ _ _ _ _ _ _ => rfl

/-- R476: the lanes of a member that rounds, with the flags of the enabled ones. -/
theorem wrLanes_rounded (s : State) (m : Mode) (g : PReg) (d : VReg) (f : Nat → LaneRes) :
    ∃ v, Rounded s m (orFlags ((lanesOn (rdP s g)).map (fun i => (f i).2))) (fun q => q.wrV d v) (wrLanes (draw s m).1 g d f) ∧
      LanesAre (rdP s g) (rdV s d) (fun i => (f i).1) v := by
  refine ⟨_, ?_, lanesAre_laneWise _ _ _⟩
  simp only [Rounded, wrLanes, wrV, rdP_draw, rdP_raise, rdV_raise, rdV_draw]

theorem laneRound_member {fi : Ty → Int → Int → Int} {ff : Fmt → Mode → Nat → Nat → Nat → RRes} {mk : PReg → Ty → Rm → VReg → VReg → VReg → Instr}
    (h : ∀ g ty rm d a b s, exec (mk g ty rm d a b) s = laneRound fi ff g ty rm d a b s) : LaneFloat mk ff := by
  intro s th g ty rm d a b hr hty
  obtain ⟨v, hv, hl⟩ := wrLanes_rounded s (modeOf s rm) g d (fun i => floatLane ty (ff (tyFmt ty) (modeOf s rm) (rngLane (draw s (modeOf s rm)).2 i)
    (laneBits ty ((rdV s a).lane i)) (laneBits ty ((rdV s b).lane i))) (((rdV s a).lane i).poison || ((rdV s b).lane i).poison))
  refine ⟨_, v, ?_, hv, hl⟩
  rw [h, laneRound, if_neg (by simp [isInt_of_float hty]), vectorSyllable_runs hr]

theorem laneElementary_member {fn : Elementary} {mk : PReg → Ty → Rm → VReg → VReg → Instr}
    (h : ∀ g ty rm d a s, exec (mk g ty rm d a) s = laneElementary fn g ty rm d a s) : LaneElementary mk fn := by
  intro s th g ty rm d a hr hty
  obtain ⟨v, hv, hl⟩ := wrLanes_rounded s (modeOf s rm) g d (fun i => floatLane ty (elementary fn (tyFmt ty) (modeOf s rm) (rngLane (draw s (modeOf s rm)).2 i)
    (laneBits ty ((rdV s a).lane i))) ((rdV s a).lane i).poison)
  refine ⟨_, v, ?_, hv, hl⟩
  rw [h, laneElementary, vectorSyllable_runs hr]

/-- Settles O21: each syllable writes lanes that a function rounds, with the flags of the enabled ones. -/
theorem vectorFloatLanes : Obligations.VectorFloatLanes := by
  unfold Obligations.VectorFloatLanes
  refine ⟨laneRound_member fun _ _ _ _ _ _ _ => rfl, laneRound_member fun _ _ _ _ _ _ _ => rfl, laneRound_member fun _ _ _ _ _ _ _ => rfl,
    laneElementary_member fun _ _ _ _ _ _ => rfl, laneElementary_member fun _ _ _ _ _ _ => rfl, laneElementary_member fun _ _ _ _ _ _ => rfl, laneElementary_member fun _ _ _ _ _ _ => rfl, ?_⟩
  intro s th g ty rm d a b c hr hty
  obtain ⟨v, hv, hl⟩ := wrLanes_rounded s (modeOf s rm) g d (fun i => floatLane ty (fFma (tyFmt ty) (modeOf s rm) (rngLane (draw s (modeOf s rm)).2 i)
    (laneBits ty ((rdV s a).lane i)) (laneBits ty ((rdV s b).lane i)) (laneBits ty ((rdV s c).lane i)))
    (((rdV s a).lane i).poison || ((rdV s b).lane i).poison || ((rdV s c).lane i).poison))
  refine ⟨_, v, ?_, hv, hl⟩
  show execVfma g ty rm d a b c s = _
  rw [execVfma, vectorSyllable_runs hr]
  simp only [isInt_of_float hty, Bool.false_eq_true, if_false]

end Sys2Proof.Machine

namespace Sys2Proof.Machine

/-! R127: one change of the registers after another, and the flags that no lane raises. -/

theorem put_put {α : Type} (k : Nat) (a b : α) (m : Map α) : put k b (put k a m) = put k b m := by
  induction m with
  | nil => simp [put]
  | cons e m ih =>
    obtain ⟨j, c⟩ := e
    simp only [put]
    split_ifs <;> simp_all [put]

theorem setThread_setThread (s : State) (k : Nat) (a b : Thread) : setThread (setThread s k a) k b = setThread s k b := by
  simp only [setThread, put_put]

theorem updThread_updThread (s : State) (k : Nat) (f h : Thread → Thread) :
    updThread (updThread s k f) k h = updThread s k (fun th => h (f th)) := by
  unfold updThread
  cases e : threadAt s k with
  | none => simp [e]
  | some th => simp [threadAt_setThread, setThread_setThread]

theorem setRegs_setRegs (s : State) (f h : Regs → Regs) : setRegs (setRegs s f) h = setRegs s (fun r => h (f r)) := by
  rw [setRegs, updIssuer, setRegs_issue]
  exact updThread_updThread _ _ _ _

theorem orFlags_zero (l : List Nat) : orFlags (l.map (fun _ => 0)) = 0 := by
  unfold orFlags
  induction l with
  | nil => rfl
  | cons a l ih => simpa using ih

/-- Raising no flag before a register is written is writing the register. -/
theorem putP_raise_zero (s : State) (p : PReg) (w : Word) : putP (raise s 0) p w = putP s p w := by
  have hs : ({ s with issue := { s.issue with flags := s.issue.flags ||| 0 } } : State) = s := by simp
  rw [raise, hs, putP, setRegs_setRegs]
  have hf : (fun r : Regs => ({ r with fflags := r.fflags ||| 0 } : Regs).wrP p w) = fun r => r.wrP p w := by
    funext r
    simp
  rw [hf, putP]

/-! R476, R481, R490, R500: the unary members, VFMA and VCMP. -/

/-- R481: a mask bit by bit. -/
theorem getLsbD_maskOf (f : Nat → Bool) {i : Nat} (hi : i < 64) : (maskOf f).getLsbD i = f i := by
  have h (n : Nat) (hn : n ≤ 64) : ((List.range n).foldl (fun m i => if f i then m ||| (1#64 <<< i) else m) 0#64).getLsbD i =
      (decide (i < n) && f i) := by
    induction n with
    | zero => simp
    | succ n ih =>
      rw [List.range_succ, List.foldl_append, List.foldl_cons, List.foldl_nil]
      have hone : (1#64 <<< n).getLsbD i = decide (i = n) := by
        rw [BitVec.getLsbD_shiftLeft, BitVec.getLsbD_one, Bool.eq_iff_iff]
        simp only [Bool.and_eq_true, Bool.not_eq_true', decide_eq_true_eq, decide_eq_false_iff_not]
        omega
      rw [show decide (i < n + 1) = (decide (i < n) || decide (i = n)) by rw [← Bool.decide_or]; exact decide_eq_decide.2 (by omega)]
      split_ifs with hf
      · rw [BitVec.getLsbD_or, ih (by omega), hone]
        by_cases hin : i = n
        · simp [hin, hf]
        · simp [hin]
      · rw [ih (by omega)]
        by_cases hin : i = n
        · simp [hin, hf]
        · simp [hin]
  have h64 := h 64 le_rfl
  rw [decide_eq_true hi, Bool.true_and] at h64
  exact h64

theorem vcmp_bits (s : State) (g p : PReg) (f : Nat → Bool) {i : Nat} (hi : i < 64) :
    ((rdP s p &&& ~~~(rdP s g)) ||| (maskOf f &&& rdP s g)).getLsbD i = if (rdP s g).getLsbD i then f i else (rdP s p).getLsbD i := by
  rw [BitVec.getLsbD_or, BitVec.getLsbD_and, BitVec.getLsbD_and, BitVec.getLsbD_not, getLsbD_maskOf f hi]
  cases (rdP s g).getLsbD i <;> simp [hi]

theorem ofInt_natAbs (ty : Ty) (x : BitVec ty.bits) :
    BitVec.ofInt ty.bits (valueOf ty x).natAbs = if ty.signed && x.msb then -x else x := by
  cases h : ty.signed
  · rw [valueOf_of_unsigned h]
    simp
  · rw [valueOf_of_signed h, Bool.true_and, BitVec.msb_eq_toInt]
    by_cases hn : x.toInt < 0
    · rw [if_pos (decide_eq_true hn), Int.ofNat_natAbs_of_nonpos hn.le, BitVec.ofInt_neg, BitVec.ofInt_toInt]
    · rw [if_neg (by simpa using hn), Int.natAbs_of_nonneg (not_lt.1 hn), BitVec.ofInt_toInt]

theorem ofInt_neg_valueOf (ty : Ty) (x : BitVec ty.bits) : BitVec.ofInt ty.bits (-valueOf ty x) = -x := by
  rw [BitVec.ofInt_neg, ofInt_valueOf]

theorem top_of_float {ty : Ty} (h : tyIn 0x1C00 ty.code = true) : (tyFmt ty).top = ty.bits - 1 := by
  revert h
  cases ty <;> decide

theorem floatAbs_eq (f : Fmt) (x : Nat) : floatAbs f x = if f.value x = .nan then f.nan else x % 2 ^ f.top := by
  unfold floatAbs
  cases f.value x <;> simp

theorem xor_two_pow {n x : Nat} (h : x < 2 ^ n) : x ^^^ 2 ^ n = x + 2 ^ n := by
  refine Nat.eq_of_testBit_eq fun i => ?_
  have ha := Nat.testBit_two_pow_mul_add 1 h i
  rw [mul_one, Nat.add_comm] at ha
  rw [ha, Nat.testBit_xor, Nat.testBit_two_pow]
  rcases lt_trichotomy i n with hi | rfl | hi
  · simp [hi, hi.ne']
  · simp [Nat.testBit_lt_two_pow h]
  · have hz : x.testBit i = false := Nat.testBit_lt_two_pow (h.trans (Nat.pow_lt_pow_right one_lt_two hi))
    have ho : Nat.testBit 1 (i - n) = false := Nat.testBit_lt_two_pow (Nat.one_lt_two_pow (by omega))
    simp [hz, ho, hi.ne, not_lt.2 hi.le]

/-- R500: inverting the top bit adds it, modulo the width. -/
theorem floatNeg_eq (f : Fmt) {x : Nat} (h : x < 2 ^ (f.top + 1)) :
    floatNeg f x = if f.value x = .nan then f.nan else (x + 2 ^ f.top) % 2 ^ (f.top + 1) := by
  have hx : x ^^^ 2 ^ f.top = (x + 2 ^ f.top) % 2 ^ (f.top + 1) := by
    rw [pow_succ] at h ⊢
    by_cases hl : x < 2 ^ f.top
    · rw [xor_two_pow hl, Nat.mod_eq_of_lt (by omega)]
    · obtain ⟨y, rfl⟩ := Nat.exists_eq_add_of_le' (not_lt.1 hl)
      rw [← xor_two_pow (n := f.top) (x := y) (by omega), Nat.xor_xor_cancel_right, xor_two_pow (by omega), Nat.add_assoc, ← mul_two,
        Nat.add_mod_right, Nat.mod_eq_of_lt (by omega)]
  unfold floatNeg
  cases f.value x <;> simp [hx]

/-- Settles O20: the lanes of each unary member, of VFMA, and the bits of VCMP, on integers and on floats. -/
theorem vectorUnaryAndCompare : Obligations.VectorUnaryAndCompare := by
  unfold Obligations.VectorUnaryAndCompare
  refine ⟨fun s th g ty d a hr hi hb => ⟨?_, ?_⟩, fun s th g ty rm d a b c hr hi hb => ?_, fun s th g ty d a b hr hty => ⟨?_, ?_, ?_, ?_, ?_, fun c p => ?_⟩,
    fun s th g p ty c a b hr hi hb => ?_⟩
  · refine lanesOf_runs hr ?_
    show execVabs g ty d a s = _
    simp only [execVabs, laneUnary, hi, if_true, intLane, readInt_lane, laneOf_intBits, fAbsI, ofInt_natAbs, Bool.or_self]
  · refine lanesOf_runs hr ?_
    show execVneg g ty d a s = _
    simp only [execVneg, laneUnary, hi, if_true, intLane, readInt_lane, laneOf_intBits, fNegI, ofInt_neg_valueOf, Bool.or_self]
  · refine lanesOf_runs hr ?_
    show execVfma g ty rm d a b c s = _
    simp only [execVfma, hi, if_true, readInt_lane, laneOf_intBits, BitVec.ofInt_add, BitVec.ofInt_mul, ofInt_valueOf]
  · exact lanesOf_runs hr (if_neg (by simp [isInt_of_float hty]))
  · exact lanesOf_runs hr (if_neg (by simp [isInt_of_float hty]))
  · exact lanesOf_runs hr rfl
  · refine lanesOf_runs hr ?_
    show execVabs g ty d a s = _
    simp only [execVabs, laneUnary, isInt_of_float hty, Bool.false_eq_true, if_false, floatAbs_eq, top_of_float hty]
  · refine lanesOf_runs hr ?_
    show execVneg g ty d a s = _
    have ht : (tyFmt ty).top + 1 = ty.bits := by rw [top_of_float hty, Nat.sub_add_cancel (Nat.pos_of_ne_zero (bits_ne_zero ty))]
    have hx (i : Nat) : laneBits ty ((rdV s a).lane i) < 2 ^ ((tyFmt ty).top + 1) := by
      rw [ht]
      exact Nat.mod_lt _ (by positivity)
    simp only [execVneg, laneUnary, isInt_of_float hty, Bool.false_eq_true, if_false, floatNeg_eq _ (hx _),
      top_of_float hty, Nat.sub_add_cancel (Nat.pos_of_ne_zero (bits_ne_zero ty))]
  · refine ⟨_, _, ?_, rfl, fun i hi => vcmp_bits s g p (fun i => (fCmp (tyFmt ty) c (laneBits ty ((rdV s a).lane i)) (laneBits ty ((rdV s b).lane i))).1) hi⟩
    show execVcmp g ty c p a b s = _
    rw [execVcmp, vectorSyllable_runs hr]
    simp only [laneCond, isInt_of_float hty, Bool.false_eq_true, if_false, wrP, putP]
  · refine ⟨_, ?_, fun i hi => vcmp_bits s g p (fun i => intCond c (valueOf ty (((rdV s a).lane i).val.setWidth ty.bits))
      (valueOf ty (((rdV s b).lane i).val.setWidth ty.bits))) hi⟩
    show execVcmp g ty c p a b s = _
    rw [execVcmp, vectorSyllable_runs hr]
    simp only [laneCond, hi, if_true, readInt_lane, orFlags_zero]
    rw [← putP_raise_zero]
    rfl

end Sys2Proof.Machine

namespace Sys2Proof.Machine

/-! R174, R477, R482, R489, R497, R500, R503, R514: moving lanes. -/

/-- R174: the low bits of a 32-bit lane, extended again. -/
theorem laneOf_laneBits (ty : Ty) (l : Lane) (p : Bool) : laneOf ty (laneBits ty l) p = ⟨widenLane ty (l.val.setWidth ty.bits), p⟩ := by
  rw [laneOf, laneBits, ← BitVec.toNat_setWidth, ofNat_extend_lane]

theorem laneOf_lowBits (ty : Ty) (x : SVal) (p : Bool) : laneOf ty (lowBits ty x) p = ⟨widenLane ty (narrow ty x.val), p⟩ := by
  rw [laneOf, lowBits, ← BitVec.toNat_setWidth, ofNat_extend_lane, narrow]

/-- Settles O22: each syllable writes the lanes, or the one register, that its definition names; widths are carried over to patterns. -/
theorem vectorMoves : Obligations.VectorMoves := by
  unfold Obligations.VectorMoves
  intro s th g q ty d a b x y z hr
  refine ⟨lanesOf_runs hr rfl, lanesOf_runs hr rfl, lanesOf_runs hr rfl, fun hb => ⟨?_, ?_, ?_, fun hj => ⟨?_, ?_⟩, fun hj => ⟨?_, ?_⟩⟩⟩
  · refine lanesOf_runs hr ?_
    show execVmov g ty d a s = _
    simp only [execVmov, laneOf_laneBits]
  · refine lanesOf_runs hr ?_
    show execVbcast g ty d x s = _
    simp only [execVbcast, laneOf_lowBits]
  · refine lanesOf_runs hr ?_
    show execViota g ty d x s = _
    have hv (i : Nat) : ((rdS s x).val.toNat + i) % 2 ^ ty.bits = (narrow ty ((rdS s x).val + BitVec.ofNat 64 i)).toNat := by
      rw [narrow, BitVec.toNat_setWidth, BitVec.toNat_add, BitVec.toNat_ofNat, Nat.add_mod_mod, Nat.mod_mod_of_dvd _ (pow_dvd_pow 2 (bits_le ty))]
    simp only [execViota, laneOf, hv, ofNat_extend_lane]
  · show execVext g ty z a y s = _
    rw [execVext, vectorSyllable_runs hr]
    simp only [hj, if_true]
    rw [laneBits, ← BitVec.toNat_setWidth, wrS, ofNat_extend, putS]
  · show execVins g ty d x y s = _
    rw [execVins, vectorSyllable_runs hr]
    simp only [hj, if_true, laneOf_lowBits, putV]
  · show execVext g ty z a y s = _
    rw [execVext, vectorSyllable_runs hr]
    simp only [hj, Bool.false_eq_true, if_false]
  · show execVins g ty d x y s = _
    rw [execVins, vectorSyllable_runs hr]
    simp only [hj, Bool.false_eq_true, if_false]

/-! R508, R509: VRED and VSCAN. -/

theorem mem_lanesOn {g : Word} {i : Nat} : i ∈ lanesOn g ↔ i < 64 ∧ g.getLsbD i = true := by simp [lanesOn]

theorem lanesOn_nodup (g : Word) : (lanesOn g).Nodup := List.nodup_range.filter _

theorem lanesOn_ne_nil {g : Word} (h : g ≠ 0) : lanesOn g ≠ [] := by
  intro hn
  refine h (BitVec.eq_of_getLsbD_eq fun i hi => ?_)
  have hm : i ∉ lanesOn g := by simp [hn]
  simpa [mem_lanesOn, hi] using hm

theorem length_setNth {α : Type} (a : α) (l : List α) (j : Nat) : (setNth a l j).length = l.length := by
  induction l generalizing j with
  | nil => rfl
  | cons b l ih => cases j <;> simp [setNth, ih]

theorem lane_setNth (a : Lane) (v : Vec) (i j : Nat) : Vec.lane (setNth a v j) i = if i = j ∧ j < v.length then a else v.lane i := by
  unfold Vec.lane
  induction v generalizing i j with
  | nil => simp [setNth]
  | cons b v ih =>
    cases j with
    | zero => cases i <;> simp [setNth, nth]
    | succ j => cases i <;> simp [setNth, nth, ih]

section
variable {α : Type} (k : α → Nat) (f : α → Lane)

theorem lane_foldl_setNth_of_not_mem (l : List α) (v : Vec) {i : Nat} (h : ∀ x ∈ l, k x ≠ i) :
    Vec.lane (l.foldl (fun v x => setNth (f x) v (k x)) v) i = v.lane i := by
  induction l generalizing v with
  | nil => rfl
  | cons x l ih =>
    rw [List.foldl_cons, ih _ (fun y hy => h y (List.mem_cons_of_mem _ hy)), lane_setNth,
      if_neg (fun e => h x List.mem_cons_self e.1.symm)]

/-- Lanes written one after another, no lane twice: each holds what was written to it. -/
theorem lane_foldl_setNth_of_mem {l : List α} (hn : (l.map k).Nodup) (v : Vec) {x : α} (hx : x ∈ l) (hv : k x < v.length) :
    Vec.lane (l.foldl (fun v x => setNth (f x) v (k x)) v) (k x) = f x := by
  induction l generalizing v with
  | nil => simp at hx
  | cons y l ih =>
    obtain ⟨hy, hl⟩ := List.nodup_cons.1 hn
    rcases List.mem_cons.1 hx with rfl | hx
    · rw [List.foldl_cons, lane_foldl_setNth_of_not_mem k f _ _ fun z hz e => hy (by rw [← e]; exact List.mem_map_of_mem hz), lane_setNth,
        if_pos ⟨rfl, hv⟩]
    · exact ih hl _ hx (by rwa [length_setNth])

end

section
variable (ty : Ty) (op : Red) (m : Mode) (e : BitVec 1024) (v : Vec)

/-- R509: the entry of a reduction after one of lane x: lane j combined with the value and the poison so far. -/
def redNext (x : Nat × Nat × Bool × Flags) (j : Nat) : Nat × Nat × Bool × Flags :=
  let r := redStep ty op m (rngLane e j) x.2.1 (laneBits ty (v.lane j))
  (j, canonNan ty r.bits, x.2.2.1 || (v.lane j).poison, r.flags)

/-- R509: a reduction goes on from its first lane's entry. -/
theorem redRun_cons (i : Nat) (l : List Nat) (acc : Option (Nat × Bool)) :
    ∃ y, redRun ty op m e v (i :: l) acc = y :: redRun ty op m e v l (some (y.2.1, y.2.2.1)) ∧ y.1 = i := by
  cases acc with
  | none => exact ⟨_, rfl, rfl⟩
  | some a => exact ⟨_, rfl, rfl⟩

theorem redRun_lanes (l : List Nat) (acc : Option (Nat × Bool)) : (redRun ty op m e v l acc).map (fun x => x.1) = l := by
  induction l generalizing acc with
  | nil => rfl
  | cons i l ih =>
    obtain ⟨y, hy, rfl⟩ := redRun_cons ty op m e v i l acc
    rw [hy, List.map_cons, ih]

/-- R509: each further entry follows from the one before it. -/
theorem redRun_succ {l : List Nat} {acc : Option (Nat × Bool)} {n j : Nat} {x : Nat × Nat × Bool × Flags}
    (hx : (redRun ty op m e v l acc)[n]? = some x) (hj : l[n + 1]? = some j) :
    (redRun ty op m e v l acc)[n + 1]? = some (redNext ty op m e v x j) := by
  induction l generalizing acc n with
  | nil => simp at hj
  | cons i l ih =>
    obtain ⟨y, hy, -⟩ := redRun_cons ty op m e v i l acc
    rw [hy] at hx ⊢
    rw [List.getElem?_cons_succ] at hj ⊢
    cases n with
    | zero =>
      obtain rfl : y = x := by simpa using hx
      cases l with
      | nil => simp at hj
      | cons k l =>
        obtain rfl : k = j := by simpa using hj
        rfl
    | succ n => exact ih (by simpa using hx) hj

end

/-- R509: a reduction begins with its first lane, canonicalised. -/
theorem redRun_head (ty : Ty) (op : Red) (m : Mode) (e : BitVec 1024) (v : Vec) {l : List Nat} {i : Nat} (h : l[0]? = some i) :
    (redRun ty op m e v l none)[0]? = some (i, canonNan ty (laneBits ty (v.lane i)), (v.lane i).poison, 0) := by
  cases l with
  | nil => simp at h
  | cons k l =>
    obtain rfl : k = i := by simpa using h
    rfl

/-- Settles O23: the entries of the run follow from one another, one for each enabled lane, and each is written to its own lane. -/
theorem vectorReduce : Obligations.VectorReduce := by
  unfold Obligations.VectorReduce
  intro s th g ty op rm d v a hr m e on l u last
  have hl : l.map (fun x => x.1) = on := redRun_lanes ..
  have hon : on ≠ [] := lanesOn_ne_nil hr.guard
  have hne : l ≠ [] := fun h => hon (by rw [← hl, h]; rfl)
  have hnd : (l.map (fun x => x.1)).Nodup := by rw [hl]; exact lanesOn_nodup _
  have hlast : l.getLast? = some last := by
    simp only [last, List.getLast?_eq_some_getLast hne, Option.getD_some]
  refine ⟨?_, ⟨l.foldl (fun q x => setNth (laneOf ty x.2.1 x.2.2.1) q x.1) (rdV s v), ?_, fun x hx hlt => ?_,
    fun i hi => ?_⟩, hl, hne, fun i hi => redRun_head ty op m e.2 (rdV s a) hi, fun n x j hx hj => redRun_succ ty op m e.2 (rdV s a) hx hj⟩
  · show execVred g ty op rm d a s = _
    rw [execVred, vectorSyllable_runs hr]
    show Host.Outcome.next (match l.getLast? with
      | none => e.1
      | some r => wrS u d (extend ty 64 r.2.1) r.2.2.1) = _
    rw [hlast]
    rfl
  · show execVscan g ty op rm v a s = _
    rw [execVscan, vectorSyllable_runs hr]
    rfl
  · exact lane_foldl_setNth_of_mem (fun x : Nat × Nat × Bool × Flags => x.1) (fun x => laneOf ty x.2.1 x.2.2.1) hnd _ hx hlt
  · refine lane_foldl_setNth_of_not_mem (fun x : Nat × Nat × Bool × Flags => x.1) (fun x => laneOf ty x.2.1 x.2.2.1) _ _ fun x hx e => ?_
    have hm : x.1 ∈ on := by rw [← hl]; exact List.mem_map_of_mem hx
    rw [e, mem_lanesOn, hi] at hm
    exact Bool.false_ne_true hm.2

end Sys2Proof.Machine

namespace Sys2Proof.Machine

/-! R260, R261: finding errors leaves the bundle that is open as it is. -/

@[simp] theorem countError_issue (s : State) (t : Nat) : (countError s t).issue = s.issue := by
  simp only [countError]
  split_ifs <;> rfl

@[simp] theorem foundLine_issue (s : State) (pa : Nat) : (foundLine s pa).issue = s.issue := by
  simp only [foundLine]
  split_ifs <;> simp

/-- A fold of steps that leave a part of the state as it is leaves it. -/
theorem foldl_keeps {α β : Type} (p : State → α) (f : State → β → State) (hf : ∀ s b, p (f s b) = p s) (l : List β) (s : State) :
    p (l.foldl f s) = p s := by
  induction l generalizing s with
  | nil => rfl
  | cons b l ih => rw [List.foldl_cons, ih, hf]

@[simp] theorem discover_issue (s : State) (pa n : Nat) : (discover s pa n).issue = s.issue := by
  refine foldl_keeps State.issue _ (fun s x => ?_) _ _
  obtain ⟨_, k | _ | _ | _⟩ := x
  case line => dsimp only; split_ifs <;> simp
  all_goals rfl

/-! R478, R483, R484, R502, R504 to R506, R518: the converting vector syllables. -/

theorem draws_eq (ty src : Ty) (m : Mode) : (if cvtDraws ty src then m else Mode.rne) = if ty.isInt && src.isInt then Mode.rne else m := by
  unfold cvtDraws
  cases ty.isInt && src.isInt <;> rfl

/-- Fields of b bits placed one above another, each cut to it. -/
def packFields (b : Nat) (f : Nat → Nat) (n : Nat) : Nat := (upTo n).foldl (fun w j => w + f j % 2 ^ b * 2 ^ (b * j)) 0

theorem packFields_succ (b : Nat) (f : Nat → Nat) (n : Nat) :
    packFields b f (n + 1) = packFields b f n + f n % 2 ^ b * 2 ^ (b * n) := by
  simp only [packFields, upTo, List.range_succ, List.foldl_append, List.foldl_cons, List.foldl_nil]

theorem packFields_lt (b : Nat) (f : Nat → Nat) (n : Nat) : packFields b f n < 2 ^ (b * n) := by
  induction n with
  | zero => simp [packFields, upTo]
  | succ n ih =>
    have hx : f n % 2 ^ b + 1 ≤ 2 ^ b := Nat.mod_lt _ (by positivity)
    calc packFields b f (n + 1) = packFields b f n + f n % 2 ^ b * 2 ^ (b * n) := packFields_succ b f n
      _ < (f n % 2 ^ b + 1) * 2 ^ (b * n) := by rw [Nat.add_mul, Nat.one_mul, Nat.add_comm]; exact Nat.add_lt_add_left ih _
      _ ≤ 2 ^ b * 2 ^ (b * n) := Nat.mul_le_mul_right _ hx
      _ = 2 ^ (b * (n + 1)) := by rw [← pow_add]; congr 1; ring

theorem packFields_field (b : Nat) (f : Nat → Nat) {n j : Nat} (hj : j < n) :
    packFields b f n / 2 ^ (b * j) % 2 ^ b = f j % 2 ^ b := by
  induction n with
  | zero => omega
  | succ n ih =>
    rw [packFields_succ]
    rcases Nat.lt_succ_iff_lt_or_eq.1 hj with h | rfl
    · obtain ⟨k, rfl⟩ := Nat.exists_eq_add_of_lt h
      have he : f (j + k + 1) % 2 ^ b * 2 ^ (b * (j + k + 1)) = 2 ^ (b * j) * (2 ^ b * (f (j + k + 1) % 2 ^ b * 2 ^ (b * k))) := by
        rw [show b * (j + k + 1) = b * j + b + b * k by ring, pow_add, pow_add]
        ring
      rw [he, Nat.add_mul_div_left _ _ (by positivity), Nat.add_mul_mod_self_left, ih h]
    · rw [Nat.add_mul_div_right _ _ (by positivity), Nat.div_eq_of_lt (packFields_lt b f j), Nat.zero_add, Nat.mod_mod]

/-- The fields of a lane read back. -/
theorem toNat_packFields {b n : Nat} (h : b * n ≤ 32) (f : Nat → Nat) {j : Nat} (hj : j < n) :
    (BitVec.ofNat 32 (packFields b f n)).toNat / 2 ^ (b * j) % 2 ^ b = f j % 2 ^ b := by
  rw [BitVec.toNat_ofNat, Nat.mod_eq_of_lt ((packFields_lt b f n).trans_le (Nat.pow_le_pow_right two_pos h)), packFields_field b f hj]

theorem lanesOf_vunpk {s : State} {th : Thread} {g : PReg} (hr : RunsV s th g) (ty src : Ty) (hi : Bool) (d a : VReg) :
    let n := 32 / src.bits
    let k (i : Nat) := (if hi then 64 else 0) + i
    let x (i : Nat) := ((rdV s a).lane (k i / n)).val.toNat / 2 ^ (src.bits * (k i % n)) % 2 ^ src.bits
    LanesOf s g d (.vunpk g ty src hi d a) (fun i => ⟨BitVec.ofNat 32 (if src.isInt then extend src 32 (x i)
       else (convert ty src .rne 0 false false (x i)).bits), ((rdV s a).lane (k i / n)).poison⟩) := by
  refine lanesOf_runs hr ?_
  show execVunpk g ty src hi d a s = _
  unfold execVunpk
  cases src.isInt <;> rfl

section
variable {s : State} {th : Thread} {g : PReg}

theorem vcvt_runs (hr : RunsV s th g) (ty src : Ty) (rm : Rm) (fin sat : Bool) (d a : VReg) {w : Mode}
    (hw : (if cvtDraws ty src then modeOf s rm else .rne) = w) :
    let r (i : Nat) := convert ty src (modeOf s rm) (rngLane (draw s w).2 i) fin sat (laneBits src ((rdV s a).lane i))
    ∃ t v, exec (.vcvt g ty src rm fin sat d a) s = .next t ∧
      Rounded s w (orFlags ((lanesOn (rdP s g)).map (fun i => (r i).flags))) (fun q => q.wrV d v) t ∧
      LanesAre (rdP s g) (rdV s d) (fun i => ⟨BitVec.ofNat 32 (extend ty 32 (r i).bits), ((rdV s a).lane i).poison || (r i).poison⟩) v := by
  intro r
  obtain ⟨v, hv, hl⟩ := wrLanes_rounded s w g d (fun i => (laneOf ty (r i).bits (((rdV s a).lane i).poison || (r i).poison), (r i).flags))
  refine ⟨_, v, ?_, hv, hl⟩
  show execVcvt g ty src rm fin sat d a s = _
  rw [execVcvt, vectorSyllable_runs hr]
  dsimp only
  rw [hw]

theorem vdqnt_runs (hr : RunsV s th g) (ty : Ty) (d a b : VReg) :
    let r (i : Nat) := dequantise ty ((rdV s b).lane (i / 32)).val.toNat (laneBits ty ((rdV s a).lane i))
    ∃ v, exec (.vdqnt g ty d a b) s = .next (setRegs (raise s (orFlags ((lanesOn (rdP s g)).map (fun i => (r i).flags)))) (fun q => q.wrV d v)) ∧
      LanesAre (rdP s g) (rdV s d) (fun i => ⟨BitVec.ofNat 32 ((r i).bits % 2 ^ 32),
        ((rdV s a).lane i).poison || ((rdV s b).lane (i / 32)).poison || (r i).poison⟩) v := by
  intro r
  refine ⟨_, ?_, lanesAre_laneWise _ _ _⟩
  show execVdqnt g ty d a b s = _
  rw [execVdqnt, vectorSyllable_runs hr, wrLanes, wrV, rdP_raise, rdV_raise]
  rfl

/-- R502: the packed lanes, element by element. -/
theorem vpack_runs (hr : RunsV s th g) (ty src : Ty) (rm : Rm) (fin sat : Bool) (d a b : VReg) {w : Mode}
    (hw : (if cvtDraws ty src then modeOf s rm else .rne) = w) (hb : ty.bits = 8 ∨ ty.bits = 16) :
    let x (k : Nat) := if k < 64 then (rdV s a).lane k else (rdV s b).lane (k - 64)
    let r (k : Nat) := convert ty src (modeOf s rm) (packBits (draw s w).2 k) fin sat (laneBits src (x k))
    let n := 32 / ty.bits
    ∃ t v, exec (.vpack g ty src rm fin sat d a b) s = .next t ∧
      Rounded s w (orFlags ((List.range 128).map (fun k => (r k).flags))) (fun q => q.wrV d v) t ∧ v.length = 64 ∧
      (∀ i, i < 64 → (rdP s g).getLsbD i = false → v.lane i = (rdV s d).lane i) ∧
      (∀ i, i < 64 → (rdP s g).getLsbD i = true → 127 < n * i → v.lane i = Lane.zero) ∧
      (∀ i, i < 64 → (rdP s g).getLsbD i = true → n * i ≤ 127 →
        (∀ j, j < n → (v.lane i).val.toNat / 2 ^ (ty.bits * j) % 2 ^ ty.bits = (r (n * i + j)).bits % 2 ^ ty.bits) ∧
        ((v.lane i).poison = true ↔ ∃ j, j < n ∧ ((x (n * i + j)).poison || (r (n * i + j)).poison) = true)) := by
  intro x r n
  have hn : ty.bits = 8 ∧ n = 4 ∨ ty.bits = 16 ∧ n = 2 := by
    rcases hb with h | h <;> simp [n, h]
  have hr' {i j : Nat} (hi : n * i ≤ 127) (hj : j < n) : nth ⟨0, 0, false⟩ ((upTo 128).map r) (n * i + j) = r (n * i + j) := by
    refine nth_map_upTo _ r ?_
    rcases hn with ⟨-, h⟩ | ⟨-, h⟩ <;> rw [h] at hi hj ⊢ <;> omega
  obtain ⟨v, hv, hlen, hl⟩ := wrV_lanes (raise (draw s w).1 (orFlags (((upTo 128).map r).map (fun q => q.flags)))) g d (fun i =>
      if n * i ≤ 127 then
        ⟨BitVec.ofNat 32 ((upTo n).foldl (fun w j => w + (nth ⟨0, 0, false⟩ ((upTo 128).map r) (n * i + j)).bits % 2 ^ ty.bits * 2 ^ (ty.bits * j)) 0),
          (upTo n).any (fun j => (x (n * i + j)).poison || (nth ⟨0, 0, false⟩ ((upTo 128).map r) (n * i + j)).poison)⟩
      else Lane.zero)
  simp only [rdP_raise, rdP_draw, rdV_raise, rdV_draw] at hl
  refine ⟨putV (raise (draw s w).1 (orFlags (((upTo 128).map r).map (fun q => q.flags)))) d v, v, ?_, ?_, hlen, fun i hi hg => ?_, fun i hi hg h => ?_, fun i hi hg h => ?_⟩
  · show execVpack g ty src rm fin sat d a b s = _
    rw [execVpack, vectorSyllable_runs hr, ← hv]
    dsimp only
    rw [hw]
  · rw [List.map_map]
    rfl
  · rw [hl i hi, hg, if_neg (by simp)]
  · rw [hl i hi, hg, if_pos rfl, if_neg (by omega)]
  · rw [hl i hi, hg, if_pos rfl, if_pos h]
    refine ⟨fun j hj => ?_, ?_⟩
    · rw [← hr' h hj]
      exact toNat_packFields (by rcases hn with ⟨h, h'⟩ | ⟨h, h'⟩ <;> rw [h, h'])
        (fun j => (nth ⟨0, 0, false⟩ ((upTo 128).map r) (n * i + j)).bits) hj
    · rw [List.any_eq_true]
      constructor
      · rintro ⟨j, hj, hp⟩
        rw [mem_upTo] at hj
        rw [hr' h hj] at hp
        exact ⟨j, hj, hp⟩
      · rintro ⟨j, hj, hp⟩
        rw [← hr' h hj] at hp
        exact ⟨j, mem_upTo.2 hj, hp⟩

/-- R180: the lanes of VCBD, whether its entries are read from the default table or from the writable one. -/
theorem vcbd_runs (hr : RunsV s th g) (wt : Bool) (d a b : VReg) :
    let e (i : Nat) := (rdV s a).lane (((rdV s b).lane i).val.toNat / 8 % 64)
    let at_ (i : Nat) := entryPa s.tile ((e i).val.toNat % 65536 / 256)
    let ent (i : Nat) := if wt then readLe s (at_ i) 2 else defaultEntry ((e i).val.toNat % 65536 / 256)
    let held : Prop := readHeld s th = true ∨ ∃ i ∈ lanesOn (rdP s g), accessOver s th.uid (at_ i) 2 = true
    let u := if wt then (lanesOn (rdP s g)).foldl (fun s i => discover s (at_ i) 2) s else s
    (wt = true → held → exec (.vcbd g wt d a b) s = .next (waitFor s .cond)) ∧
    ((wt = true → ¬held) → ∃ v, exec (.vcbd g wt d a b) s = .next (putV u d v) ∧ LanesAre (rdP s g) (rdV s d)
       (fun i => ⟨BitVec.ofNat 32 (weightBits (weightHalves (ent i) ((e i).val.toNat % 65536)
         (((rdV s b).lane i).val.toNat % 8))), (e i).poison || ((rdV s b).lane i).poison || (wt && lineBad s (at_ i))⟩) v) := by
  intro e at_ ent held u
  have hheld : held ↔ (readHeld s th || (lanesOn (rdP s g)).any (fun i => accessOver s th.uid (at_ i) 2)) = true := by
    simp only [held, Bool.or_eq_true, List.any_eq_true]
  have hu : u.issue = s.issue := by
    simp only [u]
    split_ifs
    · exact foldl_keeps State.issue _ (fun s i => discover_issue s _ _) _ _
    · rfl
  have hx : exec (.vcbd g wt d a b) s = execVcbd g wt d a b s := rfl
  rw [hx, execVcbd, vectorSyllable_runs hr]
  refine ⟨fun hw hh => ?_, fun hh => ⟨_, congrArg Host.Outcome.next ((if_neg ?_).trans ?_), lanesAre_laneWise _ _ _⟩⟩
  · exact congrArg _ (if_pos (by simpa [hw] using hheld.1 hh))
  · intro h
    obtain ⟨hw, h'⟩ := Bool.and_eq_true_iff.1 h
    exact hh hw (hheld.2 h')
  · show wrV u g d _ = putV u d _
    simp only [wrV, rdP, rdV, hu]
    rfl

/-- R505: a vector with the scale of each of two blocks that is not empty. -/
def scaleLanes (empty : Nat → Bool) (x : Nat → Lane) (v : Vec) : Vec :=
  (upTo 2).foldl (fun v b => if empty b then v else setNth (x b) v b) v

theorem scaleLanes_eq (empty : Nat → Bool) (x : Nat → Lane) (v : Vec) :
    scaleLanes empty x v = (let v := if empty 0 then v else setNth (x 0) v 0; if empty 1 then v else setNth (x 1) v 1) := rfl

theorem lane_scaleLanes_scale (empty : Nat → Bool) (x : Nat → Lane) {v : Vec} {j : Nat} (hj : j < 2) (hv : j < v.length) :
    Vec.lane (scaleLanes empty x v) j = if empty j then v.lane j else x j := by
  rw [scaleLanes_eq]
  interval_cases j
  · cases empty 0 <;> cases empty 1 <;> simp [lane_setNth, hv]
  · cases empty 0 <;> cases empty 1 <;> simp [lane_setNth, length_setNth, hv]

theorem lane_scaleLanes_rest (empty : Nat → Bool) (x : Nat → Lane) (v : Vec) {i : Nat} (hi : 2 ≤ i) :
    Vec.lane (scaleLanes empty x v) i = v.lane i := by
  have h0 : i ≠ 0 := by omega
  have h1 : i ≠ 1 := by omega
  rw [scaleLanes_eq]
  cases empty 0 <;> cases empty 1 <;> simp [lane_setNth, h0, h1]

/-- R504 to R506: the elements and the two scales of VQNT. -/
theorem vqnt_runs (hr : RunsV s th g) (ty : Ty) (rm : Rm) (fin sat : Bool) (d c a : VReg) :
    let m := modeOf s rm
    let on := lanesOn (rdP s g)
    let la (i : Nat) := (rdV s a).lane i
    let blk (j : Nat) := on.filter (fun i => i / 32 == j)
    let sc (j : Nat) := blockScale ty ((blk j).map (fun i => (la i).val.toNat))
    let bad (j : Nat) := (blk j).any (fun i => (la i).poison || (fin && (finiteMag (la i).val.toNat).isNone))
    let r (i : Nat) := quantise ty m (rngLane (draw s m).2 i) fin sat (sc (i / 32)) (la i).val.toNat
    ∃ t v z, exec (.vqnt g ty rm fin sat d c a) s = .next t ∧
      Rounded s m (orFlags (on.map (fun i => (r i).flags))) (fun q => (q.wrV d v).wrV c z) t ∧
      LanesAre (rdP s g) (rdV s d) (fun i => ⟨BitVec.ofNat 32 (extend ty 32 (r i).bits), bad (i / 32)⟩) v ∧
      (∀ j, j < 2 → j < (rdV s c).length → z.lane j = if (blk j).isEmpty then (rdV s c).lane j else ⟨BitVec.ofNat 32 (sc j), bad j⟩) ∧
      ∀ i, 2 ≤ i → z.lane i = (rdV s c).lane i := by
  intro m on la blk sc bad r
  obtain ⟨v, hv, hl⟩ := wrLanes_rounded s m g d (fun i => (laneOf ty (r i).bits (bad (i / 32)), (r i).flags))
  refine ⟨setRegs (wrLanes (draw s m).1 g d (fun i => (laneOf ty (r i).bits (bad (i / 32)), (r i).flags))) (fun q => q.wrV c
    (scaleLanes (fun b => (blk b).isEmpty) (fun b => ⟨BitVec.ofNat 32 (sc b), bad b⟩) (rdV s c))), v,
    scaleLanes (fun b => (blk b).isEmpty) (fun b => ⟨BitVec.ofNat 32 (sc b), bad b⟩) (rdV s c), ?_, ?_, hl,
    fun j hj hlt => lane_scaleLanes_scale _ _ hj hlt, fun i hi => lane_scaleLanes_rest _ _ _ hi⟩
  · show execVqnt g ty rm fin sat d c a s = _
    rw [execVqnt, vectorSyllable_runs hr]
    rfl
  · rw [Rounded] at hv ⊢
    rw [hv, setRegs_setRegs]

end

/-- Settles O24: one lemma for each syllable. -/
theorem vectorConversions : Obligations.VectorConversions := by
  unfold Obligations.VectorConversions
  intro s th g ty src rm fin sat hi d c a b hr m la lb on w
  have hw : (if cvtDraws ty src then modeOf s rm else .rne) = w := draws_eq ty src (modeOf s rm)
  exact ⟨vcvt_runs hr ty src rm fin sat d a hw, vdqnt_runs hr ty d a b, vpack_runs hr ty src rm fin sat d a b hw,
    lanesOf_vunpk hr ty src hi d a, fun wt => vcbd_runs hr wt d a b, fun _ => vqnt_runs hr ty rm fin sat d c a⟩

end Sys2Proof.Machine

namespace Sys2Proof.Machine

/-! Guards. -/

theorem exec_pref (g : PReg) (a b : SReg) (off : Off) (s : State) : exec (.pref g a b off) s = syllable s g (fun _ => s) := by
  show onThread s (fun _ => s) = onThread s (fun _ => if guardOn s g then s else s)
  simp only [ite_self]

theorem laneRound_vectorSyllable (fi : Ty → Int → Int → Int) (ff : Fmt → Mode → Nat → Nat → Nat → RRes) (g : PReg) (ty : Ty) (rm : Rm)
    (d a b : VReg) (s : State) : ∃ f, laneRound fi ff g ty rm d a b s = vectorSyllable s g f := by
  unfold laneRound
  split <;> exact ⟨_, rfl⟩

theorem lanePick_vectorSyllable (mx : Bool) (g : PReg) (ty : Ty) (d a b : VReg) (s : State) :
    ∃ f, lanePick mx g ty d a b s = vectorSyllable s g f := by
  unfold lanePick
  split <;> exact ⟨_, rfl⟩

theorem exec_syllable {i : Instr} {e : Syl} (h : encodeSyl i = some e) (hb : byLanes i = false) (s : State) :
    ∃ f, exec i s = syllable s e.g f := by
  cases i <;> cases h <;> cases hb
  case pref.refl.refl g a b off => exact ⟨_, exec_pref g a b off s⟩
  all_goals exact ⟨_, rfl⟩

theorem exec_vectorSyllable {i : Instr} {e : Syl} (h : encodeSyl i = some e) (hb : byLanes i = true) (s : State) :
    ∃ f, exec i s = vectorSyllable s e.g f := by
  cases i <;> cases h <;> cases hb
  case vadd.refl.refl => exact laneRound_vectorSyllable ..
  case vsub.refl.refl => exact laneRound_vectorSyllable ..
  case vmul.refl.refl => exact laneRound_vectorSyllable ..
  case vmin.refl.refl => exact lanePick_vectorSyllable ..
  case vmax.refl.refl => exact lanePick_vectorSyllable ..
  all_goals exact ⟨_, rfl⟩

/-- A syllable is run for the thread of its bundle, and it faults where there is none. -/
theorem exec_onThread {i : Instr} {e : Syl} (h : encodeSyl i = some e) (s : State) : ∃ f, exec i s = onThread s f := by
  cases hb : byLanes i
  case true =>
    obtain ⟨f, hf⟩ := exec_vectorSyllable h hb s
    exact ⟨_, hf⟩
  case false =>
    obtain ⟨f, hf⟩ := exec_syllable h hb s
    exact ⟨_, hf⟩

/-- Settles O15: every syllable is guarded by the guard that its encoding names, by lanes or by bit 0, and a guarded one whose guard is
false leaves the state as it is. -/
theorem falseGuardDoesNothing : Obligations.FalseGuardDoesNothing := by
  intro i e s th he hth hv hs
  cases hb : byLanes i
  case true =>
    obtain ⟨f, hf⟩ := exec_vectorSyllable he hb s
    rw [hf, vectorSyllable_skips hth (hv hb)]
  case false =>
    obtain ⟨f, hf⟩ := exec_syllable he hb s
    rw [hf, syllable_skips hth (hs hb)]

end Sys2Proof.Machine

namespace Sys2Proof.Machine

/-! No step refuses. -/

/-- What a step may come to: a state, or the fault of a syllable without a thread. -/
def Ends (r : Result) : Prop := (∃ t, r = .next t) ∨ r = .fault .noThread

theorem ends_next (t : State) : Ends (.next t) := .inl ⟨t, rfl⟩

theorem ends_onThread (s : State) (f : Thread → State) : Ends (onThread s f) := by
  obtain ⟨th, _, h⟩ | ⟨_, h⟩ := onThread_cases s f
  · rw [h]; exact ends_next _
  · exact .inr h

/-- A step of the device that is no syllable always leaves a state. -/
theorem exec_event {i : Instr} (h : encodeSyl i = none) (s : State) : ∃ t, exec i s = .next t := by
  cases i <;> cases h
  case cufortResendTimeout.refl id =>
    show ∃ t, execCufortResendTimeout id s = .next t
    unfold execCufortResendTimeout
    split
    next => exact ⟨_, rfl⟩
    next =>
      dsimp only
      split_ifs <;> exact ⟨_, rfl⟩
  all_goals exact ⟨_, rfl⟩

theorem exec_ends (i : Instr) (s : State) : Ends (exec i s) := by
  cases h : encodeSyl i with
  | none => exact .inl (exec_event h s)
  | some e =>
    obtain ⟨f, hf⟩ := exec_onThread h s
    rw [hf]
    exact ends_onThread s f

theorem ends_closeIssue {r : Result} (h : Ends r) : Ends (closeIssue r) := by
  obtain ⟨t, rfl⟩ | rfl := h
  · exact ends_next _
  · exact .inr rfl

section
variable {run : Instr → State → Result} (hrun : ∀ i s, Ends (run i s))
include hrun

theorem ends_runAll (src : Regs) (l : List (Nat × Instr)) (s : State) : Ends (runAll run src l s) := by
  induction l generalizing s with
  | nil => exact ends_next s
  | cons e l ih =>
    unfold runAll
    obtain ⟨t, h⟩ | h := hrun e.2 { s with issue := { s.issue with src := src, idx := e.1, flow := .go } }
    · rw [runSyllable, h]; exact ih t
    · rw [runSyllable, h]; exact .inr rfl

theorem ends_runThrough {src : Regs} {l : List (Nat × Instr)} {s : State} {r : Result} (h : runThrough run src l s = some r) : Ends r := by
  induction l generalizing s with
  | nil => cases h; exact ends_next s
  | cons e l ih =>
    unfold runThrough at h
    obtain ⟨t, ht⟩ | ht := hrun e.2 { s with issue := { s.issue with src := src, idx := e.1, flow := .go } }
    · rw [runSyllable, ht] at h
      dsimp only at h
      split_ifs at h
      exact ih h
    · rw [runSyllable, ht] at h
      cases h
      exact .inr rfl

theorem ends_runOpened (s : State) (l : List (Nat × Instr)) : Ends (runOpened run s l) := by
  unfold runOpened
  dsimp only
  split
  next => exact hrun _ _
  next =>
    split
    next =>
      split_ifs
      · exact ends_runAll hrun _ _ _
      · exact hrun _ _
    next =>
      split_ifs
      · split
        next => exact ends_next _
        next r _ h => exact ends_runThrough hrun h
        next => exact ends_next _
      · exact ends_runAll hrun _ _ _

theorem ends_runBundle {r : Result} (h : Ends r) : Ends (runBundle run r) := by
  obtain ⟨t, rfl⟩ | rfl := h
  · unfold runBundle
    dsimp only
    split
    next => exact ends_next _
    next => exact ends_closeIssue (ends_runOpened hrun _ _)
  · exact .inr rfl

end

/-- Settles O6: an event of the device always leaves a state, a syllable does where its bundle has a thread and faults where it has none,
and a bundle runs through syllables alone. -/
theorem stepNeverRefuses : Obligations.StepNeverRefuses :=
  fun _ => ends_runBundle exec_ends (exec_ends _ _)

end Sys2Proof.Machine

namespace Sys2Proof.Machine

/-! Words of unassigned opcodes. -/

section
variable {op : BitVec 8} {g : PReg} {b : BitVec 48} {x : Option (BitVec 60)}

theorem decodeS_unassigned (h : ¬op.toNat ≤ 0x15) (h2 : ¬(0x20 ≤ op.toNat ∧ op.toNat ≤ 0x27)) (h3 : ¬(0x30 ≤ op.toNat ∧ op.toNat ≤ 0x36))
    (h4 : ¬(0x40 ≤ op.toNat ∧ op.toNat ≤ 0x4F)) : decodeS op g b x = .error .opcode := by
  unfold decodeS
  split
  all_goals try omega
  rfl

theorem decodeV_unassigned (h : ¬op.toNat ≤ 0x24) : decodeV op g b = .error .opcode := by
  unfold decodeV
  split
  all_goals try omega
  rfl

theorem decodeM_unassigned (h : ¬op.toNat ≤ 0x05) : decodeM op g b = .error .opcode := by
  unfold decodeM
  split
  all_goals try omega
  rfl

theorem decodeL_unassigned (h : ¬op.toNat ≤ 0x0A) (h2 : ¬(op.toNat = 0x10 ∨ op.toNat = 0x11)) : decodeL op g b x = .error .opcode := by
  unfold decodeL
  split
  all_goals try omega
  rfl

theorem decodeN_unassigned (h : ¬op.toNat ≤ 0x04) (h2 : ¬(0x08 ≤ op.toNat ∧ op.toNat ≤ 0x0B)) (h3 : ¬(0x10 ≤ op.toNat ∧ op.toNat ≤ 0x12)) :
    decodeN op g b = .error .opcode := by
  unfold decodeN
  split
  all_goals try omega
  rfl

theorem decodeC_unassigned (h : ¬op.toNat ≤ 0x08) (h2 : ¬(0x10 ≤ op.toNat ∧ op.toNat ≤ 0x1A)) : decodeC op g b = .error .opcode := by
  unfold decodeC
  split
  all_goals try omega
  rfl

end

/-- R148 to R153: the classes and opcodes that the opcode maps assign. -/
def assigned (cls op : Nat) : Bool :=
  match cls with
  | 0 => decide (op ≤ 0x15) || decide (0x20 ≤ op ∧ op ≤ 0x27) || decide (0x30 ≤ op ∧ op ≤ 0x36) || decide (0x40 ≤ op ∧ op ≤ 0x4F)
  | 1 => decide (op ≤ 0x24)
  | 2 => decide (op ≤ 0x05)
  | 3 => decide (op ≤ 0x0A) || decide (op = 0x10 ∨ op = 0x11)
  | 4 => decide (op ≤ 0x04) || decide (0x08 ≤ op ∧ op ≤ 0x0B) || decide (0x10 ≤ op ∧ op ≤ 0x12)
  | 5 => decide (op ≤ 0x08) || decide (0x10 ≤ op ∧ op ≤ 0x1A)
  | _ => false

theorem decodeSyl_unassigned (s : Syl) (h : assigned s.cls.toNat s.op.toNat = false) : ∃ r, decodeSyl s = .error r := by
  unfold decodeSyl
  split
  all_goals rename_i hc
  all_goals try rw [hc] at h
  all_goals simp only [assigned, Bool.or_eq_false_iff, decide_eq_false_iff_not] at h
  case h_1 => exact ⟨_, decodeS_unassigned h.1.1.1 h.1.1.2 h.1.2 h.2⟩
  case h_2 => exact ⟨_, decodeV_unassigned h⟩
  case h_3 => exact ⟨_, decodeM_unassigned h⟩
  case h_4 => exact ⟨_, decodeL_unassigned h.1 h.2⟩
  case h_5 => exact ⟨_, decodeN_unassigned h.1.1 h.1.2 h.2⟩
  case h_6 => exact ⟨_, decodeC_unassigned h.1 h.2⟩
  case h_7 => exact ⟨_, rfl⟩
  case h_8 => exact ⟨_, rfl⟩

theorem decodeWords_unassigned (w : BitVec 64) (h : assigned (w.extractLsb' 60 3).toNat (w.extractLsb' 52 8).toNat = false) :
    decodeWords [w] = none ∧ ∀ x, decodeWords [w, x] = none := by
  constructor
  · obtain ⟨r, hr⟩ := decodeSyl_unassigned (Syl.ofWord w none) h
    simp only [decodeWords, hr]
  · intro x
    obtain ⟨r, hr⟩ := decodeSyl_unassigned (Syl.ofWord w (some (x.extractLsb' 0 60))) h
    simp only [decodeWords, hr]
    split
    next h => cases h
    next => rfl

/-- The words of the spec's tables decode to their syllables. -/
theorem decodeWords_specWords :
    [[0x80001851C0050000], [0x80C01851C0050000], [0x8100184140200000], [0x814018500023C700], [0x83000C1080000000], [0x90200C10800C0000],
      [0xB090004000400000], [0xB1002841800106A0], [0xB0700C4080000400], [0xD10000000002A000], [0xD080000000000000], [0xD060000000000000],
      [0xA000304C00000100], [0xA05000A000DFF000], [0xC00028C340A00000], [0xC110000000400005], [0xC08035C1061EC000], [0xC0B0240240000000],
      [0xD000FFFFFFE00000], [0xD010000000500D00], [0x0110100123456000, 0xE00000ABCDEF0123]].map decodeWords =
    [some (.add 0 .i32 6 5 7), some (.sra 0 .i32 6 5 7), some (.sel 0 6 2 4 5), some (.bfx 0 .i64 6 5 60 8), some (.pand 0 3 1 2),
      some (.vmul 0 .f32 .dyn 3 1 2), some (.pref 0 4 0 ⟨0x400, none⟩), some (.amo 0 .add .u64 .wafer .rel 10 4 ⟨0x10, none⟩ 6),
      some (.binapp 0 .u32 3 4 2 ⟨0, none⟩), some (.trap 0 0x2A), some (.yieldC 0), some (.nop 0), some (.mma 0 .e4m3 .dyn 3 2 1 2),
      some (.mshape 0 5 6 0xFF8), some (.pub 0 .wafer true 5 12 13), some (.bar 0 5),
      some (.strm 0 .ob1 true true .wafer true true false .dyn .u8 7 3 4 3), some (.gset 0 2 .n3 9), some (.br 0 0xFFFFFFE),
      some (.brp 0 .all 3 5), some (.limm 0 4 ⟨0x123456, some 0xABCDEF0123⟩)] := by
  decide +kernel

/-- Settles O3: the words written out by evaluation, and the unassigned opcodes class by class. -/
theorem specWordsDecode : Obligations.SpecWordsDecode := by
  have h := decodeWords_specWords
  simp only [List.map_cons, List.map_nil, List.cons.injEq, and_true] at h
  obtain ⟨h1, h2, h3, h4, h5, h6, h7, h8, h9, h10, h11, h12, h13, h14, h15, h16, h17, h18, h19, h20, h21⟩ := h
  exact ⟨h1, h2, h3, h4, h5, h6, h7, h8, h9, h10, h11, h12, h13, h14, h15, h16, h17, h18, h19, h20, h21, decodeWords_unassigned⟩

/-! Reset, and memory that reads back. -/

/-- Settles O5: after reset no byte and no poison bit is listed. -/
theorem resetHasMemoryForm : Obligations.ResetHasMemoryForm := by
  unfold Obligations.ResetHasMemoryForm
  rfl

theorem linePoison_setLinePoison (s : State) (pa qa : Nat) (b : Bool) :
    linePoison (setLinePoison s pa b) qa = if qa / 64 = pa / 64 then b else linePoison s qa :=
  getD_setD ..

/-- Settles O32: the laws of maps, byte by byte. -/
theorem memoryReadsBack : Obligations.MemoryReadsBack := by
  refine ⟨readByte_writeByte, fun s pa n v => ?_, fun s pa n v qa h => readByte_writeLe_outside s pa n v qa h, linePoison_setLinePoison⟩
  rw [readLe_writeLe, Nat.pow_mul]

theorem msRaw_reset : [0x802, 0x803, 0x817, 0x820, 0x813, 0x811, 0x808].map (msRaw State.reset) =
    [0xFFF, 0, 0x0000001000000040, 0x800000, 0, 0, 0] := by
  decide +kernel

/-- Settles O60: the reset state and the registers of a firing thread are closed terms. -/
theorem resetValues : Obligations.ResetValues := by
  have h := msRaw_reset
  simp only [List.map_cons, List.map_nil, List.cons.injEq, and_true] at h
  obtain ⟨h1, h2, h3, h4, h5, h6, h7⟩ := h
  refine ⟨by decide +kernel, rfl, rfl, rfl, rfl, h1, h2, h3, h4, h5, h6, h7, fun prio tag inst a v p sh g => ?_⟩
  refine ⟨?_, ?_, ?_, ?_, ?_, rfl, rfl, rfl, rfl, rfl, rfl, rfl, rfl, rfl, rfl, rfl, rfl⟩
  · show (if a = 0 then SVal.zero else SVal.zero) = _
    rw [ite_self]; rfl
  · rfl
  · exact fun hp => if_neg hp
  · rfl
  · rfl

end Sys2Proof.Machine

namespace Sys2Proof.Machine

/-! The form of memory. -/

/-- A state has the bytes and the poison bits of another. -/
abbrev SameMemory (s t : State) : Prop := t.mem = s.mem ∧ t.poison = s.poison

/-- A state keeps the canonical form of another's bytes, and of its poison bits. -/
abbrev KeepsForm (s t : State) : Prop :=
  (Memory.wf s.mem = true → Memory.wf t.mem = true) ∧ (poisonWf s.poison = true → poisonWf t.poison = true)

theorem SameMemory.keepsForm {s t : State} (h : SameMemory s t) : KeepsForm s t :=
  ⟨fun w => h.1 ▸ w, fun w => h.2 ▸ w⟩

theorem keepsForm_foldl {β : Type} {f : State → β → State} (h : ∀ s x, KeepsForm s (f s x)) (l : List β) (s : State) :
    KeepsForm s (l.foldl f s) := by
  induction l generalizing s with
  | nil => exact ⟨id, id⟩
  | cons x l ih => exact ⟨fun w => (ih (f s x)).1 ((h s x).1 w), fun w => (ih (f s x)).2 ((h s x).2 w)⟩

theorem SameMemory.trans {s t u : State} (h : SameMemory s t) (h' : SameMemory t u) : SameMemory s u :=
  ⟨h'.1.trans h.1, h'.2.trans h.2⟩

theorem foldl_memory {β : Type} {f : State → β → State} (h : ∀ s x, SameMemory s (f s x)) (l : List β) (s : State) :
    SameMemory s (l.foldl f s) :=
  ⟨foldl_mem f (fun s x => (h s x).1) l s, foldl_poison f (fun s x => (h s x).2) l s⟩

/-! What leaves memory as it is. -/


@[simp] theorem msPut_memory (s : State) (n : Nat) (v : Word) : SameMemory s (msPut s n v) := ⟨rfl, rfl⟩
@[simp] theorem msWriteBits_memory (s : State) (n : Nat) (v mask : Word) : SameMemory s (msWriteBits s n v mask) := ⟨rfl, rfl⟩
@[simp] theorem msSetField_memory (s : State) (n lo w v : Nat) : SameMemory s (msSetField s n lo w v) := ⟨rfl, rfl⟩
@[simp] theorem assignPartner_memory (s : State) (o : Nat) : SameMemory s (assignPartner s o) := by
  unfold assignPartner
  dsimp only
  (repeat' split) <;> constructor <;> simp
@[simp] theorem assignPartners_memory (s : State) (bs : List Nat) : SameMemory s (assignPartners s bs) := by
  unfold assignPartners
  constructor <;> simp [foldl_mem, foldl_poison, apply_ite State.mem, apply_ite State.poison]
@[simp] theorem updCore_memory (s : State) (t : Nat) (f : Core → Core) : SameMemory s (updCore s t f) := ⟨rfl, rfl⟩
@[simp] theorem updThread_memory (s : State) (k : Nat) (f : Thread → Thread) : SameMemory s (updThread s k f) := by
  unfold updThread
  split <;> constructor <;> simp
@[simp] theorem setStatus_memory (s : State) (k : Nat) (st : Status) : SameMemory s (setStatus s k st) := by
  unfold setStatus
  constructor <;> simp
@[simp] theorem takeFree_memory (s : State) : SameMemory s (takeFree s).2 := ⟨rfl, rfl⟩
@[simp] theorem sendVector_memory (s : State) (port vec : Nat) : SameMemory s (sendVector s port vec) := ⟨rfl, rfl⟩
@[simp] theorem raiseVector_memory (s : State) (port vec : Nat) : SameMemory s (raiseVector s port vec) := by
  unfold raiseVector
  split_ifs <;> constructor <;> simp
@[simp] theorem updGraph_memory (s : State) (c : Nat) (f : Graph → Graph) : SameMemory s (updGraph s c f) := by
  unfold updGraph
  split <;> constructor <;> simp
@[simp] theorem freshCopy_memory (s : State) (t : Nat) (n : Name) : SameMemory s (freshCopy s t n) := ⟨rfl, rfl⟩
@[simp] theorem addAccess_memory (s : State) (a : Access) : SameMemory s (addAccess s a) := ⟨rfl, rfl⟩
@[simp] theorem flushPort_memory (uid : Nat) (w : Who) (psink : Bool) (s : State) (port : Nat) :
    SameMemory s (flushPort uid w psink s port) := by
  unfold flushPort
  split_ifs <;> constructor <;> simp
@[simp] theorem flushCmd_memory (s : State) (t : Nat) (c : Cmd) : SameMemory s (flushCmd s t c) := by
  unfold flushCmd
  dsimp only
  (repeat' split) <;> constructor <;> simp
@[simp] theorem flushOf_memory (p : Access → Bool) (s : State) : SameMemory s (flushOf p s) := by
  unfold flushOf
  constructor <;> simp [foldl_mem, foldl_poison]
@[simp] theorem markExit_memory (s : State) (n : Name) : SameMemory s (markExit s n) := by
  unfold markExit
  split_ifs <;> constructor <;> simp
@[simp] theorem sendPub_memory (s : State) (p : Pub) (tile uid : Nat) (after : List Nat) (scp : Nat) :
    SameMemory s (sendPub s p tile uid after scp) := by
  unfold sendPub
  constructor <;> simp
@[simp] theorem makeResident_memory (s : State) (t j : Nat) (e : Ident × Word) : SameMemory s (makeResident s t j e) := by
  unfold makeResident
  dsimp only
  (repeat' split) <;> constructor <;> simp
@[simp] theorem fillSlots_memory (t : Nat) (x0 : Nat) (s : State) : SameMemory s (fillSlots t x0 s) := by
  induction x0 generalizing s with
  | zero => exact ⟨rfl, rfl⟩
  | succ fuel ih =>
    unfold fillSlots
    dsimp only
    (repeat' split) <;> constructor <;> simp [(ih _).1, (ih _).2]
@[simp] theorem fill_memory (s : State) (t : Nat) : SameMemory s (fill s t) := by
  unfold fill
  split_ifs <;> constructor <;> simp
@[simp] theorem countRun_memory (s : State) (t : Nat) (th : Thread) : SameMemory s (countRun s t th) := by
  unfold countRun
  split <;> constructor <;> simp
@[simp] theorem publishStream_memory (s : State) (t : Nat) (c : Cmd) (st : Nat) (step : Option Nat) (bytes : Nat) :
    SameMemory s (publishStream s t c st step bytes) := by
  unfold publishStream
  split_ifs <;> constructor <;> simp
@[simp] theorem wakeTile_memory (s : State) (t : Nat) : SameMemory s (wakeTile s t) :=
  foldl_memory (fun s e => by split <;> constructor <;> simp) _ s
@[simp] theorem findSegs_memory (s : State) (t : Nat) (bufs : List Nat) : SameMemory s (findSegs s t bufs) := ⟨rfl, rfl⟩
@[simp] theorem discardOps_memory (s : State) (t uid : Nat) : SameMemory s (discardOps s t uid) := ⟨rfl, rfl⟩
@[simp] theorem endFill_memory (s : State) (t : Nat) (c : Cmd) : SameMemory s (endFill s t c) := by
  unfold endFill
  dsimp only
  (repeat' split) <;> constructor <;> simp
@[simp] theorem releaseFile_memory (s : State) (t uid : Nat) : SameMemory s (releaseFile s t uid) := by
  unfold releaseFile
  dsimp only
  (repeat' split) <;> constructor <;> simp
@[simp] theorem putCmd_memory (s : State) (t : Nat) (c : Cmd) : SameMemory s (putCmd s t c) := ⟨rfl, rfl⟩
@[simp] theorem removeCmd_memory (s : State) (t : Nat) (c : Cmd) : SameMemory s (removeCmd s t c) := by
  unfold removeCmd
  constructor <;> simp
@[simp] theorem cancelCmd_memory (s : State) (t : Nat) (c : Cmd) : SameMemory s (cancelCmd s t c) := by
  unfold cancelCmd
  dsimp only
  (repeat' split) <;> constructor <;> simp
@[simp] theorem cancelAll_memory (s : State) (t uid : Nat) : SameMemory s (cancelAll s t uid) := by
  unfold cancelAll
  constructor <;> simp [foldl_mem, foldl_poison]
@[simp] theorem silenceAll_memory (s : State) (t uid : Nat) : SameMemory s (silenceAll s t uid) := by
  unfold silenceAll
  constructor <;> simp
@[simp] theorem unqueue_memory (s : State) (uid : Nat) : SameMemory s (unqueue s uid) := ⟨rfl, rfl⟩
@[simp] theorem spawnHandler_memory (s : State) (t j via k : Nat) : SameMemory s (spawnHandler s t j via k) := by
  unfold spawnHandler
  dsimp only
  (repeat' split) <;> constructor <;> simp
theorem placeRecord_memory {s t : State} {k : Nat} (h : placeRecord s k = some t) : SameMemory s t := by
  unfold placeRecord at h
  dsimp only at h
  split at h
  next => cases h; exact ⟨rfl, rfl⟩
  next =>
    split_ifs at h <;> (repeat' split at h) <;> cases h <;> constructor <;> simp
@[simp] theorem serveRecord_memory (s : State) (k : Nat) : SameMemory s (serveRecord s k) := by
  unfold serveRecord
  split
  next h => exact placeRecord_memory h
  next => split <;> exact ⟨rfl, rfl⟩
@[simp] theorem retryRecords_memory (s : State) : SameMemory s (retryRecords s) := by
  refine foldl_memory (fun s u => ?_) _ s
  split
  next => exact ⟨rfl, rfl⟩
  next =>
    split
    next h => have h' := placeRecord_memory h; exact h'
    next => exact ⟨rfl, rfl⟩
@[simp] theorem takeRecord_memory (s : State) (t : Nat) : SameMemory s (takeRecord s t) := by
  unfold takeRecord
  dsimp only
  (repeat' split) <;> constructor <;> simp
@[simp] theorem startAlert_memory (s : State) (reg : Nat) : SameMemory s (startAlert s reg) := by
  unfold startAlert
  dsimp only
  (repeat' split) <;> constructor <;> simp
@[simp] theorem nextAlert_memory (s : State) : SameMemory s (nextAlert s) := by
  unfold nextAlert
  split <;> constructor <;> simp
@[simp] theorem killOutputs_memory (s : State) (t : Nat) (th : Thread) : SameMemory s (killOutputs s t th) := by
  unfold killOutputs
  (repeat' split) <;> constructor <;> simp [foldl_mem, foldl_poison]
@[simp] theorem withdrawAll_memory (s : State) (t : Nat) (th : Thread) : SameMemory s (withdrawAll s t th) := by
  unfold withdrawAll
  constructor <;> simp [foldl_mem, foldl_poison]
@[simp] theorem resumeAll_memory (s : State) : SameMemory s (resumeAll s) := by
  unfold resumeAll
  constructor <;> simp [foldl_mem, foldl_poison]
@[simp] theorem freeEntries_memory (s : State) (id : Ident) : SameMemory s (freeEntries s id) := by
  unfold freeEntries
  constructor <;> simp
@[simp] theorem serveAgain_memory (s : State) (h : Thread) : SameMemory s (serveAgain s h) := by
  unfold serveAgain
  split <;> constructor <;> simp
@[simp] theorem endKill_memory (s : State) (k : Nat) : SameMemory s (endKill s k) := by
  unfold endKill
  dsimp only
  (repeat' split) <;> constructor <;> simp
@[simp] theorem killThread_memory (s : State) (k : Nat) : SameMemory s (killThread s k) := by
  unfold killThread
  dsimp only
  (repeat' split) <;> constructor <;> simp
@[simp] theorem freeRecord_memory (s : State) (id : Nat) : SameMemory s (freeRecord s id) := ⟨rfl, rfl⟩
@[simp] theorem completeLaunch_memory (s : State) (handle : Nat) (parent : Option Nat) (host : Option (Nat × Nat)) (record : List Byte) (g : Option (Nat × Graph)) (res why : Nat) :
    SameMemory s (completeLaunch s handle parent host record g res why) := by
  unfold completeLaunch
  dsimp only
  (repeat' split) <;> constructor <;> simp
@[simp] theorem dropNames_memory (s : State) (ctx : Nat) (keep : Option Name) : SameMemory s (dropNames s ctx keep) := ⟨rfl, rfl⟩
@[simp] theorem endGraph_memory (s : State) (ctx res why : Nat) : SameMemory s (endGraph s ctx res why) := by
  unfold endGraph
  split <;> constructor <;> simp
@[simp] theorem abortGraph_memory (s : State) (ctx res why : Nat) : SameMemory s (abortGraph s ctx res why) := by
  unfold abortGraph
  dsimp only
  refine .trans ?_ (retryRecords_memory _)
  refine .trans ?_ (foldl_memory (fun s k => by split <;> constructor <;> simp) _ _)
  have hk := foldl_memory (s := s) (f := fun s k => match threadAt s k with
    | none => s
    | some th => releaseFile (dropThread (updCore (discardOps (silenceAll (countRun (unqueue s th.uid) (tileOf k) th) (tileOf k) th.uid)
        (tileOf k) th.uid) (tileOf k) (fun c => { c with copying := c.copying.filter (fun e => e.2 != slotOf k) })) k) (tileOf k) th.uid)
    (fun s k => by split <;> constructor <;> simp) ((s.threads.filter (fun e => e.2.graph == some ctx)).map (fun e => e.1))
  split
  · exact .trans hk (endGraph_memory _ _ _ _)
  · refine .trans ?_ (updGraph_memory _ _ _)
    refine .trans ?_ (resumeAll_memory _)
    refine .trans ?_ (dropNames_memory _ _ _)
    exact hk
@[simp] theorem requestLowering_memory (s : State) (site cls : Nat) (sudden core req : Bool) (ctx : Option Nat) :
    SameMemory s (requestLowering s site cls sudden core req ctx) := ⟨rfl, rfl⟩
@[simp] theorem restartCmds_memory (s : State) (t uid : Nat) (held : List AFault) : SameMemory s (restartCmds s t uid held) := ⟨rfl, rfl⟩
@[simp] theorem requestWake_memory (s : State) (b : Nat) : SameMemory s (requestWake s b) := by
  unfold requestWake
  split_ifs <;> constructor <;> simp
@[simp] theorem startWakes_memory (s : State) : SameMemory s (startWakes s) :=
  foldl_memory (fun s _ => by (repeat' split) <;> exact ⟨rfl, rfl⟩) _ s
@[simp] theorem installTlb_memory (s : State) (t : Nat) (e : TlbE) : SameMemory s (installTlb s t e) := by
  unfold installTlb
  split_ifs <;> constructor <;> simp
@[simp] theorem installFor_memory (s : State) (sp : Space) (e : TlbE) : SameMemory s (installFor s sp e) := by
  unfold installFor
  split_ifs <;> constructor <;> simp
@[simp] theorem noteMiss_memory (s : State) (sp : Space) (va : Nat) : SameMemory s (noteMiss s sp va) := by
  unfold noteMiss
  split_ifs <;> constructor <;> simp
@[simp] theorem countError_memory (s : State) (t : Nat) : SameMemory s (countError s t) := by
  unfold countError
  dsimp only
  (repeat' split) <;> constructor <;> simp
@[simp] theorem updAcc_memory (s : State) (id : Nat) (f : Access → Access) : SameMemory s (updAcc s id f) := ⟨rfl, rfl⟩
@[simp] theorem updElem_memory (s : State) (id i : Nat) (f : Elem → Elem) : SameMemory s (updElem s id i f) := ⟨rfl, rfl⟩
@[simp] theorem updOwner_memory (s : State) (uid : Nat) (f : Thread → Thread) : SameMemory s (updOwner s uid f) := by
  unfold updOwner
  split <;> constructor <;> simp
@[simp] theorem retire_memory (s : State) (id : Nat) : SameMemory s (retire s id) := by
  unfold retire
  dsimp only
  (repeat' split) <;> constructor <;> simp
@[simp] theorem drainAll_memory (x0 : Nat) (s : State) : SameMemory s (drainAll x0 s) := by
  induction x0 generalizing s with
  | zero => exact ⟨rfl, rfl⟩
  | succ fuel ih =>
    unfold drainAll
    split <;> constructor <;> simp [(ih _).1, (ih _).2]
@[simp] theorem settle_memory (s : State) (id : Nat) : SameMemory s (settle s id) := by
  unfold settle
  (repeat' split) <;> constructor <;> simp
@[simp] theorem elemDone_memory (s : State) (id i : Nat) (got : Word) (bad : Bool) : SameMemory s (elemDone s id i got bad) := ⟨rfl, rfl⟩
@[simp] theorem freeWord_memory (s : State) (x0 : Nat) : SameMemory s (freeWord s x0).1 := by
  induction x0 generalizing s with
  | zero => exact ⟨rfl, rfl⟩
  | succ w ih => exact ih _
@[simp] theorem updIssuer_memory (s : State) (f : Thread → Thread) : SameMemory s (updIssuer s f) := by
  unfold updIssuer
  constructor <;> simp
@[simp] theorem setRegs_memory (s : State) (f : Regs → Regs) : SameMemory s (setRegs s f) := by
  unfold setRegs
  constructor <;> simp
@[simp] theorem holdFor_memory (s : State) (w : Wait) : SameMemory s (holdFor s w) := by
  unfold holdFor
  constructor <;> simp
@[simp] theorem unissue_memory (s : State) (l : List (Nat × Thread)) (last : Map Nat) : SameMemory s (unissue s l last) := by
  have h (x : State) := foldl_memory (f := fun s (e : Nat × Thread) => setThread s e.1 e.2) (fun _ _ => ⟨rfl, rfl⟩) l x
  unfold unissue
  constructor <;> simp [(h _).1, (h _).2]
@[simp] theorem waitFor_memory (s : State) (w : Wait) : SameMemory s (waitFor s w) := by
  unfold waitFor
  (repeat' split) <;> constructor <;> simp
@[simp] theorem wrS_memory (s : State) (d : SReg) (v : Nat) (p : Bool) : SameMemory s (wrS s d v p) := by
  unfold wrS
  constructor <;> simp
@[simp] theorem wrP_memory (s : State) (d : PReg) (v : Word) : SameMemory s (wrP s d v) := by
  unfold wrP
  constructor <;> simp
@[simp] theorem raise_memory (s : State) (f : Flags) : SameMemory s (raise s f) := by
  unfold raise
  constructor <;> simp
@[simp] theorem draw_memory (s : State) (m : Mode) : SameMemory s (draw s m).1 := by
  unfold draw
  split_ifs <;> constructor <;> simp
@[simp] theorem wrV_memory (s : State) (g : PReg) (d : VReg) (f : Nat → Lane) : SameMemory s (wrV s g d f) := by
  unfold wrV
  constructor <;> simp
@[simp] theorem loseIfGone_memory (gone : Bool) (first : Nat) (s : State) : SameMemory s (loseIfGone gone first s) := by
  unfold loseIfGone
  split_ifs <;> constructor <;> simp
@[simp] theorem launch_memory (s : State) (th : Thread) (kind : AccKind) (ty : Ty) (dst : Dst) (poison : Bool) (elems : List Elem) (scp : Nat) (acq rel : Bool) :
    SameMemory s (launch s th kind ty dst poison elems scp acq rel) := ⟨rfl, rfl⟩
@[simp] theorem flushAt_memory (s : State) (th : Thread) (scp : Nat) : SameMemory s (flushAt s th scp) := by
  unfold flushAt
  split_ifs <;> constructor <;> simp
@[simp] theorem wrRounded_memory (s : State) (d : SReg) (ty : Ty) (r : RRes) (p : Bool) : SameMemory s (wrRounded s d ty r p) := by
  unfold wrRounded
  constructor <;> simp
@[simp] theorem wrLanes_memory (s : State) (g : PReg) (d : VReg) (f : Nat → LaneRes) : SameMemory s (wrLanes s g d f) := by
  unfold wrLanes
  constructor <;> simp
@[simp] theorem enqueueM_memory (s : State) (th : Thread) (kind : MKind) (ac : AcReg) (shape : BitVec 128) (mode : Nat) (entry : BitVec 1024) :
    SameMemory s (enqueueM s th kind ac shape mode entry) := ⟨rfl, rfl⟩
theorem obPick_memory (o : MOp) (x : State × ObView) (b w : Nat) : SameMemory x.1 (obPick o x b w).1 := by
  unfold obPick
  dsimp only
  split <;> exact ⟨rfl, rfl⟩

theorem foldl_obPick_memory (o : MOp) (l : List (Nat × Nat)) (x : State × ObView) :
    SameMemory x.1 (l.foldl (fun x w => obPick o x w.1 w.2) x).1 := by
  induction l generalizing x with
  | nil => exact ⟨rfl, rfl⟩
  | cons w l ih =>
    rw [List.foldl_cons]
    exact ⟨(ih _).1.trans (obPick_memory o x _ _).1, (ih _).2.trans (obPick_memory o x _ _).2⟩

@[simp] theorem obMix_memory (s : State) (t : Nat) (o : MOp) : SameMemory s (obMix s t o).1 :=
  foldl_obPick_memory o _ (s, _)
@[simp] theorem putOp_memory (s : State) (t : Nat) (o : MOp) : SameMemory s (putOp s t o) := by
  unfold putOp
  dsimp only
  (repeat' split) <;> constructor <;> simp
@[simp] theorem mrdResult_memory (o : MOp) (v : VReg) (h : Nat) (bad : Bool) (s : State) : SameMemory s (mrdResult o v h bad s) := by
  unfold mrdResult
  split <;> constructor <;> simp
@[simp] theorem comeToBank_memory (s : State) (t q num unit : Nat) : SameMemory s (comeToBank s t q num unit) := by
  unfold comeToBank
  dsimp only
  (repeat' split) <;> constructor <;> simp
@[simp] theorem bankTurns_memory (s : State) (t q : Nat) (pas : List Nat) : SameMemory s (bankTurns s t q pas) := ⟨rfl, rfl⟩
@[simp] theorem routerTurn_memory (s : State) (t pa n : Nat) : SameMemory s (routerTurn s t pa n) := ⟨rfl, rfl⟩
@[simp] theorem deckTurn_memory (s : State) (pa n : Nat) : SameMemory s (deckTurn s pa n) := by
  unfold deckTurn
  split_ifs <;> constructor <;> simp
@[simp] theorem readPayload_memory (s : State) (th : Thread) (base len : Nat) : SameMemory s (readPayload s th base len) := ⟨rfl, rfl⟩
@[simp] theorem dropDyn_memory (s : State) (th : Thread) (n : Name) : SameMemory s (dropDyn s th n) := by
  unfold dropDyn
  constructor <;> simp
@[simp] theorem barIssue_memory (s : State) (th : Thread) (n : Nat) : SameMemory s (barIssue s th n) := by
  unfold barIssue
  dsimp only
  (repeat' split) <;> constructor <;> simp
@[simp] theorem poolTake_memory (s : State) (id : Nat) (r : List Byte) (parent : Option Nat) (depth : Nat) (host : Option (Nat × Nat)) (part : Option Nat) (root : Word) (bad : Bool) :
    SameMemory s (poolTake s id r parent depth host part root bad) := by
  unfold poolTake
  split_ifs <;> constructor <;> simp
@[simp] theorem spawnDecide_memory (s : State) (th : Thread) (r : List Byte) (bad : Bool) : SameMemory s (spawnDecide s th r bad).1 := by
  unfold spawnDecide
  dsimp only
  (repeat' split) <;> constructor <;> simp
@[simp] theorem dropFile_memory (s : State) (t uid : Nat) : SameMemory s (dropFile s t uid) := by
  unfold dropFile
  split_ifs <;> constructor <;> simp
@[simp] theorem startCmd_memory (s : State) (t : Nat) (c : Cmd) : SameMemory s (startCmd s t c) := by
  unfold startCmd
  split_ifs <;> constructor <;> simp
@[simp] theorem writeOb_memory (s : State) (t b o : Nat) (data : List Byte) (bad : List Bool) : SameMemory s (writeOb s t b o data bad) := ⟨rfl, rfl⟩
@[simp] theorem holdCmd_memory (s : State) (t : Nat) (c : Cmd) : SameMemory s (holdCmd s t c) := by
  unfold holdCmd
  dsimp only
  (repeat' split) <;> constructor <;> simp
@[simp] theorem putChunk_memory (s : State) (t : Nat) (c : Cmd) (k : Chunk) : SameMemory s (putChunk s t c k) := ⟨rfl, rfl⟩
@[simp] theorem requestChunk_memory (s : State) (t : Nat) (c : Cmd) (k : Chunk) : SameMemory s (requestChunk s t c k).1 := by
  unfold requestChunk
  split_ifs <;> constructor <;> simp
@[simp] theorem fetchChunk_memory (s : State) (t : Nat) (c : Cmd) (k : Chunk) : SameMemory s (fetchChunk s t c k).1 := by
  unfold fetchChunk
  dsimp only
  (repeat' split) <;> constructor <;> simp
@[simp] theorem publishSteps_memory (s : State) (t : Nat) (x0 : Nat) (x1 : Cmd) : SameMemory s (publishSteps s t x0 x1).1 := by
  induction x0 generalizing s x1 with
  | zero => exact ⟨rfl, rfl⟩
  | succ fuel ih =>
    unfold publishSteps
    dsimp only
    split
    · exact ⟨by simp [(ih _ _).1], by simp [(ih _ _).2]⟩
    · exact ⟨rfl, rfl⟩
@[simp] theorem chunkEnd_memory (s : State) (t : Nat) (c : Cmd) (k : Chunk) : SameMemory s (chunkEnd s t c k) := by
  unfold chunkEnd
  dsimp only
  (repeat' split) <;> constructor <;> simp
@[simp] theorem sendChunk_memory (s : State) (t : Nat) (c : Cmd) (k : Chunk) : SameMemory s (sendChunk s t c k) := by
  unfold sendChunk
  dsimp only
  split <;> constructor <;> simp
@[simp] theorem findFault_memory (s : State) (t : Nat) (c : Cmd) : SameMemory s (findFault s t c) := by
  unfold findFault
  split <;> constructor <;> simp
@[simp] theorem ckEnd_memory (s : State) (res gib : Nat) : SameMemory s (ckEnd s res gib) := by
  unfold ckEnd
  exact ⟨msPut_mem .., msPut_poison ..⟩
@[simp] theorem ckRequest_memory (s : State) (v mask : Word) : SameMemory s (ckRequest s v mask) := by
  unfold ckRequest
  dsimp only
  (repeat' split) <;> constructor <;> simp
@[simp] theorem setPc_memory (s : State) (pc : Nat) : SameMemory s (setPc s pc) := by
  unfold setPc
  constructor <;> simp
@[simp] theorem takeTurn_memory (s : State) (a : Access) (e : Elem) : SameMemory s (takeTurn s a e) := by
  unfold takeTurn
  split <;> constructor <;> simp
@[simp] theorem extFor_memory (s : State) (ext : Ext) (lo : Nat) (e : Elem) : SameMemory s (extFor s ext lo e).1 := by
  unfold extFor
  dsimp only
  (repeat' split) <;> constructor <;> simp
@[simp] theorem respond_memory (s : State) (id : Nat) : SameMemory s (respond s id) := by
  unfold respond
  (repeat' split) <;> constructor <;> simp
@[simp] theorem ackChunks_memory (s : State) (uid id port : Nat) : SameMemory s (ackChunks s uid id port) := ⟨rfl, rfl⟩
@[simp] theorem acknowledge_memory (s : State) (a : Access) (port : Nat) : SameMemory s (acknowledge s a port) := by
  unfold acknowledge
  constructor <;> simp [foldl_mem, foldl_poison]
@[simp] theorem loaderAnswer_memory (s : State) (id : Nat) (ext : Ext) : SameMemory s (loaderAnswer s id ext) := ⟨rfl, rfl⟩
@[simp] theorem updHome_memory (s : State) (n : Name) (f : HomeE → HomeE) : SameMemory s (updHome s n f) := ⟨rfl, rfl⟩
@[simp] theorem retireDone_memory (s : State) (n : Name) : SameMemory s (retireDone s n) := by
  unfold retireDone
  (repeat' split) <;> constructor <;> simp
@[simp] theorem consume_memory (s : State) (p : Pub) : SameMemory s (consume s p) := by
  unfold consume
  split_ifs <;> constructor <;> simp
@[simp] theorem makeRoom_memory (t n : Nat) (x0 : Nat) (s : State) : SameMemory s (makeRoom t n x0 s) := by
  induction x0 generalizing s with
  | zero => exact ⟨rfl, rfl⟩
  | succ fuel ih =>
    unfold makeRoom
    dsimp only
    (repeat' split) <;> constructor <;> simp [(ih _).1, (ih _).2]
@[simp] theorem takeMsg_memory (s : State) (i : Nat) : SameMemory s (takeMsg s i) := ⟨rfl, rfl⟩
@[simp] theorem reportScope_memory (s : State) (q : Sub) : SameMemory s (reportScope s q) := by
  unfold reportScope
  split <;> constructor <;> simp
@[simp] theorem tilePublish_memory (s : State) (p : Pub) (t stage : Nat) : SameMemory s (tilePublish s p t stage) := by
  unfold tilePublish
  split_ifs <;> constructor <;> simp
@[simp] theorem nmtAdd_memory (s : State) (t : Nat) (key : NameKey) (port : Nat) : SameMemory s (nmtAdd s t key port) := ⟨rfl, rfl⟩
@[simp] theorem nmtPath_memory (key : NameKey) (prev : Nat) (l : List Nat) (s : State) : SameMemory s (nmtPath s key prev l) := by
  induction l generalizing s prev with
  | nil => exact ⟨rfl, rfl⟩
  | cons r l ih =>
    unfold nmtPath
    constructor
    · rw [(ih _ _).1]; split <;> simp
    · rw [(ih _ _).2]; split <;> simp
@[simp] theorem freeKey_memory (s : State) (key : NameKey) (routers : List Nat) : SameMemory s (freeKey s key routers) := ⟨rfl, rfl⟩
@[simp] theorem freeSubs_memory (s : State) (l : List Sub) : SameMemory s (freeSubs s l) := by
  unfold freeSubs
  constructor <;> simp [foldl_mem, foldl_poison]
@[simp] theorem sendDown_memory (s : State) (h : HomeE) : SameMemory s (sendDown s h) := by
  unfold sendDown
  constructor <;> simp [foldl_mem, foldl_poison]
@[simp] theorem homeKeep_memory (s : State) (p : Pub) (t src stage : Nat) : SameMemory s (homeKeep s p t src stage) := by
  unfold homeKeep
  split_ifs <;> constructor <;> simp
@[simp] theorem fallThrough_memory (s : State) (q : Sub) : SameMemory s (fallThrough s q) := by
  unfold fallThrough
  dsimp only
  (repeat' split) <;> constructor <;> simp
@[simp] theorem recordSub_memory (s : State) (q : Sub) (path : List Nat) : SameMemory s (recordSub s q path) := by
  unfold recordSub
  constructor <;> simp
@[simp] theorem keepCopy_memory (s : State) (r : Nat) (p : Pub) : SameMemory s (keepCopy s r p) := by
  unfold keepCopy
  split_ifs <;> constructor <;> simp
@[simp] theorem fireIdent_memory (t : Nat) (s : State) (id : Ident) : SameMemory s (fireIdent t s id) := by
  unfold fireIdent
  dsimp only
  (repeat' split) <;> constructor <;> simp
@[simp] theorem fireReady_memory (s : State) (t : Nat) : SameMemory s (fireReady s t) := by
  unfold fireReady
  constructor <;> simp [foldl_mem, foldl_poison]
@[simp] theorem askPiers_memory (t : Nat) (s : State) (id : Ident) : SameMemory s (askPiers t s id) := by
  unfold askPiers
  split <;> constructor <;> simp
@[simp] theorem enter_memory (s : State) (t : Nat) (p : Pub) (l : List MEntry) : SameMemory s (enter s t p l) := by
  unfold enter
  constructor <;> simp [foldl_mem, foldl_poison, apply_ite State.mem, apply_ite State.poison]
@[simp] theorem leaveHome_memory (s : State) (p : Pub) (t : Nat) (o : SubOf) : SameMemory s (leaveHome s p t o) := by
  unfold leaveHome
  split_ifs <;> constructor <;> simp
@[simp] theorem setRes_memory (s : State) (tid : Nat) (r : ResEntry) : SameMemory s (setRes s tid r) := ⟨rfl, rfl⟩
@[simp] theorem resEnd_memory (s : State) (res : Nat) : SameMemory s (resEnd s res) := ⟨rfl, rfl⟩
@[simp] theorem resStart_memory (s : State) : SameMemory s (resStart s) := by
  unfold resStart
  split_ifs <;> constructor <;> simp
theorem resRequest_memory (s : State) (op st : Nat) {k : Nat → ResEntry → State} (h : ∀ n e, SameMemory s (k n e)) :
    SameMemory s (resRequest s op st k) := by
  unfold resRequest
  dsimp only
  split_ifs
  · exact ⟨rfl, rfl⟩
  · exact resEnd_memory s 2
  · exact resEnd_memory s 1
  · exact h _ _
@[simp] theorem askBlock_memory (s : State) (pa : Nat) (p : Path) : SameMemory s (askBlock s pa p) := ⟨rfl, rfl⟩
@[simp] theorem setSlot_memory (s : State) (port slot : Nat) (l : LaunchSlot) : SameMemory s (setSlot s port slot l) := ⟨rfl, rfl⟩
@[simp] theorem hostLaunch_memory (s : State) (port slot : Nat) (r : List Byte) : SameMemory s (hostLaunch s port slot r) := by
  unfold hostLaunch
  dsimp only
  (repeat' split) <;> constructor <;> simp
@[simp] theorem atCursor_memory (ctx : Nat) (s : State) (p : Placed) : SameMemory s (atCursor ctx s p) := by
  unfold atCursor
  dsimp only
  (repeat' split) <;> constructor <;> simp
@[simp] theorem clearStage_memory (s : State) (ctx : Nat) (g : Graph) : SameMemory s (clearStage s ctx g) := by
  unfold clearStage
  constructor <;> simp
@[simp] theorem vacRefuse_memory (s : State) (res : Nat) : SameMemory s (vacRefuse s res) := ⟨rfl, rfl⟩
@[simp] theorem vacPhase_memory (s : State) (ph : Nat) : SameMemory s (vacPhase s ph) := by
  unfold vacPhase
  split <;> constructor <;> simp
@[simp] theorem exclude_memory (s : State) (v : Vacate) : SameMemory s (exclude s v) := ⟨rfl, rfl⟩
@[simp] theorem vacAccept_memory (s : State) (bs gb : List Nat) (prio : Nat) : SameMemory s (vacAccept s bs gb prio) := ⟨rfl, rfl⟩
@[simp] theorem vacStart_memory (s : State) (bs gb : List Nat) (prio : Nat) : SameMemory s (vacStart s bs gb prio) := by
  unfold vacStart
  split <;> constructor <;> simp
@[simp] theorem vacMerge_memory (s : State) (v : Vacate) (bs gb : List Nat) (prio : Nat) : SameMemory s (vacMerge s v bs gb prio) := by
  unfold vacMerge
  dsimp only
  (repeat' split) <;> constructor <;> simp
@[simp] theorem vacHold_memory (s : State) (bs gb : List Nat) (prio : Nat) : SameMemory s (vacHold s bs gb prio) := by
  unfold vacHold
  (repeat' split) <;> constructor <;> simp
@[simp] theorem vacDecide_memory (s : State) (v : Word) (host : Option Nat) : SameMemory s (vacDecide s v host) := by
  unfold vacDecide
  dsimp only
  (repeat' split) <;> constructor <;> simp
@[simp] theorem vacRequest_memory (s : State) (host : Option Nat) : SameMemory s (vacRequest s host) := by
  unfold vacRequest
  constructor <;> simp
@[simp] theorem vacAnswer_memory (s : State) : SameMemory s (vacAnswer s) := by
  unfold vacAnswer
  constructor <;> simp [foldl_mem, foldl_poison]
@[simp] theorem stopCmds_memory (s : State) (t uid : Nat) : SameMemory s (stopCmds s t uid) := by
  unfold stopCmds
  constructor <;> simp [foldl_mem, foldl_poison, apply_ite State.mem, apply_ite State.poison]
@[simp] theorem backToList_memory (s : State) (k : Nat) (th : Thread) : SameMemory s (backToList s k th) := ⟨rfl, rfl⟩
@[simp] theorem discardHandler_memory (s : State) (k : Nat) : SameMemory s (discardHandler s k) := by
  unfold discardHandler
  dsimp only
  (repeat' split) <;> constructor <;> simp
@[simp] theorem moveOne_memory (s : State) (ctx : Nat) (lost : Bool) (p q : Placed) : SameMemory s (moveOne s ctx lost p q) := by
  unfold moveOne
  constructor <;> simp [foldl_mem, foldl_poison]
@[simp] theorem redirect_memory (s : State) (g : Graph) (ctx : Nat) (moves : List (Placed × Placed)) :
    SameMemory s (redirect s g ctx moves) := ⟨rfl, rfl⟩
@[simp] theorem foldOne_memory (v : Vacate) (s : State) (x : Saved) : SameMemory s (foldOne v s x) := by
  unfold foldOne
  dsimp only
  (repeat' split) <;> constructor <;> simp
@[simp] theorem foldAll_memory (s : State) (v : Vacate) : SameMemory s (foldAll s v) := by
  unfold foldAll
  constructor <;> simp [foldl_mem, foldl_poison]
@[simp] theorem resumePhase_memory (s : State) : SameMemory s (resumePhase s) := by
  unfold resumePhase
  (repeat' split) <;> constructor <;> simp
@[simp] theorem leaveSlot_memory (s : State) (p k : Nat) : SameMemory s (leaveSlot s p k) := by
  unfold leaveSlot
  constructor <;> simp [foldl_mem, foldl_poison]
@[simp] theorem loseCopies_memory (s : State) : SameMemory s (loseCopies s) := ⟨rfl, rfl⟩
@[simp] theorem clearCore_memory (s : State) (t new : Nat) : SameMemory s (clearCore s t new) := ⟨rfl, rfl⟩
@[simp] theorem noteOlds_memory (s : State) : SameMemory s (noteOlds s) := ⟨rfl, rfl⟩
@[simp] theorem cutChunk_memory (s : State) (num : Nat) : SameMemory s (cutChunk s num) := by
  unfold cutChunk
  split <;> constructor <;> simp
@[simp] theorem cutAt_memory (s : State) (c : Cut) : SameMemory s (cutAt s c) := by
  unfold cutAt
  split <;> constructor <;> simp
@[simp] theorem abortAt_memory (s : State) (c : Cut) : SameMemory s (abortAt s c) := by
  unfold abortAt
  split <;> constructor <;> simp
@[simp] theorem setBeat_memory (s : State) (site : Nat) (b : Beat) : SameMemory s (setBeat s site b) := ⟨rfl, rfl⟩
@[simp] theorem calm_memory (s : State) (site : Nat) : SameMemory s (calm s site) := ⟨rfl, rfl⟩
@[simp] theorem thrUpdate_memory (s : State) (b : Nat) : SameMemory s (thrUpdate s b) := ⟨rfl, rfl⟩
@[simp] theorem msixPut_memory (s : State) (port k : Nat) (v : Word) : SameMemory s (msixPut s port k v) := ⟨rfl, rfl⟩
@[simp] theorem msixFlush_memory (s : State) (port vec : Nat) : SameMemory s (msixFlush s port vec) := by
  unfold msixFlush
  dsimp only
  (repeat' split) <;> constructor <;> simp
@[simp] theorem msixWrite_memory (s : State) (port k : Nat) (v mask : Word) : SameMemory s (msixWrite s port k v mask) := by
  unfold msixWrite
  constructor <;> simp
@[simp] theorem dropTlbs_memory (s : State) (r : Removal) : SameMemory s (dropTlbs s r) := ⟨rfl, rfl⟩
@[simp] theorem setFrames_memory (s : State) (pa n : Nat) (free : Bool) : SameMemory s (setFrames s pa n free) := ⟨rfl, rfl⟩
@[simp] theorem pageToHost_memory (f2 : Nat) (data : List Byte) (x0 : Nat) (s : State) : SameMemory s (pageToHost f2 data x0 s) := by
  induction x0 with
  | zero => exact ⟨rfl, rfl⟩
  | succ n ih => exact ih
@[simp] theorem tick_memory (s : State) (t : Nat) : SameMemory s (tick s t) := by
  unfold tick
  split_ifs <;> constructor <;> simp
@[simp] theorem yieldsOver_memory (l : List Nat) (s : State) : SameMemory s (yieldsOver l s) := by
  unfold yieldsOver
  constructor <;> simp [foldl_mem, foldl_poison]
@[simp] theorem passedOver_memory (l : List (Nat × Thread × Ready)) (k : Nat) (s : State) : SameMemory s (passedOver l k s) := by
  unfold passedOver
  constructor <;> simp [foldl_mem, foldl_poison, apply_ite State.mem, apply_ite State.poison]
@[simp] theorem openWords_memory (s : State) (k : Nat) (th : Thread) (ws : List Word) (l : List (Nat × Instr)) (wait : Option Wait) (kept : Kept) (undo : Option (List (Nat × Thread) × Map Nat)) :
    SameMemory s (openWords s k th ws l wait kept undo) := ⟨rfl, rfl⟩
@[simp] theorem noteAhead_memory (s : State) (th : Thread) (pas : List Nat) : SameMemory s (noteAhead s th pas) := ⟨rfl, rfl⟩
@[simp] theorem reopen_memory (s : State) (k : Nat) (th : Thread) (w : Wait) : SameMemory s (reopen s k th w) := by
  unfold reopen
  split <;> constructor <;> simp
@[simp] theorem passAreas_memory (s : State) (a : Nat) : SameMemory s (passAreas s a) := ⟨rfl, rfl⟩
@[simp] theorem committed_memory (s : State) (key uid : Nat) : SameMemory s (committed s key uid) := by
  unfold committed
  constructor <;> simp
@[simp] theorem nextStep_memory (run : Instr → State → Result) (s : State) : SameMemory s (nextStep run s).2 := by
  unfold nextStep
  split <;> constructor <;> simp

end Sys2Proof.Machine

namespace Sys2Proof.Machine

/-! What keeps the form of memory. -/

theorem KeepsForm.refl (s : State) : KeepsForm s s := ⟨id, id⟩

theorem KeepsForm.trans {s t u : State} (h : KeepsForm s t) (h' : KeepsForm t u) : KeepsForm s u :=
  ⟨h'.1 ∘ h.1, h'.2 ∘ h.2⟩

theorem keepsForm_foldl_fst {β γ : Type} {f : State × γ → β → State × γ} (h : ∀ x b, KeepsForm x.1 (f x b).1) (l : List β)
    (x : State × γ) : KeepsForm x.1 (l.foldl f x).1 := by
  induction l generalizing x with
  | nil => exact .refl _
  | cons b l ih => exact .trans (h x b) (ih _)

@[simp] theorem writeByte_keepsForm (s : State) (pa : Nat) (b : Byte) : KeepsForm s (writeByte s pa b) :=
  ⟨fun w => Memory.wf_memPut w pa b, id⟩
@[simp] theorem setLinePoison_keepsForm (s : State) (pa : Nat) (b : Bool) : KeepsForm s (setLinePoison s pa b) :=
  ⟨id, fun w => poisonWf_setD w _ b⟩

@[simp] theorem writeBytes_keepsForm (s : State) (pa : Nat) (l : List Byte) : KeepsForm s (writeBytes s pa l) := by
  induction l generalizing s pa with
  | nil => exact .refl s
  | cons b l ih => exact .trans (writeByte_keepsForm s pa b) (ih _ _)
@[simp] theorem writeLe_keepsForm (s : State) (pa n v : Nat) : KeepsForm s (writeLe s pa n v) := by
  unfold writeLe
  constructor <;> intro w <;> simp [w]
@[simp] theorem writeClean_keepsForm (s : State) (pa : Nat) (l : List Byte) : KeepsForm s (writeClean s pa l) := by
  refine .trans (writeBytes_keepsForm s pa l) (keepsForm_foldl (fun s i => ?_) _ _)
  dsimp only
  split
  · exact setLinePoison_keepsForm ..
  · exact .refl s
@[simp] theorem logEvent_keepsForm (s : State) (kind : Nat) (data : List Word) : KeepsForm s (logEvent s kind data) := by
  unfold logEvent
  refine .trans (writeClean_keepsForm ..) (.trans (SameMemory.keepsForm (msPut_memory ..)) (keepsForm_foldl (fun s p => ?_) _ _))
  dsimp only
  split
  · exact SameMemory.keepsForm (raiseVector_memory ..)
  · exact .refl s
@[simp] theorem poisonRecord_keepsForm (s : State) (w : Who) (kind : Nat) (act : Bool) (mask : Word) (wh : Nat) :
    KeepsForm s (poisonRecord s w kind act mask wh) := by
  unfold poisonRecord
  constructor <;> intro w <;> simp [w]
@[simp] theorem nameLost_keepsForm (s : State) (n : Name) : KeepsForm s (nameLost s n) := by
  unfold nameLost
  constructor <;> intro w <;> simp [w]
@[simp] theorem loseName_keepsForm (s : State) (n : Name) : KeepsForm s (loseName s n) := by
  unfold loseName
  split_ifs <;> constructor <;> intro w <;> simp [w]
@[simp] theorem readTile_keepsForm (s : State) (t : Nat) (sel : Name → Bool) : KeepsForm s (readTile s t sel) := by
  unfold readTile
  dsimp only
  split
  · exact .refl s
  · exact .trans (SameMemory.keepsForm (updCore_memory ..)) (keepsForm_foldl loseName_keepsForm _ _)
@[simp] theorem takeFault_keepsForm (s : State) (k : Nat) (cls : FaultClass) (pc : Word) (nsyl fsyl : Nat) (syl : Word) (addr : Option (BitVec 53)) (aux : Word) :
    KeepsForm s (takeFault s k cls pc nsyl fsyl syl addr aux) := by
  unfold takeFault
  dsimp only
  (repeat' split) <;> constructor <;> intro w <;> simp [w]
@[simp] theorem asyncFault_keepsForm (s : State) (uid : Nat) (f : AFault) : KeepsForm s (asyncFault s uid f) := by
  unfold asyncFault
  dsimp only
  (repeat' split) <;> constructor <;> intro w <;> simp [w]
@[simp] theorem lostStore_keepsForm (s : State) (w : Who) (uid : Nat) (psink : Bool) (kind : Nat) (mask : Word) (wh : Nat) :
    KeepsForm s (lostStore s w uid psink kind mask wh) := by
  unfold lostStore
  dsimp only
  (repeat' split) <;> constructor <;> intro w <;> simp [w]
@[simp] theorem resumeThread_keepsForm (s : State) (k : Nat) (pc : Word) : KeepsForm s (resumeThread s k pc) := by
  unfold resumeThread
  dsimp only
  (repeat' split) <;> constructor <;> intro w <;> simp [w]
@[simp] theorem foundLine_keepsForm (s : State) (pa : Nat) : KeepsForm s (foundLine s pa) := by
  unfold foundLine
  split_ifs <;> constructor <;> intro w <;> simp [w, poisonWf_setD]
@[simp] theorem discover_keepsForm (s : State) (pa n : Nat) : KeepsForm s (discover s pa n) := by
  refine keepsForm_foldl (fun s x => ?_) _ s
  (repeat' split) <;> constructor <;> intro w <;> simp [w]
@[simp] theorem walkFound_keepsForm (s : State) (w : Walk) : KeepsForm s (walkFound s w) := by
  unfold walkFound
  split <;> constructor <;> intro w <;> simp [w]
@[simp] theorem pageAccess_keepsForm (s : State) (sp : Space) (n : Need) (va : Nat) : KeepsForm s (pageAccess s sp n va).1 := by
  unfold pageAccess
  dsimp only
  (repeat' split) <;> constructor <;> intro w <;> simp [w]
@[simp] theorem translate_keepsForm (s : State) (sp : Space) (n : Need) (va : Nat) : KeepsForm s (translate s sp n va).1 := by
  unfold translate
  split_ifs <;> constructor <;> intro w <;> simp [w]
@[simp] theorem elemLost_keepsForm (s : State) (a : Access) (i : Nat) (kind : Nat) : KeepsForm s (elemLost s a i kind) := by
  unfold elemLost
  split
  next => exact .refl s
  next e _ =>
    refine .trans (.trans ?_ (keepsForm_foldl (fun s f => ?_) _ _)) (SameMemory.keepsForm (settle_memory ..))
    · split
      · exact .refl s
      · exact lostStore_keepsForm ..
    · constructor <;> intro w <;> simp [w]
@[simp] theorem storeElem_keepsForm (s : State) (a : Access) (e : Elem) : KeepsForm s (storeElem s a e) := by
  unfold storeElem
  dsimp only
  have h := keepsForm_foldl (f := fun (s : State) (p : Nat × Byte) =>
    if nth false e.mask p.1 then writeByte s (e.pa + p.1) p.2 else setLinePoison s (e.pa + p.1) true)
    (fun s p => by split_ifs <;> constructor <;> intro w <;> simp [w, Memory.wf_memPut, poisonWf_setD]) ((upTo e.w).zip (leBytes e.w e.data.toNat)) s
  split
  · exact .trans h (setLinePoison_keepsForm ..)
  · exact h
@[simp] theorem performElem_keepsForm (s : State) (a : Access) (i : Nat) : KeepsForm s (performElem s a i) := by
  unfold performElem
  dsimp only
  (repeat' split) <;> constructor <;> intro w <;> simp [w]
theorem binLane_keepsForm (pa cap binoff c : Nat) (x : State × Nat × List Nat) (l : List (Nat × BinLane)) :
    KeepsForm x.1 (l.foldl (fun (x : State × Nat × List Nat) e =>
      let s := x.1
      let n := x.2.1
      let o := x.2.2
      let n' := if n + 1 < 2 ^ 32 then n + 1 else 2 ^ 32 - 1
      if n < cap then (writeLe s (pa + binoff + 4 * (cap * c + n)) 4 e.2.2, n', o) else (s, n', o ++ [e.1])) x).1 := by
  refine keepsForm_foldl_fst (fun x e => ?_) l x
  dsimp only
  split
  · exact writeLe_keepsForm ..
  · exact .refl _

@[simp] theorem binCell_keepsForm (s : State) (pa cap cntoff binoff c : Nat) (l : List (Nat × BinLane)) :
    KeepsForm s (binCell s pa cap cntoff binoff c l).1 :=
  .trans (binLane_keepsForm pa cap binoff c (s, _, []) l) (writeLe_keepsForm ..)
@[simp] theorem binAppend_keepsForm (s : State) (pa ncell cap cntoff binoff ofoff ofcap : Nat) (lanes : List BinLane) :
    KeepsForm s (binAppend s pa ncell cap cntoff binoff ofoff ofcap lanes) := by
  unfold binAppend
  refine .trans (keepsForm_foldl_fst (fun x c => ?_) _ (s, [])) (keepsForm_foldl (fun s e => ?_) _ _)
  · exact binCell_keepsForm ..
  · dsimp only
    split
    · exact .trans (.trans (writeLe_keepsForm ..) (writeLe_keepsForm ..)) (writeLe_keepsForm ..)
    · exact writeLe_keepsForm ..
@[simp] theorem binReset_keepsForm (s : State) (pa ncell cntoff : Nat) : KeepsForm s (binReset s pa ncell cntoff) :=
  .trans (.trans (writeBytes_keepsForm ..) (writeLe_keepsForm ..)) (writeLe_keepsForm ..)
@[simp] theorem rmwElem_keepsForm (s : State) (a : Access) (i : Nat) : KeepsForm s (rmwElem s a i) := by
  unfold rmwElem
  split
  next => exact .refl s
  next e _ =>
    split
    · exact elemLost_keepsForm ..
    · refine .trans (keepsForm_foldl (fun s r => discover_keepsForm s r.1 r.2) (elemRanges a.kind e) s) ?_
      dsimp only
      (repeat' split) <;> constructor <;> intro w <;> simp [w, poisonWf_setD]
@[simp] theorem sendElem_keepsForm (s : State) (a : Access) (i : Nat) : KeepsForm s (sendElem s a i) := by
  unfold sendElem
  split
  next => exact .refl s
  next e _ =>
    extract_lets l lo hi id mark out
    have h (o : Out) : KeepsForm s (out s o) := SameMemory.keepsForm (foldl_memory (fun s f => updAcc_memory ..) l s)
    have hr := KeepsForm.refl s
    split
    · split
      split
      · exact h _
      · split <;> exact h _
    · split
      · exact elemLost_keepsForm ..
      · split <;> exact h _
    all_goals exact hr
@[simp] theorem discarded_keepsForm (s : State) (a : Access) (i : Nat) : KeepsForm s (discarded s a i) := by
  unfold discarded
  split_ifs <;> constructor <;> intro w <;> simp [w]
theorem onRoute_keepsForm (s : State) (a : Access) (i : Nat) (e : Elem) {f : State → State} (hf : KeepsForm s (f s)) :
    KeepsForm s (onRoute s a i e f) := by
  have hd : KeepsForm s (updElem (f s) a.id i (fun x => { x with gotP := true })) := .trans hf (SameMemory.keepsForm (updElem_memory ..))
  unfold onRoute
  split_ifs
  · exact discarded_keepsForm ..
  · exact hf
  · exact .refl s
  · dsimp only
    split
    · exact .trans hd (lostStore_keepsForm ..)
    · exact hd
@[simp] theorem patchFound_keepsForm (s : State) (sp : Space) (pat : BitVec 256) : KeepsForm s (patchFound s sp pat) := by
  unfold patchFound
  split
  · exact keepsForm_foldl (fun t p => walkFound_keepsForm ..) _ s
  · exact .refl s
@[simp] theorem freeze_keepsForm (s : State) (c : FaultClass) (addr : Option Nat) (aux : Word) : KeepsForm s (freeze s c addr aux) := by
  unfold freeze
  constructor <;> intro w <;> simp [w]
@[simp] theorem locate_keepsForm (s : State) (sp : Space) (n : Need) (va : Nat) : KeepsForm s (locate s sp n va).1 := by
  unfold locate
  (repeat' split) <;> constructor <;> intro w <;> simp [w]
@[simp] theorem checkAddrs_keepsForm (sp : Space) (n : Need) (carry : Path → Bool) (w : Nat) (l : List Nat) (s : State) :
    KeepsForm s (checkAddrs sp n carry w l s).1 := by
  induction l generalizing s with
  | nil => exact .refl s
  | cons va l ih =>
    have hl := locate_keepsForm s sp n va
    unfold checkAddrs
    split
    · exact .refl s
    · split
      next h => rw [h] at hl; exact hl
      next h => rw [h] at hl; exact hl
      next t pa p h =>
        rw [h] at hl
        have ht := ih t
        split
        · exact hl
        · split
          next h => rw [h] at ht; exact .trans hl ht
          next => exact .trans hl ht
theorem withAccess_keepsForm (s : State) (th : Thread) (n : Need) (carry : Path → Bool) (w : Nat) (addrs : List Nat)
    {k : State → List (Nat × Nat × Path) → State} (hk : ∀ s l, KeepsForm s (k s l)) : KeepsForm s (withAccess s th n carry w addrs k) := by
  have hc := checkAddrs_keepsForm (spaceOf s s.issue.key th) n carry w addrs s
  unfold withAccess
  split
  next h => rw [h] at hc; exact .trans hc (freeze_keepsForm ..)
  next h => rw [h] at hc; exact .trans hc (SameMemory.keepsForm (waitFor_memory ..))
  next t l h =>
    rw [h] at hc
    refine .trans hc ?_
    split
    · exact SameMemory.keepsForm (waitFor_memory ..)
    · split
      · exact SameMemory.keepsForm (waitFor_memory ..)
      · split
        · split
          · exact .trans (hk _ _) (SameMemory.keepsForm (loseIfGone_memory ..))
          · exact SameMemory.keepsForm (waitFor_memory ..)
        · exact hk _ _
theorem sink_keepsForm (s : State) (th : Thread) (kind : Nat) (mask : Word) (wh : Nat) {k : State → State}
    (hk : ∀ s, KeepsForm s (k s)) : KeepsForm s (sink s th kind mask wh k) := by
  unfold sink
  dsimp only
  split
  · exact .trans (poisonRecord_keepsForm ..) (freeze_keepsForm ..)
  · exact .trans (poisonRecord_keepsForm ..) (hk _)
theorem binOp_keepsForm (s : State) (th : Thread) (t : Nat) {k : State → Nat × Nat × Path → State} (hk : ∀ s x, KeepsForm s (k s x)) :
    KeepsForm s (binOp s th t k) := by
  refine withAccess_keepsForm s th _ _ _ _ (fun s l => ?_)
  split
  · exact .refl s
  · split
    · exact SameMemory.keepsForm (waitFor_memory ..)
    · dsimp only
      split
      · exact .trans (discover_keepsForm ..) (freeze_keepsForm ..)
      · exact .trans (discover_keepsForm ..) (hk _ _)
@[simp] theorem publish_keepsForm (s : State) (th : Thread) (p : Pub) : KeepsForm s (publish s th p) := by
  unfold publish
  dsimp only
  (repeat' split) <;> constructor <;> intro w <;> simp [w]
@[simp] theorem addDyn_keepsForm (s : State) (th : Thread) (n : Name) (scp : Nat) : KeepsForm s (addDyn s th n scp) := by
  unfold addDyn
  dsimp only
  (repeat' split) <;> constructor <;> intro w <;> simp [w]
@[simp] theorem placePub_keepsForm (s : State) (pa : Nat) (p : Pub) : KeepsForm s (placePub s pa p) := by
  refine .trans (writeClean_keepsForm ..) (keepsForm_foldl (fun s i => ?_) _ _)
  split
  · exact keepsForm_foldl (fun s k => setLinePoison_keepsForm ..) _ s
  · exact .refl s
@[simp] theorem awaitGot_keepsForm (s : State) (th : Thread) (p : Bool) (n : Name) (b : Nat) (d : DynSub) :
    KeepsForm s (awaitGot s th p n b d) := by
  unfold awaitGot
  dsimp only
  (repeat' split) <;> constructor <;> intro w <;> simp [w]
theorem onFrozen_keepsForm (s : State) (k : KReg) {f : Nat → Thread → State} (hf : ∀ j th, KeepsForm s (f j th)) :
    KeepsForm s (onFrozen s k f) := by
  unfold onFrozen
  split
  · exact freeze_keepsForm ..
  · exact SameMemory.keepsForm (waitFor_memory ..)
  · split
    · exact .refl s
    · exact hf _ _
@[simp] theorem subscribeSource_keepsForm (s : State) (c : Cmd) : KeepsForm s (subscribeSource s c).1 := by
  unfold subscribeSource
  dsimp only
  (repeat' split) <;> constructor <;> intro w <;> simp [w]
@[simp] theorem elemAt_keepsForm (s : State) (t : Nat) (c : Cmd) (e : Nat) : KeepsForm s (elemAt s t c e).1 := by
  have ht := translate_keepsForm s (cmdSpace s t c) (if c.out then needWr else needRd) (patA c.pat e)
  have hr := KeepsForm.refl s
  unfold elemAt
  extract_lets a w
  generalize translate s (cmdSpace s t c) (if c.out then needWr else needRd) a = r at ht ⊢
  (repeat' split) <;> first | exact hr | exact ht
@[simp] theorem elemsAt_keepsForm (s : State) (t : Nat) (c : Cmd) (x0 : List Nat) : KeepsForm s (elemsAt s t c x0).1 := by
  induction x0 generalizing s with
  | nil => exact .refl s
  | cons e l ih =>
    have he := elemAt_keepsForm s t c e
    unfold elemsAt
    split
    next h => rw [h] at he; exact he
    next h => rw [h] at he; exact he
    next u pa p h =>
      rw [h] at he
      have hl := KeepsForm.trans he (ih u)
      (split <;> rename_i hq <;> rw [hq] at hl) <;> exact hl
@[simp] theorem readRange_keepsForm (s : State) (pa n : Nat) (lost : Bool) : KeepsForm s (readRange s pa n lost).1 := by
  unfold readRange
  split_ifs <;> constructor <;> intro w <;> simp [w]
@[simp] theorem writeRange_keepsForm (s : State) (pa : Nat) (data : List Byte) (bad : List Bool) :
    KeepsForm s (writeRange s pa data bad) :=
  .trans (writeClean_keepsForm ..) (keepsForm_foldl (fun s i => setLinePoison_keepsForm ..) _ _)
@[simp] theorem chunkStart_keepsForm (s : State) (t : Nat) (c : Cmd) : KeepsForm s (chunkStart s t c) := by
  have h := elemsAt_keepsForm s t c ((upTo (chunkLen c c.next 127 1)).map (fun i => c.next + i))
  unfold chunkStart
  dsimp only
  generalize elemsAt s t c ((upTo (chunkLen c c.next 127 1)).map (fun i => c.next + i)) = r at h ⊢
  obtain ⟨u, f, p⟩ := r
  split
  next heq => cases heq; exact .trans h (SameMemory.keepsForm (putCmd_memory ..))
  next heq => cases heq; exact h
  next heq =>
    cases heq
    split
    · exact h
    · refine .trans h (.trans (SameMemory.keepsForm ?_) (SameMemory.keepsForm (putCmd_memory ..)))
      exact fetchChunk_memory ..
@[simp] theorem lostChunk_keepsForm (s : State) (c : Cmd) (k : Chunk) : KeepsForm s (lostChunk s c k) := by
  unfold lostChunk
  constructor <;> intro w <;> simp [w]
@[simp] theorem readWord_keepsForm (s : State) (t : Nat) (c : Cmd) (k : Chunk) (j : Nat) : KeepsForm s (readWord s t c k j) := by
  unfold readWord
  split_ifs <;> constructor <;> intro w <;> simp [w]
@[simp] theorem filled_keepsForm (s : State) (t : Nat) (c : Cmd) (k : Chunk) (bad : List Bool) : KeepsForm s (filled s t c k bad) := by
  unfold filled
  dsimp only
  split
  · exact SameMemory.keepsForm (updCore_memory ..)
  · exact keepsForm_foldl (fun s g => setLinePoison_keepsForm ..) _ s
@[simp] theorem writeWord_keepsForm (s : State) (t : Nat) (c : Cmd) (k : Chunk) (j : Nat) : KeepsForm s (writeWord s t c k j) := by
  unfold writeWord
  dsimp only
  (repeat' split) <;> constructor <;> intro w <;> simp [w]
@[simp] theorem chunkDone_keepsForm (s : State) (t : Nat) (c : Cmd) (k : Chunk) : KeepsForm s (chunkDone s t c k) := by
  unfold chunkDone
  split_ifs <;> constructor <;> intro w <;> simp [w]
@[simp] theorem chunkAnswer_keepsForm (s : State) (id : Nat) (ext : Ext) : KeepsForm s (chunkAnswer s id ext) := by
  unfold chunkAnswer
  dsimp only
  (repeat' split) <;> constructor <;> intro w <;> simp [w]
@[simp] theorem chunkFate_keepsForm (s : State) (t : Nat) (c : Cmd) (k : Chunk) : KeepsForm s (chunkFate s t c k) := by
  unfold chunkFate
  split_ifs <;> constructor <;> intro w <;> simp [w]
@[simp] theorem ckFind_keepsForm (s : State) (what : Nat) : KeepsForm s (ckFind s what) :=
  keepsForm_foldl (fun s r => discover_keepsForm ..) _ s
theorem jumpTo_keepsForm (s : State) (off : BitVec 28) {k : State → State} (hk : ∀ s, KeepsForm s (k s)) :
    KeepsForm s (jumpTo s off k) := by
  unfold jumpTo
  dsimp only
  split
  · exact freeze_keepsForm ..
  · exact .trans (SameMemory.keepsForm (setPc_memory ..)) (hk _)
@[simp] theorem jumpReg_keepsForm (s : State) (a : SReg) : KeepsForm s (jumpReg s a) := by
  unfold jumpReg
  dsimp only
  (repeat' split) <;> constructor <;> intro w <;> simp [w]
@[simp] theorem handlerEnd_keepsForm (s : State) (th : Thread) : KeepsForm s (handlerEnd s th) := by
  unfold handlerEnd
  dsimp only
  (repeat' split) <;> constructor <;> intro w <;> simp [w]
@[simp] theorem endThread_keepsForm (s : State) (k : Nat) (th : Thread) : KeepsForm s (endThread s k th) := by
  unfold endThread
  split <;> constructor <;> intro w <;> simp [w]
@[simp] theorem foundBad_keepsForm (s : State) (bad : Bool) (pa : Nat) : KeepsForm s (foundBad s bad pa) := by
  unfold foundBad
  split_ifs <;> constructor <;> intro w <;> simp [w]
@[simp] theorem servedBy_keepsForm (s : State) (a : Access) (i : Nat) : KeepsForm s (servedBy s a i) := by
  unfold servedBy
  split_ifs <;> constructor <;> intro w <;> simp [w]
@[simp] theorem serveWord_keepsForm (s : State) (q w : Nat) (a : Access) : KeepsForm s (serveWord s q w a) := by
  refine keepsForm_foldl (fun s e => ?_) _ s
  split
  · split
    · exact .refl s
    · exact onRoute_keepsForm _ _ _ _ (servedBy_keepsForm ..)
  · exact .refl s
@[simp] theorem serveChunk_keepsForm (s : State) (t : Nat) (c : Cmd) (k : Chunk) (j : Nat) : KeepsForm s (serveChunk s t c k j) := by
  unfold serveChunk
  split_ifs <;> constructor <;> intro w <;> simp [w]
@[simp] theorem remoteAnswer_keepsForm (s : State) (a : Access) (i : Nat) (ext : Ext) : KeepsForm s (remoteAnswer s a i ext) := by
  unfold remoteAnswer
  extract_lets l
  split
  next => exact .refl s
  next e _ =>
    split
    · exact .refl s
    · split
      · exact .refl s
      · split
        · exact .trans (SameMemory.keepsForm (foldl_memory (fun s f => elemDone_memory ..) _ s)) (SameMemory.keepsForm (acknowledge_memory ..))
        · split
          · exact elemLost_keepsForm ..
          · refine SameMemory.keepsForm (foldl_memory (fun s f => ?_) _ s)
            dsimp only
            split
            · exact elemDone_memory ..
            · exact .trans (extFor_memory ..) (elemDone_memory ..)
@[simp] theorem packetFate_keepsForm (out : Bool) (id : Nat) (s : State) (i : Nat) : KeepsForm s (packetFate out id s i) := by
  unfold packetFate
  split
  next => exact .refl s
  next a _ =>
    split
    next => exact .refl s
    next e _ =>
      dsimp only
      split_ifs
      · exact .refl s
      · exact SameMemory.keepsForm (foldl_memory (fun s f => updElem_memory ..) _ s)
      · exact SameMemory.keepsForm (foldl_memory (fun s f => .trans (freeWord_memory ..) (updElem_memory ..)) _ s)
      · refine .trans (lostStore_keepsForm ..) (SameMemory.keepsForm (foldl_memory (fun s f => ?_) _ _))
        exact .trans (freeWord_memory ..) (updElem_memory ..)
@[simp] theorem readHomes_keepsForm (s : State) (sel : HomeE → Bool) : KeepsForm s (readHomes s sel) := by
  refine keepsForm_foldl (fun s h => ?_) _ s
  constructor <;> intro w <;> simp [w]
@[simp] theorem readHome_keepsForm (s : State) (q : Sub) : KeepsForm s (readHome s q) := by
  unfold readHome
  constructor <;> intro w <;> simp [w]
@[simp] theorem homeAnswer_keepsForm (s : State) (q : Sub) (path : List Nat) : KeepsForm s (homeAnswer s q path) := by
  unfold homeAnswer
  dsimp only
  (repeat' split) <;> constructor <;> intro w <;> simp [w]
@[simp] theorem loseInputs_keepsForm (s : State) (key : Nat) (th : Thread) (l : List Name) : KeepsForm s (loseInputs s key th l) := by
  unfold loseInputs
  refine .trans ?_ (SameMemory.keepsForm (fill_memory ..))
  refine .trans ?_ (keepsForm_foldl nameLost_keepsForm l _)
  constructor <;> intro w <;> simp [w]
@[simp] theorem copyInputs_keepsForm (s : State) (key : Nat) (th : Thread) : KeepsForm s (copyInputs s key th) := by
  unfold copyInputs
  dsimp only
  split
  · exact loseInputs_keepsForm ..
  · have h := keepsForm_foldl (f := fun s x =>
      placePub (routerTurn s (tileOf key) (padBase (tileOf key) + x.off) (32 + x.pub.data.length)) (padBase (tileOf key) + x.off)
        (readCopy s (tileOf key) x.pub)) (fun s x => .trans (SameMemory.keepsForm (routerTurn_memory ..)) (placePub_keepsForm ..)) th.inputs s
    refine .trans h ?_
    split
    · exact SameMemory.keepsForm (by constructor <;> simp)
    · refine .trans (SameMemory.keepsForm ?_) (takeFault_keepsForm ..)
      constructor <;> simp
@[simp] theorem tileRead_keepsForm (s : State) (tn : Tensor) (coords base : Nat) (bonded : Bool) :
    KeepsForm s (tileRead s tn coords base bonded).1 := by
  refine keepsForm_foldl_fst (fun r o => ?_) _ (s, _)
  exact readRange_keepsForm ..
@[simp] theorem copyPages_keepsForm (s : State) (src dst n : Nat) : KeepsForm s (copyPages s src dst n) := by
  induction n with
  | zero => exact .refl s
  | succ n ih => exact .trans (.trans ih (readRange_keepsForm ..)) (writeRange_keepsForm ..)
@[simp] theorem writeText_keepsForm (s : State) (t code codeLen data : Nat) (text : List Byte) :
    KeepsForm s (writeText s t code codeLen data text) := by
  unfold writeText
  constructor <;> intro w <;> simp [w]
@[simp] theorem hostTmpl_keepsForm (s : State) (t : Nat) (tm : Template) : KeepsForm s (hostTmpl s t tm) := by
  unfold hostTmpl
  constructor <;> intro w <;> simp [w]
@[simp] theorem patchGens_keepsForm (s : State) (ctx t k : Nat) (g : Graph) (tm : Template) : KeepsForm s (patchGens s ctx t k g tm) :=
  .trans (keepsForm_foldl (fun s e => patchFound_keepsForm ..) _ s) (SameMemory.keepsForm (updCore_memory ..))
@[simp] theorem tileAnswers_keepsForm (s : State) (g : Graph) (ctx t : Nat) : KeepsForm s (tileAnswers s g ctx t) := by
  unfold tileAnswers
  constructor <;> intro w <;> simp [w]
@[simp] theorem hostHandlers_keepsForm (s : State) (g : Graph) (t : Nat) : KeepsForm s (hostHandlers s g t) := by
  unfold hostHandlers
  split
  · exact .refl s
  · exact keepsForm_foldl (fun s h => writeText_keepsForm ..) _ s
@[simp] theorem spreadHandlers_keepsForm (s : State) (g : Graph) (tiles : List Nat) : KeepsForm s (spreadHandlers s g tiles) :=
  keepsForm_foldl (fun s t => hostHandlers_keepsForm ..) _ s
@[simp] theorem distribute_keepsForm (s : State) (ctx : Nat) (g : Graph) (pl : List Placed) : KeepsForm s (distribute s ctx g pl) := by
  unfold distribute
  extract_lets tiles g1 s1 s2 s3 s4 s5 s6 s7
  have h2 : KeepsForm s s2 := .trans (t := s1) ⟨id, id⟩ (keepsForm_foldl (fun s e =>
    keepsForm_foldl (fun s t => .trans (hostTmpl_keepsForm ..) (patchGens_keepsForm ..)) _ s) _ s1)
  have h4 : KeepsForm s s4 := .trans (t := s3) (.trans h2 (spreadHandlers_keepsForm ..)) ⟨id, id⟩
  have h5 : KeepsForm s s5 := .trans h4 (keepsForm_foldl (fun s t => tileAnswers_keepsForm ..) tiles s4)
  have h6 : KeepsForm s s6 := .trans h5 (SameMemory.keepsForm (foldl_memory (atCursor_memory ctx) pl s5))
  have h7 : KeepsForm s s7 := .trans h6 (SameMemory.keepsForm (foldl_memory (fun s t => requestWake_memory ..) tiles s6))
  exact .trans h7 (SameMemory.keepsForm (.trans (startWakes_memory s7) (foldl_memory fill_memory tiles _)))
@[simp] theorem preemptThread_keepsForm (s : State) (k : Nat) : KeepsForm s (preemptThread s k) := by
  unfold preemptThread
  dsimp only
  (repeat' split) <;> constructor <;> intro w <;> simp [w]
@[simp] theorem expireOn_keepsForm (s : State) (ctx t : Nat) (done_ : List Nat) : KeepsForm s (expireOn s ctx t done_) := by
  unfold expireOn
  refine .trans ?_ (SameMemory.keepsForm (retryRecords_memory _))
  refine .trans ?_ (SameMemory.keepsForm (foldl_memory takeRecord_memory _ _))
  refine .trans ?_ (SameMemory.keepsForm (foldl_memory discardHandler_memory _ _))
  refine .trans ?_ (SameMemory.keepsForm (foldl_memory discardHandler_memory _ _))
  exact keepsForm_foldl (fun s e => preemptThread_keepsForm ..) _ s
@[simp] theorem readExtents_keepsForm (s : State) (t : Nat) (x0 : List (Nat × Nat)) : KeepsForm s (readExtents s t x0).1 := by
  induction x0 generalizing s with
  | nil => exact .refl s
  | cons e l ih => exact .trans (.trans (SameMemory.keepsForm (routerTurn_memory ..)) (readRange_keepsForm ..)) (ih _)
@[simp] theorem saveThread_keepsForm (s : State) (k : Nat) (th : Thread) (v : Saved) : KeepsForm s (saveThread s k th v) := by
  unfold saveThread
  dsimp only
  (repeat' split) <;> constructor <;> intro w <;> simp [w]
@[simp] theorem moveGraph_keepsForm (s : State) (v : Vacate) (lost : Bool) (ctx : Nat) (g : Graph) :
    KeepsForm s (moveGraph s v lost ctx g) := by
  unfold moveGraph
  extract_lets moves new s1 fresh s2 s3 s4 free g1 s5 old subs s6 tiles s7
  have h1 : KeepsForm s s1 := keepsForm_foldl (fun s x => by split <;> constructor <;> intro w <;> simp [w]) moves s
  have h2 : KeepsForm s s2 := by
    refine .trans h1 ?_
    show KeepsForm s1 (if fresh.isEmpty then s1 else spreadHandlers s1 g fresh)
    split
    · exact .refl s1
    · exact spreadHandlers_keepsForm ..
  have h4 : KeepsForm s s4 := .trans (.trans h2 (SameMemory.keepsForm (redirect_memory s2 _ _ _)))
    (SameMemory.keepsForm (foldl_memory (fun s x => moveOne_memory ..) moves s3))
  have h7 : KeepsForm s s7 := .trans (t := s6) h4 (SameMemory.keepsForm (foldl_memory (fun s t => requestWake_memory ..) tiles s6))
  exact .trans h7 (SameMemory.keepsForm (.trans (startWakes_memory s7) (foldl_memory fireReady_memory tiles _)))
@[simp] theorem rehome_keepsForm (s : State) (v : Vacate) (lost : Bool) : KeepsForm s (rehome s v lost) := by
  refine .trans (keepsForm_foldl (fun s e => ?_) _ s) (SameMemory.keepsForm (resumeAll_memory _))
  (repeat' split) <;> constructor <;> intro w <;> simp [w]
@[simp] theorem vacFinish_keepsForm (s : State) (v : Vacate) : KeepsForm s (vacFinish s v) := by
  have hF : ∃ F, vacFinish = F ∧ ∀ s v, ∃ t, F s v = t ∧ KeepsForm s t := by
    refine ⟨_, by delta vacFinish; rfl, fun s v => ?_⟩
    beta_reduce
    extract_lets s1 s2 s3 s4
    have h4 : ∃ w, s4 = logEvent s3 6 w := ⟨_, rfl⟩
    have h3 : ∃ w, s3 = msPut s2 0x813 w := ⟨_, rfl⟩
    have h2 : SameMemory s s2 := ⟨rfl, rfl⟩
    clear_value s4 s3 s2
    obtain ⟨w, rfl⟩ := h4
    obtain ⟨w', rfl⟩ := h3
    have h := (SameMemory.trans h2 (msPut_memory s2 0x813 w')).keepsForm.trans (logEvent_keepsForm _ 6 w)
    split
    · exact ⟨_, rfl, h⟩
    · exact ⟨_, rfl, h.trans (SameMemory.keepsForm (vacStart_memory ..))⟩
  obtain ⟨F, rfl, hF⟩ := hF
  obtain ⟨t, ht, h⟩ := hF s v
  rw [ht]
  exact h
@[simp] theorem vacDone_keepsForm (s : State) : KeepsForm s (vacDone s) := by
  unfold vacDone
  (repeat' split) <;> constructor <;> intro w <;> simp [w]
@[simp] theorem restoreCmds_keepsForm (s : State) (key : Nat) (th : Thread) (l : List Cmd) : KeepsForm s (restoreCmds s key th l) :=
  keepsForm_foldl (fun s c => .trans (patchFound_keepsForm ..) (SameMemory.keepsForm (updCore_memory ..))) _ s
@[simp] theorem readImage_keepsForm (s : State) (v : Saved) : KeepsForm s (readImage s v).1 := by
  unfold readImage
  constructor <;> intro w <;> simp [w]
@[simp] theorem writeExtent_keepsForm (s : State) (t : Nat) (e : Nat × List Byte × List Bool) : KeepsForm s (writeExtent s t e) := by
  unfold writeExtent
  constructor <;> intro w <;> simp [w]
@[simp] theorem restoreInto_keepsForm (s : State) (k : Nat) (v : Saved) (x : Stored) : KeepsForm s (restoreInto s k v x) := by
  unfold restoreInto
  extract_lets t cmds got th s1 s2 f s3 s4 s5 s6
  have h2 : KeepsForm s s2 := .trans (t := s1) ⟨id, id⟩ (keepsForm_foldl (fun s e => writeExtent_keepsForm s t e) _ s1)
  have h4 : KeepsForm s s4 := .trans (.trans h2 (SameMemory.keepsForm (updCore_memory s2 _ _))) (restoreCmds_keepsForm s3 _ _ _)
  have h6 : KeepsForm s s6 := by
    refine .trans (t := s5) h4 ?_
    show KeepsForm s5 (if x.fz then (if hasServer s5 th then s5 else serveRecord s5 k) else _)
    split
    · split
      · exact .refl s5
      · exact SameMemory.keepsForm (serveRecord_memory ..)
    · exact .trans (resumeThread_keepsForm ..) (SameMemory.keepsForm (updThread_memory ..))
  exact .trans (.trans h6 (SameMemory.keepsForm (wakeTile_memory s6 t))) (vacDone_keepsForm _)
@[simp] theorem emptyCore_keepsForm (s : State) (t : Nat) (answers : Bool) : KeepsForm s (emptyCore s t answers) := by
  unfold emptyCore
  extract_lets v s1 s2 s3 s4 lvl s5
  have h3 : KeepsForm s s3 := .trans (t := s2) ⟨id, id⟩ (keepsForm_foldl (fun s e => preemptThread_keepsForm ..) _ s2)
  have h4 : KeepsForm s s4 := .trans h3 (keepsForm_foldl (fun s e => by
    split
    · exact preemptThread_keepsForm ..
    · exact SameMemory.keepsForm (killThread_memory ..)) _ s3)
  have h5 : KeepsForm s s5 := .trans h4 (SameMemory.keepsForm (foldl_memory discardHandler_memory _ s4))
  exact .trans h5 (SameMemory.keepsForm (.trans (foldl_memory discardHandler_memory _ s5) (retryRecords_memory _)))
@[simp] theorem lowBegin_keepsForm (fuel : Nat) (s : State) : KeepsForm s (lowBegin fuel s) := by
  induction fuel generalizing s with
  | zero => exact .refl s
  | succ fuel ih =>
    unfold lowBegin
    split
    next l q _ _ =>
      extract_lets t s1 s2
      have h2 : KeepsForm s s2 := SameMemory.keepsForm (msSetField_memory { s1 with lowering := some l } _ _ _ _)
      split
      · split
        · exact .trans (SameMemory.keepsForm (.trans (t := msSetField s1 0x811 1 2 1) (msSetField_memory s1 _ _ _ _)
            (msSetField_memory _ _ _ _ _))) (ih _)
        · exact ih s1
      · split
        · exact .trans h2 (emptyCore_keepsForm ..)
        · exact h2
    next => exact .refl s
@[simp] theorem lowNext_keepsForm (s : State) : KeepsForm s (lowNext s) := by
  unfold lowNext
  constructor <;> intro w <;> simp [w]
@[simp] theorem classRequest_keepsForm (s : State) (v mask : Word) : KeepsForm s (classRequest s v mask) := by
  unfold classRequest
  dsimp only
  (repeat' split) <;> constructor <;> intro w <;> simp [w]
theorem keysAbove_iff {α : Type} (b : Nat) (m : Map α) :
    keysAbove b m = true ↔ (∀ e ∈ m, b ≤ e.1) ∧ m.Pairwise (fun x y => x.1 < y.1) := by
  induction m generalizing b with
  | nil => simp [keysAbove]
  | cons e m ih =>
    simp only [keysAbove, Bool.and_eq_true, decide_eq_true_eq, ih, List.mem_cons, forall_eq_or_imp, List.pairwise_cons]
    constructor
    · rintro ⟨h, hm, hp⟩
      exact ⟨⟨h, fun x hx => by have := hm x hx; omega⟩, hm, hp⟩
    · rintro ⟨⟨h, _⟩, hm, hp⟩
      exact ⟨h, hm, hp⟩

theorem poisonWf_poisonRun {m : Map Bool} (h : poisonWf m = true) (lo n : Nat) : poisonWf (poisonRun m lo n) = true := by
  simp only [poisonWf, mapWf, Bool.and_eq_true, keysAbove_iff, Nat.zero_le, implies_true, true_and, List.all_eq_true] at h ⊢
  obtain ⟨hp, ht⟩ := h
  unfold poisonRun
  constructor
  · simp only [List.pairwise_append, List.mem_filter, decide_eq_true_eq, List.mem_append, List.mem_map, mem_upTo, List.pairwise_map]
    refine ⟨⟨hp.filter _, ?_, ?_⟩, hp.filter _, ?_⟩
    · exact (List.pairwise_lt_range (n := n)).imp (fun h => Nat.add_lt_add_left h lo)
    · rintro x ⟨_, hx⟩ _ ⟨i, _, rfl⟩
      omega
    · rintro x (⟨_, hx⟩ | ⟨i, hi, rfl⟩) y ⟨_, hy⟩ <;> omega
  · simp only [List.mem_append, List.mem_filter, List.mem_map]
    rintro x ((⟨hx, _⟩ | ⟨i, _, rfl⟩) | ⟨hx, _⟩)
    · exact ht x hx
    · rfl
    · exact ht x hx

@[simp] theorem poisonSlice_keepsForm (s : State) (t off size : Nat) : KeepsForm s (poisonSlice s t off size) :=
  ⟨id, fun w => poisonWf_poisonRun w _ _⟩
@[simp] theorem openWindow_keepsForm (s : State) (o : Nat) : KeepsForm s (openWindow s o) := by
  unfold openWindow
  split <;> constructor <;> intro w <;> simp [w]
@[simp] theorem lentFault_keepsForm (lost : Nat) (s : State) (k : Nat) (th : Thread) (i va : Nat) :
    KeepsForm s (lentFault lost s k th i va) := by
  unfold lentFault
  constructor <;> intro w <;> simp [w]
@[simp] theorem loseLent_keepsForm (sudden : Bool) (lost k : Nat) (s : State) (o : Nat) : KeepsForm s (loseLent sudden lost k s o) := by
  refine keepsForm_foldl (fun s e => ?_) _ s
  (repeat' split) <;> constructor <;> intro w <;> simp [w]
@[simp] theorem newPartners_keepsForm (s : State) (t new : Nat) (sudden : Bool) : KeepsForm s (newPartners s t new sudden) := by
  unfold newPartners
  extract_lets lent losers own s1 s2 need order s3
  have h2 : KeepsForm s s2 := by
    have h (o : Option (Nat × Nat)) : KeepsForm s1 (match o with
      | some (p, 2) => if classOf s1 p == 0 then poisonSlice s1 p 0x3000000 0x1000000 else s1
      | _ => s1) := by
      (repeat' split) <;> constructor <;> intro w <;> simp [w]
    exact h own
  have h3 : KeepsForm s s3 := .trans h2 (keepsForm_foldl (fun s o =>
    .trans (SameMemory.keepsForm (assignPartner_memory ..)) (openWindow_keepsForm ..)) order s2)
  exact .trans h3 (keepsForm_foldl (fun s e => loseLent_keepsForm ..) lent s3)
@[simp] theorem moveName_keepsForm (alive : Nat → Bool) (s : State) (h : HomeE) : KeepsForm s (moveName alive s h) := by
  unfold moveName
  dsimp only
  (repeat' split) <;> constructor <;> intro w <;> simp [w]
@[simp] theorem moveNames_keepsForm (alive : Nat → Bool) (l : List Name) (s : State) : KeepsForm s (moveNames alive l s) := by
  unfold moveNames
  extract_lets moved subs lost again s1
  exact keepsForm_foldl (fun s h => moveName_keepsForm alive s h) _ s
@[simp] theorem lowTables_keepsForm (s : State) (l : Lowering) : KeepsForm s (lowTables s l) := by
  unfold lowTables
  extract_lets t old s0 toks s1 s2 s3 s4 s5
  have h2 : KeepsForm s s2 := .trans (t := s1) ⟨id, id⟩ (newPartners_keepsForm s1 _ _ _)
  have h3 : KeepsForm s s3 := by
    refine .trans h2 ?_
    show KeepsForm s2 (if losesCore old l.cls || l.cls = 3 then clearCore s2 t l.cls else s2)
    split
    · exact SameMemory.keepsForm (clearCore_memory ..)
    · exact .refl s2
  have h4 : KeepsForm s s4 := by
    refine .trans h3 ?_
    show KeepsForm s3 (if l.sudden then noteOlds { s3 with tokens := s3.tokens ++ toks } else s3)
    split
    · exact SameMemory.keepsForm (noteOlds_memory { s3 with tokens := s3.tokens ++ toks })
    · exact .refl s3
  exact .trans h4 (keepsForm_foldl (fun s e => logEvent_keepsForm ..) _ s4)
@[simp] theorem lowFinish_keepsForm (s : State) (l : Lowering) : KeepsForm s (lowFinish s l) := by
  unfold lowFinish
  extract_lets t alive s1 s2 s3 s4 s5 s6
  have h1 : KeepsForm s s1 := SameMemory.keepsForm (vacAnswer_memory { s with lowering := none })
  have h2 : KeepsForm s s2 := .trans (.trans h1 (moveNames_keepsForm alive l.moved s1)) (SameMemory.keepsForm (loseCopies_memory _))
  have h4 : KeepsForm s s4 := .trans (.trans h2 (logEvent_keepsForm s2 _ _)) (SameMemory.keepsForm (msSetField_memory s3 _ _ _ _))
  have h5 : KeepsForm s s5 := by
    refine .trans h4 ?_
    show KeepsForm s4 (if l.req then msSetField s4 0x811 1 2 0 else s4)
    split
    · exact SameMemory.keepsForm (msSetField_memory ..)
    · exact .refl s4
  have h6 : KeepsForm s s6 := .trans h5 (SameMemory.keepsForm (msSetField_memory s5 _ _ _ _))
  exact .trans (.trans h6 (SameMemory.keepsForm (foldl_memory (fun s e => wakeTile_memory ..) _ s6))) (lowNext_keepsForm _)
@[simp] theorem lowRelease_keepsForm (s : State) : KeepsForm s (lowRelease s) := by
  unfold lowRelease
  (repeat' split) <;> constructor <;> intro w <;> simp [w]
@[simp] theorem probeLowering_keepsForm (s : State) (site : Nat) (core0 : Bool) : KeepsForm s (probeLowering s site core0) := by
  unfold probeLowering
  dsimp only
  (repeat' split) <;> constructor <;> intro w <;> simp [w]
@[simp] theorem probeFailed_keepsForm (s : State) (site : Nat) (reply : Nat) (core0 : Bool) :
    KeepsForm s (probeFailed s site reply core0) := by
  unfold probeFailed
  dsimp only
  (repeat' split) <;> constructor <;> intro w <;> simp [w]
@[simp] theorem restartWork_keepsForm (s : State) : KeepsForm s (restartWork s) := by
  unfold restartWork
  dsimp only
  (repeat' split) <;> constructor <;> intro w <;> simp [w]
@[simp] theorem msWrite_keepsForm (s : State) (n : Nat) (v mask : Word) (host : Option Nat) : KeepsForm s (msWrite s n v mask host) := by
  unfold msWrite
  split_ifs <;> constructor <;> intro w <;> simp [w]
@[simp] theorem peerStore_keepsForm (s : State) (pa : Nat) (l : List PByte) : KeepsForm s (peerStore s pa l) := by
  unfold peerStore
  refine .trans (keepsForm_foldl (fun s e => ?_) _ s) (keepsForm_foldl (fun s i => ?_) _ _)
  · (repeat' split) <;> constructor <;> intro w <;> simp [w, Memory.wf_memPut, poisonWf_setD]
  · dsimp only
    split
    · exact setLinePoison_keepsForm ..
    · exact .refl s
@[simp] theorem peerPerform_keepsForm (s : State) (p : Peer) (pa : Nat) : KeepsForm s (peerPerform s p pa).1 := by
  unfold peerPerform
  dsimp only
  (repeat' split) <;> constructor <;> intro w <;> simp [w]
@[simp] theorem repatch_keepsForm (s : State) (r : Removal) : KeepsForm s (repatch s r) := by
  unfold repatch
  refine keepsForm_foldl (fun u c => ?_) _ s
  refine .trans (keepsForm_foldl (fun u d => ?_) _ u) (keepsForm_foldl (fun u x => ?_) _ _)
  · exact patchFound_keepsForm ..
  · exact patchFound_keepsForm ..
@[simp] theorem writePte_keepsForm (s : State) (m : PageMove) (frame : Nat) (mv : Bool) : KeepsForm s (writePte s m frame mv) := by
  unfold writePte
  constructor <;> intro w <;> simp [w]
@[simp] theorem moveCopy_keepsForm (s : State) (m : PageMove) : KeepsForm s (moveCopy s m) := by
  unfold moveCopy
  extract_lets n host
  have h := readRange_keepsForm s m.f1 n (stackFailed s m.f1 || siteLost s m.f1 (if m.f1 < 0x020000000000 then .hbm else .bonded))
  have hm (x : State) (f : Nat) : SameMemory x { setFrames x f n true with move := none } := setFrames_memory x f n true
  clear_value n
  split
  next u data bad hu =>
    rw [hu] at h
    split
    · exact (h.trans (writePte_keepsForm u m m.f1 false)).trans (hm _ m.f2).keepsForm
    · extract_lets u1
      have h1 : KeepsForm s u1 := by
        refine .trans h ?_
        show KeepsForm u (if host then pageToHost m.f2 data (n / 512) u else writeRange u m.f2 data bad)
        split
        · exact SameMemory.keepsForm (pageToHost_memory ..)
        · exact writeRange_keepsForm ..
      clear_value u1
      exact (h1.trans (writePte_keepsForm u1 m m.f2 false)).trans (hm _ m.f1).keepsForm
theorem onElement_keepsForm (s : State) (k : KReg) (file : File) (b : SReg) {f : Nat → Thread → Nat → State}
    (hf : ∀ j v i, KeepsForm s (f j v i)) : KeepsForm s (onElement s k file b f) := by
  refine onFrozen_keepsForm s k (fun j v => ?_)
  dsimp only
  split
  · exact freeze_keepsForm ..
  · split
    · exact SameMemory.keepsForm (waitFor_memory ..)
    · exact hf _ _ _
@[simp] theorem resumeAt_keepsForm (s : State) (j : Nat) (pc : Word) : KeepsForm s (resumeAt s j pc) := by
  unfold resumeAt
  split_ifs <;> constructor <;> intro w <;> simp [w]
theorem invStart_keepsForm (s : State) (uid : Nat) (r : Removal) : KeepsForm s (tlbInvalidate.invStart s uid r) := by
  unfold tlbInvalidate.invStart
  extract_lets ports s1 rest
  have h : KeepsForm s s1 := .trans (SameMemory.keepsForm (dropTlbs_memory s r)) (repatch_keepsForm (dropTlbs s r) r)
  split
  · exact h
  · exact .trans h (SameMemory.keepsForm (waitFor_memory { s1 with drains := rest ++ [⟨uid, s1.issue.acc0, r.ctx, r.va, ports⟩] } _))

@[simp] theorem tlbInvalidate_keepsForm (s : State) (uid : Nat) (r : Removal) : KeepsForm s (tlbInvalidate s uid r) := by
  unfold tlbInvalidate
  split
  · split
    · split
      · exact ⟨id, id⟩
      · exact SameMemory.keepsForm (waitFor_memory ..)
    · exact invStart_keepsForm ..
  · exact invStart_keepsForm ..
@[simp] theorem fetchFault_keepsForm (s : State) (k : Nat) (th : Thread) : KeepsForm s (fetchFault s k th) := by
  unfold fetchFault
  constructor <;> intro w <;> simp [w]
@[simp] theorem fetchTurn_keepsForm (s : State) (k : Nat) (pas : List Nat) : KeepsForm s (fetchTurn s k pas) :=
  .trans (SameMemory.keepsForm (bankTurns_memory ..)) (keepsForm_foldl (fun s a => discover_keepsForm ..) _ _)
@[simp] theorem fetchFound_keepsForm (s : State) (k : Nat) (th : Thread) (n : Nat) (snap : Bool) :
    KeepsForm s (fetchFound s k th n snap) := by
  unfold fetchFound
  split_ifs <;> constructor <;> intro w <;> simp [w]
@[simp] theorem fetchSome_keepsForm (s : State) (k : Nat) (th : Thread) (n : Nat) : KeepsForm s (fetchSome s k th n) := by
  unfold fetchSome
  constructor <;> intro w <;> simp [w]
@[simp] theorem openBundle_keepsForm (s : State) (k : Nat) (th : Thread) (undo : Option (List (Nat × Thread) × Map Nat)) :
    KeepsForm s (openBundle s k th undo) := by
  unfold openBundle
  split <;> constructor <;> intro w <;> simp [w]
@[simp] theorem issueOn_keepsForm (s : State) (t : Nat) (y : List Nat) : KeepsForm s (issueOn s t y) := by
  unfold issueOn
  dsimp only
  (repeat' split) <;> constructor <;> intro w <;> simp [w]
@[simp] theorem reachStage_keepsForm (s : State) (n : Nat) : KeepsForm s (reachStage s n) := by
  unfold reachStage
  extract_lets s1
  have h : KeepsForm s s1 := SameMemory.keepsForm (msSetField_memory s 0x801 60 4 n)
  exact h.trans (logEvent_keepsForm s1 7 _)
@[simp] theorem stageSix_keepsForm (s : State) : KeepsForm s (stageSix s) := by
  unfold stageSix
  split_ifs <;> constructor <;> intro w <;> simp [w]

end Sys2Proof.Machine

namespace Sys2Proof.Machine

/-! The steps. -/

/-- Every state that a step may leave keeps the form of memory. -/
structure KeepsIn (s : State) (r : Result) : Prop where
  keeps : ∀ t, r = .next t → KeepsForm s t

theorem keepsIn_next {s t : State} (h : KeepsForm s t) : KeepsIn s (.next t) := by
  refine ⟨?_⟩
  rintro _ ⟨⟩
  exact h

theorem keepsIn_onThread {s : State} {f : Thread → State} (h : ∀ th, KeepsForm s (f th)) : KeepsIn s (onThread s f) := by
  refine ⟨fun t ht => ?_⟩
  obtain ⟨th, _, rfl⟩ := onThread_next ht
  exact h th

theorem keepsIn_syllable {s : State} {g : PReg} {f : Thread → State} (h : ∀ th, KeepsForm s (f th)) : KeepsIn s (syllable s g f) :=
  keepsIn_onThread (fun th => by split; exacts [h th, .refl s])

theorem keepsIn_vectorSyllable {s : State} {g : PReg} {f : Thread → State} (h : ∀ th, KeepsForm s (f th)) :
    KeepsIn s (vectorSyllable s g f) :=
  keepsIn_onThread (fun th => by split; exacts [.refl s, h th])
theorem laneRound_keepsForm (fi : Ty → Int → Int → Int) (ff : Fmt → Mode → Nat → Nat → Nat → RRes) (g : PReg) (ty : Ty) (rm : Rm)
    (d a b : VReg) (s : State) : KeepsIn s (laneRound fi ff g ty rm d a b s) := by
  unfold laneRound
  split <;> exact keepsIn_vectorSyllable (fun th => SameMemory.keepsForm ⟨by simp, by simp⟩)
theorem lanePick_keepsForm (mx : Bool) (g : PReg) (ty : Ty) (d a b : VReg) (s : State) : KeepsIn s (lanePick mx g ty d a b s) := by
  unfold lanePick
  split <;> exact keepsIn_vectorSyllable (fun th => SameMemory.keepsForm ⟨by simp, by simp⟩)
theorem execLd_keepsForm (g : PReg) (ty : Ty) (d a b : SReg) (off : Off) (s : State) : KeepsIn s (execLd g ty d a b off s) := by
  refine keepsIn_syllable (fun th => ?_)
  exact withAccess_keepsForm _ _ _ _ _ _ (fun s l => SameMemory.keepsForm (launch_memory ..))
theorem execSt_keepsForm (g : PReg) (ty : Ty) (d a b : SReg) (off : Off) (s : State) : KeepsIn s (execSt g ty d a b off s) := by
  refine keepsIn_syllable (fun th => ?_)
  refine withAccess_keepsForm _ _ _ _ _ _ (fun s l => ?_)
  dsimp only
  split
  · exact sink_keepsForm _ _ _ _ _ (fun s => SameMemory.keepsForm (launch_memory ..))
  · exact SameMemory.keepsForm (launch_memory ..)
theorem vectorLoad_keepsForm (g : PReg) (ty : Ty) (d : VReg) (addr : Nat → Nat) (bad : Nat → Bool) (s : State) :
    KeepsIn s (vectorLoad g ty d addr bad s) := by
  refine keepsIn_vectorSyllable (fun th => ?_)
  exact withAccess_keepsForm _ _ _ _ _ _ (fun s l => SameMemory.keepsForm (launch_memory ..))
theorem vectorStore_keepsForm (kind : Nat) (merge : Bool) (g : PReg) (ty : Ty) (d : VReg) (addr : Nat → Nat) (bad : Nat → Bool) (s : State) :
    KeepsIn s (vectorStore kind merge g ty d addr bad s) := by
  refine keepsIn_vectorSyllable (fun th => ?_)
  refine withAccess_keepsForm _ _ _ _ _ _ (fun s l => ?_)
  dsimp only
  split
  · exact SameMemory.keepsForm (launch_memory ..)
  · exact sink_keepsForm _ _ _ _ _ (fun s => SameMemory.keepsForm (launch_memory ..))
theorem execPref_keepsForm (gu : PReg) (au bu : SReg) (offu : Off) (s : State) : KeepsIn s (execPref gu au bu offu s) :=
  keepsIn_onThread (fun _ => .refl s)
theorem execFence_keepsForm (g : PReg) (scp : Scope) (sets : BitVec 3) (s : State) : KeepsIn s (execFence g scp sets s) := by
  refine keepsIn_syllable (fun th => SameMemory.keepsForm ?_)
  split
  · exact flushAt_memory ..
  · exact .trans (flushAt_memory ..) (waitFor_memory ..)
theorem atomic_keepsForm (kind : AccKind) (g : PReg) (ty : Ty) (scp : Scope) (ord : Ord) (d a : SReg) (off : OffA) (x y : SVal) (s : State) :
    KeepsIn s (atomic kind g ty scp ord d a off x y s) := by
  refine keepsIn_syllable (fun th => ?_)
  refine withAccess_keepsForm _ _ _ _ _ _ (fun s l => ?_)
  split
  · refine sink_keepsForm _ _ _ _ _ (fun s => SameMemory.keepsForm ?_)
    constructor <;> simp
  · refine SameMemory.keepsForm (.trans ?_ (launch_memory ..))
    split
    · exact flushAt_memory ..
    · exact ⟨rfl, rfl⟩
theorem execVscadd_keepsForm (g : PReg) (ty : Ty) (d : VReg) (a : SReg) (b : VReg) (off : Off) (s : State) :
    KeepsIn s (execVscadd g ty d a b off s) := by
  refine keepsIn_vectorSyllable (fun th => ?_)
  refine withAccess_keepsForm _ _ _ _ _ _ (fun s l => ?_)
  dsimp only
  split
  · exact SameMemory.keepsForm (launch_memory ..)
  · exact sink_keepsForm _ _ _ _ _ (fun s => SameMemory.keepsForm (launch_memory ..))
theorem execBinapp_keepsForm (g : PReg) (ty : Ty) (d : VReg) (a : SReg) (b : VReg) (off : Off) (s : State) :
    KeepsIn s (execBinapp g ty d a b off s) := by
  refine keepsIn_vectorSyllable (fun th => ?_)
  refine binOp_keepsForm _ _ _ (fun s x => ?_)
  dsimp only
  split
  · split
    · exact .refl _
    · exact SameMemory.keepsForm (launch_memory ..)
  · refine sink_keepsForm _ _ _ _ _ (fun s => ?_)
    split
    · exact .refl _
    · exact SameMemory.keepsForm (launch_memory ..)
theorem execBinrst_keepsForm (g : PReg) (a : SReg) (off : Off) (s : State) : KeepsIn s (execBinrst g a off s) := by
  refine keepsIn_syllable (fun th => ?_)
  refine binOp_keepsForm _ _ _ (fun s x => ?_)
  dsimp only
  split
  · exact sink_keepsForm _ _ _ _ _ .refl
  · exact SameMemory.keepsForm (launch_memory ..)
theorem execVcbd_keepsForm (g : PReg) (wt : Bool) (d a b : VReg) (s : State) : KeepsIn s (execVcbd g wt d a b s) := by
  refine keepsIn_vectorSyllable (fun th => ?_)
  dsimp only
  split
  · exact SameMemory.keepsForm (waitFor_memory ..)
  · refine .trans ?_ (SameMemory.keepsForm (wrV_memory ..))
    split
    · exact keepsForm_foldl (fun s i => discover_keepsForm ..) _ s
    · exact .refl s
theorem execMshape_keepsForm (g : PReg) (sh : ShReg) (b : SReg) (off : Off12) (s : State) : KeepsIn s (execMshape g sh b off s) := by
  refine keepsIn_syllable (fun th => ?_)
  split
  · exact SameMemory.keepsForm ⟨setRegs_mem .., setRegs_poison ..⟩
  · split
    · exact SameMemory.keepsForm (waitFor_memory ..)
    · refine withAccess_keepsForm _ _ _ _ _ _ (fun s l => SameMemory.keepsForm ?_)
      split
      · exact waitFor_memory ..
      · exact .trans (launch_memory ..) (waitFor_memory ..)
theorem execMatrixOpStart_keepsForm (tile : Nat) (s : State) : KeepsIn s (execMatrixOpStart tile s) := by
  unfold execMatrixOpStart
  (repeat' split) <;> refine keepsIn_next ?_ <;> constructor <;> intro w <;> simp [w]
theorem execMatrixOperandConsume_keepsForm (tile : Nat) (s : State) : KeepsIn s (execMatrixOperandConsume tile s) := by
  unfold execMatrixOperandConsume
  dsimp only
  (repeat' split) <;> refine keepsIn_next ?_ <;> constructor <;> intro w <;> simp [w]
theorem execMatrixRowRead_keepsForm (tile row : Nat) (s : State) : KeepsIn s (execMatrixRowRead tile row s) := by
  unfold execMatrixRowRead
  dsimp only
  (repeat' split) <;> refine keepsIn_next ?_ <;> constructor <;> intro w <;> simp [w]
theorem execMatrixRowWrite_keepsForm (tile row : Nat) (s : State) : KeepsIn s (execMatrixRowWrite tile row s) := by
  unfold execMatrixRowWrite
  dsimp only
  (repeat' split) <;> refine keepsIn_next ?_ <;> constructor <;> intro w <;> simp [w]
theorem execBar_keepsForm (g : PReg) (n : BitVec 4) (s : State) : KeepsIn s (execBar g n s) := by
  refine keepsIn_syllable (fun th => ?_)
  split
  · exact freeze_keepsForm ..
  · exact SameMemory.keepsForm (barIssue_memory ..)
theorem execBarx_keepsForm (g : PReg) (k : KReg) (n : BitVec 4) (s : State) : KeepsIn s (execBarx g k n s) := by
  refine keepsIn_syllable (fun _ => onFrozen_keepsForm _ _ (fun j th => ?_))
  (repeat' split) <;> constructor <;> intro w <;> simp [w]
theorem execSwait_keepsForm (g : PReg) (a : SReg) (s : State) : KeepsIn s (execSwait g a s) := by
  refine keepsIn_syllable (fun th => ?_)
  split <;> constructor <;> intro w <;> simp [w]
theorem execScancel_keepsForm (g : PReg) (a : SReg) (s : State) : KeepsIn s (execScancel g a s) := by
  refine keepsIn_syllable (fun th => ?_)
  split <;> constructor <;> intro w <;> simp [w]
theorem execStreamDispatch_keepsForm (tile : Nat) (s : State) : KeepsIn s (execStreamDispatch tile s) := by
  unfold execStreamDispatch
  (repeat' split) <;> refine keepsIn_next ?_ <;> constructor <;> intro w <;> simp [w]
theorem execStreamChunkStart_keepsForm (tile eng : Nat) (s : State) : KeepsIn s (execStreamChunkStart tile eng s) := by
  unfold execStreamChunkStart
  (repeat' split) <;> refine keepsIn_next ?_ <;> constructor <;> intro w <;> simp [w]
theorem execStreamChunkDone_keepsForm (tile eng chunk : Nat) (s : State) : KeepsIn s (execStreamChunkDone tile eng chunk s) := by
  unfold execStreamChunkDone
  (repeat' split) <;> refine keepsIn_next ?_ <;> constructor <;> intro w <;> simp [w]
theorem execCheckpointRequest_keepsForm (v : Word) (s : State) : KeepsIn s (execCheckpointRequest v s) := by
  unfold execCheckpointRequest
  (repeat' split) <;> refine keepsIn_next ?_ <;> constructor <;> intro w <;> simp [w]
theorem execCheckpointEnd_keepsForm (res : Nat) (s : State) : KeepsIn s (execCheckpointEnd res s) := by
  unfold execCheckpointEnd
  dsimp only
  (repeat' split) <;> refine keepsIn_next ?_ <;> constructor <;> intro w <;> simp [w]
theorem execBr_keepsForm (g : PReg) (off : BitVec 28) (s : State) : KeepsIn s (execBr g off s) :=
  keepsIn_syllable (fun _ => jumpTo_keepsForm _ _ .refl)
theorem execBrp_keepsForm (g : PReg) (t : PTest) (q : PReg) (off : BitVec 28) (s : State) : KeepsIn s (execBrp g t q off s) := by
  refine keepsIn_syllable (fun _ => ?_)
  split
  · exact jumpTo_keepsForm _ _ .refl
  · exact .refl s
theorem execCall_keepsForm (g : PReg) (a : SReg) (off : BitVec 28) (s : State) : KeepsIn s (execCall g a off s) :=
  keepsIn_syllable (fun _ => jumpTo_keepsForm _ _ (fun _ => SameMemory.keepsForm (wrS_memory ..)))
theorem execLoop_keepsForm (g : PReg) (a : SReg) (off : BitVec 28) (s : State) : KeepsIn s (execLoop g a off s) := by
  refine keepsIn_syllable (fun th => ?_)
  have h (t : State) (x : SVal) : KeepsForm t (setRegs t (fun r => r.wrS a x)) := SameMemory.keepsForm ⟨setRegs_mem .., setRegs_poison ..⟩
  dsimp only
  split
  · exact .refl s
  · split
    · exact h s _
    · exact jumpTo_keepsForm _ _ (fun t => h t _)
theorem execSleep_keepsForm (g : PReg) (n : BitVec 24) (s : State) : KeepsIn s (execSleep g n s) := by
  refine keepsIn_syllable (fun th => ?_)
  split <;> constructor <;> intro w <;> simp [w]
theorem execTend_keepsForm (g : PReg) (s : State) : KeepsIn s (execTend g s) := by
  refine keepsIn_syllable (fun th => ?_)
  split
  · exact SameMemory.keepsForm (waitFor_memory ..)
  · exact endThread_keepsForm ..
theorem execBankServe_keepsForm (tile bank : Nat) (bad : Bool) (s : State) : KeepsIn s (execBankServe tile bank bad s) := by
  unfold execBankServe
  dsimp only
  (repeat' split) <;> refine keepsIn_next ?_ <;> constructor <;> intro w <;> simp [w]
theorem execAccessAtOwningPoint_keepsForm (id elem : Nat) (bad : Bool) (s : State) : KeepsIn s (execAccessAtOwningPoint id elem bad s) := by
  refine keepsIn_next ?_
  split
  · split
    · exact .refl s
    · split
      · exact .refl s
      · split
        · exact serveChunk_keepsForm ..
        · exact SameMemory.keepsForm (comeToBank_memory ..)
  · split
    · exact .refl s
    · split
      · exact .refl s
      · split
        · split
          · exact discarded_keepsForm ..
          · exact sendElem_keepsForm ..
        · split
          · exact SameMemory.keepsForm (comeToBank_memory ..)
          · split
            · exact .refl s
            · refine .trans (onRoute_keepsForm _ _ _ _ ?_) (SameMemory.keepsForm (settle_memory ..))
              exact .trans (foundBad_keepsForm ..) (performElem_keepsForm ..)
theorem execRmwPerform_keepsForm (id elem : Nat) (s : State) : KeepsIn s (execRmwPerform id elem s) := by
  refine keepsIn_next ?_
  split
  · exact .refl s
  · split
    · exact .refl s
    · split
      · exact .refl s
      · refine .trans ?_ (SameMemory.keepsForm (settle_memory ..))
        exact .trans (SameMemory.keepsForm (takeTurn_memory ..)) (onRoute_keepsForm _ _ _ _ (rmwElem_keepsForm ..))
theorem execMemoryResponse_keepsForm (id : Nat) (ext : Ext) (s : State) : KeepsIn s (execMemoryResponse id ext s) := by
  unfold execMemoryResponse
  (repeat' split) <;> refine keepsIn_next ?_ <;> constructor <;> intro w <;> simp [w]
theorem execPeerAckArrival_keepsForm (id : Nat) (err : Bool) (s : State) : KeepsIn s (execPeerAckArrival id err s) := by
  unfold execPeerAckArrival
  (repeat' split) <;> refine keepsIn_next ?_ <;> constructor <;> intro w <;> simp [w]
theorem execTranslationWalkDone_keepsForm (tile ctx va : Nat) (s : State) : KeepsIn s (execTranslationWalkDone tile ctx va s) := by
  unfold execTranslationWalkDone
  dsimp only
  (repeat' split) <;> refine keepsIn_next ?_ <;> constructor <;> intro w <;> simp [w]
theorem execTlbDrainAck_keepsForm (key : Nat) (s : State) : KeepsIn s (execTlbDrainAck key s) := by
  unfold execTlbDrainAck
  (repeat' split) <;> refine keepsIn_next ?_ <;> constructor <;> intro w <;> simp [w]
theorem execScrubLine_keepsForm (line : Nat) (bad : Bool) (s : State) : KeepsIn s (execScrubLine line bad s) := by
  unfold execScrubLine
  dsimp only
  (repeat' split) <;> refine keepsIn_next ?_ <;> constructor <;> intro w <;> simp [w]
theorem execRngRefill_keepsForm (tile : Nat) (s : State) : KeepsIn s (execRngRefill tile s) := by
  unfold execRngRefill
  dsimp only
  (repeat' split) <;> refine keepsIn_next ?_ <;> constructor <;> intro w <;> simp [w]
theorem execLostTransactionTimeout_keepsForm (id : Nat) (s : State) : KeepsIn s (execLostTransactionTimeout id s) := by
  refine keepsIn_next ?_
  split
  · split
    · exact .refl s
    · split
      · exact .trans (t := { s with olds := del id s.olds }) ⟨fun w => w, fun w => w⟩ (chunkFate_keepsForm ..)
      · exact .refl s
  · extract_lets out s1 t
    have h1 : KeepsForm s s1 := by
      show KeepsForm s (if out then { s with olds := del id s.olds } else s)
      split <;> exact ⟨fun w => w, fun w => w⟩
    split
    · exact .refl s
    · refine .trans (.trans h1 (keepsForm_foldl_fst (fun x i => ?_) _ (s1, []))) (SameMemory.keepsForm (settle_memory ..))
      split
      · exact .refl _
      · exact packetFate_keepsForm ..
theorem execPublicationArrival_keepsForm (i : Nat) (s : State) : KeepsIn s (execPublicationArrival i s) := by
  unfold execPublicationArrival
  (repeat' split) <;> refine keepsIn_next ?_ <;> constructor <;> intro w <;> simp [w]
theorem execSubscriptionArrival_keepsForm (i : Nat) (s : State) : KeepsIn s (execSubscriptionArrival i s) := by
  unfold execSubscriptionArrival
  dsimp only
  (repeat' split) <;> refine keepsIn_next ?_ <;> constructor <;> intro w <;> simp [w]
theorem execMulticastCopy_keepsForm (i : Nat) (s : State) : KeepsIn s (execMulticastCopy i s) := by
  unfold execMulticastCopy
  dsimp only
  (repeat' split) <;> refine keepsIn_next ?_ <;> constructor <;> intro w <;> simp [w]
theorem execNameMatchFree_keepsForm (i : Nat) (s : State) : KeepsIn s (execNameMatchFree i s) := by
  unfold execNameMatchFree
  dsimp only
  (repeat' split) <;> refine keepsIn_next ?_ <;> constructor <;> intro w <;> simp [w]
theorem execDropArrival_keepsForm (i : Nat) (s : State) : KeepsIn s (execDropArrival i s) := by
  unfold execDropArrival
  dsimp only
  (repeat' split) <;> refine keepsIn_next ?_ <;> constructor <;> intro w <;> simp [w]
theorem execUnsubArrival_keepsForm (i : Nat) (s : State) : KeepsIn s (execUnsubArrival i s) := by
  unfold execUnsubArrival
  dsimp only
  (repeat' split) <;> refine keepsIn_next ?_ <;> constructor <;> intro w <;> simp [w]
theorem execDeferMessage_keepsForm (i : Nat) (s : State) : KeepsIn s (execDeferMessage i s) := by
  unfold execDeferMessage
  (repeat' split) <;> refine keepsIn_next ?_ <;> constructor <;> intro w <;> simp [w]
theorem execResumeMessage_keepsForm (i : Nat) (s : State) : KeepsIn s (execResumeMessage i s) := by
  unfold execResumeMessage
  dsimp only
  (repeat' split) <;> refine keepsIn_next ?_ <;> constructor <;> intro w <;> simp [w]
theorem execPublicationDelivery_keepsForm (i : Nat) (s : State) : KeepsIn s (execPublicationDelivery i s) := by
  unfold execPublicationDelivery
  dsimp only
  (repeat' split) <;> refine keepsIn_next ?_ <;> constructor <;> intro w <;> simp [w]
theorem execDynamicDelivery_keepsForm (i : Nat) (s : State) : KeepsIn s (execDynamicDelivery i s) := by
  unfold execDynamicDelivery
  dsimp only
  (repeat' split) <;> refine keepsIn_next ?_ <;> constructor <;> intro w <;> simp [w]
theorem execInputCopyDone_keepsForm (key : Nat) (s : State) : KeepsIn s (execInputCopyDone key s) := by
  unfold execInputCopyDone
  (repeat' split) <;> refine keepsIn_next ?_ <;> constructor <;> intro w <;> simp [w]
theorem execPierSubscriptionArrival_keepsForm (i : Nat) (s : State) : KeepsIn s (execPierSubscriptionArrival i s) := by
  unfold execPierSubscriptionArrival
  dsimp only
  (repeat' split) <;> refine keepsIn_next ?_ <;> constructor <;> intro w <;> simp [w]
theorem execPierTileReadDone_keepsForm (i : Nat) (s : State) : KeepsIn s (execPierTileReadDone i s) := by
  unfold execPierTileReadDone
  dsimp only
  (repeat' split) <;> refine keepsIn_next ?_ <;> constructor <;> intro w <;> simp [w]
theorem execResidencyFill_keepsForm (s : State) : KeepsIn s (execResidencyFill s) := by
  refine keepsIn_next (SameMemory.keepsForm (resRequest_memory _ _ _ (fun tid r => ?_)))
  split
  · exact .trans (setRes_memory ..) (resEnd_memory ..)
  · exact resEnd_memory ..
theorem execResidencyPin_keepsForm (s : State) : KeepsIn s (execResidencyPin s) :=
  keepsIn_next (SameMemory.keepsForm (resRequest_memory _ _ _ (fun _ _ => .trans (setRes_memory ..) (resEnd_memory ..))))
theorem execResidencyUnpin_keepsForm (s : State) : KeepsIn s (execResidencyUnpin s) :=
  keepsIn_next (SameMemory.keepsForm (resRequest_memory _ _ _ (fun _ _ => .trans (setRes_memory ..) (resEnd_memory ..))))
theorem execResidencyEvict_keepsForm (s : State) : KeepsIn s (execResidencyEvict s) :=
  keepsIn_next (SameMemory.keepsForm (resRequest_memory _ _ _ (fun _ _ => .trans (setRes_memory ..) (resEnd_memory ..))))
theorem execFillComplete_keepsForm (tid : Nat) (s : State) : KeepsIn s (execFillComplete tid s) := by
  unfold execFillComplete
  dsimp only
  (repeat' split) <;> refine keepsIn_next ?_ <;> constructor <;> intro w <;> simp [w]
theorem execEvictRefcZero_keepsForm (tid : Nat) (s : State) : KeepsIn s (execEvictRefcZero tid s) := by
  unfold execEvictRefcZero
  dsimp only
  (repeat' split) <;> refine keepsIn_next ?_ <;> constructor <;> intro w <;> simp [w]
theorem execLaunchWindowWrite_keepsForm (port off : Nat) (bytes : List Byte) (s : State) :
    KeepsIn s (execLaunchWindowWrite port off bytes s) := by
  refine keepsIn_next (SameMemory.keepsForm ?_)
  split
  · exact foldl_memory (fun s k => hostLaunch_memory ..) _ s
  · exact ⟨rfl, rfl⟩
theorem execLaunchSlotRead_keepsForm (port slot : Nat) (s : State) : KeepsIn s (execLaunchSlotRead port slot s) := by
  unfold execLaunchSlotRead
  (repeat' split) <;> refine keepsIn_next ?_ <;> constructor <;> intro w <;> simp [w]
theorem execAdmission_keepsForm (s : State) : KeepsIn s (execAdmission s) := by
  unfold execAdmission
  dsimp only
  (repeat' split) <;> refine keepsIn_next ?_ <;> constructor <;> intro w <;> simp [w]
theorem execStageLoad_keepsForm (ctx : Nat) (s : State) : KeepsIn s (execStageLoad ctx s) := by
  unfold execStageLoad
  dsimp only
  (repeat' split) <;> refine keepsIn_next ?_ <;> constructor <;> intro w <;> simp [w]
theorem execStageEnd_keepsForm (ctx : Nat) (s : State) : KeepsIn s (execStageEnd ctx s) := by
  unfold execStageEnd
  dsimp only
  (repeat' split) <;> refine keepsIn_next ?_ <;> constructor <;> intro w <;> simp [w]
theorem execVacateRequest_keepsForm (v : Word) (host : Option Nat) (s : State) : KeepsIn s (execVacateRequest v host s) := by
  unfold execVacateRequest
  (repeat' split) <;> refine keepsIn_next ?_ <;> constructor <;> intro w <;> simp [w]
theorem execVacateRelease_keepsForm (v : Word) (host : Option Nat) (s : State) : KeepsIn s (execVacateRelease v host s) := by
  unfold execVacateRelease
  (repeat' split) <;> refine keepsIn_next ?_ <;> constructor <;> intro w <;> simp [w]
theorem execGraceExpiry_keepsForm (ctx tile : Nat) (s : State) : KeepsIn s (execGraceExpiry ctx tile s) := by
  unfold execGraceExpiry
  dsimp only
  (repeat' split) <;> refine keepsIn_next ?_ <;> constructor <;> intro w <;> simp [w]
theorem execThreadSave_keepsForm (key : Nat) (s : State) : KeepsIn s (execThreadSave key s) := by
  unfold execThreadSave
  dsimp only
  (repeat' split) <;> refine keepsIn_next ?_ <;> constructor <;> intro w <;> simp [w]
theorem execSaveComplete_keepsForm (uid : Nat) (s : State) : KeepsIn s (execSaveComplete uid s) := by
  unfold execSaveComplete
  dsimp only
  (repeat' split) <;> refine keepsIn_next ?_ <;> constructor <;> intro w <;> simp [w]
theorem execRehomePhase_keepsForm (s : State) : KeepsIn s (execRehomePhase s) := by
  unfold execRehomePhase
  dsimp only
  (repeat' split) <;> refine keepsIn_next ?_ <;> constructor <;> intro w <;> simp [w]
theorem execFoldPhase_keepsForm (s : State) : KeepsIn s (execFoldPhase s) := by
  unfold execFoldPhase
  dsimp only
  (repeat' split) <;> refine keepsIn_next ?_ <;> constructor <;> intro w <;> simp [w]
theorem execRestoreThread_keepsForm (uid : Nat) (s : State) : KeepsIn s (execRestoreThread uid s) := by
  unfold execRestoreThread
  dsimp only
  (repeat' split) <;> refine keepsIn_next ?_ <;> constructor <;> intro w <;> simp [w]
theorem execClassLoweringRequest_keepsForm (v : Word) (s : State) : KeepsIn s (execClassLoweringRequest v s) := by
  unfold execClassLoweringRequest
  (repeat' split) <;> refine keepsIn_next ?_ <;> constructor <;> intro w <;> simp [w]
theorem execSliceFailureReport_keepsForm (site : Nat) (s : State) : KeepsIn s (execSliceFailureReport site s) := by
  unfold execSliceFailureReport
  (repeat' split) <;> refine keepsIn_next ?_ <;> constructor <;> intro w <;> simp [w]
theorem execLoweringRouterDrained_keepsForm (s : State) : KeepsIn s (execLoweringRouterDrained s) := by
  refine keepsIn_next (.trans (lowNext_keepsForm s) ?_)
  split
  · exact .refl _
  · extract_lets moved
    split
    · exact .trans (lowTables_keepsForm ..) (lowRelease_keepsForm ..)
    · exact .refl _
theorem execResetToken_keepsForm (i : Nat) (s : State) : KeepsIn s (execResetToken i s) := by
  unfold execResetToken
  dsimp only
  (repeat' split) <;> refine keepsIn_next ?_ <;> constructor <;> intro w <;> simp [w]
theorem execAbortFlit_keepsForm (i : Nat) (s : State) : KeepsIn s (execAbortFlit i s) := by
  unfold execAbortFlit
  dsimp only
  (repeat' split) <;> refine keepsIn_next ?_ <;> constructor <;> intro w <;> simp [w]
theorem execHeartbeatBeat_keepsForm (site : Nat) (s : State) : KeepsIn s (execHeartbeatBeat site s) := by
  unfold execHeartbeatBeat
  (repeat' split) <;> refine keepsIn_next ?_ <;> constructor <;> intro w <;> simp [w]
theorem execHeartbeatTimeout_keepsForm (site : Nat) (s : State) : KeepsIn s (execHeartbeatTimeout site s) := by
  unfold execHeartbeatTimeout
  dsimp only
  (repeat' split) <;> refine keepsIn_next ?_ <;> constructor <;> intro w <;> simp [w]
theorem execProbeReply_keepsForm (site : Nat) (rtr core : Bool) (effu : Nat) (strnu : Bool) (s : State) :
    KeepsIn s (execProbeReply site rtr core effu strnu s) := by
  unfold execProbeReply
  dsimp only
  (repeat' split) <;> refine keepsIn_next ?_ <;> constructor <;> intro w <;> simp [w]
theorem execProbeTimeout_keepsForm (site : Nat) (s : State) : KeepsIn s (execProbeTimeout site s) := by
  unfold execProbeTimeout
  dsimp only
  (repeat' split) <;> refine keepsIn_next ?_ <;> constructor <;> intro w <;> simp [w]
theorem execProbeRetry_keepsForm (site : Nat) (s : State) : KeepsIn s (execProbeRetry site s) := by
  unfold execProbeRetry
  dsimp only
  (repeat' split) <;> refine keepsIn_next ?_ <;> constructor <;> intro w <;> simp [w]
theorem execKeystoneProbe_keepsForm (ok : Bool) (s : State) : KeepsIn s (execKeystoneProbe ok s) := by
  unfold execKeystoneProbe
  dsimp only
  (repeat' split) <;> refine keepsIn_next ?_ <;> constructor <;> intro w <;> simp [w]
theorem execSensorUpdate_keepsForm (reg : Nat) (reading : BitVec 16) (s : State) : KeepsIn s (execSensorUpdate reg reading s) := by
  refine keepsIn_next ?_
  split
  · exact .refl s
  · split
    · exact SameMemory.keepsForm (msSetField_memory ..)
    · extract_lets r s1
      have h1 : SameMemory s s1 := .trans (msPut_memory s reg r.1) (foldl_memory thrUpdate_memory bays _)
      split
      · exact .trans (.trans h1.keepsForm (logEvent_keepsForm s1 2 _)) (SameMemory.keepsForm (startAlert_memory ..))
      · exact h1.keepsForm
theorem execThrottleApply_keepsForm (tile : Nat) (s : State) : KeepsIn s (execThrottleApply tile s) := by
  unfold execThrottleApply
  (repeat' split) <;> refine keepsIn_next ?_ <;> constructor <;> intro w <;> simp [w]
theorem execDroopStretch_keepsForm (bay : Nat) (s : State) : KeepsIn s (execDroopStretch bay s) := by
  unfold execDroopStretch
  (repeat' split) <;> refine keepsIn_next ?_ <;> constructor <;> intro w <;> simp [w]
theorem execRegisterWrite_keepsForm (port n : Nat) (v : Word) (be : BitVec 8) (s : State) : KeepsIn s (execRegisterWrite port n v be s) := by
  unfold execRegisterWrite
  (repeat' split) <;> refine keepsIn_next ?_ <;> constructor <;> intro w <;> simp [w]
theorem execMsixUnmask_keepsForm (port vec : Nat) (s : State) : KeepsIn s (execMsixUnmask port vec s) := by
  unfold execMsixUnmask
  (repeat' split) <;> refine keepsIn_next ?_ <;> constructor <;> intro w <;> simp [w]
theorem execBar2Read_keepsForm (port off len : Nat) (s : State) : KeepsIn s (execBar2Read port off len s) := by
  unfold execBar2Read
  dsimp only
  (repeat' split) <;> refine keepsIn_next ?_ <;> constructor <;> intro w <;> simp [w]
theorem execBar2Write_keepsForm (port off : Nat) (bytes : List Byte) (ep : Bool) (s : State) :
    KeepsIn s (execBar2Write port off bytes ep s) := by
  refine keepsIn_next ?_
  split
  · exact .refl s
  · split
    · exact .refl s
    · next pa _ _ =>
      extract_lets s1
      have h : KeepsForm s s1 := SameMemory.keepsForm (deckTurn_memory s pa bytes.length)
      split
      · exact .trans h (keepsForm_foldl (fun s i => setLinePoison_keepsForm ..) _ _)
      · exact .trans h (writeClean_keepsForm ..)
theorem execBar2Atomicop_keepsForm (port off : Nat) (op : HostAtomic) (size : Nat) (a b : Word) (s : State) :
    KeepsIn s (execBar2Atomicop port off op size a b s) := by
  unfold execBar2Atomicop
  dsimp only
  (repeat' split) <;> refine keepsIn_next ?_ <;> constructor <;> intro w <;> simp [w]
theorem execPeerAccessArrival_keepsForm (p : Peer) (s : State) : KeepsIn s (execPeerAccessArrival p s) := by
  unfold execPeerAccessArrival
  dsimp only
  (repeat' split) <;> refine keepsIn_next ?_ <;> constructor <;> intro w <;> simp [w]
theorem execCufortResendTimeout_keepsForm (id : Nat) (s : State) : KeepsIn s (execCufortResendTimeout id s) := by
  unfold execCufortResendTimeout
  dsimp only
  split
  · exact keepsIn_next (.refl s)
  · split
    · exact keepsIn_next (.refl s)
    · split
      · exact keepsIn_next ⟨fun w => w, fun w => w⟩
      · have h := execMemoryResponse_keepsForm id ⟨[], false, true⟩ { s with resends := setD 0 id 0 s.resends }
        exact ⟨fun t ht => ⟨(h.keeps t ht).1, (h.keeps t ht).2⟩⟩
theorem execCufortLinkUpDown_keepsForm (port : Nat) (up : Bool) (s : State) : KeepsIn s (execCufortLinkUpDown port up s) := by
  unfold execCufortLinkUpDown
  (repeat' split) <;> refine keepsIn_next ?_ <;> constructor <;> intro w <;> simp [w]
theorem execAsyncFaultArrival_keepsForm (i : Nat) (s : State) : KeepsIn s (execAsyncFaultArrival i s) := by
  unfold execAsyncFaultArrival
  (repeat' split) <;> refine keepsIn_next ?_ <;> constructor <;> intro w <;> simp [w]
theorem execEvictorTrigger_keepsForm (ctx va frame : Nat) (s : State) : KeepsIn s (execEvictorTrigger ctx va frame s) := by
  unfold execEvictorTrigger
  dsimp only
  (repeat' split) <;> refine keepsIn_next ?_ <;> constructor <;> intro w <;> simp [w]
theorem execEvictorPageMove_keepsForm (s : State) : KeepsIn s (execEvictorPageMove s) := by
  unfold execEvictorPageMove
  dsimp only
  (repeat' split) <;> refine keepsIn_next ?_ <;> constructor <;> intro w <;> simp [w]
theorem execFrzinf_keepsForm (g : PReg) (d : SReg) (k : KReg) (b : SReg) (s : State) : KeepsIn s (execFrzinf g d k b s) := by
  refine keepsIn_syllable (fun _ => onFrozen_keepsForm _ _ (fun j v => ?_))
  dsimp only
  split <;> constructor <;> intro w <;> simp [w]
theorem execFrzrd_keepsForm (g : PReg) (file : File) (d : BitVec 6) (k : KReg) (b : SReg) (s : State) :
    KeepsIn s (execFrzrd g file d k b s) := by
  refine keepsIn_syllable (fun _ => onElement_keepsForm _ _ _ _ (fun j v i => ?_))
  dsimp only
  split <;> constructor <;> intro w <;> simp [w]
theorem execFrzwr_keepsForm (g : PReg) (file : File) (k : KReg) (b : SReg) (a : BitVec 6) (s : State) :
    KeepsIn s (execFrzwr g file k b a s) := by
  refine keepsIn_syllable (fun _ => onElement_keepsForm _ _ _ _ (fun j v i => ?_))
  dsimp only
  split <;> constructor <;> intro w <;> simp [w]
theorem execResume_keepsForm (g : PReg) (k : KReg) (s : State) : KeepsIn s (execResume g k s) :=
  keepsIn_syllable (fun _ => onFrozen_keepsForm _ _ (fun _ _ => resumeAt_keepsForm ..))
theorem execResumeAtPc_keepsForm (g : PReg) (k : KReg) (a : SReg) (s : State) : KeepsIn s (execResumeAtPc g k a s) := by
  refine keepsIn_syllable (fun _ => onFrozen_keepsForm _ _ (fun j v => ?_))
  dsimp only
  split
  · exact freeze_keepsForm ..
  · exact resumeAt_keepsForm ..
theorem execKill_keepsForm (g : PReg) (k : KReg) (s : State) : KeepsIn s (execKill g k s) :=
  keepsIn_syllable (fun _ => onFrozen_keepsForm _ _ (fun _ _ => SameMemory.keepsForm (killThread_memory ..)))
theorem execIssueCycle_keepsForm (tile : Nat) (s : State) : KeepsIn s (execIssueCycle tile s) := by
  unfold execIssueCycle
  dsimp only
  (repeat' split) <;> refine keepsIn_next ?_ <;> constructor <;> intro w <;> simp [w]
theorem execBoostThread_keepsForm (key : Nat) (s : State) : KeepsIn s (execBoostThread key s) := by
  unfold execBoostThread
  (repeat' split) <;> refine keepsIn_next ?_ <;> constructor <;> intro w <;> simp [w]
theorem execBundleCommit_keepsForm (key : Nat) (s : State) : KeepsIn s (execBundleCommit key s) := by
  unfold execBundleCommit
  (repeat' split) <;> refine keepsIn_next ?_ <;> constructor <;> intro w <;> simp [w]
theorem execSleepExpiry_keepsForm (key : Nat) (s : State) : KeepsIn s (execSleepExpiry key s) := by
  unfold execSleepExpiry
  (repeat' split) <;> refine keepsIn_next ?_ <;> constructor <;> intro w <;> simp [w]
theorem execPowerGood_keepsForm (s : State) : KeepsIn s (execPowerGood s) := by
  unfold execPowerGood
  dsimp only
  (repeat' split) <;> refine keepsIn_next ?_ <;> constructor <;> intro w <;> simp [w]
theorem execStageAdvance_keepsForm (s : State) : KeepsIn s (execStageAdvance s) := by
  unfold execStageAdvance
  (repeat' split) <;> refine keepsIn_next ?_ <;> constructor <;> intro w <;> simp [w]
theorem execSafeBayReady_keepsForm (s : State) : KeepsIn s (execSafeBayReady s) := by
  unfold execSafeBayReady
  (repeat' split) <;> refine keepsIn_next ?_ <;> constructor <;> intro w <;> simp [w]
theorem execWaferTablesLoaded_keepsForm (s : State) : KeepsIn s (execWaferTablesLoaded s) := by
  refine keepsIn_next ?_
  split
  · extract_lets t u v
    have ht : SameMemory s t := msSetField_memory s 0x801 60 4 5
    have hu : SameMemory t u := assignPartners_memory t bays
    have hv : SameMemory u v := foldl_memory (fun s e => leaveSlot_memory ..) _ u
    exact .trans (.trans ((ht.trans hu).trans hv).keepsForm (logEvent_keepsForm v 7 _)) (stageSix_keepsForm ..)
  · exact .refl s
theorem execHbmTrainingEnd_keepsForm (stack : Nat) (ok : Bool) (s : State) : KeepsIn s (execHbmTrainingEnd stack ok s) := by
  unfold execHbmTrainingEnd
  dsimp only
  (repeat' split) <;> refine keepsIn_next ?_ <;> constructor <;> intro w <;> simp [w]
theorem execFullWafer_keepsForm (s : State) : KeepsIn s (execFullWafer s) := by
  unfold execFullWafer
  dsimp only
  (repeat' split) <;> refine keepsIn_next ?_ <;> constructor <;> intro w <;> simp [w]
theorem execBayWakeRequest_keepsForm (bay : Nat) (s : State) : KeepsIn s (execBayWakeRequest bay s) := by
  unfold execBayWakeRequest
  (repeat' split) <;> refine keepsIn_next ?_ <;> constructor <;> intro w <;> simp [w]
theorem execWakeComplete_keepsForm (bay : Nat) (s : State) : KeepsIn s (execWakeComplete bay s) := by
  refine keepsIn_next (SameMemory.keepsForm ?_)
  split
  · exact ⟨rfl, rfl⟩
  · have h := startWakes_memory { s with inrush := s.inrush.erase bay, gated := setD false bay false s.gated }
    exact SameMemory.trans h (foldl_memory (fun s t => .trans (fireReady_memory ..) (takeRecord_memory ..)) _ _)
theorem execBayGateRequest_keepsForm (bay : Nat) (s : State) : KeepsIn s (execBayGateRequest bay s) := by
  unfold execBayGateRequest
  (repeat' split) <;> refine keepsIn_next ?_ <;> constructor <;> intro w <;> simp [w]
theorem execVst_keepsForm (g : PReg) (ty : Ty) (d : VReg) (a b : SReg) (off : Off) (s : State) : KeepsIn s (execVst g ty d a b off s) :=
  vectorStore_keepsForm ..
theorem execVscatter_keepsForm (g : PReg) (ty : Ty) (d : VReg) (a : SReg) (b : VReg) (off : Off) (s : State) :
    KeepsIn s (execVscatter g ty d a b off s) :=
  vectorStore_keepsForm ..
theorem execVld_keepsForm (g : PReg) (ty : Ty) (d : VReg) (a b : SReg) (off : Off) (s : State) : KeepsIn s (execVld g ty d a b off s) :=
  vectorLoad_keepsForm ..
theorem execVgather_keepsForm (g : PReg) (ty : Ty) (d : VReg) (a : SReg) (b : VReg) (off : Off) (s : State) :
    KeepsIn s (execVgather g ty d a b off s) :=
  vectorLoad_keepsForm ..
theorem execAmo_keepsForm (g : PReg) (op : AmoOp) (ty : Ty) (scp : Scope) (ord : Ord) (d a : SReg) (off : OffA) (b : SReg) (s : State) :
    KeepsIn s (execAmo g op ty scp ord d a off b s) :=
  atomic_keepsForm ..
theorem execAcas_keepsForm (g : PReg) (ty : Ty) (scp : Scope) (ord : Ord) (d a : SReg) (off : OffA) (b c : SReg) (s : State) :
    KeepsIn s (execAcas g ty scp ord d a off b c s) :=
  atomic_keepsForm ..

theorem exec_scalar_keepsForm {i : Instr} {e : Syl} (h : encodeSyl i = some e) (hc : e.cls = 0) (s : State) : KeepsIn s (exec i s) := by
  cases i <;> cases h <;> cases hc
  case add.refl.refl | addImmediate.refl.refl | sub.refl.refl | subImmediate.refl.refl | mul.refl.refl | mulImmediate.refl.refl |
      mulh.refl.refl | mulhImmediate.refl.refl | divS.refl.refl | divSImmediate.refl.refl | rem.refl.refl | remImmediate.refl.refl |
      andS.refl.refl | andSImmediate.refl.refl | orS.refl.refl | orSImmediate.refl.refl | xor.refl.refl | xorImmediate.refl.refl |
      andn.refl.refl | andnImmediate.refl.refl | shl.refl.refl | shlImmediate.refl.refl | shr.refl.refl | shrImmediate.refl.refl |
      sra.refl.refl | sraImmediate.refl.refl | minS.refl.refl | minSImmediate.refl.refl | maxS.refl.refl | maxSImmediate.refl.refl |
      cmp.refl.refl | cmpImmediate.refl.refl | sel.refl.refl | limm.refl.refl | clz.refl.refl | popc.refl.refl | bfx.refl.refl |
      bfi.refl.refl | fadd.refl.refl | fsub.refl.refl | fmul.refl.refl | ffma.refl.refl | fmin.refl.refl | fmax.refl.refl | fcmp.refl.refl |
      fcvt.refl.refl | pand.refl.refl | por.refl.refl | pxor.refl.refl | pnot.refl.refl | pcnt.refl.refl | pfirst.refl.refl | pmov.refl.refl
      | pmovFromScalar.refl.refl | pmovToScalar.refl.refl =>
    exact keepsIn_syllable (fun th => by constructor <;> intro w <;> simp [w])

theorem exec_vector_keepsForm {i : Instr} {e : Syl} (h : encodeSyl i = some e) (hc : e.cls = 1) (s : State) : KeepsIn s (exec i s) := by
  cases i <;> cases h <;> cases hc
  case vadd.refl.refl | vsub.refl.refl | vmul.refl.refl =>
    exact laneRound_keepsForm ..
  case vmulh.refl.refl | vand.refl.refl | vor.refl.refl | vxor.refl.refl | vshl.refl.refl | vshr.refl.refl | vsra.refl.refl |
      vabs.refl.refl | vneg.refl.refl | vmov.refl.refl | vclass.refl.refl | vrcp.refl.refl | vrsq.refl.refl | vexp2.refl.refl |
      vlog2.refl.refl | vcmp.refl.refl | vsel.refl.refl | vbcast.refl.refl | viota.refl.refl | vperm.refl.refl | vcomp.refl.refl |
      vscan.refl.refl | vcvt.refl.refl | vqnt.refl.refl | vdqnt.refl.refl | vpack.refl.refl | vunpk.refl.refl =>
    exact keepsIn_vectorSyllable (fun th => by constructor <;> intro w <;> simp [w])
  case vmin.refl.refl | vmax.refl.refl =>
    exact lanePick_keepsForm ..
  case vfma.refl.refl | vext.refl.refl | vins.refl.refl | vred.refl.refl =>
    refine keepsIn_vectorSyllable (fun th => ?_)
    dsimp only
    (repeat' split) <;> constructor <;> intro w <;> simp [w]
  case vcbd.refl.refl => exact execVcbd_keepsForm ..

theorem exec_keepsForm (i : Instr) (s : State) : KeepsIn s (exec i s) := by
  cases i
  case add | addImmediate | sub | subImmediate | mul | mulImmediate | mulh | mulhImmediate | divS | divSImmediate | rem | remImmediate
      | andS | andSImmediate | orS | orSImmediate | xor | xorImmediate | andn | andnImmediate | shl | shlImmediate | shr | shrImmediate |
      sra | sraImmediate | minS | minSImmediate | maxS | maxSImmediate | cmp | cmpImmediate | sel | limm | clz | popc | bfx | bfi | fadd |
      fsub | fmul | ffma | fmin | fmax | fcmp | fcvt | pand | por | pxor | pnot | pcnt | pfirst | pmov | pmovFromScalar | pmovToScalar =>
    exact exec_scalar_keepsForm rfl rfl s
  case vadd | vsub | vmul | vmulh | vmin | vmax | vand | vor | vxor | vshl | vshr | vsra | vfma | vabs | vneg | vmov | vclass | vrcp |
      vrsq | vexp2 | vlog2 | vcmp | vsel | vbcast | viota | vperm | vcomp | vext | vins | vred | vscan | vcvt | vqnt | vdqnt | vcbd | vpack
      | vunpk =>
    exact exec_vector_keepsForm rfl rfl s
  case mzero | mrd | mwr | drop | gset | jmp | ret | nop | yieldC | trap | csrr | tlbinv | tlbinvAll =>
    exact keepsIn_syllable (fun th => by constructor <;> intro w <;> simp [w])
  case mma | mmacb | pub | subs | unsub | await | spawn | strm | csrw | clsrd =>
    refine keepsIn_syllable (fun th => ?_)
    dsimp only
    (repeat' split) <;> constructor <;> intro w <;> simp [w]
  case linkReplay | tailPublish =>
    exact keepsIn_next ⟨fun w => w, fun w => w⟩
  case ld => exact execLd_keepsForm ..
  case st => exact execSt_keepsForm ..
  case vld => exact execVld_keepsForm ..
  case vst => exact execVst_keepsForm ..
  case vgather => exact execVgather_keepsForm ..
  case vscatter => exact execVscatter_keepsForm ..
  case pref g a b off => exact execPref_keepsForm g a b off s
  case fence => exact execFence_keepsForm ..
  case amo => exact execAmo_keepsForm ..
  case acas => exact execAcas_keepsForm ..
  case vscadd => exact execVscadd_keepsForm ..
  case binapp => exact execBinapp_keepsForm ..
  case binrst => exact execBinrst_keepsForm ..
  case mshape => exact execMshape_keepsForm ..
  case matrixOpStart => exact execMatrixOpStart_keepsForm ..
  case matrixOperandConsume => exact execMatrixOperandConsume_keepsForm ..
  case matrixRowRead => exact execMatrixRowRead_keepsForm ..
  case matrixRowWrite => exact execMatrixRowWrite_keepsForm ..
  case bar => exact execBar_keepsForm ..
  case barx => exact execBarx_keepsForm ..
  case swait => exact execSwait_keepsForm ..
  case scancel => exact execScancel_keepsForm ..
  case streamDispatch => exact execStreamDispatch_keepsForm ..
  case streamChunkStart => exact execStreamChunkStart_keepsForm ..
  case streamChunkDone => exact execStreamChunkDone_keepsForm ..
  case checkpointRequest => exact execCheckpointRequest_keepsForm ..
  case checkpointEnd => exact execCheckpointEnd_keepsForm ..
  case br => exact execBr_keepsForm ..
  case brp => exact execBrp_keepsForm ..
  case call => exact execCall_keepsForm ..
  case loop => exact execLoop_keepsForm ..
  case sleep => exact execSleep_keepsForm ..
  case tend => exact execTend_keepsForm ..
  case bankServe => exact execBankServe_keepsForm ..
  case accessAtOwningPoint => exact execAccessAtOwningPoint_keepsForm ..
  case rmwPerform => exact execRmwPerform_keepsForm ..
  case memoryResponse => exact execMemoryResponse_keepsForm ..
  case peerAckArrival => exact execPeerAckArrival_keepsForm ..
  case translationWalkDone => exact execTranslationWalkDone_keepsForm ..
  case tlbDrainAck => exact execTlbDrainAck_keepsForm ..
  case scrubLine => exact execScrubLine_keepsForm ..
  case rngRefill => exact execRngRefill_keepsForm ..
  case lostTransactionTimeout => exact execLostTransactionTimeout_keepsForm ..
  case publicationArrival => exact execPublicationArrival_keepsForm ..
  case subscriptionArrival => exact execSubscriptionArrival_keepsForm ..
  case multicastCopy => exact execMulticastCopy_keepsForm ..
  case nameMatchFree => exact execNameMatchFree_keepsForm ..
  case dropArrival => exact execDropArrival_keepsForm ..
  case unsubArrival => exact execUnsubArrival_keepsForm ..
  case deferMessage => exact execDeferMessage_keepsForm ..
  case resumeMessage => exact execResumeMessage_keepsForm ..
  case publicationDelivery => exact execPublicationDelivery_keepsForm ..
  case dynamicDelivery => exact execDynamicDelivery_keepsForm ..
  case inputCopyDone => exact execInputCopyDone_keepsForm ..
  case pierSubscriptionArrival => exact execPierSubscriptionArrival_keepsForm ..
  case pierTileReadDone => exact execPierTileReadDone_keepsForm ..
  case residencyFill => exact execResidencyFill_keepsForm ..
  case residencyPin => exact execResidencyPin_keepsForm ..
  case residencyUnpin => exact execResidencyUnpin_keepsForm ..
  case residencyEvict => exact execResidencyEvict_keepsForm ..
  case fillComplete => exact execFillComplete_keepsForm ..
  case evictRefcZero => exact execEvictRefcZero_keepsForm ..
  case launchWindowWrite => exact execLaunchWindowWrite_keepsForm ..
  case launchSlotRead => exact execLaunchSlotRead_keepsForm ..
  case admission => exact execAdmission_keepsForm ..
  case stageLoad => exact execStageLoad_keepsForm ..
  case stageEnd => exact execStageEnd_keepsForm ..
  case vacateRequest => exact execVacateRequest_keepsForm ..
  case vacateRelease => exact execVacateRelease_keepsForm ..
  case graceExpiry => exact execGraceExpiry_keepsForm ..
  case threadSave => exact execThreadSave_keepsForm ..
  case saveComplete => exact execSaveComplete_keepsForm ..
  case rehomePhase => exact execRehomePhase_keepsForm ..
  case foldPhase => exact execFoldPhase_keepsForm ..
  case restoreThread => exact execRestoreThread_keepsForm ..
  case classLoweringRequest => exact execClassLoweringRequest_keepsForm ..
  case sliceFailureReport => exact execSliceFailureReport_keepsForm ..
  case loweringRouterDrained => exact execLoweringRouterDrained_keepsForm ..
  case resetToken => exact execResetToken_keepsForm ..
  case abortFlit => exact execAbortFlit_keepsForm ..
  case heartbeatBeat => exact execHeartbeatBeat_keepsForm ..
  case heartbeatTimeout => exact execHeartbeatTimeout_keepsForm ..
  case probeReply site rtr core eff strn => exact execProbeReply_keepsForm site rtr core eff strn s
  case probeTimeout => exact execProbeTimeout_keepsForm ..
  case probeRetry => exact execProbeRetry_keepsForm ..
  case keystoneProbe => exact execKeystoneProbe_keepsForm ..
  case sensorUpdate => exact execSensorUpdate_keepsForm ..
  case throttleApply => exact execThrottleApply_keepsForm ..
  case droopStretch => exact execDroopStretch_keepsForm ..
  case registerWrite => exact execRegisterWrite_keepsForm ..
  case msixUnmask => exact execMsixUnmask_keepsForm ..
  case bar2Read => exact execBar2Read_keepsForm ..
  case bar2Write => exact execBar2Write_keepsForm ..
  case bar2Atomicop => exact execBar2Atomicop_keepsForm ..
  case peerAccessArrival => exact execPeerAccessArrival_keepsForm ..
  case cufortResendTimeout => exact execCufortResendTimeout_keepsForm ..
  case cufortLinkUpDown => exact execCufortLinkUpDown_keepsForm ..
  case asyncFaultArrival => exact execAsyncFaultArrival_keepsForm ..
  case evictorTrigger => exact execEvictorTrigger_keepsForm ..
  case evictorPageMove => exact execEvictorPageMove_keepsForm ..
  case frzinf => exact execFrzinf_keepsForm ..
  case frzrd => exact execFrzrd_keepsForm ..
  case frzwr => exact execFrzwr_keepsForm ..
  case resume => exact execResume_keepsForm ..
  case resumeAtPc => exact execResumeAtPc_keepsForm ..
  case kill => exact execKill_keepsForm ..
  case issueCycle => exact execIssueCycle_keepsForm ..
  case boostThread => exact execBoostThread_keepsForm ..
  case bundleCommit => exact execBundleCommit_keepsForm ..
  case sleepExpiry => exact execSleepExpiry_keepsForm ..
  case powerGood => exact execPowerGood_keepsForm ..
  case stageAdvance => exact execStageAdvance_keepsForm ..
  case safeBayReady => exact execSafeBayReady_keepsForm ..
  case waferTablesLoaded => exact execWaferTablesLoaded_keepsForm ..
  case hbmTrainingEnd => exact execHbmTrainingEnd_keepsForm ..
  case fullWafer => exact execFullWafer_keepsForm ..
  case bayWakeRequest => exact execBayWakeRequest_keepsForm ..
  case wakeComplete => exact execWakeComplete_keepsForm ..
  case bayGateRequest => exact execBayGateRequest_keepsForm ..

end Sys2Proof.Machine

namespace Sys2Proof.Machine

theorem KeepsIn.of_same {s u : State} {r : Result} (h : KeepsIn u r) (hs : SameMemory s u) : KeepsIn s r :=
  ⟨fun t ht => hs.keepsForm.trans (h.keeps t ht)⟩

theorem runSyllable_keepsForm (src : Regs) (s : State) (e : Nat × Instr) : KeepsIn s (runSyllable exec src s e) :=
  (exec_keepsForm e.2 _).of_same ⟨rfl, rfl⟩

theorem runAll_keepsForm (src : Regs) (l : List (Nat × Instr)) (s : State) : KeepsIn s (runAll exec src l s) := by
  induction l generalizing s with
  | nil => exact keepsIn_next (.refl s)
  | cons e l ih =>
    have he := runSyllable_keepsForm src s e
    unfold runAll
    split
    next t ht => exact ⟨fun u hu => (he.keeps t ht).trans ((ih t).keeps u hu)⟩
    next => exact he

theorem runThrough_keepsForm {src : Regs} {l : List (Nat × Instr)} {s : State} {r : Result} (h : runThrough exec src l s = some r) :
    KeepsIn s r := by
  induction l generalizing s with
  | nil => cases h; exact keepsIn_next (.refl s)
  | cons e l ih =>
    have he := runSyllable_keepsForm src s e
    unfold runThrough at h
    split at h
    next t ht =>
      split_ifs at h
      exact ⟨fun u hu => (he.keeps t ht).trans ((ih h).keeps u hu)⟩
    next => cases h; exact he

theorem runOpened_keepsForm (s : State) (l : List (Nat × Instr)) : KeepsIn s (runOpened exec s l) := by
  unfold runOpened
  extract_lets w
  split
  · exact runSyllable_keepsForm ..
  · split
    · split
      · exact runAll_keepsForm ..
      · exact runSyllable_keepsForm ..
    · split
      · split
        next t h =>
          refine keepsIn_next (((runThrough_keepsForm h).keeps t rfl).trans ?_)
          split
          · exact .refl t
          · exact SameMemory.keepsForm (committed_memory ..)
        next h => exact runThrough_keepsForm h
        next => exact keepsIn_next (SameMemory.keepsForm (waitFor_memory ..))
      · exact runAll_keepsForm ..

theorem closeIssue_keepsForm {s : State} {r : Result} (h : KeepsIn s r) : KeepsIn s (closeIssue r) := by
  unfold closeIssue
  split
  next t => exact keepsIn_next ⟨(h.keeps t rfl).1, (h.keeps t rfl).2⟩
  next => exact h

theorem runBundle_keepsForm {s : State} {r : Result} (h : KeepsIn s r) : KeepsIn s (runBundle exec r) := by
  unfold runBundle
  split
  next t =>
    have ht := h.keeps t rfl
    split
    · exact h
    · have ho := (runOpened_keepsForm { t with issue := { t.issue with todo := [] } } t.issue.todo).of_same (s := t) ⟨rfl, rfl⟩
      exact closeIssue_keepsForm ⟨fun u hu => ht.trans (ho.keeps u hu)⟩
  · exact h

theorem step_keepsForm (s : State) : KeepsIn s (step s) :=
  runBundle_keepsForm ((exec_keepsForm _ _).of_same (nextStep_memory exec s))

/-- Settles O4: memory and the poison bits change only where a byte or a poison bit is written, which keeps their form; every
operation, syllable, event and bundle is made of such writes. -/
theorem stepKeepsMemoryForm : Obligations.StepKeepsMemoryForm := by
  intro s t hs ht
  have h := (step_keepsForm s).keeps t ht
  simp only [State.inv, Bool.and_eq_true] at hs ⊢
  exact ⟨h.1 hs.1, h.2 hs.2⟩

end Sys2Proof.Machine

namespace Sys2Proof.Machine

/-! The frame of the syllables on registers. -/

/-- R112: a state differs from another in registers of the thread of the bundle alone: those that are named, its flags and its queue. -/
structure OwnRegs (w : List RegName) (s t : State) : Prop where
  state : t = { s with threads := t.threads, issue := { s.issue with flags := t.issue.flags, drawn := t.issue.drawn } }
  others : ∀ k, k ≠ s.issue.key → threadAt t k = threadAt s k
  drawn : s.issue.drawn ≤ t.issue.drawn
  regs : ∀ th, issuer s = some th → ∃ r, issuer t = some { th with regs := r } ∧ KeepsBut w th.regs r ∧
    (∃ f, r.fflags = th.regs.fflags ||| f ∧ t.issue.flags = s.issue.flags ||| f) ∧
    (t.issue.drawn = s.issue.drawn → r.rng = th.regs.rng)

theorem KeepsBut.refl (w : List RegName) (r : Regs) : KeepsBut w r r := by
  constructor <;> simp

theorem KeepsBut.trans {w : List RegName} {r q p : Regs} (h : KeepsBut w r q) (h' : KeepsBut w q p) : KeepsBut w r p where
  s n hn := (h'.s n hn).trans (h.s n hn)
  v n hn := (h'.v n hn).trans (h.v n hn)
  p n hn := (h'.p n hn).trans (h.p n hn)
  sh := h'.sh.trans h.sh
  g := h'.g.trans h.g
  k0 := h'.k0.trans h.k0
  rm := h'.rm.trans h.rm
  psink := h'.psink.trans h.psink
  seed := h'.seed.trans h.seed
  tag := h'.tag.trans h.tag
  inst := h'.inst.trans h.inst
  boost := h'.boost.trans h.boost
  lprio := h'.lprio.trans h.lprio
  level := h'.level.trans h.level

theorem OwnRegs.refl (w : List RegName) (s : State) : OwnRegs w s s where
  state := rfl
  others _ _ := rfl
  drawn := le_rfl
  regs th h := ⟨th.regs, h, .refl w _, ⟨0, by simp, by simp⟩, fun _ => rfl⟩

theorem OwnRegs.key {w : List RegName} {s t : State} (h : OwnRegs w s t) : t.issue.key = s.issue.key := by
  rw [h.state]

theorem OwnRegs.trans {w : List RegName} {s t u : State} (h : OwnRegs w s t) (h' : OwnRegs w t u) : OwnRegs w s u where
  state := by
    have hs := h'.state
    rw [h.state] at hs
    exact hs
  others k hk := (h'.others k (h.key ▸ hk)).trans (h.others k hk)
  drawn := h.drawn.trans h'.drawn
  regs th hth := by
    obtain ⟨r, hr, hk, ⟨f, hf, hf'⟩, hd⟩ := h.regs th hth
    obtain ⟨q, hq, hk', ⟨f2, hf2, hf2'⟩, hd'⟩ := h'.regs _ hr
    refine ⟨q, hq, hk.trans hk', ⟨f ||| f2, by rw [hf2, hf, BitVec.or_assoc], by rw [hf2', hf', BitVec.or_assoc]⟩, fun e => ?_⟩
    have h1 := h.drawn
    have h2 := h'.drawn
    exact (hd' (by omega)).trans (hd (by omega))

/-- A state with flags raised and random bits drawn, and registers set to match. -/
theorem ownRegs_setRegs {w : List RegName} {s u : State} {f : Regs → Regs} (f0 : Flags)
    (hu : u = { s with issue := { s.issue with flags := s.issue.flags ||| f0, drawn := u.issue.drawn } })
    (hd : s.issue.drawn ≤ u.issue.drawn) (hk : ∀ r, KeepsBut w r (f r)) (hf : ∀ r, (f r).fflags = r.fflags ||| f0)
    (hr : u.issue.drawn = s.issue.drawn → ∀ r, (f r).rng = r.rng) : OwnRegs w s (setRegs u f) := by
  have hkey : u.issue.key = s.issue.key := by rw [hu]
  have hth : u.threads = s.threads := by rw [hu]
  have hi : issuer u = issuer s := by unfold issuer threadAt; rw [hkey, hth]
  constructor
  case state =>
    obtain ⟨m, h⟩ := setRegs_eq u f
    rw [h, hu]
  case others =>
    intro k hne
    rw [threadAt_setRegs u f (hkey ▸ hne)]
    unfold threadAt
    rw [hth]
  case drawn =>
    rw [setRegs_issue]
    exact hd
  case regs =>
    intro th h
    refine ⟨f th.regs, by rw [issuer_setRegs, hi, h]; rfl, hk _, ⟨f0, hf _, ?_⟩, fun e => hr (by rwa [setRegs_issue] at e) _⟩
    rw [setRegs_issue, hu]

/-- Registers set that are no flags and no queue. -/
theorem ownRegs_put {w : List RegName} {s : State} {f : Regs → Regs} (hk : ∀ r, KeepsBut w r (f r))
    (hf : ∀ r, (f r).fflags = r.fflags) (hr : ∀ r, (f r).rng = r.rng) : OwnRegs w s (setRegs s f) :=
  ownRegs_setRegs 0 (by simp) le_rfl hk (fun r => by simp [hf]) (fun _ r => hr r)

theorem wrS_eq (r : Regs) (d : SReg) (x : SVal) : ∃ m, r.wrS d x = { r with s := m } := by
  unfold Regs.wrS
  split
  exacts [⟨r.s, rfl⟩, ⟨_, rfl⟩]

theorem wrP_eq (r : Regs) (d : PReg) (x : Word) : ∃ m, r.wrP d x = { r with p := m } := by
  unfold Regs.wrP
  split
  exacts [⟨r.p, rfl⟩, ⟨_, rfl⟩]

theorem keepsBut_wrS {w : List RegName} {d : SReg} (h : .s d ∈ w) (r : Regs) (x : SVal) : KeepsBut w r (r.wrS d x) := by
  have hs (n : SReg) (hn : RegName.s n ∉ w) : (r.wrS d x).rdS n = r.rdS n := by
    have hne : n ≠ d := fun e => hn (e ▸ h)
    rw [rdS_wrS, if_neg hne]
    split
    next h0 => rw [h0]; rfl
    next => rfl
  obtain ⟨m, hm⟩ := wrS_eq r d x
  rw [hm] at hs ⊢
  exact { KeepsBut.refl w r with s := hs }

theorem keepsBut_wrP {w : List RegName} {d : PReg} (h : .p d ∈ w) (r : Regs) (x : Word) : KeepsBut w r (r.wrP d x) := by
  have hp (n : PReg) (hn : RegName.p n ∉ w) : (r.wrP d x).rdP n = r.rdP n := by
    have hne : n ≠ d := fun e => hn (e ▸ h)
    rw [rdP_wrP, if_neg hne]
    split
    next h0 => rw [h0]; rfl
    next => rfl
  obtain ⟨m, hm⟩ := wrP_eq r d x
  rw [hm] at hp ⊢
  exact { KeepsBut.refl w r with p := hp }

theorem keepsBut_wrV {w : List RegName} {d : VReg} (h : .v d ∈ w) (r : Regs) (x : Vec) : KeepsBut w r (r.wrV d x) :=
  { KeepsBut.refl w r with
    v := fun n hn => by
      have hne : n ≠ d := fun e => hn (e ▸ h)
      rw [rdV_wrV, if_neg hne] }

theorem ownRegs_setS {w : List RegName} {d : SReg} (h : .s d ∈ w) (s : State) (x : SVal) : OwnRegs w s (setRegs s (fun r => r.wrS d x)) :=
  ownRegs_put (fun r => keepsBut_wrS h r x) (fun r => by obtain ⟨m, hm⟩ := wrS_eq r d x; rw [hm])
    (fun r => by obtain ⟨m, hm⟩ := wrS_eq r d x; rw [hm])

theorem ownRegs_setP {w : List RegName} {d : PReg} (h : .p d ∈ w) (s : State) (x : Word) : OwnRegs w s (setRegs s (fun r => r.wrP d x)) :=
  ownRegs_put (fun r => keepsBut_wrP h r x) (fun r => by obtain ⟨m, hm⟩ := wrP_eq r d x; rw [hm])
    (fun r => by obtain ⟨m, hm⟩ := wrP_eq r d x; rw [hm])

theorem ownRegs_setV {w : List RegName} {d : VReg} (h : .v d ∈ w) (s : State) (x : Vec) : OwnRegs w s (setRegs s (fun r => r.wrV d x)) :=
  ownRegs_put (fun r => keepsBut_wrV h r x) (fun _ => rfl) (fun _ => rfl)

theorem ownRegs_raise (w : List RegName) (s : State) (f : Flags) : OwnRegs w s (raise s f) :=
  ownRegs_setRegs f rfl le_rfl (fun r => { KeepsBut.refl w r with }) (fun _ => rfl) (fun _ _ => rfl)

theorem ownRegs_draw (w : List RegName) (s : State) (m : Mode) : OwnRegs w s (draw s m).1 := by
  unfold draw
  extract_lets e
  split
  · refine ownRegs_setRegs (f := fun r => if s.issue.seeded then r else { r with rng := e.2 }) (u := { s with issue := { s.issue with drawn := s.issue.drawn + 1 } }) 0 ?_ (Nat.le_succ _)
      (fun r => ?_) (fun r => ?_) (fun h => absurd h (Nat.succ_ne_self _))
    · rw [show s.issue.flags ||| (0 : Flags) = s.issue.flags from BitVec.or_zero]
    · split
      exacts [.refl w r, { KeepsBut.refl w r with }]
    · split <;> exact (BitVec.or_zero).symm
  · exact .refl w s

theorem ownRegs_wrRounded {w : List RegName} {d : SReg} (h : .s d ∈ w) (s : State) (ty : Ty) (r : RRes) (p : Bool) :
    OwnRegs w s (wrRounded s d ty r p) :=
  (ownRegs_raise w s r.flags).trans (ownRegs_setS h _ _)

theorem ownRegs_wrLanes {w : List RegName} {d : VReg} (h : .v d ∈ w) (s : State) (g : PReg) (f : Nat → LaneRes) :
    OwnRegs w s (wrLanes s g d f) :=
  (ownRegs_raise w s _).trans (ownRegs_setV h _ _)

theorem syllable_owns {w : List RegName} {s t : State} {g : PReg} {f : Thread → State} (h : syllable s g f = .next t)
    (hf : ∀ th, OwnRegs w s (f th)) : OwnRegs w s t := by
  obtain ⟨th, _, ⟨_, rfl⟩ | ⟨_, rfl⟩⟩ := syllable_next h
  exacts [hf th, .refl w _]

theorem vectorSyllable_owns {w : List RegName} {s t : State} {g : PReg} {f : Thread → State} (h : vectorSyllable s g f = .next t)
    (hf : ∀ th, OwnRegs w s (f th)) : OwnRegs w s t := by
  obtain ⟨th, _, ⟨_, rfl⟩ | ⟨_, rfl⟩⟩ := vectorSyllable_next h
  exacts [hf th, .refl w _]

theorem ownRegs_wrS {w : List RegName} {d : SReg} (h : .s d ∈ w) (s : State) (v : Nat) (p : Bool) : OwnRegs w s (wrS s d v p) :=
  ownRegs_setS h s _

theorem ownRegs_wrP {w : List RegName} {d : PReg} (h : .p d ∈ w) (s : State) (v : Word) : OwnRegs w s (wrP s d v) :=
  ownRegs_setP h s v

theorem ownRegs_wrV {w : List RegName} {d : VReg} (h : .v d ∈ w) (s : State) (g : PReg) (f : Nat → Lane) : OwnRegs w s (wrV s g d f) :=
  ownRegs_setV h s _

section
variable {i : Instr} {e : Syl} {s t : State}

theorem exec_scalar_owns (he : encodeSyl i = some e) (hc : e.cls = 0) (h : exec i s = .next t) : OwnRegs (writesOf i) s t := by
  cases i <;> cases he <;> cases hc
  case fadd.refl.refl | fsub.refl.refl | fmul.refl.refl | ffma.refl.refl | fcvt.refl.refl =>
    exact syllable_owns h (fun _ => (ownRegs_draw _ s _).trans (ownRegs_wrRounded List.mem_cons_self ..))
  case fcmp.refl.refl =>
    exact syllable_owns h (fun _ => (ownRegs_raise _ s _).trans (ownRegs_wrP List.mem_cons_self ..))
  case cmp.refl.refl | cmpImmediate.refl.refl | pand.refl.refl | por.refl.refl | pxor.refl.refl | pnot.refl.refl | pfirst.refl.refl |
      pmov.refl.refl | pmovFromScalar.refl.refl =>
    exact syllable_owns h (fun _ => ownRegs_wrP List.mem_cons_self ..)
  case sel.refl.refl =>
    exact syllable_owns h (fun _ => ownRegs_setS List.mem_cons_self ..)
  all_goals exact syllable_owns h (fun _ => ownRegs_wrS List.mem_cons_self ..)

theorem laneRound_owns {w : List RegName} {fi : Ty → Int → Int → Int} {ff : Fmt → Mode → Nat → Nat → Nat → RRes} {g : PReg} {ty : Ty}
    {rm : Rm} {d a b : VReg} (hd : .v d ∈ w) (h : laneRound fi ff g ty rm d a b s = .next t) : OwnRegs w s t := by
  unfold laneRound at h
  split at h
  · exact vectorSyllable_owns h (fun _ => ownRegs_wrV hd ..)
  · exact vectorSyllable_owns h (fun _ => (ownRegs_draw _ s _).trans (ownRegs_wrLanes hd ..))

theorem lanePick_owns {w : List RegName} {mx : Bool} {g : PReg} {ty : Ty} {d a b : VReg} (hd : .v d ∈ w)
    (h : lanePick mx g ty d a b s = .next t) : OwnRegs w s t := by
  unfold lanePick at h
  split at h <;> exact vectorSyllable_owns h (fun _ => ownRegs_wrV hd ..)

theorem exec_vector_owns (he : encodeSyl i = some e) (hc : e.cls = 1) (hw : ∀ g d a b, i ≠ .vcbd g true d a b)
    (h : exec i s = .next t) : OwnRegs (writesOf i) s t := by
  cases i <;> cases he <;> cases hc
  case vcbd.refl.refl g wt d a b =>
    cases wt
    case true => exact absurd rfl (hw g d a b)
    case false => exact vectorSyllable_owns h (fun _ => ownRegs_wrV List.mem_cons_self ..)
  case vadd.refl.refl | vsub.refl.refl | vmul.refl.refl => exact laneRound_owns List.mem_cons_self h
  case vmin.refl.refl | vmax.refl.refl => exact lanePick_owns List.mem_cons_self h
  case vfma.refl.refl =>
    refine vectorSyllable_owns h (fun _ => ?_)
    dsimp only
    split
    · exact ownRegs_wrV List.mem_cons_self ..
    · exact (ownRegs_draw _ s _).trans (ownRegs_wrLanes List.mem_cons_self ..)
  case vrcp.refl.refl | vrsq.refl.refl | vexp2.refl.refl | vlog2.refl.refl | vcvt.refl.refl =>
    exact vectorSyllable_owns h (fun _ => (ownRegs_draw _ s _).trans (ownRegs_wrLanes List.mem_cons_self ..))
  case vdqnt.refl.refl => exact vectorSyllable_owns h (fun _ => ownRegs_wrLanes List.mem_cons_self ..)
  case vpack.refl.refl =>
    exact vectorSyllable_owns h (fun _ => ((ownRegs_draw _ s _).trans (ownRegs_raise _ _ _)).trans (ownRegs_wrV List.mem_cons_self ..))
  case vqnt.refl.refl =>
    exact vectorSyllable_owns h (fun _ => ((ownRegs_draw _ s _).trans (ownRegs_wrLanes List.mem_cons_self ..)).trans
      (ownRegs_setV (List.mem_cons_of_mem _ List.mem_cons_self) ..))
  case vcmp.refl.refl =>
    exact vectorSyllable_owns h (fun _ => (ownRegs_raise _ s _).trans (ownRegs_wrP List.mem_cons_self ..))
  case vred.refl.refl g ty op rm d a =>
    refine vectorSyllable_owns h (fun _ => ?_)
    dsimp only
    have hd := ownRegs_draw (writesOf (.vred g ty op rm d a)) s (if redDraws ty op then modeOf s rm else .rne)
    split
    · exact hd
    · exact (hd.trans (ownRegs_raise _ _ _)).trans (ownRegs_wrS List.mem_cons_self ..)
  case vscan.refl.refl =>
    exact vectorSyllable_owns h (fun _ => ((ownRegs_draw _ s _).trans (ownRegs_raise _ _ _)).trans (ownRegs_setV List.mem_cons_self ..))
  case vext.refl.refl =>
    refine vectorSyllable_owns h (fun _ => ?_)
    dsimp only
    split
    exacts [ownRegs_wrS List.mem_cons_self .., .refl _ s]
  case vins.refl.refl =>
    refine vectorSyllable_owns h (fun _ => ?_)
    dsimp only
    split
    exacts [ownRegs_setV List.mem_cons_self .., .refl _ s]
  case vcomp.refl.refl =>
    exact vectorSyllable_owns h (fun _ => ownRegs_setV List.mem_cons_self ..)
  all_goals exact vectorSyllable_owns h (fun _ => ownRegs_wrV List.mem_cons_self ..)

end

end Sys2Proof.Machine

namespace Sys2Proof.Machine

/-- R261: a state in which reads have found uncorrectable words of another, whose lines are poisoned now. -/
structure Finds (s u : State) : Prop where
  state : u = { s with poison := u.poison, struck := u.struck }
  keeps : ∀ a, linePoison s a = true → linePoison u a = true
  finds : ∀ a, linePoison u a = true → linePoison s a = true ∨ isStruck s (.line (a / 64)) = true
  struck : ∀ x, isStruck u x = true → isStruck s x = true

theorem Finds.refl (s : State) : Finds s s := ⟨rfl, fun _ h => h, fun _ h => .inl h, fun _ h => h⟩

theorem Finds.trans {s t u : State} (h : Finds s t) (h' : Finds t u) : Finds s u where
  state := by
    have hs := h'.state
    rw [h.state] at hs
    exact hs
  keeps a ha := h'.keeps a (h.keeps a ha)
  finds a ha := by
    rcases h'.finds a ha with ht | ht
    · exact h.finds a ht
    · exact .inr (h.struck _ ht)
  struck x hx := h.struck x (h'.struck x hx)

theorem Finds.foldl {β : Type} {f : State → β → State} (h : ∀ s x, Finds s (f s x)) (l : List β) (s : State) : Finds s (l.foldl f s) := by
  induction l generalizing s with
  | nil => exact .refl s
  | cons x l ih => exact (h s x).trans (ih _)

/-- A line outside device memory in which an error is found: the count of no slice changes. -/
theorem finds_foundLine {s : State} {k : Nat} (hk : isStruck s (.line k) = true) (hd : 0x039000000000 ≤ 64 * k) :
    Finds s (foundLine s (64 * k)) := by
  have hf : foundLine s (64 * k) = setLinePoison s (64 * k) true := by
    unfold foundLine
    rw [if_neg]
    simp
    omega
  have hl : 64 * k / 64 = k := by omega
  rw [hf]
  constructor
  case state => rfl
  case keeps =>
    intro a ha
    rw [linePoison_setLinePoison]
    split
    exacts [rfl, ha]
  case finds =>
    intro a ha
    rw [linePoison_setLinePoison, hl] at ha
    split at ha
    next e => rw [e]; exact .inr hk
    next => exact .inl ha
  case struck =>
    intro x hx
    simp only [isStruck, setLinePoison, strikesLeft, List.any_filter, List.any_eq_true, Bool.and_eq_true] at hx ⊢
    obtain ⟨e, he, _, hx⟩ := hx
    exact ⟨e, he, hx⟩

theorem finds_discover {pa n : Nat} (hd : 0x039000000000 + 64 ≤ pa) (s : State) : Finds s (discover s pa n) := by
  refine Finds.foldl (fun s x => ?_) _ s
  split
  case h_1 k hx =>
    split
    next h =>
      simp only [Bool.and_eq_true, decide_eq_true_eq] at h
      obtain ⟨⟨h1, h2⟩, h3⟩ := h
      exact finds_foundLine (hx ▸ h3) (by omega)
    next => exact .refl s
  all_goals exact .refl s

theorem entryPa_ge (t b : Nat) : 0x039000000000 + 64 ≤ entryPa t b := by
  unfold entryPa padBase padSize
  split_ifs <;> omega

@[simp] theorem updThread_issue (s : State) (k : Nat) (f : Thread → Thread) : (updThread s k f).issue = s.issue := by
  obtain ⟨m, h⟩ := updThread_eq s k f
  rw [h]

@[simp] theorem holdFor_flow (s : State) (w : Wait) : (holdFor s w).issue.flow = .wait := by
  simp [holdFor, updIssuer]

@[simp] theorem unissue_flow (s : State) (l : List (Nat × Thread)) (last : Map Nat) : (unissue s l last).issue.flow = .wait := by
  have h (x : State) : (l.foldl (fun s e => setThread s e.1 e.2) x).issue = x.issue := foldl_keeps State.issue (fun s e => setThread s e.1 e.2) (fun _ _ => rfl) l x
  simp [unissue, updIssuer, updCore, h]

@[simp] theorem waitFor_flow (s : State) (w : Wait) : (waitFor s w).issue.flow = .wait := by
  unfold waitFor
  (repeat' split) <;> simp

/-- R261, R479: VCBD with the writable table waits, or it writes its lanes with what its reads of the table found. -/
theorem vcbd_finds {g : PReg} {d a b : VReg} {s t : State} (h : exec (.vcbd g true d a b) s = .next t)
    (ht : t.issue.flow = .go) : ∃ u, Finds s u ∧ OwnRegs (writesOf (.vcbd g true d a b)) u t := by
  obtain ⟨th, hi, ⟨_, rfl⟩ | ⟨_, rfl⟩⟩ := vectorSyllable_next h
  · dsimp only at ht ⊢
    split at ht
    next => simp at ht
    next hw =>
      rw [if_neg hw]
      refine ⟨_, ?_, ownRegs_wrV List.mem_cons_self ..⟩
      exact Finds.foldl (fun u i => finds_discover (entryPa_ge _ _) u) _ s
  · exact ⟨t, .refl t, .refl _ t⟩

/-- Settles O16: every S and V syllable that goes on draws, raises flags and writes the registers that it names, in this order; VCBD with
the writable table finds errors before. -/
theorem registerSyllablesKeepTheRest : Obligations.RegisterSyllablesKeepTheRest := by
  intro i s t th hi hth hgo h ht
  have hu : ∃ u, Finds s u ∧ OwnRegs (writesOf i) u t ∧ ((∀ g d a b, i ≠ .vcbd g true d a b) → u = s) := by
    by_cases hv : ∃ g d a b, i = .vcbd g true d a b
    · obtain ⟨g, d, a, b, rfl⟩ := hv
      obtain ⟨u, hf, ho⟩ := vcbd_finds h ht
      exact ⟨u, hf, ho, fun hn => absurd rfl (hn g d a b)⟩
    · have hn : ∀ g d a b, i ≠ .vcbd g true d a b := fun g d a b e => hv ⟨g, d, a, b, e⟩
      refine ⟨s, .refl s, ?_, fun _ => rfl⟩
      unfold onRegisters at hi
      split at hi
      next e he =>
        simp only [Bool.or_eq_true, beq_iff_eq] at hi
        rcases hi with hc | hc
        · exact exec_scalar_owns he hc h
        · exact exec_vector_owns he hc hn h
      next => cases hi
  obtain ⟨u, hf, ho, hn⟩ := hu
  have hstate := ho.state
  rw [hf.state] at hstate
  have hmem : t.mem = s.mem := by rw [hstate]
  have hpoison : t.poison = u.poison := by rw [hstate]
  have hstruck : t.struck = u.struck := by rw [hstate]
  have hissue : u.issue = s.issue := by rw [hf.state]
  have hthreads : u.threads = s.threads := by rw [hf.state]
  have hline (a : Nat) : linePoison t a = linePoison u a := by rw [linePoison, hpoison]; rfl
  obtain ⟨r, hr, hk, hfl, hrng⟩ := ho.regs th (by unfold issuer threadAt at hth ⊢; rwa [hissue, hthreads])
  rw [hissue] at hfl hrng
  refine ⟨?_, ?_, ?_, ?_, ?_, ?_, r, hr, hk, hfl, hrng⟩
  · rw [hpoison, hstruck]
    exact hstate
  · intro pa
    rw [readByte, hmem]
    rfl
  · intro hw
    rw [hpoison, hstruck, hn hw]
    exact ⟨rfl, rfl⟩
  · exact fun a ha => hline a ▸ hf.keeps a ha
  · exact fun a ha => hf.finds a (hline a ▸ ha)
  · intro k hne
    rw [ho.others k (hissue ▸ hne), threadAt, hthreads]
    rfl

end Sys2Proof.Machine

namespace Sys2Proof.Machine

/-! Branches. -/

theorem jumpTo_inside {s : State} {off : BitVec 28} (h0 : 0 ≤ target s off) (h1 : target s off < codeEnd s) (k : State → State) :
    jumpTo s off k = k (setPc s (target s off).toNat) := by
  unfold jumpTo
  extract_lets t
  rw [if_neg]
  simp only [Bool.or_eq_true, decide_eq_true_eq]
  omega

theorem jumpTo_outside {s : State} {off : BitVec 28} (h : target s off < 0 ∨ (codeEnd s : Int) ≤ target s off) (k : State → State) :
    jumpTo s off k = freeze s .perm (some (target s off % 2 ^ 53).toNat) 0 := by
  unfold jumpTo
  extract_lets t
  rw [if_pos]
  simpa only [Bool.or_eq_true, decide_eq_true_eq] using h

theorem testP_eq (t : PTest) (x : Word) : testP t x = match t with
    | .any => x != 0
    | .all => x == BitVec.allOnes 64
    | .none => x == 0 := by
  cases t <;> rfl

section
variable {s : State} {th : Thread} {g : PReg}

theorem exec_br (h : Runs s th g) (off : BitVec 28) : exec (.br g off) s = .next (jumpTo s off (fun s => s)) := syllable_runs h _

theorem exec_brp (h : Runs s th g) (t : PTest) (q : PReg) (off : BitVec 28) :
    exec (.brp g t q off) s = .next (if testP t (rdP s q) then jumpTo s off (fun s => s) else s) := syllable_runs h _

theorem exec_call (h : Runs s th g) (a : SReg) (off : BitVec 28) :
    exec (.call g a off) s = .next (jumpTo s off (fun t => wrS t a (nextPc s) false)) := syllable_runs h _

theorem exec_loop (h : Runs s th g) (a : SReg) (off : BitVec 28) : exec (.loop g a off) s =
    .next (if (rdS s a).val = 0 then s
      else if (rdS s a).val - 1 = 0 then putS s a ((rdS s a).val - 1) (rdS s a).poison
      else jumpTo s off (fun t => putS t a ((rdS s a).val - 1) (rdS s a).poison)) := syllable_runs h _

theorem exec_jmp (h : Runs s th g) (a : SReg) : exec (.jmp g a) s = .next (jumpReg s a) := syllable_runs h _

theorem exec_ret (h : Runs s th g) (a : SReg) : exec (.ret g a) s = .next (jumpReg s a) := syllable_runs h _

end

/-- Settles O40: `jumpTo` and `jumpReg` take their target where it lies in the scratchpad, and freeze where it does not. -/
theorem branchesAndJumps : Obligations.BranchesAndJumps := by
  constructor
  case left =>
    intro s th g q t a off hr tgt next go x hit
    have hhit : testP t (rdP s q) = hit := testP_eq t _
    have hx : 1 < x.val.toNat → x.val ≠ 0 ∧ x.val - 1 ≠ 0 := by
      intro h
      constructor <;> bv_omega
    rw [exec_br hr, exec_brp hr, exec_call hr, exec_loop hr, hhit]
    refine ⟨fun h => by rw [h]; rfl, fun h => by rw [if_pos h], fun h => ?_, fun h0 h1 => ?_, fun h => ?_⟩
    · rw [if_neg (by rw [h]; decide), if_pos (by rw [h]; rfl), h]
      rfl
    · have hj (k : State → State) : jumpTo s off k = k go := jumpTo_inside h0 h1 k
      refine ⟨by rw [hj], fun h => by rw [h, if_pos rfl, hj], by rw [hj]; rfl, fun h => ?_⟩
      rw [if_neg (hx h).1, if_neg (hx h).2, hj]
    · have hj (k : State → State) : jumpTo s off k = freeze s .perm (some (tgt % 2 ^ 53).toNat) 0 := jumpTo_outside h k
      refine ⟨by rw [hj], fun hh => by rw [hh, if_pos rfl, hj], by rw [hj], fun hh => ?_⟩
      rw [if_neg (hx hh).1, if_neg (hx hh).2, hj]
  case right =>
    intro s th g a hr v
    rw [exec_jmp hr, exec_ret hr]
    have hb : jumpReg s a = if v % 8 != 0 then freeze s .align (some v) 8
      else if padSize s.tile ≤ v then freeze s .perm (some v) 0 else setPc s v := rfl
    rw [hb]
    refine ⟨fun h => ?_, fun h h1 => ?_, fun h h1 => ?_⟩
    · rw [if_pos (by simpa using h)]
      exact ⟨rfl, rfl⟩
    · rw [if_neg (by simpa using h), if_pos h1]
      exact ⟨rfl, rfl⟩
    · rw [if_neg (by simpa using h), if_neg (by omega)]
      exact ⟨rfl, rfl⟩

end Sys2Proof.Machine

namespace Sys2Proof.Machine

/-! Control registers. -/

section
variable {s : State} {th : Thread} {g : PReg}

theorem exec_csrr (h : Runs s th g) (d : SReg) (n : BitVec 12) : exec (.csrr g d n) s = .next (putS s d (csrBefore s n.toNat) false) :=
  (syllable_runs h _).trans (congrArg _ (wrS_toNat ..))

theorem exec_csrw_machine (h : Runs s th g) {n : BitVec 12} (hn : 0x800 ≤ n.toNat) (a : SReg) :
    exec (.csrw g n a) s = .next (msWrite s n.toNat (rdS s a).val (BitVec.allOnes 64) none) := by
  refine (syllable_runs h _).trans ?_
  dsimp only
  rw [if_neg (by omega)]

theorem exec_csrw (h : Runs s th g) {n : BitVec 12} (hn : n.toNat < 0x800) (hne : n ≠ 4) (a : SReg) : exec (.csrw g n a) s =
    .next (setRegs s (fun r => csrPut (th.kind == .task) s.issue.flags r n.toNat (rdS s a).val)) := by
  refine (syllable_runs h _).trans ?_
  dsimp only
  rw [if_pos hn, if_neg hne]

theorem exec_csrw_seed (h : Runs s th g) (a : SReg) : exec (.csrw g 4 a) s =
    .next (setRegs { s with issue := { s.issue with seeded := true } } (fun r => putSeed r (rdS s a).val)) := syllable_runs h _

theorem exec_clsrd (h : Runs s th g) (d a : SReg) : exec (.clsrd g d a) s =
    .next (if msField s 0x811 0 1 = 1 then waitFor s .cond
      else putS s d (classRecord s ((rdS s a).val.toNat % 256) ((rdS s a).val.toNat / 256 % 256)) (rdS s a).poison) := by
  refine (syllable_runs h _).trans ?_
  dsimp only
  rw [wrS_toNat]

end

theorem rngWordOf_fields (r : Regs) (h : r.rng.cnt ≤ 4) : (rngWordOf r).toNat % 16 = r.rng.cnt ∧
    (rngWordOf r).extractLsb' 4 2 = r.rng.head ∧ (rngWordOf r).extractLsb' 16 48 = r.rng.ctr := by
  have hh := r.rng.head.isLt
  have hc := r.rng.ctr.isLt
  have hw : (rngWordOf r).toNat = r.rng.cnt + r.rng.head.toNat * 16 + r.rng.ctr.toNat * 65536 := by
    rw [rngWordOf, BitVec.toNat_ofNat]
    omega
  refine ⟨by omega, BitVec.eq_of_toNat_eq ?_, BitVec.eq_of_toNat_eq ?_⟩
  all_goals
    rw [BitVec.extractLsb'_toNat, Nat.shiftRight_eq_div_pow, hw]
    omega

theorem prioWord_fields (r : Regs) : (prioWord r).extractLsb' 0 3 = r.level ∧ (prioWord r).extractLsb' 8 3 = r.lprio ∧
    (prioWord r).getLsbD 15 = r.boost := by
  have hl := r.level.isLt
  have hp := r.lprio.isLt
  have hw : (prioWord r).toNat = r.level.toNat + r.lprio.toNat * 256 + if r.boost then 32768 else 0 := by
    rw [prioWord, BitVec.toNat_ofNat]
    split <;> omega
  refine ⟨BitVec.eq_of_toNat_eq ?_, BitVec.eq_of_toNat_eq ?_, ?_⟩
  · rw [BitVec.extractLsb'_toNat, Nat.shiftRight_eq_div_pow, hw]
    split <;> omega
  · rw [BitVec.extractLsb'_toNat, Nat.shiftRight_eq_div_pow, hw]
    split <;> omega
  · rw [BitVec.getLsbD, Nat.testBit_eq_decide_div_mod_eq, hw]
    cases r.boost
    · simp; omega
    · simp; omega

theorem csrRead_machine (s : State) (k : Nat) (r : Regs) (cyc : Word) {n : Nat} (h : 0x800 ≤ n) : csrRead s k r cyc n = msRead s n := by
  unfold csrRead
  repeat rw [if_neg (by omega)]

theorem csrPut_readOnly {n : Nat} (h : n ∈ [5, 0x10, 0x11, 0x12, 0x13]) (task : Bool) (f : Flags) (r : Regs) (v : Word) :
    csrPut task f r n v = r := by
  simp only [List.mem_cons, List.not_mem_nil, or_false] at h
  unfold csrPut
  repeat rw [if_neg (by omega)]

theorem csrPut_level (k : Kind) (f : Flags) (r : Regs) (v : Word) : csrPut (k == .task) f r (0x14 : BitVec 12).toNat v =
    { r with level := if k = .task ∧ r.lprio.toNat < v.toNat % 8 then r.lprio else v.setWidth 3 } := by
  have h : csrPut (k == .task) f r (0x14 : BitVec 12).toNat v =
      { r with level := if k == .task then taskLevel r v else v.setWidth 3 } := rfl
  rw [h, taskLevel]
  by_cases hk : k = .task
  · simp [hk]
  · simp [hk]

theorem csrRead_fields (s : State) (k : Nat) (r : Regs) (cyc : Word) (n : BitVec 12) : let v := csrRead s k r cyc n.toNat
    (n = 1 → v = r.rm.setWidth 64) ∧ (n = 2 → v = if r.psink then 1 else 0) ∧ (n = 3 → v = r.fflags.setWidth 64) ∧
      (n = 4 → v = r.seed) ∧ (n = 5 → r.rng.cnt ≤ 4 → v.toNat % 16 = r.rng.cnt ∧ v.extractLsb' 4 2 = r.rng.head ∧ v.extractLsb' 16 48 = r.rng.ctr) ∧
      (n = 0x10 → v = r.tag.setWidth 64) ∧ (n = 0x11 → v = r.inst.setWidth 64) ∧ (n = 0x12 → v = ctlTile s k) ∧
      (n = 0x13 → v = cyc) ∧ (n = 0x14 → v.extractLsb' 0 3 = r.level ∧ v.extractLsb' 8 3 = r.lprio ∧ v.getLsbD 15 = r.boost) ∧
      (0x800 ≤ n.toNat → v = msRead s n.toNat) := by
  refine ⟨?_, ?_, ?_, ?_, ?_, ?_, ?_, ?_, ?_, ?_, csrRead_machine s k r cyc⟩
  case refine_5 =>
    rintro rfl hc
    have hv : csrRead s k r cyc (BitVec.toNat (5 : BitVec 12)) = rngWordOf r := by simp [csrRead]
    rw [hv]
    exact rngWordOf_fields r hc
  case refine_10 =>
    rintro rfl
    have hv : csrRead s k r cyc (BitVec.toNat (0x14 : BitVec 12)) = prioWord r := by simp [csrRead]
    rw [hv]
    exact prioWord_fields r
  all_goals
    rintro rfl
    simp [csrRead]

theorem exec_csrw_readOnly {s : State} {th : Thread} {g : PReg} (h : Runs s th g) {n : BitVec 12}
    (hn : n ∈ ([5, 0x10, 0x11, 0x12, 0x13] : List (BitVec 12))) (a : SReg) :
    ∃ t, exec (.csrw g n a) s = .next t ∧ issuer t = some th ∧ t.mem = s.mem ∧ t.ms = s.ms := by
  have hm : n.toNat ∈ [5, 0x10, 0x11, 0x12, 0x13] := by
    simpa using List.mem_map_of_mem (f := BitVec.toNat) hn
  have hlt : n.toNat < 0x800 ∧ n ≠ 4 := by
    constructor
    · simp only [List.mem_cons, List.not_mem_nil, or_false] at hm
      omega
    · rintro rfl
      revert hm
      decide
  refine ⟨_, exec_csrw h hlt.1 hlt.2 a, ?_, setRegs_mem .., ?_⟩
  · simp only [issuer_setRegs, h.1, csrPut_readOnly hm, Option.map_some]
  · obtain ⟨m, hs⟩ := setRegs_eq s (fun r => csrPut (th.kind == .task) s.issue.flags r n.toNat (rdS s a).val)
    rw [hs]

/-- Settles O42: what CSRR reads and CSRW puts, register by register. -/
theorem controlRegisters : Obligations.ControlRegisters := by
  refine ⟨?_, ?_, ?_⟩
  case refine_1 =>
    intro s th g d n hr r
    rw [exec_csrr hr d n]
    constructor
    · intro w hw
      rw [csrBefore, hw, Option.getD_some]
    · intro hw
      rw [csrBefore, hw]
      exact ⟨_, rfl, csrRead_fields ..⟩
  case refine_2 =>
    intro s th g n a hr v
    refine ⟨fun h => exec_csrw_machine hr h a, ?_, ?_, ?_, ?_, ?_, fun hn => exec_csrw_readOnly hr hn a⟩
    case refine_1 =>
      rintro rfl
      rw [exec_csrw hr (by decide) (by decide)]
      congr 2
      funext r
      show putRm r v = _
      unfold putRm
      split <;> rfl
    case refine_2 =>
      rintro rfl
      exact exec_csrw hr (by decide) (by decide) a
    case refine_3 =>
      rintro rfl
      exact exec_csrw hr (by decide) (by decide) a
    case refine_4 =>
      rintro rfl
      exact exec_csrw_seed hr a
    case refine_5 =>
      rintro rfl
      rw [exec_csrw hr (by decide) (by decide)]
      congr 2
      funext r
      exact csrPut_level ..
  case refine_3 =>
    intro s th g d a hr x
    rw [exec_clsrd hr]
    exact ⟨fun h => by rw [if_pos h], fun h => by rw [if_neg (by omega)]⟩

end Sys2Proof.Machine

namespace Sys2Proof.Machine

/-! Faults: what taking one does where no handler is bound, and where one is bound and a slot of the thread's own tile is free. -/

/-- The thread `th` as a fault with the record `r` freezes it at `pc`. -/
def frozenAt (th : Thread) (r : FaultRec) (pc : Word) : Thread :=
  { th with status := .frozen, bundle := none, fault := some r, pc := pc, waited := 0, fetched := [], regs := { th.regs with boost := false } }

/-- The state in which the thread under `k` is frozen: what its bundle had read has no effect (R211, R265). -/
def frozenState (s : State) (k : Nat) (th : Thread) (r : FaultRec) (pc : Word) : State :=
  setThread { s with inflight := s.inflight.filter (fun a => !(a.uid == th.uid && a.inner)) } k (frozenAt th r pc)

theorem threadAt_frozenState (s : State) (k j : Nat) (th : Thread) (r : FaultRec) (pc : Word) :
    threadAt (frozenState s k th r pc) j = if j = k then some (frozenAt th r pc) else threadAt s j := threadAt_setThread _ k j _

theorem freeHandler_frozenState {s : State} {k : Nat} {th : Thread} (ht : threadAt s k = some th) (r : FaultRec) (pc : Word) (t : Nat) :
    freeHandler (frozenState s k th r pc) t = freeHandler s t := by
  unfold freeHandler
  congr 1
  funext j
  rw [threadAt_frozenState]
  split
  next h => rw [h, ht]; rfl
  next => rfl

theorem freeHandler_free {s : State} {t j : Nat} (h : freeHandler s t = some j) : threadAt s (keyOf t j) = none := by
  simpa using List.find?_some h

/-- A task's fault of a class other than PREEMPT: it freezes the thread, whose record is served where its graph binds the class. -/
theorem takeFault_task {s : State} {k c : Nat} {th : Thread} {cls : FaultClass} (ht : threadAt s k = some th) (hk : th.kind = .task)
    (hc : cls ≠ .preempt) (hg : th.graph = some c) (pc : Word) (n f : Nat) (w : Word) (addr : Option (BitVec 53)) (aux : Word) :
    takeFault s k cls pc n f w addr aux =
      if (graphAt s c).any (fun g => (handlerOf g cls).isSome)
      then serveRecord (frozenState s k th (faultRec s k th cls pc n f w addr aux) pc) k
      else killThread (logEvent (frozenState s k th (faultRec s k th cls pc n f w addr aux) pc) 5
        (recWords (faultRec s k th cls pc n f w addr aux))) k := by
  have hb : (match graphAt s c with
      | none => false
      | some g => (handlerOf g cls).isSome) = (graphAt s c).any (fun g => (handlerOf g cls).isSome) := by
    cases graphAt s c <;> rfl
  rw [← hb]
  cases th
  cases hk
  cases hg
  unfold takeFault
  rw [ht]
  exact if_neg hc

theorem serveRecord_own {s : State} {k j : Nat} {th : Thread} (ht : threadAt s k = some th) (hk : isKs (tileOf k) = false)
    (hj : freeHandler s (tileOf k) = some j) : serveRecord s k = spawnHandler s (tileOf k) j 0 k := by
  unfold serveRecord placeRecord
  simp only [ht, hk, hj, Bool.false_eq_true, if_false]

/-- The thread that serves the record of `th` on tile `t` with the handler `h` (R316 to R319). -/
def handlerThread (s : State) (th : Thread) (gr : Graph) (h : HandlerDecl) (t : Nat) : Thread :=
  newThread s.nextUid (.handler (serveLevel th) th.uid) th.graph 1
    { firingRegs gr.prio th.regs.tag th.regs.inst with k0 := some ⟨th.uid, th.fzGen⟩ } h.code (coreAt s t).cyc

theorem spawnHandler_eq {s : State} {t j via k c : Nat} {th : Thread} {r : FaultRec} {gr : Graph} {h : HandlerDecl}
    (ht : threadAt s k = some th) (hf : th.fault = some r) (hg : th.graph = some c) (hgr : graphAt s c = some gr)
    (hh : handlerOf gr r.cls = some h) : spawnHandler s t j via k =
      setThread { setThread s k { th with fault := some { r with via := via, hsite := coreSite t } } with nextUid := s.nextUid + 1 }
        (keyOf t j) (handlerThread s th gr h t) := by
  cases th
  cases hf
  cases hg
  unfold spawnHandler
  rw [ht]
  simp only [hgr, hh]
  rfl

theorem exec_trap {s : State} {th : Thread} {g : PReg} (h : Runs s th g) (code : BitVec 24) :
    exec (.trap g code) s = .next (freeze s .trapsw none (code.setWidth 64)) := syllable_runs h _

/-- Settles O46: the freeze of a task, then the branch of a class that no handler serves. -/
theorem unhandledFaultKills : Obligations.UnhandledFaultKills := by
  intro s k c th cls pc n f w addr aux ht hk hc hg hn
  refine ⟨faultRec s k th cls pc n f w addr aux, rfl, rfl, rfl, rfl, rfl, ?_⟩
  rw [takeFault_task ht hk hc hg, if_neg]
  · rfl
  · cases h : graphAt s c with
    | none => simp
    | some gr => simp [hn gr h]

/-- Settles O45: the freeze and the start of the handler are two updates of the thread map, at different slots. -/
theorem trapTakesTheException : Obligations.TrapTakesTheException := by
  refine ⟨fun s th g code h => exec_trap h code, ?_⟩
  intro s k j c th gr h cls pc n f w addr aux ht hk hc hg hgr hh hks hj
  have he : takeFault s k cls pc n f w addr aux =
      setThread { setThread (frozenState s k th (faultRec s k th cls pc n f w addr aux) pc) k
        (frozenAt th { faultRec s k th cls pc n f w addr aux with via := 0, hsite := coreSite (tileOf k) } pc) with nextUid := s.nextUid + 1 }
        (keyOf (tileOf k) j) (handlerThread s th gr h (tileOf k)) := by
    rw [takeFault_task ht hk hc hg, if_pos (by simp [hgr, hh])]
    rw [serveRecord_own (th := frozenAt th (faultRec s k th cls pc n f w addr aux) pc) (by rw [threadAt_frozenState, if_pos rfl]) hks
      (by rw [freeHandler_frozenState ht, hj])]
    refine (spawnHandler_eq (r := faultRec s k th cls pc n f w addr aux) (c := c) (gr := gr) (h := h)
      ((threadAt_frozenState ..).trans (if_pos rfl)) rfl hg hgr hh).trans ?_
    rfl
  have hne : k ≠ keyOf (tileOf k) j := by
    intro e
    have := freeHandler_free hj
    rw [← e, ht] at this
    cases this
  have hat : ∀ q, threadAt (takeFault s k cls pc n f w addr aux) q = if q = keyOf (tileOf k) j then some (handlerThread s th gr h (tileOf k)) else if q = k then
      some (frozenAt th { faultRec s k th cls pc n f w addr aux with via := 0, hsite := coreSite (tileOf k) } pc) else threadAt s q := by
    intro q
    rw [he, threadAt_setThread]
    split
    next => rfl
    next =>
      refine (threadAt_setThread _ k q _).trans ?_
      split
      next => rfl
      next h => rw [threadAt_frozenState, if_neg h]
  have hsite : coreSite (tileOf k) = siteOf (tileOf k) := by rw [coreSite, hks]; rfl
  have hx : coreX (tileOf k) = tileX (tileOf k) ∧ coreY (tileOf k) = tileY (tileOf k) := by
    rw [coreX, coreY, hks]
    exact ⟨rfl, rfl⟩
  refine ⟨frozenAt th { faultRec s k th cls pc n f w addr aux with via := 0, hsite := coreSite (tileOf k) } pc, _,
    handlerThread s th gr h (tileOf k), ?_, rfl, rfl, rfl, rfl, rfl, rfl, rfl, rfl, rfl, rfl, rfl, rfl, rfl, rfl, rfl, ?_, rfl, hx.1, hx.2, rfl,
    rfl, hsite, ?_, ?_, rfl, rfl, rfl, rfl, rfl, rfl, rfl, rfl, rfl, rfl, rfl, rfl, rfl, rfl, rfl, rfl, rfl, rfl, rfl, rfl, ?_, ?_, ?_⟩
  · rw [hat, if_neg hne, if_pos rfl]
  · simp [faultRec, hk]
  · rw [hat, if_pos rfl]
  · simp [handlerThread, newThread, serveLevel, hk]
  · intro q h1 h2
    rw [hat, if_neg h2, if_neg h1]
  · rw [he]
    rfl
  · rw [he]
    rfl

end Sys2Proof.Machine

namespace Sys2Proof.Machine

/-! NOP, YIELD, SLEEP and TEND. -/

/-- No thread of the state has the number `u`, and none will: it is used, and no saved thread has it. -/
structure Lacks (u : Nat) (s : State) : Prop where
  saved : s.saved = []
  used : u < s.nextUid
  absent : ∀ j v, threadAt s j = some v → v.uid ≠ u

namespace Lacks
variable {u : Nat} {s t : State}

theorem of_eq (h : Lacks u s) (hs : t.saved = s.saved) (hn : t.nextUid = s.nextUid) (ht : t.threads = s.threads) : Lacks u t :=
  ⟨hs.trans h.saved, hn ▸ h.used, fun j v hv => h.absent j v (by rw [← hv, threadAt, threadAt, ht])⟩

theorem foldl {β : Type} {f : State → β → State} (hf : ∀ s x, Lacks u s → Lacks u (f s x)) (l : List β) (h : Lacks u s) :
    Lacks u (l.foldl f s) := by
  induction l generalizing s with
  | nil => exact h
  | cons x l ih => exact ih (hf s x h)

theorem setThread (h : Lacks u s) (k : Nat) {v : Thread} (hv : v.uid ≠ u) : Lacks u (setThread s k v) := by
  refine ⟨h.saved, h.used, fun j w hw => ?_⟩
  rw [threadAt_setThread] at hw
  split at hw
  next => cases hw; exact hv
  next => exact h.absent j w hw

theorem updCore (h : Lacks u s) (t : Nat) (f : Core → Core) : Lacks u (updCore s t f) := h.of_eq rfl rfl rfl

theorem faultWait (h : Lacks u s) (q : List Nat) : Lacks u { s with faultWait := q } := h.of_eq rfl rfl rfl

theorem ksQ (h : Lacks u s) (q : List Nat) : Lacks u { s with ksQ := q } := h.of_eq rfl rfl rfl

theorem spanQ (h : Lacks u s) (q : Map (List Nat)) : Lacks u { s with spanQ := q } := h.of_eq rfl rfl rfl

theorem nextUid (h : Lacks u s) : Lacks u { s with nextUid := s.nextUid + 1 } := ⟨h.saved, Nat.lt_succ_of_lt h.used, h.absent⟩

theorem updGraph (h : Lacks u s) (c : Nat) (f : Graph → Graph) : Lacks u (updGraph s c f) := by
  unfold Machine.updGraph
  split
  next => exact h
  next => exact h.of_eq rfl rfl rfl

theorem makeResident (h : Lacks u s) (t j : Nat) (e : Ident × Word) : Lacks u (makeResident s t j e) := by
  unfold Machine.makeResident
  dsimp only
  split
  next => exact h
  next =>
    split
    next hv => simp [h.saved] at hv
    next =>
      have h' : ∀ th : Thread, th.uid = s.nextUid → Lacks u (Machine.setThread { s with nextUid := s.nextUid + 1 } (keyOf t j) th) :=
        fun th hu => h.nextUid.setThread _ (by rw [hu]; exact (Nat.ne_of_lt h.used).symm)
      split
      next => exact (h' _ rfl).of_eq rfl rfl rfl
      next => exact (h' _ rfl).of_eq rfl rfl rfl

theorem fillSlots (t : Nat) (n : Nat) (h : Lacks u s) : Lacks u (fillSlots t n s) := by
  induction n generalizing s with
  | zero => exact h
  | succ n ih =>
    unfold Machine.fillSlots
    dsimp only
    split
    next => exact h
    next =>
      split
      next => exact h
      next =>
        split
        next => exact h
        next => exact ih ((h.updCore t _).makeResident ..)

theorem fill (h : Lacks u s) (t : Nat) : Lacks u (fill s t) := by
  unfold Machine.fill
  split
  next => exact h
  next => exact fillSlots t 14 h

theorem countRun (h : Lacks u s) (t : Nat) (th : Thread) : Lacks u (countRun s t th) := by
  unfold Machine.countRun
  split
  next => exact h.updGraph _ _
  next => exact h

theorem releaseFile (h : Lacks u s) (t i : Nat) : Lacks u (releaseFile s t i) := by
  unfold Machine.releaseFile
  dsimp only
  split
  next => exact h.of_eq rfl rfl rfl
  next => exact h

theorem freeEntries (h : Lacks u s) (id : Ident) : Lacks u (freeEntries s id) :=
  by
  unfold Machine.freeEntries resumeAll
  refine foldl (fun _ e h => ?_) _ (h.of_eq rfl rfl rfl)
  exact h.of_eq rfl rfl rfl

theorem spawnHandler (h : Lacks u s) (t j via k : Nat) : Lacks u (spawnHandler s t j via k) := by
  unfold Machine.spawnHandler
  dsimp only
  split
  next => exact h
  next th hth =>
    split
    next =>
      split
      next => exact h
      next =>
        split
        next => exact h
        next =>
          have h1 : ∀ f, Lacks u (Machine.setThread s k { th with fault := f }) := fun f => h.setThread k (h.absent k th hth)
          refine Lacks.setThread ?_ _ ?_
          · exact (h1 _).nextUid
          · exact (Nat.ne_of_lt h.used).symm
    next => exact h

theorem placeRecord {k : Nat} (h : Lacks u s) (hp : placeRecord s k = some t) : Lacks u t := by
  unfold Machine.placeRecord at hp
  dsimp only at hp
  split at hp
  next => cases hp; exact h
  next =>
    split_ifs at hp <;> (repeat' split at hp) <;> cases hp <;>
      first | exact h.spawnHandler .. | exact h.of_eq rfl rfl rfl

theorem retryRecords (h : Lacks u s) : Lacks u (retryRecords s) := by
  refine foldl (fun s i h => ?_) _ h
  split
  next => exact h.of_eq rfl rfl rfl
  next =>
    split
    next hp => exact (h.faultWait _).placeRecord hp
    next => exact h

theorem takeRecord (h : Lacks u s) (t : Nat) : Lacks u (takeRecord s t) := by
  unfold Machine.takeRecord
  dsimp only
  refine retryRecords ?_
  split
  next =>
    have h1 : ∀ s' : State, Lacks u s' → Lacks u (match freeHandler s' t with
        | none => s'
        | some j => match s'.ksQ.find? (fun u => match keyOfUid s' u with
            | some k => isKs (tileOf k)
            | none => false) with
          | none => s'
          | some u => match keyOfUid s' u with
            | none => s'
            | some k => Machine.spawnHandler { s' with ksQ := s'.ksQ.erase u } t j 2 k) := by
      intro s' h'
      split
      next => exact h'
      next =>
        split
        next => exact h'
        next =>
          split
          next => exact h'
          next => exact (h'.ksQ _).spawnHandler ..
    refine h1 _ ?_
    split
    next => exact h
    next =>
      split
      next => exact h
      next =>
        split
        next => exact h
        next => exact (h.ksQ _).spawnHandler ..
  next =>
    split
    next => exact h
    next =>
      split
      next => exact h
      next =>
        split
        next =>
          split
          next => exact h.updCore ..
          next => exact (h.updCore ..).spawnHandler ..
        next =>
          split
          next => exact h
          next =>
            split
            next => exact h
            next =>
              split
              next => exact h.spanQ _
              next => exact (h.spanQ _).spawnHandler ..

theorem nextAlert (h : Lacks u s) : Lacks u (nextAlert s) := by
  unfold Machine.nextAlert startAlert
  dsimp only
  split
  next => exact h
  next =>
    split
    next => exact h.nextUid.setThread _ (Nat.ne_of_lt h.used).symm
    next => exact h

end Lacks

theorem withdrawAll_eq (s : State) (t : Nat) (th : Thread) : ∃ n, withdrawAll s t th = { s with net := n } := by
  unfold withdrawAll
  generalize th.dyn = l
  induction l generalizing s with
  | nil => exact ⟨s.net, rfl⟩
  | cons d l ih =>
    obtain ⟨n, hn⟩ := ih { s with net := s.net ++ [.unsub d.name t (.thread th.uid d.seq)] }
    exact ⟨n, hn⟩

/-- An ended thread is in no slot: its own is freed, and what takes its place has a number of its own. -/
theorem endThread_lacks {s : State} {k : Nat} {th : Thread} (hs : s.saved = []) (hu : th.uid < s.nextUid)
    (hk : ∀ j v, threadAt s j = some v → v.uid = th.uid → j = k) (h0 : th.kind = .task ∨ th.regs.k0 = none) :
    Lacks th.uid (endThread s k th) := by
  have h : Lacks th.uid (dropThread (withdrawAll s (tileOf k) th) k) := by
    obtain ⟨n, hn⟩ := withdrawAll_eq s (tileOf k) th
    rw [hn]
    refine ⟨hs, hu, fun j v hv he => ?_⟩
    rw [threadAt_dropThread] at hv
    split at hv
    next => cases hv
    next hj => exact hj (hk j v hv he)
  unfold endThread
  dsimp only
  split
  next => exact (((h.freeEntries _).countRun _ _).releaseFile _ _).fill _
  next hh =>
    have hn : handlerEnd (dropThread (withdrawAll s (tileOf k) th) k) th = dropThread (withdrawAll s (tileOf k) th) k := by
      unfold handlerEnd
      rw [h0.resolve_left (by rw [hh]; nofun)]
    rw [hn]
    exact h.takeRecord _
  next => exact h.nextAlert

section
variable {s : State} {th : Thread} {g : PReg}

theorem exec_tend (h : Runs s th g) : exec (.tend g) s =
    .next (if !tendReady s th || (th.kind != .task && servedSaved s th) then waitFor s .cond else endThread s s.issue.key th) :=
  syllable_runs h _

theorem exec_sleep (h : Runs s th g) (n : BitVec 24) : exec (.sleep g n) s =
    .next (if n.toNat ≤ ((coreAt s s.tile).cyc - s.issue.cyc).toNat then s else waitFor s (.sleep (s.issue.cyc + n.setWidth 64))) :=
  syllable_runs h _

/-- A command or operation of an earlier bundle is one that keeps TEND from being ready. -/
theorem tendReady_eq (s : State) (th : Thread) : tendReady s th =
    !(((coreAt s s.tile).eng0 ++ (coreAt s s.tile).eng1).any (fun d => d.uid == th.uid && decide (d.ord < s.issue.ord0)) ||
      (coreAt s s.tile).mq.any (fun m => m.uid == th.uid && decide (m.ord < s.issue.ord0)) ||
      s.inflight.any (fun a => a.uid == th.uid && a.dst != .none && decide (a.id < s.issue.acc0))) := by
  unfold tendReady
  simp only [Bool.not_or, List.not_any_eq_all_not, Bool.not_and]
  congr 1
  · congr 1 <;> congr 1 <;> funext d <;> simp only [bne, ← Nat.not_lt, decide_not]
  · congr 1; funext a; simp only [bne, ← Nat.not_lt, decide_not]; simp

theorem handlerEnd_gone {c : Cap} (h : th.regs.k0 = some c)
    (hv : ∀ k v, keyOfUid s c.uid = some k → threadAt s k = some v → v.fzGen ≠ c.gen ∨ v.status ≠ .frozen) : handlerEnd s th = s := by
  unfold handlerEnd
  rw [h]
  dsimp only
  split
  next => rfl
  next k hk =>
    split
    next => rfl
    next v ht =>
      refine if_neg fun hb => ?_
      rw [Bool.and_eq_true, beq_iff_eq, beq_iff_eq] at hb
      exact (hv k v hk ht).elim (fun hn => hn hb.1) (fun hn => hn hb.2)

theorem handlerEnd_frozen {c : Cap} {k : Nat} {v : Thread} {r : FaultRec} (h : th.regs.k0 = some c) (hk : keyOfUid s c.uid = some k)
    (ht : threadAt s k = some v) (hg : v.fzGen = c.gen) (hf : v.status = .frozen) (hr : v.fault = some r) :
    handlerEnd s th = killThread (logEvent s 5 [r.word 0, r.word 1, r.word 2]) k := by
  unfold handlerEnd
  simp only [h, hk, ht, hg, hf, hr]
  exact if_pos (by simp)

theorem servedSaved_iff {c : Cap} (h : th.regs.k0 = some c) :
    servedSaved s th = true ↔ ∃ v ∈ s.saved, v.th.uid = c.uid ∧ v.th.fzGen = c.gen := by
  unfold servedSaved
  simp [h]

end

/-- Settles O41: the guards of each syllable decide the branch; what comes after an ended thread has a number of its own. -/
theorem nopYieldSleepEnd : Obligations.NopYieldSleepEnd := by
  refine ⟨fun s th g n h => ⟨syllable_runs h _, syllable_runs h _, fun hn => ?_, fun hn => ?_⟩, ?_⟩
  · rw [exec_sleep h, if_pos hn]
  · rw [exec_sleep h, if_neg (Nat.not_le.mpr hn)]
  intro s th g h c left
  have hr : tendReady s th = !left := tendReady_eq s th
  refine ⟨fun hl => ?_, fun hl hk => ?_, fun cls u c hl hk hc => ⟨fun hs => ?_, fun hs hv => ?_, fun k v r hs hkey hat hgen hst hf => ?_⟩⟩
  · rw [exec_tend h, hr, hl]
    rfl
  · refine ⟨_, exec_tend h, fun hs hu hj => ?_⟩
    rw [hr, hl, if_neg]
    · exact (endThread_lacks hs hu hj hk).absent
    · rcases hk with hk | hk <;> simp [hk, servedSaved]
  · rw [exec_tend h, (servedSaved_iff hc).2 hs, hk]
    simp
  all_goals
    have hns := mt (servedSaved_iff (s := s) hc).1 hs
    rw [exec_tend h, hr, hl, if_neg (by simp [hns])]
    congr 1
  · have he : handlerEnd (dropThread (withdrawAll s (tileOf s.issue.key) th) s.issue.key) th =
        dropThread (withdrawAll s (tileOf s.issue.key) th) s.issue.key := handlerEnd_gone hc hv
    unfold endThread
    simp only [hk, he]
  · have he := handlerEnd_frozen hc hkey hat hgen hst hf
    unfold endThread
    simp only [hk, he]

end Sys2Proof.Machine

namespace Sys2Proof.Machine

/-! What the memory syllables do behind the checks of their addresses. -/

theorem vectorStore_maskOf (f : Nat → Bool) {i : Nat} (hi : i < 64) : (vectorStore.maskOf f).getLsbD i = f i := getLsbD_maskOf f hi

theorem contains_filter (l : List Nat) (f : Nat → Bool) (i : Nat) : (l.filter f).contains i = (l.contains i && f i) := by
  rw [Bool.eq_iff_iff]
  simp

theorem filter_eq_nil {α : Type} {l : List α} {f : α → Bool} (h : ∀ i ∈ l, f i = false) : l.filter f = [] :=
  List.filter_eq_nil_iff.2 (fun i hi => by simp [h i hi])

/-- The lanes of a mask that are sinks, the first of them found. -/
theorem filter_of_find? {α : Type} {l : List α} {f : α → Bool} {j : α} (h : l.find? f = some j) : ∃ r, l.filter f = j :: r := by
  cases hf : l.filter f with
  | nil => rw [← List.head?_filter, hf] at h; cases h
  | cons i r =>
    rw [← List.head?_filter, hf] at h
    cases h
    exact ⟨r, rfl⟩

section
variable {s : State} {th : Thread} {g : PReg}

theorem exec_ld (h : Runs s th g) (ty : Ty) (d a b : SReg) (off : Off) : exec (.ld g ty d a b off) s =
    .next (withAccess s th needRd anyPath (tyBytes ty) [scalarAddr s a b off] (fun u l =>
      launch u th .load ty (.s d) ((rdS u a).poison || (rdS u b).poison) (l.map (fun x => mkElem [0] x (tyBytes ty) 0 0 [])) 0 false false)) :=
  syllable_runs h _

theorem exec_st (h : Runs s th g) (ty : Ty) (d a b : SReg) (off : Off) : exec (.st g ty d a b off) s =
    .next (withAccess s th needWr anyPath (tyBytes ty) [scalarAddr s a b off] (fun u l =>
      let bad := (rdS s d).poison || (rdS s a).poison || (rdS s b).poison
      let go (u : State) := launch u th .store ty .none false
        (l.map (fun x => mkElem [0] x (tyBytes ty) (rdS s d).val 0 (List.replicate (tyBytes ty) (!bad)))) 0 false false
      if bad then sink u th 1 1 (scalarAddr s a b off) go else go u)) := syllable_runs h _

theorem exec_mshape (h : Runs s th g) (sh : ShReg) (b : SReg) (off : Off12) : exec (.mshape g sh b off) s =
    .next (match find sh.toNat s.issue.shapes with
      | some v => setRegs s (fun r => r.wrSh sh v)
      | none =>
        if shapeComing s th.uid sh then waitFor s .cond
        else withAccess s th needRd anyPath 16 [shapeAddr s b off] (fun u l =>
          if l.any (fun x => storesOver u th.uid none x.2.1 16) then waitFor u .cond
          else waitFor (launch u th .load .u64 (.sh sh) (rdS u b).poison
            (l.flatMap (fun x => [mkElem [0] x 8 0 0 [], mkElem [1] (x.1 + 8, x.2.1 + 8, x.2.2) 8 0 0 []])) 0 false false) .cond)) :=
  syllable_runs h _

theorem exec_atomic {kind : AccKind} {i : Instr} {ty : Ty} {scp : Scope} {ord : Ord} {d a : SReg} {off : OffA} {x y : SVal}
    (hi : exec i s = atomic kind g ty scp ord d a off x y s) (h : Runs s th g) : exec i s =
    .next (withAccess s th ⟨true, true, true, hostCap kind ty⟩ (atomicCarried kind ty) (tyBytes ty) [atomicAddr s a off] (fun u l =>
      if (rdS s a).poison || x.poison || y.poison then
        sink u th 5 1 (atomicAddr s a off) (fun v => wrS (launch v th .store ty .none false
          (l.map (fun e => mkElem [0] e (tyBytes ty) 0 0 (List.replicate (tyBytes ty) false))) 0 false false) d 0 true)
      else launch (if ord.code.getLsbD 1 then flushAt u th scp.code.toNat else u) th kind ty (.s d) false
        (l.map (fun e => mkElem [0] e (tyBytes ty) x.val y.val [true])) scp.code.toNat (ord.code.getLsbD 0) (ord.code.getLsbD 1))) :=
  hi.trans (syllable_runs h _)

theorem exec_vectorLoad {i : Instr} {ty : Ty} {d : VReg} {addr : Nat → Nat} {bad : Nat → Bool}
    (hi : exec i s = vectorLoad g ty d addr bad s) (h : RunsV s th g) : exec i s =
    .next (withAccess s th needRd anyPath (tyBytes ty) ((lanesOn (rdP s g)).map addr) (fun u l =>
      launch u th .load ty (.v d) false (((lanesOn (rdP s g)).zip l).map (fun e => mkElem [e.1] e.2 (tyBytes ty) 0 0 [bad e.1])) 0 false false)) :=
  hi.trans (vectorSyllable_runs h _)

/-- What a vector store enters, with the lanes that are sinks clear of what it writes. -/
def storeLanes (s : State) (th : Thread) (g : PReg) (ty : Ty) (d : VReg) (merge : Bool) (addr : Nat → Nat) (bad : Nat → Bool)
    (l : List (Nat × Nat × Path)) (u : State) : State :=
  launch u th .store ty .none false ((((lanesOn (rdP s g)).zip l).filter (fun e =>
      !(merge && (lanesOn (rdP s g)).any (fun j => e.1 < j && addr j == addr e.1)))).map (fun e =>
    mkElem [e.1] e.2 (tyBytes ty) (((rdV s d).lane e.1).val.setWidth 64) 0 (List.replicate (tyBytes ty) (!bad e.1)))) 0 false false

theorem exec_vectorStore {i : Instr} {ty : Ty} {d : VReg} {addr : Nat → Nat} {bad : Nat → Bool} {kind : Nat} {merge : Bool}
    (hi : exec i s = vectorStore kind merge g ty d addr bad s) (h : RunsV s th g) : exec i s =
    .next (withAccess s th needWr anyPath (tyBytes ty) ((lanesOn (rdP s g)).map addr) (fun u l =>
      let dirty (n : Nat) := bad n || ((rdV s d).lane n).poison
      match (lanesOn (rdP s g)).filter dirty with
      | [] => storeLanes s th g ty d merge addr dirty l u
      | j :: _ => sink u th kind (vectorStore.maskOf (fun n => ((lanesOn (rdP s g)).filter dirty).contains n)) (addr j)
        (storeLanes s th g ty d merge addr dirty l))) :=
  hi.trans (vectorSyllable_runs h _)

/-- The lanes of the first of each group of lanes that VSCADD adds at one address. -/
def addLanes (s : State) (th : Thread) (g : PReg) (ty : Ty) (d : VReg) (addr : Nat → Nat) (bad : Nat → Bool)
    (l : List (Nat × Nat × Path)) (u : State) : State :=
  launch u th .scadd ty .none false ((((lanesOn (rdP s g)).zip l).filter (fun e =>
      !(lanesOn (rdP s g)).any (fun j => j < e.1 && addr j == addr e.1))).map (fun e =>
    mkElem ((lanesOn (rdP s g)).filter (fun j => addr j == addr e.1)) e.2 4
      (BitVec.ofNat 64 (groupSum ty (((lanesOn (rdP s g)).filter (fun j => addr j == addr e.1)).map (fun j => ((rdV s d).lane j).val.toNat)))) 0
      [!((lanesOn (rdP s g)).filter (fun j => addr j == addr e.1)).any bad])) 0 false false

theorem exec_vscadd (h : RunsV s th g) (ty : Ty) (d v : VReg) (a : SReg) (off : Off) : exec (.vscadd g ty d a v off) s =
    .next (withAccess s th ⟨true, true, true, none⟩ (fun p => p != .host) 4 ((lanesOn (rdP s g)).map (indexAddr s a v off)) (fun u l =>
      let dirty (n : Nat) := (rdS s a).poison || ((rdV s v).lane n).poison || ((rdV s d).lane n).poison
      match (lanesOn (rdP s g)).filter dirty with
      | [] => addLanes s th g ty d (indexAddr s a v off) dirty l u
      | j :: _ => sink u th 3 (vectorStore.maskOf (fun n => ((lanesOn (rdP s g)).filter dirty).contains n)) (indexAddr s a v off j)
        (addLanes s th g ty d (indexAddr s a v off) dirty l))) := vectorSyllable_runs h _

theorem exec_binrst (h : Runs s th g) (a : SReg) (off : Off) : exec (.binrst g a off) s =
    .next (binOp s th (binAddr s a off) (fun u x =>
      if (rdS u a).poison then sink u th 4 1 (binAddr s a off) (fun v => v)
      else launch u th (.binrst (binAddr s a off) (binWord u x.2.1 0) (binWord u x.2.1 3)) .u32 .none false [mkElem [0] x 64 0 0 []] 0 false
        false)) := syllable_runs h _

theorem exec_binapp (h : RunsV s th g) (ty : Ty) (d v : VReg) (a : SReg) (off : Off) : exec (.binapp g ty d a v off) s =
    .next (binOp s th (binAddr s a off) (fun u x =>
      let on := lanesOn (rdP s g)
      let dirty (n : Nat) := (rdS s a).poison || ((rdV s v).lane n).poison || ((rdV s d).lane n).poison
      let go (z : State) :=
        if (rdS z a).poison then z
        else launch z th (.binapp (binAddr s a off) (binWord z x.2.1 0) (binWord z x.2.1 2) (binWord z x.2.1 3) (binWord z x.2.1 4)
            (binWord z x.2.1 5) (binWord z x.2.1 6)) ty .none false
          (mkElem on x 64 0 0 [] :: (on.filter (fun n => !dirty n)).map (fun n =>
            { mkElem [n] x 4 (((rdV s v).lane n).val.setWidth 64) (((rdV s d).lane n).val.setWidth 64) [] with done := true })) 0 false false
      if (on.filter dirty).isEmpty then go u
      else sink u th 4 (vectorStore.maskOf (fun n => (on.filter dirty).contains n)) (binAddr s a off) go)) := vectorSyllable_runs h _

theorem exec_fence (h : Runs s th g) (scp : Scope) (sets : BitVec 3) : exec (.fence g scp sets) s =
    .next (if fenceDone s th.uid scp sets then flushAt s th scp.code.toNat else waitFor (flushAt s th scp.code.toNat) .cond) :=
  syllable_runs h _

theorem exec_pref_thread (h : issuer s = some th) (g : PReg) (a b : SReg) (off : Off) : exec (.pref g a b off) s = .next s :=
  onThread_some h _

end

section
variable (s : State) (g : PReg) (ty : Ty) (d v : VReg) (a b : SReg) (off : Off)

theorem vld_eq : exec (.vld g ty d a b off) s =
    vectorLoad g ty d (contigAddr s a b off (tyBytes ty)) (fun _ => (rdS s a).poison || (rdS s b).poison) s := rfl
theorem vgather_eq : exec (.vgather g ty d a v off) s =
    vectorLoad g ty d (indexAddr s a v off) (fun i => (rdS s a).poison || ((rdV s v).lane i).poison) s := rfl
theorem vst_eq : exec (.vst g ty d a b off) s =
    vectorStore 1 false g ty d (contigAddr s a b off (tyBytes ty)) (fun _ => (rdS s a).poison || (rdS s b).poison) s := rfl
theorem vscatter_eq : exec (.vscatter g ty d a v off) s =
    vectorStore 2 true g ty d (indexAddr s a v off) (fun i => (rdS s a).poison || ((rdV s v).lane i).poison) s := rfl
theorem amo_eq (op : AmoOp) (scp : Scope) (ord : Ord) (d : SReg) (off : OffA) : exec (.amo g op ty scp ord d a off b) s =
    atomic (.amo op) g ty scp ord d a off (rdS s b) SVal.zero s := rfl
theorem acas_eq (scp : Scope) (ord : Ord) (d c : SReg) (off : OffA) : exec (.acas g ty scp ord d a off b c) s =
    atomic .cas g ty scp ord d a off (rdS s b) (rdS s c) s := rfl

end

/-- Settles O31: what a fence waits for is `fenceDone`, written out. -/
theorem prefetchAndFence : Obligations.PrefetchAndFence := by
  intro s th g a b off scp sets h
  refine ⟨exec_pref_thread h.thread g a b off, ?_⟩
  rw [exec_fence h, fenceDone, accessesDone, List.all_filter]
  congr 2
  simp only [Bool.not_and, bne, Bool.or_assoc]

/-- Settles O29: the first address of the access is the misaligned one, and the checks begin with it. -/
theorem misalignedAccessesFreeze : Obligations.MisalignedAccessesFreeze := by
  refine ⟨fun s th g ty d v a b off i h hi => ?_, fun s th g ty scp ord op d a b c sh off oa om h => ?_⟩
  · obtain ⟨r, hr⟩ : ∃ r, lanesOn (rdP s g) = i :: r := List.head?_eq_some_iff.1 hi
    have hm : ∀ f : Nat → Nat, (lanesOn (rdP s g)).map f = f i :: r.map f := fun f => by rw [hr]; rfl
    refine ⟨fun hw => ⟨?_, ?_⟩, fun hw => ⟨?_, ?_⟩, fun hw => ?_, fun hw => ?_⟩
    · rw [exec_vectorLoad (vld_eq ..) h, hm]
      exact congrArg _ (withAccess_misaligned _ _ _ _ hw _)
    · rw [exec_vectorStore (vst_eq ..) h, hm]
      exact congrArg _ (withAccess_misaligned _ _ _ _ hw _)
    · rw [exec_vectorLoad (vgather_eq ..) h, hm]
      exact congrArg _ (withAccess_misaligned _ _ _ _ hw _)
    · rw [exec_vectorStore (vscatter_eq ..) h, hm]
      exact congrArg _ (withAccess_misaligned _ _ _ _ hw _)
    · rw [exec_vscadd h, hm]
      exact congrArg _ (withAccess_misaligned _ _ _ _ hw _)
    · rw [exec_binapp h, binOp]
      exact congrArg _ (withAccess_misaligned _ _ _ _ hw _)
  · refine ⟨fun hw => ⟨?_, ?_⟩, fun hw => ⟨?_, ?_⟩, fun hw hf hc => ?_, fun hw => ?_⟩
    · rw [exec_ld h]
      exact congrArg _ (withAccess_misaligned _ _ _ _ hw _)
    · rw [exec_st h]
      exact congrArg _ (withAccess_misaligned _ _ _ _ hw _)
    · rw [exec_atomic (amo_eq ..) h]
      exact congrArg _ (withAccess_misaligned _ _ _ _ hw _)
    · rw [exec_atomic (acas_eq ..) h]
      exact congrArg _ (withAccess_misaligned _ _ _ _ hw _)
    · rw [exec_mshape h, hf]
      dsimp only
      rw [hc, if_neg Bool.false_ne_true]
      exact congrArg _ (withAccess_misaligned _ _ _ _ hw _)
    · rw [exec_binrst h, binOp]
      exact congrArg _ (withAccess_misaligned _ _ _ _ hw _)

/-- The state that accepted checks leave reads registers and flags of the bundle as before. -/
theorem Accepted.same {s s' : State} {th : Thread} {n : Need} {carry : Path → Bool} {w : Nat} {l : List Nat} {r : List (Nat × Nat × Path)}
    (h : Accepted s th n carry w l s' r) : SameButTlb s s' := checkAddrs_same h.1

theorem SameButTlb.key {s t : State} (h : SameButTlb s t) : t.issue.key = s.issue.key := by
  rw [h.1]

/-- Settles O27: accepted checks leave what the access reads; each syllable then launches what its lanes ask. -/
theorem loadsEnterFlight : Obligations.LoadsEnterFlight := by
  refine ⟨fun s s' th n carry w l r h => ?_, fun s s' th g ty d a b off va pa p hr h => ?_, fun s s' th g ty d v a b off l hr => ?_,
    fun s s' th g sh b off va pa p hr => ⟨fun v hv => ?_, fun hf hc => ?_, fun hf hc h hs => ?_⟩⟩
  · obtain ⟨h1, h2⟩ := h.same
    obtain ⟨h3, h4, -⟩ := checkAddrs_ok h.1
    exact ⟨h1, h2, h3, h4⟩
  · refine (exec_ld hr ..).trans (congrArg _ ((withAccess_accepted h _).trans ?_))
    simp only [h.same.rdS]
    rfl
  · intro on w
    refine ⟨fun h => ?_, fun h => ?_⟩
    · exact (exec_vectorLoad (vld_eq ..) hr).trans (congrArg _ (withAccess_accepted h _))
    · exact (exec_vectorLoad (vgather_eq ..) hr).trans (congrArg _ (withAccess_accepted h _))
  · rw [exec_mshape hr, hv]
  · rw [exec_mshape hr, hf]
    dsimp only
    rw [hc, if_pos rfl]
  · rw [exec_mshape hr, hf]
    dsimp only
    rw [hc, if_neg Bool.false_ne_true]
    refine congrArg _ ((withAccess_accepted h _).trans ?_)
    simp only [h.same.rdS]
    simp [hs]

theorem sink_freezes {s : State} (h : s.issue.src.psink = true) (th : Thread) (kind : Nat) (mask : Word) (wh : Nat) (k : State → State) :
    sink s th kind mask wh k = freeze (poisonRecord s (whoOf s.issue.key th) kind true mask wh) .poisonsink (some wh)
      (BitVec.ofNat 64 (kind * 2 ^ 32 + sinkSeq s (whoOf s.issue.key th).ctx % 2 ^ 32)) := if_pos h

theorem sink_passes {s : State} (h : s.issue.src.psink = false) (th : Thread) (kind : Nat) (mask : Word) (wh : Nat) (k : State → State) :
    sink s th kind mask wh k = k (poisonRecord s (whoOf s.issue.key th) kind false mask wh) := if_neg (by simp [h])

theorem storeLanes_clean {s : State} {g : PReg} {bad : Nat → Bool} (h : ∀ n ∈ lanesOn (rdP s g), bad n = false) (th : Thread) (ty : Ty)
    (d : VReg) (merge : Bool) (addr : Nat → Nat) (l : List (Nat × Nat × Path)) (u : State) :
    storeLanes s th g ty d merge addr bad l u = launch u th .store ty .none false ((((lanesOn (rdP s g)).zip l).filter (fun e =>
      !(merge && (lanesOn (rdP s g)).any (fun j => e.1 < j && addr j == addr e.1)))).map (fun e =>
      mkElem [e.1] e.2 (tyBytes ty) (((rdV s d).lane e.1).val.setWidth 64) 0 (List.replicate (tyBytes ty) true))) 0 false false := by
  unfold storeLanes
  congr 1
  refine List.map_congr_left fun e he => ?_
  have he' : (e.1, e.2) ∈ (lanesOn (rdP s g)).zip l := (List.mem_filter.1 he).1
  rw [h e.1 (List.of_mem_zip he').1]
  rfl

/-- Lanes of an accepted vector store that are clean all write. -/
theorem vectorStore_clean {s s' : State} {th : Thread} {g : PReg} {i : Instr} {ty : Ty} {d : VReg} {addr : Nat → Nat} {bad : Nat → Bool}
    {kind : Nat} {merge : Bool} {l : List (Nat × Nat × Path)} (hi : exec i s = vectorStore kind merge g ty d addr bad s)
    (hr : RunsV s th g) (h : Accepted s th needWr anyPath (tyBytes ty) ((lanesOn (rdP s g)).map addr) s' l)
    (hb : ∀ n ∈ lanesOn (rdP s g), (bad n || ((rdV s d).lane n).poison) = false) : exec i s = .next (launch s' th .store ty .none false
      ((((lanesOn (rdP s g)).zip l).filter (fun e => !(merge && (lanesOn (rdP s g)).any (fun j => e.1 < j && addr j == addr e.1)))).map (fun e =>
      mkElem [e.1] e.2 (tyBytes ty) (((rdV s d).lane e.1).val.setWidth 64) 0 (List.replicate (tyBytes ty) true))) 0 false false) := by
  rw [exec_vectorStore hi hr, withAccess_accepted h]
  dsimp only
  rw [filter_eq_nil hb]
  exact congrArg _ (storeLanes_clean hb ..)

/-- An accepted vector store with a sink lane, of which `j` is the first: its mask holds the sink lanes. -/
theorem vectorStore_sinks {s s' : State} {th : Thread} {g : PReg} {i : Instr} {ty : Ty} {d : VReg} {addr : Nat → Nat} {bad dirty : Nat → Bool}
    {kind j : Nat} {merge : Bool} {l : List (Nat × Nat × Path)} (hi : exec i s = vectorStore kind merge g ty d addr bad s)
    (hr : RunsV s th g) (h : Accepted s th needWr anyPath (tyBytes ty) ((lanesOn (rdP s g)).map addr) s' l)
    (hd : dirty = fun n => bad n || ((rdV s d).lane n).poison)
    (hj : (lanesOn (rdP s g)).find? dirty = some j) : exec i s = .next
      (sink s' th kind (vectorStore.maskOf (fun n => ((lanesOn (rdP s g)).filter dirty).contains n)) (addr j)
        (storeLanes s th g ty d merge addr dirty l)) := by
  subst hd
  obtain ⟨r, hf⟩ := filter_of_find? hj
  rw [exec_vectorStore hi hr, withAccess_accepted h]
  dsimp only
  rw [hf]

/-- Settles O28: what a sink does before the store is launched is in `sink`; which lanes it holds in `vectorStore_maskOf`. -/
theorem storesEnterFlight : Obligations.StoresEnterFlight := by
  refine ⟨fun s s' th g ty d a b off va pa p hr => ?_, fun s s' th g ty d v a b off l hr => ?_,
    fun s s' th g ty d v a b off l i kind merge addr bad j hr => ?_⟩
  · intro addr bad w h
    have he := (exec_st hr ty d a b off).trans (congrArg _ (withAccess_accepted h _))
    have hk := h.same.key
    have hs := h.same.src
    refine ⟨fun hb => ?_, fun hb hp => ?_, fun hb hp => ?_⟩
    all_goals
      have hb' : ((rdS s d).poison || (rdS s a).poison || (rdS s b).poison) = _ := hb
      refine he.trans (congrArg _ ?_)
      dsimp only
      rw [hb']
    · rfl
    · rw [if_pos rfl, sink_passes (by rw [hs, hp]), hk]
      rfl
    · rw [if_pos rfl, sink_freezes (by rw [hs, hp]), hk]
      rfl
  · intro on w elem va ha hd
    refine ⟨fun hb h => ?_, fun hv h => ?_⟩
    · refine (vectorStore_clean (addr := contigAddr s a b off (tyBytes ty)) (vst_eq ..) hr h fun n hn => ?_).trans ?_
      · rw [ha, hb, hd n hn]
        rfl
      · simp only [Bool.false_and, Bool.not_false, List.filter_true]
        rfl
    · refine (vectorStore_clean (addr := indexAddr s a v off) (vscatter_eq ..) hr h fun n hn => ?_).trans ?_
      · rw [ha, hv n hn, hd n hn]
        rfl
      · simp only [Bool.true_and]
        rfl
  · intro on w who hi h hj
    have hk := h.same.key
    have hs := h.same.src
    have he : exec i s = .next (sink s' th kind (vectorStore.maskOf (fun n => ((lanesOn (rdP s g)).filter bad).contains n)) (addr j)
        (storeLanes s th g ty d merge addr bad l)) := by
      rcases hi with ⟨rfl, rfl, rfl, ha, hb⟩ | ⟨rfl, rfl, rfl, ha, hb⟩
      · obtain rfl : addr = contigAddr s a b off (tyBytes ty) := funext ha
        exact vectorStore_sinks (vst_eq ..) hr h (funext hb) hj
      · obtain rfl : addr = indexAddr s a v off := funext ha
        exact vectorStore_sinks (vscatter_eq ..) hr h (funext hb) hj
    refine ⟨_, fun n hn => (vectorStore_maskOf _ hn).trans (contains_filter ..), fun hp => ?_, fun hp => ?_⟩
    · rw [he, sink_freezes (by rw [hs, hp]), hk]
    · rw [he, sink_passes (by rw [hs, hp]), hk]
      rfl

end Sys2Proof.Machine

namespace Sys2Proof.Machine

/-! The read-modify-writes enter flight. -/

theorem SameButTlb.rdV {s t : State} (h : SameButTlb s t) (v : VReg) : rdV t v = rdV s v := by
  simp only [Machine.rdV, h.src]

@[simp] theorem writeBytes_issue (s : State) (pa : Nat) (l : List Byte) : (writeBytes s pa l).issue = s.issue := by
  induction l generalizing s pa with
  | nil => rfl
  | cons b l ih => rw [writeBytes, ih, writeByte_issue]

@[simp] theorem writeClean_issue (s : State) (pa : Nat) (l : List Byte) : (writeClean s pa l).issue = s.issue := by
  refine (foldl_keeps State.issue _ (fun s x => ?_) _ _).trans (writeBytes_issue ..)
  dsimp only
  split_ifs <;> simp

@[simp] theorem poisonRecord_issue (s : State) (w : Who) (k : Nat) (act : Bool) (m : Word) (wh : Nat) :
    (poisonRecord s w k act m wh).issue = s.issue := writeClean_issue ..

theorem readLe_of_mem {s t : State} (h : t.mem = s.mem) (pa n : Nat) : readLe t pa n = readLe s pa n := by
  simp only [readLe, readBytes_eq, readByte, h]

theorem binCheck_of_mem {s t : State} (h : t.mem = s.mem) (va pa : Nat) : binCheck t va pa = binCheck s va pa := by
  have hw : binWord t = binWord s := funext fun a => funext fun i => readLe_of_mem h _ _
  unfold binCheck
  rw [hw]

theorem rdS_of_issue {s t : State} (h : t.issue = s.issue) (a : SReg) : rdS t a = rdS s a := by
  rw [rdS, rdS, h]

section
variable {s s' : State} {th : Thread} {g : PReg}

/-- A table whose header's checks hold is read, and its errors found, before the operation goes on. -/
theorem binOp_accepted {t : Nat} {x : Nat × Nat × Path} (ht : t < 0x2000000)
    (h : Accepted s th ⟨true, true, true, none⟩ (fun p => p == .own || p == .view) 64 [t] s' [x])
    (hh : readHeld s' th = false) (hs : storesOver s' th.uid (some x.2.2) x.2.1 64 = false)
    (hc : binCheck s' x.1 x.2.1 = none) (k : State → Nat × Nat × Path → State) :
    binOp s th t k = k (discover s' x.2.1 64) x := by
  have hp : (fun p : Path => (p == .own || p == .view) && decide (t < 0x2000000)) = fun p => p == .own || p == .view := by
    funext p
    rw [decide_eq_true ht, Bool.and_true]
  unfold binOp
  rw [hp, withAccess_accepted h]
  dsimp only
  rw [hh, hs, binCheck_of_mem (discover_mem ..), hc]
  rfl

/-- An atomic whose operands are clean is launched at its scope and order. -/
theorem atomic_clean {kind : AccKind} {i : Instr} {ty : Ty} {scp : Scope} {ord : Ord} {d a : SReg} {off : OffA} {v w : SVal}
    {x : Nat × Nat × Path} (hi : exec i s = atomic kind g ty scp ord d a off v w s) (hr : Runs s th g)
    (h : Accepted s th ⟨true, true, true, hostCap kind ty⟩ (atomicCarried kind ty) (tyBytes ty) [atomicAddr s a off] s' [x])
    (hb : ((rdS s a).poison || v.poison || w.poison) = false) : exec i s =
      .next (launch (if ord.code.getLsbD 1 then flushAt s' th scp.code.toNat else s') th kind ty (.s d) false
        [mkElem [0] x (tyBytes ty) v.val w.val [true]] scp.code.toNat (ord.code.getLsbD 0) (ord.code.getLsbD 1)) := by
  rw [exec_atomic hi hr, withAccess_accepted h, hb]
  rfl

/-- An atomic with a poisoned operand is a sink. -/
theorem atomic_sinks {kind : AccKind} {i : Instr} {ty : Ty} {scp : Scope} {ord : Ord} {d a : SReg} {off : OffA} {v w : SVal}
    {x : Nat × Nat × Path} (hi : exec i s = atomic kind g ty scp ord d a off v w s) (hr : Runs s th g)
    (h : Accepted s th ⟨true, true, true, hostCap kind ty⟩ (atomicCarried kind ty) (tyBytes ty) [atomicAddr s a off] s' [x])
    (hb : ((rdS s a).poison || v.poison || w.poison) = true) : exec i s =
      .next (sink s' th 5 1 (atomicAddr s a off) (fun u => putS (launch u th .store ty .none false
          [mkElem [0] x (tyBytes ty) 0 0 (List.replicate (tyBytes ty) false)] 0 false false) d 0 true)) := by
  rw [exec_atomic hi hr, withAccess_accepted h, hb, if_pos rfl]
  rfl

theorem rdS_binOp {x : Nat × Nat × Path} {t : Nat} {n : Need} {c : Path → Bool} {w : Nat}
    (h : Accepted s th n c w [t] s' [x]) (a : SReg) : rdS (discover s' x.2.1 64) a = rdS s a :=
  (rdS_of_issue (discover_issue ..) a).trans (h.same.rdS a)

/-- VSCADD with a sink lane, of which `j` is the first. -/
theorem vscadd_sinks {ty : Ty} {d v : VReg} {a : SReg} {off : Off} {l : List (Nat × Nat × Path)} {j : Nat} (hr : RunsV s th g)
    (h : Accepted s th ⟨true, true, true, none⟩ (fun p => p != .host) 4 ((lanesOn (rdP s g)).map (indexAddr s a v off)) s' l)
    {bad : Nat → Bool} (hd : bad = fun n => (rdS s a).poison || ((rdV s v).lane n).poison || ((rdV s d).lane n).poison)
    (hj : (lanesOn (rdP s g)).find? bad = some j) : exec (.vscadd g ty d a v off) s =
      .next (sink s' th 3 (vectorStore.maskOf (fun n => ((lanesOn (rdP s g)).filter bad).contains n)) (indexAddr s a v off j)
        (addLanes s th g ty d (indexAddr s a v off) bad l)) := by
  subst hd
  obtain ⟨r, hf⟩ := filter_of_find? hj
  rw [exec_vscadd hr, withAccess_accepted h]
  dsimp only
  rw [hf]

theorem vscadd_clean {ty : Ty} {d v : VReg} {a : SReg} {off : Off} {l : List (Nat × Nat × Path)} (hr : RunsV s th g)
    (h : Accepted s th ⟨true, true, true, none⟩ (fun p => p != .host) 4 ((lanesOn (rdP s g)).map (indexAddr s a v off)) s' l)
    {bad : Nat → Bool} (hd : bad = fun n => (rdS s a).poison || ((rdV s v).lane n).poison || ((rdV s d).lane n).poison)
    (hb : ∀ n ∈ lanesOn (rdP s g), bad n = false) : exec (.vscadd g ty d a v off) s =
      .next (addLanes s th g ty d (indexAddr s a v off) (fun _ => false) l s') := by
  subst hd
  rw [exec_vscadd hr, withAccess_accepted h]
  dsimp only
  rw [filter_eq_nil hb]
  dsimp only
  refine congrArg Host.Outcome.next ?_
  unfold addLanes
  congr 1
  refine List.map_congr_left fun e _ => ?_
  rw [List.any_eq_false.2 fun n hn => by simpa using hb n (List.mem_filter.1 hn).1,
    List.any_eq_false.2 fun n _ => Bool.false_ne_true]

/-- BINRST behind the checks of its header. -/
theorem binrst_accepted {a : SReg} {off : Off} {x : Nat × Nat × Path} (hr : Runs s th g) (ht : binAddr s a off < 0x2000000)
    (h : Accepted s th ⟨true, true, true, none⟩ (fun p => p == .own || p == .view) 64 [binAddr s a off] s' [x])
    (hh : readHeld s' th = false) (hs : storesOver s' th.uid (some x.2.2) x.2.1 64 = false)
    (hc : binCheck s' x.1 x.2.1 = none) : exec (.binrst g a off) s = .next (
      if (rdS s a).poison then sink (discover s' x.2.1 64) th 4 1 (binAddr s a off) (fun v => v)
      else launch (discover s' x.2.1 64) th (.binrst (binAddr s a off) (binWord (discover s' x.2.1 64) x.2.1 0)
        (binWord (discover s' x.2.1 64) x.2.1 3)) .u32 .none false [mkElem [0] x 64 0 0 []] 0 false false) := by
  rw [exec_binrst hr, binOp_accepted ht h hh hs hc, rdS_binOp h]

/-- What BINAPP enters from the clean lanes of its guard. -/
def binappLanes (s : State) (th : Thread) (g : PReg) (ty : Ty) (d v : VReg) (t : Nat) (x : Nat × Nat × Path) (bad : Nat → Bool)
    (z : State) : State :=
  launch z th (.binapp t (binWord z x.2.1 0) (binWord z x.2.1 2) (binWord z x.2.1 3) (binWord z x.2.1 4) (binWord z x.2.1 5)
    (binWord z x.2.1 6)) ty .none false
    (mkElem (lanesOn (rdP s g)) x 64 0 0 [] :: ((lanesOn (rdP s g)).filter (fun n => !bad n)).map (fun n =>
      { mkElem [n] x 4 (((rdV s v).lane n).val.setWidth 64) (((rdV s d).lane n).val.setWidth 64) [] with done := true })) 0 false false

/-- BINAPP behind the checks of its header. -/
theorem binapp_accepted {ty : Ty} {d v : VReg} {a : SReg} {off : Off} {x : Nat × Nat × Path} (hr : RunsV s th g)
    (ht : binAddr s a off < 0x2000000)
    (h : Accepted s th ⟨true, true, true, none⟩ (fun p => p == .own || p == .view) 64 [binAddr s a off] s' [x])
    (hh : readHeld s' th = false) (hs : storesOver s' th.uid (some x.2.2) x.2.1 64 = false)
    (hc : binCheck s' x.1 x.2.1 = none)
    {bad : Nat → Bool} (hd : bad = fun n => (rdS s a).poison || ((rdV s v).lane n).poison || ((rdV s d).lane n).poison) :
    exec (.binapp g ty d a v off) s = .next (
      if ((lanesOn (rdP s g)).filter bad).isEmpty then
        (if (rdS s a).poison then discover s' x.2.1 64 else binappLanes s th g ty d v (binAddr s a off) x bad (discover s' x.2.1 64))
      else sink (discover s' x.2.1 64) th 4 (vectorStore.maskOf (fun n => ((lanesOn (rdP s g)).filter bad).contains n)) (binAddr s a off)
        (fun z => if (rdS z a).poison then z else binappLanes s th g ty d v (binAddr s a off) x bad z)) := by
  subst hd
  rw [exec_binapp hr, binOp_accepted ht h hh hs hc]
  dsimp only
  rw [rdS_binOp h]
  rfl

end

/-- Settles O30: behind the accepted checks each syllable is a launch, or a sink whose passing branch is that launch. -/
theorem atomicsEnterFlight : Obligations.AtomicsEnterFlight := by
  refine ⟨fun s s' th g ty scp ord op d a b c off x hr ha hb => ⟨fun h => ?_, fun hc h => ?_⟩,
    fun s s' th g ty scp ord op d a b c off x i kind hr => ?_, ?_, ?_, ?_, ?_⟩
  · exact atomic_clean (amo_eq ..) hr h (by rw [ha, hb]; rfl)
  · exact atomic_clean (acas_eq ..) hr h (by rw [ha, hb, hc]; rfl)
  · intro w addr who hi h
    have he : exec i s = .next (sink s' th 5 1 (atomicAddr s a off) (fun u => putS (launch u th .store ty .none false
          [mkElem [0] x (tyBytes ty) 0 0 (List.replicate (tyBytes ty) false)] 0 false false) d 0 true)) := by
      rcases hi with ⟨rfl, rfl, hb⟩ | ⟨rfl, rfl, hb⟩
      · exact atomic_sinks (amo_eq ..) hr h (by rw [hb]; rfl)
      · exact atomic_sinks (acas_eq ..) hr h hb
    refine ⟨fun hp => ?_, fun hp => ?_⟩
    · rw [he, sink_freezes (by rw [h.same.src, hp]), h.same.key]
      rfl
    · rw [he, sink_passes (by rw [h.same.src, hp]), h.same.key]
      rfl
  · intro s s' th g ty d v a off l j hr on who va bad group h hj
    have he := vscadd_sinks (ty := ty) hr h rfl hj
    refine ⟨_, fun n hn => (vectorStore_maskOf _ hn).trans (contains_filter ..), fun hp => ?_, fun hp => ?_⟩
    · rw [he, sink_freezes (by rw [h.same.src, hp]), h.same.key]
      rfl
    · rw [he, sink_passes (by rw [h.same.src, hp]), h.same.key]
      rfl
  · intro s s' th g ty d v a off x t who on bad u stop ht h hh hs hc
    have hp : ∀ b, s.issue.src.psink = b → u.issue.src.psink = b := fun b hb => by
      rw [discover_issue, h.same.src, hb]
    have hk : u.issue.key = s.issue.key := by rw [discover_issue, h.same.key]
    refine ⟨fun hr ha => ?_, fun hr hb => ?_⟩
    · have he := binrst_accepted hr ht h hh hs hc
      rw [if_pos ha] at he
      refine ⟨fun hb => ?_, fun hb => ?_⟩
      · rw [he, sink_freezes (hp _ hb), hk]
        rfl
      · rw [he, sink_passes (hp _ hb), hk]
        rfl
    · have he := binapp_accepted (ty := ty) (d := d) (v := v) hr ht h hh hs hc rfl
      rw [if_neg] at he
      · refine ⟨_, fun n hn => (vectorStore_maskOf _ hn).trans (contains_filter ..), fun hb => ?_, fun hb ha => ?_, fun hb ha => ?_⟩
        · rw [he, sink_freezes (hp _ hb), hk]
          rfl
        · rw [he, sink_passes (hp _ hb), hk]
          exact congrArg _ (if_pos (by rw [rdS_of_issue (poisonRecord_issue ..), rdS_binOp h, ha]))
        · rw [he, sink_passes (hp _ hb), hk]
          exact congrArg _ (if_neg (by rw [rdS_of_issue (poisonRecord_issue ..), rdS_binOp h, ha]; simp))
      · obtain ⟨n, hn, hbn⟩ := hb
        rw [List.isEmpty_iff, List.filter_eq_nil_iff]
        exact fun hall => hall n hn hbn
  · intro s s' th g ty d v a off l hr on va ha hb h
    refine (vscadd_clean (ty := ty) (d := d) hr h rfl fun n hn => ?_).trans ?_
    · rw [ha, (hb n hn).1, (hb n hn).2]
      rfl
    · unfold addLanes
      simp only [List.any_eq_false.2 fun (n : Nat) (_ : n ∈ _) => Bool.false_ne_true, Bool.not_false]
      rfl
  · intro s s' th g ty d v a off x t pa word ha ht h hh hs hc u
    have hw : ∀ i, binWord u pa i = word i := fun i => readLe_of_mem (discover_mem ..) _ _
    refine ⟨fun hr => ?_, fun hr hb => ?_⟩
    · have he := binrst_accepted hr ht h hh hs hc
      rw [ha, if_neg Bool.false_ne_true] at he
      refine he.trans ?_
      simp only [← hw]
      rfl
    · have he := binapp_accepted (ty := ty) (d := d) (v := v) hr ht h hh hs hc rfl
      have hc : ∀ n ∈ lanesOn (rdP s g), ((rdS s a).poison || ((rdV s v).lane n).poison || ((rdV s d).lane n).poison) = false := by
        intro n hn
        rw [ha, (hb n hn).1, (hb n hn).2]
        rfl
      rw [filter_eq_nil hc, if_pos List.isEmpty_nil, if_neg (by simp [ha])] at he
      refine he.trans (congrArg _ ?_)
      unfold binappLanes
      rw [List.filter_eq_self.2 fun n hn => congrArg (!·) (hc n hn)]
      simp only [← hw]
      rfl

end Sys2Proof.Machine

namespace Sys2Proof.Machine

/-! The matrix syllables at issue. -/

section
variable {s : State} {th : Thread} {g : PReg}

theorem exec_mzero (h : Runs s th g) (ac : AcReg) : exec (.mzero g ac) s = .next (enqueueM s th .mzero ac 0 0 0) := syllable_runs h _

theorem exec_mrd (h : Runs s th g) (v : VReg) (ac : AcReg) (b : SReg) : exec (.mrd g v ac b) s =
    .next (enqueueM s th (.mrd v ((rdS s b).val.toNat % 16) (rdS s b).poison) ac 0 0 0) := syllable_runs h _

theorem exec_mwr (h : Runs s th g) (ac : AcReg) (v : VReg) (b : SReg) : exec (.mwr g ac v b) s =
    .next (enqueueM s th (.mwr ((rdS s b).val.toNat % 16) (rdV s v) (rdS s b).poison) ac 0 0 0) := syllable_runs h _

theorem draw_tile (s : State) (m : Mode) : (draw s m).1.tile = s.tile := by
  unfold draw
  split
  next => simp only [State.tile, setRegs_issue]
  next => rfl

/-- A multiply whose record passes its checks enters the queue with its random bits. -/
theorem issueMultiply_accepted {kind : MKind} {cb : Bool} {ty : Ty} {sh : ShReg} (h : Runs s th g)
    (hc : shapeCheck (s.issue.src.rdSh sh) ty cb = none) (rm : Rm) (ac : AcReg) : issueMultiply kind cb g ty rm ac sh s =
      .next (enqueueM (draw s (Mode.ofCode (rm.mode s.issue.src.rm))).1 th kind ac (s.issue.src.rdSh sh).bits (rm.mode s.issue.src.rm)
        (draw s (Mode.ofCode (rm.mode s.issue.src.rm))).2) := by
  refine (syllable_runs h _).trans (congrArg _ ?_)
  dsimp only
  rw [hc]

theorem issueMultiply_refused {kind : MKind} {cb : Bool} {ty : Ty} {sh : ShReg} {f : Nat × Nat × Nat} (h : Runs s th g)
    (hc : shapeCheck (s.issue.src.rdSh sh) ty cb = some f) (rm : Rm) (ac : AcReg) : issueMultiply kind cb g ty rm ac sh s =
      .next (freeze s .shape none (shapeAux f s.issue.idx sh)) := by
  refine (syllable_runs h _).trans (congrArg _ ?_)
  dsimp only
  rw [hc]

end

theorem shField_eq (b : BitVec 128) (lo w : Nat) : shField b lo w = (b.extractLsb' lo w).toNat := by
  rw [shField, BitVec.extractLsb'_toNat, Nat.shiftRight_eq_div_pow]

/-- Table 9.4 as a table, in its order. -/
def shapeTable (r : Shape) (ty : Ty) (cb : Bool) : List (Bool × Nat × Nat × Nat) :=
  let b := r.bits
  let rb := shField b 48 8
  let c := shField b 56 8
  let k := shField b 64 16
  let lim := if cb || ty.bits = 8 then 512 else 256
  [(decide (rb < shRows b), 1, shRows b, rb), (decide (c < shCols b), 2, shCols b, c), (decide (k < shK b), 3, shK b, k),
    (decide (32 < rb), 4, rb, 32), (decide (32 < c), 4, c, 32), (decide (32 < shA0 b + rb), 4, shA0 b + rb, 32),
    (decide (32 < shB0 b + c), 4, shB0 b + c, 32), (decide (lim < k), 5, k, lim),
    (((shSca b || shScb b) && (ty.bits == 16 || shK b % 32 != 0)) || (cb && shK b % 128 != 0), 6, 0, 0), (!r.valid, 7, 0, 0)]

theorem find?_map_cons {α : Type} (c : Bool) (x : α) (l : List (Bool × α)) :
    (((c, x) :: l).find? (fun e => e.1)).map (fun e => e.2) = if c then some x else (l.find? (fun e => e.1)).map (fun e => e.2) := by
  cases c <;> rfl

/-- The two ways to say which kdim a scaled multiply takes: a multiple of 128 is one of 32. -/
theorem scaled_kdim (sc cb b16 : Bool) (k : Nat) : ((sc && b16) || ((sc || cb) && k % 32 != 0) || (cb && k % 128 != 0)) =
    ((sc && (b16 || k % 32 != 0)) || (cb && k % 128 != 0)) := by
  by_cases h : k % 128 = 0
  · have : k % 32 = 0 := by omega
    simp [h, this]
  · cases sc <;> cases cb <;> cases b16 <;> simp [h]

theorem shapeCheck_eq (r : Shape) (ty : Ty) (cb : Bool) :
    shapeCheck r ty cb = ((shapeTable r ty cb).find? (fun e => e.1)).map (fun e => e.2) := by
  unfold shapeTable shapeCheck
  dsimp only
  simp only [find?_map_cons, decide_eq_true_eq, List.find?_nil, Option.map_none]
  rw [scaled_kdim]
  rfl

/-- The bounds of Table 9.4 that a failed check names. -/
theorem shapeCheck_bounds {r : Shape} {ty : Ty} {cb : Bool} {why val bnd : Nat} (h : shapeCheck r ty cb = some (why, val, bnd)) :
    why < 16 ∧ bnd < 65536 := by
  have h1 : shField r.bits 48 8 < 256 := Nat.mod_lt _ (by decide)
  have h2 : shField r.bits 56 8 < 256 := Nat.mod_lt _ (by decide)
  have h3 : shField r.bits 64 16 < 65536 := Nat.mod_lt _ (by decide)
  unfold shapeCheck at h
  dsimp only at h
  split_ifs at h <;> cases h <;> omega

theorem shapeAux_fields {why val bnd idx : Nat} (hw : why < 16) (hb : bnd < 65536) (hi : idx < 8) (sh : ShReg) :
    let aux := shapeAux (why, val, bnd) idx sh
    aux.extractLsb' 0 4 = BitVec.ofNat 4 why ∧ aux.extractLsb' 4 4 = 0 ∧ aux.extractLsb' 8 3 = sh ∧ aux.getLsbD 11 = false ∧
      aux.extractLsb' 12 3 = BitVec.ofNat 3 idx ∧ aux.getLsbD 15 = false ∧ aux.extractLsb' 16 16 = BitVec.ofNat 16 bnd ∧
      aux.extractLsb' 32 16 = BitVec.ofNat 16 val ∧ aux.extractLsb' 48 16 = 0 := by
  have hs := sh.isLt
  have hv : val % 65536 < 65536 := Nat.mod_lt _ (by decide)
  have ha : (shapeAux (why, val, bnd) idx sh).toNat = val % 65536 * 4294967296 + bnd * 65536 + idx * 4096 + sh.toNat * 256 + why := by
    rw [shapeAux, BitVec.toNat_ofNat]
    exact Nat.mod_eq_of_lt (by dsimp only; omega)
  generalize shapeAux (why, val, bnd) idx sh = aux at ha
  refine ⟨?_, ?_, ?_, ?_, ?_, ?_, ?_, ?_, ?_⟩
  case refine_4 =>
    rw [BitVec.getLsbD, Nat.testBit_eq_decide_div_mod_eq, ha, decide_eq_false_iff_not]
    omega
  case refine_6 =>
    rw [BitVec.getLsbD, Nat.testBit_eq_decide_div_mod_eq, ha, decide_eq_false_iff_not]
    omega
  case refine_3 =>
    apply BitVec.eq_of_toNat_eq
    rw [BitVec.extractLsb'_toNat, Nat.shiftRight_eq_div_pow, ha]
    omega
  case' refine_2 | refine_9 => refine BitVec.eq_of_toNat_eq (Eq.trans (b := 0) ?_ rfl)
  case' refine_1 | refine_5 | refine_7 | refine_8 => refine BitVec.eq_of_toNat_eq (Eq.trans ?_ (BitVec.toNat_ofNat ..).symm)
  all_goals
    rw [BitVec.extractLsb'_toNat, Nat.shiftRight_eq_div_pow, ha]
    omega

/-- Settles O25: each syllable is one entry at the end of the queue; Table 9.4 is `shapeTable`. -/
theorem matrixSyllablesQueue : Obligations.MatrixSyllablesQueue := by
  intro s th g ty rm wt ac sh oba obb v b h op queued hrow r m e t
  refine ⟨exec_mzero h ac, exec_mrd h v ac b, exec_mwr h ac v b, fun hc => ?_, fun hc => ⟨?_, fun ht => ?_⟩, fun cb i why val bnd hi hx hc => ?_,
    fun cb => ?_⟩
  · refine (issueMultiply_accepted h hc rm ac).trans ?_
    unfold enqueueM
    rw [draw_tile]
  · refine (issueMultiply_accepted h hc rm ac).trans ?_
    unfold enqueueM
    rw [draw_tile]
  · have hn : t = tableNow s s.tile := by
      show s.issue.table.getD _ = _
      rw [ht]
      rfl
    rw [hn]
    exact ⟨rfl, rfl⟩
  · obtain ⟨hw, hb⟩ := shapeCheck_bounds hc
    refine ⟨_, ?_, shapeAux_fields hw hb hx sh⟩
    cases cb
    · rw [hi]
      exact issueMultiply_refused h hc rm ac
    · rw [hi]
      exact issueMultiply_refused h hc rm ac
  · refine (shapeCheck_eq r ty cb).trans ?_
    simp only [shapeTable, shField_eq]

end Sys2Proof.Machine

namespace Sys2Proof.Machine

/-! The response of an access. -/

/-- Nothing of an access is left to answer once its elements have all taken effect. -/
theorem answered_done {a : Access} (h : ∀ e ∈ a.elems, e.done = true) (i : Nat) : answered a i = [] := by
  unfold answered
  split
  next => rfl
  next e he =>
    have hd := h e (List.mem_of_getElem? he)
    split
    next =>
      refine filter_eq_nil fun f hf => ?_
      have hm : (f.1, f.2) ∈ (upTo a.elems.length).zip a.elems := (List.mem_filter.1 hf).1
      rw [h f.2 (List.of_mem_zip hm).2]
      simp
    next => simp [hd]

theorem remoteAnswer_done {s : State} {a : Access} (h : ∀ e ∈ a.elems, e.done = true) (i : Nat) (ext : Ext) : remoteAnswer s a i ext = s := by
  unfold remoteAnswer
  rw [answered_done h]
  dsimp only
  split <;> rfl

/-- What waking a tile does to a thread: nothing, or to its status alone. -/
theorem threadAt_wakeTile {s : State} {t k : Nat} {th : Thread} (h : threadAt s k = some th) :
    ∃ st, threadAt (wakeTile s t) k = some { th with status := st } := by
  unfold wakeTile
  generalize threadsOn s t = l
  induction l generalizing s th with
  | nil => exact ⟨th.status, h⟩
  | cons e l ih =>
    rw [List.foldl_cons]
    split
    next =>
      have hs : ∃ st, threadAt (setStatus s e.1 .ready) k = some { th with status := st } := by
        rw [setStatus, threadAt_updThread]
        split
        next he => exact ⟨.ready, by rw [← he, h]; rfl⟩
        next => exact ⟨th.status, h⟩
      obtain ⟨st, hs⟩ := hs
      obtain ⟨st', hs'⟩ := ih hs
      exact ⟨st', hs'⟩
    next => exact ih h

@[simp] theorem updThread_inflight (s : State) (k : Nat) (f : Thread → Thread) : (updThread s k f).inflight = s.inflight := by
  obtain ⟨m, h⟩ := updThread_eq s k f
  rw [h]

@[simp] theorem wakeTile_inflight (s : State) (t : Nat) : (wakeTile s t).inflight = s.inflight := by
  refine foldl_keeps State.inflight _ (fun s x => ?_) _ _
  split
  next => exact updThread_inflight _ _ _
  next => rfl

@[simp] theorem updOwner_inflight (s : State) (u : Nat) (f : Thread → Thread) : (updOwner s u f).inflight = s.inflight := by
  unfold updOwner
  split
  next => exact updThread_inflight _ _ _
  next => rfl

/-- The state that an access has left. -/
def withoutAccess (s : State) (id : Nat) : State :=
  { s with inflight := s.inflight.filter (fun b => b.id != id), arrived := s.arrived.filter (fun x => x.1 != id) }

/-- The thread of an access that leaves flight: its result is written, and its bundle keeps what it has read. -/
def takeResult (a : Access) (th : Thread) : Thread :=
  { th with regs := accResult a th.regs, bundle := th.bundle.map (fun b => { b with kept := keepRead a b.kept }) }

theorem takeResult_none {a : Access} (h : a.dst = .none) (th : Thread) : takeResult a th = th := by
  cases th with
  | mk => simp only [takeResult, accResult, keepRead, h, Option.map_id']

theorem retire_eq {s : State} {id : Nat} {a : Access} (h : accAt s id = some a) : retire s id =
    wakeTile (if a.dst = .none then withoutAccess s id else updOwner (withoutAccess s id) a.uid (takeResult a)) a.tile := by
  unfold retire
  rw [h]
  rfl

theorem retire_inflight {s : State} {id : Nat} {a : Access} (h : accAt s id = some a) :
    (retire s id).inflight = s.inflight.filter (fun b => b.id != id) := by
  rw [retire_eq h, wakeTile_inflight]
  split
  next => rfl
  next => rw [updOwner_inflight, withoutAccess]

theorem threadAt_retire {s : State} {id k : Nat} {a : Access} {th : Thread} (h : accAt s id = some a) (hk : keyOfUid s a.uid = some k)
    (ht : threadAt s k = some th) : ∃ st, threadAt (retire s id) k = some { takeResult a th with status := st } := by
  have hw : threadAt (withoutAccess s id) k = some th := ht
  have hk' : keyOfUid (withoutAccess s id) a.uid = some k := hk
  rw [retire_eq h]
  split
  next hd =>
    rw [takeResult_none hd]
    exact threadAt_wakeTile hw
  next hd =>
    refine threadAt_wakeTile ?_
    rw [updOwner, hk']
    dsimp only
    rw [threadAt_updThread, if_pos rfl, hw]
    rfl

/-! The lanes of a vector access: what each element writes. -/

theorem lane_foldl_const (x : Lane) (l : List Nat) (v : Vec) (i : Nat) :
    Vec.lane (l.foldl (fun v i => setNth x v i) v) i = if i ∈ l ∧ i < v.length then x else v.lane i := by
  induction l generalizing v with
  | nil => simp
  | cons j l ih =>
    rw [List.foldl_cons, ih, length_setNth, lane_setNth]
    by_cases h1 : i ∈ l <;> by_cases h2 : i < v.length <;> by_cases h3 : i = j <;> simp_all

theorem length_foldl_setNth (x : Lane) (l : List Nat) (v : Vec) : (l.foldl (fun v i => setNth x v i) v).length = v.length := by
  induction l generalizing v with
  | nil => rfl
  | cons j l ih => rw [List.foldl_cons, ih, length_setNth]

section
variable (f : Elem → Lane)

/-- The vector with the lanes of each element written with its own value. -/
def writeElems (l : List Elem) (v : Vec) : Vec := l.foldl (fun v e => e.lanes.foldl (fun v i => setNth (f e) v i) v) v

theorem writeElems_cons (e : Elem) (l : List Elem) (v : Vec) :
    writeElems f (e :: l) v = writeElems f l (e.lanes.foldl (fun v i => setNth (f e) v i) v) := rfl

theorem lane_writeElems_of_not_mem {l : List Elem} {i : Nat} (h : ∀ e ∈ l, i ∉ e.lanes) (v : Vec) : Vec.lane (writeElems f l v) i = v.lane i := by
  induction l generalizing v with
  | nil => rfl
  | cons e l ih =>
    rw [writeElems_cons, ih (fun d hd => h d (List.mem_cons_of_mem _ hd)), lane_foldl_const, if_neg fun hc => h e List.mem_cons_self hc.1]

/-- Elements of disjoint lanes: each lane holds what its own element wrote. -/
theorem lane_writeElems_of_mem {l : List Elem} (hp : l.Pairwise (fun e d => ∀ i ∈ e.lanes, i ∉ d.lanes)) {e : Elem} (he : e ∈ l) {i : Nat}
    (hi : i ∈ e.lanes) (v : Vec) (hv : i < v.length) : Vec.lane (writeElems f l v) i = f e := by
  induction l generalizing v with
  | nil => cases he
  | cons d l ih =>
    obtain ⟨hd, hl⟩ := List.pairwise_cons.1 hp
    rw [writeElems_cons]
    rcases List.mem_cons.1 he with rfl | he
    · rw [lane_writeElems_of_not_mem f (fun b hb => hd b hb i hi), lane_foldl_const, if_pos ⟨hi, hv⟩]
    · exact ih hl he _ (by rwa [length_foldl_setNth])

end

/-- Settles O36: an answered access leaves flight with nothing more done to it, and its thread takes its result. -/
theorem responsesWriteRegisters : Obligations.ResponsesWriteRegisters := by
  intro s n k ext a th ha hans hk ht
  have hid : a.id = n / 64 := by simpa using List.find?_some ha
  have hd : ∀ e ∈ a.elems, e.done = true := by
    have h1 := (Bool.and_eq_true _ _ ▸ hans : _ ∧ _).1
    intro e he
    have h2 := List.all_eq_true.1 h1 e he
    simp only [Bool.and_eq_true] at h2
    exact h2.1
  have he : exec (.memoryResponse n ext) s = .next (retire s a.id) := by
    refine (congrArg Host.Outcome.next ?_ : execMemoryResponse n ext s = _)
    rw [ha]
    dsimp only
    rw [remoteAnswer_done hd, hid, respond, ha]
    exact if_pos hans
  rw [← hid] at ha
  obtain ⟨st, hth⟩ := threadAt_retire ha hk ht
  have hr : (takeResult a th).regs = accResult a th.regs := rfl
  have hb : (takeResult a th).bundle = th.bundle.map (fun b => { b with kept := keepRead a b.kept }) := rfl
  refine ⟨_, _, he, retire_mem _ _, retire_inflight ha, hth, fun h => ?_, fun r h => ?_, fun h => ?_, fun d e l h hl => ?_,
    fun v h hkind hlen hp => ?_⟩
  · exact hr.trans (by rw [accResult, h])
  · exact ⟨hr.trans (by rw [accResult, h]), hb.trans (by simp only [keepRead, h])⟩
  · exact ⟨hr.trans (by rw [accResult, h]), hb.trans (by simp only [keepRead, h])⟩
  · refine hr.trans ?_
    rw [accResult, h]
    dsimp only
    rw [hl]
    rfl
  · refine ⟨writeElems (fun e => ⟨BitVec.ofNat 32 (extend a.ty 32 e.got.toNat), a.poison || e.gotP || nth false e.mask 0⟩) a.elems (th.regs.rdV v),
      ?_, fun e hm i hi hlt => lane_writeElems_of_mem _ hp hm hi _ (by omega), fun i hi => lane_writeElems_of_not_mem _ hi _⟩
    refine hr.trans ?_
    rw [accResult, h]
    dsimp only
    rw [hkind]
    rfl

end Sys2Proof.Machine

namespace Sys2Proof.Machine

/-! PUB. -/

theorem getLsbD_foldl_bits (f : Nat → Bool) (n : Nat) {i : Nat} (hi : i < 64) :
    ((upTo n).foldl (fun m i => if f i then m ||| (1#64 <<< i) else m) 0#64).getLsbD i = (decide (i < n) && f i) := by
  unfold upTo
  induction n with
  | zero => simp
  | succ n ih =>
    rw [List.range_succ, List.foldl_append, List.foldl_cons, List.foldl_nil]
    have hone : (1#64 <<< n).getLsbD i = decide (i = n) := by
      rw [BitVec.getLsbD_shiftLeft, BitVec.getLsbD_one, Bool.eq_iff_iff]
      simp only [Bool.and_eq_true, Bool.not_eq_true', decide_eq_true_eq, decide_eq_false_iff_not]
      omega
    have hlt : decide (i < n + 1) = (decide (i < n) || decide (i = n)) := by
      rw [← Bool.decide_or]
      exact decide_eq_decide.2 (by omega)
    rw [hlt]
    by_cases hf : f n
    · rw [if_pos hf, BitVec.getLsbD_or, ih, hone]
      by_cases hin : i = n
      · simp [hin, hf]
      · simp [hin]
    · rw [if_neg hf, ih]
      by_cases hin : i = n
      · simp [hin, hf]
      · simp [hin]

theorem getLsbD_pubMap (per : List Bool) (bad : Bool) {i : Nat} (hi : i < 64) : (pubMap per bad).getLsbD i =
    (decide (256 * i < per.length) && (bad || ((per.drop (256 * i)).take 256).any (fun x => x))) := by
  have hn : decide (i < (per.length + 255) / 256) = decide (256 * i < per.length) := decide_eq_decide.2 (by omega)
  rw [pubMap, ← hn]
  exact getLsbD_foldl_bits _ _ hi

theorem nameCtx_mkName (t c x i p : Nat) : nameCtx (mkName t c x i p) = x % 256 := by
  rw [nameCtx, nameField, mkName, BitVec.toNat_ofNat]
  omega

/-- Below system privilege a name has the context of its instance. -/
theorem nameCtx_pairName {s : State} {th : Thread} (h : th.priv ≠ 2) (n : NPair) : nameCtx (pairName s th n) = s.issue.src.tag.toNat / 65536 := by
  have := s.issue.src.tag.isLt
  rw [pairName, ownName, if_neg h, nameCtx_mkName]
  omega

/-- What a privilege may publish (Table 3.2). -/
def MayPublish (th : Thread) (n : Name) : Prop :=
  th.priv = 2 ∨ (nameTid n < 0xFF0000 ∧ namePlane n ≠ 3 ∧ namePlane n ≠ 4 ∧ (th.priv = 1 ∨ namePlane n ≠ 2))

/-- The first of PUB's checks: what its privilege may not publish. -/
def pubForbidden (th : Thread) (n : Name) : Bool :=
  (th.priv = 0 && (namePlane n = 2 || namePlane n = 3 || namePlane n = 4)) || (th.priv = 1 && (namePlane n = 3 || namePlane n = 4)) ||
    (th.priv < 2 && 0xFF0000 ≤ nameTid n)

theorem pubForbidden_of_not_may {th : Thread} {n : Name} (hp : th.priv < 2) (h : ¬MayPublish th n) : pubForbidden th n = true := by
  unfold MayPublish at h
  unfold pubForbidden
  simp only [Bool.or_eq_true, Bool.and_eq_true, decide_eq_true_eq]
  omega

theorem pubForbidden_of_may {th : Thread} {n : Name} (h : MayPublish th n) : pubForbidden th n = false := by
  unfold MayPublish at h
  unfold pubForbidden
  simp only [Bool.or_eq_false_iff, Bool.and_eq_false_imp, decide_eq_true_eq, decide_eq_false_iff_not]
  omega

theorem pubCheck_eq (s : State) (th : Thread) (n : Name) (b len : Nat) : pubCheck s th n b len =
    if pubForbidden th n then some (.priv, none, BitVec.ofNat 64 (4 * 2 ^ 24 + s.issue.idx * 2 ^ 8))
    else if b % 8 != 0 then some (.align, some b, 8)
    else if 16384 < len || !inPad s.tile b len then some (.perm, some b, 0)
    else none := rfl

section
variable {s : State} {th : Thread} {g : PReg}

theorem exec_pub (h : Runs s th g) (scp : Scope) (rel : Bool) (n : NPair) (b c : SReg) : exec (.pub g scp rel n b c) s = .next (
    match pubCheck s th (pairName s th n) (rdS s b).val.toNat (rdS s c).val.toNat with
    | some (cls, a, aux) => freeze s cls a aux
    | none =>
      match (if (rdS s c).val.toNat = 0 then some ([], []) else s.issue.payload) with
      | some (data, bad) => publish s th (pubMake s (pairName s th n) scp rel data
          (pubMap bad ((rdS s (pairLo n)).poison || (rdS s (pairHi n)).poison || (rdS s c).poison)))
      | none =>
        if payloadComing s th.uid || storesOver s th.uid none (padBase s.tile + (rdS s b).val.toNat) (rdS s c).val.toNat then waitFor s .cond
        else waitFor (readPayload s th (rdS s b).val.toNat (rdS s c).val.toNat) .cond) := syllable_runs h _

end

/-- PUB. -/
theorem pub_publishes (s : State) (th : Thread) (g : PReg) (scp : Scope) (rel : Bool) (n : NPair) (b c : SReg) (hr : Runs s th g) :
    let name := pairName s th n
    let base := (rdS s b).val.toNat
    let len := (rdS s c).val.toNat
    let pa := padBase s.tile + base
    let bad := (rdS s (pairLo n)).poison || (rdS s (pairHi n)).poison || (rdS s c).poison
    (th.priv < 2 → ¬MayPublish th name → exec (.pub g scp rel n b c) s = .next (freeze s .priv none (BitVec.ofNat 64 (4 * 2 ^ 24 + s.issue.idx * 2 ^ 8)))) ∧
    (MayPublish th name → base % 8 ≠ 0 → exec (.pub g scp rel n b c) s = .next (freeze s .align (some base) 8)) ∧
    (MayPublish th name → base % 8 = 0 → (16384 < len ∨ padSize s.tile ≤ base ∨ padSize s.tile < base + len) →
      exec (.pub g scp rel n b c) s = .next (freeze s .perm (some base) 0)) ∧
    (MayPublish th name → base % 8 = 0 → len ≤ 16384 → base < padSize s.tile → base + len ≤ padSize s.tile →
      (len ≠ 0 → s.issue.payload = none →
        ((payloadComing s th.uid = true ∨ storesOver s th.uid none pa len = true) →
          exec (.pub g scp rel n b c) s = .next (waitFor s .cond)) ∧
        (payloadComing s th.uid = false → storesOver s th.uid none pa len = false →
          exec (.pub g scp rel n b c) s = .next (waitFor (readPayload s th base len) .cond))) ∧
      ∀ data per, (if len = 0 then data = [] ∧ per = [] else s.issue.payload = some (data, per)) →
        exec (.pub g scp rel n b c) s = .next (publish s th (pubMake s name scp rel data (pubMap per bad)))) := by
  intro name base len pa bad
  refine ⟨fun hp hm => ?_, fun hm hb => ?_, fun hm hb hl => ?_, fun hm hb hl h1 h2 => ?_⟩
  · rw [exec_pub hr, pubCheck_eq, if_pos (pubForbidden_of_not_may hp hm)]
  · rw [exec_pub hr, pubCheck_eq, if_neg (by rw [pubForbidden_of_may hm]; simp), if_pos (by simpa using hb)]
  · rw [exec_pub hr, pubCheck_eq, if_neg (by rw [pubForbidden_of_may hm]; simp), if_neg (by simpa using hb), if_pos]
    simp only [inPad, Bool.or_eq_true, Bool.not_eq_true', Bool.and_eq_false_iff, decide_eq_true_eq, decide_eq_false_iff_not]
    omega
  · have hc : pubCheck s th (pairName s th n) (rdS s b).val.toNat (rdS s c).val.toNat = none := by
      rw [pubCheck_eq, if_neg (by rw [pubForbidden_of_may hm]; simp), if_neg (by simpa using hb), if_neg]
      simp only [inPad, Bool.or_eq_true, Bool.not_eq_true', Bool.and_eq_false_iff, decide_eq_true_eq, decide_eq_false_iff_not]
      omega
    have he := exec_pub hr scp rel n b c
    rw [hc] at he
    dsimp only at he
    refine ⟨fun h0 hn => ?_, fun data per hd => ?_⟩
    · rw [if_neg h0, hn] at he
      refine ⟨fun hw => ?_, fun hw hs => ?_⟩
      · rw [he]
        exact congrArg _ (if_pos (by simpa using hw))
      · rw [he]
        refine congrArg _ (if_neg ?_)
        rw [hw, hs]
        simp
    · rw [he]
      split at hd
      next h0 =>
        obtain ⟨rfl, rfl⟩ := hd
        rw [if_pos h0]
      next h0 => rw [if_neg h0, hd]

/-- The words of a payload read: aligned 32-bit words, the last of them cut at the length. -/
theorem readPayload_eq (s : State) (th : Thread) (base len : Nat) : ∃ x, readPayload s th base len = addAccess s x ∧ x.kind = .load ∧
    x.dst = .payload ∧ x.uid = th.uid ∧ x.elems.length = (len + 3) / 4 ∧ ∀ i e, x.elems[i]? = some e →
      e.pa = padBase s.tile + base + 4 * i ∧ e.path = .own ∧ e.w = (if len < 4 * i + 4 then len - 4 * i else 4) ∧ e.done = false := by
  refine ⟨_, rfl, rfl, rfl, rfl, ?_, fun i e he => ?_⟩
  · dsimp only
    rw [List.length_map, upTo, List.length_range]
  · dsimp only at he
    rw [List.getElem?_map, Option.map_eq_some_iff] at he
    obtain ⟨j, hj, rfl⟩ := he
    obtain ⟨hlt, hji⟩ := List.getElem?_eq_some_iff.1 hj
    rw [show (upTo ((len + 3) / 4))[i] = i from List.getElem_range hlt] at hji
    subst hji
    exact ⟨rfl, rfl, rfl, rfl⟩

/-- What sends a publication: a release of system scope goes behind the reads that acknowledge posted host writes. -/
def sendAt (s : State) (th : Thread) (p : Pub) (v : State) : State :=
  sendPub (if p.rel then flushAt v th p.scope else v) p s.tile th.uid (if p.rel then releaseList s th.uid p.scope else []) p.scope

theorem poisonRecord_tile (s : State) (w : Who) (k : Nat) (act : Bool) (m : Word) (wh : Nat) : (poisonRecord s w k act m wh).tile = s.tile := by
  rw [State.tile, State.tile, poisonRecord_issue]

theorem publish_sends {s : State} {p : Pub} (h : p.clean = false ∨ p.pmap = 0) (th : Thread) : publish s th p = sendAt s th p s := by
  unfold publish
  dsimp only
  rw [if_neg]
  · rfl
  · rcases h with h | h <;> simp [h]

theorem publish_sinks {s : State} {p : Pub} (hc : p.clean = true) (hm : p.pmap ≠ 0) (th : Thread) : publish s th p =
    if s.issue.src.psink then freeze (poisonRecord s (whoOf s.issue.key th) 6 true p.pmap (p.name.toNat / 2 ^ 32)) .poisonsink none
      (BitVec.ofNat 64 (6 * 2 ^ 32 + sinkSeq s (whoOf s.issue.key th).ctx % 2 ^ 32))
    else sendAt s th p (poisonRecord s (whoOf s.issue.key th) 6 false p.pmap (p.name.toNat / 2 ^ 32)) := by
  unfold publish
  dsimp only
  rw [if_pos (by rw [hc, Bool.true_and]; exact bne_iff_ne.2 hm), poisonRecord_issue]
  cases hp : s.issue.src.psink
  · rw [if_neg Bool.false_ne_true, if_neg Bool.false_ne_true, poisonRecord_tile]
    rfl
  · rw [if_pos rfl, if_pos rfl]

end Sys2Proof.Machine

namespace Sys2Proof.Machine

/-! What appending to the event log leaves as it is. -/

/-- A state that differs from another in memory, the poison bits, the words struck, the keystone's registers and what goes to the hosts at most. -/
def SameButLog (s t : State) : Prop :=
  t = { s with mem := t.mem, poison := t.poison, struck := t.struck, ms := t.ms, msixPend := t.msixPend, outHost := t.outHost }

theorem SameButLog.refl (s : State) : SameButLog s s := rfl

theorem SameButLog.trans {s t u : State} (h : SameButLog s t) (h' : SameButLog t u) : SameButLog s u := by
  unfold SameButLog at h h' ⊢
  rw [h] at h'
  exact h'

theorem SameButLog.foldl {β : Type} {f : State → β → State} (hf : ∀ s b, SameButLog s (f s b)) (l : List β) (s : State) :
    SameButLog s (l.foldl f s) := by
  induction l generalizing s with
  | nil => exact .refl s
  | cons b l ih => exact (hf s b).trans (ih _)

theorem writeBytes_sameButLog (s : State) (pa : Nat) (l : List Byte) : SameButLog s (writeBytes s pa l) := by
  induction l generalizing s pa with
  | nil => exact .refl s
  | cons b l ih => exact .trans (t := writeByte s pa b) rfl (ih _ _)

theorem setLinePoison_sameButLog (s : State) (pa : Nat) (b : Bool) : SameButLog s (setLinePoison s pa b) := rfl

theorem writeClean_sameButLog (s : State) (pa : Nat) (l : List Byte) : SameButLog s (writeClean s pa l) := by
  refine (writeBytes_sameButLog s pa l).trans (.foldl (fun s i => ?_) _ _)
  dsimp only
  split
  next => exact setLinePoison_sameButLog ..
  next => exact .refl s

theorem raiseVector_sameButLog (s : State) (p v : Nat) : SameButLog s (raiseVector s p v) := by
  unfold raiseVector
  split
  next => rfl
  next => rfl

theorem logEvent_sameButLog (s : State) (kind : Nat) (data : List Word) : SameButLog s (logEvent s kind data) := by
  unfold logEvent
  extract_lets n a ws s1 s2
  have h1 : SameButLog s s1 := writeClean_sameButLog ..
  have h2 : SameButLog s1 s2 := rfl
  refine (h1.trans h2).trans (.foldl (fun s p => ?_) _ _)
  dsimp only
  split
  next => exact raiseVector_sameButLog ..
  next => exact .refl s

theorem loseName_sameButLog (s : State) (n : Name) : SameButLog s (loseName s n) := by
  unfold loseName
  split
  next => exact .refl s
  next => exact logEvent_sameButLog ..

section
variable {s t : State}

theorem SameButLog.issue (h : SameButLog s t) : t.issue = s.issue := by rw [h]
theorem SameButLog.coreAt (h : SameButLog s t) (k : Nat) : coreAt t k = Machine.coreAt s k := by rw [h]; rfl
theorem SameButLog.threadAt (h : SameButLog s t) (k : Nat) : threadAt t k = Machine.threadAt s k := by rw [h]; rfl

end

/-! SUBS, UNSUB and DROP. -/

theorem issuer_eq (s : State) : issuer s = threadAt s s.issue.key := rfl

theorem readTile_issuer (s : State) (t : Nat) (f : Name → Bool) : (readTile s t f).issue = s.issue ∧ issuer (readTile s t f) = issuer s := by
  unfold readTile
  dsimp only
  split
  next => exact ⟨rfl, rfl⟩
  next =>
    have h := SameButLog.foldl loseName_sameButLog (((coreAt s t).tilePubs.filter (fun e => f e.1.name && headerLost s t e.1.name)).map
      (fun e => e.1.name)) (updCore s t (fun c => { c with tilePubs := c.tilePubs.filter (fun e =>
        !(((coreAt s t).tilePubs.filter (fun e => f e.1.name && headerLost s t e.1.name)).map (fun e => e.1.name)).contains e.1.name) }))
    refine ⟨h.issue.trans rfl, ?_⟩
    rw [issuer_eq, h.issue, h.threadAt]
    rfl

theorem readTile_eq {s : State} {t : Nat} {n : Name} (h : headerLost s t n = false) : readTile s t (fun m => m == n) = s := by
  unfold readTile
  dsimp only
  rw [if_pos]
  rw [List.isEmpty_iff, List.map_eq_nil_iff]
  refine filter_eq_nil fun e _ => ?_
  by_cases he : e.1.name = n
  · simp [he, h]
  · simp [he]

/-- R262: a publication whose headers are both lost is none. -/
theorem tilePubAt_readTile {s : State} {t : Nat} {n : Name} (h : headerLost s t n = true) :
    tilePubAt (readTile s t (fun m => m == n)) t n = none := by
  unfold tilePubAt
  rw [Option.map_eq_none_iff, List.find?_eq_none]
  unfold readTile
  dsimp only
  intro e he hn
  have hn' : e.1.name = n := beq_iff_eq.1 hn
  split at he
  next hl =>
    have hm : e ∈ (coreAt s t).tilePubs.filter (fun e => e.1.name == n && headerLost s t e.1.name) :=
      List.mem_filter.2 ⟨he, by rw [hn', h]; simp⟩
    rw [List.isEmpty_iff, List.map_eq_nil_iff] at hl
    rw [hl] at hm
    cases hm
  next =>
    rw [(SameButLog.foldl loseName_sameButLog _ _).coreAt, updCore, coreAt_setCore, if_pos rfl] at he
    obtain ⟨hm, hc⟩ := List.mem_filter.1 he
    have : e.1.name ∈ ((coreAt s t).tilePubs.filter (fun e => e.1.name == n && headerLost s t e.1.name)).map (fun e => e.1.name) :=
      List.mem_map_of_mem (f := fun e : Pub × _ => e.1.name) (List.mem_filter.2 ⟨hm, by rw [hn', h]; simp⟩)
    simp [this] at hc

/-- An update of the bundle's thread is what it does to that thread. -/
theorem updIssuer_congr {s : State} {th : Thread} {f f' : Thread → Thread} (h : issuer s = some th) (hf : f th = f' th) :
    updIssuer s f = updIssuer s f' := by
  rw [issuer_eq] at h
  unfold updIssuer updThread
  rw [h]
  dsimp only
  rw [hf]

theorem updIssuer_net (s : State) (f : Thread → Thread) : (updIssuer s f).net = s.net ∧ (updIssuer s f).issue = s.issue := by
  obtain ⟨m, h⟩ := updThread_eq s s.issue.key f
  rw [updIssuer, h]
  exact ⟨rfl, rfl⟩

theorem dynFind_none {th : Thread} {n : Name} (h : ∀ d ∈ th.dyn, d.name ≠ n) : dynFind th n = none :=
  List.find?_eq_none.2 fun d hd => by simpa using h d hd

theorem dynFind_some {th : Thread} {n : Name} (h : ∃ d ∈ th.dyn, d.name = n) : (dynFind th n).isSome = true := by
  rw [dynFind, List.find?_isSome]
  simpa using h

/-- A state with the bundle's thread changed and messages sent. -/
def withMsgs (s : State) (f : Thread → Thread) (m : List Msg) : State := { updIssuer s f with net := s.net ++ m }

theorem addDyn_eq {s : State} {th : Thread} (h : issuer s = some th) (n : Name) (scp : Nat) :
    let v := readTile s s.tile (fun m => m == n)
    let got := tilePubAt v v.tile n
    addDyn s th n scp = withMsgs v (fun t => { t with dyn := th.dyn ++ [⟨n, th.subsN, scp, got, false⟩], subsN := th.subsN + 1 })
      (if got.isSome then [] else [.sub ⟨n, false, s.tile, .thread th.uid th.subsN, scp, false, [], []⟩]) := by
  intro v got
  have hv : issuer v = some th := (readTile_issuer ..).2.trans h
  have hi : v.issue = s.issue := (readTile_issuer ..).1
  have ht : v.tile = s.tile := by rw [State.tile, State.tile, hi]
  have hu := updIssuer_congr (f := fun t => { t with dyn := t.dyn ++ [⟨n, th.subsN, scp, got, false⟩], subsN := th.subsN + 1 })
    (f' := fun t => { t with dyn := th.dyn ++ [⟨n, th.subsN, scp, got, false⟩], subsN := th.subsN + 1 }) hv rfl
  have hn := updIssuer_net v (fun t => { t with dyn := th.dyn ++ [⟨n, th.subsN, scp, got, false⟩], subsN := th.subsN + 1 })
  have ha : addDyn s th n scp = if got.isSome then updIssuer v (fun t => { t with dyn := t.dyn ++ [⟨n, th.subsN, scp, got, false⟩], subsN := th.subsN + 1 })
      else { updIssuer v (fun t => { t with dyn := t.dyn ++ [⟨n, th.subsN, scp, got, false⟩], subsN := th.subsN + 1 }) with
        net := (updIssuer v (fun t => { t with dyn := t.dyn ++ [⟨n, th.subsN, scp, got, false⟩], subsN := th.subsN + 1 })).net ++
          [.sub ⟨n, false, (updIssuer v (fun t => { t with dyn := t.dyn ++ [⟨n, th.subsN, scp, got, false⟩], subsN := th.subsN + 1 })).tile,
            .thread th.uid th.subsN, scp, false, [], []⟩] } := rfl
  rw [ha, hu]
  generalize hw : updIssuer v (fun t => { t with dyn := th.dyn ++ [⟨n, th.subsN, scp, got, false⟩], subsN := th.subsN + 1 }) = w at hn ⊢
  have hwt : w.tile = s.tile := by rw [State.tile, hn.2, ← State.tile, ht]
  unfold withMsgs
  rw [hw, ← hn.1, hwt]
  split
  next => rw [List.append_nil]
  next => rfl

section
variable {s : State} {th : Thread} {g : PReg}

theorem exec_drop (h : Runs s th g) (n : NPair) : exec (.drop g n) s = .next { s with net := s.net ++ [.drop (pairName s th n) s.tile th.uid] } :=
  syllable_runs h _

theorem exec_subs (h : Runs s th g) (scp : Scope) (n : NPair) : exec (.subs g scp n) s = .next (
    if (dynFind th (pairName s th n)).isSome then s
    else if 16 ≤ th.dyn.length then freeze s .perm none 0
    else addDyn s th (pairName s th n) scp.code.toNat) := syllable_runs h _

theorem exec_unsub (h : Runs s th g) (n : NPair) : exec (.unsub g n) s = .next (
    if (dynFind th (pairName s th n)).isSome then dropDyn s th (pairName s th n) else s) := syllable_runs h _

theorem exec_await (h : Runs s th g) (p : Bool) (n : NPair) (b : SReg) : exec (.await g p n b) s = .next (
    if (rdS s b).val.toNat % 32 != 0 then freeze s .align (some (rdS s b).val.toNat) 32
    else if !inPad s.tile (rdS s b).val.toNat 16416 then freeze s .perm (some (rdS s b).val.toNat) 0
    else match dynFind th (pairName s th n) with
      | some d => awaitGot s th p (pairName s th n) (rdS s b).val.toNat d
      | none =>
        if 16 ≤ th.dyn.length then freeze s .perm (some (rdS s b).val.toNat) 0
        else
          let u := addDyn s th (pairName s th n) 2
          match issuer u with
          | none => u
          | some th' => match dynFind th' (pairName s th n) with
            | none => u
            | some d => awaitGot u th' p (pairName s th n) (rdS s b).val.toNat d) := syllable_runs h _

theorem dropDyn_eq (h : issuer s = some th) (n : Name) : dropDyn s th n = withMsgs s (fun t => { t with dyn := th.dyn.filter (fun d => d.name != n) })
    ((th.dyn.filter (fun d => d.name == n)).map (fun d => .unsub n s.tile (.thread th.uid d.seq))) := by
  have hd : dropDyn s th n = { updIssuer s (fun t => { t with dyn := t.dyn.filter (fun d => d.name != n) }) with
    net := (updIssuer s (fun t => { t with dyn := t.dyn.filter (fun d => d.name != n) })).net ++
      (th.dyn.filter (fun d => d.name == n)).map (fun d => .unsub n
        (updIssuer s (fun t => { t with dyn := t.dyn.filter (fun d => d.name != n) })).tile (.thread th.uid d.seq)) } := rfl
  have hn := updIssuer_net s (fun t => { t with dyn := th.dyn.filter (fun d => d.name != n) })
  rw [hd, updIssuer_congr (f' := fun t => { t with dyn := th.dyn.filter (fun d => d.name != n) }) h rfl, hn.1, withMsgs]
  rw [show (updIssuer s (fun t => { t with dyn := th.dyn.filter (fun d => d.name != n) })).tile = s.tile by rw [State.tile, hn.2, State.tile]]

/-- SUBS, UNSUB and DROP. -/
theorem subs_subscribe (hr : Runs s th g) (scp : Scope) (n : NPair) :
    let name := pairName s th n
    let v := readTile s s.tile (fun m => m == name)
    let got := tilePubAt v v.tile name
    (headerLost s s.tile name = false → v = s) ∧ (headerLost s s.tile name = true → got = none) ∧
    exec (.drop g n) s = .next { s with net := s.net ++ [.drop name s.tile th.uid] } ∧
    ((∃ d ∈ th.dyn, d.name = name) → exec (.subs g scp n) s = .next s ∧ exec (.unsub g n) s = .next (withMsgs s
      (fun t => { t with dyn := th.dyn.filter (fun d => d.name != name) })
      ((th.dyn.filter (fun d => d.name == name)).map (fun d => .unsub name s.tile (.thread th.uid d.seq))))) ∧
    ((∀ d ∈ th.dyn, d.name ≠ name) → exec (.unsub g n) s = .next s ∧
      (16 ≤ th.dyn.length → exec (.subs g scp n) s = .next (freeze s .perm none 0)) ∧
      (th.dyn.length < 16 → exec (.subs g scp n) s = .next (withMsgs v
        (fun t => { t with dyn := th.dyn ++ [⟨name, th.subsN, scp.code.toNat, got, false⟩], subsN := th.subsN + 1 })
        (if got.isSome then [] else [.sub ⟨name, false, s.tile, .thread th.uid th.subsN, scp.code.toNat, false, [], []⟩])))) := by
  intro name v got
  have ht : v.tile = s.tile := by rw [State.tile, State.tile, (readTile_issuer ..).1]
  refine ⟨readTile_eq, fun h => ?_, exec_drop hr n, fun h => ⟨?_, ?_⟩, fun h => ⟨?_, fun hl => ?_, fun hl => ?_⟩⟩
  · show tilePubAt v v.tile name = none
    rw [ht]
    exact tilePubAt_readTile h
  · rw [exec_subs hr, if_pos (dynFind_some h)]
  · rw [exec_unsub hr, if_pos (dynFind_some h), dropDyn_eq hr.thread]
  · rw [exec_unsub hr, dynFind_none h]
    rfl
  · rw [exec_subs hr, dynFind_none h, if_neg (by simp), if_pos hl]
  · rw [exec_subs hr, dynFind_none h, if_neg (by simp), if_neg (by omega), addDyn_eq hr.thread]

end

/-! AWAIT. -/

theorem readByte_placePub (s : State) (pa : Nat) (q : Pub) (a : Nat) : readByte (placePub s pa q) a =
    readByte (writeClean s pa (pubHeader q ++ (upTo q.data.length).map (pubByte q))) a := by
  refine readByte_of_mem_eq ?_ a
  unfold placePub
  dsimp only
  refine foldl_keeps State.mem _ (fun s i => ?_) _ _
  split
  next => exact foldl_keeps State.mem (fun s k => setLinePoison s (pa + 32 + 256 * i + k) true) (fun s k => rfl) _ _
  next => rfl

theorem length_pubHeader (q : Pub) : (pubHeader q).length = 32 := by
  simp [pubHeader, leBytes_length]

theorem nth_append_left {α : Type} (d : α) (l r : List α) {i : Nat} (h : i < l.length) : nth d (l ++ r) i = nth d l i := by
  induction l generalizing i with
  | nil => simp at h
  | cons a l ih => cases i with
    | zero => rfl
    | succ i => exact ih (by simpa using h)

theorem nth_append_right {α : Type} (d : α) (l r : List α) (i : Nat) : nth d (l ++ r) (l.length + i) = nth d r i := by
  induction l with
  | nil => simp
  | cons a l ih =>
    rw [List.length_cons, Nat.add_right_comm, List.cons_append]
    exact ih

theorem getElem_eq_nth {α : Type} (d : α) (l : List α) {i : Nat} (h : i < l.length) : l[i] = nth d l i := by
  induction l generalizing i with
  | nil => simp at h
  | cons a l ih => cases i with
    | zero => rfl
    | succ i => exact ih (by simpa using h)

/-- What a publication's copy holds: its header, then its bytes; every other byte is as before. -/
theorem readByte_placePub_inside (s : State) (pa : Nat) (q : Pub) {i : Nat} (h : i < 32 + q.data.length) :
    readByte (placePub s pa q) (pa + i) = nth 0 (pubHeader q ++ (upTo q.data.length).map (pubByte q)) i := by
  have hl := length_pubHeader q
  rw [readByte_placePub, readByte_writeClean_inside _ _ _ _ (by simp [hl, upTo]; omega), getElem_eq_nth 0]

theorem readByte_placePub_header (s : State) (pa : Nat) (q : Pub) {i : Nat} (h : i < 32) :
    readByte (placePub s pa q) (pa + i) = nth 0 (pubHeader q) i := by
  rw [readByte_placePub_inside s pa q (by omega), nth_append_left _ _ _ (by rw [length_pubHeader]; exact h)]

theorem readByte_placePub_data (s : State) (pa : Nat) (q : Pub) {i : Nat} (h : i < q.data.length) :
    readByte (placePub s pa q) (pa + 32 + i) = pubByte q i := by
  have ha := nth_append_right 0 (pubHeader q) ((upTo q.data.length).map (pubByte q)) i
  rw [length_pubHeader, nth_map_upTo _ _ h] at ha
  rw [Nat.add_assoc, readByte_placePub_inside s pa q (by omega), ha]

theorem readByte_placePub_outside (s : State) (pa : Nat) (q : Pub) {a : Nat} (h : a < pa ∨ pa + 32 + q.data.length ≤ a) :
    readByte (placePub s pa q) a = readByte s a := by
  rw [readByte_placePub, readByte_writeClean_outside]
  simp only [List.length_append, length_pubHeader, upTo, List.length_map, List.length_range]
  omega

theorem issuer_updIssuer (s : State) (f : Thread → Thread) : issuer (updIssuer s f) = (issuer s).map f := by
  rw [issuer_eq, (updIssuer_net s f).2, updIssuer, threadAt_updThread, if_pos rfl, ← issuer_eq]

@[simp] theorem placePub_issue (s : State) (pa : Nat) (q : Pub) : (placePub s pa q).issue = s.issue := by
  unfold placePub
  dsimp only
  refine (foldl_keeps State.issue _ (fun s i => ?_) _ _).trans (writeClean_issue ..)
  split
  next => exact foldl_keeps State.issue (fun s k => setLinePoison s (pa + 32 + 256 * i + k) true) (fun s k => rfl) _ _
  next => rfl

theorem placePub_sameButLog (s : State) (pa : Nat) (q : Pub) : SameButLog s (placePub s pa q) := by
  unfold placePub
  dsimp only
  refine (writeClean_sameButLog ..).trans (.foldl (fun s i => ?_) _ _)
  split
  next => exact .foldl (f := fun s k => setLinePoison s (pa + 32 + 256 * i + k) true) (fun s k => rfl) _ _
  next => exact .refl s

section
variable {s : State} {th : Thread} {g : PReg}

/-- A publication that an AWAIT may copy: its bytes stand in the buffer, and its subscription has ended. -/
theorem awaitGot_copies {d : DynSub} {q : Pub} {p : Bool} {b : Nat} (h : issuer s = some th) (hb : d.bad = false) (hg : d.got = some q)
    (hr : readHeld s th = false) (hf : banksFree s s.tile (padBase s.tile + b) (32 + q.data.length) = true)
    (hw : (q.wp && !p && !th.pass) = false) (n : Name) : ∃ th', issuer (awaitGot s th p n b d) = some th' ∧ th'.regs = th.regs ∧
      th'.dyn = th.dyn.filter (fun e => e.name != n) ∧ (awaitGot s th p n b d).mem = (placePub (routerTurn s s.tile (padBase s.tile + b)
        (32 + q.data.length)) (padBase s.tile + b) q).mem := by
  have he : awaitGot s th p n b d = updIssuer (placePub (routerTurn s s.tile (padBase s.tile + b) (32 + q.data.length)) (padBase s.tile + b) q)
      (fun t => { t with dyn := t.dyn.filter (fun e => e.name != n), pass := false }) := by
    unfold awaitGot
    rw [hb, if_neg Bool.false_ne_true, hg]
    dsimp only
    rw [hr, hf, hw]
    rfl
  have hi : issuer (placePub (routerTurn s s.tile (padBase s.tile + b) (32 + q.data.length)) (padBase s.tile + b) q) = some th := by
    have hs := placePub_sameButLog (routerTurn s s.tile (padBase s.tile + b) (32 + q.data.length)) (padBase s.tile + b) q
    rw [issuer_eq, hs.issue, hs.threadAt]
    exact h
  rw [he, issuer_updIssuer, hi]
  exact ⟨_, rfl, rfl, rfl, updThread_mem ..⟩

theorem issuer_addDyn (h : issuer s = some th) (n : Name) (scp : Nat) : ∃ got, issuer (addDyn s th n scp) =
    some { th with dyn := th.dyn ++ [⟨n, th.subsN, scp, got, false⟩], subsN := th.subsN + 1 } ∧ (addDyn s th n scp).issue = s.issue := by
  have hv := readTile_issuer s s.tile (fun m => m == n)
  refine ⟨tilePubAt (readTile s s.tile (fun m => m == n)) (readTile s s.tile (fun m => m == n)).tile n, ?_, ?_⟩
  · rw [addDyn_eq h]
    refine (issuer_updIssuer ..).trans ?_
    rw [hv.2, h]
    rfl
  · rw [addDyn_eq h]
    exact (updIssuer_net ..).2.trans hv.1

theorem pairName_congr {u : State} {th' : Thread} (hi : u.issue = s.issue) (hp : th'.priv = th.priv) (n : NPair) :
    pairName u th' n = pairName s th n := by
  rw [pairName, pairName, ownName, ownName, hp, pairBits, pairBits, rdS_of_issue hi, rdS_of_issue hi, hi]

theorem dynFind_append {n : Name} (h : dynFind th n = none) (d : DynSub) (hd : d.name = n) (th' : Thread) (ht : th'.dyn = th.dyn ++ [d]) :
    dynFind th' n = some d := by
  unfold dynFind at h ⊢
  rw [ht, List.find?_append, h]
  simp [hd]

end

/-- Settles O37: PUB, then SUBS, UNSUB and DROP, then AWAIT; an AWAIT that subscribes goes on as one whose subscription was there. -/
theorem namesPublishAndSubscribe : Obligations.NamesPublishAndSubscribe := by
  refine ⟨fun s th g scp rel n b c hr => ?_, fun s th g scp n hr => subs_subscribe hr scp n, fun s th g p n b hr => ?_⟩
  · obtain ⟨h1, h2, h3, h4⟩ := pub_publishes s th g scp rel n b c hr
    refine ⟨fun h => nameCtx_pairName h n, h1, h2, h3, fun hm hb hl hb1 hb2 => ?_⟩
    obtain ⟨h5, h6⟩ := h4 hm hb hl hb1 hb2
    refine ⟨fun h0 hn => ⟨(h5 h0 hn).1, fun hc hs => ?_⟩, fun data per hd => ?_⟩
    · obtain ⟨x, hx, hx'⟩ := readPayload_eq s th (rdS s b).val.toNat (rdS s c).val.toNat
      exact ⟨x, by rw [(h5 h0 hn).2 hc hs, hx], hx'⟩
    · have he := h6 data per hd
      refine ⟨rfl, rfl, rfl, rfl, fun i hi => getLsbD_pubMap per _ hi, fun h => ?_, fun hc hp hs => ?_, fun hc hp hs => ?_⟩
      · rw [he, publish_sends h]
        rfl
      · rw [he, publish_sinks hc hp, hs, if_neg Bool.false_ne_true]
        rfl
      · rw [he, publish_sinks hc hp, hs, if_pos rfl]
        rfl
  · have he := exec_await hr p n b
    intro name base pa
    have hpad : base + 16416 ≤ padSize s.tile → inPad s.tile base 16416 = true := fun h => by
      simp only [inPad, Bool.and_eq_true, decide_eq_true_eq]
      omega
    refine ⟨fun h => ?_, fun h h' => ?_, fun h h' => ⟨fun hd hl => ?_, fun hd hl u hu => ?_, fun d hd => ⟨fun hb => ?_, fun hb hg => ?_,
      fun q hb hg hw => ?_, fun q hb hg hh hf hw => ?_, fun q hb hg hh hf hw hlen => ?_⟩⟩⟩
    · rw [he, if_pos (by simpa using h)]
    · rw [he, if_neg (by simpa using h), if_pos]
      simp only [inPad, Bool.not_eq_true', Bool.and_eq_false_iff, decide_eq_false_iff_not]
      omega
    all_goals rw [if_neg (by simpa using h), if_neg (by rw [hpad h']; simp)] at he
    · rw [he, dynFind_none hd]
      exact congrArg _ (if_pos hl)
    · have hf := dynFind_none hd
      have hs := exec_subs hr .wafer n
      rw [hf, if_neg (by simp), if_neg (by omega)] at hs
      obtain rfl : addDyn s th name 2 = u := Host.Outcome.next.inj (hs.symm.trans hu)
      obtain ⟨got, hi, hiss⟩ := issuer_addDyn hr.thread name 2
      have hr' : Runs (addDyn s th name 2) _ g := ⟨hi, by rw [rdP, hiss]; exact hr.guard⟩
      have ht : (addDyn s th name 2).tile = s.tile := by rw [State.tile, hiss, State.tile]
      have hn : pairName (addDyn s th name 2) { th with dyn := th.dyn ++ [⟨name, th.subsN, 2, got, false⟩], subsN := th.subsN + 1 } n = name :=
        pairName_congr hiss rfl n
      have hfind := dynFind_append hf ⟨name, th.subsN, 2, got, false⟩ rfl
        { th with dyn := th.dyn ++ [⟨name, th.subsN, 2, got, false⟩], subsN := th.subsN + 1 } rfl
      have hr2 := exec_await hr' p n b
      rw [rdS_of_issue hiss, ht, hn, if_neg (by simpa using h), if_neg (by rw [hpad h']; simp), hfind] at hr2
      rw [hr2, he, hf]
      dsimp only
      rw [if_neg (by omega), hi]
      dsimp only
      rw [hfind]
    all_goals
      have hd' : dynFind th (pairName s th n) = some d := hd
      rw [hd'] at he
      replace he : exec (.await g p n b) s = .next (awaitGot s th p name base d) := he
    · rw [he]
      exact congrArg _ (if_pos hb)
    · rw [he]
      refine congrArg _ ?_
      unfold awaitGot
      rw [if_neg (by simp [hb]), hg]
    · rw [he]
      refine congrArg _ ?_
      unfold awaitGot
      rw [if_neg (by simp [hb]), hg]
      exact if_pos (by simpa using hw)
    · rw [he]
      refine congrArg _ ?_
      unfold awaitGot
      rw [if_neg (by simp [hb]), hg]
      refine (if_neg ?_).trans (if_pos hw)
      have hf' : banksFree s s.tile (padBase s.tile + base) (32 + q.data.length) = true := hf
      rw [hh, hf']
      simp
    · obtain ⟨th', h1, h2, h3, h4⟩ := awaitGot_copies hr.thread hb hg hh hf hw name
      refine ⟨_, th', he, h1, h2, h3, fun i hi => ?_, fun i hi => ?_, fun a ha => ?_⟩
      · rw [readByte_of_mem_eq h4]
        exact readByte_placePub_header _ _ _ hi
      · rw [readByte_of_mem_eq h4]
        exact readByte_placePub_data _ _ _ hi
      · rw [readByte_of_mem_eq h4, readByte_placePub_outside _ _ _ ha]
        exact readByte_of_mem_eq (routerTurn_memory ..).1 a

end Sys2Proof.Machine

namespace Sys2Proof.Machine

/-! GSET: a field of a geometry register. -/

theorem testBit_replace {x lo w : Nat} (v i : Nat) : (x - x / 2 ^ lo % 2 ^ w * 2 ^ lo + v % 2 ^ w * 2 ^ lo).testBit i =
    if lo ≤ i ∧ i < lo + w then v.testBit (i - lo) else x.testBit i := by
  have hl : x % 2 ^ lo < 2 ^ lo := Nat.mod_lt _ (Nat.two_pow_pos _)
  have hv : v % 2 ^ w < 2 ^ w := Nat.mod_lt _ (Nat.two_pow_pos _)
  have h1 : x = 2 ^ lo * (x / 2 ^ lo) + x % 2 ^ lo := (Nat.div_add_mod ..).symm
  have h2 : x / 2 ^ lo = 2 ^ w * (x / 2 ^ lo / 2 ^ w) + x / 2 ^ lo % 2 ^ w := (Nat.div_add_mod ..).symm
  have he : x - x / 2 ^ lo % 2 ^ w * 2 ^ lo + v % 2 ^ w * 2 ^ lo = 2 ^ lo * (2 ^ w * (x / 2 ^ lo / 2 ^ w) + v % 2 ^ w) + x % 2 ^ lo := by
    have h3 : x = 2 ^ lo * (2 ^ w * (x / 2 ^ lo / 2 ^ w)) + x / 2 ^ lo % 2 ^ w * 2 ^ lo + x % 2 ^ lo := by
      rw [Nat.mul_comm (x / 2 ^ lo % 2 ^ w), ← Nat.mul_add, ← h2, ← h1]
    rw [Nat.mul_add, Nat.mul_comm (2 ^ lo) (v % 2 ^ w)]
    omega
  rw [he, Nat.testBit_two_pow_mul_add _ hl]
  by_cases h : i < lo
  · rw [if_pos h, if_neg (by omega), Nat.testBit_mod_two_pow]
    simp [h]
  · rw [if_neg h, Nat.testBit_two_pow_mul_add _ hv]
    by_cases hw : i - lo < w
    · rw [if_pos hw, if_pos (by omega), Nat.testBit_mod_two_pow]
      simp [hw]
    · rw [if_neg hw, if_neg (by omega), Nat.testBit_div_two_pow, Nat.testBit_div_two_pow]
      congr 1
      omega

theorem getLsbD_putField (x : BitVec 256) (lo w v : Nat) {i : Nat} (hi : i < 256) : (putField x lo w v).getLsbD i =
    if lo ≤ i ∧ i < lo + w then v.testBit (i - lo) else x.getLsbD i := by
  rw [putField, BitVec.getLsbD_ofNat, decide_eq_true hi, Bool.true_and, testBit_replace]
  rfl

theorem getLsbD_gsetVal (x : BitVec 256) (f : GField) (v : Word) {i : Nat} (hi : i < 256) : (gsetVal x f v.toNat).getLsbD i =
    if (gfieldAt f).1 ≤ i ∧ i < (gfieldAt f).1 + (gfieldAt f).2 then v.getLsbD (i - (gfieldAt f).1)
    else if f = .base ∧ i = 63 then false else x.getLsbD i := by
  unfold gsetVal
  dsimp only
  by_cases hf : f = .base
  · subst hf
    rw [if_pos rfl, getLsbD_putField _ _ _ _ hi, getLsbD_putField _ _ _ _ hi]
    by_cases h63 : i = 63
    · subst h63
      simp [gfieldAt]
    · rw [if_neg (by omega)]
      simp only [h63, and_false, if_false]
      rfl
  · rw [if_neg hf, getLsbD_putField _ _ _ _ hi]
    simp only [hf, false_and, if_false]
    rfl

/-! STRM, SWAIT and SCANCEL. -/

section
variable {s : State} {th : Thread} {g : PReg}

theorem exec_gset (h : Runs s th g) (gr : GReg) (sel : GField) (a : SReg) : exec (.gset g gr sel a) s =
    .next (setRegs s (fun r => r.wrG gr (gsetVal (s.issue.src.rdG gr) sel (rdS s a).val.toNat))) := syllable_runs h _

theorem exec_swait (h : Runs s th g) (a : SReg) : exec (.swait g a) s =
    .next (if (cmdNamed s th (rdS s a).val).isSome then waitFor s .cond else s) := syllable_runs h _

theorem exec_scancel (h : Runs s th g) (a : SReg) : exec (.scancel g a) s =
    .next (match cmdNamed s th (rdS s a).val with
      | none => s
      | some c => wakeTile (cancelCmd s s.tile c) s.tile) := syllable_runs h _

theorem exec_strm (h : Runs s th g) (port : Port) (dir eng : Bool) (scp : Scope) (ordf cons cv : Bool) (rm : Rm) (ty : Ty)
    (d : SReg) (gr : GReg) (a : SReg) (n : NPair) : exec (.strm g port dir eng scp ordf cons cv rm ty d gr a n) s = .next (
      let e := if eng then 1 else 0
      if Config.engSize ≤ (engOf (coreAt s s.tile) e).length then waitFor s .operand
      else match strmCheck s th port cv (s.issue.src.rdG gr) (rdS s a).val.toNat with
        | some (cls, va, aux) => freeze s cls (some va) aux
        | none =>
          let x := subscribeSource s (strmCmd s th port dir e scp ordf cons cv rm ty gr (rdS s a) n)
          wrS (updIssuer (updCore x.1 x.1.tile (fun k => { (setEng k e (engOf k e ++ [x.2])) with mqOrd := k.mqOrd + 1 }))
            (fun th => if eng then { th with strm1 := th.strm1 + 1 } else { th with strm0 := th.strm0 + 1 }))
            d (e * 2 ^ 32 + x.2.seq) false) := syllable_runs h _

end

theorem engOf_setEng (c : Core) (e f : Nat) (l : List Cmd) (he : e < 2) (hf : f < 2) :
    engOf (setEng c e l) f = if f = e then l else engOf c f := by
  unfold engOf setEng
  obtain rfl | rfl : e = 0 ∨ e = 1 := by omega
  all_goals obtain rfl | rfl : f = 0 ∨ f = 1 := by omega
  all_goals rfl

@[simp] theorem engOf_setEng_same (c : Core) (e : Nat) (l : List Cmd) : engOf (setEng c e l) e = l := by
  unfold engOf setEng
  split <;> rfl

/-- Waking a tile changes the threads of the state alone. -/
theorem wakeTile_eq (s : State) (t : Nat) : ∃ m, wakeTile s t = { s with threads := m } := by
  unfold wakeTile
  generalize threadsOn s t = l
  induction l generalizing s with
  | nil => exact ⟨s.threads, rfl⟩
  | cons e l ih =>
    rw [List.foldl_cons]
    split
    next =>
      obtain ⟨m, hm⟩ := updThread_eq s e.1 (fun th => { th with status := .ready })
      rw [setStatus, hm]
      exact ih _
    next => exact ih s

@[simp] theorem coreAt_wakeTile (s : State) (t k : Nat) : coreAt (wakeTile s t) k = coreAt s k := by
  obtain ⟨m, h⟩ := wakeTile_eq s t
  rw [h]
  rfl

theorem coreAt_updCore (s : State) (t : Nat) (f : Core → Core) : coreAt (updCore s t f) t = f (coreAt s t) := by
  rw [updCore, coreAt_setCore, if_pos rfl]

@[simp] theorem coreAt_addAccess (s : State) (a : Access) (k : Nat) : coreAt (addAccess s a) k = coreAt s k := rfl

@[simp] theorem updGraph_cores (s : State) (c : Nat) (f : Graph → Graph) : (updGraph s c f).cores = s.cores := by
  unfold updGraph
  split <;> rfl

@[simp] theorem markExit_cores (s : State) (n : Name) : (markExit s n).cores = s.cores := by
  unfold markExit
  split
  next => rfl
  next => exact updGraph_cores ..

@[simp] theorem sendPub_cores (s : State) (p : Pub) (t u : Nat) (l : List Nat) (scp : Nat) : (sendPub s p t u l scp).cores = s.cores :=
  markExit_cores s p.name

@[simp] theorem publishStream_cores (s : State) (t : Nat) (c : Cmd) (st : Nat) (step : Option Nat) (bytes : Nat) :
    (publishStream s t c st step bytes).cores = s.cores := by
  unfold publishStream
  split
  next => rfl
  next => exact sendPub_cores ..

@[simp] theorem flushPort_cores (u : Nat) (w : Who) (p : Bool) (s : State) (port : Nat) : (flushPort u w p s port).cores = s.cores := by
  unfold flushPort
  split <;> rfl

@[simp] theorem flushCmd_cores (s : State) (t : Nat) (c : Cmd) : (flushCmd s t c).cores = s.cores := by
  unfold flushCmd
  dsimp only
  split
  next => rfl
  next =>
    split
    next => exact foldl_keeps State.cores _ (fun s p => flushPort_cores ..) _ _
    next => rfl

theorem coreAt_of_cores {s t : State} (h : t.cores = s.cores) (k : Nat) : coreAt t k = coreAt s k := by
  rw [coreAt, coreAt, h]

theorem engOf_endFill (s : State) (t : Nat) (c : Cmd) (e : Nat) : engOf (coreAt (endFill s t c) t) e = engOf (coreAt s t) e := by
  unfold endFill
  split
  next => rfl
  next =>
    dsimp only
    split
    next => rfl
    next => rw [coreAt_updCore]; rfl

theorem engOf_removeCmd (s : State) (t : Nat) (c : Cmd) :
    engOf (coreAt (removeCmd s t c) t) c.eng = (engOf (coreAt s t) c.eng).filter (fun d => !(d.uid == c.uid && d.seq == c.seq)) := by
  rw [removeCmd, coreAt_wakeTile, coreAt_updCore, engOf_setEng_same]

theorem engOf_putCmd (s : State) (t : Nat) (c : Cmd) :
    engOf (coreAt (putCmd s t c) t) c.eng = (engOf (coreAt s t) c.eng).map (fun d => if d.uid == c.uid && d.seq == c.seq then c else d) := by
  rw [putCmd, coreAt_updCore, engOf_setEng_same]

/-- A command that was cancelled is gone, or is marked as cancelled until its chunks end. -/
theorem cancelCmd_cancels (s : State) (t : Nat) (c : Cmd) : ∀ f ∈ engOf (coreAt (cancelCmd s t c) t) c.eng, f.uid = c.uid → f.seq = c.seq →
    f.cancelled = true := by
  intro f hf hu hs
  unfold cancelCmd at hf
  dsimp only at hf
  split at hf
  next =>
    rw [coreAt_of_cores (publishStream_cores ..), engOf_endFill, engOf_removeCmd] at hf
    have hn := (List.mem_filter.1 hf).2
    simp [hu, hs] at hn
  next =>
    rw [coreAt_of_cores (flushCmd_cores ..), engOf_putCmd] at hf
    obtain ⟨d, -, rfl⟩ := List.mem_map.1 hf
    split
    next => rfl
    next hd =>
      rw [if_neg hd] at hu hs
      exact absurd (by simp [hu, hs]) hd

theorem coreAt_readTile (s : State) (t : Nat) (f : Name → Bool) : ∃ tp, coreAt (readTile s t f) t = { coreAt s t with tilePubs := tp } := by
  unfold readTile
  dsimp only
  split
  next => exact ⟨(coreAt s t).tilePubs, rfl⟩
  next =>
    rw [(SameButLog.foldl loseName_sameButLog _ _).coreAt, coreAt_updCore]
    exact ⟨_, rfl⟩

/-- What looking for the source of a command by name does: it may find the publication lost, and may ask for it. -/
theorem subscribeSource_frame (s : State) (c : Cmd) : let x := subscribeSource s c
    x.1.issue = s.issue ∧ issuer x.1 = issuer s ∧ (∃ tp, coreAt x.1 s.tile = { coreAt s s.tile with tilePubs := tp }) ∧
      (∃ p, x.2 = { c with src := p }) ∧ (c.port ≠ .hname ∨ headerLost s s.tile c.name = false → x.1.mem = s.mem) := by
  have hr := readTile_issuer s s.tile (fun m => m == c.name)
  have hc := coreAt_readTile s s.tile (fun m => m == c.name)
  unfold subscribeSource
  by_cases hp : c.port = .hname
  · rw [if_neg (by simp [hp])]
    dsimp only
    have hm : c.port ≠ .hname ∨ headerLost s s.tile c.name = false → (readTile s s.tile (fun m => m == c.name)).mem = s.mem := fun h => by
      rw [readTile_eq (h.resolve_left (by simp [hp]))]
    split
    next p _ => exact ⟨hr.1, hr.2, hc, ⟨some p, rfl⟩, hm⟩
    next => exact ⟨hr.1, hr.2, hc, ⟨c.src, rfl⟩, hm⟩
  · rw [if_pos (by simpa using hp)]
    exact ⟨rfl, rfl, ⟨_, rfl⟩, ⟨c.src, rfl⟩, fun _ => rfl⟩

theorem strmCheck_align {s : State} {th : Thread} {port : Port} {cv : Bool} {pat : BitVec 256} {sa : Nat}
    (h : sa % scratchWidth cv pat ≠ 0) : strmCheck s th port cv pat sa = some (.align, sa, BitVec.ofNat 64 (scratchWidth cv pat)) :=
  if_pos (by simpa using h)

theorem strmCheck_perm {s : State} {th : Thread} {port : Port} {cv : Bool} {pat : BitVec 256} {sa : Nat}
    (h : sa % scratchWidth cv pat = 0) (hp : padSize s.tile ≤ sa ∨ padSize s.tile < sa + patE pat * scratchWidth cv pat ∨
      ((portOb port).isSome = true ∧ ((coreAt s s.tile).holder ≠ some th.uid ∨ th.kind ≠ .task))) :
    strmCheck s th port cv pat sa = some (.perm, sa, 0) := by
  unfold strmCheck
  dsimp only
  rw [if_neg (by simpa using h)]
  by_cases hi : inPad s.tile sa (patE pat * scratchWidth cv pat) = true
  · simp only [inPad, Bool.and_eq_true, decide_eq_true_eq] at hi
    rw [if_neg, if_pos]
    · obtain ⟨h1, h2⟩ := (hp.resolve_left (by omega)).resolve_left (by omega)
      rcases h2 with h2 | h2 <;> simp [h1, h2]
    · simp only [inPad, Bool.not_eq_true', Bool.and_eq_false_iff, decide_eq_false_iff_not]
      omega
  · rw [if_pos (by simpa using hi)]

theorem strmCheck_ok {s : State} {th : Thread} {port : Port} {cv : Bool} {pat : BitVec 256} {sa : Nat}
    (h : sa % scratchWidth cv pat = 0) (h1 : sa < padSize s.tile) (h2 : sa + patE pat * scratchWidth cv pat ≤ padSize s.tile)
    (h3 : (portOb port).isSome = true → (coreAt s s.tile).holder = some th.uid ∧ th.kind = .task) :
    strmCheck s th port cv pat sa = none := by
  unfold strmCheck
  dsimp only
  rw [if_neg (by simpa using h), if_neg, if_neg]
  · cases hp : (portOb port).isSome
    · simp
    · simp [h3 hp]
  · simp only [inPad, Bool.not_eq_true', Bool.and_eq_false_iff, decide_eq_false_iff_not]
    omega

/-- A command that enters its engine, with its thread's count. -/
theorem strm_enters {s : State} {th : Thread} (h : issuer s = some th) {e : Nat} (he : e < 2) (c : Cmd) (f : Thread → Thread) (d : SReg) (n : Nat)
    (hf : ∀ v, (f v).regs = v.regs) :
    let x := subscribeSource s c
    let t := wrS (updIssuer (updCore x.1 x.1.tile (fun k => { (setEng k e (engOf k e ++ [x.2])) with mqOrd := k.mqOrd + 1 })) f) d n false
    t.mem = x.1.mem ∧ engOf (coreAt t s.tile) e = engOf (coreAt s s.tile) e ++ [x.2] ∧
      engOf (coreAt t s.tile) (1 - e) = engOf (coreAt s s.tile) (1 - e) ∧
      issuer t = some { f th with regs := th.regs.wrS d ⟨BitVec.ofNat 64 n, false⟩ } := by
  intro x t
  obtain ⟨hi, hth, ⟨tp, hc⟩, -, -⟩ := subscribeSource_frame s c
  have htile : x.1.tile = s.tile := by rw [State.tile, hi, State.tile]
  have hcore : coreAt t s.tile = { (setEng (coreAt x.1 s.tile) e (engOf (coreAt x.1 s.tile) e ++ [x.2])) with mqOrd := (coreAt x.1 s.tile).mqOrd + 1 } := by
    have h1 : t.cores = (updCore x.1 x.1.tile (fun k => { (setEng k e (engOf k e ++ [x.2])) with mqOrd := k.mqOrd + 1 })).cores := by
      obtain ⟨m, hm⟩ := updThread_eq (updCore x.1 x.1.tile (fun k => { (setEng k e (engOf k e ++ [x.2])) with mqOrd := k.mqOrd + 1 })) _ f
      exact (setRegs_cores _ _).trans (by rw [updIssuer, hm])
    rw [coreAt_of_cores h1, htile, coreAt_updCore]
  have heng : ∀ k, engOf (coreAt x.1 s.tile) k = engOf (coreAt s s.tile) k := fun k => by
    rw [hc]
    rfl
  refine ⟨(setRegs_mem _ _).trans (updThread_mem ..), ?_, ?_, ?_⟩
  · rw [hcore]
    exact (engOf_setEng_same ..).trans (by rw [heng])
  · rw [hcore]
    refine (engOf_setEng _ _ _ _ he (by omega)).trans ?_
    rw [if_neg (by omega), heng]
  · have hthr : issuer (updCore x.1 x.1.tile (fun k => { (setEng k e (engOf k e ++ [x.2])) with mqOrd := k.mqOrd + 1 })) = some th := hth.trans h
    refine (issuer_setRegs ..).trans ?_
    rw [issuer_updIssuer, hthr]
    simp only [Option.map_some, hf]

/-- Settles O38: STRM's checks in their order and the command it enters; what cancelling leaves of a command; a field bit by bit. -/
theorem streamCommands : Obligations.StreamCommands := by
  refine ⟨fun s th g port dir eng scp ordf cons cv rm ty d gr a n h => ?_, fun s th g a h => ⟨fun hc => ?_, fun c hc => ?_⟩, fun s th g gr sel a h => ?_⟩
  · intro pat sa ws e q id
    have he := exec_strm h port dir eng scp ordf cons cv rm ty d gr a n
    dsimp only at he
    refine ⟨fun hq => ?_, fun hq hw => ?_, fun hq hw hp => ?_, fun hq hw h1 h2 h3 => ?_⟩
    · rw [he]
      exact congrArg _ (if_pos hq)
    all_goals
      rw [if_neg (Nat.not_le.mpr hq)] at he
      rw [he]
    · rw [strmCheck_align hw]
      rfl
    · rw [strmCheck_perm hw hp]
    · rw [strmCheck_ok hw h1 h2 h3]
      dsimp only
      have hlt : e < 2 := by
        show (if eng then 1 else 0) < 2
        split <;> decide
      obtain ⟨-, -, -, ⟨p, hp⟩, hm⟩ := subscribeSource_frame s (strmCmd s th port dir e scp ordf cons cv rm ty gr (rdS s a) n)
      obtain ⟨hmem, hq1, hq2, hi⟩ := strm_enters h.thread hlt (strmCmd s th port dir e scp ordf cons cv rm ty gr (rdS s a) n)
        (fun th => if eng then { th with strm1 := th.strm1 + 1 } else { th with strm0 := th.strm0 + 1 }) d
        (e * 2 ^ 32 + (subscribeSource s (strmCmd s th port dir e scp ordf cons cv rm ty gr (rdS s a) n)).2.seq) (fun v => by cases eng <;> rfl)
      have hid : e * 2 ^ 32 + (subscribeSource s (strmCmd s th port dir e scp ordf cons cv rm ty gr (rdS s a) n)).2.seq = id := by
        rw [hp]
        cases eng <;> rfl
      have htag := s.issue.src.tag.isLt
      refine ⟨_, _, _, rfl, fun hh => hmem.trans (hm hh), congrArg Cmd.poison hp, hq1, hq2, congrArg Cmd.uid hp, congrArg Cmd.port hp,
        congrArg Cmd.out hp, congrArg Cmd.pat hp, congrArg Cmd.sa hp, congrArg Cmd.ord hp, congrArg Cmd.running hp, congrArg Cmd.chunks hp,
        congrArg Cmd.named hp, congrArg Cmd.name hp, ?_, hi,
        congrArg (fun i => th.regs.wrS d ⟨BitVec.ofNat 64 i, false⟩) hid, ?_, ?_⟩
      · exact (congrArg (fun c => nameCtx c.name) hp).trans <| (nameCtx_mkName ..).trans <| Nat.mod_eq_of_lt (by omega)
      · cases eng <;> rfl
      · cases eng <;> rfl
  · rw [exec_swait h, exec_scancel h, hc]
    exact ⟨rfl, rfl⟩
  · rw [exec_swait h, exec_scancel h, hc]
    refine ⟨rfl, _, rfl, ?_, fun _ f hf hu hs => ?_⟩
    · exact ((wakeTile_mem ..).trans (cancelCmd_memory ..).1)
    · dsimp only at hf
      rw [coreAt_wakeTile] at hf
      exact cancelCmd_cancels s s.tile c f hf hu hs
  · exact ⟨_, exec_gset h gr sel a, fun i hi => getLsbD_gsetVal _ sel _ hi⟩

end Sys2Proof.Machine

namespace Sys2Proof.Machine

/-! R260, R261: what a read finds. -/

/-- A state in which errors have been found, and nothing else has happened. -/
def SameButErrors (s t : State) : Prop := t = { s with poison := t.poison, struck := t.struck, errs := t.errs, lowerQ := t.lowerQ }

theorem SameButErrors.refl (s : State) : SameButErrors s s := rfl

theorem SameButErrors.trans {s t u : State} (h : SameButErrors s t) (h' : SameButErrors t u) : SameButErrors s u := by
  unfold SameButErrors at h h' ⊢
  rw [h] at h'
  exact h'

theorem countError_frame (s : State) (t : Nat) : ∃ e l, countError s t = { s with errs := e, lowerQ := l } := by
  unfold countError
  dsimp only
  split
  next => exact ⟨_, _, rfl⟩
  next => exact ⟨_, s.lowerQ, rfl⟩

theorem foundLine_frame (s : State) (pa : Nat) : ∃ e l, foundLine s pa = { setLinePoison s pa true with errs := e, lowerQ := l } := by
  unfold foundLine
  dsimp only
  split
  next => exact countError_frame ..
  next => exact ⟨s.errs, s.lowerQ, rfl⟩

theorem foundLine_sameButErrors (s : State) (pa : Nat) : SameButErrors s (foundLine s pa) := by
  obtain ⟨e, l, h⟩ := foundLine_frame s pa
  rw [SameButErrors, h]
  rfl

/-- One word of the list of struck ones, as a read of a range looks at it. -/
def findIn (pa n : Nat) (s : State) (x : Struck) : State :=
  match x with
  | .line k => if pa < 64 * k + 64 && 64 * k < pa + n && isStruck s x then foundLine s (64 * k) else s
  | .block _ _ _ => s
  | .header _ _ => s
  | .seg _ _ => s

theorem discover_eq (s : State) (pa n : Nat) : discover s pa n = (s.struck.map (fun x => x.2)).foldl (findIn pa n) s := by
  rw [List.foldl_map]
  rfl

theorem findIn_sameButErrors (pa n : Nat) (s : State) (x : Struck) : SameButErrors s (findIn pa n s x) := by
  cases x with
  | line k =>
    unfold findIn
    dsimp only
    split
    next => exact foundLine_sameButErrors ..
    next => exact .refl s
  | _ => exact .refl s

theorem discover_sameButErrors (s : State) (pa n : Nat) : SameButErrors s (discover s pa n) := by
  rw [discover_eq]
  generalize s.struck.map (fun x => x.2) = l
  induction l generalizing s with
  | nil => exact .refl s
  | cons x l ih => exact (findIn_sameButErrors pa n s x).trans (ih _)

theorem linePoison_foundLine (s : State) (k a : Nat) : linePoison (foundLine s (64 * k)) a = (decide (a / 64 = k) || linePoison s a) := by
  obtain ⟨e, l, h⟩ := foundLine_frame s (64 * k)
  have hp : linePoison (foundLine s (64 * k)) a = linePoison (setLinePoison s (64 * k) true) a := by rw [h]; rfl
  rw [hp, linePoison_setLinePoison, show 64 * k / 64 = k by omega]
  split
  next h => rw [decide_eq_true h, Bool.true_or]
  next h => rw [decide_eq_false h, Bool.false_or]

theorem isStruck_foundLine (s : State) (k j : Nat) : isStruck (foundLine s (64 * k)) (.line j) = (decide (j ≠ k) && isStruck s (.line j)) := by
  obtain ⟨e, l, h⟩ := foundLine_frame s (64 * k)
  have hp : isStruck (foundLine s (64 * k)) (.line j) = isStruck (setLinePoison s (64 * k) true) (.line j) := by rw [h]; rfl
  rw [hp, isStruck, isStruck, setLinePoison, strikesLeft, show 64 * k / 64 = k by omega]
  dsimp only
  rw [List.any_filter]
  by_cases hj : j = k
  · rw [decide_eq_false (by simpa using hj), Bool.false_and, List.any_eq_false]
    intro x _
    cases hx : x.2 == Struck.line j
    · simp
    · rw [beq_iff_eq.1 hx, hj]
      simp
  · rw [decide_eq_true hj, Bool.true_and]
    congr 1
    funext x
    cases hx : x.2 == Struck.line j
    · simp
    · rw [beq_iff_eq.1 hx]
      simp [hj]

/-- One struck word looked at: its line is poisoned where it lies in the range. -/
theorem linePoison_findIn (pa n : Nat) (u : State) (x : Struck) (a : Nat) : linePoison (findIn pa n u x) a =
    (linePoison u a || (decide (x = .line (a / 64)) && (isStruck u (.line (a / 64)) && overlap (64 * (a / 64)) 64 pa n))) := by
  cases x with
  | line k =>
    unfold findIn overlap
    dsimp only
    by_cases hk : a / 64 = k
    · subst hk
      split
      next h =>
        simp only [Bool.and_eq_true] at h
        rw [linePoison_foundLine, h.1.1, h.1.2, h.2]
        simp
      next h =>
        simp only [Bool.and_eq_true, not_and, Bool.not_eq_true] at h
        cases h1 : isStruck u (.line (a / 64))
        · simp
        · simp_all
          omega
    · have hne : ¬(Struck.line k = .line (a / 64)) := fun h => hk (by cases h; rfl)
      rw [decide_eq_false hne, Bool.false_and, Bool.or_false]
      split
      next => rw [linePoison_foundLine, decide_eq_false hk, Bool.false_or]
      next => rfl
  | _ => simp [findIn]

theorem isStruck_findIn (pa n : Nat) (u : State) (x : Struck) (j : Nat) : isStruck (findIn pa n u x) (.line j) =
    (isStruck u (.line j) && !(decide (x = .line j) && overlap (64 * j) 64 pa n)) := by
  cases x with
  | line k =>
    unfold findIn overlap
    dsimp only
    by_cases hk : j = k
    · subst hk
      split
      next h =>
        simp only [Bool.and_eq_true] at h
        rw [isStruck_foundLine, h.1.1, h.1.2, h.2]
        simp
      next h =>
        simp only [Bool.and_eq_true, not_and, Bool.not_eq_true] at h
        cases h1 : isStruck u (.line j)
        · simp
        · simp_all
          omega
    · have hne : ¬(Struck.line k = .line j) := fun h => hk (by cases h; rfl)
      rw [decide_eq_false hne, Bool.false_and, Bool.not_false, Bool.and_true]
      split
      next => rw [isStruck_foundLine, decide_eq_true hk, Bool.true_and]
      next => rfl
  | _ => simp [findIn]

/-- What a read of a range finds: the lines of the range that hold a struck word are poisoned, and no other line changes. -/
theorem linePoison_discover (s : State) (pa n a : Nat) : linePoison (discover s pa n) a =
    (linePoison s a || (isStruck s (.line (a / 64)) && overlap (64 * (a / 64)) 64 pa n)) := by
  have key : ∀ (l : List Struck) (u : State), linePoison (l.foldl (findIn pa n) u) a =
      (linePoison u a || (isStruck u (.line (a / 64)) && overlap (64 * (a / 64)) 64 pa n && decide (Struck.line (a / 64) ∈ l))) := by
    intro l
    induction l with
    | nil => intro u; simp
    | cons x l ih =>
      intro u
      rw [List.foldl_cons, ih, linePoison_findIn, isStruck_findIn]
      by_cases hx : x = .line (a / 64)
      · subst hx
        cases h1 : isStruck u (.line (a / 64)) <;> cases h2 : overlap (64 * (a / 64)) 64 pa n <;> simp
      · have hm : decide (Struck.line (a / 64) ∈ x :: l) = decide (Struck.line (a / 64) ∈ l) := by
          simp [List.mem_cons, Ne.symm hx]
        rw [hm, decide_eq_false hx]
        simp
  rw [discover_eq, key]
  congr 1
  cases hs : isStruck s (.line (a / 64))
  · rfl
  · have hm : Struck.line (a / 64) ∈ s.struck.map (fun x => x.2) := by
      obtain ⟨x, hx, he⟩ := List.any_eq_true.1 hs
      rw [Bool.and_eq_true, beq_iff_eq] at he
      rw [← he.1]
      exact List.mem_map_of_mem hx
    simp [hm]

end Sys2Proof.Machine

namespace Sys2Proof.Machine

/-! BAR and BARX. -/

section
variable {s : State} {th : Thread} {g : PReg}

theorem exec_bar (h : Runs s th g) (n : BitVec 4) : exec (.bar g n) s =
    .next (if th.member.isNone then freeze s .perm none 0 else barIssue s th n.toNat) := syllable_runs h _

theorem exec_barx (h : Runs s th g) (k : KReg) (n : BitVec 4) : exec (.barx g k n) s = .next (onFrozen s k (fun j v =>
    if v.member.isNone then freeze s .perm none 0
    else if v.arrived.getLsbD n.toNat then s
    else setThread s j { v with excused := v.excused ++ [(n.toNat, episodeOf v n.toNat)] })) := syllable_runs h _

theorem onFrozen_none {k : KReg} (h : capTarget s k = .none) (f : Nat → Thread → State) : onFrozen s k f = freeze s .perm none 0 := by
  rw [onFrozen, h]

theorem onFrozen_serves {k : KReg} {j : Nat} {v : Thread} (h : Serves s k j v) (f : Nat → Thread → State) : onFrozen s k f = f j v := by
  rw [onFrozen, h.1]
  dsimp only
  rw [h.2]

theorem updIssuer_updIssuer (s : State) (f h : Thread → Thread) : updIssuer (updIssuer s f) h = updIssuer s (fun t => h (f t)) := by
  rw [updIssuer, (updIssuer_net s f).2]
  exact updThread_updThread ..

theorem clear_bit (a m : BitVec 16) : (a ||| m) &&& ~~~m = a &&& ~~~m := by
  ext i hi
  simp only [BitVec.getElem_and, BitVec.getElem_or, BitVec.getElem_not]
  cases a[i] <;> cases m[i] <;> rfl

theorem barIssue_excused {n : Nat} (h : (n, episodeOf th n) ∈ th.excused) :
    barIssue s th n = updIssuer s (fun t => { t with episode := setD 0 n (episodeOf th n + 1) t.episode }) := by
  unfold barIssue
  exact if_pos (by simpa using h)

theorem barIssue_waits {n : Nat} (h : (n, episodeOf th n) ∉ th.excused) (ha : th.arrived.getLsbD n = false)
    (hd : accessesDone s th.uid 1 0b011 = false) : barIssue s th n = waitFor s .cond := by
  unfold barIssue
  rw [if_neg (by simpa using h), if_pos (by rw [ha, hd]; rfl)]

theorem barIssue_arrives {n : Nat} (h : (n, episodeOf th n) ∉ th.excused)
    (hd : th.arrived.getLsbD n = true ∨ accessesDone s th.uid 1 0b011 = true) : barIssue s th n =
      let u := updIssuer s (fun t => { t with arrived := t.arrived ||| (1#16 <<< n) })
      if barrierOpen u { th with arrived := th.arrived ||| (1#16 <<< n) } n then
        updIssuer s (fun t => { t with arrived := t.arrived &&& ~~~(1#16 <<< n), episode := setD 0 n (episodeOf th n + 1) t.episode })
      else waitFor u .cond := by
  unfold barIssue
  rw [if_neg (by simpa using h), if_neg (by rcases hd with hd | hd <;> rw [hd] <;> simp)]
  dsimp only
  rw [updIssuer_updIssuer]
  simp only [clear_bit]

/-! SPAWN and the completion of a launch. -/

theorem exec_spawn (h : Runs s th g) (d c b : SReg) : exec (.spawn g d c b) s = .next (
    let base := (rdS s b).val.toNat
    if base % 64 != 0 then freeze s .align (some base) 64
    else if !inPad s.tile base 64 then freeze s .perm (some base) 0
    else
      let pa := padBase s.tile + base
      if !(releaseList s th.uid 2).isEmpty || readHeld s th || storesOver s th.uid none pa 64 || !banksFree s s.tile pa 64 ||
          injectionStopped s s.tile then waitFor s .cond
      else
        let u := discover (routerTurn s s.tile pa 64) pa 64
        let r := readBytes u pa 64
        let x := spawnDecide u th r (rangePoison u pa 64 || (rdS u b).poison || recMalformed r)
        wrS (wrS x.1 d x.2.1 false) c x.2.2 false) := syllable_runs h _

/-- A record's poison once its errors are found. -/
theorem rangePoison_discover (s : State) (pa n : Nat) : rangePoison (discover s pa n) pa n = rangeBad s pa n := by
  rw [rangePoison, rangeBad]
  rw [Bool.eq_iff_iff, List.any_eq_true, List.any_eq_true]
  refine exists_congr fun i => and_congr_right fun hi => ?_
  have hlt : i < n := List.mem_range.1 hi
  have ho : overlap (64 * ((pa + i) / 64)) 64 pa n = true := by
    simp only [overlap, Bool.and_eq_true, decide_eq_true_eq]
    omega
  rw [linePoison_discover, ho, Bool.and_true]
  rfl

/-- The reads of the record leave what a launch depends on. -/
theorem spawnRead_frame (s : State) (t pa n : Nat) : ∃ c p k e l, discover (routerTurn s t pa n) pa n =
    { s with cores := c, poison := p, struck := k, errs := e, lowerQ := l } :=
  ⟨_, _, _, _, _, discover_sameButErrors (routerTurn s t pa n) pa n⟩

theorem rangePoison_spawnRead (s : State) (t pa n : Nat) : rangePoison (discover (routerTurn s t pa n) pa n) pa n = rangeBad s pa n :=
  rangePoison_discover (routerTurn s t pa n) pa n

/-- What SPAWN decides once its record is read: by the parent's depth, then by the pool. -/
def spawnGo (s : State) (r : List Byte) (bad : Bool) (parent : Option Nat) (depth : Nat) (part : Option Nat) (root : Word) : State × Nat × Nat :=
  if 24 < depth then (s, 2, 0)
  else match poolNext s with
    | none => (s, 1, 0)
    | some id => (poolTake s id r parent depth none part root bad, 0, poolHandle s id)

theorem poolHandle_of_poolGen {s t : State} (h : t.poolGen = s.poolGen) (id : Nat) : poolHandle t id = poolHandle s id := by
  rw [poolHandle, poolHandle, h]

theorem poolFree_of_pool {s t : State} (h : t.pool = s.pool) (n i : Nat) : poolFree t n i = poolFree s n i := by
  induction n generalizing i with
  | zero => rfl
  | succ n ih => rw [poolFree, poolFree, h, ih]

theorem poolTake_bad (s : State) (id : Nat) (r : List Byte) (parent : Option Nat) (depth : Nat) (host : Option (Nat × Nat)) (part : Option Nat)
    (root : Word) : poolTake s id r parent depth host part root true =
      completeLaunch { s with lastId := id } (poolHandle s id) parent host r none 1 2 := by
  unfold poolTake
  rw [if_pos rfl, poolHandle_of_poolGen (s := s) (t := { s with lastId := id }) rfl]

theorem poolTake_zero (s : State) (id : Nat) {r : List Byte} (hz : recZero r = true) (parent : Option Nat) (depth : Nat)
    (host : Option (Nat × Nat)) (part : Option Nat) (root : Word) : poolTake s id r parent depth host part root false =
      completeLaunch { s with lastId := id } (poolHandle s id) parent host r none 0 0 := by
  unfold poolTake
  rw [if_neg Bool.false_ne_true, if_pos hz, poolHandle_of_poolGen (s := s) (t := { s with lastId := id }) rfl]

theorem poolTake_enters (s : State) (id : Nat) {r : List Byte} (hz : recZero r = false) (parent : Option Nat) (depth : Nat)
    (host : Option (Nat × Nat)) (part : Option Nat) (root : Word) : poolTake s id r parent depth host part root false =
      { s with lastId := id, poolSeq := s.poolSeq + 1,
               pool := put id ⟨r, parent, depth, recPrio r, s.poolSeq, host, part, root, false, false⟩ s.pool } := by
  unfold poolTake
  rw [if_neg Bool.false_ne_true, if_neg (by rw [hz]; exact Bool.false_ne_true)]

theorem spawnDecide_keystone (h : isKs s.tile = true) (th : Thread) (r : List Byte) (bad : Bool) :
    spawnDecide s th r bad = spawnGo s r bad none 1 none (msRaw s 0x80A) := by
  unfold spawnDecide
  rw [h]
  rfl

theorem spawnDecide_graph {c : Nat} {gr : Graph} (h : isKs s.tile = false) (hc : th.graph = some c) (hg : graphAt s c = some gr)
    (r : List Byte) (bad : Bool) :
    spawnDecide s th r bad = spawnGo s r bad (some (gr.launch * 256 + c)) (gr.depth + 1) gr.part gr.root := by
  unfold spawnDecide
  rw [h, hc, Option.bind_some, hg]
  rfl

theorem waits_iff {α : Type} (l : List α) (a b c d : Bool) :
    (!l.isEmpty || a || b || !c || d) = true ↔ ¬(l = [] ∧ a = false ∧ b = false ∧ c = true ∧ d = false) := by
  cases l <;> cases a <;> cases b <;> cases c <;> cases d <;> simp

theorem readBytes_of_mem {s t : State} (h : t.mem = s.mem) (pa n : Nat) : readBytes t pa n = readBytes s pa n := by
  simp only [readBytes_eq, readByte, h]

theorem sendPub_frame (s : State) (p : Pub) (t u : Nat) (l : List Nat) (scp : Nat) : ∃ gs stage, sendPub s p t u l scp =
    { s with graphs := gs, net := s.net ++ [.pub p t u l scp stage] } := by
  have hm : ∃ gs, markExit s p.name = { s with graphs := gs } := by
    unfold markExit updGraph
    split
    next => exact ⟨s.graphs, rfl⟩
    next =>
      split
      next => exact ⟨s.graphs, rfl⟩
      next => exact ⟨_, rfl⟩
  obtain ⟨gs, hg⟩ := hm
  unfold sendPub
  rw [hg]
  exact ⟨gs, _, rfl⟩

end

/-- The publication that completes a launch that has no graph, in the context that its parent gives. -/
def failedLaunch (s : State) (handle ctx res why : Nat) : Pub :=
  { name := launchName handle ctx, nsub := 0, sv := false, splane := 0, pmap := 0, rel := true, clean := false, wp := res != 0, scope := 2,
    fmt := 0, data := cplBytes s none res why }

theorem completeLaunch_eq (s : State) (handle res why : Nat) (parent : Option Nat) (r : List Byte) :
    completeLaunch s handle parent none r none res why = freeRecord (if (∃ p, parent = some p ∧ parentLive s p = false) then s
      else sendPub s (failedLaunch s handle ((parent.map (fun p => p % 256)).getD 0) res why) Config.ks 0 [] 3) (handle % 65536) := by
  unfold completeLaunch
  cases parent with
  | none =>
    rw [if_neg (by simp)]
    rfl
  | some p =>
    dsimp only
    by_cases hl : parentLive s p = true
    · rw [if_pos hl, if_neg (by simp [hl])]
      rfl
    · rw [if_neg hl, if_pos ⟨p, rfl, by simpa using hl⟩]

/-- Settles O39: BAR's branches, BARX's, SPAWN's checks with what its parent gives it, and the message that completes a launch. -/
theorem barriersAndSpawn : Obligations.BarriersAndSpawn := by
  refine ⟨fun s th g n h => ?_, fun s th g k n h hc => ?_, fun s th v g k j n h hs => ?_, fun s th g d c b h => ?_,
    fun s handle res why parent r => ?_⟩
  · intro m e u
    have he := exec_bar h n
    refine ⟨fun hm => ?_, fun hm hx => ?_, fun hm hx ha hd => ?_, fun hm hx hd => ⟨fun ho => ?_, fun ho => ?_⟩⟩
    · rw [he, hm]
      rfl
    all_goals
      rw [if_neg (by simpa using hm)] at he
      rw [he]
    · rw [barIssue_excused hx]
    · rw [barIssue_waits hx ha hd]
    · rw [barIssue_arrives hx hd]
      exact congrArg _ (if_neg (by rw [ho]; simp))
    · rw [barIssue_arrives hx hd]
      exact congrArg _ (if_pos ho)
  · rw [exec_barx h, onFrozen_none hc]
  · rw [exec_barx h, onFrozen_serves hs]
    refine ⟨fun hm => ?_, fun hm ha => ?_, fun hm ha => ?_⟩
    · rw [hm]
      rfl
    · rw [if_neg (by simpa using hm), if_pos ha]
    · rw [if_neg (by simpa using hm), if_neg (by rw [ha]; simp)]
  · intro base pa r u may wrong answer
    have he := exec_spawn h d c b
    dsimp only at he
    have hpad : base + 64 ≤ padSize s.tile → inPad s.tile base 64 = true := fun h => by
      simp only [inPad, Bool.and_eq_true, decide_eq_true_eq]
      omega
    obtain ⟨cs, p, k, e, l, hu⟩ : ∃ c p k e l, u = { s with cores := c, poison := p, struck := k, errs := e, lowerQ := l } := spawnRead_frame ..
    refine ⟨fun hb => ?_, fun hb hp => ?_, fun hb hp hm => ?_, fun hb hp hm parent depth part root hw => ?_⟩
    · rw [he, if_pos (by simpa using hb)]
    · rw [he, if_neg (by simpa using hb), if_pos]
      simp only [inPad, Bool.not_eq_true', Bool.and_eq_false_iff, decide_eq_false_iff_not]
      omega
    · rw [he, if_neg (by simpa using hb), if_neg (by rw [hpad hp]; simp), if_pos]
      exact (waits_iff ..).2 hm
    · have hx : exec (.spawn g d c b) s = .next (let x := spawnGo u r (rangeBad s pa 64 || (rdS s b).poison || recMalformed r) parent depth part root
          wrS (wrS x.1 d x.2.1 false) c x.2.2 false) := by
        rw [he, if_neg (by simpa using hb), if_neg (by rw [hpad hp]; simp), if_neg (fun hc => (waits_iff ..).1 hc hm)]
        have hr : readBytes u pa 64 = r := readBytes_of_mem (by rw [hu]) pa 64
        have hd : spawnDecide u th r (rangeBad s pa 64 || (rdS s b).poison || recMalformed r) =
            spawnGo u r (rangeBad s pa 64 || (rdS s b).poison || recMalformed r) parent depth part root := by
          rcases hw with ⟨hk, rfl, rfl, rfl, rfl⟩ | ⟨hk, x, gr, hg, hgr, rfl, rfl, rfl, rfl⟩
          · rw [spawnDecide_keystone (by rw [hu]; exact hk)]
            rw [show msRaw u 0x80A = msRaw s 0x80A by rw [hu]; rfl]
          · rw [spawnDecide_graph (by rw [hu]; exact hk) hg (by rw [hu]; exact hgr)]
        have hbad : rangePoison u pa 64 = rangeBad s pa 64 := rangePoison_spawnRead ..
        have hrd : rdS u b = rdS s b := rdS_of_issue (by rw [hu]) b
        refine congrArg _ (?_ : (let x := spawnDecide u th (readBytes u pa 64) (rangePoison u pa 64 || (rdS u b).poison || recMalformed (readBytes u pa 64))
          wrS (wrS x.1 d x.2.1 false) c x.2.2 false) = _)
        rw [hr, hbad, hrd, hd]
      have hn : poolNext u = poolNext s := by rw [poolNext, poolNext, poolFree_of_pool (s := s) (by rw [hu]), show u.lastId = s.lastId by rw [hu]]
      have hh : ∀ id, poolHandle u id = poolHandle s id := poolHandle_of_poolGen (by rw [hu])
      have hq : u.poolSeq = s.poolSeq ∧ u.pool = s.pool := by
        rw [hu]
        exact ⟨rfl, rfl⟩
      refine ⟨fun hdep => ?_, fun hdep hnone => ?_, fun id hdep hid => ⟨fun hwr => ?_, fun hwr hz => ?_, fun hwr hz => ?_⟩⟩
      all_goals rw [hx]
      · rw [spawnGo, if_pos hdep]
        rfl
      · rw [spawnGo, if_neg (by omega), hn, hnone]
        rfl
      all_goals
        rw [spawnGo, if_neg (by omega), hn, hid]
        dsimp only
        rw [hh]
      · have hbad : (rangeBad s pa 64 || (rdS s b).poison || recMalformed r) = true := by
          simpa [or_assoc] using hwr
        rw [hbad, poolTake_bad, hh]
        rfl
      all_goals
        have hbad : (rangeBad s pa 64 || (rdS s b).poison || recMalformed r) = false := by
          simpa [wrong, and_assoc] using hwr
        rw [hbad]
      · rw [poolTake_zero _ _ hz, hh]
        rfl
      · rw [poolTake_enters _ _ hz, hq.1, hq.2]
        rfl
  · intro t
    have ht : t = _ := completeLaunch_eq s handle res why parent r
    by_cases hl : ∃ p, parent = some p ∧ parentLive s p = false
    · rw [if_pos hl] at ht
      rw [ht]
      refine ⟨rfl, (getD_setD ..).trans (if_pos rfl), rfl, fun _ => rfl, fun h => ?_⟩
      obtain ⟨p, hp, hd⟩ := hl
      exact absurd (h p hp) (by simp [hd])
    · rw [if_neg hl] at ht
      obtain ⟨gs, stage, hs⟩ := sendPub_frame s (failedLaunch s handle ((parent.map (fun p => p % 256)).getD 0) res why) Config.ks 0 [] 3
      rw [hs] at ht
      rw [ht]
      exact ⟨rfl, (getD_setD ..).trans (if_pos rfl), rfl, fun h => absurd h hl, fun _ => ⟨_, stage, rfl, rfl, rfl, rfl, rfl, rfl⟩⟩

end Sys2Proof.Machine

namespace Sys2Proof.Machine

/-! FRZINF, FRZRD and FRZWR: an element of a frozen thread. -/

theorem wordAt_eq {n : Nat} (x : BitVec n) (w : Nat) : wordAt x.toNat w = x.extractLsb' (64 * w) 64 := by
  apply BitVec.eq_of_toNat_eq
  rw [wordAt, BitVec.toNat_ofNat, BitVec.extractLsb'_toNat, Nat.shiftRight_eq_div_pow]

theorem testBit_withWord (x w : Nat) (v : Word) (i : Nat) : (withWord x w v).testBit i =
    if 64 * w ≤ i ∧ i < 64 * w + 64 then v.getLsbD (i - 64 * w) else x.testBit i := by
  have hv : v.toNat = v.toNat % 2 ^ 64 := (Nat.mod_eq_of_lt v.isLt).symm
  rw [withWord]
  conv_lhs => rw [hv]
  exact testBit_replace ..

theorem getLsbD_withWord {n : Nat} (x : BitVec n) (w : Nat) (v : Word) {i : Nat} (hi : i < n) : (BitVec.ofNat n (withWord x.toNat w v)).getLsbD i =
    if 64 * w ≤ i ∧ i < 64 * w + 64 then v.getLsbD (i - 64 * w) else x.getLsbD i := by
  rw [BitVec.getLsbD_ofNat, decide_eq_true hi, Bool.true_and, testBit_withWord]
  rfl

/-- The low word of a shape replaced, and its high word. -/
theorem withWord_low (x : BitVec 128) (v : Word) : BitVec.ofNat 128 (withWord x.toNat 0 v) = (x.extractLsb' 64 64 ++ v : BitVec 128) := by
  apply BitVec.eq_of_getLsbD_eq
  intro i hi
  rw [getLsbD_withWord _ _ _ hi, BitVec.getLsbD_append, BitVec.getLsbD_extractLsb']
  by_cases h : i < 64
  · simp [h]
  · rw [if_neg (by omega)]
    simp only [h, decide_eq_true (show i - 64 < 64 by omega), Bool.true_and]
    rw [Nat.add_sub_cancel' (by omega)]
    rfl

theorem withWord_high (x : BitVec 128) (v : Word) : BitVec.ofNat 128 (withWord x.toNat 1 v) = (v ++ x.extractLsb' 0 64 : BitVec 128) := by
  apply BitVec.eq_of_getLsbD_eq
  intro i hi
  rw [getLsbD_withWord _ _ _ hi, BitVec.getLsbD_append, BitVec.getLsbD_extractLsb']
  by_cases h : i < 64
  · rw [if_neg (by omega)]
    simp [h]
  · rw [if_pos (by omega)]
    simp [h]

section
variable {s : State} {th v : Thread} {g : PReg} {k : KReg} {j : Nat}

theorem exec_frzinf (h : Runs s th g) (d : SReg) (k : KReg) (b : SReg) : exec (.frzinf g d k b) s = .next (onFrozen s k (fun _ v =>
    if 8 ≤ (rdS s b).val.toNat then freeze s .perm none 0
    else wrS s d ((v.fault.map (fun (x : FaultRec) => x.word (rdS s b).val.toNat)).getD 0).toNat false)) := syllable_runs h _

theorem exec_frzrd (h : Runs s th g) (f : File) (d : BitVec 6) (k : KReg) (b : SReg) : exec (.frzrd g f d k b) s = .next (onElement s k f b (fun j v i =>
    if f.isVector then setRegs s (fun r => r.wrV (d.setWidth 5) (frzVec s j v.regs f i))
    else wrS s d (frzWord s j v.regs f i).val.toNat (frzWord s j v.regs f i).poison)) := syllable_runs h _

theorem exec_frzwr (h : Runs s th g) (f : File) (k : KReg) (b : SReg) (a : BitVec 6) : exec (.frzwr g f k b a) s = .next (onElement s k f b (fun j v i =>
    if f = .ac then updCore s (tileOf j) (fun c => { c with acc := setD accRow i ((rdV s (a.setWidth 5)).take 32) c.acc })
    else setThread s j { v with regs := frzPut v.regs f i (rdS s a) (rdV s (a.setWidth 5)) })) := syllable_runs h _

theorem exec_resume (h : Runs s th g) (k : KReg) : exec (.resume g k) s = .next (onFrozen s k (fun j v =>
    resumeAt s j ((v.fault.map (fun (x : FaultRec) => x.pc.setWidth 64)).getD v.pc))) := syllable_runs h _

theorem exec_resumeAtPc (h : Runs s th g) (k : KReg) (a : SReg) : exec (.resumeAtPc g k a) s = .next (onFrozen s k (fun j _ =>
    if (rdS s a).val.toNat % 8 != 0 then freeze s .align (some (rdS s a).val.toNat) 8 else resumeAt s j (rdS s a).val)) := syllable_runs h _

theorem exec_kill (h : Runs s th g) (k : KReg) : exec (.kill g k) s = .next (onFrozen s k (fun j _ => killThread s j)) := syllable_runs h _

theorem onElement_none {f : File} {b : SReg} (h : capTarget s k = .none) (q : Nat → Thread → Nat → State) :
    onElement s k f b q = freeze s .perm none 0 := onFrozen_none h _

theorem onElement_serves {f : File} {b : SReg} (h : Serves s k j v) (q : Nat → Thread → Nat → State) : onElement s k f b q =
    if !frzIndex f (rdS s b).val.toNat || (f == .ac && (coreAt s (tileOf j)).holder != some v.uid) then freeze s .perm none 0
    else if frzPending s j v f (rdS s b).val.toNat then waitFor s .cond
    else q j v (rdS s b).val.toNat := onFrozen_serves h _

/-- An element that is in range, held and not pending is what the instruction acts on. -/
theorem onElement_acts {f : File} {b : SReg} (h : Serves s k j v) (hi : frzIndex f (rdS s b).val.toNat = true)
    (ha : f = .ac → (coreAt s (tileOf j)).holder = some v.uid) (hp : frzPending s j v f (rdS s b).val.toNat = false)
    (q : Nat → Thread → Nat → State) : onElement s k f b q = q j v (rdS s b).val.toNat := by
  rw [onElement_serves h, if_neg, if_neg (by rw [hp]; exact Bool.false_ne_true)]
  rw [hi]
  by_cases hf : f = .ac
  · simp [ha hf]
  · simp [hf]

theorem frzrd_word (hr : Runs s th g) (h : Serves s k j v) {f : File} {b : SReg} (hv : f.isVector = false) (hi : frzIndex f (rdS s b).val.toNat = true)
    (hp : frzPending s j v f (rdS s b).val.toNat = false) (x : BitVec 6) : exec (.frzrd g f x k b) s =
      .next (putS s x (frzWord s j v.regs f (rdS s b).val.toNat).val (frzWord s j v.regs f (rdS s b).val.toNat).poison) := by
  have ha : f ≠ .ac := by
    rintro rfl
    cases hv
  rw [exec_frzrd hr, onElement_acts h hi (fun e => absurd e ha) hp, hv, if_neg Bool.false_ne_true, wrS_toNat]

theorem frzwr_regs (hr : Runs s th g) (h : Serves s k j v) {f : File} {b : SReg} (ha : f ≠ .ac) (hi : frzIndex f (rdS s b).val.toNat = true)
    (hp : frzPending s j v f (rdS s b).val.toNat = false) (x : BitVec 6) : exec (.frzwr g f k b x) s =
      .next (setThread s j { v with regs := frzPut v.regs f (rdS s b).val.toNat (rdS s x) (rdV s (x.setWidth 5)) }) := by
  rw [exec_frzwr hr, onElement_acts h hi (fun e => absurd e ha) hp, if_neg ha]

theorem frzrd_vector (hr : Runs s th g) (h : Serves s k j v) {f : File} {b : SReg} (hv : f.isVector = true) (hi : frzIndex f (rdS s b).val.toNat = true)
    (ha : f = .ac → (coreAt s (tileOf j)).holder = some v.uid) (hp : frzPending s j v f (rdS s b).val.toNat = false) (x : BitVec 6) :
    exec (.frzrd g f x k b) s = .next (putV s (x.setWidth 5) (frzVec s j v.regs f (rdS s b).val.toNat)) := by
  rw [exec_frzrd hr, onElement_acts h hi ha hp, if_pos hv]
  rfl

end

/-- What reading and writing a control register of a frozen thread gives. -/
theorem frzCtl_fields (s : State) (j : Nat) (r : Regs) (cyc : Word) (i : Nat) (e : Word) : let w := csrRead s j r cyc i
    let q := frzCtl r i e
    (i = 1 → w = r.rm.setWidth 64 ∧ q = { r with rm := if e.toNat % 8 < 6 then e.setWidth 3 else r.rm }) ∧
    (i = 2 → w = (if r.psink then 1 else 0) ∧ q = { r with psink := e.getLsbD 0 }) ∧
    (i = 3 → w = r.fflags.setWidth 64 ∧ q = { r with fflags := e.setWidth 5 }) ∧
    (i = 4 → w = r.seed ∧ q = { r with seed := e, rng := { r.rng with cnt := 0, ctr := 0 } }) ∧
    (i = 5 → w = rngWordOf r ∧ 
      q = { r with rng := { r.rng with ctr := e.extractLsb' 16 48, head := e.extractLsb' 4 2, cnt := if 5 ≤ e.toNat % 8 then r.rng.cnt else e.toNat % 8 } }) ∧
    (i = 0x10 → w = r.tag.setWidth 64 ∧ q = r) ∧ (i = 0x11 → w = r.inst.setWidth 64 ∧ q = r) ∧ (i = 0x12 → w = ctlTile s j ∧ q = r) ∧
    (i = 0x13 → w = cyc ∧ q = r) ∧ (i = 0x14 → w = prioWord r ∧ q = { r with level := e.setWidth 3 }) := by
  refine ⟨?_, ?_, ?_, ?_, ?_, ?_, ?_, ?_, ?_, ?_⟩
  case refine_1 =>
    rintro rfl
    refine ⟨by simp [csrRead], ?_⟩
    simp only [frzCtl, csrPut, putRm, Nat.reduceEqDiff, if_true, if_false]
    split <;> rfl
  case refine_5 =>
    rintro rfl
    refine ⟨by simp [csrRead], ?_⟩
    simp only [frzCtl, if_true]
    congr 2
    split <;> split <;> first | rfl | omega
  all_goals
    rintro rfl
    exact ⟨by simp [csrRead], by simp [frzCtl, csrPut, putSeed]⟩

section
variable {s : State} {th v : Thread} {g : PReg} {k : KReg} {j : Nat} {b : SReg}

/-- A word of a frozen thread's shape register, and what writing one leaves of it (Table 14.4). -/
theorem shapeWord_fields (x : Shape) (i : Nat) (hi : i < 3) (e : Word) :
    let w : Word := if i = 2 then (if x.valid then 1 else 0) else wordAt x.bits.toNat i
    let y : Shape := if i = 2 then ⟨x.bits, e.getLsbD 0 && x.bits.toNat / 2 ^ 92 % 2 ^ 36 == 0⟩ else ⟨BitVec.ofNat 128 (withWord x.bits.toNat i e), x.valid⟩
    (i = 0 → w = x.bits.extractLsb' 0 64 ∧ y = ⟨x.bits.extractLsb' 64 64 ++ e, x.valid⟩) ∧
    (i = 1 → w = x.bits.extractLsb' 64 64 ∧ y = ⟨e ++ x.bits.extractLsb' 0 64, x.valid⟩) ∧
    (i = 2 → w = (if x.valid then 1 else 0) ∧ y = ⟨x.bits, e.getLsbD 0 && decide (x.bits.extractLsb' 92 36 = 0)⟩) := by
  refine ⟨?_, ?_, ?_⟩
  case refine_1 =>
    rintro rfl
    exact ⟨wordAt_eq x.bits 0, by rw [if_neg (by decide), withWord_low]⟩
  case refine_2 =>
    rintro rfl
    exact ⟨wordAt_eq x.bits 1, by rw [if_neg (by decide), withWord_high]⟩
  case refine_3 =>
    rintro rfl
    refine ⟨if_pos rfl, (if_pos rfl).trans ?_⟩
    congr 2
    rw [Bool.eq_iff_iff, beq_iff_eq, decide_eq_true_eq, ← BitVec.toNat_inj, BitVec.extractLsb'_toNat, Nat.shiftRight_eq_div_pow]
    rfl

/-- A word of a geometry register, whose bits 55 to 63 stay zero. -/
theorem geometryWord_fields (x : BitVec 256) (w : Nat) (hw : w < 4) (e : Word) {m : Nat} (hm : m < 256) :
    (BitVec.ofNat 256 (withWord x.toNat w (if w = 0 then e &&& (1#64 <<< 55) - 1 else e))).getLsbD m =
      if 64 * w ≤ m ∧ m < 64 * w + 64 then e.getLsbD (m - 64 * w) && !(decide (55 ≤ m ∧ m < 64)) else x.getLsbD m := by
  rw [getLsbD_withWord _ _ _ hm]
  split
  next h =>
    split
    next h0 =>
      subst h0
      have hc : (1#64 <<< 55) - 1 = (BitVec.allOnes 55).setWidth 64 := by decide
      rw [hc, BitVec.getLsbD_and, BitVec.getLsbD_setWidth, BitVec.getLsbD_allOnes]
      congr 1
      rw [Bool.eq_iff_iff]
      simp only [Bool.and_eq_true, Bool.not_eq_true', decide_eq_true_eq, decide_eq_false_iff_not]
      omega
    next h0 =>
      rw [decide_eq_false (by omega), Bool.not_false, Bool.and_true]
  next => rfl

theorem frzInside {f : File} {i : Nat} : frzIndex f i = true ↔ match f with
    | .s | .g | .rq => i < 64
    | .v => i < 32
    | .p => i < 16
    | .ac => i < 512
    | .sh => i < 24
    | .ctl => (1 ≤ i ∧ i ≤ 5) ∨ (0x10 ≤ i ∧ i ≤ 0x14) := by
  cases f <;> simp [frzIndex]

end

end Sys2Proof.Machine

namespace Sys2Proof.Machine

/-! RESUME and KILL. -/

/-- A state whose threads differ from another's in their status at most, with the same numbers given and none saved or restored. -/
structure SameButStatus (s t : State) : Prop where
  saved : t.saved = s.saved
  nextUid : t.nextUid = s.nextUid
  threads : ∀ i, ∃ f : Thread → Status, threadAt t i = (threadAt s i).map (fun x => { x with status := f x })

theorem SameButStatus.of_eq {s t : State} (hs : t.saved = s.saved) (hn : t.nextUid = s.nextUid) (ht : t.threads = s.threads) : SameButStatus s t :=
  ⟨hs, hn, fun i => ⟨fun x => x.status, by rw [threadAt, threadAt, ht]; exact Option.map_id'.symm⟩⟩

theorem SameButStatus.refl (s : State) : SameButStatus s s := .of_eq rfl rfl rfl

theorem SameButStatus.trans {s t u : State} (h : SameButStatus s t) (h' : SameButStatus t u) : SameButStatus s u := by
  refine ⟨h'.saved.trans h.saved, h'.nextUid.trans h.nextUid, fun i => ?_⟩
  obtain ⟨f, hf⟩ := h.threads i
  obtain ⟨f', hf'⟩ := h'.threads i
  refine ⟨fun x => f' { x with status := f x }, ?_⟩
  rw [hf', hf, Option.map_map]
  rfl

theorem SameButStatus.foldl {β : Type} {f : State → β → State} (hf : ∀ s b, SameButStatus s (f s b)) (l : List β) (s : State) :
    SameButStatus s (l.foldl f s) := by
  induction l generalizing s with
  | nil => exact .refl s
  | cons b l ih => exact (hf s b).trans (ih _)

theorem wakeTile_sameButStatus (s : State) (t : Nat) : SameButStatus s (wakeTile s t) := by
  refine .foldl (fun s e => ?_) _ s
  split
  next =>
    obtain ⟨m, hm⟩ := updThread_eq s e.1 (fun th => { th with status := .ready })
    refine ⟨?_, ?_, fun i => ?_⟩
    · rw [setStatus, hm]
    · rw [setStatus, hm]
    · rw [setStatus, threadAt_updThread]
      split
      next h => exact ⟨fun _ => .ready, by rw [h]⟩
      next => exact ⟨fun x => x.status, Option.map_id'.symm⟩
  next => exact .refl s

theorem flushPort_sameButStatus (u : Nat) (w : Who) (p : Bool) (s : State) (port : Nat) : SameButStatus s (flushPort u w p s port) := by
  unfold flushPort
  split
  next => exact .of_eq rfl rfl rfl
  next => exact .refl s

theorem flushCmd_sameButStatus (s : State) (t : Nat) (c : Cmd) : SameButStatus s (flushCmd s t c) := by
  unfold flushCmd
  dsimp only
  split
  next => exact .refl s
  next =>
    split
    next => exact .foldl (fun s p => flushPort_sameButStatus ..) _ s
    next => exact .refl s

theorem sendPub_sameButStatus (s : State) (p : Pub) (t u : Nat) (l : List Nat) (scp : Nat) : SameButStatus s (sendPub s p t u l scp) := by
  obtain ⟨gs, st, h⟩ := sendPub_frame s p t u l scp
  rw [h]
  exact .of_eq rfl rfl rfl

theorem publishStream_sameButStatus (s : State) (t : Nat) (c : Cmd) (st : Nat) (step : Option Nat) (bytes : Nat) :
    SameButStatus s (publishStream s t c st step bytes) := by
  unfold publishStream
  split
  next => exact .refl s
  next => exact sendPub_sameButStatus ..

theorem endFill_sameButStatus (s : State) (t : Nat) (c : Cmd) : SameButStatus s (endFill s t c) := by
  unfold endFill
  split
  next => exact .refl s
  next =>
    dsimp only
    split
    next => exact .refl s
    next => exact .of_eq rfl rfl rfl

theorem removeCmd_sameButStatus (s : State) (t : Nat) (c : Cmd) : SameButStatus s (removeCmd s t c) := by
  refine .trans ?_ (wakeTile_sameButStatus ..)
  exact .of_eq rfl rfl rfl

theorem cancelCmd_sameButStatus (s : State) (t : Nat) (c : Cmd) : SameButStatus s (cancelCmd s t c) := by
  unfold cancelCmd
  dsimp only
  split
  next =>
    refine .trans ?_ (publishStream_sameButStatus ..)
    refine .trans ?_ (endFill_sameButStatus ..)
    refine .trans ?_ (removeCmd_sameButStatus ..)
    split
    next => exact .of_eq rfl rfl rfl
    next => exact .refl s
  next =>
    refine .trans ?_ (flushCmd_sameButStatus ..)
    exact .of_eq rfl rfl rfl

theorem cancelAll_sameButStatus (s : State) (t u : Nat) : SameButStatus s (cancelAll s t u) :=
  .foldl (fun s _ => .foldl (fun s c => cancelCmd_sameButStatus s t c) _ s) _ s

/-! What cancelling leaves of a tile's matrix queue. -/

theorem mq_endFill (s : State) (t : Nat) (c : Cmd) : (coreAt (endFill s t c) t).mq = (coreAt s t).mq := by
  unfold endFill
  split
  next => rfl
  next =>
    dsimp only
    split
    next => rfl
    next => rw [coreAt_updCore]; rfl

theorem mq_setEng (c : Core) (e : Nat) (l : List Cmd) : (setEng c e l).mq = c.mq := by
  unfold setEng
  split <;> rfl

theorem mq_cancelCmd (s : State) (t : Nat) (c : Cmd) : (coreAt (cancelCmd s t c) t).mq = (coreAt s t).mq := by
  unfold cancelCmd
  dsimp only
  split
  next =>
    rw [coreAt_of_cores (publishStream_cores ..), mq_endFill, removeCmd, coreAt_wakeTile, coreAt_updCore, mq_setEng]
    split <;> rfl
  next => rw [coreAt_of_cores (flushCmd_cores ..), putCmd, coreAt_updCore, mq_setEng]

theorem mq_cancelAll (s : State) (t u : Nat) : (coreAt (cancelAll s t u) t).mq = (coreAt s t).mq :=
  foldl_keeps (fun s => (coreAt s t).mq) _ (fun s _ => foldl_keeps (fun s => (coreAt s t).mq) _ (fun s c => mq_cancelCmd s t c) _ s) _ s

/-- The state in which KILL has withdrawn and cancelled what the thread has asked for. -/
def disarmed (s : State) (k : Nat) (th : Thread) : State :=
  updCore (discardOps (unqueue (cancelAll (withdrawAll s (tileOf k) th) (tileOf k) th.uid) th.uid) (tileOf k) th.uid) (tileOf k)
    (fun c => { c with copying := c.copying.filter (fun e => e.2 != slotOf k) })

theorem killThread_eq {s : State} {k : Nat} {th : Thread} (h : threadAt s k = some th) : killThread s k =
    if holdsOps (disarmed s k th) (tileOf k) th.uid then
      updThread (disarmed s k th) k (fun v => { v with status := .frozen, fault := none, bundle := none, fzGen := v.fzGen + 1, held := [],
                                                       dyn := [], dying := true })
    else endKill (disarmed s k th) k := by
  unfold killThread
  rw [h]
  rfl

theorem disarmed_sameButStatus (s : State) (k : Nat) (th : Thread) : SameButStatus s (disarmed s k th) := by
  obtain ⟨n, hn⟩ := withdrawAll_eq s (tileOf k) th
  have h1 : SameButStatus s (withdrawAll s (tileOf k) th) := by
    rw [hn]
    exact .of_eq rfl rfl rfl
  refine (h1.trans (cancelAll_sameButStatus _ (tileOf k) th.uid)).trans ?_
  unfold disarmed
  generalize cancelAll (withdrawAll s (tileOf k) th) (tileOf k) th.uid = u
  exact .of_eq rfl rfl rfl

theorem find_map {α β : Type} (f : α → β) (m : Map α) (k : Nat) : find k (m.map (fun e => (e.1, f e.2))) = (find k m).map f := by
  induction m with
  | nil => rfl
  | cons e m ih =>
    obtain ⟨j, a⟩ := e
    rw [List.map_cons, find, find, ih]
    split <;> rfl

/-- A core in whose queue of handlers a thread waits no more. -/
def leaveFifo (u : Nat) (c : Core) : Core := { c with fifo := c.fifo.filter (fun j => j != u) }

/-- Of a killed thread's matrix operations those that have started stay until they are done. -/
theorem holdsOps_disarmed (s : State) (k : Nat) (th : Thread) : holdsOps (disarmed s k th) (tileOf k) th.uid =
    (coreAt s (tileOf k)).mq.any (fun m => m.uid == th.uid && m.started) := by
  have hu : ∀ (u : State) i t, (coreAt (unqueue u i) t).mq = (coreAt u t).mq := by
    intro u i t
    have hc : coreAt (unqueue u i) t = ((find t u.cores).map (leaveFifo i)).getD Core.reset :=
      congrArg (Option.getD · Core.reset) (find_map (leaveFifo i) u.cores t)
    rw [hc, coreAt, getD]
    cases find t u.cores <;> rfl
  have hm : (coreAt (cancelAll (withdrawAll s (tileOf k) th) (tileOf k) th.uid) (tileOf k)).mq = (coreAt s (tileOf k)).mq := by
    obtain ⟨n, hn⟩ := withdrawAll_eq s (tileOf k) th
    rw [mq_cancelAll, hn]
    rfl
  have hd : (coreAt (disarmed s k th) (tileOf k)).mq = (coreAt s (tileOf k)).mq.filter (fun m => m.uid != th.uid || m.started) := by
    unfold disarmed
    generalize cancelAll (withdrawAll s (tileOf k) th) (tileOf k) th.uid = u at hm ⊢
    rw [coreAt_updCore, discardOps, coreAt_updCore, settleEnds, hu, hm]
  rw [holdsOps, hd, List.any_filter]
  refine congrArg (List.any _) (funext fun m => ?_)
  cases h : m.uid == th.uid <;> simp [bne, h]

/-! What follows a killed thread has a number of its own. -/

theorem Lacks.of_sameButStatus {u : Nat} {s t : State} (h : Lacks u s) (hs : SameButStatus s t) : Lacks u t := by
  refine ⟨hs.saved.trans h.saved, hs.nextUid ▸ h.used, fun j v hv => ?_⟩
  obtain ⟨f, hf⟩ := hs.threads j
  rw [hf, Option.map_eq_some_iff] at hv
  obtain ⟨x, hx, rfl⟩ := hv
  exact h.absent j x hx

theorem Lacks.killOutputs {u : Nat} {s : State} (h : Lacks u s) (t : Nat) (th : Thread) : Lacks u (killOutputs s t th) := by
  unfold Machine.killOutputs
  split
  next => exact h
  next =>
    split
    next => exact h
    next => exact h.of_sameButStatus (.foldl (fun s p => sendPub_sameButStatus ..) _ s)

theorem Lacks.serveRecord {u : Nat} {s : State} (h : Lacks u s) (k : Nat) : Lacks u (serveRecord s k) := by
  unfold Machine.serveRecord
  split
  next hp => exact h.placeRecord hp
  next =>
    split
    next => exact h
    next => exact h.faultWait _

theorem Lacks.serveAgain {u : Nat} {s : State} (h : Lacks u s) (th : Thread) : Lacks u (serveAgain s th) := by
  unfold Machine.serveAgain
  split
  next => exact h
  next => exact h.serveRecord _

theorem endKill_lacks {s : State} {k : Nat} {th : Thread} (h : threadAt s k = some th) (hs : s.saved = []) (hu : th.uid < s.nextUid)
    (hk : ∀ i x, threadAt s i = some x → x.uid = th.uid → i = k) : Lacks th.uid (endKill s k) := by
  have hd : Lacks th.uid (dropThread s k) := by
    refine ⟨hs, hu, fun j v hv he => ?_⟩
    rw [threadAt_dropThread] at hv
    split at hv
    next => cases hv
    next hj => exact hj (hk j v hv he)
  unfold endKill
  rw [h]
  dsimp only
  split
  next =>
    have h1 := ((hd.freeEntries (identOf th)).countRun (tileOf k) th).releaseFile (tileOf k) th.uid
    refine (Lacks.killOutputs ?_ _ _).fill _
    exact ⟨by simp [h1.saved], h1.used, h1.absent⟩
  next => exact (hd.serveAgain th).takeRecord _
  next => exact hd.nextAlert

/-- KILL of a thread: its operations that have started keep it, dying; else it is gone. -/
theorem killThread_spec {s : State} {k : Nat} {th : Thread} (h : threadAt s k = some th) :
    let started := (coreAt s (tileOf k)).mq.any (fun m => m.uid == th.uid && m.started)
    (started = true → ∃ x, threadAt (killThread s k) k = some x ∧ x.uid = th.uid ∧ x.dying = true ∧ x.fault = none ∧ x.fzGen = th.fzGen + 1) ∧
    (started = false → s.saved = [] → th.uid < s.nextUid → (∀ i x, threadAt s i = some x → x.uid = th.uid → i = k) →
      Lacks th.uid (killThread s k)) := by
  have hs := disarmed_sameButStatus s k th
  have hh := holdsOps_disarmed s k th
  have hat : ∃ st, threadAt (disarmed s k th) k = some { th with status := st } := by
    obtain ⟨f, hf⟩ := hs.threads k
    exact ⟨f th, by rw [hf, h]; rfl⟩
  obtain ⟨st, hat⟩ := hat
  refine ⟨fun hst => ?_, fun hst h1 h2 h3 => ?_⟩
  · rw [killThread_eq h, if_pos (hh.trans hst), threadAt_updThread, if_pos rfl, hat]
    exact ⟨_, rfl, rfl, rfl, rfl, rfl⟩
  · rw [killThread_eq h, if_neg (by rw [hh, hst]; exact Bool.false_ne_true)]
    refine endKill_lacks (th := { th with status := st }) hat (hs.saved.trans h1) (hs.nextUid ▸ h2) fun i x hx hu => ?_
    obtain ⟨f, hf⟩ := hs.threads i
    rw [hf, Option.map_eq_some_iff] at hx
    obtain ⟨y, hy, rfl⟩ := hx
    exact h3 i y hy hu

end Sys2Proof.Machine

namespace Sys2Proof.Machine

theorem startWakes_threads (s : State) : (startWakes s).threads = s.threads := by
  refine foldl_keeps State.threads _ (fun s _ => ?_) _ s
  split
  next => rfl
  next => split <;> rfl

theorem requestWake_threads (s : State) (b : Nat) : (requestWake s b).threads = s.threads := by
  unfold requestWake
  split <;> rfl

/-- A frozen thread that is resumed with no fault held is ready at its pc, and its capability is stale. -/
theorem resumeAt_ready {s : State} {j : Nat} {v : Thread} (h : threadAt s j = some v) (hh : v.held = []) (pc : Word) :
    ∃ v', threadAt (resumeAt s j pc) j = some v' ∧ v'.status = .ready ∧ v'.pc = pc ∧ v'.fault = none ∧
      v'.fzGen = v.fzGen + 1 ∧ v'.regs = v.regs ∧ (resumeAt s j pc).mem = s.mem := by
  have hr : ∃ v', threadAt (resumeThread s j pc) j = some v' ∧ v'.status = .ready ∧ v'.pc = pc ∧ v'.fault = none ∧
      v'.fzGen = v.fzGen + 1 ∧ v'.regs = v.regs ∧ (resumeThread s j pc).mem = s.mem := by
    unfold resumeThread
    rw [h]
    dsimp only
    rw [hh]
    exact ⟨_, (threadAt_setThread s j j _).trans (if_pos rfl), rfl, rfl, rfl, rfl, rfl, rfl⟩
  obtain ⟨v', h1, h2, h3, h4, h5, h6, h7⟩ := hr
  have ht : (resumeAt s j pc).threads = (resumeThread s j pc).threads := by
    unfold resumeAt
    split
    next => rfl
    next => rw [startWakes_threads, requestWake_threads]
  have hm : (resumeAt s j pc).mem = (resumeThread s j pc).mem := by
    unfold resumeAt
    split
    next => rfl
    next => rw [(startWakes_memory _).1, (requestWake_memory ..).1]
  exact ⟨v', by rw [threadAt, ht]; exact h1, h2, h3, h4, h5, h6, hm.trans h7⟩

section
variable {s : State} {th v : Thread} {g : PReg} {k : KReg} {j : Nat} {b : SReg}

/-- An element out of its file's range, or of an accumulator that the thread does not hold. -/
theorem onElement_refused {f : File} (h : Serves s k j v)
    (hc : frzIndex f (rdS s b).val.toNat = false ∨ ¬(f = .ac → (coreAt s (tileOf j)).holder = some v.uid)) (q : Nat → Thread → Nat → State) :
    onElement s k f b q = freeze s .perm none 0 := by
  rw [onElement_serves h, if_pos]
  rcases hc with hc | hc
  · simp [hc]
  · obtain ⟨rfl, hne⟩ := Classical.not_imp.1 hc
    simp [hne]

theorem onElement_waits {f : File} (h : Serves s k j v) (hi : frzIndex f (rdS s b).val.toNat = true)
    (ha : f = .ac → (coreAt s (tileOf j)).holder = some v.uid) (hp : frzPending s j v f (rdS s b).val.toNat = true)
    (q : Nat → Thread → Nat → State) : onElement s k f b q = waitFor s .cond := by
  rw [onElement_serves h, if_neg, if_pos hp]
  rw [hi]
  by_cases hf : f = .ac
  · simp [ha hf]
  · simp [hf]

end

/-- Settles O43: the checks of an element, then the elements file by file; RESUME; KILL. -/
theorem frozenThreads : Obligations.FrozenThreads := by
  refine ⟨fun s th g k d b a x file h hc => ?_, fun s th v g k j d b x h hs => ?_, fun s th v g k j a h hs hh => ?_, fun s th v g k j h hs => ?_⟩
  · refine ⟨?_, ?_, ?_, ?_, ?_, ?_⟩
    · rw [exec_frzinf h, onFrozen_none hc]
    · rw [exec_frzrd h, onElement_none hc]
    · rw [exec_frzwr h, onElement_none hc]
    · rw [exec_resume h, onFrozen_none hc]
    · rw [exec_resumeAtPc h, onFrozen_none hc]
    · rw [exec_kill h, onFrozen_none hc]
  · intro i e
    have word : ∀ {f : File}, f.isVector = false → frzIndex f i = true → frzPending s j v f i = false →
        exec (.frzrd g f x k b) s = .next (putS s x (frzWord s j v.regs f i).val (frzWord s j v.regs f i).poison) ∧
        exec (.frzwr g f k b x) s = .next (setThread s j { v with regs := frzPut v.regs f i e (rdV s (x.setWidth 5)) }) := fun hv hi hp =>
      ⟨frzrd_word h hs hv hi hp x, frzwr_regs h hs (by rintro rfl; cases hv) hi hp x⟩
    refine ⟨fun hi => ?_, fun hi => ?_, fun hi hp => ?_, fun hi hp => ?_, fun hi => ?_, fun hi ha hp => ?_, fun hi hp => ?_, fun hi => ?_,
      fun hi => ?_, ?_, fun f => ?_⟩
    · rw [exec_frzinf h, onFrozen_serves hs, if_neg (by omega), wrS_toNat]
    · rw [exec_frzinf h, onFrozen_serves hs, if_pos hi]
    · exact word (f := .s) rfl (decide_eq_true hi) hp
    · exact ⟨frzrd_vector h hs (f := .v) rfl (decide_eq_true hi) nofun hp x, frzwr_regs h hs (f := .v) nofun (decide_eq_true hi) hp x⟩
    · exact word (f := .p) rfl (decide_eq_true hi) rfl
    · refine ⟨frzrd_vector h hs (f := .ac) rfl (decide_eq_true hi) (fun _ => ha) hp x, ?_⟩
      rw [exec_frzwr h, onElement_acts (f := .ac) hs (decide_eq_true hi) (fun _ => ha) hp, if_pos rfl]
    · obtain ⟨h1, h2⟩ := word (f := .sh) rfl (decide_eq_true hi) hp
      exact ⟨_, _, h1, h2, shapeWord_fields (v.regs.rdSh (BitVec.ofNat 3 (i / 3))) (i % 3) (Nat.mod_lt _ (by decide)) e.val⟩
    · obtain ⟨h1, h2⟩ := word (f := .g) rfl (decide_eq_true hi) rfl
      exact ⟨_, h1.trans (congrArg (fun w => Host.Outcome.next (putS s x w false)) (wordAt_eq ..)), h2,
        fun m hm => geometryWord_fields _ _ (Nat.mod_lt _ (by decide)) _ hm⟩
    · obtain ⟨h1, h2⟩ := word (f := .rq) rfl (decide_eq_true hi) rfl
      exact ⟨_, h1.trans (congrArg (fun w => Host.Outcome.next (putS s x w false)) (wordAt_eq ..)), h2,
        fun m hm => getLsbD_withWord _ _ _ hm⟩
    · have ctl : ∀ {w : Word} {q : Regs}, frzIndex .ctl i = true → csrRead s j v.regs (coreAt s (tileOf j)).cyc i = w ∧ frzCtl v.regs i e.val = q →
          exec (.frzrd g .ctl x k b) s = .next (putS s x w false) ∧ exec (.frzwr g .ctl k b x) s = .next (setThread s j { v with regs := q }) := by
        rintro w q hi ⟨rfl, rfl⟩
        exact word (f := .ctl) rfl hi rfl
      have hi : (1 ≤ i ∧ i ≤ 5) ∨ (0x10 ≤ i ∧ i ≤ 0x14) → frzIndex .ctl i = true := (frzInside (f := .ctl)).2
      obtain ⟨c1, c2, c3, c4, c5, c6, c7, c8, c9, c10⟩ := frzCtl_fields s j v.regs (coreAt s (tileOf j)).cyc i e.val
      intro ctl' r
      exact ⟨fun h => ctl (hi (by omega)) (c1 h), fun h => ctl (hi (by omega)) (c2 h), fun h => ctl (hi (by omega)) (c3 h),
        fun h => ctl (hi (by omega)) (c4 h), fun h => ⟨_, ctl (hi (by omega)) (c5 h), rngWordOf_fields v.regs⟩, fun h => ctl (hi (by omega)) (c6 h),
        fun h => ctl (hi (by omega)) (c7 h), fun h => ctl (hi (by omega)) (c8 h), fun h => ctl (hi (by omega)) (c9 h),
        fun h => ⟨_, ctl (hi (by omega)) (c10 h), prioWord_fields v.regs⟩⟩
    · intro inside holds
      have hin : frzIndex f i = true ↔ inside := frzInside
      refine ⟨fun hc => ?_, fun hi ha hp => ?_⟩
      · have hc' : frzIndex f i = false ∨ ¬holds := hc.imp_left fun hn => by
          rw [← hin] at hn
          simpa using hn
        exact ⟨by rw [exec_frzrd h, onElement_refused hs hc'], by rw [exec_frzwr h, onElement_refused hs hc']⟩
      · exact ⟨by rw [exec_frzrd h, onElement_waits hs (hin.2 hi) ha hp], by rw [exec_frzwr h, onElement_waits hs (hin.2 hi) ha hp]⟩
  · intro ready pc
    rw [exec_resume h, exec_resumeAtPc h, onFrozen_serves hs, onFrozen_serves hs]
    refine ⟨⟨_, rfl, resumeAt_ready hs.2 hh _⟩, fun hp => ?_, fun hp => ⟨_, rfl, ?_⟩⟩
    · rw [if_pos (by simpa using hp)]
    · rw [if_neg (by simpa using hp)]
      exact resumeAt_ready hs.2 hh _
  · rw [exec_kill h, onFrozen_serves hs]
    obtain ⟨h1, h2⟩ := killThread_spec hs.2
    exact ⟨_, rfl, (killThread_memory ..).1, h1, fun h3 h4 h5 h6 => (h2 h3 h4 h5 h6).absent⟩

end Sys2Proof.Machine

namespace Sys2Proof.Machine

/-! TLBINV, the privileges of the syllables, and the privilege check of a bundle (O44). -/

theorem pick_none {α β : Type} {f : α → Option β} {l : List α} (h : ∀ a ∈ l, f a = none) : pick f l = none := by
  induction l with
  | nil => rfl
  | cons a l ih =>
    simp only [pick, h a (by simp)]
    exact ih fun b hb => h b (List.mem_cons_of_mem _ hb)

/-- What `pick` gives is the value at the first element that has one. -/
theorem pick_first {α β : Type} {f : α → Option β} {l : List α} {a : α} {R : α → α → Prop} (hl : l.Pairwise R)
    (ha : a ∈ l) (hf : f a ≠ none) :
    ∃ e ∈ l, pick f l = f e ∧ f e ≠ none ∧ ∀ b ∈ l, f b ≠ none → b = e ∨ R e b := by
  induction l with
  | nil => cases ha
  | cons c l ih =>
    obtain ⟨hc, hl⟩ := List.pairwise_cons.mp hl
    cases h : f c with
    | some b =>
      refine ⟨c, by simp, by simp [pick, h], by simp [h], fun d hd _ => ?_⟩
      rcases List.mem_cons.mp hd with rfl | hd
      · exact .inl rfl
      · exact .inr (hc d hd)
    | none =>
      have ha : a ∈ l := (List.mem_cons.mp ha).resolve_left fun e => hf (e ▸ h)
      obtain ⟨e, he, hp, hn, hall⟩ := ih hl ha
      refine ⟨e, List.mem_cons_of_mem _ he, by simpa [pick, h] using hp, hn, fun d hd hfd => ?_⟩
      exact hall d ((List.mem_cons.mp hd).resolve_left fun e => hfd (e ▸ h)) hfd

/-- The instructions of a bundle stand in the order of their indices. -/
theorem instrsOf_ascending (ws : List Word) : (instrsOf ws).Pairwise (fun a b => a.1 < b.1) := by
  have hi : ∀ i b, (if isX (nth 0 ws i) then none else match decodeAt ws i with
      | .ok j => some (i, j)
      | .error _ => none) = some b → b.1 = i := by
    intro i b h
    split at h
    · cases h
    · split at h
      · cases h; rfl
      · cases h
  refine List.Pairwise.filterMap _ (fun i j hij b hb c hc => ?_) List.pairwise_lt_range
  rw [hi i b hb, hi j c hc]
  exact hij

theorem decodeBundle_permitted {noM : Bool} {priv : Nat} {ws : List Word} (hl : firstIllegal noM ws = none)
    (hp : ∀ e ∈ instrsOf ws, privOf e.2 ≤ priv) : decodeBundle noM priv ws = .ok (instrsOf ws) := by
  have hn : firstPriv priv ws = none := pick_none fun e he => if_neg (by have := hp e he; omega)
  simp only [decodeBundle, hl, hn]

theorem decodeBundle_forbidden {noM : Bool} {priv : Nat} {ws : List Word} (hl : firstIllegal noM ws = none)
    (hp : ∃ e ∈ instrsOf ws, priv < privOf e.2) : ∃ e ∈ instrsOf ws, decodeBundle noM priv ws = .bad .priv e.1 0 ∧
      priv < privOf e.2 ∧ ∀ f ∈ instrsOf ws, priv < privOf f.2 → e.1 ≤ f.1 := by
  obtain ⟨a, ha, hpa⟩ := hp
  obtain ⟨e, he, hpick, hne, hall⟩ := pick_first (f := fun e => if priv < privOf e.2 then some e.1 else none)
    (instrsOf_ascending ws) ha (by simp [hpa])
  have hpe : priv < privOf e.2 := by
    by_contra h
    exact hne (if_neg h)
  rw [if_pos hpe] at hpick
  refine ⟨e, he, ?_, hpe, fun f hf hpf => ?_⟩
  · have hf : firstPriv priv ws = some e.1 := hpick
    simp only [decodeBundle, hl, hf]
  · rcases hall f hf (by simp [hpf]) with rfl | h
    · exact le_rfl
    · exact h.le

/-! Which syllables need a privilege. -/

theorem two_le_privOf (x : Instr) : 2 ≤ privOf x ↔ (∃ g a, x = .tlbinv g a) ∨ (∃ g a, x = .tlbinvAll g a) ∨
    (∃ g d n, x = .csrr g d n ∧ 0x800 ≤ n.toNat) ∨ ∃ g n a, x = .csrw g n a ∧ 0x800 ≤ n.toNat := by
  constructor
  · intro h
    unfold privOf at h
    split at h
    case h_1 => exact .inl ⟨_, _, rfl⟩
    case h_2 => exact .inr (.inl ⟨_, _, rfl⟩)
    case h_3 =>
      split at h
      next hn => exact .inr (.inr (.inl ⟨_, _, _, rfl, hn⟩))
      next => omega
    case h_4 =>
      split at h
      next hn => exact .inr (.inr (.inr ⟨_, _, _, rfl, hn⟩))
      next => omega
    all_goals omega
  · rintro (⟨g, a, rfl⟩ | ⟨g, a, rfl⟩ | ⟨g, d, n, rfl, hn⟩ | ⟨g, n, a, rfl, hn⟩)
    · exact le_rfl
    · exact le_rfl
    · exact (if_pos hn).ge
    · exact (if_pos hn).ge

theorem one_le_privOf (x : Instr) : 1 ≤ privOf x ↔ 2 ≤ privOf x ∨ (∃ g f d k b, x = .frzrd g f d k b) ∨
    (∃ g f k b a, x = .frzwr g f k b a) ∨ (∃ g d k b, x = .frzinf g d k b) ∨ (∃ g k, x = .resume g k) ∨
    (∃ g k a, x = .resumeAtPc g k a) ∨ (∃ g k, x = .kill g k) ∨ (∃ g d a, x = .clsrd g d a) ∨ ∃ g a b, x = .barx g a b := by
  constructor
  · intro h
    by_cases h2 : 2 ≤ privOf x
    · exact .inl h2
    refine .inr ?_
    generalize hn : privOf x = n at h h2
    unfold privOf at hn
    split at hn
    case h_5 => exact .inl ⟨_, _, _, _, _, rfl⟩
    case h_6 => exact .inr (.inl ⟨_, _, _, _, _, rfl⟩)
    case h_7 => exact .inr (.inr (.inl ⟨_, _, _, _, rfl⟩))
    case h_8 => exact .inr (.inr (.inr (.inl ⟨_, _, rfl⟩)))
    case h_9 => exact .inr (.inr (.inr (.inr (.inl ⟨_, _, _, rfl⟩))))
    case h_10 => exact .inr (.inr (.inr (.inr (.inr (.inl ⟨_, _, rfl⟩)))))
    case h_11 => exact .inr (.inr (.inr (.inr (.inr (.inr (.inl ⟨_, _, _, rfl⟩))))))
    case h_12 => exact .inr (.inr (.inr (.inr (.inr (.inr (.inr ⟨_, _, _, rfl⟩))))))
    all_goals (try split at hn) <;> omega
  · rintro (h | ⟨g, f, d, k, b, rfl⟩ | ⟨g, f, k, b, a, rfl⟩ | ⟨g, d, k, b, rfl⟩ | ⟨g, k, rfl⟩ | ⟨g, k, a, rfl⟩ | ⟨g, k, rfl⟩ |
      ⟨g, d, a, rfl⟩ | ⟨g, a, b, rfl⟩)
    · omega
    all_goals exact le_rfl

/-! TLBINV on a tile set without streams and accesses. -/

/-- No command and no generator of any tile. -/
def NoStreams (s : State) : Prop := ∀ c ∈ s.cores, c.2.eng0 = [] ∧ c.2.eng1 = [] ∧ c.2.gens = []

theorem cmdsOf_nil {s : State} (h : NoStreams s) {c : Nat × Core} (hc : c ∈ s.cores) : cmdsOf c.2 = [] := by
  obtain ⟨h0, h1, _⟩ := h c hc
  simp [cmdsOf, h0, h1]

theorem drainPorts_nil {s : State} (h : NoStreams s) (r : Removal) : drainPorts s r = [] := by
  have hc : chunkPorts s r = [] := List.flatMap_eq_nil_iff.mpr fun c hc => by simp [cmdsOf_nil h hc]
  have he : extentPorts s r = [] := List.flatMap_eq_nil_iff.mpr fun c hc => by simp [cmdsOf_nil h hc, (h c hc).2.2]
  simp [drainPorts, hc, he]

theorem repatch_noStreams {s : State} (h : NoStreams s) (r : Removal) : repatch s r = s := by
  unfold repatch
  have hw : ∀ (f : State → Nat × Core → State), (∀ u, ∀ c ∈ s.cores, f u c = u) → s.cores.foldl f s = s := by
    intro f hf
    generalize s.cores = l at hf
    induction l with
    | nil => rfl
    | cons c l ih => rw [List.foldl_cons, hf s c (by simp)]; exact ih fun u d hd => hf u d (List.mem_cons_of_mem _ hd)
  extract_lets cmd gen walked
  have hwalk : walked = s := hw _ fun u c hc => by simp [cmdsOf_nil h hc, (h c hc).2.2]
  rw [hwalk]
  have hc : s.cores.map (fun c => (c.1, { c.2 with
      eng0 := c.2.eng0.map (cmd c.1), eng1 := c.2.eng1.map (cmd c.1), gens := c.2.gens.map (gen c.1) })) = s.cores := by
    refine (List.map_congr_left fun c hc => ?_).trans (List.map_id _)
    obtain ⟨h0, h1, h2⟩ := h c hc
    obtain ⟨t, co⟩ := c
    cases co
    simp_all
  rw [hc]

theorem noStreams_dropTlbs {s : State} (h : NoStreams s) (r : Removal) : NoStreams (dropTlbs s r) := by
  intro c hc
  obtain ⟨d, hd, rfl⟩ := List.mem_map.mp hc
  exact h d hd

theorem drains_same {t : State} (h : t.drains = []) : { t with drains := [] } = t := by
  cases t; cases h; rfl

theorem tlbInvalidate_alone {s : State} (hd : s.drains = []) (hi : s.inflight = []) (hs : NoStreams s) (uid : Nat)
    (r : Removal) : tlbInvalidate s uid r = dropTlbs s r := by
  have hfind : s.drains.find? (fun d => d.uid == uid) = none := by rw [hd]; rfl
  have hclear : accessesClear (dropTlbs s r) s.issue.acc0 r = true := by
    show (s.inflight.all _) = true
    rw [hi]; rfl
  have hstart : tlbInvalidate.invStart s uid r = { dropTlbs s r with drains := [] } := by
    unfold tlbInvalidate.invStart
    have hiss : (dropTlbs s r).issue = s.issue := rfl
    have hdr : (dropTlbs s r).drains = [] := hd
    simp [hd, drainPorts_nil hs, repatch_noStreams (noStreams_dropTlbs hs r), hiss, hclear, hdr]
  unfold tlbInvalidate
  simp only [hfind]
  exact hstart.trans (drains_same hd)

theorem takes_of_page {r : Nat} {va : Nat} {e : TlbE} (h : e.vpage = va / 2 ^ (13 + 10 * e.lvl)) :
    (⟨some [r], some va⟩ : Removal).takes r e = true := by
  have hp : 0 < 2 ^ (13 + 10 * e.lvl) := Nat.two_pow_pos _
  have hm := Nat.div_add_mod va (2 ^ (13 + 10 * e.lvl))
  have hl := Nat.mod_lt va hp
  simp only [Removal.takes, Removal.ofRoot, Removal.ofLeaf, within, TlbE.range, h, Bool.and_eq_true, decide_eq_true_eq]
  rw [Nat.mul_comm] at hm
  refine ⟨by simp, by omega, by omega⟩

theorem page_of_dropTlbs {s : State} {r va t : Nat} {e : TlbE}
    (h : ⟨t, e⟩ ∈ (dropTlbs s ⟨some [r], some va⟩).cores.flatMap (fun c => c.2.tlb.map (fun e => (c.1, e))))
    (hr : entryRoot t e = r) : e.vpage ≠ va / 2 ^ (13 + 10 * e.lvl) := by
  intro hv
  obtain ⟨c, hc, hm⟩ := List.mem_flatMap.mp h
  obtain ⟨d, hd, rfl⟩ := List.mem_map.mp hc
  obtain ⟨e', he, heq⟩ := List.mem_map.mp hm
  simp only [Prod.mk.injEq] at heq
  obtain ⟨rfl, rfl⟩ := heq
  have := (List.mem_filter.mp he).2
  rw [hr, takes_of_page hv] at this
  cases this

theorem exec_tlbinv {s : State} {th : Thread} {g : PReg} (h : Runs s th g) (a : SReg) :
    exec (.tlbinv g a) s = .next (tlbInvalidate s th.uid ⟨some [invRoot (rdS s a).val],
      some ((rdS s a).val.toNat / 2 ^ 13 % 2 ^ 40 * 2 ^ 13)⟩) := syllable_runs h _

theorem exec_tlbinvAll {s : State} {th : Thread} {g : PReg} (h : Runs s th g) (a : SReg) :
    exec (.tlbinvAll g a) s = .next (tlbInvalidate s th.uid
      ⟨if (rdS s a).val.getLsbD 12 then none else some [invRoot (rdS s a).val], none⟩) := syllable_runs h _

/-- Settles O44: with no stream and no access left an invalidation drops the translations at once; the privileges are those of
`privOf`, and a bundle without a decode rule broken raises PRIV at the first syllable above its thread's. -/
theorem translationsInvalidated : Obligations.TranslationsInvalidated := by
  unfold Obligations.TranslationsInvalidated
  refine ⟨fun s th g a h hd hi hs => ⟨?_, ?_, fun t e he hr => page_of_dropTlbs he hr⟩,
    fun x => ⟨two_le_privOf x, one_le_privOf x⟩, fun noM priv ws hl => ⟨decodeBundle_permitted hl, decodeBundle_forbidden hl⟩⟩
  · rw [exec_tlbinv h, tlbInvalidate_alone hd hi hs]
  · rw [exec_tlbinvAll h, tlbInvalidate_alone hd hi hs]

end Sys2Proof.Machine

namespace Sys2Proof.Machine

/-! Loads and stores at their owning point: the laws of an element that takes effect. -/

theorem nth_eq_getD {α : Type} (d : α) (l : List α) (i : Nat) : nth d l i = l.getD i d := by
  induction l generalizing i with
  | nil => rfl
  | cons x l ih =>
    cases i with
    | zero => rfl
    | succ i => exact (ih i).trans (by simp)

theorem modNth_eq_setNth {α : Type} (f : α → α) {l : List α} {i : Nat} {x : α} (h : l[i]? = some x) :
    modNth f l i = setNth (f x) l i := by
  induction l generalizing i with
  | nil => rfl
  | cons y l ih =>
    cases i with
    | zero => cases h; rfl
    | succ i => exact congrArg (y :: ·) (ih h)

/-- What holds of some element, and is not changed in the one that is replaced, holds of some element still. -/
theorem any_setNth {α : Type} (p : α → Bool) {l : List α} {i : Nat} {x y : α} (h : l[i]? = some x) (hp : p y = p x) :
    (setNth y l i).any p = l.any p := by
  induction l generalizing i with
  | nil => rfl
  | cons z l ih =>
    cases i with
    | zero => cases h; simp [setNth, hp]
    | succ i => simp [setNth, ih h]

theorem accAt_id {s : State} {id : Nat} {a : Access} (h : accAt s id = some a) : a.id = id := by
  simpa using List.find?_some h

theorem accAt_updAcc {s : State} {id : Nat} {a : Access} {f : Access → Access} (hf : ∀ b, (f b).id = b.id)
    (h : accAt s id = some a) : accAt (updAcc s id f) id = some (f a) := by
  unfold accAt at h ⊢
  show (s.inflight.map _).find? _ = _
  rw [List.find?_map]
  have hp : ((fun b => b.id == id) ∘ fun b => if b.id = id then f b else b) = fun b => b.id == id := by
    funext b
    by_cases hb : b.id = id <;> simp [hb, hf]
  rw [hp, h]
  simp [accAt_id h]

/-- An access with an element that has had its instant. -/
def withDone (a : Access) (i : Nat) (e : Elem) (got : Word) (bad : Bool) : Access :=
  { a with elems := setNth { e with done := true, got := got, gotP := bad } a.elems i }

theorem accAt_elemDone {s : State} {id i : Nat} {a : Access} {e : Elem} (h : accAt s id = some a) (he : a.elems[i]? = some e)
    (got : Word) (bad : Bool) : accAt (elemDone s id i got bad) id = some (withDone a i e got bad) := by
  have hx := accAt_updAcc (f := fun b => { b with elems := modNth (fun e => { e with done := true, got := got, gotP := bad }) b.elems i })
    (fun _ => rfl) h
  refine hx.trans ?_
  rw [modNth_eq_setNth _ he]
  rfl

theorem longAccess_withDone {a : Access} {i : Nat} {e : Elem} (he : a.elems[i]? = some e) (got : Word) (bad : Bool) :
    longAccess (withDone a i e got bad) = longAccess a :=
  congrArg (a.miss || ·) (any_setNth _ he rfl)

theorem accAt_retire_ne {s : State} {id j : Nat} (h : j ≠ id) : accAt (retire s j) id = accAt s id := by
  cases hj : accAt s j with
  | none => rw [retire, hj]
  | some b =>
    unfold accAt
    rw [retire_inflight hj, List.find?_filter]
    refine congrArg (fun p => List.find? p s.inflight) (funext fun c => ?_)
    by_cases hc : c.id = id
    · simp [hc, Ne.symm h]
    · simp [hc]

/-- An access to a distant place waits for its response; it is in flight until then. -/
theorem accAt_drainAll {a : Access} {id : Nat} (hl : longAccess a = true) (n : Nat) {s : State} (h : accAt s id = some a) :
    accAt (drainAll n s) id = some a := by
  induction n generalizing s with
  | zero => exact h
  | succ n ih =>
    rw [drainAll]
    split
    · exact h
    · next j hj =>
      have hne : j ≠ id := by
        rintro rfl
        have := List.find?_some hj
        simp [h, drained, hl] at this
      exact ih ((accAt_retire_ne hne).trans h)

theorem accAt_settle {s : State} {a : Access} {id : Nat} (hl : longAccess a = true) (h : accAt s id = some a) :
    accAt (settle s id) id = some a := by
  rw [settle, h]
  dsimp only
  split
  · exact accAt_drainAll hl _ h
  · exact h

theorem linePoison_of_poison {s t : State} (h : t.poison = s.poison) (pa : Nat) : linePoison t pa = linePoison s pa := by
  rw [linePoison, linePoison, h]

theorem linePoison_settle (s : State) (id pa : Nat) : linePoison (settle s id) pa = linePoison s pa :=
  linePoison_of_poison (settle_memory s id).2 pa

theorem readByte_settle (s : State) (id pa : Nat) : readByte (settle s id) pa = readByte s pa :=
  readByte_of_mem_eq (settle_mem s id) pa

/-! The bytes of a store. -/

theorem getElem_leBytes (n v o : Nat) (h : o < (leBytes n v).length) : (leBytes n v)[o] = BitVec.ofNat 8 (v / 256 ^ o) := by
  induction n generalizing v o with
  | zero => simp at h
  | succ n ih =>
    cases o with
    | zero => simp [leBytes]
    | succ o =>
      have h' : o < (leBytes n (v / 256)).length := by simpa using h
      simp [leBytes, ih (v / 256) o h', Nat.div_div_eq_div_mul, pow_succ']

/-- One byte of a store: it is written, or poisons its line. -/
def storeByte (e : Elem) (s : State) (p : Nat × Byte) : State :=
  if nth false e.mask p.1 then writeByte s (e.pa + p.1) p.2 else setLinePoison s (e.pa + p.1) true

/-- The bytes of a store, each with its place. -/
def placedBytes (e : Elem) : List (Nat × Byte) := (upTo e.w).zip (leBytes e.w e.data.toNat)

/-- Whether the stores of an access to the line of an element write the line in full. -/
def fillsLine (a : Access) (e : Elem) : Bool :=
  let line := e.pa / 64
  let mine := a.elems.filter (fun f => f.pa / 64 == line)
  (upTo 64).all (fun o => mine.any (fun f =>
    f.pa ≤ 64 * line + o && 64 * line + o < f.pa + f.w && nth false f.mask (64 * line + o - f.pa))) &&
  mine.all (fun f => f.done || f.pa == e.pa)

theorem storeElem_eq (s : State) (a : Access) (e : Elem) : storeElem s a e =
    if fillsLine a e then setLinePoison ((placedBytes e).foldl (storeByte e) s) e.pa false
    else (placedBytes e).foldl (storeByte e) s := rfl

theorem mem_placedBytes {e : Elem} {p : Nat × Byte} : p ∈ placedBytes e ↔
    p.1 < e.w ∧ p.2 = BitVec.ofNat 8 (e.data.toNat / 256 ^ p.1) := by
  obtain ⟨o, b⟩ := p
  rw [placedBytes, List.mem_iff_getElem]
  constructor
  · rintro ⟨i, hi, h⟩
    simp only [List.getElem_zip, getElem_leBytes, Prod.mk.injEq, upTo, List.getElem_range] at h
    obtain ⟨rfl, rfl⟩ := h
    simp at hi
    exact ⟨hi, rfl⟩
  · rintro ⟨h, hb⟩
    refine ⟨o, by simp; exact h, ?_⟩
    simpa [getElem_leBytes, upTo] using hb.symm

theorem placedBytes_nodup (e : Elem) : ((placedBytes e).map (fun p => p.1)).Nodup := by
  rw [placedBytes, ← List.unzip_fst, List.unzip_zip_left (by simp)]
  exact List.nodup_range

theorem readByte_storeByte_outside {e : Elem} {s : State} {p : Nat × Byte} {pa : Nat} (h : pa ≠ e.pa + p.1) :
    readByte (storeByte e s p) pa = readByte s pa := by
  unfold storeByte
  split
  · rw [readByte_writeByte, if_neg h]
  · exact readByte_of_mem_eq (setLinePoison_mem ..) pa

theorem readByte_storeBytes_outside {e : Elem} {pa : Nat} (l : List (Nat × Byte)) (s : State)
    (h : ∀ p ∈ l, pa ≠ e.pa + p.1) : readByte (l.foldl (storeByte e) s) pa = readByte s pa := by
  induction l generalizing s with
  | nil => rfl
  | cons p l ih =>
    rw [List.foldl_cons, ih _ fun q hq => h q (List.mem_cons_of_mem _ hq), readByte_storeByte_outside (h p (by simp))]

theorem readByte_storeBytes_inside {e : Elem} {l : List (Nat × Byte)} {p : Nat × Byte} (hn : (l.map (fun p => p.1)).Nodup)
    (hp : p ∈ l) (hm : nth false e.mask p.1 = true) (s : State) :
    readByte (l.foldl (storeByte e) s) (e.pa + p.1) = p.2 := by
  induction l generalizing s with
  | nil => cases hp
  | cons q l ih =>
    rw [List.map_cons, List.nodup_cons] at hn
    obtain ⟨hq, hn⟩ := hn
    rcases List.mem_cons.mp hp with rfl | hp
    · have hother : ∀ r ∈ l, e.pa + p.1 ≠ e.pa + r.1 := fun r hr he => hq (List.mem_map.mpr ⟨r, hr, by omega⟩)
      rw [List.foldl_cons, readByte_storeBytes_outside _ _ hother, storeByte, if_pos hm, readByte_writeByte, if_pos rfl]
    · exact ih hn hp _

theorem readByte_storeElem_outside (s : State) (a : Access) (e : Elem) {pa : Nat} (h : pa < e.pa ∨ e.pa + e.w ≤ pa) :
    readByte (storeElem s a e) pa = readByte s pa := by
  have hb := readByte_storeBytes_outside (pa := pa) (placedBytes e) s fun p hp => by
    have := (mem_placedBytes.mp hp).1
    exact show pa ≠ e.pa + p.1 by omega
  rw [storeElem_eq]
  split
  · rw [readByte_of_mem_eq (setLinePoison_mem ..), hb]
  · exact hb

theorem nth_replicate {α : Type} {d x : α} {n i : Nat} (h : i < n) : nth d (List.replicate n x) i = x := by
  rw [nth_eq_getD, List.getD_eq_getElem _ _ (by simpa using h), List.getElem_replicate]

theorem readByte_storeElem_inside (s : State) (a : Access) {e : Elem} (hm : e.mask = List.replicate e.w true) {o : Nat} (h : o < e.w) :
    readByte (storeElem s a e) (e.pa + o) = BitVec.ofNat 8 (e.data.toNat / 256 ^ o) := by
  have hb := readByte_storeBytes_inside (e := e) (p := (o, BitVec.ofNat 8 (e.data.toNat / 256 ^ o))) (placedBytes_nodup e)
    (mem_placedBytes.mpr ⟨h, rfl⟩) (by rw [hm]; exact nth_replicate h) s
  rw [storeElem_eq]
  split
  · rw [readByte_of_mem_eq (setLinePoison_mem ..), hb]
  · exact hb

theorem storeBytes_clean {e : Elem} (l : List (Nat × Byte)) (s : State) (h : ∀ p ∈ l, nth false e.mask p.1 = true) (pa : Nat) :
    linePoison (l.foldl (storeByte e) s) pa = linePoison s pa := by
  induction l generalizing s with
  | nil => rfl
  | cons p l ih =>
    rw [List.foldl_cons, ih _ fun q hq => h q (List.mem_cons_of_mem _ hq), storeByte, if_pos (h p (by simp))]
    rfl

/-- A clean store poisons no line. -/
theorem linePoison_storeElem_clean (s : State) (a : Access) {e : Elem} (hm : e.mask = List.replicate e.w true) {pa : Nat}
    (h : linePoison s pa = false) : linePoison (storeElem s a e) pa = false := by
  have hb := storeBytes_clean (placedBytes e) s (fun p hp => by rw [hm]; exact nth_replicate (mem_placedBytes.mp hp).1) pa
  rw [storeElem_eq]
  split
  · rw [linePoison_setLinePoison, hb, h]
    split <;> rfl
  · rw [hb, h]

theorem storeBytes_sinks {e : Elem} (l : List (Nat × Byte)) (s : State) (h : ∀ p ∈ l, nth false e.mask p.1 = false) :
    (l.foldl (storeByte e) s).mem = s.mem ∧
    ∀ pa, linePoison (l.foldl (storeByte e) s) pa = (linePoison s pa || l.any (fun p => pa / 64 == (e.pa + p.1) / 64)) := by
  induction l generalizing s with
  | nil => exact ⟨rfl, fun pa => (Bool.or_false _).symm⟩
  | cons p l ih =>
    have hb : storeByte e s p = setLinePoison s (e.pa + p.1) true := if_neg (by rw [h p (by simp)]; exact Bool.false_ne_true)
    obtain ⟨hm, hp⟩ := ih (storeByte e s p) fun q hq => h q (List.mem_cons_of_mem _ hq)
    rw [List.foldl_cons]
    refine ⟨by rw [hm, hb, setLinePoison_mem], fun pa => ?_⟩
    rw [hp, hb, linePoison_setLinePoison, List.any_cons]
    by_cases he : pa / 64 = (e.pa + p.1) / 64
    · simp [he]
    · rw [if_neg he, beq_false_of_ne he, Bool.false_or]

theorem fillsLine_sink {a : Access} {e : Elem} (ha : a.elems = [e]) (hm : e.mask = List.replicate e.w false) :
    fillsLine a e = false := by
  have hz : ∀ o, nth false e.mask o = false := fun o => by
    rw [hm, nth_eq_getD]
    by_cases h : o < e.w <;> simp [h]
  simp [fillsLine, ha, upTo]
  exact ⟨0, by omega, fun _ _ => hz _⟩

/-- A store whose every byte is a sink's poisons its lines and writes nothing. -/
theorem storeElem_sinks (s : State) {a : Access} {e : Elem} (ha : a.elems = [e]) (hm : e.mask = List.replicate e.w false) :
    (storeElem s a e).mem = s.mem ∧ ∀ o, o < e.w → linePoison (storeElem s a e) (e.pa + o) = true := by
  obtain ⟨hmem, hp⟩ := storeBytes_sinks (placedBytes e) s fun p hp => by rw [hm]; exact nth_replicate (mem_placedBytes.mp hp).1
  rw [storeElem_eq, if_neg (by rw [fillsLine_sink ha hm]; exact Bool.false_ne_true)]
  refine ⟨hmem, fun o ho => ?_⟩
  rw [hp, Bool.or_eq_true, List.any_eq_true]
  exact .inr ⟨(o, BitVec.ofNat 8 (e.data.toNat / 256 ^ o)), mem_placedBytes.mpr ⟨ho, rfl⟩, by simp⟩

/-! An element that takes effect. -/

theorem performElem_load {s : State} {a : Access} {i : Nat} {e : Elem} (he : a.elems[i]? = some e) (hf : stackFailed s e.pa = false)
    (hk : a.kind = .load) : performElem s a i =
      elemDone (discover s e.pa e.w) a.id i (BitVec.ofNat 64 (readLe s e.pa e.w)) (rangeBad s e.pa e.w) := by
  have hr : readLe (discover s e.pa e.w) e.pa e.w = readLe s e.pa e.w := readLe_of_mem (discover_mem ..) _ _
  simp only [performElem, he, hf, hk, Bool.false_eq_true, if_false, if_true, hr, rangePoison_discover]

theorem performElem_store {s : State} {a : Access} {i : Nat} {e : Elem} (he : a.elems[i]? = some e) (hf : stackFailed s e.pa = false)
    (hk : a.kind = .store) : performElem s a i = elemDone (storeElem s a e) a.id i 0 false := by
  simp only [performElem, he, hf, hk, Bool.false_eq_true, if_false, reduceCtorEq]

theorem exec_access_deck {s : State} {id i : Nat} {a : Access} {e : Elem} (ha : accAt s id = some a) (he : a.elems[i]? = some e)
    (hr : elemReady s a e = true) (hp : plain a = true) (hd : e.path = .bonded ∨ e.path = .hbm) (hroute : Reaches s a.tile e.path e.pa) :
    exec (.accessAtOwningPoint id i false) s = .next (settle (performElem s a i) id) := by
  have hx : exec (.accessAtOwningPoint id i false) s = execAccessAtOwningPoint id i false s := rfl
  have hq : requester a e.path = none := by rcases hd with h | h <;> rw [h] <;> rfl
  have hl : e.path.remote = false := by rcases hd with h | h <;> rw [h] <;> rfl
  rw [hx, execAccessAtOwningPoint]
  simp [ha, he, hr, hp, hl, hq, onRoute_of_reaches hroute, foundBad]

theorem accAt_discover (s : State) (pa n id : Nat) : accAt (discover s pa n) id = accAt s id := by
  rw [discover_eq]
  obtain ⟨p, k, e, l, h⟩ : ∃ p k e l, discover s pa n = { s with poison := p, struck := k, errs := e, lowerQ := l } :=
    ⟨_, _, _, _, discover_sameButErrors s pa n⟩
  rw [← discover_eq, h]
  rfl

end Sys2Proof.Machine

namespace Sys2Proof.Machine

/-! O33: accesses at a slice controller or a pier, and at a bank of a scratchpad. -/

/-- A state in which elements of accesses have taken effect, and nothing else has happened. -/
def SameButAccess (s t : State) : Prop := t =
  { s with mem := t.mem, poison := t.poison, struck := t.struck, errs := t.errs, lowerQ := t.lowerQ, inflight := t.inflight }

theorem SameButAccess.refl (s : State) : SameButAccess s s := rfl

theorem SameButAccess.trans {s t u : State} (h : SameButAccess s t) (h' : SameButAccess t u) : SameButAccess s u := by
  unfold SameButAccess at h h' ⊢
  rw [h] at h'
  exact h'

theorem SameButErrors.sameButAccess {s t : State} (h : SameButErrors s t) : SameButAccess s t := by
  unfold SameButErrors at h
  rw [h]
  rfl

theorem SameButAccess.foldl {α : Type} {f : State → α → State} (hf : ∀ s a, SameButAccess s (f s a)) (l : List α) (s : State) :
    SameButAccess s (l.foldl f s) := by
  induction l generalizing s with
  | nil => exact .refl s
  | cons a l ih => exact (hf s a).trans (ih _)

theorem SameButAccess.sameDeck {s t : State} (h : SameButAccess s t) : SameDeck t s := by
  unfold SameButAccess at h
  rw [h]
  exact ⟨rfl, rfl, rfl, rfl⟩

theorem SameButAccess.coreAt {s t : State} (h : SameButAccess s t) (k : Nat) : coreAt t k = coreAt s k := by
  unfold SameButAccess at h
  rw [h]
  rfl

theorem setLinePoison_sameButAccess (s : State) (pa : Nat) (b : Bool) : SameButAccess s (setLinePoison s pa b) := rfl

theorem storeElem_sameButAccess (s : State) (a : Access) (e : Elem) : SameButAccess s (storeElem s a e) := by
  have hb : SameButAccess s ((placedBytes e).foldl (storeByte e) s) := .foldl (fun s p => by
    unfold storeByte
    split
    · exact rfl
    · exact rfl) _ s
  rw [storeElem_eq]
  split
  · exact hb.trans (setLinePoison_sameButAccess _ _ _)
  · exact hb

theorem storeElem_inflight (s : State) (a : Access) (e : Elem) : (storeElem s a e).inflight = s.inflight := by
  have hb : ((placedBytes e).foldl (storeByte e) s).inflight = s.inflight := foldl_keeps State.inflight _ (fun s p => by
    unfold storeByte
    split <;> rfl) _ s
  rw [storeElem_eq]
  split
  · exact hb
  · exact hb

theorem performElem_sameButAccess {s : State} {a : Access} {i : Nat} {e : Elem} (he : a.elems[i]? = some e)
    (hf : stackFailed s e.pa = false) (hp : plain a = true) : SameButAccess s (performElem s a i) := by
  by_cases hk : a.kind = .load
  · rw [performElem_load he hf hk]
    exact (discover_sameButErrors s e.pa e.w).sameButAccess.trans rfl
  · have hk : a.kind = .store := by simpa [plain, hk] using hp
    rw [performElem_store he hf hk]
    exact (storeElem_sameButAccess s a e).trans rfl

/-! Which request a bank serves. -/

theorem mem_insertReq {α : Type} {key : α → Nat × Nat} {x y : α} {l : List α} : y ∈ insertReq key x l ↔ y = x ∨ y ∈ l := by
  induction l with
  | nil => simp [insertReq]
  | cons z l ih =>
    unfold insertReq
    split
    · simp
    · simp only [List.mem_cons, ih]
      tauto

theorem mem_foldl_insertReq {α : Type} {key : α → Nat × Nat} {y : α} (l m : List α) :
    y ∈ l.foldl (fun m x => insertReq key x m) m ↔ y ∈ l ∨ y ∈ m := by
  induction l generalizing m with
  | nil => simp
  | cons x l ih =>
    rw [List.foldl_cons, ih, mem_insertReq, List.mem_cons]
    tauto

theorem pick_some {α β : Type} {f : α → Option β} {l : List α} {b : β} (h : pick f l = some b) : ∃ a ∈ l, f a = some b := by
  induction l with
  | nil => cases h
  | cons a l ih =>
    unfold pick at h
    split at h
    · next c hc =>
      cases h
      exact ⟨a, by simp, hc⟩
    · obtain ⟨x, hx, hfx⟩ := ih h
      exact ⟨x, List.mem_cons_of_mem _ hx, hfx⟩

/-- A bank serves a request that waits at it. -/
theorem nextRequest_waits {s : State} {t b q : Nat} {x : BankReq} (h : nextRequest s t b = some (q, x)) :
    ∃ r ∈ requestsOf s t q, r.served = false ∧ r.req = x := by
  obtain ⟨i, -, hi⟩ := pick_some h
  obtain ⟨⟨q', r⟩, hr, heq⟩ := Option.map_eq_some_iff.mp hi
  have hmem := List.mem_of_find?_eq_some hr
  have hq := List.find?_some hr
  simp only [beq_iff_eq] at hq
  simp only [Prod.mk.injEq] at heq
  obtain ⟨hq2, hreq⟩ := heq
  have hw : (q', r) ∈ waitingAt s t b := by
    have := List.mem_of_mem_take hmem
    split at this
    · exact this
    · exact List.mem_of_mem_filter this
  rw [waitingAt, mem_foldl_insertReq] at hw
  obtain ⟨q2, -, hm⟩ := List.mem_flatMap.mp (hw.resolve_right List.not_mem_nil)
  obtain ⟨r2, hr2, heq2⟩ := List.mem_map.mp hm
  cases heq2
  obtain ⟨hre, hserved⟩ := List.mem_filter.mp hr2
  rw [← hq2, ← hq]
  refine ⟨r, (List.dropWhile_sublist _).mem (List.mem_of_mem_take hre), ?_, hreq⟩
  simp only [Bool.and_eq_true, Bool.not_eq_true'] at hserved
  exact hserved.1

theorem mem_wordsAt {t q : Nat} {a : Access} {x : Nat × Nat} (h : x ∈ wordsAt t q a) :
    ∃ e ∈ a.elems, requester a e.path = some q ∧ inCore t e.pa = true ∧ x.1 = unitOf a e.pa := by
  have hfold : ∀ (l : List Elem) (m : List (Nat × Nat)), x ∈ l.foldl (fun (l : List (Nat × Nat)) e =>
      if requester a e.path == some q && inCore t e.pa && !l.any (fun x => x.1 == unitOf a e.pa) then l ++ [(unitOf a e.pa, e.pa)]
      else l) m → x ∈ m ∨ ∃ e ∈ l, requester a e.path = some q ∧ inCore t e.pa = true ∧ x.1 = unitOf a e.pa := by
    intro l
    induction l with
    | nil => exact fun m h => .inl h
    | cons e l ih =>
      intro m h
      rcases ih _ h with h | ⟨f, hf, h⟩
      · dsimp only at h
        split at h
        next hc =>
          simp only [Bool.and_eq_true, beq_iff_eq] at hc
          obtain ⟨⟨hq, hin⟩, -⟩ := hc
          rcases List.mem_append.mp h with h | h
          · exact .inl h
          · exact .inr ⟨e, by simp, hq, hin, by rw [List.mem_singleton.mp h]⟩
        next => exact .inl h
      · exact .inr ⟨f, List.mem_cons_of_mem _ hf, h⟩
  exact (hfold a.elems [] h).resolve_left List.not_mem_nil

/-- No request of a stream is one of an access. -/
theorem streamRequests_part {s : State} {t q : Nat} {r : Request} (h : r ∈ streamRequests s t q) :
    ∃ u c k j, r.req = .part u c k j := by
  have hchunk : ∀ u c pad k, r ∈ chunkRequestsAt s q u c pad k → ∃ u c k j, r.req = .part u c k j := by
    intro u c pad k h
    unfold chunkRequestsAt at h
    dsimp only at h
    split at h <;>
    · obtain ⟨j, -, hj⟩ := List.mem_filterMap.mp h
      split at hj
      · cases hj; exact ⟨_, _, _, _, rfl⟩
      · split at hj
        · cases hj; exact ⟨_, _, _, _, rfl⟩
        · cases hj
  unfold streamRequests at h
  split at h
  · obtain ⟨c, -, hc⟩ := List.mem_flatMap.mp h
    obtain ⟨k, -, hk⟩ := List.mem_flatMap.mp hc
    exact hchunk _ _ _ _ hk
  · split at h
    · obtain ⟨x, -, hx⟩ := List.mem_flatMap.mp h
      obtain ⟨c, -, hc⟩ := List.mem_flatMap.mp hx
      split at hc
      · cases hc
      · obtain ⟨k, -, hk⟩ := List.mem_flatMap.mp hc
        split at hk
        · exact hchunk _ _ _ _ hk
        · cases hk
    · cases h

/-- A word of an access that a bank serves has an element in the scratchpad, and one that is ready. -/
theorem nextRequest_word {s : State} {t b q w : Nat} {a : Access} (h : nextRequest s t b = some (q, .word a w)) :
    (∃ e ∈ a.elems, inCore t e.pa = true ∧ unitOf a e.pa = w) ∧
    ∃ e ∈ a.elems, requester a e.path = some q ∧ unitOf a e.pa = w ∧ elemReady s a e = true := by
  obtain ⟨r, hr, hs, hreq⟩ := nextRequest_waits h
  have hacc : ∃ b, r ∈ accessRequests s t q b := by
    rw [requestsOf, mem_foldl_insertReq, List.mem_append] at hr
    rcases hr.resolve_right List.not_mem_nil with hr | hr
    · obtain ⟨b, -, hb⟩ := List.mem_flatMap.mp hr
      exact ⟨b, hb⟩
    · obtain ⟨u, c, k, j, hp⟩ := streamRequests_part hr
      rw [hp] at hreq
      cases hreq
  obtain ⟨b, hb⟩ := hacc
  obtain ⟨x, hx, hxr⟩ := List.mem_filterMap.mp hb
  obtain ⟨e, he, hq, hin, hu⟩ := mem_wordsAt hx
  dsimp only at hxr
  split at hxr
  · cases hxr; cases hs
  · split at hxr
    next hany =>
      cases hxr
      cases hreq
      obtain ⟨f, hf, hready⟩ := List.any_eq_true.mp hany
      obtain ⟨hfm, hfc⟩ := List.mem_filter.mp hf
      simp only [Bool.and_eq_true, beq_iff_eq] at hfc
      exact ⟨⟨e, he, hin, hu.symm⟩, f, hfm, hfc.1, hfc.2, hready⟩
    next => cases hxr

/-- The addresses of a word that a bank serves are in no stack. -/
theorem stackFailed_unit {s : State} {t : Nat} {a : Access} {e f : Elem} (hin : inCore t e.pa = true)
    (hu : unitOf a f.pa = unitOf a e.pa) : stackFailed s f.pa = false := by
  have hb : 0x03A000000000 ≤ e.pa := by
    have h : padBase t ≤ e.pa := of_decide_eq_true (Bool.and_eq_true_iff.mp hin).1
    unfold padBase at h
    split at h <;> omega
  have hf : 0x020000000000 ≤ f.pa := by
    unfold unitOf at hu
    split at hu <;> omega
  simp [stackFailed, Nat.not_lt.mpr hf]

/-! A word of a scratchpad. -/

/-- What of an element says where and what it writes. -/
def place (e : Elem) : Nat × Nat × List Bool × Word := (e.pa, e.w, e.mask, e.data)

/-- An access some of whose elements have had their instants since. -/
def Served (a b : Access) : Prop := b.kind = a.kind ∧ b.tile = a.tile ∧ b.id = a.id ∧ b.elems.map place = a.elems.map place

theorem map_setNth {α β : Type} (f : α → β) {l : List α} {i : Nat} {x y : α} (h : l[i]? = some x) (hf : f y = f x) :
    (setNth y l i).map f = l.map f := by
  induction l generalizing i with
  | nil => rfl
  | cons z l ih =>
    cases i with
    | zero => cases h; simp [setNth, hf]
    | succ i => simp [setNth, ih h]

theorem Served.withDone {a b : Access} (h : Served a b) {i : Nat} {e : Elem} (he : b.elems[i]? = some e) (got : Word) (bad : Bool) :
    Served a (withDone b i e got bad) :=
  ⟨h.1, h.2.1, h.2.2.1, (map_setNth place (y := { e with done := true, got := got, gotP := bad }) he rfl).trans h.2.2.2⟩

/-- The element of an access that has been served in part. -/
theorem Served.elem {a b : Access} (h : Served a b) {i : Nat} {e : Elem} (he : a.elems[i]? = some e) :
    ∃ f, b.elems[i]? = some f ∧ f.pa = e.pa ∧ f.w = e.w ∧ f.mask = e.mask ∧ f.data = e.data := by
  have hi : (b.elems.map place)[i]? = some (place e) := by rw [h.2.2.2, List.getElem?_map, he]; rfl
  rw [List.getElem?_map] at hi
  obtain ⟨f, hf, hp⟩ := Option.map_eq_some_iff.mp hi
  simp only [place, Prod.mk.injEq] at hp
  exact ⟨f, hf, hp⟩

theorem plain_of_kind {a b : Access} (h : b.kind = a.kind) : plain b = plain a := by
  rw [plain, plain, h]

/-- What holds while a bank serves a word of an access: the access is in flight, and of the rest elements alone have taken effect. -/
def Serving (s : State) (a : Access) (t : State) : Prop := SameButAccess s t ∧ ∃ b, accAt t a.id = some b ∧ Served a b

theorem accAt_of_inflight {s t : State} (h : t.inflight = s.inflight) (id : Nat) : accAt t id = accAt s id := by
  rw [accAt, accAt, h]

theorem discover_inflight (s : State) (pa n : Nat) : (discover s pa n).inflight = s.inflight := by
  rw [discover_sameButErrors s pa n]

theorem serving_perform {s t : State} {a b : Access} {i : Nat} {e : Elem} (hs : SameButAccess s t) (hb : accAt t a.id = some b)
    (hab : Served a b) (he : a.elems[i]? = some e) (hf : stackFailed s e.pa = false) (hp : plain a = true) :
    Serving s a (performElem t b i) := by
  obtain ⟨f, hfe, hpa, -⟩ := hab.elem he
  have hft : stackFailed t f.pa = false := by rw [hs.sameDeck.stackFailed_eq, hpa, hf]
  have hpb : plain b = true := by rw [plain_of_kind hab.1, hp]
  refine ⟨hs.trans (performElem_sameButAccess hfe hft hpb), ?_⟩
  by_cases hk : b.kind = .load
  · rw [performElem_load hfe hft hk, hab.2.2.1]
    exact ⟨_, accAt_elemDone ((accAt_of_inflight (discover_inflight ..) _).trans hb) hfe _ _, hab.withDone hfe _ _⟩
  · have hk : b.kind = .store := by simpa [plain, hk] using hpb
    rw [performElem_store hfe hft hk, hab.2.2.1]
    exact ⟨_, accAt_elemDone ((accAt_of_inflight (storeElem_inflight ..) _).trans hb) hfe _ _, hab.withDone hfe _ _⟩

/-- One element of a word that a bank serves. -/
def serveElem (q w : Nat) (a : Access) (s : State) (e : Nat × Elem) : State :=
  if unitOf a e.2.pa == w && requester a e.2.path == some q && elemReady s a e.2 then
    (match accAt s a.id with
    | none => s
    | some b => onRoute s b e.1 e.2 (fun s => servedBy s b e.1))
  else s

theorem serveWord_eq (s : State) (q w : Nat) (a : Access) :
    serveWord s q w a = ((upTo a.elems.length).zip a.elems).foldl (serveElem q w a) s := rfl

/-- An element of the word either stays as it is or takes effect. -/
theorem serveElem_cases {s t : State} {a : Access} {q w : Nat} {e : Nat × Elem} (h : Serving s a t) (hp : plain a = true)
    (hroute : Reaches s a.tile e.2.path e.2.pa) : serveElem q w a t e = t ∨
      unitOf a e.2.pa = w ∧ ∃ b, accAt t a.id = some b ∧ Served a b ∧ serveElem q w a t e = performElem t b e.1 := by
  obtain ⟨hs, b, hb, hab⟩ := h
  unfold serveElem
  split
  next hc =>
    simp only [Bool.and_eq_true, beq_iff_eq] at hc
    obtain ⟨⟨hu, -⟩, -⟩ := hc
    refine .inr ⟨hu, b, hb, hab, ?_⟩
    have hr : Reaches t b.tile e.2.path e.2.pa := by rw [hab.2.1]; exact hs.sameDeck.reaches hroute
    rw [hb]
    dsimp only
    rw [onRoute_of_reaches hr, servedBy, plain_of_kind hab.1, hp, if_pos rfl]
  next => exact .inl rfl

/-- The invariant of the elements of a word, one after another. -/
theorem serveWord_keeps {P : State → Prop} {s : State} {a : Access} {q w : Nat} (ha : accAt s a.id = some a) (hp : plain a = true)
    (hroute : ∀ e ∈ a.elems, Reaches s a.tile e.path e.pa)
    (hpad : ∀ e ∈ a.elems, unitOf a e.pa = w → stackFailed s e.pa = false) (h0 : P s)
    (hstep : ∀ t b i e, P t → SameButAccess s t → Served a b → a.elems[i]? = some e → unitOf a e.pa = w → P (performElem t b i)) :
    SameButAccess s (serveWord s q w a) ∧ P (serveWord s q w a) := by
  have hfold : ∀ (l : List (Nat × Elem)) (t : State), (∀ x ∈ l, a.elems[x.1]? = some x.2) → Serving s a t → P t →
      Serving s a (l.foldl (serveElem q w a) t) ∧ P (l.foldl (serveElem q w a) t) := by
    intro l
    induction l with
    | nil => exact fun t _ h hP => ⟨h, hP⟩
    | cons x l ih =>
      intro t hl h hP
      rw [List.foldl_cons]
      have hx := hl x (by simp)
      have hm := List.mem_of_getElem? hx
      refine ih _ (fun y hy => hl y (List.mem_cons_of_mem _ hy)) ?_ ?_
      all_goals obtain heq | ⟨hu, b, hb, hab, heq⟩ := serveElem_cases (q := q) (w := w) h hp (hroute x.2 hm)
      all_goals rw [heq]
      · exact h
      · exact serving_perform h.1 hb hab hx (hpad x.2 hm hu) hp
      · exact hP
      · exact hstep t b x.1 x.2 hP h.1 hab hx hu
  have hzip : ∀ x ∈ (upTo a.elems.length).zip a.elems, a.elems[x.1]? = some x.2 := by
    rintro ⟨i, e⟩ hx
    obtain ⟨j, hj, heq⟩ := List.mem_iff_getElem.mp hx
    simp only [List.getElem_zip, upTo, List.getElem_range, Prod.mk.injEq] at heq
    obtain ⟨rfl, rfl⟩ := heq
    exact List.getElem?_eq_getElem _
  obtain ⟨h, hP⟩ := hfold _ s hzip ⟨.refl s, a, ha, rfl, rfl, rfl, rfl⟩ h0
  exact ⟨h.1, hP⟩

/-- A bank serves a word of an access. -/
theorem exec_bankServe_word {s : State} {t bank q w : Nat} {a : Access} (hs : asleep s t = false)
    (hn : nextRequest s t bank = some (q, .word a w)) : exec (.bankServe t bank false) s = .next
      (settle (serveWord (updCore s t (fun c => { c with bankRR := setD 5 bank q c.bankRR })) q w a) a.id) := by
  have hx : exec (.bankServe t bank false) s = execBankServe t bank false s := rfl
  rw [hx, execBankServe]
  simp [hs, hn, foundBad]

theorem coreAt_retire (s : State) (id t : Nat) : coreAt (retire s id) t = coreAt s t := by
  cases h : accAt s id with
  | none => rw [retire, h]
  | some a =>
    rw [retire_eq h, coreAt_wakeTile]
    split
    · rfl
    · unfold updOwner
      split
      · obtain ⟨m, h⟩ := updThread_eq (withoutAccess s id) _ (takeResult a)
        rw [h]
        rfl
      · rfl

theorem coreAt_settle (s : State) (id t : Nat) : coreAt (settle s id) t = coreAt s t := by
  have hd : ∀ n s, coreAt (drainAll n s) t = coreAt s t := by
    intro n
    induction n with
    | zero => exact fun _ => rfl
    | succ n ih =>
      intro s
      rw [drainAll]
      split
      · rfl
      · rw [ih, coreAt_retire]
  unfold settle
  split
  · rfl
  · split
    · exact hd _ _
    · rfl

theorem performElem_load_mem {s : State} {a : Access} {i : Nat} {e : Elem} (he : a.elems[i]? = some e)
    (hf : stackFailed s e.pa = false) (hk : a.kind = .load) : (performElem s a i).mem = s.mem := by
  rw [performElem_load he hf hk]
  exact discover_mem ..

theorem readByte_performElem_outside {s : State} {a : Access} {i : Nat} {e : Elem} (he : a.elems[i]? = some e)
    (hf : stackFailed s e.pa = false) (hp : plain a = true) {pa : Nat} (h : pa < e.pa ∨ e.pa + e.w ≤ pa) :
    readByte (performElem s a i) pa = readByte s pa := by
  by_cases hk : a.kind = .load
  · exact readByte_of_mem_eq (performElem_load_mem he hf hk) pa
  · have hk : a.kind = .store := by simpa [plain, hk] using hp
    rw [performElem_store he hf hk]
    exact (readByte_of_mem_eq (elemDone_mem ..) pa).trans (readByte_storeElem_outside s a e h)

theorem readByte_performElem_store {s : State} {a : Access} {i : Nat} {e : Elem} (he : a.elems[i]? = some e)
    (hf : stackFailed s e.pa = false) (hk : a.kind = .store) (hm : e.mask = List.replicate e.w true) {o : Nat} (h : o < e.w) :
    readByte (performElem s a i) (e.pa + o) = BitVec.ofNat 8 (e.data.toNat / 256 ^ o) := by
  rw [performElem_store he hf hk]
  exact (readByte_of_mem_eq (elemDone_mem ..) _).trans (readByte_storeElem_inside s a hm h)

/-- Settles O33: at a slice controller or a pier the element's own rule; at a bank the invariant of the word it serves. -/
theorem accessesTakeEffect : Obligations.AccessesTakeEffect := by
  unfold Obligations.AccessesTakeEffect
  refine ⟨fun s id i a e ha he hr hp hd hf hroute => ?_, fun s tile bank q w a hsl hn hp ha hroute => ?_⟩
  · obtain rfl := accAt_id ha
    have hl : ∀ got bad, longAccess (withDone a i e got bad) = true := fun got bad => by
      rw [longAccess_withDone he, longAccess, Bool.or_eq_true, List.any_eq_true]
      exact .inr ⟨e, List.mem_of_getElem? he, by rcases hd with h | h <;> rw [h] <;> rfl⟩
    refine ⟨_, exec_access_deck ha he hr hp hd hroute, fun hk => ?_, fun hk hm => ?_, fun hk hs hm => ?_⟩
    · rw [performElem_load he hf hk]
      refine ⟨(settle_mem ..).trans (discover_mem ..), fun x => ?_, ?_⟩
      · exact (linePoison_settle ..).trans (linePoison_discover ..)
      · exact accAt_settle (hl _ _) (accAt_elemDone ((accAt_of_inflight (discover_inflight ..) _).trans ha) he _ _)
    · refine ⟨fun o ho => (readByte_settle ..).trans (readByte_performElem_store he hf hk hm ho),
        fun pa hpa => (readByte_settle ..).trans (readByte_performElem_outside he hf hp hpa), fun pa hpa => ?_⟩
      rw [linePoison_settle, performElem_store he hf hk]
      exact linePoison_storeElem_clean s a hm hpa
    · obtain ⟨hmem, hpo⟩ := storeElem_sinks s hs hm
      rw [performElem_store he hf hk]
      exact ⟨(settle_mem ..).trans hmem, fun o ho => (linePoison_settle ..).trans (hpo o ho)⟩
  · refine ⟨_, exec_bankServe_word hsl hn, ?_⟩
    generalize hu : updCore s tile (fun c => { c with bankRR := setD 5 bank q c.bankRR }) = u
    have hdeck : SameDeck u s := hu ▸ .setCore ..
    have hum : u.mem = s.mem := by rw [← hu]; rfl
    have hau : accAt u a.id = some a := by rw [← hu]; exact ha
    have hru : ∀ e ∈ a.elems, Reaches u a.tile e.path e.pa := fun e he => hdeck.reaches (hroute e he)
    obtain ⟨⟨e0, -, hin, hu0⟩, f, hf, hfq, hfu, hfr⟩ := nextRequest_word hn
    have hpad : ∀ e ∈ a.elems, unitOf a e.pa = w → stackFailed u e.pa = false := fun e _ he =>
      stackFailed_unit hin (he.trans hu0.symm)
    have hstack : ∀ {t : State} {b : Access} {i : Nat} {e g : Elem}, SameButAccess u t → Served a b → a.elems[i]? = some e → b.elems[i]? = some g →
        g.pa = e.pa → unitOf a e.pa = w → stackFailed t g.pa = false := fun hs _ he _ hg hw => by
      rw [hs.sameDeck.stackFailed_eq, hg]
      exact hpad _ (List.mem_of_getElem? he) hw
    refine ⟨?_, fun hk => ?_, fun pa hpa => ?_, fun e hs hk hm o ho => ?_⟩
    · obtain ⟨hsame, -⟩ := serveWord_keeps (P := fun _ => True) (q := q) hau hp hru hpad trivial fun _ _ _ _ _ _ _ _ _ => trivial
      rw [coreAt_settle, hsame.coreAt, ← hu, coreAt_updCore]
      simp
    · refine (settle_mem ..).trans (serveWord_keeps (P := fun t => t.mem = s.mem) hau hp hru hpad hum ?_).2
      intro t b i e ht hsame hab he hw
      obtain ⟨g, hg, hgp, -⟩ := hab.elem he
      exact (performElem_load_mem hg (hstack hsame hab he hg hgp hw) (hab.1.trans hk)).trans ht
    · refine (readByte_settle ..).trans (serveWord_keeps (P := fun t => readByte t pa = readByte s pa) hau hp hru hpad
        (readByte_of_mem_eq hum pa) ?_).2
      intro t b i e ht hsame hab he hw
      obtain ⟨g, hg, hgp, hgw, -⟩ := hab.elem he
      refine (readByte_performElem_outside hg (hstack hsame hab he hg hgp hw) ((plain_of_kind hab.1).trans hp) ?_).trans ht
      rw [hgp, hgw]
      exact hpa e (List.mem_of_getElem? he) hw
    · rw [hs, List.mem_singleton] at hf
      subst hf
      have he : a.elems[0]? = some f := by rw [hs]; rfl
      have hready : elemReady u a f = true := by rw [← hu]; exact hfr
      have hserve : serveWord u q w a = performElem u a 0 := by
        have hx : serveWord u q w a = serveElem q w a u (0, f) := by rw [serveWord_eq, hs]; rfl
        rw [hx, serveElem, if_pos (by simp [hfu, hfq, hready]), hau]
        dsimp only
        rw [onRoute_of_reaches (hru f (by rw [hs]; simp)), servedBy, if_pos hp]
      rw [hserve, readByte_settle]
      exact readByte_performElem_store he (hpad f (by rw [hs]; simp) hfu) hk hm ho

end Sys2Proof.Machine

namespace Sys2Proof.Machine

/-! BINAPP at its owning point (R253 to R257): what its cells and its overflow area hold afterwards. -/

theorem readLe_lt (s : State) (a : Nat) : readLe s a 4 < 2 ^ 32 := by
  have hb : ∀ l : List Byte, leNat l < 256 ^ l.length := by
    intro l
    induction l with
    | nil => simp [leNat]
    | cons b l ih =>
      have := b.isLt
      simp only [leNat, List.length_cons, pow_succ]
      omega
  have h := hb (readBytes s a 4)
  rw [readBytes_eq, List.length_map, List.length_range] at h
  rw [readLe, readBytes_eq]
  exact h

/-- A number reads as before where each of its bytes does. -/
theorem readLe_congr {s t : State} {a n : Nat} (h : ∀ b, a ≤ b → b < a + n → readByte t b = readByte s b) :
    readLe t a n = readLe s a n := by
  rw [readLe, readLe, readBytes_eq, readBytes_eq]
  refine congrArg leNat (List.map_congr_left fun i hi => ?_)
  have := List.mem_range.mp hi
  exact h _ (by omega) (by omega)

theorem readLe_writeLe_outside {s : State} {a b n m v : Nat} (h : b + m ≤ a ∨ a + n ≤ b) :
    readLe (writeLe s a n v) b m = readLe s b m :=
  readLe_congr fun x _ _ => readByte_writeLe_outside _ _ _ _ _ (by omega)

theorem writeLe_mem_congr {s t : State} (h : s.mem = t.mem) (a n v : Nat) : (writeLe s a n v).mem = (writeLe t a n v).mem := by
  have hb : ∀ (l : List Byte) (s t : State) (a : Nat), s.mem = t.mem → (writeBytes s a l).mem = (writeBytes t a l).mem := by
    intro l
    induction l with
    | nil => exact fun s t a h => h
    | cons x l ih =>
      intro s t a h
      exact ih _ _ _ (by simp only [writeByte]; rw [h])
  exact hb _ _ _ _ h

/-! The lanes of a cell, in lane order. -/

def cellOf (lanes : List BinLane) (i : Nat) : Nat := (nth (0, 0) lanes i).1

/-- How many of the first lanes are a cell's. -/
def before (lanes : List BinLane) (c i : Nat) : Nat := (lanes.take i).countP (fun x => x.1 == c)

/-- What a cell receives. -/
def appends (lanes : List BinLane) (c : Nat) : List Nat := (lanes.filter (fun x => x.1 == c)).map (fun x => x.2)

theorem before_succ {lanes : List BinLane} {m : Nat} (h : m < lanes.length) (c : Nat) :
    before lanes c (m + 1) = before lanes c m + if cellOf lanes m = c then 1 else 0 := by
  rw [before, before, List.take_add_one, List.getElem?_eq_getElem h, List.countP_append, cellOf, nth_eq_getD,
    List.getD_eq_getElem _ _ h]
  simp [List.countP_singleton]

theorem before_length (lanes : List BinLane) (c : Nat) : before lanes c lanes.length = (appends lanes c).length := by
  rw [before, List.take_length, appends, List.length_map, List.countP_eq_length_filter]

theorem appends_split (l r : List BinLane) {x : BinLane} {c : Nat} (h : (x.1 == c) = true) :
    appends (l ++ x :: r) c = appends l c ++ x.2 :: appends r c := by
  rw [appends, List.filter_append, List.filter_cons_of_pos (p := fun x : BinLane => x.1 == c) h, List.map_append]
  rfl

/-- The lane of a cell that `before` others of it precede is the entry at that place. -/
theorem nth_appends {lanes : List BinLane} {m : Nat} (h : m < lanes.length) :
    nth 0 (appends lanes (cellOf lanes m)) (before lanes (cellOf lanes m) m) = (nth (0, 0) lanes m).2 := by
  generalize hc : cellOf lanes m = c
  have hsplit : lanes = lanes.take m ++ lanes[m] :: lanes.drop (m + 1) := by
    rw [List.getElem_cons_drop, List.take_append_drop]
  have hm : nth (0, 0) lanes m = lanes[m] := (getElem_eq_nth _ _ h).symm
  have hcell : (lanes[m].1 == c) = true := by rw [← hm]; simpa [cellOf] using hc
  have happ : appends lanes c = appends (lanes.take m) c ++ lanes[m].2 :: appends (lanes.drop (m + 1)) c :=
    (congrArg (appends · c) hsplit).trans (appends_split _ _ hcell)
  have hlen : before lanes c m = (appends (lanes.take m) c).length := by
    rw [appends, List.length_map, before, List.countP_eq_length_filter]
  have hn := nth_append_right 0 (appends (lanes.take m) c) (lanes[m].2 :: appends (lanes.drop (m + 1)) c) 0
  rw [happ, hlen, hm]
  exact hn

/-! One cell. -/

section Cell

variable (pa cap cnt bin ncell ofo ofc c : Nat) (lanes : List BinLane)

/-- A lane takes the next entry of its cell, or overflows. -/
def takeSlot (x : State × Nat × List Nat) (e : Nat × BinLane) : State × Nat × List Nat :=
  let n' := if x.2.1 + 1 < 2 ^ 32 then x.2.1 + 1 else 2 ^ 32 - 1
  if x.2.1 < cap then (writeLe x.1 (pa + bin + 4 * (cap * c + x.2.1)) 4 e.2.2, n', x.2.2) else (x.1, n', x.2.2 ++ [e.1])

/-- A lane of any cell: one of another cell takes none of its entries. -/
def cellLane (x : State × Nat × List Nat) (i : Nat) : State × Nat × List Nat :=
  if cellOf lanes i = c then takeSlot pa cap bin c x (i, nth (0, 0) lanes i) else x

theorem zip_lanes : (upTo lanes.length).zip lanes = (List.range lanes.length).map (fun i => (i, nth (0, 0) lanes i)) := by
  refine List.ext_getElem (by simp) fun i h _ => ?_
  have hi : i < lanes.length := by simp at h; exact h
  simp [upTo, getElem_eq_nth (0, 0) lanes hi]

theorem binCell_eq (s : State) : binCell s pa cap cnt bin c (((upTo lanes.length).zip lanes).filter (fun e => e.2.1 == c)) =
    let r := (List.range lanes.length).foldl (cellLane pa cap bin c lanes) (s, readLe s (pa + cnt + 4 * c) 4, [])
    (writeLe r.1 (pa + cnt + 4 * c) 4 r.2.1, r.2.2) := by
  have hstep : ∀ x : State × Nat × List Nat, (((upTo lanes.length).zip lanes).filter (fun e => e.2.1 == c)).foldl (takeSlot pa cap bin c) x =
      (List.range lanes.length).foldl (cellLane pa cap bin c lanes) x := fun x => by
    rw [List.foldl_filter, zip_lanes, List.foldl_map]
    refine congrArg (fun f => List.foldl f x _) (funext fun x => funext fun i => ?_)
    exact if_congr beq_iff_eq rfl rfl
  have hb : binCell s pa cap cnt bin c (((upTo lanes.length).zip lanes).filter (fun e => e.2.1 == c)) =
      let r := (((upTo lanes.length).zip lanes).filter (fun e => e.2.1 == c)).foldl (takeSlot pa cap bin c)
        (s, readLe s (pa + cnt + 4 * c) 4, [])
      (writeLe r.1 (pa + cnt + 4 * c) 4 r.2.1, r.2.2) := rfl
  rw [hb, hstep]

/-- The entries of a cell after some of the lanes. -/
structure Filled (s : State) (n0 m : Nat) (x : State × Nat × List Nat) : Prop where
  count : x.2.1 = min (n0 + before lanes c m) (2 ^ 32 - 1)
  spill : ∀ i, i ∈ x.2.2 ↔ i < m ∧ cellOf lanes i = c ∧ cap ≤ n0 + before lanes c i
  slot : ∀ n, n < cap → readLe x.1 (pa + bin + 4 * (cap * c + n)) 4 =
    if n0 ≤ n ∧ n - n0 < before lanes c m then nth 0 (appends lanes c) (n - n0) % 2 ^ 32
    else readLe s (pa + bin + 4 * (cap * c + n)) 4

variable {pa cap cnt bin c lanes}

theorem filled_other {s : State} {n0 m : Nat} {x : State × Nat × List Nat} (h : Filled pa cap bin c lanes s n0 m x)
    (hm : m < lanes.length) (hc : cellOf lanes m ≠ c) : Filled pa cap bin c lanes s n0 (m + 1) x := by
  obtain ⟨hcount, hspill, hslot⟩ := h
  have hb : before lanes c (m + 1) = before lanes c m := by rw [before_succ hm, if_neg hc]; rfl
  refine ⟨by rw [hb]; exact hcount, fun i => ?_, by rw [hb]; exact hslot⟩
  rw [hspill]
  constructor
  · rintro ⟨h, h2⟩
    exact ⟨by omega, h2⟩
  · rintro ⟨h, hci, h2⟩
    have : i ≠ m := fun e => hc (e ▸ hci)
    exact ⟨by omega, hci, h2⟩

theorem filled_own {s : State} {n0 m : Nat} {x : State × Nat × List Nat} (hcap : cap < 2 ^ 32)
    (h : Filled pa cap bin c lanes s n0 m x) (hm : m < lanes.length) (hc : cellOf lanes m = c) :
    Filled pa cap bin c lanes s n0 (m + 1) (takeSlot pa cap bin c x (m, nth (0, 0) lanes m)) := by
  obtain ⟨hcount, hspill, hslot⟩ := h
  have hb : before lanes c (m + 1) = before lanes c m + 1 := by rw [before_succ hm, if_pos hc]
  have hnext : (if x.2.1 + 1 < 2 ^ 32 then x.2.1 + 1 else 2 ^ 32 - 1) = min (n0 + (before lanes c m + 1)) (2 ^ 32 - 1) := by
    rw [hcount]
    split <;> omega
  have hlane : nth 0 (appends lanes c) (before lanes c m) = (nth (0, 0) lanes m).2 := by
    have := nth_appends hm
    rwa [hc] at this
  unfold takeSlot
  dsimp only
  rw [hnext]
  split
  next hlt =>
    have hn : x.2.1 = n0 + before lanes c m := by clear hnext hb; omega
    refine ⟨by rw [hb], fun i => ?_, fun n hn' => ?_⟩
    · rw [hspill]
      constructor
      · rintro ⟨h, h2⟩
        exact ⟨by omega, h2⟩
      · rintro ⟨h, hci, h2⟩
        have : i ≠ m := by rintro rfl; omega
        exact ⟨by omega, hci, h2⟩
    · dsimp only
      rw [hb, hn]
      by_cases he : n = n0 + before lanes c m
      · have hsub : n - n0 = before lanes c m := by omega
        rw [if_pos (by omega), hsub, hlane, he, readLe_writeLe]
      · rw [readLe_writeLe_outside (by omega), hslot n hn']
        exact if_congr (by omega) rfl rfl
  next hge =>
    refine ⟨by rw [hb], fun i => ?_, fun n hn' => ?_⟩
    · dsimp only
      rw [List.mem_append, hspill, List.mem_singleton]
      constructor
      · rintro (⟨h, h2⟩ | rfl)
        · exact ⟨by omega, h2⟩
        · exact ⟨by omega, hc, by clear hnext hb; omega⟩
      · rintro ⟨h, h2⟩
        by_cases he : i = m
        · exact .inr he
        · exact .inl ⟨by omega, h2⟩
    · dsimp only
      rw [hb, hslot n hn']
      exact if_congr (by omega) rfl rfl

theorem filled_all (s : State) {n0 : Nat} (hcap : cap < 2 ^ 32) (h0 : n0 < 2 ^ 32) (m : Nat) (hm : m ≤ lanes.length) :
    Filled pa cap bin c lanes s n0 m ((List.range m).foldl (cellLane pa cap bin c lanes) (s, n0, [])) := by
  induction m with
  | zero => exact ⟨by simp [before]; omega, by simp, by simp [before]⟩
  | succ m ih =>
    have h := ih (by omega)
    rw [List.range_succ, List.foldl_append, List.foldl_cons, List.foldl_nil, cellLane]
    split
    next hc => exact filled_own hcap h (by omega) hc
    next hc => exact filled_other h (by omega) hc

end Cell

/-- Bytes outside a cell's entries and its count stay as they were. -/
theorem readByte_binCell_outside {pa cap cnt bin c : Nat} (l : List (Nat × BinLane)) (s : State) {b : Nat}
    (h1 : b < pa + bin + 4 * (cap * c) ∨ pa + bin + 4 * (cap * c) + 4 * cap ≤ b) (h2 : b < pa + cnt + 4 * c ∨ pa + cnt + 4 * c + 4 ≤ b) :
    readByte (binCell s pa cap cnt bin c l).1 b = readByte s b := by
  have hstep : ∀ (x : State × Nat × List Nat) e, readByte (takeSlot pa cap bin c x e).1 b = readByte x.1 b := by
    intro x e
    unfold takeSlot
    dsimp only
    split
    · exact readByte_writeLe_outside _ _ _ _ _ (by omega)
    · rfl
  have hfold : ∀ x : State × Nat × List Nat, readByte (l.foldl (takeSlot pa cap bin c) x).1 b = readByte x.1 b := by
    induction l with
    | nil => exact fun _ => rfl
    | cons e l ih => exact fun x => (ih _).trans (hstep x e)
  exact (readByte_writeLe_outside _ _ _ _ _ (by omega)).trans (hfold (s, readLe s (pa + cnt + 4 * c) 4, []))

end Sys2Proof.Machine

namespace Sys2Proof.Machine

section Table

variable (pa ncell cap cnt bin ofo ofc : Nat) (lanes : List BinLane)

/-- One cell of an append takes its lanes; the lanes that overflow are kept. -/
def appendCell (x : State × List Nat) (c : Nat) : State × List Nat :=
  let q := binCell x.1 pa cap cnt bin c (((upTo lanes.length).zip lanes).filter (fun e => e.2.1 == c))
  (q.1, x.2 ++ q.2)

/-- The cells that lanes name, each once. -/
def cellsOf : List Nat :=
  (((upTo lanes.length).zip lanes).filter (fun e => e.2.1 < ncell)).foldl (fun (l : List Nat) e =>
    if l.contains e.2.1 then l else l ++ [e.2.1]) []

/-- A lane without a slot takes the next overflow entry, or counts as lost. -/
def spillLane (s : State) (x : BinLane) : State :=
  let n := readLe s (pa + 28) 4
  if n < ofc then writeLe (writeLe (writeLe s (pa + ofo + 8 * n) 4 x.1) (pa + ofo + 8 * n + 4) 4 x.2) (pa + 28) 4 (n + 1)
  else
    let k := readLe s (pa + 32) 4
    writeLe s (pa + 32) 4 (if k + 1 < 2 ^ 32 then k + 1 else 2 ^ 32 - 1)

/-- The state once the cells have taken their lanes, with the lanes that overflow. -/
def cellsTake (s : State) : State × List Nat := (cellsOf ncell lanes).foldl (appendCell pa cap cnt bin lanes) (s, [])

/-- The lanes without a slot, in lane order. -/
def spilled (o : List Nat) : List BinLane :=
  (((upTo lanes.length).zip lanes).filter (fun e => ncell ≤ e.2.1 || o.contains e.1)).map (fun e => e.2)

theorem binAppend_eq (s : State) : binAppend s pa ncell cap cnt bin ofo ofc lanes =
    (spilled ncell lanes (cellsTake pa ncell cap cnt bin lanes s).2).foldl (spillLane pa ofo ofc)
      (cellsTake pa ncell cap cnt bin lanes s).1 := by
  rw [spilled, List.foldl_map]
  rfl

/-! The memory of an append is a function of the memory before it. -/

theorem binAppend_mem_congr {s t : State} (h : s.mem = t.mem) :
    (binAppend s pa ncell cap cnt bin ofo ofc lanes).mem = (binAppend t pa ncell cap cnt bin ofo ofc lanes).mem := by
  have hread : ∀ {s t : State}, s.mem = t.mem → ∀ a, readLe s a 4 = readLe t a 4 := fun h a => readLe_of_mem h a 4
  have hslot : ∀ c e (x y : State × Nat × List Nat), x.1.mem = y.1.mem ∧ x.2 = y.2 →
      (takeSlot pa cap bin c x e).1.mem = (takeSlot pa cap bin c y e).1.mem ∧
      (takeSlot pa cap bin c x e).2 = (takeSlot pa cap bin c y e).2 := by
    rintro c e ⟨x, n⟩ ⟨y, m⟩ ⟨hm, he⟩
    cases he
    unfold takeSlot
    dsimp only
    split
    · exact ⟨writeLe_mem_congr hm _ _ _, rfl⟩
    · exact ⟨hm, rfl⟩
  have hcell : ∀ c (x y : State × List Nat), x.1.mem = y.1.mem ∧ x.2 = y.2 →
      (appendCell pa cap cnt bin lanes x c).1.mem = (appendCell pa cap cnt bin lanes y c).1.mem ∧
      (appendCell pa cap cnt bin lanes x c).2 = (appendCell pa cap cnt bin lanes y c).2 := by
    rintro c ⟨x, o⟩ ⟨y, p⟩ ⟨hm, he⟩
    cases he
    have hr := List.foldl_rel (r := fun (x y : State × Nat × List Nat) => x.1.mem = y.1.mem ∧ x.2 = y.2)
      (l := ((upTo lanes.length).zip lanes).filter (fun e => e.2.1 == c)) (f := takeSlot pa cap bin c) (g := takeSlot pa cap bin c)
      (a := (x, readLe x (pa + cnt + 4 * c) 4, [])) (b := (y, readLe y (pa + cnt + 4 * c) 4, [])) ⟨hm, by rw [hread hm]⟩
      fun e _ u v h => hslot c e u v h
    obtain ⟨hrm, hre⟩ := hr
    refine ⟨?_, congrArg (fun z : Nat × List Nat => o ++ z.2) hre⟩
    refine (writeLe_mem_congr hrm _ _ _).trans ?_
    exact congrArg (fun z : Nat × List Nat => (writeLe _ (pa + cnt + 4 * c) 4 z.1).mem) hre
  have hspill : ∀ e (x y : State), x.mem = y.mem → (spillLane pa ofo ofc x e).mem = (spillLane pa ofo ofc y e).mem := by
    intro e x y hm
    unfold spillLane
    rw [hread hm, hread hm]
    dsimp only
    split
    · exact writeLe_mem_congr (writeLe_mem_congr (writeLe_mem_congr hm _ _ _) _ _ _) _ _ _
    · exact writeLe_mem_congr hm _ _ _
  have hcells : (cellsTake pa ncell cap cnt bin lanes s).1.mem = (cellsTake pa ncell cap cnt bin lanes t).1.mem ∧
      (cellsTake pa ncell cap cnt bin lanes s).2 = (cellsTake pa ncell cap cnt bin lanes t).2 :=
    List.foldl_rel (r := fun (x y : State × List Nat) => x.1.mem = y.1.mem ∧ x.2 = y.2) ⟨h, rfl⟩ fun c _ u v h => hcell c u v h
  rw [binAppend_eq, binAppend_eq, hcells.2]
  exact List.foldl_rel (r := fun (x y : State) => x.mem = y.mem) hcells.1 fun e _ u v h => hspill e u v h

/-! Which cells an append names. -/

theorem foldl_distinct (l : List (Nat × BinLane)) (m : List Nat) (h : m.Nodup) :
    (l.foldl (fun (l : List Nat) e => if l.contains e.2.1 then l else l ++ [e.2.1]) m).Nodup ∧
    ∀ c, c ∈ l.foldl (fun (l : List Nat) e => if l.contains e.2.1 then l else l ++ [e.2.1]) m ↔ c ∈ m ∨ ∃ e ∈ l, e.2.1 = c := by
  induction l generalizing m with
  | nil => exact ⟨h, by simp⟩
  | cons e l ih =>
    rw [List.foldl_cons]
    by_cases he : e.2.1 ∈ m
    · rw [if_pos (by simpa using he)]
      obtain ⟨hn, hm⟩ := ih m h
      refine ⟨hn, fun c => ?_⟩
      rw [hm]
      constructor
      · rintro (h | ⟨f, hf, h⟩)
        · exact .inl h
        · exact .inr ⟨f, List.mem_cons_of_mem _ hf, h⟩
      · rintro (h | ⟨f, hf, rfl⟩)
        · exact .inl h
        · rcases List.mem_cons.mp hf with rfl | hf
          · exact .inl he
          · exact .inr ⟨f, hf, rfl⟩
    · rw [if_neg (by simpa using he)]
      obtain ⟨hn, hm⟩ := ih (m ++ [e.2.1]) (List.Nodup.append h (List.nodup_singleton _) (by simpa using he))
      refine ⟨hn, fun c => ?_⟩
      rw [hm, List.mem_append, List.mem_singleton]
      constructor
      · rintro ((h | rfl) | ⟨f, hf, h⟩)
        · exact .inl h
        · exact .inr ⟨e, by simp, rfl⟩
        · exact .inr ⟨f, List.mem_cons_of_mem _ hf, h⟩
      · rintro (h | ⟨f, hf, rfl⟩)
        · exact .inl (.inl h)
        · rcases List.mem_cons.mp hf with rfl | hf
          · exact .inl (.inr rfl)
          · exact .inr ⟨f, hf, rfl⟩

theorem cellsOf_nodup : (cellsOf ncell lanes).Nodup := (foldl_distinct _ [] List.nodup_nil).1

theorem mem_cellsOf {c : Nat} : c ∈ cellsOf ncell lanes ↔ c < ncell ∧ ∃ i < lanes.length, cellOf lanes i = c := by
  rw [cellsOf, (foldl_distinct _ [] List.nodup_nil).2, zip_lanes]
  simp only [List.not_mem_nil, false_or, List.mem_filter, List.mem_map, List.mem_range, decide_eq_true_eq]
  constructor
  · rintro ⟨e, ⟨⟨i, hi, rfl⟩, h⟩, rfl⟩
    exact ⟨h, i, hi, rfl⟩
  · rintro ⟨h, i, hi, rfl⟩
    exact ⟨_, ⟨⟨i, hi, rfl⟩, h⟩, rfl⟩

theorem appends_of_not_mem {c : Nat} (hc : c < ncell) (h : c ∉ cellsOf ncell lanes) : appends lanes c = [] := by
  refine List.map_eq_nil_iff.mpr (List.filter_eq_nil_iff.mpr fun x hx he => h ?_)
  obtain ⟨i, hi, rfl⟩ := List.mem_iff_getElem.mp hx
  refine (mem_cellsOf ..).mpr ⟨hc, i, hi, ?_⟩
  rw [cellOf, ← getElem_eq_nth (0, 0) lanes hi]
  exact eq_of_beq he

/-! Bytes outside the table. -/

variable {pa ncell cap cnt bin ofo ofc lanes}

theorem entries_le {c n : Nat} (hc : c < n) : cap * c + cap ≤ cap * n := by
  have := Nat.mul_le_mul_left cap (Nat.succ_le_of_lt hc)
  rwa [Nat.mul_succ] at this

theorem readByte_appendCell_outside (x : State × List Nat) {c b : Nat} (hc : c < ncell)
    (h1 : b < pa + bin ∨ pa + bin + 4 * cap * ncell ≤ b) (h2 : b < pa + cnt ∨ pa + cnt + 4 * ncell ≤ b) :
    readByte (appendCell pa cap cnt bin lanes x c).1 b = readByte x.1 b := by
  have := entries_le (cap := cap) hc
  rw [Nat.mul_assoc] at h1
  exact readByte_binCell_outside _ _ (by omega) (by omega)

theorem readByte_cells_outside {b : Nat} (h1 : b < pa + bin ∨ pa + bin + 4 * cap * ncell ≤ b)
    (h2 : b < pa + cnt ∨ pa + cnt + 4 * ncell ≤ b) (l : List Nat) (hl : ∀ c ∈ l, c < ncell) (x : State × List Nat) :
    readByte (l.foldl (appendCell pa cap cnt bin lanes) x).1 b = readByte x.1 b := by
  induction l generalizing x with
  | nil => rfl
  | cons c l ih =>
    rw [List.foldl_cons, ih fun d hd => hl d (List.mem_cons_of_mem _ hd)]
    exact readByte_appendCell_outside x (hl c (by simp)) h1 h2

theorem readByte_spillLane_outside (s : State) (x : BinLane) {b : Nat} (h1 : b < pa + 28 ∨ pa + 36 ≤ b)
    (h2 : b < pa + ofo + 8 * readLe s (pa + 28) 4 ∨ pa + ofo + 8 * ofc ≤ b) :
    readByte (spillLane pa ofo ofc s x) b = readByte s b := by
  unfold spillLane
  dsimp only
  split
  · rw [readByte_writeLe_outside _ _ _ _ _ (by omega), readByte_writeLe_outside _ _ _ _ _ (by omega),
      readByte_writeLe_outside _ _ _ _ _ (by omega)]
  · rw [readByte_writeLe_outside _ _ _ _ _ (by omega)]

/-- A byte that no range of the table covers is not changed by an append. -/
theorem readByte_binAppend_outside (s : State) {b : Nat} (h0 : b < pa ∨ pa + 64 ≤ b)
    (h1 : b < pa + cnt ∨ pa + cnt + 4 * ncell ≤ b) (h2 : b < pa + bin ∨ pa + bin + 4 * cap * ncell ≤ b)
    (h3 : b < pa + ofo ∨ pa + ofo + 8 * ofc ≤ b) :
    readByte (binAppend s pa ncell cap cnt bin ofo ofc lanes) b = readByte s b := by
  rw [binAppend_eq, foldl_keeps (fun s => readByte s b) _ (fun s x => readByte_spillLane_outside s x (by omega) (by omega)), cellsTake,
    readByte_cells_outside h2 h1 _ fun c hc => ((mem_cellsOf ..).mp hc).1]

/-! The cells of an append. -/

/-- What a cell's count and entries hold once it has taken its lanes. -/
structure Holds (pa cap cnt bin : Nat) (lanes : List BinLane) (s t : State) (c : Nat) : Prop where
  count : readLe t (pa + cnt + 4 * c) 4 = min (readLe s (pa + cnt + 4 * c) 4 + (appends lanes c).length) (2 ^ 32 - 1)
  slot : ∀ n, n < cap → readLe t (pa + bin + 4 * (cap * c + n)) 4 =
    if readLe s (pa + cnt + 4 * c) 4 ≤ n ∧ n - readLe s (pa + cnt + 4 * c) 4 < (appends lanes c).length then
      nth 0 (appends lanes c) (n - readLe s (pa + cnt + 4 * c) 4) % 2 ^ 32
    else readLe s (pa + bin + 4 * (cap * c + n)) 4

/-- A cell's count and entries hold what they held. -/
structure Keeps (pa cap cnt bin : Nat) (s t : State) (c : Nat) : Prop where
  count : readLe t (pa + cnt + 4 * c) 4 = readLe s (pa + cnt + 4 * c) 4
  slot : ∀ n, n < cap → readLe t (pa + bin + 4 * (cap * c + n)) 4 = readLe s (pa + bin + 4 * (cap * c + n)) 4

theorem Holds.keeps {s t u : State} {c : Nat} (h : Holds pa cap cnt bin lanes s t c) (k : Keeps pa cap cnt bin t u c) :
    Holds pa cap cnt bin lanes s u c :=
  ⟨k.count.trans h.count, fun n hn => (k.slot n hn).trans (h.slot n hn)⟩

theorem Keeps.holds {s t u : State} {c : Nat} (k : Keeps pa cap cnt bin s t c) (h : Holds pa cap cnt bin lanes t u c) :
    Holds pa cap cnt bin lanes s u c := by
  obtain ⟨hc, hs⟩ := h
  rw [k.count] at hc hs
  exact ⟨hc, fun n hn => (hs n hn).trans (by rw [k.slot n hn])⟩

theorem Keeps.trans {s t u : State} {c : Nat} (h : Keeps pa cap cnt bin s t c) (k : Keeps pa cap cnt bin t u c) :
    Keeps pa cap cnt bin s u c :=
  ⟨k.count.trans h.count, fun n hn => (k.slot n hn).trans (h.slot n hn)⟩

/-- The counts and the entries of a table do not overlap. -/
def CountsApart (ncell cap cnt bin : Nat) : Prop := cnt + 4 * ncell ≤ bin ∨ bin + 4 * cap * ncell ≤ cnt

theorem appendCell_own (hd : CountsApart ncell cap cnt bin) (hcap : cap < 2 ^ 32) (x : State × List Nat) {c : Nat} (hc : c < ncell) :
    Holds pa cap cnt bin lanes x.1 (appendCell pa cap cnt bin lanes x c).1 c ∧
    ∀ i, i ∈ (appendCell pa cap cnt bin lanes x c).2 ↔ i ∈ x.2 ∨
      i < lanes.length ∧ cellOf lanes i = c ∧ cap ≤ readLe x.1 (pa + cnt + 4 * c) 4 + before lanes c i := by
  have hf := filled_all (pa := pa) (bin := bin) (c := c) (lanes := lanes) x.1 hcap (readLe_lt x.1 (pa + cnt + 4 * c)) lanes.length le_rfl
  obtain ⟨hcount, hspill, hslot⟩ := hf
  rw [before_length] at hcount hslot
  have he := entries_le (cap := cap) hc
  unfold CountsApart at hd
  rw [Nat.mul_assoc] at hd
  unfold appendCell
  rw [binCell_eq]
  dsimp only
  refine ⟨⟨?_, fun n hn => ?_⟩, fun i => ?_⟩
  · rw [readLe_writeLe, hcount]
    exact Nat.mod_eq_of_lt (by omega)
  · rw [readLe_writeLe_outside (by omega), hslot n hn]
  · rw [List.mem_append, hspill]

theorem appendCell_other (hd : CountsApart ncell cap cnt bin) (x : State × List Nat) {c d : Nat} (hc : c < ncell) (hdn : d < ncell)
    (hne : d ≠ c) : Keeps pa cap cnt bin x.1 (appendCell pa cap cnt bin lanes x c).1 d := by
  have he := entries_le (cap := cap) hc
  have hf := entries_le (cap := cap) hdn
  have hcd : cap * c + cap ≤ cap * d ∨ cap * d + cap ≤ cap * c := by
    rcases Nat.lt_or_gt_of_ne hne with h | h
    · exact .inr (entries_le h)
    · exact .inl (entries_le h)
  unfold CountsApart at hd
  rw [Nat.mul_assoc] at hd
  exact ⟨readLe_congr fun b _ _ => readByte_binCell_outside _ _ (by omega) (by omega),
    fun n hn => readLe_congr fun b _ _ => readByte_binCell_outside _ _ (by omega) (by omega)⟩

theorem appendCells (hd : CountsApart ncell cap cnt bin) (hcap : cap < 2 ^ 32) (l : List Nat) (hn : l.Nodup) (hl : ∀ c ∈ l, c < ncell)
    (x : State × List Nat) :
    (∀ c ∈ l, Holds pa cap cnt bin lanes x.1 (l.foldl (appendCell pa cap cnt bin lanes) x).1 c) ∧
    (∀ c, c < ncell → c ∉ l → Keeps pa cap cnt bin x.1 (l.foldl (appendCell pa cap cnt bin lanes) x).1 c) ∧
    ∀ i, i ∈ (l.foldl (appendCell pa cap cnt bin lanes) x).2 ↔ i ∈ x.2 ∨ i < lanes.length ∧ cellOf lanes i ∈ l ∧
      cap ≤ readLe x.1 (pa + cnt + 4 * cellOf lanes i) 4 + before lanes (cellOf lanes i) i := by
  induction l generalizing x with
  | nil => exact ⟨by simp, fun c _ _ => ⟨rfl, fun _ _ => rfl⟩, by simp⟩
  | cons c l ih =>
    obtain ⟨hcl, hn⟩ := List.nodup_cons.mp hn
    have hc := hl c (by simp)
    have hlt : ∀ d ∈ l, d < ncell := fun d hd => hl d (List.mem_cons_of_mem _ hd)
    obtain ⟨hheld, hkept, hspill⟩ := ih hn hlt (appendCell pa cap cnt bin lanes x c)
    obtain ⟨hown, hownSpill⟩ := appendCell_own hd hcap x (pa := pa) (lanes := lanes) hc
    have hother : ∀ d, d < ncell → d ≠ c → Keeps pa cap cnt bin x.1 (appendCell pa cap cnt bin lanes x c).1 d := fun d hdn hne =>
      appendCell_other hd x hc hdn hne
    rw [List.foldl_cons]
    refine ⟨fun d hdm => ?_, fun d hdn hdm => ?_, fun i => ?_⟩
    · rcases List.mem_cons.mp hdm with rfl | hdm
      · exact hown.keeps (hkept d hc hcl)
      · exact (hother d (hlt d hdm) fun e => hcl (e ▸ hdm)).holds (hheld d hdm)
    · obtain ⟨hne, hdl⟩ := not_or.mp (mt List.mem_cons.mpr hdm)
      exact (hother d hdn hne).trans (hkept d hdn hdl)
    · rw [hspill, hownSpill, List.mem_cons, or_assoc]
      refine or_congr_right ?_
      by_cases hi : cellOf lanes i = c
      · simp [hi, hcl]
      · simp only [hi, false_and, and_false, false_or]
        refine and_congr_right fun _ => and_congr_right fun hil => ?_
        rw [(hother _ (hlt _ hil) hi).count]

/-- Every cell of the table holds what it held and what it received, and the lanes without a slot are known. -/
theorem cellsTake_holds (hd : CountsApart ncell cap cnt bin) (hcap : cap < 2 ^ 32) (s : State) :
    (∀ c, c < ncell → Holds pa cap cnt bin lanes s (cellsTake pa ncell cap cnt bin lanes s).1 c) ∧
    ∀ i, i < lanes.length → (i ∈ (cellsTake pa ncell cap cnt bin lanes s).2 ↔ cellOf lanes i < ncell ∧
      cap ≤ readLe s (pa + cnt + 4 * cellOf lanes i) 4 + before lanes (cellOf lanes i) i) := by
  obtain ⟨hheld, hkept, hspill⟩ := appendCells (pa := pa) (lanes := lanes) hd hcap (cellsOf ncell lanes) (cellsOf_nodup ..)
    (fun c hc => ((mem_cellsOf ..).mp hc).1) (s, [])
  refine ⟨fun c hc => ?_, fun i hi => ?_⟩
  · by_cases hm : c ∈ cellsOf ncell lanes
    · exact hheld c hm
    · have hk := hkept c hc hm
      have hlt := readLe_lt s (pa + cnt + 4 * c)
      have happ := appends_of_not_mem ncell lanes hc hm
      refine ⟨?_, fun n hn => ?_⟩
      · refine hk.count.trans ?_
        rw [happ, List.length_nil]
        exact (min_eq_left (Nat.le_sub_one_of_lt hlt)).symm
      · refine (hk.slot n hn).trans ?_
        rw [happ, if_neg (by simp)]
  · refine (hspill i).trans ?_
    simp only [List.not_mem_nil, false_or, hi, true_and, mem_cellsOf]
    refine and_congr_left fun _ => ⟨fun h => h.1, fun h => ⟨h, i, hi, rfl⟩⟩

/-! The overflow area of an append. -/

theorem spillLane_entry {s : State} {x : BinLane} (h : readLe s (pa + 28) 4 < ofc) (hofc : ofc < 2 ^ 32)
    (hd : 36 ≤ ofo ∨ ofo + 8 * ofc ≤ 28) :
    readLe (spillLane pa ofo ofc s x) (pa + 28) 4 = readLe s (pa + 28) 4 + 1 ∧
    readLe (spillLane pa ofo ofc s x) (pa + 32) 4 = readLe s (pa + 32) 4 ∧
    readLe (spillLane pa ofo ofc s x) (pa + ofo + 8 * readLe s (pa + 28) 4) 4 = x.1 % 2 ^ 32 ∧
    readLe (spillLane pa ofo ofc s x) (pa + ofo + 8 * readLe s (pa + 28) 4 + 4) 4 = x.2 % 2 ^ 32 := by
  unfold spillLane
  dsimp only
  rw [if_pos h]
  refine ⟨?_, ?_, ?_, ?_⟩
  · rw [readLe_writeLe]
    exact Nat.mod_eq_of_lt (by omega)
  · rw [readLe_writeLe_outside (by omega), readLe_writeLe_outside (by omega), readLe_writeLe_outside (by omega)]
  · rw [readLe_writeLe_outside (by omega), readLe_writeLe_outside (by omega), readLe_writeLe]
  · rw [readLe_writeLe_outside (by omega), readLe_writeLe]

theorem spillLane_lost {s : State} {x : BinLane} (h : ¬ readLe s (pa + 28) 4 < ofc) :
    readLe (spillLane pa ofo ofc s x) (pa + 28) 4 = readLe s (pa + 28) 4 ∧
    readLe (spillLane pa ofo ofc s x) (pa + 32) 4 = min (readLe s (pa + 32) 4 + 1) (2 ^ 32 - 1) := by
  unfold spillLane
  dsimp only
  rw [if_neg h]
  refine ⟨readLe_writeLe_outside (by omega), ?_⟩
  rw [readLe_writeLe, Nat.mod_eq_of_lt (by split <;> omega)]
  split <;> omega

theorem spillLanes (hofc : ofc < 2 ^ 32) (hd : 36 ≤ ofo ∨ ofo + 8 * ofc ≤ 28) (l : List BinLane) (s : State) :
    let t := l.foldl (spillLane pa ofo ofc) s
    let ent := readLe s (pa + 28) 4
    readLe t (pa + 28) 4 = (if ent < ofc then min (ent + l.length) ofc else ent) ∧
    readLe t (pa + 32) 4 = min (readLe s (pa + 32) 4 + (l.length - (ofc - ent))) (2 ^ 32 - 1) ∧
    (∀ m, m < l.length → ent + m < ofc → readLe t (pa + ofo + 8 * (ent + m)) 4 = (nth (0, 0) l m).1 % 2 ^ 32 ∧
      readLe t (pa + ofo + 8 * (ent + m) + 4) 4 = (nth (0, 0) l m).2 % 2 ^ 32) ∧
    ∀ b, (b < pa + 28 ∨ pa + 36 ≤ b) → (b < pa + ofo + 8 * ent ∨ pa + ofo + 8 * ofc ≤ b) → readByte t b = readByte s b := by
  induction l generalizing s with
  | nil =>
    have h32 := readLe_lt s (pa + 32)
    refine ⟨?_, ?_, by simp, fun _ _ _ => rfl⟩
    · simp only [List.foldl_nil, List.length_nil]
      split <;> omega
    · simp only [List.foldl_nil, List.length_nil]
      omega
  | cons x l ih =>
    obtain ⟨h28, h32, hent, hout⟩ := ih (spillLane pa ofo ofc s x)
    have hframe : ∀ b, (b < pa + 28 ∨ pa + 36 ≤ b) → (b < pa + ofo + 8 * readLe s (pa + 28) 4 ∨ pa + ofo + 8 * ofc ≤ b) →
        readByte (spillLane pa ofo ofc s x) b = readByte s b := fun b => readByte_spillLane_outside s x
    simp only [List.foldl_cons, List.length_cons]
    by_cases h : readLe s (pa + 28) 4 < ofc
    · obtain ⟨e28, e32, ea, eb⟩ := spillLane_entry (x := x) h hofc hd
      rw [e28] at h28 h32 hent hout
      rw [e32] at h32
      refine ⟨?_, ?_, fun m hm hme => ?_, fun b h1 h2 => ?_⟩
      · rw [h28, if_pos h]
        split <;> omega
      · rw [h32]
        congr 2
        omega
      · cases m with
        | zero =>
          refine ⟨(readLe_congr fun b _ _ => hout b (by omega) (by omega)).trans ea,
            (readLe_congr fun b _ _ => hout b (by omega) (by omega)).trans eb⟩
        | succ m =>
          have hm' := hent m (by omega) (by omega)
          rw [show readLe s (pa + 28) 4 + (m + 1) = readLe s (pa + 28) 4 + 1 + m by omega]
          exact hm'
      · exact (hout b h1 (by omega)).trans (hframe b h1 h2)
    · obtain ⟨e28, e32⟩ := spillLane_lost (x := x) (ofo := ofo) h
      rw [e28] at h28 h32 hent hout
      rw [e32] at h32
      refine ⟨?_, ?_, fun m hm hme => absurd hme (by omega), fun b h1 h2 => ?_⟩
      · rw [h28, if_neg h, if_neg h]
      · rw [h32]
        omega
      · exact (hout b h1 h2).trans (hframe b h1 h2)

end Table

end Sys2Proof.Machine

namespace Sys2Proof.Machine

/-! O34: a read-modify-write at its owning point. -/

/-- The errors of the lines of a read-modify-write, found. -/
def rmwFound (s : State) (a : Access) (e : Elem) : State := (elemRanges a.kind e).foldl (fun s r => discover s r.1 r.2) s

@[simp] theorem rmwFound_mem (s : State) (a : Access) (e : Elem) : (rmwFound s a e).mem = s.mem :=
  foldl_mem _ (fun s (r : Nat × Nat) => discover_mem s r.1 r.2) _ s

theorem rmwFound_inflight (s : State) (a : Access) (e : Elem) : (rmwFound s a e).inflight = s.inflight :=
  foldl_keeps State.inflight _ (fun s (r : Nat × Nat) => discover_inflight s r.1 r.2) _ s

theorem readLe_rmwFound (s : State) (a : Access) (e : Elem) (pa n : Nat) : readLe (rmwFound s a e) pa n = readLe s pa n :=
  readLe_of_mem (rmwFound_mem s a e) pa n

theorem writeLe_inflight (s : State) (pa n v : Nat) : (writeLe s pa n v).inflight = s.inflight := by
  have hb : ∀ (l : List Byte) (s : State) (pa : Nat), (writeBytes s pa l).inflight = s.inflight := by
    intro l
    induction l with
    | nil => exact fun _ _ => rfl
    | cons b l ih => exact fun s pa => (ih _ _).trans rfl
  exact hb _ _ _

section Element

variable {s : State} {a : Access} {i : Nat} {e : Elem} (he : a.elems[i]? = some e) (hf : stackFailed s e.pa = false)
include he hf

/-- What an element of a read-modify-write leaves in memory, and what it returns. -/
theorem rmwElem_amo {op : AmoOp} (hk : a.kind = .amo op) : rmwElem s a i =
    elemDone (writeLe (rmwFound s a e) e.pa e.w (amoNew op a.ty (readLe s e.pa e.w) (e.data.toNat % 2 ^ (8 * e.w)))) a.id i
      (BitVec.ofNat 64 (readLe s e.pa e.w)) (rangePoison (rmwFound s a e) e.pa e.w) := by
  rw [← readLe_rmwFound s a e e.pa e.w]
  simp only [rmwElem, he, hf, hk, Bool.false_eq_true, if_false, rmwFound]

theorem rmwElem_cas (hk : a.kind = .cas) : rmwElem s a i =
    elemDone (if readLe s e.pa e.w = e.data.toNat % 2 ^ (8 * e.w) then
        writeLe (rmwFound s a e) e.pa e.w (e.data2.toNat % 2 ^ (8 * e.w)) else rmwFound s a e) a.id i
      (BitVec.ofNat 64 (readLe s e.pa e.w)) (rangePoison (rmwFound s a e) e.pa e.w) := by
  rw [← readLe_rmwFound s a e e.pa e.w]
  simp only [rmwElem, he, hf, hk, Bool.false_eq_true, if_false, rmwFound]
  split <;> rfl

theorem rmwElem_scadd_mem (hk : a.kind = .scadd) : (rmwElem s a i).mem = if nth false e.mask 0 then
    (writeLe (rmwFound s a e) e.pa e.w (scaddNew a.ty (readLe s e.pa e.w) e.data.toNat)).mem else s.mem := by
  rw [← readLe_rmwFound s a e e.pa e.w, ← rmwFound_mem s a e]
  simp only [rmwElem, he, hf, hk, Bool.false_eq_true, if_false, rmwFound]
  split <;> rfl

/-- The lanes of an append. -/
def binLanes (a : Access) : List BinLane := (a.elems.drop 1).map (fun f => (f.data.toNat, f.data2.toNat))

theorem rmwElem_binapp_mem {x ncell cap cnt bin ofo ofc : Nat} (hk : a.kind = .binapp x ncell cap cnt bin ofo ofc) :
    (rmwElem s a i).mem = (binAppend s e.pa ncell cap cnt bin ofo ofc (binLanes a)).mem := by
  rw [← binAppend_mem_congr (h := rmwFound_mem s a e)]
  simp only [rmwElem, he, hf, hk, Bool.false_eq_true, if_false, rmwFound]
  rfl

/-- No byte outside the ranges that a read-modify-write names changes. -/
theorem readByte_rmwElem_outside (hp : plain a = false) {b : Nat} (h : ∀ r ∈ elemRanges a.kind e, b < r.1 ∨ r.1 + r.2 ≤ b) :
    readByte (rmwElem s a i) b = readByte s b := by
  cases hk : a.kind with
  | load => simp [plain, hk] at hp
  | store => simp [plain, hk] at hp
  | amo op =>
    rw [hk] at h
    have hb := h (e.pa, e.w) (by simp [elemRanges])
    rw [rmwElem_amo he hf hk, readByte_of_mem_eq (elemDone_mem ..), readByte_writeLe_outside _ _ _ _ _ hb,
      readByte_of_mem_eq (rmwFound_mem s a e)]
  | cas =>
    rw [hk] at h
    have hb := h (e.pa, e.w) (by simp [elemRanges])
    rw [rmwElem_cas he hf hk, readByte_of_mem_eq (elemDone_mem ..)]
    split
    · rw [readByte_writeLe_outside _ _ _ _ _ hb, readByte_of_mem_eq (rmwFound_mem s a e)]
    · exact readByte_of_mem_eq (rmwFound_mem s a e) b
  | scadd =>
    rw [hk] at h
    have hb := h (e.pa, e.w) (by simp [elemRanges])
    have hm := rmwElem_scadd_mem he hf hk
    split at hm
    · rw [readByte_of_mem_eq hm, readByte_writeLe_outside _ _ _ _ _ hb, readByte_of_mem_eq (rmwFound_mem s a e)]
    · exact readByte_of_mem_eq hm b
  | binapp x ncell cap cnt bin ofo ofc =>
    rw [hk] at h
    rw [readByte_of_mem_eq (rmwElem_binapp_mem he hf hk)]
    exact readByte_binAppend_outside s (h (e.pa, 64) (by simp [elemRanges])) (h (e.pa + cnt, 4 * ncell) (by simp [elemRanges]))
      (h (e.pa + bin, 4 * cap * ncell) (by simp [elemRanges])) (h (e.pa + ofo, 8 * ofc) (by simp [elemRanges]))
  | binrst x ncell cnt =>
    rw [hk] at h
    have h1 := h (e.pa, 64) (by simp [elemRanges])
    have h2 := h (e.pa + cnt, 4 * ncell) (by simp [elemRanges])
    rw [readByte_rmwElem_binrst he hk hf, if_neg]
    unfold ResetCovers
    dsimp only at h1 h2
    omega

/-- An atomic of one element returns what stood there before. -/
theorem accAt_rmwElem (ha : accAt s a.id = some a) (hk : (∃ op, a.kind = .amo op) ∨ a.kind = .cas) :
    accAt (rmwElem s a i) a.id = some (withDone a i e (BitVec.ofNat 64 (readLe s e.pa e.w)) (rangeBad s e.pa e.w)) := by
  have hr : elemRanges a.kind e = [(e.pa, e.w)] := by
    rcases hk with ⟨op, h⟩ | h <;> rw [h] <;> rfl
  have hbad : rangePoison (rmwFound s a e) e.pa e.w = rangeBad s e.pa e.w := by
    rw [rmwFound, hr]
    exact rangePoison_discover s e.pa e.w
  have hin := rmwFound_inflight s a e
  rcases hk with ⟨op, hk⟩ | hk
  · rw [rmwElem_amo he hf hk, hbad]
    exact accAt_elemDone ((accAt_of_inflight ((writeLe_inflight ..).trans hin) _).trans ha) he _ _
  · rw [rmwElem_cas he hf hk, hbad]
    refine accAt_elemDone ((accAt_of_inflight ?_ _).trans ha) he _ _
    split
    · exact (writeLe_inflight ..).trans hin
    · exact hin

end Element

/-! The table after an append. -/

/-- The lanes without a slot are those of no cell, and those whose cell is full as their turn comes. -/
theorem spilled_eq {s : State} {pa ncell cap cnt bin : Nat} {lanes : List BinLane} (hd : CountsApart ncell cap cnt bin) (hcap : cap < 2 ^ 32) :
    spilled ncell lanes (cellsTake pa ncell cap cnt bin lanes s).2 =
    ((List.range lanes.length).filter (fun i => let c := (nth (0, 0) lanes i).1
      decide (ncell ≤ c) || decide (cap ≤ readLe s (pa + cnt + 4 * c) 4 + (lanes.take i).countP (fun x => x.1 == c)))).map
      (nth (0, 0) lanes) := by
  rw [spilled, zip_lanes, List.filter_map, List.map_map]
  refine congrArg (List.map _) (List.filter_congr fun i hi => ?_)
  have hs := (cellsTake_holds (pa := pa) (lanes := lanes) hd hcap s).2 i (List.mem_range.mp hi)
  unfold cellOf before at hs
  by_cases hc : ncell ≤ (nth (0, 0) lanes i).1
  · simp [hc]
  · have hb : (cellsTake pa ncell cap cnt bin lanes s).2.contains i = decide (cap ≤
        readLe s (pa + cnt + 4 * (nth (0, 0) lanes i).1) 4 + (lanes.take i).countP (fun x => x.1 == (nth (0, 0) lanes i).1)) := by
      rw [Bool.eq_iff_iff, List.contains_iff_mem, hs, decide_eq_true_iff]
      exact and_iff_right (by omega)
    rw [Function.comp_apply, hb]

/-- What the words of a table hold after an append, where its parts do not overlap. -/
theorem binAppend_table {s : State} {pa ncell cap cnt bin ofo ofc : Nat} {lanes : List BinLane} (hcap : cap < 2 ^ 32) (hofc : ofc < 2 ^ 32)
    (hparts : List.Pairwise (fun (x y : Nat × Nat) => x.1 + x.2 ≤ y.1 ∨ y.1 + y.2 ≤ x.1)
      [(28, 8), (cnt, 4 * ncell), (bin, 4 * cap * ncell), (ofo, 8 * ofc)]) :
    let t := binAppend s pa ncell cap cnt bin ofo ofc lanes
    let spill := spilled ncell lanes (cellsTake pa ncell cap cnt bin lanes s).2
    let ent := readLe s (pa + 28) 4
    (∀ c, c < ncell → Holds pa cap cnt bin lanes s t c) ∧
    (∀ m, m < spill.length → ent + m < ofc → readLe t (pa + ofo + 8 * (ent + m)) 4 = (nth (0, 0) spill m).1 % 2 ^ 32 ∧
      readLe t (pa + ofo + 8 * (ent + m) + 4) 4 = (nth (0, 0) spill m).2 % 2 ^ 32) ∧
    readLe t (pa + 28) 4 = (if ent < ofc then min (ent + spill.length) ofc else ent) ∧
    readLe t (pa + 32) 4 = min (readLe s (pa + 32) 4 + (spill.length - (ofc - ent))) (2 ^ 32 - 1) := by
  simp only [List.pairwise_cons, List.mem_cons, List.not_mem_nil, or_false, forall_eq_or_imp, forall_eq, List.Pairwise.nil,
    and_true, IsEmpty.forall_iff, implies_true] at hparts
  obtain ⟨⟨hcnt, hbin, hofo⟩, ⟨hcb, hco⟩, hbo⟩ := hparts
  intro t spill ent
  have hcells := (cellsTake_holds (pa := pa) (lanes := lanes) (ncell := ncell) (cnt := cnt) (bin := bin) hcb hcap s).1
  obtain ⟨h28, h32, hent, hout⟩ := spillLanes (pa := pa) (ofo := ofo) hofc (by omega) spill (cellsTake pa ncell cap cnt bin lanes s).1
  have hu : ∀ b, (b < pa + bin ∨ pa + bin + 4 * cap * ncell ≤ b) → (b < pa + cnt ∨ pa + cnt + 4 * ncell ≤ b) →
      readByte (cellsTake pa ncell cap cnt bin lanes s).1 b = readByte s b := fun b h1 h2 =>
    readByte_cells_outside h1 h2 _ (fun c hc => ((mem_cellsOf ..).mp hc).1) (s, [])
  have e28 : readLe (cellsTake pa ncell cap cnt bin lanes s).1 (pa + 28) 4 = ent :=
    readLe_congr fun b _ _ => hu b (by omega) (by omega)
  have e32 : readLe (cellsTake pa ncell cap cnt bin lanes s).1 (pa + 32) 4 = readLe s (pa + 32) 4 :=
    readLe_congr fun b _ _ => hu b (by omega) (by omega)
  rw [e28] at h28 h32 hent hout
  rw [e32] at h32
  have ht : spill.foldl (spillLane pa ofo ofc) (cellsTake pa ncell cap cnt bin lanes s).1 = t := (binAppend_eq ..).symm
  rw [ht] at h28 h32 hent hout
  refine ⟨fun c hc => (hcells c hc).keeps ⟨?_, fun n hn => ?_⟩, hent, h28, h32⟩
  · exact readLe_congr fun b _ _ => hout b (by omega) (by omega)
  · have hle := entries_le (cap := cap) hc
    rw [Nat.mul_assoc] at hbin hbo
    exact readLe_congr fun b _ _ => hout b (by omega) (by omega)

/-- Settles O34: the step is the operation of the element after its bank's turn; each kind by what it leaves in memory, BINAPP by the
words of its table. -/
theorem readModifyWrites : Obligations.ReadModifyWrites := by
  unfold Obligations.ReadModifyWrites
  intro s id i a e ha he hr hp hl hf hd ht old
  obtain rfl := accAt_id ha
  have hx := exec_rmwPerform_ready ha he hr hp hl hd ht
  obtain ⟨u, hu⟩ : ∃ u, takeTurn s a e = u := ⟨_, rfl⟩
  have hmu : u.mem = s.mem := by rw [← hu, takeTurn_mem]
  have hfu : stackFailed u e.pa = false := by rw [← hu, (takeTurn_sameDeck s a e).stackFailed_eq, hf]
  have hcore : ∃ m, u = { s with cores := m } := by
    obtain h | ⟨c, h⟩ := takeTurn_eq s a e
    · exact ⟨s.cores, by rw [← hu, h]⟩
    · exact ⟨_, by rw [← hu, h]; rfl⟩
  have hau : accAt u a.id = some a ∧ rangeBad u e.pa e.w = rangeBad s e.pa e.w := by
    obtain ⟨m, rfl⟩ := hcore
    exact ⟨ha, rfl⟩
  rw [hu] at hx
  have hold : readLe u e.pa e.w = old := readLe_of_mem hmu _ _
  have hmem : (settle (rmwElem u a i) a.id).mem = (rmwElem u a i).mem := settle_mem ..
  have hpow : 2 ^ (8 * e.w) = 256 ^ e.w := Nat.pow_mul 2 8 e.w
  refine ⟨_, hx, fun pa hpa => ?_, fun op hk => ?_, fun hk => ?_, fun hk hm => ?_, fun x ncell cap cnt bin ofo ofc hk => ?_,
    fun x ncell cnt hk => ?_, fun hlong hk => ?_⟩
  · rw [readByte_of_mem_eq hmem, readByte_rmwElem_outside he hfu hp hpa, readByte_of_mem_eq hmu]
  · rw [readLe_of_mem hmem, rmwElem_amo he hfu hk, readLe_of_mem (elemDone_mem ..), readLe_writeLe, hold, hpow]
  · rw [readLe_of_mem hmem, rmwElem_cas he hfu hk, readLe_of_mem (elemDone_mem ..), hold]
    split
    · rw [readLe_writeLe, Nat.mod_mod]
    · rw [readLe_rmwFound, hold]
  · rw [readLe_of_mem hmem, readLe_of_mem ((rmwElem_scadd_mem he hfu hk).trans (if_pos hm)), readLe_writeLe, hold, hpow]
  · have happ : (settle (rmwElem u a i) a.id).mem = (binAppend s e.pa ncell cap cnt bin ofo ofc (binLanes a)).mem :=
      (hmem.trans (rmwElem_binapp_mem he hfu hk)).trans (binAppend_mem_congr (h := hmu) ..)
    refine ⟨happ, fun hcap hofc hparts => ?_⟩
    have hread : ∀ b, readLe (settle (rmwElem u a i) a.id) b 4 = readLe (binAppend s e.pa ncell cap cnt bin ofo ofc (binLanes a)) b 4 :=
      fun b => readLe_of_mem happ b 4
    obtain ⟨hcells, hspill, h28, h32⟩ := binAppend_table (s := s) (pa := e.pa) (lanes := binLanes a) hcap hofc hparts
    have hcb : CountsApart ncell cap cnt bin := by
      have h2 := (List.pairwise_cons.mp hparts).2
      exact (List.pairwise_cons.mp h2).1 (bin, 4 * cap * ncell) (by simp)
    rw [spilled_eq hcb hcap] at hspill h28 h32
    simp only [hread]
    exact ⟨fun c hc => ⟨(hcells c hc).count, (hcells c hc).slot⟩, hspill, h28, h32⟩
  · have hb := readByte_rmwElem_binrst (s := u) he hk hfu
    refine ⟨fun o ho => ?_, fun o ho => ?_⟩
    · rw [readByte_of_mem_eq hmem, hb, if_pos (.inl (by omega))]
    · rw [readByte_of_mem_eq hmem, hb, if_pos (.inr (by omega))]
  · have hacc := accAt_rmwElem he hfu hau.1 hk
    rw [hold, hau.2] at hacc
    exact accAt_settle ((longAccess_withDone he _ _).trans hlong) hacc

end Sys2Proof.Machine

namespace Sys2Proof.Machine

/-! The sum of an element of a multiply (R195, R196, R206) (O26). -/

/-- What an element adds, from the elements and the scales of its two lines. -/
def lineSum (sca scb : Bool) (K : Nat) (A B : Nat → FV × Bool) (sa sb : Nat → Option (Nat × Int) × Bool) : Nat × Bool :=
  let bad := (upTo K).any (fun k => (A k).2 || (B k).2)
  if !sca && !scb then (partialPlain (fun k => (A k).1) (fun k => (B k).1) K, bad)
  else
    let r := (upTo (K / 32)).foldl (fun (t : Nat × Bool) blk =>
      let q := scaledBlock (partialBlock (fun k => (A k).1) (fun k => (B k).1) blk) (sa blk).1 (sb blk).1
      ((fAdd fp32 .rne 0 t.1 q.1).bits, t.2 || (sa blk).2 || (sb blk).2 || q.2)) (0, false)
    (r.1, r.2 || bad)

/-- A line without scales has the scale 1. -/
def unitScale : Option (Nat × Int) × Bool := (some (1, 0), false)

theorem elementSum_mma {o : MOp} {ty : Ty} {oba obb : ObReg} (h : o.kind = .mma ty oba obb) (c : ObView) (m n : Nat) :
    elementSum c o m n = lineSum (shSca o.shape) (shScb o.shape) (shK o.shape) (obElem c oba.toNat (shA0 o.shape + m) ty)
      (obElem c obb.toNat (shB0 o.shape + n) ty)
      (fun blk => if shSca o.shape then obScale c oba.toNat (shA0 o.shape + m) blk else unitScale)
      (fun blk => if shScb o.shape then obScale c obb.toNat (shB0 o.shape + n) blk else unitScale) := by
  simp only [elementSum, h, Option.isSome_none, Bool.or_false]
  rfl

theorem elementSum_mmacb {o : MOp} {ty : Ty} {oba obb : ObReg} {table : Option (List Byte)} {bad : BitVec 8}
    (h : o.kind = .mmacb ty oba obb table bad) (c : ObView) (m n : Nat) :
    elementSum c o m n = lineSum (shSca o.shape) true (shK o.shape) (obElem c oba.toNat (shA0 o.shape + m) ty)
      (obWeight c obb.toNat (shB0 o.shape + n) table bad)
      (fun blk => if shSca o.shape then obScale c oba.toNat (shA0 o.shape + m) blk else unitScale)
      (fun blk => obScale c obb.toNat (shB0 o.shape + n) (blk / 4)) := by
  simp only [elementSum, h, Option.isSome_some, Bool.or_true]
  rfl

/-- R178: the weight of an index, written out: its base picks the entry, its seven sign bits the signs, the eighth their parity. -/
theorem weightHalves_eq (ent idx k : Nat) : weightHalves ent idx k =
    (if (if k < 7 then idx / 2 ^ (k + 1) % 2 else ((List.range 7).map (fun j => idx / 2 ^ (j + 1) % 2)).sum % 2) = 1 then
      -(2 * (ent / 2 ^ (2 * k) % 4 : Nat) + 1 : Int) else 2 * (ent / 2 ^ (2 * k) % 4 : Nat) + 1) - (idx % 2 : Nat) := by
  have hfold : (upTo 7).foldl (fun n i => n + idx / 2 ^ (i + 1) % 2) 0 = ((List.range 7).map (fun j => idx / 2 ^ (j + 1) % 2)).sum := by
    simp [upTo, List.range_succ, Nat.add_assoc]
  unfold weightHalves
  dsimp only
  rw [hfold, pow_zero, Nat.div_one]

section Sum

variable {sca scb : Bool} {K : Nat} {A B : Nat → FV × Bool} {sa sb : Nat → Option (Nat × Int) × Bool}

/-- The product of two elements within the shape. -/
def shapeProd (K : Nat) (A B : Nat → FV × Bool) (k : Nat) : FV := if k < K then (A k).1.mul (B k).1 else .num false 0 0

/-- R195: two products added to a partial with one rounding. -/
def pairSum (K : Nat) (A B : Nat → FV × Bool) (p k : Nat) : Nat :=
  (fp32.roundFV .rne 0 (FV.sum .rne [fp32.value p, shapeProd K A B k, shapeProd K A B (k + 1)])).bits

theorem pairStep_eq {p k : Nat} {second : Bool} (hk : k < K) (hs : second = decide (k + 1 < K)) :
    pairStep p (fun k => (A k).1) (fun k => (B k).1) k second = pairSum K A B p k := by
  rw [pairStep, pairSum, shapeProd, shapeProd, if_pos hk, hs]
  simp only [decide_eq_true_eq]

/-- A fold over the first numbers is the sequence that it makes. -/
theorem foldl_upTo {α : Type} {f : α → Nat → α} {p : Nat → α} {n : Nat} (h : ∀ j, j < n → p (j + 1) = f (p j) j) :
    (upTo n).foldl f (p 0) = p n := by
  induction n with
  | zero => rfl
  | succ n ih =>
    have ih := ih fun j hj => h j (by omega)
    rw [upTo] at ih
    rw [upTo, List.range_succ, List.foldl_append, ih]
    exact (h n (by omega)).symm

theorem partialPlain_eq {p : Nat → Nat} (h0 : p 0 = 0) (h : ∀ j, p (j + 1) = pairSum K A B (p j) (2 * j)) :
    partialPlain (fun k => (A k).1) (fun k => (B k).1) K = p ((K + 1) / 2) := by
  unfold partialPlain
  rw [← h0]
  refine foldl_upTo fun j hj => ?_
  rw [h j, pairStep_eq (by omega) rfl]

theorem partialBlock_eq {blk : Nat} (hblk : blk < K / 32) {p : Nat → Nat} (h0 : p 0 = 0)
    (h : ∀ j, p (j + 1) = pairSum K A B (p j) (32 * blk + 2 * j)) :
    partialBlock (fun k => (A k).1) (fun k => (B k).1) blk = p 16 := by
  unfold partialBlock
  rw [← h0]
  refine foldl_upTo fun j hj => ?_
  rw [h j, pairStep_eq (K := K) (by omega) (decide_eq_true (by omega)).symm]

/-- Whether an element of a line is poisoned. -/
def Dirty (K : Nat) (A B : Nat → FV × Bool) : Prop := ∃ k, k < K ∧ ((A k).2 || (B k).2) = true

theorem any_dirty : (upTo K).any (fun k => (A k).2 || (B k).2) = true ↔ Dirty K A B := by
  rw [List.any_eq_true]
  exact exists_congr fun k => and_congr_left fun _ => mem_upTo

theorem lineSum_plain (ha : sca = false) (hb : scb = false) {p : Nat → Nat} (h0 : p 0 = 0)
    (h : ∀ j, p (j + 1) = pairSum K A B (p j) (2 * j)) :
    (lineSum sca scb K A B sa sb).1 = p ((K + 1) / 2) ∧ ((lineSum sca scb K A B sa sb).2 = true ↔ Dirty K A B) := by
  subst ha hb
  exact ⟨partialPlain_eq h0 h, any_dirty⟩

theorem scaledBlock_poison (p : Nat) (x y : Option (Nat × Int)) : (scaledBlock p x y).2 = true ↔ x = none ∨ y = none := by
  cases x <;> cases y
  all_goals unfold scaledBlock
  all_goals simp
  split <;> rfl

theorem scaledBlock_value {q : Nat} {x y : Option (Nat × Int)} {p : Nat}
    (h : q = match x, y with
      | some (f, i), some (h, j) => if f = 0 ∨ h = 0 then 0 else (fp32.roundFV .rne 0 ((fp32.value p).mul (.num false (f * h) (i + j)))).bits
      | _, _ => fp32.nan) : (scaledBlock p x y).1 = q := by
  subst h
  unfold scaledBlock
  cases x with
  | none => rfl
  | some x =>
    cases y with
    | none => rfl
    | some y =>
      dsimp only
      by_cases hz : x.1 = 0 ∨ y.1 = 0
      · simp [hz]
      · simp [hz]

/-- One block of a scaled sum. -/
def blockStep (A B : Nat → FV × Bool) (sa sb : Nat → Option (Nat × Int) × Bool) (t : Nat × Bool) (blk : Nat) : Nat × Bool :=
  let q := scaledBlock (partialBlock (fun k => (A k).1) (fun k => (B k).1) blk) (sa blk).1 (sb blk).1
  ((fAdd fp32 .rne 0 t.1 q.1).bits, t.2 || (sa blk).2 || (sb blk).2 || q.2)

theorem lineSum_scaled (h : sca = true ∨ scb = true) : lineSum sca scb K A B sa sb =
    (((upTo (K / 32)).foldl (blockStep A B sa sb) (0, false)).1,
      ((upTo (K / 32)).foldl (blockStep A B sa sb) (0, false)).2 || (upTo K).any (fun k => (A k).2 || (B k).2)) := by
  have hs : (!sca && !scb) = false := by rcases h with h | h <;> simp [h]
  unfold lineSum
  rw [if_neg (by rw [hs]; exact Bool.false_ne_true)]
  rfl

theorem blocks_poison (n : Nat) : ((upTo n).foldl (blockStep A B sa sb) (0, false)).2 = true ↔
    ∃ blk, blk < n ∧ ((sa blk).2 = true ∨ (sb blk).2 = true ∨ (sa blk).1 = none ∨ (sb blk).1 = none) := by
  induction n with
  | zero => simp [upTo]
  | succ n ih =>
    rw [upTo] at ih
    rw [upTo, List.range_succ, List.foldl_append, List.foldl_cons, List.foldl_nil, blockStep]
    simp only [Bool.or_eq_true, ih, scaledBlock_poison]
    constructor
    · rintro (((⟨b, hb, h⟩ | h) | h) | h)
      · exact ⟨b, by omega, h⟩
      · exact ⟨n, by omega, .inl h⟩
      · exact ⟨n, by omega, .inr (.inl h)⟩
      · exact ⟨n, by omega, .inr (.inr h)⟩
    · rintro ⟨b, hb, h⟩
      by_cases hn : b = n
      · subst hn
        tauto
      · exact .inl (.inl (.inl ⟨b, by omega, h⟩))

theorem blocks_value {q t : Nat → Nat} (h0 : t 0 = 0)
    (hq : ∀ blk, blk < K / 32 → (scaledBlock (partialBlock (fun k => (A k).1) (fun k => (B k).1) blk) (sa blk).1 (sb blk).1).1 = q blk)
    (ht : ∀ blk, t (blk + 1) = (fAdd fp32 .rne 0 (t blk) (q blk)).bits) {n : Nat} (hn : n ≤ K / 32) :
    ((upTo n).foldl (blockStep A B sa sb) (0, false)).1 = t n := by
  induction n with
  | zero => exact h0.symm
  | succ n ih =>
    have ih := ih (by omega)
    rw [upTo] at ih
    rw [upTo, List.range_succ, List.foldl_append, List.foldl_cons, List.foldl_nil, ht, ← ih, ← hq n (by omega)]
    rfl

/-- The sum with scales, and its poison. -/
theorem lineSum_blocks (h : sca = true ∨ scb = true) :
    ((lineSum sca scb K A B sa sb).2 = true ↔ Dirty K A B ∨ ∃ blk, blk < K / 32 ∧
      ((sa blk).2 = true ∨ (sb blk).2 = true ∨ (sa blk).1 = none ∨ (sb blk).1 = none)) ∧
    ∀ (p : Nat → Nat → Nat) (q t : Nat → Nat), t 0 = 0 → (∀ blk, p blk 0 = 0) →
      (∀ blk j, p blk (j + 1) = pairSum K A B (p blk j) (32 * blk + 2 * j)) →
      (∀ blk, q blk = match (sa blk).1, (sb blk).1 with
        | some (f, i), some (h, j) =>
          if f = 0 ∨ h = 0 then 0 else (fp32.roundFV .rne 0 ((fp32.value (p blk 16)).mul (.num false (f * h) (i + j)))).bits
        | _, _ => fp32.nan) →
      (∀ blk, t (blk + 1) = (fAdd fp32 .rne 0 (t blk) (q blk)).bits) → (lineSum sca scb K A B sa sb).1 = t (K / 32) := by
  rw [lineSum_scaled h]
  refine ⟨?_, fun p q t h0 hp0 hp hq ht => ?_⟩
  · dsimp only
    rw [Bool.or_eq_true, blocks_poison, any_dirty]
    exact or_comm
  · refine blocks_value h0 (fun blk hblk => ?_) ht le_rfl
    rw [partialBlock_eq hblk (hp0 blk) (hp blk)]
    exact scaledBlock_value (hq blk)

end Sum

/-- R196 to R199, R217, R227: what a multiply writes to a row. -/
theorem rowValue_array {o : MOp} (h : o.array = true) (c : Core) {row : Nat} {old : List Lane} {sums : List (BitVec 64)}
    (ho : find row o.read = some old) (hs : find row o.sums = some sums) :
    rowValue o c row = some ((upTo 32).map (fun n => if n < shCols o.shape then elementNew o row n (nth 0 sums n) (nth Lane.zero old n)
      else nth Lane.zero (getD accRow (accKey o.ac.toNat row) c.acc) n)) := by
  have hn : rowValue.newRow o c row = some ((upTo 32).map (fun n => if n < shCols o.shape then
      elementNew o row n (nth 0 sums n) (nth Lane.zero old n)
      else nth Lane.zero (getD accRow (accKey o.ac.toNat row) c.acc) n)) := by
    simp only [rowValue.newRow, ho, hs]
  unfold rowValue
  cases hk : o.kind with
  | mma | mmacb => exact hn
  | mzero | mrd | mwr => simp [MOp.array, MOp.buffers, hk] at h

theorem nth_upTo_map {α : Type} {d : α} {f : Nat → α} {k n : Nat} (h : n < k) : nth d ((upTo k).map f) n = f n := nth_map_upTo d f h

/-- The elements of B that a statement gives by R206 are those that the model decodes. -/
theorem weights_eq {c : ObView} {b line : Nat} {table : Option (List Byte)} {bad : BitVec 8} {B : Nat → FV × Bool} (h : ∀ k,
    let at_ := 512 * line + 2 * (k / 8)
    let idx := obByte c b at_ + 256 * obByte c b (at_ + 1)
    let base := idx / 256
    let ent := match table with
      | none => (base ^^^ 0xFF) * 256 + base
      | some l => (nth 0 l (2 * base)).toNat + 256 * (nth 0 l (2 * base + 1)).toNat
    let sign (i : Nat) : Nat := if i < 7 then idx / 2 ^ (i + 1) % 2 else ((List.range 7).map (fun j => idx / 2 ^ (j + 1) % 2)).sum % 2
    let mag : Int := 2 * (ent / 2 ^ (2 * (k % 8)) % 4 : Nat) + 1
    let halves : Int := (if sign (k % 8) = 1 then -mag else mag) - (idx % 2 : Nat)
    B k = (.num (decide (halves < 0)) halves.natAbs (-1), obPoison c b at_ || bad.getLsbD (base / 32))) :
    B = obWeight c b line table bad := by
  funext k
  rw [h k]
  unfold obWeight
  dsimp only
  rw [weightHalves_eq]
  cases table <;> rfl

end Sys2Proof.Machine

namespace Sys2Proof.Machine

/-! O26: the steps of the matrix unit. -/

theorem splitAtFirst_holds {f : MOp → Bool} {l before : List MOp} {o : MOp} (h : splitAtFirst f l = some (before, o)) : f o = true := by
  induction l generalizing before with
  | nil => cases h
  | cons p l ih =>
    unfold splitAtFirst at h
    split at h
    next hp =>
      cases h
      exact hp
    next =>
      obtain ⟨⟨b, q⟩, hb, heq⟩ := Option.map_eq_some_iff.mp h
      cases heq
      exact ih hb

/-- The first entry of a kind keeps its key where an entry is replaced by one of the same kind. -/
theorem pick_put {α : Type} {p : α → Prop} [DecidablePred p] {m : Map α} {k : Nat} {x y : α}
    (hp : pick (fun e => if p e.2 then some e.1 else none) m = some k) (hf : find k m = some x) (hg : p y ↔ p x) :
    pick (fun e => if p e.2 then some e.1 else none) (put k y m) = some k := by
  induction m with
  | nil => cases hf
  | cons e m ih =>
    obtain ⟨j, b⟩ := e
    unfold find at hf
    unfold put
    split
    · by_cases hy : p y
      · simp [pick, hy]
      · rw [pick, if_neg hy]
        exact hp
    · split
      next h =>
        subst h
        rw [if_pos rfl] at hf
        cases hf
        unfold pick at hp ⊢
        simpa only [hg] using hp
      next hne =>
        rw [if_neg hne] at hf
        unfold pick at hp ⊢
        by_cases hb : p b
        · simpa [hb] using hp
        · rw [if_neg hb] at hp ⊢
          exact ih hp hf

theorem keyOfUid_updThread {s : State} {k u : Nat} {th : Thread} {f : Thread → Thread} (hk : keyOfUid s u = some k)
    (ht : threadAt s k = some th) (hf : (f th).uid = th.uid) : keyOfUid (updThread s k f) u = some k := by
  rw [updThread, ht]
  exact pick_put (p := fun th : Thread => th.uid = u) hk ht (by rw [hf])

/-! An operation that is put back. -/

theorem putOp_going {o : MOp} (h : MOp.ended o = false) (s : State) (t : Nat) :
    putOp s t o = updCore s t (fun c => { c with mq := c.mq.map (fun p => if p.ord == o.ord then o else p) }) := by
  rw [putOp, if_neg (by rw [h]; exact Bool.false_ne_true)]

theorem putOp_going_mq {o : MOp} (h : MOp.ended o = false) (s : State) (t : Nat) :
    (coreAt (putOp s t o) t).mq = (coreAt s t).mq.map (fun p => if p.ord == o.ord then o else p) := by
  rw [putOp_going h, coreAt_updCore]

/-- An operation of a live thread that has ended leaves the queue. -/
theorem putOp_ended {s : State} {t k : Nat} {o : MOp} {th : Thread} (h : MOp.ended o = true) (hk : keyOfUid s o.uid = some k)
    (ht : threadAt s k = some th) (hd : th.dying = false) :
    putOp s t o = wakeTile (updCore s t (fun c => { c with mq := c.mq.filter (fun p => p.ord != o.ord) })) t := by
  rw [putOp, if_pos h]
  dsimp only
  have hk' : keyOfUid (updCore s t (fun c => { c with mq := c.mq.filter (fun p => p.ord != o.ord) })) o.uid = some k := hk
  have ht' : threadAt (updCore s t (fun c => { c with mq := c.mq.filter (fun p => p.ord != o.ord) })) k = some th := ht
  rw [hk']
  dsimp only
  rw [ht', if_neg (by simp [hd])]

/-- Putting back an operation of a live thread leaves the accumulators. -/
theorem putOp_acc {s : State} {t k : Nat} {o : MOp} {th : Thread} (hk : keyOfUid s o.uid = some k)
    (ht : threadAt s k = some th) (hd : th.dying = false) : (coreAt (putOp s t o) t).acc = (coreAt s t).acc := by
  cases h : MOp.ended o with
  | false => rw [putOp_going h, coreAt_updCore]
  | true => rw [putOp_ended h hk ht hd, coreAt_wakeTile, coreAt_updCore]

/-! The operands. -/

theorem obPick_cores (o : MOp) (x : State × ObView) (b w : Nat) : (obPick o x b w).1.cores = x.1.cores := by
  unfold obPick
  dsimp only
  split <;> rfl

theorem obMix_cores (s : State) (t : Nat) (o : MOp) : (obMix s t o).1.cores = s.cores := by
  unfold obMix
  dsimp only
  generalize o.olds.foldl (fun (l : List (Nat × Nat)) e => if l.contains (e.1, e.2.1) then l else l ++ [(e.1, e.2.1)]) [] = l
  have hf : ∀ (l : List (Nat × Nat)) (x : State × ObView), (l.foldl (fun x w => obPick o x w.1 w.2) x).1.cores = x.1.cores := by
    intro l
    induction l with
    | nil => exact fun _ => rfl
    | cons w l ih => exact fun x => (ih _).trans (obPick_cores o x _ _)
  exact hf l _

theorem obMix_of_olds {o : MOp} (h : o.olds = []) (s : State) (t : Nat) : (obMix s t o).2 = obNow (coreAt s t) := by
  rw [obMix, h]
  rfl

theorem coreAt_findSegs (s : State) (t : Nat) (l : List Nat) :
    (coreAt (findSegs s t l) t).mq = (coreAt s t).mq ∧ (coreAt (findSegs s t l) t).acc = (coreAt s t).acc := by
  rw [findSegs, coreAt_updCore]
  exact ⟨rfl, rfl⟩

/-- The multiply once it has consumed its operands. -/
def consumes (o : MOp) (f : ObView) : MOp :=
  { o with
    consumed := true
    sums := o.readRows.map (fun m => (m, (List.range (shCols o.shape)).map (fun n =>
      BitVec.ofNat 64 ((elementSum f o m n).1 + if (elementSum f o m n).2 then 2 ^ 32 else 0))))
    olds := [] }

section Awake

variable {s : State} {t row : Nat} {o : MOp} (ha : asleep s t = false)
include ha

theorem exec_matrixOpStart (h : startable (coreAt s t) = some o) :
    exec (.matrixOpStart t) s = .next (putOp s t { o with started := true }) := by
  have hx : exec (.matrixOpStart t) s = execMatrixOpStart t s := rfl
  rw [hx, execMatrixOpStart, if_neg (by rw [ha]; exact Bool.false_ne_true), h]

theorem exec_matrixOperandConsume (h : (coreAt s t).mq.find? (fun p => p.started && p.array && !p.consumed) = some o) :
    exec (.matrixOperandConsume t) s = .next (wakeTile (updCore (putOp (obMix (findSegs s t o.buffers) t o).1 t
      (consumes o (obMix (findSegs s t o.buffers) t o).2)) t settleEnds) t) := by
  have hx : exec (.matrixOperandConsume t) s = execMatrixOperandConsume t s := rfl
  rw [hx, execMatrixOperandConsume, if_neg (by rw [ha]; exact Bool.false_ne_true), h]
  rfl

/-- The operation once it has read a row. -/
def reads (s : State) (t row : Nat) (o : MOp) : MOp :=
  { o with read := put row (getD accRow (accKey o.ac.toNat row) (coreAt s t).acc) o.read }

/-- What the row gives its thread: an MRD's register, once both rows are read. -/
def rowResult (s : State) (o : MOp) : State :=
  match o.kind with
  | .mrd v h bad => mrdResult o v h bad s
  | .mma _ _ _ | .mmacb _ _ _ _ _ | .mzero | .mwr _ _ _ => s

theorem exec_matrixRowRead {before : List MOp} (h : splitAtFirst (fun p => p.open_ && p.toRead row) (coreAt s t).mq = some (before, o))
    (hb : rowBusy before o.ac row false = false) :
    exec (.matrixRowRead t row) s = .next (putOp (rowResult s (reads s t row o)) t (reads s t row o)) := by
  have hx : exec (.matrixRowRead t row) s = execMatrixRowRead t row s := rfl
  rw [hx, execMatrixRowRead]
  dsimp only
  rw [if_neg (by rw [ha]; exact Bool.false_ne_true), h]
  dsimp only
  rw [if_neg (by rw [hb]; exact Bool.false_ne_true)]
  rfl

/-- The rows that a step of an operation writes. -/
def rowsWritten (o : MOp) (row : Nat) : List Nat := if o.kind = .mzero then upTo 32 else [row]

theorem exec_matrixRowWrite {before : List MOp} {l : List Lane}
    (h : splitAtFirst (fun p => p.open_ && p.toWrite row) (coreAt s t).mq = some (before, o))
    (hb : (rowsWritten o row).any (fun m => rowBusy before o.ac m true) = false) (hv : rowValue o (coreAt s t) row = some l) :
    exec (.matrixRowWrite t row) s = .next (putOp (updCore s t (fun c => { c with
      acc := (rowsWritten o row).foldl (fun a m => setD accRow (accKey o.ac.toNat m) l a) c.acc })) t
      { o with wrote := o.wrote ++ rowsWritten o row }) := by
  have hx : exec (.matrixRowWrite t row) s = execMatrixRowWrite t row s := rfl
  unfold rowsWritten at hb
  rw [hx, execMatrixRowWrite]
  dsimp only
  rw [if_neg (by rw [ha]; exact Bool.false_ne_true), h]
  dsimp only
  rw [if_neg (by rw [hb]; exact Bool.false_ne_true), hv]
  rfl

end Awake

theorem matrix_asleep {s : State} {t : Nat} (h : asleep s t = true) (row : Nat) :
    exec (.matrixOpStart t) s = .next s ∧ exec (.matrixOperandConsume t) s = .next s ∧
      exec (.matrixRowRead t row) s = .next s ∧ exec (.matrixRowWrite t row) s = .next s :=
  ⟨congrArg _ (if_pos h), congrArg _ (if_pos h), congrArg _ (if_pos h), congrArg _ (if_pos h)⟩

/-! MRD. -/

/-- The row that an MRD reads beside a row. -/
def otherRow (h row : Nat) : Nat := if row = 2 * h then 2 * h + 1 else 2 * h

/-- What MRD writes of a row. -/
def mrdLine (o : MOp) (b : Bool) (m : Nat) : List Lane := ((find m o.read).getD []).map (fun (l : Lane) => { l with poison := l.poison || b })

theorem find_reads (s : State) (t row : Nat) (o : MOp) (m : Nat) : find m (reads s t row o).read =
    if m = row then some (getD accRow (accKey o.ac.toNat row) (coreAt s t).acc) else find m o.read :=
  find_put ..

theorem otherRow_ne (h row : Nat) : otherRow h row ≠ row := by
  unfold otherRow
  split <;> omega

theorem rowResult_mrd {o : MOp} {v : VReg} {h : Nat} {b : Bool} (hk : o.kind = .mrd v h b) (s : State) :
    rowResult s o = mrdResult o v h b s := by
  simp only [rowResult, hk]

theorem mrdResult_waits {o : MOp} {v : VReg} {h : Nat} {b : Bool} {s : State} (hn : find (2 * h) o.read = none ∨ find (2 * h + 1) o.read = none) :
    mrdResult o v h b s = s := by
  unfold mrdResult
  rcases hn with hn | hn
  · rw [hn]
  · rw [hn]
    cases find (2 * h) o.read <;> rfl

theorem mrdResult_both {o : MOp} {h : Nat} {x y : List Lane} (hx : find (2 * h) o.read = some x) (hy : find (2 * h + 1) o.read = some y)
    (b : Bool) (v : VReg) (s : State) : mrdResult o v h b s = updOwner s o.uid (fun th => { th with
      regs := th.regs.wrV v (mrdLine o b (2 * h) ++ mrdLine o b (2 * h + 1)) }) := by
  unfold mrdResult mrdLine
  rw [hx, hy, Option.getD_some, Option.getD_some, ← List.map_append]

section Mrd

variable {s : State} {t row h : Nat} {o : MOp} {v : VReg} {b : Bool} (hk : o.kind = .mrd v h b)
include hk

theorem toRead_mrd (m : Nat) : o.toRead m = ((m == 2 * h || m == 2 * h + 1) && (find m o.read).isNone) := by
  rw [MOp.toRead, MOp.readRows, hk, Bool.eq_iff_iff]
  simp

theorem mrd_rows (hr : o.toRead row = true) : row = 2 * h ∧ otherRow h row = 2 * h + 1 ∨ row = 2 * h + 1 ∧ otherRow h row = 2 * h := by
  rw [toRead_mrd hk] at hr
  simp only [Bool.and_eq_true, Bool.or_eq_true, beq_iff_eq] at hr
  unfold otherRow
  rcases hr.1 with e | e
  · exact .inl ⟨e, if_pos e⟩
  · exact .inr ⟨e, if_neg (by omega)⟩

theorem mrd_waits (hr : o.toRead row = true) (hh : h < 16) (ho : find (otherRow h row) o.read = none) :
    rowResult s (reads s t row o) = s ∧ MOp.ended (reads s t row o) = false := by
  have hother : find (otherRow h row) (reads s t row o).read = none := by
    rw [find_reads, if_neg (otherRow_ne h row), ho]
  have hk' : (reads s t row o).kind = .mrd v h b := hk
  have hrows := mrd_rows hk hr
  constructor
  · rw [rowResult_mrd hk']
    refine mrdResult_waits ?_
    rcases hrows with ⟨-, e⟩ | ⟨-, e⟩
    · exact .inr (e ▸ hother)
    · exact .inl (e ▸ hother)
  · rw [MOp.ended, Bool.and_eq_false_iff]
    refine .inr (List.all_eq_false.mpr ⟨otherRow h row, ?_, ?_⟩)
    · rw [mem_upTo]
      rcases hrows with ⟨-, e⟩ | ⟨-, e⟩ <;> rw [e] <;> omega
    · rw [toRead_mrd hk', hother]
      rcases hrows with ⟨-, e⟩ | ⟨-, e⟩ <;> rw [e] <;> simp

theorem mrd_ends (ho : o.open_ = true) (hr : o.toRead row = true) (hne : find (otherRow h row) o.read ≠ none) :
    MOp.ended (reads s t row o) = true := by
  have hk' : (reads s t row o).kind = .mrd v h b := hk
  have hrow : ∀ m, m = 2 * h ∨ m = 2 * h + 1 → (find m (reads s t row o).read).isNone = false := by
    intro m hm
    rw [find_reads]
    by_cases e : m = row
    · rw [if_pos e]; rfl
    · have hm' : m = otherRow h row := by rcases mrd_rows hk hr with ⟨e1, e2⟩ | ⟨e1, e2⟩ <;> omega
      rw [if_neg e, hm']
      exact Option.isNone_eq_false_iff.mpr (Option.isSome_iff_ne_none.mpr hne)
  rw [MOp.ended, Bool.and_eq_true]
  refine ⟨ho, List.all_eq_true.mpr fun m _ => ?_⟩
  have hw : (reads s t row o).toWrite m = false := by rw [MOp.toWrite, MOp.writeRows, hk']; rfl
  rw [hw, toRead_mrd hk']
  by_cases e : m = 2 * h ∨ m = 2 * h + 1
  · simp [hrow m e]
  · rw [not_or] at e
    simp [e]

theorem mrd_result (hr : o.toRead row = true) (hne : find (otherRow h row) o.read ≠ none) :
    rowResult s (reads s t row o) = updOwner s o.uid (fun th => { th with
      regs := th.regs.wrV v (mrdLine (reads s t row o) b (2 * h) ++ mrdLine (reads s t row o) b (2 * h + 1)) }) := by
  obtain ⟨x, hx⟩ := Option.ne_none_iff_exists'.mp hne
  have hk' : (reads s t row o).kind = .mrd v h b := hk
  have hown : find row (reads s t row o).read = some (getD accRow (accKey o.ac.toNat row) (coreAt s t).acc) := by
    rw [find_reads, if_pos rfl]
  have hother : find (otherRow h row) (reads s t row o).read = some x := by rw [find_reads, if_neg (otherRow_ne h row), hx]
  rw [rowResult_mrd hk']
  rcases mrd_rows hk hr with ⟨e1, e2⟩ | ⟨e1, e2⟩
  · exact mrdResult_both ((congrArg (find · (reads s t row o).read) e1.symm).trans hown)
      ((congrArg (find · (reads s t row o).read) e2.symm).trans hother) b v s
  · exact mrdResult_both ((congrArg (find · (reads s t row o).read) e2.symm).trans hother)
      ((congrArg (find · (reads s t row o).read) e1.symm).trans hown) b v s

end Mrd

theorem reads_going {s : State} {t row : Nat} {o : MOp} (hk : ∀ v h b, o.kind ≠ .mrd v h b) : rowResult s (reads s t row o) = s := by
  unfold rowResult
  have hk' : (reads s t row o).kind = o.kind := rfl
  rw [hk']
  cases h : o.kind with
  | mrd v h b => exact absurd ‹_› (hk v _ b)
  | mma | mmacb | mzero | mwr => rfl

/-- The rows that are zeroed are zero. -/
theorem getD_foldl_setD {α : Type} [DecidableEq α] (d : α) (key : Nat → Nat) (x : α) (l : List Nat) (m : Map α) (k : Nat) :
    getD d k (l.foldl (fun a i => setD d (key i) x a) m) = if k ∈ l.map key then x else getD d k m := by
  induction l generalizing m with
  | nil => rfl
  | cons i l ih =>
    rw [List.foldl_cons, ih, getD_setD, List.map_cons]
    by_cases h1 : k ∈ l.map key
    · simp [h1]
    · simp [h1]

/-- The accumulators once an operation of a live thread has written rows. -/
theorem acc_after_write {s : State} {t k : Nat} {o : MOp} {th : Thread} (hk : keyOfUid s o.uid = some k) (ht : threadAt s k = some th)
    (hd : th.dying = false) (rows : List Nat) (l : List Lane) (j : Nat) :
    getD accRow j (coreAt (putOp (updCore s t (fun c => { c with
      acc := rows.foldl (fun a m => setD accRow (accKey o.ac.toNat m) l a) c.acc })) t { o with wrote := o.wrote ++ rows }) t).acc =
    if j ∈ rows.map (accKey o.ac.toNat) then l else getD accRow j (coreAt s t).acc := by
  have hacc := putOp_acc (s := updCore s t (fun c => { c with
      acc := rows.foldl (fun a m => setD accRow (accKey o.ac.toNat m) l a) c.acc })) (t := t)
    (o := { o with wrote := o.wrote ++ rows }) hk ht hd
  rw [hacc, coreAt_updCore]
  exact getD_foldl_setD accRow (accKey o.ac.toNat) l rows (coreAt s t).acc j

/-- A row of an operation is written, and no other changes. -/
theorem rowWrite_row {s : State} {t row k : Nat} {o : MOp} {th : Thread} {before : List MOp} {l : List Lane} (ha : asleep s t = false)
    (h : splitAtFirst (fun p => p.open_ && p.toWrite row) (coreAt s t).mq = some (before, o)) (hkey : keyOfUid s o.uid = some k)
    (hth : threadAt s k = some th) (hd : th.dying = false) (hk : o.kind ≠ .mzero) (hb : rowBusy before o.ac row true = false)
    (hl : rowValue o (coreAt s t) row = some l) : ∃ u, exec (.matrixRowWrite t row) s = .next u ∧
      getD accRow (accKey o.ac.toNat row) (coreAt u t).acc = l ∧
      ∀ j, j ≠ accKey o.ac.toNat row → getD accRow j (coreAt u t).acc = getD accRow j (coreAt s t).acc := by
  have hr : rowsWritten o row = [row] := if_neg hk
  have hx := exec_matrixRowWrite ha h (by rw [hr]; simp [hb]) hl
  rw [hr] at hx
  have hacc := acc_after_write (t := t) hkey hth hd [row] l
  exact ⟨_, hx, (hacc _).trans (if_pos (by simp)), fun j hj => (hacc j).trans (if_neg (by simpa using hj))⟩

/-- MZERO writes zero to every row. -/
theorem rowWrite_zero {s : State} {t row k : Nat} {o : MOp} {th : Thread} {before : List MOp} (ha : asleep s t = false)
    (h : splitAtFirst (fun p => p.open_ && p.toWrite row) (coreAt s t).mq = some (before, o)) (hkey : keyOfUid s o.uid = some k)
    (hth : threadAt s k = some th) (hd : th.dying = false) (hk : o.kind = .mzero)
    (hb : ∀ m, m < 32 → rowBusy before o.ac m true = false) : ∃ u, exec (.matrixRowWrite t row) s = .next u ∧
      ∀ m, m < 32 → getD accRow (accKey o.ac.toNat m) (coreAt u t).acc = accRow := by
  have hr : rowsWritten o row = upTo 32 := if_pos hk
  have hbusy : (rowsWritten o row).any (fun m => rowBusy before o.ac m true) = false := by
    rw [hr, List.any_eq_false]
    intro m hm
    rw [hb m (mem_upTo.mp hm)]
    exact Bool.false_ne_true
  have hx := exec_matrixRowWrite (l := accRow) ha h hbusy (by simp only [rowValue, hk])
  rw [hr] at hx
  have hacc := acc_after_write (t := t) hkey hth hd (upTo 32) accRow
  exact ⟨_, hx, fun m hm => (hacc _).trans (if_pos (List.mem_map_of_mem (mem_upTo.mpr hm)))⟩

/-- Settles O26: each step by its own rule, the sum of an element by the folds of R195 and R196 as sequences, and the row by its lanes. -/
theorem matrixUnitSteps : Obligations.MatrixUnitSteps := by
  unfold Obligations.MatrixUnitSteps
  refine ⟨fun s t row o => ?_, fun c o ty oba obb m n B sb scb => ?_, fun o c row old sums ha ho hs => ?_⟩
  · intro c f put' got
    refine ⟨fun ha => matrix_asleep ha row, fun ha => ⟨fun h he => ?_, ?_, fun h => obMix_of_olds h _ _, fun before => ⟨fun h hb => ⟨fun hk he => ?_, ?_⟩, ?_⟩⟩⟩
    · exact ⟨_, exec_matrixOpStart ha h, putOp_going_mq he s t⟩
    · intro sums used h he
      refine ⟨_, exec_matrixOperandConsume ha h, ?_⟩
      have hused : consumes o (obMix (findSegs s t o.buffers) t o).2 = used := rfl
      obtain ⟨hmq, hacc⟩ := coreAt_findSegs s t o.buffers
      have hcore : coreAt (obMix (findSegs s t o.buffers) t o).1 t = coreAt (findSegs s t o.buffers) t :=
        coreAt_of_cores (obMix_cores ..) t
      rw [hused, coreAt_wakeTile, coreAt_updCore]
      constructor
      · have hput := putOp_going_mq he (obMix (findSegs s t o.buffers) t o).1 t
        rw [hcore, hmq] at hput
        exact hput
      · have hput : (coreAt (putOp (obMix (findSegs s t o.buffers) t o).1 t used) t).acc = (coreAt (obMix (findSegs s t o.buffers) t o).1 t).acc := by
          rw [putOp_going he, coreAt_updCore]
        rw [hcore, hacc] at hput
        exact hput
    · refine ⟨_, exec_matrixRowRead ha h hb, ?_⟩
      rw [reads_going hk]
      exact putOp_going_mq he s t
    · intro v hh b k th hk hlt hkey hth hd other line
      have hopen := splitAtFirst_holds h
      rw [Bool.and_eq_true] at hopen
      obtain ⟨hopen, hread⟩ := hopen
      refine ⟨fun hn => ⟨_, exec_matrixRowRead ha h hb, ?_⟩, fun hn => ⟨_, exec_matrixRowRead ha h hb, ?_⟩⟩
      · obtain ⟨hres, hend⟩ := mrd_waits (s := s) (t := t) hk hread hlt hn
        rw [hres]
        refine ⟨putOp_going_mq hend s t, th, ?_, rfl⟩
        rw [putOp_going hend]
        exact hth
      · rw [mrd_result hk hread hn]
        have hend := mrd_ends (s := s) (t := t) hk hopen hread hn
        generalize hw : (fun th : Thread => { th with
          regs := th.regs.wrV v (mrdLine (reads s t row o) b (2 * hh) ++ mrdLine (reads s t row o) b (2 * hh + 1)) }) = w
        have hwu : (w th).uid = th.uid := by rw [← hw]
        have hwd : (w th).dying = false := by rw [← hw]; exact hd
        have hupd : updOwner s o.uid w = updThread s k w := by rw [updOwner, hkey]
        have hkey' := keyOfUid_updThread hkey hth hwu
        have hth' : threadAt (updThread s k w) k = some (w th) := by rw [threadAt_updThread, if_pos rfl, hth]; rfl
        rw [hupd, putOp_ended hend hkey' hth' hwd]
        constructor
        · rw [coreAt_wakeTile, coreAt_updCore]
          intro p hp
          exact bne_iff_ne.mp (List.mem_filter.mp hp).2
        · obtain ⟨st, hst⟩ := threadAt_wakeTile (t := t) (s := updCore (updThread s k w) t (fun c => { c with mq := c.mq.filter (fun p => p.ord != (reads s t row o).ord) })) hth'
          exact ⟨_, hst, by rw [← hw]; rfl⟩
    · rintro h ⟨k, th, hkey, hth, hd⟩
      exact ⟨fun hk hb l hl => rowWrite_row ha h hkey hth hd hk hb hl, fun hk hb => rowWrite_zero ha h hkey hth hd hk hb⟩
  · intro K la lb one hB A sa prod round pair dirty
    have hsum : elementSum c o m n = lineSum (shSca o.shape) scb K A B sa sb := by
      rcases hB with ⟨hk, hscb, hB, hsb⟩ | ⟨table, bad, hk, hscb, hsb, hB⟩
      · rw [elementSum_mma hk, funext hB, funext hsb, hscb]
        rfl
      · rw [elementSum_mmacb hk, weights_eq hB, funext hsb, hscb]
        rfl
    rw [hsum]
    exact ⟨fun ha hb p h0 h => lineSum_plain ha hb h0 h, fun h => lineSum_blocks h⟩
  · refine ⟨_, rowValue_array ha c ho hs, fun n hn => ?_⟩
    rw [nth_upTo_map hn]
    rfl

end Sys2Proof.Machine

namespace Sys2Proof.Machine

/-! O48: walks, drains, scrubbing, lost loads and asynchronous faults. -/

section Walk

variable {s : State} {t c va : Nat} {g : Graph} (ht : isKs t = false) (hg : graphAt s c = some g) (hva : 0x2000000 ≤ va)
  (hvb : va < 0x4000000 ∨ 0x8000000 ≤ va)
include ht hg hva hvb

theorem exec_translationWalkDone : exec (.translationWalkDone t c va) s = .next (match walk s g.root va with
    | .leaf pa e l => match leafCheck s ⟨t, 0, c, g.root, false⟩ ⟨true, false, false, none⟩ pa e with
      | .ok _ _ => installTlb s t ⟨c, va / 2 ^ (13 + 10 * l), l, e⟩
      | _ => s
    | .bad w l a => walkFound s (.bad w l a)
    | .moving => s) := by
  have hx : exec (.translationWalkDone t c va) s = execTranslationWalkDone t c va s := rfl
  have hr : ¬ (va < 0x2000000 ∨ (0x4000000 ≤ va ∧ va < 0x8000000)) := by omega
  rw [hx, execTranslationWalkDone]
  simp only [ht, hg, Bool.false_eq_true, if_false, Option.map_some]
  refine (congrArg Host.Outcome.next (if_neg (by simpa only [Bool.or_eq_true, Bool.and_eq_true, decide_eq_true_eq] using hr))).trans ?_
  cases walk s g.root va with
  | leaf pa e l =>
    rcases hl : leafCheck s ⟨t, 0, c, g.root, false⟩ ⟨true, false, false, none⟩ pa e <;> simp only [hl]
  | bad w l a => rfl
  | moving => rfl

end Walk

theorem walkFound_bad (s : State) (w l a : Nat) : walkFound s (.bad w l a) = if w = 5 then discover s a 8 else s := by
  by_cases h : w = 5
  · subst h; rfl
  · rw [if_neg h]
    unfold walkFound
    split
    next heq => exact absurd (Walk.bad.inj heq).1 h
    all_goals rfl

/-- A drain token that is home acknowledges, and another thread's drains stay. -/
def acked (s : State) (uid : Nat) (d : Drain) : Drain :=
  if d.uid = uid then { d with ports := d.ports.filter (fun p => !tokenHome s p) } else d

theorem exec_tlbDrainAck {s : State} {k : Nat} {th : Thread} (h : threadAt s k = some th) :
    exec (.tlbDrainAck k) s = .next { s with drains := s.drains.map (acked s th.uid) } := by
  have hx : exec (.tlbDrainAck k) s = execTlbDrainAck k s := rfl
  rw [hx, execTlbDrainAck, h]
  rfl

theorem acked_uid (s : State) (uid : Nat) (d : Drain) : (acked s uid d).uid = d.uid := by
  unfold acked
  split <;> rfl

theorem exec_scrubLine (n : Nat) (bad : Bool) (s : State) : exec (.scrubLine n bad) s = .next
    (if (bad || isStruck s (.line n)) && 64 * n < 0x039000000000 then foundLine s (64 * n) else s) := rfl

/-! A lost load. -/

theorem accAt_retire_same (s : State) (id : Nat) : accAt (retire s id) id = none := by
  cases h : accAt s id with
  | none => rw [retire, h]; exact h
  | some b =>
    unfold accAt
    rw [retire_inflight h, List.find?_eq_none]
    intro x hx
    have := (List.mem_filter.mp hx).2
    simpa using this

theorem accAt_drainAll_cases (n : Nat) (s : State) (id : Nat) :
    accAt (drainAll n s) id = accAt s id ∨ accAt (drainAll n s) id = none := by
  induction n generalizing s with
  | zero => exact .inl rfl
  | succ n ih =>
    rw [drainAll]
    split
    · exact .inl rfl
    · next j _ =>
      by_cases hj : j = id
      · subst hj
        have h := ih (retire s j)
        rw [accAt_retire_same] at h
        exact .inr (or_self_iff.mp h)
      · rw [← accAt_retire_ne (s := s) hj]
        exact ih _

/-- An access is in flight as it was, or has left. -/
theorem accAt_settle_cases (s : State) (id : Nat) : accAt (settle s id) id = accAt s id ∨ accAt (settle s id) id = none := by
  unfold settle
  split
  · exact .inl rfl
  · split
    · exact accAt_drainAll_cases _ s id
    · exact .inl rfl

theorem settle_waits {s : State} {id : Nat} {a : Access} (h : accAt s id = some a) (hd : a.elems.all (fun e => e.done) = false) :
    settle s id = s := by
  rw [settle, h]
  dsimp only
  rw [if_neg (by rw [hd]; exact Bool.false_ne_true)]

theorem timedOut_none {s : State} {id : Nat} (h : find id s.olds = none) (t : Nat) : timedOut s id t = false := by
  rw [timedOut, h]

/-- A load whose element was cut, sent again. -/
def sentAgain (e : Elem) : Elem := { e with sent := false, cut := false }

theorem packetFate_load {s : State} {id : Nat} {a : Access} {e : Elem} (ha : accAt s id = some a) (hk : a.kind = .load)
    (he : a.elems = [e]) (hc : e.cut = true) (hs : siteLost s e.pa e.path = false) :
    packetFate false id s 0 = updElem s id 0 sentAgain := by
  have hl : lostNow s false e = true := by rw [lostNow, hc]; rfl
  have hp : travels a 0 e = [(0, e)] := by simp [travels, hk, packet, he, upTo]
  rw [packetFate, ha]
  simp only [he, List.getElem?_cons_zero, hp, hl, hk, hs, List.filter_cons, List.filter_nil]
  rfl

theorem accAt_updElem_single {s : State} {id : Nat} {a : Access} {e : Elem} (ha : accAt s id = some a) (he : a.elems = [e]) (f : Elem → Elem) :
    accAt (updElem s id 0 f) id = some { a with elems := [f e] } := by
  have hx := accAt_updAcc (f := fun b => { b with elems := modNth f b.elems 0 }) (fun _ => rfl) ha
  refine hx.trans ?_
  rw [he]
  rfl

theorem exec_lostTransactionTimeout_load {s : State} {id : Nat} {a : Access} {e : Elem} (ha : accAt s id = some a)
    (ho : find id s.olds = none) (hk : a.kind = .load) (he : a.elems = [e]) (hc : e.cut = true) (hs : siteLost s e.pa e.path = false) :
    exec (.lostTransactionTimeout id) s = .next (settle (updElem s id 0 sentAgain) id) := by
  have hx : exec (.lostTransactionTimeout id) s = execLostTransactionTimeout id s := rfl
  rw [hx, execLostTransactionTimeout, ha]
  simp only [timedOut_none ho, he, List.any_cons, hc, Bool.true_or, Bool.not_true, Bool.and_false, Bool.false_eq_true, if_false]
  exact (packetFate_load ha hk he hc hs).symm ▸ rfl

/-! An asynchronous fault. -/

theorem asyncFault_unsaved {s : State} {u k : Nat} {f : AFault} {th : Thread} (hk : keyOfUid s u = some k) (ht : threadAt s k = some th)
    (hn : s.saved.any (fun v => v.th.uid == u) = false) : asyncFault s u f = match th.status with
      | .frozen => setThread s k { th with held := th.held ++ [f] }
      | .ready | .waiting _ =>
        takeFault s k f.cls th.pc ((th.bundle.map (fun b => b.words.length)).getD 0) 7 0 f.addr f.aux := by
  have hsame : s.saved.map (fun v => if v.th.uid = u then { v with th := { v.th with held := v.th.held ++ [f] } } else v) = s.saved := by
    refine (List.map_congr_left fun v hv => ?_).trans (List.map_id _)
    have := List.any_eq_false.mp hn v hv
    exact if_neg (by simpa using this)
  have hstate : { s with saved := s.saved } = s := rfl
  unfold asyncFault
  rw [hsame, hstate]
  rcases hst : th.status <;> simp only [hst, hk, ht, hn, Bool.false_and, Bool.false_eq_true, if_false]

theorem exec_asyncFaultArrival {s : State} {i u : Nat} {f : AFault} (h : s.net[i]? = some (.afault u f)) :
    exec (.asyncFaultArrival i) s = .next (asyncFault (takeMsg s i) u f) := by
  have hx : exec (.asyncFaultArrival i) s = execAsyncFaultArrival i s := rfl
  rw [hx, execAsyncFaultArrival, h]

/-- Settles O48: each step by its own rule; a walk by the result that it has. -/
theorem memorySteps : Obligations.MemorySteps := by
  unfold Obligations.MemorySteps
  refine ⟨fun s t c va g ht hg hva hvb => ?_, fun s k th h => ?_, fun s n pa => ?_, fun s id a e ha ho => ?_, fun s i u k f th hm hk ht hn => ?_⟩
  · have hx := exec_translationWalkDone ht hg hva hvb
    refine ⟨fun pa e l hw => ?_, fun hw => ?_, fun w l a hw => ?_⟩
    · rw [hw] at hx
      dsimp only at hx
      refine ⟨fun q p hc => ?_, fun hc => ?_⟩
      · rw [hc] at hx
        exact hx
      · split at hx
        next heq => exact absurd heq (hc _ _)
        next => exact hx
    · rw [hw] at hx
      exact hx
    · rw [hw] at hx
      exact hx.trans (congrArg _ (walkFound_bad s w l a))
  · refine ⟨_, exec_tlbDrainAck h, rfl, fun d hd hu p hp => ?_, fun d hu => ?_⟩
    · obtain ⟨d', -, rfl⟩ := List.mem_map.mp hd
      rw [acked_uid] at hu
      rw [acked, if_pos hu] at hp
      simpa using (List.mem_filter.mp hp).2
    · constructor
      · intro hd
        obtain ⟨d', hd', rfl⟩ := List.mem_map.mp hd
        rw [acked_uid] at hu
        rw [acked, if_neg hu]
        exact hd'
      · exact fun hd => List.mem_map.mpr ⟨d, hd, if_neg hu⟩
  · refine ⟨fun h => ?_, fun h bad => ?_, fun h => ⟨foundLine s (64 * n), ?_, ?_, ?_⟩⟩
    · rw [exec_scrubLine, h]
      rfl
    · rw [exec_scrubLine, if_neg (by simp; omega)]
    · rw [exec_scrubLine, if_pos (by simp; exact h)]
    · exact foundLine_mem ..
    · rw [linePoison_foundLine]
      by_cases hp : pa / 64 = n <;> simp [hp]
  · refine ⟨fun hc => ?_, fun hk he hc hs => ⟨_, exec_lostTransactionTimeout_load ha ho hk he hc hs, ?_, fun hd => ?_, fun b hb => ?_⟩⟩
    · have hx : exec (.lostTransactionTimeout id) s = execLostTransactionTimeout id s := rfl
      have hany : a.elems.any (fun e => e.cut) = false := List.any_eq_false.mpr fun f hf => by rw [hc f hf]; exact Bool.false_ne_true
      rw [hx, execLostTransactionTimeout, ha]
      simp only [timedOut_none ho, hany, Bool.not_false, Bool.and_self, if_true]
    · exact settle_mem ..
    · have hacc := accAt_updElem_single ha he sentAgain
      rw [settle_waits hacc (by simp [sentAgain, hd])]
      exact hacc
    · have hacc := accAt_updElem_single ha he sentAgain
      rcases accAt_settle_cases (updElem s id 0 sentAgain) id with h | h
      · rw [h, hacc] at hb
        cases hb
        rfl
      · rw [h] at hb
        cases hb
  · have hx := exec_asyncFaultArrival hm
    rw [asyncFault_unsaved (s := takeMsg s i) hk ht hn] at hx
    refine ⟨fun hs => ?_, fun hs => ?_⟩
    · cases th
      cases hs
      exact hx
    · cases th
      cases hs
      exact hx

end Sys2Proof.Machine

namespace Sys2Proof.Machine

/-! Which bundles are legal (R111, R112, R119, R139, R156) (O47). -/

theorem leastNat_spec {l : List Nat} {m : Nat} (h : leastNat l = some m) : m ∈ l ∧ ∀ x ∈ l, m ≤ x := by
  induction l generalizing m with
  | nil => cases h
  | cons a l ih =>
    unfold leastNat at h
    split at h
    next hn =>
      cases h
      have hl : l = [] := by
        cases l with
        | nil => rfl
        | cons b l =>
          unfold leastNat at hn
          split at hn <;> cases hn
      subst hl
      exact ⟨by simp, by simp⟩
    next b hb =>
      cases h
      obtain ⟨hm, hle⟩ := ih hb
      split
      next hab =>
        refine ⟨by simp, fun x hx => ?_⟩
        rcases List.mem_cons.mp hx with rfl | hx
        · exact le_rfl
        · exact hab.trans (hle x hx)
      next hab =>
        refine ⟨by simp [hm], fun x hx => ?_⟩
        rcases List.mem_cons.mp hx with rfl | hx
        · omega
        · exact hle x hx

theorem leastNat_none {l : List Nat} : leastNat l = none ↔ l = [] := by
  cases l with
  | nil => simp [leastNat]
  | cons a l =>
    unfold leastNat
    split <;> simp

theorem pick_none_iff {α β : Type} {f : α → Option β} {l : List α} : pick f l = none ↔ ∀ a ∈ l, f a = none := by
  refine ⟨fun h => ?_, pick_none⟩
  induction l with
  | nil => simp
  | cons a l ih =>
    unfold pick at h
    split at h
    · cases h
    · next ha =>
      intro b hb
      rcases List.mem_cons.mp hb with rfl | hb
      · exact ha
      · exact ih h b hb

theorem firstIllegal_none {noM : Bool} {ws : List Word} : firstIllegal noM ws = none ↔ ∀ i < ws.length, reasonsAt noM ws i = [] := by
  simp only [firstIllegal, pick_none_iff, mem_upTo, Option.map_eq_none_iff, leastNat_none]

/-- The rule reported is the lowest reason at the first index that breaks one. -/
theorem firstIllegal_some {noM : Bool} {ws : List Word} {i why : Nat} (h : firstIllegal noM ws = some (i, why)) :
    i < ws.length ∧ why ∈ reasonsAt noM ws i ∧ (∀ x ∈ reasonsAt noM ws i, why ≤ x) ∧ ∀ j < i, reasonsAt noM ws j = [] := by
  obtain ⟨a, ha, hfa⟩ := pick_some h
  obtain ⟨e, he, hp, hne, hall⟩ := pick_first (f := fun i => (leastNat (reasonsAt noM ws i)).map (fun r => (i, r)))
    (List.pairwise_lt_range (n := ws.length)) ha (by rw [hfa]; simp)
  have heq : (leastNat (reasonsAt noM ws e)).map (fun r => (e, r)) = some (i, why) := hp.symm.trans h
  obtain ⟨r, hr, hir⟩ := Option.map_eq_some_iff.mp heq
  cases hir
  obtain ⟨hmem, hle⟩ := leastNat_spec hr
  refine ⟨mem_upTo.mp he, hmem, hle, fun j hj => ?_⟩
  by_contra hne
  have hjl : j < ws.length := hj.trans (mem_upTo.mp he)
  have hjn : (leastNat (reasonsAt noM ws j)).map (fun r => (j, r)) ≠ none := by
    rw [Ne, Option.map_eq_none_iff, leastNat_none]
    exact hne
  rcases hall j (mem_upTo.mpr hjl) hjn with h | h <;> omega

theorem mem_instrsOf {ws : List Word} {e : Nat × Instr} :
    e ∈ instrsOf ws ↔ e.1 < ws.length ∧ isX (nth 0 ws e.1) = false ∧ decodeAt ws e.1 = .ok e.2 := by
  obtain ⟨i, x⟩ := e
  rw [instrsOf, List.mem_filterMap]
  constructor
  · rintro ⟨j, hj, h⟩
    split at h
    · cases h
    next hx =>
      split at h
      next y hd =>
        cases h
        exact ⟨mem_upTo.mp hj, by simpa using hx, hd⟩
      next => cases h
  · rintro ⟨hi, hx, hd⟩
    refine ⟨i, mem_upTo.mpr hi, ?_⟩
    dsimp only at hx hd
    rw [hx, if_neg Bool.false_ne_true, hd]

theorem instrsOf_unique {ws : List Word} {e f : Nat × Instr} (he : e ∈ instrsOf ws) (hf : f ∈ instrsOf ws) (h : e.1 = f.1) : e = f := by
  obtain ⟨-, -, hde⟩ := mem_instrsOf.mp he
  obtain ⟨-, -, hdf⟩ := mem_instrsOf.mp hf
  rw [h, hdf] at hde
  exact Prod.ext h (Except.ok.inj hde).symm

theorem isX_iff (w : Word) : isX w = true ↔ wordCls w = 6 := by
  rw [isX, beq_iff_eq, wordCls]
  exact ⟨fun h => by rw [h]; rfl, fun h => BitVec.eq_of_toNat_eq h⟩

/-- What decodes has a class of Table 6.3. -/
theorem decodeAt_cls {ws : List Word} {i : Nat} {x : Instr} (h : decodeAt ws i = .ok x) : wordCls (nth 0 ws i) < 6 := by
  unfold decodeAt decodeSyl at h
  have hc : (Syl.ofWord (nth 0 ws i) (extOf ws i)).cls.toNat = wordCls (nth 0 ws i) := rfl
  rw [hc] at h
  split at h
  case h_7 => cases h
  case h_8 => cases h
  all_goals omega

/-! The limits of the classes. -/

/-- How many of the first syllables have a class. -/
def clsBefore (ws : List Word) (c i : Nat) : Nat := ((upTo i).filter (fun j => wordCls (nth 0 ws j) == c)).length

theorem clsBefore_succ (ws : List Word) (c i : Nat) :
    clsBefore ws c (i + 1) = clsBefore ws c i + if wordCls (nth 0 ws i) = c then 1 else 0 := by
  rw [clsBefore, clsBefore, upTo, upTo, List.range_succ, List.filter_append, List.length_append]
  by_cases h : wordCls (nth 0 ws i) = c
  · rw [List.filter_cons_of_pos (by simpa using h), if_pos h]
    rfl
  · rw [List.filter_cons_of_neg (by simpa using h), if_neg h]
    rfl

theorem clsBefore_mono (ws : List Word) (c : Nat) {i n : Nat} (h : i ≤ n) : clsBefore ws c i ≤ clsBefore ws c n := by
  induction n with
  | zero => rw [Nat.le_zero.mp h]
  | succ n ih =>
    rcases Nat.le_succ_iff.mp h with h | rfl
    · rw [clsBefore_succ]
      have := ih h
      omega
    · exact le_rfl

theorem overLimit_eq (ws : List Word) (i : Nat) :
    overLimit ws i = true ↔ isX (nth 0 ws i) = false ∧ classLimit (wordCls (nth 0 ws i)) ≤ clsBefore ws (wordCls (nth 0 ws i)) i := by
  simp [overLimit, clsBefore]

/-- A class is within its limit where no syllable of it comes after as many as the limit. -/
theorem clsBefore_le {ws : List Word} {c n : Nat} (hc : c < 6) (h : ∀ i < n, overLimit ws i = false) : clsBefore ws c n ≤ classLimit c := by
  induction n with
  | zero => simp [clsBefore, upTo]
  | succ n ih =>
    have ih := ih fun i hi => h i (by omega)
    rw [clsBefore_succ]
    split
    next hn =>
      have hover := h n (by omega)
      have hx : isX (nth 0 ws n) = false := by
        rw [Bool.eq_false_iff, Ne, isX_iff, hn]
        omega
      have hlt : ¬ classLimit c ≤ clsBefore ws c n := fun hle => by
        have := (overLimit_eq ws n).mpr ⟨hx, by rw [hn]; exact hle⟩
        rw [hover] at this
        cases this
      omega
    next => exact ih

theorem classLimit_of_lt {c : Nat} (h : c < 6) : classLimit c = if c < 3 then 2 else 1 := by
  unfold classLimit
  rw [if_pos h]

theorem overLimit_all {ws : List Word} (hd : ∀ i < ws.length, isX (nth 0 ws i) = false → ∃ x, decodeAt ws i = .ok x) :
    (∀ i < ws.length, overLimit ws i = false) ↔ ∀ c < 6, clsBefore ws c ws.length ≤ if c < 3 then 2 else 1 := by
  refine ⟨fun h c hc => classLimit_of_lt hc ▸ clsBefore_le hc h, fun h i hi => Bool.eq_false_iff.mpr fun ho => ?_⟩
  obtain ⟨hx, hle⟩ := (overLimit_eq ws i).mp ho
  obtain ⟨x, hdec⟩ := hd i hi hx
  have hc := decodeAt_cls hdec
  have hlim := h _ hc
  rw [← classLimit_of_lt hc] at hlim
  have hs := clsBefore_succ ws (wordCls (nth 0 ws i)) i
  rw [if_pos rfl] at hs
  have hm := clsBefore_mono ws (wordCls (nth 0 ws i)) (show i + 1 ≤ ws.length by omega)
  omega

/-! The rules of one syllable, and those between two. -/

theorem payload_iff (w : Word) (n : Nat) : (w.extractLsb' 0 60 >>> n == 0) = true ↔ w.toNat % 2 ^ 60 < 2 ^ n := by
  rw [beq_iff_eq, ← BitVec.toNat_inj, BitVec.toNat_ushiftRight, BitVec.extractLsb'_toNat, Nat.shiftRight_zero, Nat.shiftRight_eq_div_pow]
  exact Nat.div_eq_zero_iff_lt (Nat.two_pow_pos n)

theorem ownReasons_nil {ws : List Word} {i : Nat} : ownReasons ws i = [] ↔
    (isX (nth 0 ws i) = true → 0 < i ∧ ∃ n, wordX (nth 0 ws (i - 1)) = some n ∧ (nth 0 ws i).toNat % 2 ^ 60 < 2 ^ n) ∧
    (isX (nth 0 ws i) = false → ∃ x, decodeAt ws i = .ok x) := by
  unfold ownReasons
  dsimp only
  split
  next hx =>
    have hxf : ¬ isX (nth 0 ws i) = false := by rw [hx]; simp
    simp only [hx, forall_true_left, Bool.true_eq_false, false_implies, and_true]
    split
    next h0 => simp [h0]
    next h0 =>
      have hpos : 0 < i := by omega
      split
      next hn =>
        rw [hn]
        exact iff_of_false (by simp) fun ⟨_, _, h, _⟩ => by cases h
      next n hn =>
        rw [hn]
        by_cases hp : (nth 0 ws i).toNat % 2 ^ 60 < 2 ^ n
        · rw [if_pos ((payload_iff _ n).mpr hp)]
          exact iff_of_true rfl ⟨hpos, n, rfl, hp⟩
        · rw [if_neg (mt (payload_iff _ n).mp hp)]
          refine iff_of_false (by simp) ?_
          rintro ⟨-, m, hm, h⟩
          cases hm
          exact hp h
  next hx =>
    have hxf : isX (nth 0 ws i) = false := by simpa using hx
    simp only [hxf, Bool.false_eq_true, false_implies, true_and, forall_true_left]
    split
    next x hd => simp [hd]
    next r hd => simp [hd]

/-- What a syllable breaks after the others of its bundle. -/
def LateLegal (noM : Bool) (ws : List Word) (before : List (Nat × Instr)) (i : Nat) (x : Instr) : Prop :=
  (realWrites x).Nodup ∧ (∀ e ∈ before, ∀ y ∈ realWrites e.2, y ∉ realWrites x) ∧
  (∀ e ∈ before, bankOfM e.2 ≠ none → bankOfM e.2 ≠ bankOfM x) ∧ (noM = true → wordCls (nth 0 ws i) ≠ 2) ∧
  ∀ n, csrOf x = some n → csrAssigned n = true

theorem ite_nil {α : Type} {p : Prop} [Decidable p] {a : α} : (if p then [a] else []) = [] ↔ ¬ p := by
  split <;> simp [*]

theorem lateReasons_nil {noM : Bool} {ws : List Word} {before : List (Nat × Instr)} {i : Nat} {x : Instr} :
    lateReasons noM ws before i x = [] ↔ LateLegal noM ws before i x := by
  have hw : (¬ (realWrites x).any (fun y => 1 < (realWrites x).count y || before.any (fun e => (realWrites e.2).contains y)) = true) ↔
      (realWrites x).Nodup ∧ ∀ e ∈ before, ∀ y ∈ realWrites e.2, y ∉ realWrites x := by
    rw [List.nodup_iff_count_le_one]
    simp only [List.any_eq_true, not_exists, not_and, Bool.or_eq_true, decide_eq_true_eq, not_or, not_lt, List.contains_iff_mem]
    constructor
    · intro h
      refine ⟨fun y => ?_, fun e he y hye hyx => (h y hyx).2 e he hye⟩
      by_cases hy : y ∈ realWrites x
      · exact (h y hy).1
      · rw [List.count_eq_zero_of_not_mem hy]
        exact Nat.zero_le 1
    · exact fun ⟨h1, h2⟩ y hy => ⟨h1 y, fun e he hye => h2 e he y hye hy⟩
  have hb : (¬ ((bankOfM x).isSome && before.any (fun e => bankOfM e.2 == bankOfM x)) = true) ↔
      ∀ e ∈ before, bankOfM e.2 ≠ none → bankOfM e.2 ≠ bankOfM x := by
    simp only [Bool.and_eq_true, List.any_eq_true, beq_iff_eq, not_and, not_exists]
    constructor
    · exact fun h e he hn heq => h (by rw [← heq]; exact Option.isSome_iff_ne_none.mpr hn) e he heq
    · exact fun h hs e he heq => h e he (by rw [heq]; exact Option.isSome_iff_ne_none.mp hs) heq
  have hm : (¬ (noM && wordCls (nth 0 ws i) == 2) = true) ↔ (noM = true → wordCls (nth 0 ws i) ≠ 2) := by
    simp
  have hc : (match csrOf x with
      | some n => if csrAssigned n then [] else [12]
      | none => []) = [] ↔ ∀ n, csrOf x = some n → csrAssigned n = true := by
    cases csrOf x with
    | none => simp
    | some n =>
      cases h : csrAssigned n <;> simp [h]
  unfold lateReasons LateLegal
  dsimp only
  rw [List.append_eq_nil_iff, List.append_eq_nil_iff, List.append_eq_nil_iff, ite_nil, ite_nil, ite_nil, hw, hb, hm]
  refine Iff.trans (and_congr_right fun _ => hc) ?_
  tauto

theorem reasonsAt_nil {noM : Bool} {ws : List Word} {i : Nat} : reasonsAt noM ws i = [] ↔
    ownReasons ws i = [] ∧ overLimit ws i = false ∧ (i = 5 → (nth 0 ws 5).getLsbD 63 = true) ∧
    ∀ e ∈ instrsOf ws, e.1 = i → LateLegal noM ws ((instrsOf ws).filter (fun f => f.1 < i)) i e.2 := by
  unfold reasonsAt
  dsimp only
  rw [List.append_eq_nil_iff, List.append_eq_nil_iff, List.append_eq_nil_iff, ite_nil, ite_nil, List.flatMap_eq_nil_iff]
  simp only [and_assoc, Bool.not_eq_true]
  refine and_congr_right fun _ => and_congr_right fun _ => and_congr ?_ ?_
  · simp
  · refine forall_congr' fun e => forall_congr' fun he => ?_
    split
    next h => simp [h, lateReasons_nil]
    next h => simp [h]

/-- R111, R112, R119, R139, R156: a bundle is legal where each syllable decodes in its place, no class is over its limit, and no
register or accumulator bank is named twice. -/
theorem legal_iff (noM : Bool) (ws : List Word) : firstIllegal noM ws = none ↔
    (∀ i < ws.length, let w := nth 0 ws i
      (isX w = true → 0 < i ∧ ∃ n, wordX (nth 0 ws (i - 1)) = some n ∧ w.toNat % 2 ^ 60 < 2 ^ n) ∧
      (isX w = false → (∃ x, decodeAt ws i = .ok x) ∧ (noM = true → wordCls w ≠ 2)) ∧
      (i = 5 → w.getLsbD 63 = true)) ∧
    (∀ c < 6, ((upTo ws.length).filter (fun i => wordCls (nth 0 ws i) == c)).length ≤ (if c < 3 then 2 else 1)) ∧
    (∀ e ∈ instrsOf ws, (realWrites e.2).Nodup ∧ ∀ n, csrOf e.2 = some n → csrAssigned n = true) ∧
    ∀ e ∈ instrsOf ws, ∀ f ∈ instrsOf ws, e.1 < f.1 →
      (∀ y ∈ realWrites e.2, y ∉ realWrites f.2) ∧ (bankOfM e.2 ≠ none → bankOfM e.2 ≠ bankOfM f.2) := by
  rw [firstIllegal_none]
  simp only [reasonsAt_nil, ownReasons_nil]
  constructor
  · intro h
    have hdec : ∀ i < ws.length, isX (nth 0 ws i) = false → ∃ x, decodeAt ws i = .ok x := fun i hi => (h i hi).1.2
    have hlate : ∀ e ∈ instrsOf ws, LateLegal noM ws ((instrsOf ws).filter (fun f => f.1 < e.1)) e.1 e.2 := fun e he =>
      (h e.1 (mem_instrsOf.mp he).1).2.2.2 e he rfl
    refine ⟨fun i hi => ⟨(h i hi).1.1, fun hx => ⟨hdec i hi hx, ?_⟩, fun h5 => ?_⟩,
      (overLimit_all hdec).mp fun i hi => (h i hi).2.1, fun e he => ?_, fun e he f hf hlt => ?_⟩
    · obtain ⟨x, hd⟩ := hdec i hi hx
      exact (hlate (i, x) (mem_instrsOf.mpr ⟨hi, hx, hd⟩)).2.2.2.1
    · subst h5
      exact (h 5 hi).2.2.1 rfl
    · obtain ⟨hn, -, -, -, hc⟩ := hlate e he
      exact ⟨hn, hc⟩
    · obtain ⟨-, hw, hb, -, -⟩ := hlate f hf
      have hm : e ∈ (instrsOf ws).filter (fun g => g.1 < f.1) := List.mem_filter.mpr ⟨he, decide_eq_true hlt⟩
      exact ⟨hw e hm, hb e hm⟩
  · rintro ⟨hown, hcls, hone, htwo⟩ i hi
    obtain ⟨hx, hd, h5⟩ := hown i hi
    have hdec : ∀ i < ws.length, isX (nth 0 ws i) = false → ∃ x, decodeAt ws i = .ok x := fun i hi hx => ((hown i hi).2.1 hx).1
    refine ⟨⟨hx, hdec i hi⟩, (overLimit_all hdec).mpr hcls i hi, fun h => by subst h; exact h5 rfl, fun e he hei => ?_⟩
    subst hei
    obtain ⟨hn, hc⟩ := hone e he
    have hbefore : ∀ f ∈ (instrsOf ws).filter (fun g => g.1 < e.1), f ∈ instrsOf ws ∧ f.1 < e.1 := fun f hf => by
      obtain ⟨hf, hlt⟩ := List.mem_filter.mp hf
      exact ⟨hf, of_decide_eq_true hlt⟩
    refine ⟨hn, fun f hf => ?_, fun f hf => ?_, (hd (mem_instrsOf.mp he).2.1).2, hc⟩
    · exact (htwo f (hbefore f hf).1 e he (hbefore f hf).2).1
    · exact (htwo f (hbefore f hf).1 e he (hbefore f hf).2).2

end Sys2Proof.Machine

namespace Sys2Proof.Machine

/-! O47: the steps of a core. -/

section Cycle

variable {s : State} {t : Nat}

theorem exec_issueCycle (s : State) (t : Nat) : exec (.issueCycle t) s = .next
    (if !isKs t && (!isSite t || getD false (bayOf t) s.gated) then s
    else yieldsOver (yielded s t) (if suppressed (tick s t) t then tick s t else issueOn (tick s t) t (yielded s t))) := rfl

/-- Whether a tile has a core whose bay is awake. -/
def Runs? (s : State) (t : Nat) : Prop := isKs t = true ∨ (isSite t = true ∧ getD false (bayOf t) s.gated = false)

theorem issueCycle_gated (h : isKs t = false ∧ (isSite t = false ∨ getD false (bayOf t) s.gated = true)) :
    exec (.issueCycle t) s = .next s := by
  obtain ⟨hk, hg⟩ := h
  rw [exec_issueCycle, if_pos]
  rcases hg with h | h <;> simp [hk, h]

theorem issueCycle_awake (h : Runs? s t) : exec (.issueCycle t) s = .next (yieldsOver (yielded s t)
    (if suppressed (tick s t) t then tick s t else issueOn (tick s t) t (yielded s t))) := by
  rw [exec_issueCycle, if_neg]
  rcases h with h | ⟨h, h2⟩
  · simp [h]
  · simp [h, h2]

theorem tick_frame (s : State) (t : Nat) :
    (coreAt (tick s t) t).cyc = (coreAt s t).cyc + 1 ∧ (tick s t).mem = s.mem ∧ (tick s t).threads = s.threads := by
  have hc : (coreAt (tick s t) t).cyc = (coreAt s t).cyc + 1 := by
    unfold tick
    dsimp only
    generalize hu : updCore s t _ = v
    have hv : (coreAt v t).cyc = (coreAt s t).cyc + 1 := by rw [← hu, coreAt_updCore]
    split
    · exact hv
    · exact hv
  refine ⟨hc, (tick_memory s t).1, ?_⟩
  unfold tick
  dsimp only
  split <;> rfl

/-! What the issue of a cycle does with the thread that it selects. -/

variable {u : State} {y : List Nat} {k : Nat} {th : Thread}

theorem issueOn_none (h : selected (coreAt u t) (readyOn u t) = none) : issueOn u t y = u := by
  rw [issueOn, h]

theorem portTaken_eq (u : State) (t : Nat) : portTaken u t = decide ((coreAt u t).cyc < (coreAt u t).portFree) := rfl

theorem issueOn_held (h : selected (coreAt u t) (readyOn u t) = some (k, th, .go)) (hp : (coreAt u t).cyc < (coreAt u t).portFree)
    (hl : holdsL u k th = true) : issueOn u t y = u := by
  unfold issueOn
  dsimp only
  rw [h]
  dsimp only
  rw [if_pos (by rw [portTaken_eq, decide_eq_true hp, hl]; rfl)]

section Free

variable (h : selected (coreAt u t) (readyOn u t) = some (k, th, .go))
  (hp : (coreAt u t).cyc < (coreAt u t).portFree → holdsL u k th = false)
include h hp

theorem issueOn_stalls {n : Nat} (hn : fetchStalls u k th = some n) : issueOn u t y = fetchSome u k th n := by
  unfold issueOn
  dsimp only
  rw [h]
  dsimp only
  rw [if_neg, hn]
  rw [portTaken_eq, Bool.and_eq_true, decide_eq_true_eq]
  exact fun ⟨hlt, hl⟩ => by rw [hp hlt] at hl; cases hl

theorem issueOn_opens (hn : fetchStalls u k th = none) : issueOn u t y =
    openBundle (updCore (passedOver (readyOn u t) k u) t (fun c => { c with last := put (issueLevel th) (slotOf k) c.last })) k th
      (some (threadsOn (yieldsOver y u) t, (coreAt u t).last)) := by
  unfold issueOn
  dsimp only
  rw [h]
  dsimp only
  rw [if_neg, hn]
  rw [portTaken_eq, Bool.and_eq_true, decide_eq_true_eq]
  exact fun ⟨hlt, hl⟩ => by rw [hp hlt] at hl; cases hl

end Free

/-- The words of a bundle that can be fetched. -/
def fetchable (u : State) (k : Nat) (th : Thread) (n : Nat) : List Nat := (unfetched k th n).filter (fun a => !bankTaken u (tileOf k) a)

theorem fetchTurn_mem (s : State) (k : Nat) (l : List Nat) : (fetchTurn s k l).mem = s.mem :=
  foldl_mem (fun s a => discover s a 8) (fun s a => discover_mem s a 8) l (bankTurns s (tileOf k) 0 l)

theorem fetchSome_mem (u : State) (k : Nat) (th : Thread) (n : Nat) : (fetchSome u k th n).mem = u.mem :=
  fetchTurn_mem u k (fetchable u k th n)

/-- The thread once it has fetched some words. -/
theorem threadAt_fetchSome (u : State) (k : Nat) (th : Thread) (n : Nat) : ∃ f : Nat → Word,
    threadAt (fetchSome u k th n) k = some { th with fetched := th.fetched ++ (fetchable u k th n).map (fun a => (a, f a)) } :=
  ⟨_, (threadAt_setThread ..).trans (if_pos rfl)⟩

theorem find_append_isSome {α : Type} (m l : Map α) {k : Nat} (h : (find k l).isSome = true) : (find k (m ++ l)).isSome = true := by
  induction m with
  | nil => exact h
  | cons e m ih =>
    obtain ⟨j, b⟩ := e
    simp only [List.cons_append, find]
    split
    · rfl
    · exact ih

theorem find_map_isSome {α : Type} (f : Nat → α) {l : List Nat} {k : Nat} (h : k ∈ l) : (find k (l.map (fun a => (a, f a)))).isSome = true := by
  induction l with
  | nil => cases h
  | cons a l ih =>
    simp only [List.map_cons, find]
    split
    · rfl
    next hne => exact ih ((List.mem_cons.mp h).resolve_left hne)

end Cycle

/-! Boost, waiting bundles and random bits. -/

theorem exec_boostThread {s : State} {k : Nat} {th : Thread} (h : threadAt s k = some th) :
    exec (.boostThread k) s = .next (setThread s k (reachBoost th)) := by
  have hx : exec (.boostThread k) s = .next (updThread s k reachBoost) := rfl
  rw [hx, updThread, h]

section Reopen

variable {s : State} {k : Nat} {th : Thread} {b : Waiting}

theorem portHolds_eq (hb : th.bundle = some b) : portHolds s k th = (portTaken s (tileOf k) && b.words.any (fun w => wordCls w == 3)) := by
  rw [portHolds, hb]
  rfl

theorem reopen_eq (hb : th.bundle = some b) (w : Wait) : reopen s k th w = openWords s k th b.words (instrsOf b.words) (some w) b.kept none := by
  rw [reopen, hb]

variable (h : threadAt s k = some th) (hb : th.bundle = some b)
include h hb

theorem exec_bundleCommit (ha : arriving s k = false) : exec (.bundleCommit k) s = .next
    (if (portTaken s (tileOf k) && b.words.any (fun w => wordCls w == 3)) = true then s
    else match th.status with
      | .waiting .cond => openWords s k th b.words (instrsOf b.words) (some .cond) b.kept none
      | .waiting (.lent va i w n) => openWords s k th b.words (instrsOf b.words) (some (.lent va i w n)) b.kept none
      | .waiting (.gone i p j) => openWords s k th b.words (instrsOf b.words) (some (.gone i p j)) b.kept none
      | _ => s) := by
  have hx : exec (.bundleCommit k) s = execBundleCommit k s := rfl
  rw [hx, execBundleCommit, h]
  rcases hst : th.status with _ | w | _
  case waiting => cases w <;> simp only [hst, ha, Bool.false_or, portHolds_eq hb, reopen_eq hb]
  all_goals simp only [hst, ha, Bool.false_or, portHolds_eq hb, reopen_eq hb]

theorem exec_sleepExpiry {w : Word} (hs : th.status = .waiting (.sleep w)) : exec (.sleepExpiry k) s = .next
    (if w ≤ (coreAt s (tileOf k)).cyc && !(portTaken s (tileOf k) && b.words.any (fun w => wordCls w == 3)) then
      openWords s k th b.words (instrsOf b.words) (some (.sleep w)) b.kept none else s) := by
  have hx : exec (.sleepExpiry k) s = execSleepExpiry k s := rfl
  rw [hx, execSleepExpiry, h]
  simp only [hs, portHolds_eq hb, reopen_eq hb]

end Reopen

theorem exec_rngRefill {s : State} {t k : Nat} (h : refillKey s t = some k) : exec (.rngRefill t) s = .next
    (wakeTile (updThread s k (fun th => { th with
      regs := { th.regs with rng := th.regs.rng.refill th.regs.seed th.regs.tag } })) t) := by
  have hx : exec (.rngRefill t) s = execRngRefill t s := rfl
  rw [hx, execRngRefill, h]

/-- Settles O47: each step by its own rule, and the legality of a bundle by the reasons of its syllables. -/
theorem coreSteps : Obligations.CoreSteps := by
  unfold Obligations.CoreSteps
  refine ⟨?_, ?_, fun s t k th hk ht => ?_, legal_iff, fun noM ws i why h => ?_, fun s k th u ws cls i why h => ?_⟩
  · intro s t y u
    refine ⟨issueCycle_gated, fun hr => ?_⟩
    obtain ⟨hcyc, hmem, hth⟩ := tick_frame s t
    have hx := issueCycle_awake hr
    have hgo : suppressed u t = false → exec (.issueCycle t) s = .next (yieldsOver y (issueOn u t y)) := fun hs => by
      rw [hx, if_neg (by rw [hs]; exact Bool.false_ne_true)]
    refine ⟨hcyc, hmem, hth, fun hs => ?_, fun hs hn => ?_, fun k th hs hsel hp hl => ?_, fun k th hs hsel hp => ⟨fun n hn => ⟨?_, (fetchSome_mem ..).trans hmem, ?_⟩, fun hn => ?_⟩⟩
    · rw [hx, if_pos hs]
    · rw [hgo hs, issueOn_none hn]
    · rw [hgo hs, issueOn_held hsel hp hl]
    · rw [hgo hs, issueOn_stalls hsel hp hn]
    · obtain ⟨f, hf⟩ := threadAt_fetchSome u k th n
      refine ⟨_, hf, rfl, rfl, rfl, rfl, fun a ha hb => ?_⟩
      exact find_append_isSome _ _ (find_map_isSome f (List.mem_filter.mpr ⟨ha, by rw [hb]; rfl⟩))
    · rw [hgo hs, issueOn_opens hsel hp hn]
  · intro s k th ht
    refine ⟨fun hk hw => ?_, fun hk => ?_, ?_, ?_⟩
    · rw [exec_boostThread ht, reachBoost, if_pos (by simp [hk, hw])]
    · rw [exec_boostThread ht, reachBoost, if_neg]
      rw [Bool.and_eq_true, decide_eq_true_eq, decide_eq_true_eq]
      rintro ⟨h1, h2⟩
      rcases hk with h | h
      · exact h h1
      · omega
    · intro b hb ha busy again
      have hx := exec_bundleCommit ht hb ha
      refine ⟨fun hbusy => by rw [hx, if_pos hbusy], fun hbusy => ⟨fun hs => ?_, fun va i w n hs => ?_, fun i p j hs => ?_⟩⟩
      all_goals
        rw [show (portTaken s (tileOf k) && b.words.any (fun w => wordCls w == 3)) = false from hbusy, if_neg Bool.false_ne_true, hs] at hx
        exact hx
    · intro b w hb hs busy
      have hx := exec_sleepExpiry ht hb hs
      refine ⟨fun hbusy => ?_, fun hbusy hle => ?_, fun hlt => ?_⟩
      · rw [show (portTaken s (tileOf k) && b.words.any (fun w => wordCls w == 3)) = true from hbusy, Bool.not_true, Bool.and_false] at hx
        exact hx
      · rw [show (portTaken s (tileOf k) && b.words.any (fun w => wordCls w == 3)) = false from hbusy, Bool.not_false, Bool.and_true] at hx
        rw [hx, if_pos (decide_eq_true (BitVec.le_def.mpr hle))]
      · rw [hx, if_neg]
        rw [Bool.and_eq_true, decide_eq_true_eq, BitVec.le_def]
        omega
  · have hup : threadAt (updThread s k (fun th => { th with
        regs := { th.regs with rng := th.regs.rng.refill th.regs.seed th.regs.tag } })) k = some { th with
        regs := { th.regs with rng := th.regs.rng.refill th.regs.seed th.regs.tag } } := by
      rw [threadAt_updThread, if_pos rfl, ht]
      rfl
    obtain ⟨st, hv⟩ := threadAt_wakeTile (t := t) hup
    refine ⟨_, _, exec_rngRefill hk, hv, rfl, rfl, rfl, ?_⟩
    simp only [Rng.refill, getD_setD, if_true]
  · obtain ⟨hi, hmem, hle, hbefore⟩ := firstIllegal_some h
    exact ⟨fun priv => by rw [decodeBundle, h], hi, hmem, hle, hbefore⟩
  · rw [openBundle, h]

end Sys2Proof.Machine

namespace Sys2Proof.Machine

/-! What of the device the rest of its work leaves alone: the tables of sites, stages, lowerings, vacates and links, and the keystone's
registers but the head of its event log. -/

structure Device where
  sched : List Instr
  hbmEnd : Map Bool
  fused : Map (BitVec 4)
  live : Map (BitVec 2)
  epoch : BitVec 16
  gated : Map Bool
  lowering : Option Lowering
  downLinks : List (Nat × Nat)
  tokens : List Token
  aborts : List Cut
  kcyc : Word
  msixTab : Map Word
  beats : Map Beat
  probeFails : Nat
  vacate : Option Vacate
  lowVac : Option Vacate
  vacHeld : Option HeldVac
  excluded : List Nat
  ckpt : Option Checkpoint
  move : Option PageMove
  frames : Map Bool
  stretch : Map (Nat × Word)
  linksUp : Map Bool
  resends : Map Nat
  peerSeen : List (Nat × Nat × List (Option Byte) × Bool)
  reg : Nat → Word

def device (s : State) : Device := { sched := s.sched, hbmEnd := s.hbmEnd, fused := s.fused, live := s.live, epoch := s.epoch, gated := s.gated, lowering := s.lowering, downLinks := s.downLinks, tokens := s.tokens, aborts := s.aborts, kcyc := s.kcyc, msixTab := s.msixTab, beats := s.beats, probeFails := s.probeFails, vacate := s.vacate, lowVac := s.lowVac, vacHeld := s.vacHeld, excluded := s.excluded, ckpt := s.ckpt, move := s.move, frames := s.frames, stretch := s.stretch, linksUp := s.linksUp, resends := s.resends, peerSeen := s.peerSeen, reg := fun n => if n = 0x818 then 0 else msRaw s n }

@[simp] theorem device_mk (s : State) (free : Nat) (nextAcc : Nat) (nextUid : Nat) (issue : Issue) (focus : Nat) (mem : Map Byte) (poison : Map Bool) (struck : List (Nat × Struck)) (inflight : List Access) (arrived : List (Nat × Nat × Nat)) (cores : Map Core) (threads : Map Thread) (spanQ : Map (List Nat)) (spanTlb : Map (List TlbE)) (ksQ : List Nat) (faultWait : List Nat) (sinks : Map Nat) (partner : Map (Nat × Nat)) (wakeQ : List Nat) (inrush : List Nat) (lowerQ : List Lowering) (errs : Map (List Word)) (homes : List HomeE) (subs : List Sub) (net : List Msg) (graphs : Map Graph) (pool : Map PoolRec) (poolGen : Map Nat) (lastId : Nat) (poolSeq : Nat) (fetched : Map Fetch) (slots : Map LaunchSlot) (residency : Map ResEntry) (tensors : Map Tensor) (msixPend : Map Bool) (vacAsked : List (Word × Option Nat)) (saved : List Saved) (tails : List (Nat × Nat × Nat × Nat)) (drains : List Drain) (olds : Map Word) (outHost : List Out) :
    device (State.mk s.sched free nextAcc nextUid issue focus mem poison struck inflight arrived cores threads spanQ spanTlb ksQ faultWait sinks s.hbmEnd s.fused s.live partner s.epoch s.gated wakeQ inrush s.lowering lowerQ s.downLinks s.tokens s.aborts errs homes subs net graphs pool poolGen lastId poolSeq fetched slots residency tensors s.ms s.kcyc s.msixTab msixPend s.beats s.probeFails s.vacate vacAsked s.lowVac s.vacHeld s.excluded saved s.ckpt s.move s.frames tails s.stretch drains olds s.resends s.peerSeen s.linksUp outHost) = device s := rfl

theorem foldl_device {β : Type} {f : State → β → State} (h : ∀ s x, device (f s x) = device s) (l : List β) (s : State) :
    device (l.foldl f s) = device s := foldl_keeps device f h l s

@[simp] theorem setThread_device (s : State) (k : Nat) (th : Thread) : device (setThread s k th) = device s := rfl
@[simp] theorem dropThread_device (s : State) (k : Nat) : device (dropThread s k) = device s := rfl
@[simp] theorem setCore_device (s : State) (k : Nat) (c : Core) : device (setCore s k c) = device s := rfl
@[simp] theorem writeByte_device (s : State) (pa : Nat) (b : Byte) : device (writeByte s pa b) = device s := rfl
@[simp] theorem setLinePoison_device (s : State) (pa : Nat) (b : Bool) : device (setLinePoison s pa b) = device s := rfl
@[simp] theorem writeBytes_device (s : State) (pa : Nat) (l : List Byte) : device (writeBytes s pa l) = device s := by
  induction l generalizing s pa with
  | nil => rfl
  | cons b l ih => exact (ih _ _).trans rfl
@[simp] theorem writeLe_device (s : State) (pa n v : Nat) : device (writeLe s pa n v) = device s := writeBytes_device ..
@[simp] theorem writeClean_device (s : State) (pa : Nat) (l : List Byte) : device (writeClean s pa l) = device s := by
  unfold writeClean
  refine (foldl_device (fun s i => ?_) _ _).trans (writeBytes_device ..)
  dsimp only
  split <;> rfl

theorem find_setD_ne {α : Type} [DecidableEq α] (d a : α) {k j : Nat} (h : j ≠ k) (m : Map α) : find j (setD d k a m) = find j m := by
  unfold setD
  split
  · rw [find_del, if_neg h]
  · rw [find_put, if_neg h]

theorem msRaw_msPut (s : State) (n : Nat) (v : Word) (m : Nat) : msRaw (msPut s n v) m = if m = n then v else msRaw s m := by
  by_cases h : m = n
  · subst h
    rw [if_pos rfl, msRaw, msPut, getD_setD, if_pos rfl]
  · rw [if_neg h, msRaw, msPut, getD, find_setD_ne _ _ h]
    rfl

/-- A write of the head of the event log changes no other register. -/
theorem device_msPut_log (s : State) (v : Word) : device (msPut s 0x818 v) = device s := by
  have hr : (fun n => if n = 0x818 then 0 else msRaw (msPut s 0x818 v) n) = fun n => if n = 0x818 then 0 else msRaw s n := by
    funext n
    split
    · rfl
    next h => rw [msRaw_msPut, if_neg h]
  unfold device
  rw [hr]
  rfl

@[simp] theorem assignPartner_device (s : State) (o : Nat) : device (assignPartner s o) = device s := by
  unfold assignPartner
  dsimp only
  (repeat' split) <;> simp
@[simp] theorem assignPartners_device (s : State) (bs : List Nat) : device (assignPartners s bs) = device s := by
  unfold assignPartners
  simp [foldl_device, apply_ite device]
@[simp] theorem updCore_device (s : State) (t : Nat) (f : Core → Core) : device (updCore s t f) = device s := rfl
@[simp] theorem updThread_device (s : State) (k : Nat) (f : Thread → Thread) : device (updThread s k f) = device s := by
  unfold updThread
  split <;> simp
@[simp] theorem setStatus_device (s : State) (k : Nat) (st : Status) : device (setStatus s k st) = device s := by
  unfold setStatus
  simp
@[simp] theorem takeFree_device (s : State) : device (takeFree s).2 = device s := rfl
@[simp] theorem sendVector_device (s : State) (port vec : Nat) : device (sendVector s port vec) = device s := rfl
@[simp] theorem raiseVector_device (s : State) (port vec : Nat) : device (raiseVector s port vec) = device s := by
  unfold raiseVector
  split_ifs <;> simp
@[simp] theorem logEvent_device (s : State) (kind : Nat) (data : List Word) : device (logEvent s kind data) = device s := by
  unfold logEvent
  refine (foldl_device (fun s p => ?_) _ _).trans ((device_msPut_log _ _).trans (writeClean_device ..))
  dsimp only
  split
  · exact raiseVector_device ..
  · rfl
@[simp] theorem updGraph_device (s : State) (c : Nat) (f : Graph → Graph) : device (updGraph s c f) = device s := by
  unfold updGraph
  split <;> simp
@[simp] theorem freshCopy_device (s : State) (t : Nat) (n : Name) : device (freshCopy s t n) = device s := rfl
@[simp] theorem addAccess_device (s : State) (a : Access) : device (addAccess s a) = device s := rfl
@[simp] theorem flushPort_device (uid : Nat) (w : Who) (psink : Bool) (s : State) (port : Nat) :
    device (flushPort uid w psink s port) = device s := by
  unfold flushPort
  split_ifs <;> simp
@[simp] theorem flushCmd_device (s : State) (t : Nat) (c : Cmd) : device (flushCmd s t c) = device s := by
  unfold flushCmd
  dsimp only
  (repeat' split) <;> simp
@[simp] theorem flushOf_device (p : Access → Bool) (s : State) : device (flushOf p s) = device s := by
  unfold flushOf
  simp [foldl_device]
@[simp] theorem markExit_device (s : State) (n : Name) : device (markExit s n) = device s := by
  unfold markExit
  split_ifs <;> simp
@[simp] theorem sendPub_device (s : State) (p : Pub) (tile uid : Nat) (after : List Nat) (scp : Nat) :
    device (sendPub s p tile uid after scp) = device s := by
  unfold sendPub
  simp
@[simp] theorem makeResident_device (s : State) (t j : Nat) (e : Ident × Word) : device (makeResident s t j e) = device s := by
  unfold makeResident
  dsimp only
  (repeat' split) <;> simp
@[simp] theorem fillSlots_device (t : Nat) (x0 : Nat) (s : State) : device (fillSlots t x0 s) = device s := by
  induction x0 generalizing s with
  | zero => exact rfl
  | succ fuel ih =>
    unfold fillSlots
    dsimp only
    (repeat' split) <;> simp [ih]
@[simp] theorem fill_device (s : State) (t : Nat) : device (fill s t) = device s := by
  unfold fill
  split_ifs <;> simp
@[simp] theorem countRun_device (s : State) (t : Nat) (th : Thread) : device (countRun s t th) = device s := by
  unfold countRun
  split <;> simp
@[simp] theorem publishStream_device (s : State) (t : Nat) (c : Cmd) (st : Nat) (step : Option Nat) (bytes : Nat) :
    device (publishStream s t c st step bytes) = device s := by
  unfold publishStream
  split_ifs <;> simp
@[simp] theorem wakeTile_device (s : State) (t : Nat) : device (wakeTile s t) = device s :=
  foldl_device (fun s e => by split <;> simp) _ s
@[simp] theorem findSegs_device (s : State) (t : Nat) (bufs : List Nat) : device (findSegs s t bufs) = device s := rfl
@[simp] theorem discardOps_device (s : State) (t uid : Nat) : device (discardOps s t uid) = device s := rfl
@[simp] theorem endFill_device (s : State) (t : Nat) (c : Cmd) : device (endFill s t c) = device s := by
  unfold endFill
  dsimp only
  (repeat' split) <;> simp
@[simp] theorem releaseFile_device (s : State) (t uid : Nat) : device (releaseFile s t uid) = device s := by
  unfold releaseFile
  dsimp only
  (repeat' split) <;> simp
@[simp] theorem putCmd_device (s : State) (t : Nat) (c : Cmd) : device (putCmd s t c) = device s := rfl
@[simp] theorem removeCmd_device (s : State) (t : Nat) (c : Cmd) : device (removeCmd s t c) = device s := by
  unfold removeCmd
  simp
@[simp] theorem cancelCmd_device (s : State) (t : Nat) (c : Cmd) : device (cancelCmd s t c) = device s := by
  unfold cancelCmd
  dsimp only
  (repeat' split) <;> simp
@[simp] theorem cancelAll_device (s : State) (t uid : Nat) : device (cancelAll s t uid) = device s := by
  unfold cancelAll
  simp [foldl_device]
@[simp] theorem silenceAll_device (s : State) (t uid : Nat) : device (silenceAll s t uid) = device s := by
  unfold silenceAll
  simp
@[simp] theorem unqueue_device (s : State) (uid : Nat) : device (unqueue s uid) = device s := rfl
@[simp] theorem spawnHandler_device (s : State) (t j via k : Nat) : device (spawnHandler s t j via k) = device s := by
  unfold spawnHandler
  dsimp only
  (repeat' split) <;> simp
theorem placeRecord_device {s t : State} {k : Nat} (h : placeRecord s k = some t) : device t = device s := by
  unfold placeRecord at h
  dsimp only at h
  split at h
  next => cases h; exact rfl
  next =>
    split_ifs at h <;> (repeat' split at h) <;> cases h <;> simp
@[simp] theorem serveRecord_device (s : State) (k : Nat) : device (serveRecord s k) = device s := by
  unfold serveRecord
  split
  next h => exact placeRecord_device h
  next => split <;> exact rfl
@[simp] theorem retryRecords_device (s : State) : device (retryRecords s) = device s := by
  refine foldl_device (fun s u => ?_) _ s
  split
  next => exact rfl
  next =>
    split
    next h => have h' := placeRecord_device h; exact h'
    next => exact rfl
@[simp] theorem takeRecord_device (s : State) (t : Nat) : device (takeRecord s t) = device s := by
  unfold takeRecord
  dsimp only
  (repeat' split) <;> simp
@[simp] theorem startAlert_device (s : State) (reg : Nat) : device (startAlert s reg) = device s := by
  unfold startAlert
  dsimp only
  (repeat' split) <;> simp
@[simp] theorem nextAlert_device (s : State) : device (nextAlert s) = device s := by
  unfold nextAlert
  split <;> simp
@[simp] theorem killOutputs_device (s : State) (t : Nat) (th : Thread) : device (killOutputs s t th) = device s := by
  unfold killOutputs
  (repeat' split) <;> simp [foldl_device]
@[simp] theorem withdrawAll_device (s : State) (t : Nat) (th : Thread) : device (withdrawAll s t th) = device s := by
  refine foldl_device (fun s d => ?_) _ s
  rfl
@[simp] theorem resumeAll_device (s : State) : device (resumeAll s) = device s := by
  refine foldl_device (fun s e => ?_) _ s
  rfl
@[simp] theorem freeEntries_device (s : State) (id : Ident) : device (freeEntries s id) = device s := by
  unfold freeEntries
  simp
@[simp] theorem serveAgain_device (s : State) (h : Thread) : device (serveAgain s h) = device s := by
  unfold serveAgain
  split <;> simp
@[simp] theorem endKill_device (s : State) (k : Nat) : device (endKill s k) = device s := by
  unfold endKill
  dsimp only
  (repeat' split) <;> simp
@[simp] theorem killThread_device (s : State) (k : Nat) : device (killThread s k) = device s := by
  unfold killThread
  dsimp only
  (repeat' split) <;> simp
@[simp] theorem freeRecord_device (s : State) (id : Nat) : device (freeRecord s id) = device s := rfl
@[simp] theorem completeLaunch_device (s : State) (handle : Nat) (parent : Option Nat) (host : Option (Nat × Nat)) (record : List Byte) (g : Option (Nat × Graph)) (res why : Nat) :
    device (completeLaunch s handle parent host record g res why) = device s := by
  unfold completeLaunch
  extract_lets data pub s1 s2
  have h1 : device s1 = device s := by
    show device (match parent with
      | some p => if parentLive s p then sendPub s (pub (p % 256)) Config.ks 0 [] 3 else s
      | none => sendPub s (pub ((g.map (fun e => e.1)).getD 0)) Config.ks 0 [] 3) = device s
    split
    · split
      · exact sendPub_device ..
      · rfl
    · exact sendPub_device ..
  clear_value s1
  have h2 : device s2 = device s1 := by
    dsimp only [s2]
    (repeat' split) <;> simp
  clear_value s2
  exact (freeRecord_device ..).trans (h2.trans h1)
@[simp] theorem dropNames_device (s : State) (ctx : Nat) (keep : Option Name) : device (dropNames s ctx keep) = device s := rfl
@[simp] theorem endGraph_device (s : State) (ctx res why : Nat) : device (endGraph s ctx res why) = device s := by
  unfold endGraph
  split <;> simp
@[simp] theorem requestLowering_device (s : State) (site cls : Nat) (sudden core req : Bool) (ctx : Option Nat) :
    device (requestLowering s site cls sudden core req ctx) = device s := rfl
@[simp] theorem restartCmds_device (s : State) (t uid : Nat) (held : List AFault) : device (restartCmds s t uid held) = device s := rfl
@[simp] theorem requestWake_device (s : State) (b : Nat) : device (requestWake s b) = device s := by
  unfold requestWake
  split_ifs <;> simp
@[simp] theorem startWakes_device (s : State) : device (startWakes s) = device s :=
  foldl_device (fun s _ => by (repeat' split) <;> exact rfl) _ s
@[simp] theorem installTlb_device (s : State) (t : Nat) (e : TlbE) : device (installTlb s t e) = device s := by
  unfold installTlb
  split_ifs <;> simp
@[simp] theorem installFor_device (s : State) (sp : Space) (e : TlbE) : device (installFor s sp e) = device s := by
  unfold installFor
  split_ifs <;> simp
@[simp] theorem noteMiss_device (s : State) (sp : Space) (va : Nat) : device (noteMiss s sp va) = device s := by
  unfold noteMiss
  split_ifs <;> simp
@[simp] theorem countError_device (s : State) (t : Nat) : device (countError s t) = device s := by
  unfold countError
  dsimp only
  (repeat' split) <;> simp
@[simp] theorem updAcc_device (s : State) (id : Nat) (f : Access → Access) : device (updAcc s id f) = device s := rfl
@[simp] theorem updElem_device (s : State) (id i : Nat) (f : Elem → Elem) : device (updElem s id i f) = device s := rfl
@[simp] theorem updOwner_device (s : State) (uid : Nat) (f : Thread → Thread) : device (updOwner s uid f) = device s := by
  unfold updOwner
  split <;> simp
@[simp] theorem retire_device (s : State) (id : Nat) : device (retire s id) = device s := by
  unfold retire
  dsimp only
  (repeat' split) <;> simp
@[simp] theorem drainAll_device (x0 : Nat) (s : State) : device (drainAll x0 s) = device s := by
  induction x0 generalizing s with
  | zero => exact rfl
  | succ fuel ih =>
    unfold drainAll
    split <;> simp [ih]
@[simp] theorem settle_device (s : State) (id : Nat) : device (settle s id) = device s := by
  unfold settle
  (repeat' split) <;> simp
@[simp] theorem elemDone_device (s : State) (id i : Nat) (got : Word) (bad : Bool) : device (elemDone s id i got bad) = device s := rfl
@[simp] theorem freeWord_device (s : State) (x0 : Nat) : device (freeWord s x0).1 = device s := by
  induction x0 generalizing s with
  | zero => exact rfl
  | succ w ih => exact ih _
@[simp] theorem updIssuer_device (s : State) (f : Thread → Thread) : device (updIssuer s f) = device s := by
  unfold updIssuer
  simp
@[simp] theorem setRegs_device (s : State) (f : Regs → Regs) : device (setRegs s f) = device s := by
  unfold setRegs
  simp
@[simp] theorem holdFor_device (s : State) (w : Wait) : device (holdFor s w) = device s := by
  unfold holdFor
  simp
@[simp] theorem wrS_device (s : State) (d : SReg) (v : Nat) (p : Bool) : device (wrS s d v p) = device s := by
  unfold wrS
  simp
@[simp] theorem wrP_device (s : State) (d : PReg) (v : Word) : device (wrP s d v) = device s := by
  unfold wrP
  simp
@[simp] theorem raise_device (s : State) (f : Flags) : device (raise s f) = device s := by
  unfold raise
  simp
@[simp] theorem draw_device (s : State) (m : Mode) : device (draw s m).1 = device s := by
  unfold draw
  split_ifs <;> simp
@[simp] theorem wrV_device (s : State) (g : PReg) (d : VReg) (f : Nat → Lane) : device (wrV s g d f) = device s := by
  unfold wrV
  simp
@[simp] theorem loseIfGone_device (gone : Bool) (first : Nat) (s : State) : device (loseIfGone gone first s) = device s := by
  unfold loseIfGone
  split_ifs <;> simp
@[simp] theorem launch_device (s : State) (th : Thread) (kind : AccKind) (ty : Ty) (dst : Dst) (poison : Bool) (elems : List Elem) (scp : Nat) (acq rel : Bool) :
    device (launch s th kind ty dst poison elems scp acq rel) = device s := rfl
@[simp] theorem flushAt_device (s : State) (th : Thread) (scp : Nat) : device (flushAt s th scp) = device s := by
  unfold flushAt
  split_ifs <;> simp
@[simp] theorem wrRounded_device (s : State) (d : SReg) (ty : Ty) (r : RRes) (p : Bool) : device (wrRounded s d ty r p) = device s := by
  unfold wrRounded
  simp
@[simp] theorem wrLanes_device (s : State) (g : PReg) (d : VReg) (f : Nat → LaneRes) : device (wrLanes s g d f) = device s := by
  unfold wrLanes
  simp
@[simp] theorem enqueueM_device (s : State) (th : Thread) (kind : MKind) (ac : AcReg) (shape : BitVec 128) (mode : Nat) (entry : BitVec 1024) :
    device (enqueueM s th kind ac shape mode entry) = device s := rfl
@[simp] theorem putOp_device (s : State) (t : Nat) (o : MOp) : device (putOp s t o) = device s := by
  unfold putOp
  dsimp only
  (repeat' split) <;> simp
@[simp] theorem mrdResult_device (o : MOp) (v : VReg) (h : Nat) (bad : Bool) (s : State) : device (mrdResult o v h bad s) = device s := by
  unfold mrdResult
  split <;> simp
@[simp] theorem comeToBank_device (s : State) (t q num unit : Nat) : device (comeToBank s t q num unit) = device s := by
  unfold comeToBank
  dsimp only
  (repeat' split) <;> simp
@[simp] theorem bankTurns_device (s : State) (t q : Nat) (pas : List Nat) : device (bankTurns s t q pas) = device s := rfl
@[simp] theorem routerTurn_device (s : State) (t pa n : Nat) : device (routerTurn s t pa n) = device s := rfl
@[simp] theorem deckTurn_device (s : State) (pa n : Nat) : device (deckTurn s pa n) = device s := by
  unfold deckTurn
  split_ifs <;> simp
@[simp] theorem readPayload_device (s : State) (th : Thread) (base len : Nat) : device (readPayload s th base len) = device s := rfl
@[simp] theorem dropDyn_device (s : State) (th : Thread) (n : Name) : device (dropDyn s th n) = device s := by
  unfold dropDyn
  simp
@[simp] theorem poolTake_device (s : State) (id : Nat) (r : List Byte) (parent : Option Nat) (depth : Nat) (host : Option (Nat × Nat)) (part : Option Nat) (root : Word) (bad : Bool) :
    device (poolTake s id r parent depth host part root bad) = device s := by
  unfold poolTake
  split_ifs <;> simp
@[simp] theorem spawnDecide_device (s : State) (th : Thread) (r : List Byte) (bad : Bool) : device (spawnDecide s th r bad).1 = device s := by
  unfold spawnDecide
  dsimp only
  (repeat' split) <;> simp
@[simp] theorem dropFile_device (s : State) (t uid : Nat) : device (dropFile s t uid) = device s := by
  unfold dropFile
  split_ifs <;> simp
@[simp] theorem startCmd_device (s : State) (t : Nat) (c : Cmd) : device (startCmd s t c) = device s := by
  unfold startCmd
  split_ifs <;> simp
@[simp] theorem writeOb_device (s : State) (t b o : Nat) (data : List Byte) (bad : List Bool) : device (writeOb s t b o data bad) = device s := rfl
@[simp] theorem holdCmd_device (s : State) (t : Nat) (c : Cmd) : device (holdCmd s t c) = device s := by
  unfold holdCmd
  dsimp only
  (repeat' split) <;> simp
@[simp] theorem putChunk_device (s : State) (t : Nat) (c : Cmd) (k : Chunk) : device (putChunk s t c k) = device s := rfl
@[simp] theorem requestChunk_device (s : State) (t : Nat) (c : Cmd) (k : Chunk) : device (requestChunk s t c k).1 = device s := by
  unfold requestChunk
  split_ifs <;> simp
@[simp] theorem fetchChunk_device (s : State) (t : Nat) (c : Cmd) (k : Chunk) : device (fetchChunk s t c k).1 = device s := by
  unfold fetchChunk
  dsimp only
  (repeat' split) <;> simp
@[simp] theorem sendChunk_device (s : State) (t : Nat) (c : Cmd) (k : Chunk) : device (sendChunk s t c k) = device s := by
  unfold sendChunk
  dsimp only
  split <;> simp
@[simp] theorem findFault_device (s : State) (t : Nat) (c : Cmd) : device (findFault s t c) = device s := by
  unfold findFault
  split <;> simp
@[simp] theorem setPc_device (s : State) (pc : Nat) : device (setPc s pc) = device s := by
  unfold setPc
  simp
@[simp] theorem takeTurn_device (s : State) (a : Access) (e : Elem) : device (takeTurn s a e) = device s := by
  unfold takeTurn
  split <;> simp
@[simp] theorem extFor_device (s : State) (ext : Ext) (lo : Nat) (e : Elem) : device (extFor s ext lo e).1 = device s := by
  unfold extFor
  dsimp only
  (repeat' split) <;> simp
@[simp] theorem respond_device (s : State) (id : Nat) : device (respond s id) = device s := by
  unfold respond
  (repeat' split) <;> simp
@[simp] theorem ackChunks_device (s : State) (uid id port : Nat) : device (ackChunks s uid id port) = device s := rfl
@[simp] theorem acknowledge_device (s : State) (a : Access) (port : Nat) : device (acknowledge s a port) = device s := by
  unfold acknowledge
  simp [foldl_device]
@[simp] theorem loaderAnswer_device (s : State) (id : Nat) (ext : Ext) : device (loaderAnswer s id ext) = device s := rfl
@[simp] theorem updHome_device (s : State) (n : Name) (f : HomeE → HomeE) : device (updHome s n f) = device s := rfl
@[simp] theorem retireDone_device (s : State) (n : Name) : device (retireDone s n) = device s := by
  unfold retireDone
  (repeat' split) <;> simp
@[simp] theorem consume_device (s : State) (p : Pub) : device (consume s p) = device s := by
  unfold consume
  split_ifs <;> simp
@[simp] theorem makeRoom_device (t n : Nat) (x0 : Nat) (s : State) : device (makeRoom t n x0 s) = device s := by
  induction x0 generalizing s with
  | zero => exact rfl
  | succ fuel ih =>
    unfold makeRoom
    dsimp only
    (repeat' split) <;> simp [ih]
@[simp] theorem takeMsg_device (s : State) (i : Nat) : device (takeMsg s i) = device s := rfl
@[simp] theorem reportScope_device (s : State) (q : Sub) : device (reportScope s q) = device s := by
  unfold reportScope
  split <;> simp
@[simp] theorem tilePublish_device (s : State) (p : Pub) (t stage : Nat) : device (tilePublish s p t stage) = device s := by
  unfold tilePublish
  split_ifs <;> simp
@[simp] theorem nmtAdd_device (s : State) (t : Nat) (key : NameKey) (port : Nat) : device (nmtAdd s t key port) = device s := rfl
@[simp] theorem nmtPath_device (key : NameKey) (prev : Nat) (l : List Nat) (s : State) : device (nmtPath s key prev l) = device s := by
  induction l generalizing s prev with
  | nil => exact rfl
  | cons r l ih =>
    unfold nmtPath
    rw [ih]
    split <;> simp
@[simp] theorem freeKey_device (s : State) (key : NameKey) (routers : List Nat) : device (freeKey s key routers) = device s := rfl
@[simp] theorem freeSubs_device (s : State) (l : List Sub) : device (freeSubs s l) = device s :=
  foldl_device (fun s q => freeKey_device ..) _ s
@[simp] theorem sendDown_device (s : State) (h : HomeE) : device (sendDown s h) = device s := by
  unfold sendDown
  simp [foldl_device]
@[simp] theorem homeKeep_device (s : State) (p : Pub) (t src stage : Nat) : device (homeKeep s p t src stage) = device s := by
  unfold homeKeep
  split_ifs <;> simp
@[simp] theorem fallThrough_device (s : State) (q : Sub) : device (fallThrough s q) = device s := by
  unfold fallThrough
  dsimp only
  (repeat' split) <;> simp
@[simp] theorem recordSub_device (s : State) (q : Sub) (path : List Nat) : device (recordSub s q path) = device s := by
  unfold recordSub
  simp
@[simp] theorem keepCopy_device (s : State) (r : Nat) (p : Pub) : device (keepCopy s r p) = device s := by
  unfold keepCopy
  split_ifs <;> simp
@[simp] theorem fireIdent_device (t : Nat) (s : State) (id : Ident) : device (fireIdent t s id) = device s := by
  unfold fireIdent
  dsimp only
  (repeat' split) <;> simp
@[simp] theorem fireReady_device (s : State) (t : Nat) : device (fireReady s t) = device s := by
  unfold fireReady
  simp [foldl_device]
@[simp] theorem askPiers_device (t : Nat) (s : State) (id : Ident) : device (askPiers t s id) = device s := by
  unfold askPiers
  split <;> simp
@[simp] theorem enter_device (s : State) (t : Nat) (p : Pub) (l : List MEntry) : device (enter s t p l) = device s := by
  unfold enter
  simp [foldl_device, apply_ite device]
@[simp] theorem leaveHome_device (s : State) (p : Pub) (t : Nat) (o : SubOf) : device (leaveHome s p t o) = device s := by
  unfold leaveHome
  split_ifs <;> simp
@[simp] theorem setRes_device (s : State) (tid : Nat) (r : ResEntry) : device (setRes s tid r) = device s := rfl
@[simp] theorem askBlock_device (s : State) (pa : Nat) (p : Path) : device (askBlock s pa p) = device s := rfl
@[simp] theorem setSlot_device (s : State) (port slot : Nat) (l : LaunchSlot) : device (setSlot s port slot l) = device s := rfl
@[simp] theorem hostLaunch_device (s : State) (port slot : Nat) (r : List Byte) : device (hostLaunch s port slot r) = device s := by
  unfold hostLaunch
  dsimp only
  (repeat' split) <;> simp
@[simp] theorem atCursor_device (ctx : Nat) (s : State) (p : Placed) : device (atCursor ctx s p) = device s := by
  unfold atCursor
  dsimp only
  (repeat' split) <;> simp
@[simp] theorem stopCmds_device (s : State) (t uid : Nat) : device (stopCmds s t uid) = device s := by
  unfold stopCmds
  simp [foldl_device, apply_ite device]
@[simp] theorem backToList_device (s : State) (k : Nat) (th : Thread) : device (backToList s k th) = device s := rfl
@[simp] theorem discardHandler_device (s : State) (k : Nat) : device (discardHandler s k) = device s := by
  unfold discardHandler
  dsimp only
  (repeat' split) <;> simp
@[simp] theorem moveOne_device (s : State) (ctx : Nat) (lost : Bool) (p q : Placed) : device (moveOne s ctx lost p q) = device s := by
  unfold moveOne
  extract_lets
  exact (foldl_device (fun _ _ => updCore_device ..) _ _).trans rfl
@[simp] theorem redirect_device (s : State) (g : Graph) (ctx : Nat) (moves : List (Placed × Placed)) :
    device (redirect s g ctx moves) = device s := rfl
@[simp] theorem foldOne_device (v : Vacate) (s : State) (x : Saved) : device (foldOne v s x) = device s := by
  unfold foldOne
  dsimp only
  (repeat' split) <;> simp
@[simp] theorem foldAll_device (s : State) (v : Vacate) : device (foldAll s v) = device s := by
  unfold foldAll
  simp [foldl_device]
@[simp] theorem leaveSlot_device (s : State) (p k : Nat) : device (leaveSlot s p k) = device s :=
  foldl_device (fun s h => updHome_device ..) _ s
@[simp] theorem loseCopies_device (s : State) : device (loseCopies s) = device s := rfl
@[simp] theorem clearCore_device (s : State) (t new : Nat) : device (clearCore s t new) = device s := rfl
@[simp] theorem noteOlds_device (s : State) : device (noteOlds s) = device s := rfl
@[simp] theorem cutChunk_device (s : State) (num : Nat) : device (cutChunk s num) = device s := by
  unfold cutChunk
  split <;> simp
@[simp] theorem cutAt_device (s : State) (c : Cut) : device (cutAt s c) = device s := by
  unfold cutAt
  split <;> simp
@[simp] theorem abortAt_device (s : State) (c : Cut) : device (abortAt s c) = device s := by
  unfold abortAt
  split <;> simp
@[simp] theorem dropTlbs_device (s : State) (r : Removal) : device (dropTlbs s r) = device s := rfl
@[simp] theorem yieldsOver_device (l : List Nat) (s : State) : device (yieldsOver l s) = device s := by
  unfold yieldsOver
  simp [foldl_device]
@[simp] theorem passedOver_device (l : List (Nat × Thread × Ready)) (k : Nat) (s : State) : device (passedOver l k s) = device s := by
  unfold passedOver
  simp [foldl_device, apply_ite device]
@[simp] theorem openWords_device (s : State) (k : Nat) (th : Thread) (ws : List Word) (l : List (Nat × Instr)) (wait : Option Wait) (kept : Kept) (undo : Option (List (Nat × Thread) × Map Nat)) :
    device (openWords s k th ws l wait kept undo) = device s := rfl
@[simp] theorem noteAhead_device (s : State) (th : Thread) (pas : List Nat) : device (noteAhead s th pas) = device s := rfl
@[simp] theorem reopen_device (s : State) (k : Nat) (th : Thread) (w : Wait) : device (reopen s k th w) = device s := by
  unfold reopen
  split <;> simp
@[simp] theorem passAreas_device (s : State) (a : Nat) : device (passAreas s a) = device s := rfl
@[simp] theorem committed_device (s : State) (key uid : Nat) : device (committed s key uid) = device s := by
  unfold committed
  simp

end Sys2Proof.Machine

namespace Sys2Proof.Machine

/-! Fields of the keystone's registers. -/

theorem msRaw_msSetField_ne {s : State} {n m lo w v : Nat} (h : m ≠ n) : msRaw (msSetField s n lo w v) m = msRaw s m := by
  unfold msSetField
  rw [msRaw_msPut, if_neg h]

/-- What a write of any register leaves alone, a write of a field does. -/
theorem msSetField_keeps {α : Type} (p : State → α) (hp : ∀ s n v, p (msPut s n v) = p s) (s : State) (n lo w v : Nat) :
    p (msSetField s n lo w v) = p s := hp ..

@[simp] theorem msSetField_live (s : State) (n lo w v : Nat) : (msSetField s n lo w v).live = s.live :=
  msSetField_keeps State.live (fun _ _ _ => rfl) s n lo w v

@[simp] theorem msSetField_hbmEnd (s : State) (n lo w v : Nat) : (msSetField s n lo w v).hbmEnd = s.hbmEnd :=
  msSetField_keeps State.hbmEnd (fun _ _ _ => rfl) s n lo w v

@[simp] theorem msSetField_epoch (s : State) (n lo w v : Nat) : (msSetField s n lo w v).epoch = s.epoch :=
  msSetField_keeps State.epoch (fun _ _ _ => rfl) s n lo w v

theorem getLsbD_msSetField (s : State) (n lo w v : Nat) {i : Nat} (hi : i < 64) : (msRaw (msSetField s n lo w v) n).getLsbD i =
    if lo ≤ i ∧ i < lo + w then v.testBit (i - lo) else (msRaw s n).getLsbD i := by
  unfold msSetField
  rw [msRaw_msPut, if_pos rfl, BitVec.getLsbD_ofNat, decide_eq_true hi, Bool.true_and, testBit_replace]
  rfl

theorem testBit_msField (s : State) (n lo w i : Nat) : (msField s n lo w).testBit i = (decide (i < w) && (msRaw s n).getLsbD (lo + i)) := by
  rw [msField, Nat.testBit_mod_two_pow, Nat.testBit_div_two_pow, Nat.add_comm i lo]
  rfl

theorem msField_msSetField (s : State) {n lo w v : Nat} (h : lo + w ≤ 64) : msField (msSetField s n lo w v) n lo w = v % 2 ^ w := by
  refine Nat.eq_of_testBit_eq fun i => ?_
  rw [testBit_msField, Nat.testBit_mod_two_pow]
  by_cases hi : i < w
  · rw [getLsbD_msSetField _ _ _ _ _ (by omega), if_pos (by omega), Nat.add_sub_cancel_left]
  · simp [hi]

theorem msField_msSetField_apart (s : State) {n lo w v l x : Nat} (h : l + x ≤ lo ∨ lo + w ≤ l) (hx : l + x ≤ 64) :
    msField (msSetField s n lo w v) n l x = msField s n l x := by
  refine Nat.eq_of_testBit_eq fun i => ?_
  rw [testBit_msField, testBit_msField]
  by_cases hi : i < x
  · rw [getLsbD_msSetField _ _ _ _ _ (by omega), if_neg (by omega)]
  · simp [hi]

theorem msField_msSetField_ne {s : State} {n m lo w v l x : Nat} (h : m ≠ n) : msField (msSetField s n lo w v) m l x = msField s m l x := by
  rw [msField, msRaw_msSetField_ne h]
  rfl

theorem stageOf_eq_msField (s : State) : stageOf s = msField s 0x801 60 4 := by
  have h := (msRaw s 0x801).isLt
  rw [stageOf, msField, BitVec.toNat_ushiftRight, Nat.shiftRight_eq_div_pow]
  omega

/-! What a state keeps of its registers where its device stays. -/

section Kept

variable {s t : State} (h : device t = device s)
include h

theorem msRaw_of_device {n : Nat} (hn : n ≠ 0x818) : msRaw t n = msRaw s n := by
  have := congrFun (congrArg Device.reg h) n
  simpa only [device, if_neg hn] using this

theorem msField_of_device {n : Nat} (hn : n ≠ 0x818) (lo w : Nat) : msField t n lo w = msField s n lo w := by
  rw [msField, msRaw_of_device h hn]
  rfl

theorem stageOf_of_device : stageOf t = stageOf s := by
  rw [stageOf, msRaw_of_device h (by decide)]
  rfl

theorem live_of_device : t.live = s.live := congrArg Device.live h

theorem epoch_of_device : t.epoch = s.epoch := congrArg Device.epoch h

theorem hbmEnd_of_device : t.hbmEnd = s.hbmEnd := congrArg Device.hbmEnd h

theorem gated_of_device : t.gated = s.gated := congrArg Device.gated h

end Kept

@[simp] theorem moveName_device (alive : Nat → Bool) (s : State) (h : HomeE) : device (moveName alive s h) = device s := by
  have hl (u : State) (n : Name) : device (loseName u n) = device u := by
    unfold loseName nameLost
    split
    · rfl
    · simp
  unfold moveName
  dsimp only
  (repeat' split) <;> simp [hl]

@[simp] theorem moveNames_device (alive : Nat → Bool) (l : List Name) (s : State) : device (moveNames alive l s) = device s := by
  unfold moveNames
  dsimp only
  rw [device_mk]
  simp [foldl_device]

end Sys2Proof.Machine

namespace Sys2Proof.Machine

/-! Staged start. -/

theorem getD_setD_self {α : Type} [DecidableEq α] (d a : α) (k : Nat) (m : Map α) : getD d k (setD d k a m) = a := by
  rw [getD_setD, if_pos rfl]

theorem find_none_of_keysAbove {α : Type} {b k : Nat} {m : Map α} (h : keysAbove b m = true) (hk : k < b) : find k m = none := by
  induction m generalizing b with
  | nil => rfl
  | cons e m ih =>
    obtain ⟨j, x⟩ := e
    simp only [keysAbove, Bool.and_eq_true, decide_eq_true_eq] at h
    rw [find, if_neg (by omega), ih h.2 (by omega)]

theorem getD_live_of_fused {b : Nat} {m : Map (BitVec 4)} (h : keysAbove b m = true) (l : Map (BitVec 2)) (n : Nat) :
    getD 0 n (m.foldl (fun l e => setD 0 e.1 (BitVec.ofNat 2 e.2.toNat) l) l) = ((find n m).map (BitVec.setWidth 2)).getD (getD 0 n l) := by
  induction m generalizing b l with
  | nil => rfl
  | cons e m ih =>
    obtain ⟨j, x⟩ := e
    simp only [keysAbove, Bool.and_eq_true, decide_eq_true_eq] at h
    obtain ⟨-, hm⟩ := h
    rw [List.foldl_cons, ih hm, getD_setD, find]
    by_cases hj : n = j
    · rw [if_pos hj, if_pos hj, find_none_of_keysAbove hm (by omega)]
      rfl
    · rw [if_neg hj, if_neg hj]

theorem reachStage_device (s : State) (n : Nat) : device (reachStage s n) = device (msSetField s 0x801 60 4 n) := by
  unfold reachStage
  exact logEvent_device _ _ _

theorem stageOf_reachStage (s : State) (n : Nat) : stageOf (reachStage s n) = n % 16 := by
  exact (stageOf_of_device (reachStage_device s n)).trans ((stageOf_eq_msField _).trans (msField_msSetField s (by decide)))

theorem live_reachStage (s : State) (n : Nat) : (reachStage s n).live = s.live :=
  (live_of_device (reachStage_device s n)).trans (msSetField_live ..)

theorem hbmEnd_reachStage (s : State) (n : Nat) : (reachStage s n).hbmEnd = s.hbmEnd :=
  (hbmEnd_of_device (reachStage_device s n)).trans (msSetField_hbmEnd ..)

theorem live_stageSix (s : State) : (stageSix s).live = s.live := by
  unfold stageSix
  split
  · exact live_reachStage ..
  · rfl

theorem hbmEnd_stageSix (s : State) : (stageSix s).hbmEnd = s.hbmEnd := by
  unfold stageSix
  split
  · exact hbmEnd_reachStage ..
  · rfl

theorem stageOf_stageSix {s : State} (h : stageOf s = 5) :
    stageOf (stageSix s) = if (List.range 32).all (fun n => getD false n s.hbmEnd) then 6 else 5 := by
  unfold stageSix
  simp only [h, decide_true, Bool.true_and, upTo]
  split
  · exact stageOf_reachStage ..
  · exact h

/-- The field of a stage apart, stage 6 leaves the registers. -/
theorem msField_stageSix (s : State) {lo w : Nat} (h : lo + w ≤ 60) : msField (stageSix s) 0x801 lo w = msField s 0x801 lo w := by
  unfold stageSix
  split
  · rw [msField_of_device (reachStage_device s 6) (by decide), msField_msSetField_apart _ (.inl h) (by omega)]
  · rfl

theorem getLsbD_stageSix (s : State) {i : Nat} (h : i < 60) : (msRaw (stageSix s) 0x801).getLsbD i = (msRaw s 0x801).getLsbD i := by
  unfold stageSix
  split
  · rw [msRaw_of_device (reachStage_device s 6) (by decide), getLsbD_msSetField _ _ _ _ _ (by omega), if_neg (by omega)]
  · rfl

theorem exec_powerGood_first {s : State} (h : stageOf s = 0) (hf : mapWf s.fused = true) : ∃ t, exec .powerGood s = .next t ∧ stageOf t = 1 ∧
    ∀ n, getD 0 n t.live = (getD 0 n s.fused).setWidth 2 := by
  have hx : exec .powerGood s = execPowerGood s := rfl
  rw [hx, execPowerGood, if_pos h]
  refine ⟨_, rfl, stageOf_reachStage .., fun n => ?_⟩
  rw [live_reachStage]
  refine (getD_live_of_fused hf [] n).trans ?_
  unfold getD
  cases find n s.fused <;> rfl

theorem exec_powerGood_later {s : State} (h : stageOf s ≠ 0) : exec .powerGood s = .next s := by
  have hx : exec .powerGood s = execPowerGood s := rfl
  rw [hx, execPowerGood, if_neg h]

theorem exec_stageAdvance {s : State} {n : Nat} (h : stageOf s = n) (hn : n = 1 ∨ n = 2) :
    ∃ t, exec .stageAdvance s = .next t ∧ stageOf t = n + 1 ∧ t.live = s.live := by
  have hx : exec .stageAdvance s = execStageAdvance s := rfl
  rw [hx, execStageAdvance, h]
  rcases hn with rfl | rfl
  · rw [if_pos rfl]
    exact ⟨_, rfl, stageOf_reachStage s 2, live_reachStage s 2⟩
  · rw [if_neg (by decide), if_pos rfl]
    exact ⟨_, rfl, stageOf_reachStage s 3, live_reachStage s 3⟩

theorem exec_safeBayReady {s : State} (h : stageOf s = 3) : ∃ t, exec .safeBayReady s = .next t ∧ stageOf t = 4 ∧ t.live = s.live := by
  have hx : exec .safeBayReady s = execSafeBayReady s := rfl
  rw [hx, execSafeBayReady, if_pos h]
  exact ⟨_, rfl, stageOf_reachStage .., (live_reachStage _ 4).trans (live_of_device (assignPartners_device s [safeBay]))⟩

/-- The whole wafer's partners are assigned, and the slots that they lent are left. -/
theorem exec_waferTablesLoaded_device {s : State} (h : stageOf s = 4) : ∃ u, exec .waferTablesLoaded s = .next (stageSix u) ∧
    device u = device (msSetField s 0x801 60 4 5) := by
  have hx : exec .waferTablesLoaded s = execWaferTablesLoaded s := rfl
  rw [hx, execWaferTablesLoaded, if_pos h]
  generalize msSetField s 0x801 60 4 5 = m
  refine ⟨_, rfl, (logEvent_device _ _ _).trans ?_⟩
  refine Eq.trans (foldl_device ?_ _ _) (assignPartners_device m bays)
  exact fun s e => leaveSlot_device s e.2.1 e.2.2

theorem exec_waferTablesLoaded {s : State} (h : stageOf s = 4) : ∃ t, exec .waferTablesLoaded s = .next t ∧
    stageOf t = (if (List.range 32).all (fun n => getD false n s.hbmEnd) then 6 else 5) ∧ t.live = s.live := by
  obtain ⟨u, hu, hd⟩ := exec_waferTablesLoaded_device h
  have h5 : stageOf u = 5 := by exact (stageOf_of_device hd).trans ((stageOf_eq_msField _).trans (msField_msSetField _ (by decide)))
  have he : u.hbmEnd = s.hbmEnd := (hbmEnd_of_device hd).trans (msSetField_hbmEnd ..)
  refine ⟨_, hu, ?_, (live_stageSix u).trans ((live_of_device hd).trans (msSetField_live ..))⟩
  rw [stageOf_stageSix h5, he]

theorem exec_fullWafer_device {s : State} (h : stageOf s = 6) : ∃ u, exec .fullWafer s = .next u ∧
    device u = device (msSetField { s with epoch := s.epoch + 1 } 0x801 60 4 7) := by
  have hx : exec .fullWafer s = execFullWafer s := rfl
  rw [hx, execFullWafer, if_pos h]
  generalize msSetField { s with epoch := s.epoch + 1 } 0x801 60 4 7 = m
  exact ⟨_, rfl, (logEvent_device _ _ _).trans (moveNames_device _ _ m)⟩

theorem exec_fullWafer {s : State} (h : stageOf s = 6) : ∃ t, exec .fullWafer s = .next t ∧ stageOf t = 7 ∧ t.epoch = s.epoch + 1 ∧
    t.live = s.live := by
  obtain ⟨u, hu, hd⟩ := exec_fullWafer_device h
  refine ⟨u, hu, ?_, (epoch_of_device hd).trans (msSetField_epoch ..), (live_of_device hd).trans (msSetField_live ..)⟩
  exact (stageOf_of_device hd).trans ((stageOf_eq_msField _).trans (msField_msSetField _ (by decide)))

/-! The end of a stack's training. -/

section Training

variable {s : State} {n : Nat} (h0 : stageOf s ≠ 0) (hn : n < 32) (he : getD false n s.hbmEnd = false)
include h0 hn he

theorem exec_hbmTrainingEnd (ok : Bool) : exec (.hbmTrainingEnd n ok) s = .next (stageSix
    (if ok then msSetField { s with hbmEnd := setD false n true s.hbmEnd } 0x801 32 6 (msField s 0x801 32 6 + 1)
    else passAreas (msSetField { s with hbmEnd := setD false n true s.hbmEnd } 0x801 n 1 1) n)) := by
  have hx : exec (.hbmTrainingEnd n ok) s = execHbmTrainingEnd n ok s := rfl
  rw [hx, execHbmTrainingEnd, if_neg (by simp [h0, he]; omega)]
  rfl

theorem exec_hbmTrainingEnd_trained : ∃ t, exec (.hbmTrainingEnd n true) s = .next t ∧ getD false n t.hbmEnd = true ∧
    msField t 0x801 32 6 = (msField s 0x801 32 6 + 1) % 64 ∧ (msRaw t 0x801).getLsbD n = (msRaw s 0x801).getLsbD n := by
  refine ⟨_, exec_hbmTrainingEnd h0 hn he true, ?_, ?_, ?_⟩
  · rw [hbmEnd_stageSix, if_pos rfl]
    exact getD_setD_self false true n s.hbmEnd
  · rw [msField_stageSix _ (by decide), if_pos rfl, msField_msSetField _ (by decide)]
    rfl
  · rw [getLsbD_stageSix _ (by omega), if_pos rfl, getLsbD_msSetField _ _ _ _ _ (by omega), if_neg (by omega)]
    rfl

theorem exec_hbmTrainingEnd_failed : ∃ t, exec (.hbmTrainingEnd n false) s = .next t ∧ getD false n t.hbmEnd = true ∧
    (msRaw t 0x801).getLsbD n = true := by
  refine ⟨_, exec_hbmTrainingEnd h0 hn he false, ?_, ?_⟩
  · rw [hbmEnd_stageSix, if_neg (by decide), hbmEnd_of_device (passAreas_device ..)]
    exact getD_setD_self false true n s.hbmEnd
  · rw [getLsbD_stageSix _ (by omega), if_neg (by decide), msRaw_of_device (passAreas_device ..) (by decide),
      getLsbD_msSetField _ _ _ _ _ (by omega), if_pos (by omega), Nat.sub_self]
    rfl

end Training

/-! Waking and gating. -/

theorem exec_bayWakeRequest (s : State) (b : Nat) : exec (.bayWakeRequest b) s = .next (startWakes (requestWake s b)) := rfl

theorem requestWake_joins {s : State} {b : Nat} (h : b ∈ s.wakeQ ∨ b ∈ s.inrush) : requestWake s b = s := by
  unfold requestWake
  rw [if_neg]
  rcases h with h | h <;> simp [h]

theorem requestWake_queues {s : State} {b : Nat} (hg : getD false b s.gated = true) (hq : b ∉ s.wakeQ) (hi : b ∉ s.inrush) :
    requestWake s b = { s with wakeQ := s.wakeQ ++ [b] } := by
  unfold requestWake
  rw [if_pos (by simp [hg, hq, hi])]

theorem startWakes_full {s : State} (h : 2 ≤ s.inrush.length) : startWakes s = s := by
  have hl : ¬ s.inrush.length < 2 := by omega
  cases hq : s.wakeQ <;>
    simp only [startWakes, upTo, List.range_succ, List.range_zero, List.nil_append, List.cons_append, List.foldl_cons, List.foldl_nil, hq, hl,
      if_false]

theorem startWakes_first {s : State} {b : Nat} (hq : s.wakeQ = [b]) (hi : s.inrush = []) :
    startWakes s = { s with wakeQ := [], inrush := [b] } := by
  simp only [startWakes, upTo, List.range_succ, List.range_zero, List.nil_append, List.cons_append, List.foldl_cons, List.foldl_nil, hq, hi,
    List.length_nil, Nat.zero_lt_two, if_true]

theorem startWakes_second {s : State} {c : Nat} {l : List Nat} (hq : s.wakeQ = c :: l) (hi : s.inrush.length = 1) :
    startWakes s = { s with wakeQ := l, inrush := s.inrush ++ [c] } := by
  simp only [startWakes, upTo, List.range_succ, List.range_zero, List.nil_append, List.cons_append, List.foldl_cons, List.foldl_nil, hq, hi,
    Nat.one_lt_two, if_true]
  cases l with
  | nil => rfl
  | cons d l => simp [hi]

theorem exec_wakeComplete {s : State} {b : Nat} (h : b ∈ s.inrush) : ∃ t, exec (.wakeComplete b) s = .next t ∧ getD false b t.gated = false ∧
    t.mem = s.mem := by
  have hx : exec (.wakeComplete b) s = execWakeComplete b s := rfl
  rw [hx, execWakeComplete, if_neg (by simp [h])]
  refine ⟨_, rfl, ?_, ?_⟩
  · rw [gated_of_device ((foldl_device (fun s t => (takeRecord_device ..).trans (fireReady_device s t)) _ _).trans (startWakes_device _))]
    exact getD_setD_self false false b s.gated
  · exact (SameMemory.trans (startWakes_memory { s with inrush := s.inrush.erase b, gated := setD false b false s.gated })
      (foldl_memory (fun s t => .trans (fireReady_memory ..) (takeRecord_memory ..)) _ _)).1

/-- Settles O56: each event by its own law; what a stage does beside its own fields leaves the device as it is. -/
theorem startSteps : Obligations.StartSteps := by
  unfold Obligations.StartSteps
  refine ⟨fun s => ⟨exec_powerGood_first, exec_powerGood_later, fun h => exec_stageAdvance h (.inl rfl), fun h => exec_stageAdvance h (.inr rfl),
    exec_safeBayReady, exec_waferTablesLoaded, exec_fullWafer⟩,
    fun s n h0 hn he => ⟨exec_hbmTrainingEnd_trained h0 hn he, exec_hbmTrainingEnd_failed h0 hn he⟩, fun s b => ?_⟩
  refine ⟨fun hg hq hi => ?_, fun hg hq hi hl => ?_, fun c l hg hc hq hi hl => ?_, fun hm hl => ?_, exec_wakeComplete, fun hi => ?_, fun hg => ?_,
    fun hg => ?_⟩
  · rw [exec_bayWakeRequest, requestWake_queues hg (by simp [hq]) (by simp [hi]), hq]
    exact congrArg Host.Outcome.next (startWakes_first rfl hi)
  · rw [exec_bayWakeRequest, requestWake_queues hg hq hi]
    exact congrArg Host.Outcome.next (startWakes_full hl)
  · rw [exec_bayWakeRequest, requestWake_queues hg hq hi, hc]
    exact congrArg Host.Outcome.next (startWakes_second rfl hl)
  · rw [exec_bayWakeRequest, requestWake_joins hm, startWakes_full hl]
  · have hx : exec (.wakeComplete b) s = execWakeComplete b s := rfl
    rw [hx, execWakeComplete, if_pos (by simp [hi])]
  · have hx : exec (.bayGateRequest b) s = execBayGateRequest b s := rfl
    rw [hx, execBayGateRequest, if_pos hg]
    exact ⟨_, rfl, getD_setD_self false true b s.gated, rfl⟩
  · have hx : exec (.bayGateRequest b) s = execBayGateRequest b s := rfl
    rw [hx, execBayGateRequest, if_neg (by simp [hg])]

end Sys2Proof.Machine

namespace Sys2Proof.Machine

/-! Heartbeats and probes. -/

theorem exec_heartbeatBeat {s : State} {n : Nat} (h : watched s n = true) :
    exec (.heartbeatBeat n) s = .next (setBeat s n ⟨s.kcyc, false, 0, 0, 0, false⟩) := by
  have hx : exec (.heartbeatBeat n) s = execHeartbeatBeat n s := rfl
  rw [hx, execHeartbeatBeat, if_pos h]
  rfl

theorem exec_heartbeatTimeout_silent {s : State} {n : Nat} (h : watched s n = true) (hp : (beatOf s n).probing = false)
    (hf : (beatOf s n).fails = 0) (ht : msField s 0x820 0 32 ≤ (s.kcyc - (beatOf s n).last).toNat) :
    exec (.heartbeatTimeout n) s = .next (setBeat s n { beatOf s n with probing := true, sentAt := s.kcyc }) := by
  have hx : exec (.heartbeatTimeout n) s = execHeartbeatTimeout n s := rfl
  rw [hx, execHeartbeatTimeout, if_pos (by simp only [h, hp, hf, ht, Bool.not_false, Bool.and_self, beq_self_eq_true, decide_true])]

theorem exec_heartbeatTimeout_early {s : State} {n : Nat} (ht : (s.kcyc - (beatOf s n).last).toNat < msField s 0x820 0 32) :
    exec (.heartbeatTimeout n) s = .next s := by
  have hx : exec (.heartbeatTimeout n) s = execHeartbeatTimeout n s := rfl
  rw [hx, execHeartbeatTimeout, if_neg (by simp only [decide_eq_false (Nat.not_le.mpr ht), Bool.and_false, Bool.false_eq_true, not_false_eq_true])]

theorem kcyc_logEvent (s : State) (k : Nat) (l : List Word) : (logEvent s k l).kcyc = s.kcyc := congrArg Device.kcyc (logEvent_device s k l)

theorem probeFailed_first {s : State} {n r : Nat} {c : Bool} (h : (beatOf s n).fails = 0) : probeFailed s n r c =
    setBeat (logEvent s 3 [BitVec.ofNat 64 n, Config.probeWord r]) n
      { beatOf s n with probing := false, fails := 1, failedAt := s.kcyc, core0 := c } := by
  unfold probeFailed
  dsimp only
  rw [if_pos h, kcyc_logEvent]

theorem probeFailed_second {s : State} {n r : Nat} {c : Bool} (h : (beatOf s n).fails ≠ 0) : probeFailed s n r c =
    probeLowering (logEvent s 3 [BitVec.ofNat 64 n, Config.probeWord r]) n ((beatOf s n).core0 || c) := by
  unfold probeFailed
  dsimp only
  rw [if_neg h]

section Probe

variable {s : State} {n : Nat}

theorem exec_probeReply_late {core strn : Bool} {eff : Nat} (h : ¬ (s.kcyc - (beatOf s n).sentAt).toNat < 0x10000) :
    exec (.probeReply n true core eff strn) s = .next s := by
  have hx : exec (.probeReply n true core eff strn) s = execProbeReply n true core eff strn s := rfl
  rw [hx, execProbeReply, if_pos (by simp only [decide_eq_true (Nat.not_lt.mp h), Bool.or_true])]

variable (hp : (beatOf s n).probing = true) (hs : (s.kcyc - (beatOf s n).sentAt).toNat < 0x10000)
include hp hs

theorem exec_probeReply {core strn : Bool} {eff : Nat} : exec (.probeReply n true core eff strn) s = .next
    (if core || !computeCapable s (tileOfSite n) || getD false (bayOf (tileOfSite n)) s.gated then calm s n
    else probeFailed s n (1 + 2 * ((coreAt s (tileOfSite n)).eff % 16) +
      (if (msRead s (0xA00 + bayOf (tileOfSite n))).getLsbD 16 then 32 else 0)) true) := by
  have hx : exec (.probeReply n true core eff strn) s = execProbeReply n true core eff strn s := rfl
  rw [hx, execProbeReply, if_neg (by simp only [hp, decide_eq_false (Nat.not_le.mpr hs), Bool.not_true, Bool.or_self, Bool.false_eq_true,
    not_false_eq_true])]

theorem exec_probeReply_answers {strn : Bool} {eff : Nat} (core : Bool)
    (h : core = true ∨ ¬ (computeCapable s (tileOfSite n) = true ∧ getD false (bayOf (tileOfSite n)) s.gated = false)) :
    exec (.probeReply n true core eff strn) s = .next (setBeat s n ⟨s.kcyc, false, 0, 0, 0, false⟩) := by
  rw [exec_probeReply hp hs, if_pos]
  · rfl
  · rcases h with rfl | h
    · rfl
    · cases hc : computeCapable s (tileOfSite n) <;> cases hg : getD false (bayOf (tileOfSite n)) s.gated <;> simp_all

theorem exec_probeReply_fails {strn : Bool} {eff : Nat}
    (h : computeCapable s (tileOfSite n) = true ∧ getD false (bayOf (tileOfSite n)) s.gated = false) :
    exec (.probeReply n true false eff strn) s = .next (probeFailed s n (1 + 2 * ((coreAt s (tileOfSite n)).eff % 16) +
      (if (msRead s (0xA00 + bayOf (tileOfSite n))).getLsbD 16 then 32 else 0)) true) := by
  rw [exec_probeReply hp hs, if_neg (by simp only [h.1, h.2, Bool.not_true, Bool.or_self, Bool.false_eq_true, not_false_eq_true])]

end Probe

theorem exec_probeTimeout_early {s : State} {n : Nat} (h : (s.kcyc - (beatOf s n).sentAt).toNat < 0x10000) :
    exec (.probeTimeout n) s = .next s := by
  have hx : exec (.probeTimeout n) s = execProbeTimeout n s := rfl
  rw [hx, execProbeTimeout, if_neg (by simp only [decide_eq_false (Nat.not_le.mpr h), Bool.and_false, Bool.false_eq_true, not_false_eq_true])]

theorem exec_probeTimeout_late {s : State} {n : Nat} (hp : (beatOf s n).probing = true) (h : 0x10000 ≤ (s.kcyc - (beatOf s n).sentAt).toNat) :
    exec (.probeTimeout n) s = .next (probeFailed s n 0 false) := by
  have hx : exec (.probeTimeout n) s = execProbeTimeout n s := rfl
  rw [hx, execProbeTimeout, if_pos (by simp only [hp, h, decide_true, Bool.and_self])]

theorem exec_probeRetry {s : State} {n : Nat} (hp : (beatOf s n).probing = false) (hf : (beatOf s n).fails = 1)
    (h : 0x10000 ≤ (s.kcyc - (beatOf s n).failedAt).toNat) :
    exec (.probeRetry n) s = .next (setBeat s n { beatOf s n with probing := true, sentAt := s.kcyc }) := by
  have hx : exec (.probeRetry n) s = execProbeRetry n s := rfl
  rw [hx, execProbeRetry, if_pos (by simp only [hp, hf, h, Bool.not_false, Bool.and_self, beq_self_eq_true, decide_true])]

/-! The keystone's own probe. -/

/-- The work of an alert thread ends, and its slot is empty. -/
def alertEnded (s : State) : State := match threadAt s (keyOf Config.ks 13) with
  | none => s
  | some th => dropThread (cancelAll s Config.ks th.uid) (keyOf Config.ks 13)

theorem alertEnded_device (s : State) : device (alertEnded s) = device s := by
  unfold alertEnded
  split
  · rfl
  · exact (dropThread_device ..).trans (cancelAll_device ..)

theorem alertEnded_mem (s : State) : (alertEnded s).mem = s.mem := by
  unfold alertEnded
  split
  · rfl
  · exact (cancelAll_memory ..).1

theorem threadAt_alertEnded (s : State) : threadAt (alertEnded s) (keyOf Config.ks 13) = none := by
  unfold alertEnded
  split
  next h => exact h
  · rw [threadAt_dropThread, if_pos rfl]

/-- A vacate in progress, as it starts again. -/
def vacateAgain (s : State) : State := match s.vacate with
  | none => s
  | some v => msSetField { s with vacate := some { v with phase := 1, gates := gatesOf s v.bays [], expired := [] } } 0x813 8 3 1

theorem restartWork_idle {s : State} (h : s.lowering = none) : restartWork s = vacateAgain s := by
  have hv : (vacateAgain s).lowering = none := by
    unfold vacateAgain
    cases s.vacate with
    | none => exact h
    | some v => exact (msSetField_keeps State.lowering (fun _ _ _ => rfl) ..).trans h
  have he : restartWork s = match (vacateAgain s).lowering with
    | none => vacateAgain s
    | some l => if l.tables || (vacateAgain s).lowVac.isNone then vacateAgain s
      else emptyCore (vacateAgain s) (tileOfSite l.site) l.core := rfl
  rw [he, hv]

section KeystoneProbe

variable {s : State} (h : (msRaw s 0x801).getLsbD 59 = false)
include h

theorem exec_keystoneProbe_answers : exec (.keystoneProbe true) s = .next { s with probeFails := 0 } := by
  have hx : exec (.keystoneProbe true) s = execKeystoneProbe true s := rfl
  rw [hx, execKeystoneProbe, if_neg (Bool.eq_false_iff.mp h), if_pos rfl]

theorem exec_keystoneProbe_first (hf : s.probeFails = 0) : exec (.keystoneProbe false) s = .next { s with probeFails := 1 } := by
  have hx : exec (.keystoneProbe false) s = execKeystoneProbe false s := rfl
  rw [hx, execKeystoneProbe, if_neg (Bool.eq_false_iff.mp h), if_neg (by decide), if_pos hf]

theorem exec_keystoneProbe_second (hf : s.probeFails ≠ 0) : exec (.keystoneProbe false) s = .next
    (restartWork (msSetField { alertEnded s with probeFails := 0 } 0x801 59 1 1)) := by
  have hx : exec (.keystoneProbe false) s = execKeystoneProbe false s := rfl
  rw [hx, execKeystoneProbe, if_neg (Bool.eq_false_iff.mp h), if_neg (by decide), if_neg hf]
  rfl

theorem exec_keystoneProbe_takeover (hf : s.probeFails ≠ 0) (hl : s.lowering = none) :
    ∃ t, exec (.keystoneProbe false) s = .next t ∧ (msRaw t 0x801).getLsbD 59 = true ∧
      t.probeFails = 0 ∧ threadAt t (keyOf Config.ks 13) = none ∧ t.mem = s.mem ∧ (msRead t 0x800).getLsbD 16 = true ∧
      (s.vacate = none → t.vacate = none) ∧
      ∀ v, s.vacate = some v → ∃ w, t.vacate = some w ∧ w.bays = v.bays ∧ w.phase = 1 ∧ w.expired = [] ∧ msField t 0x813 8 3 = 1 := by
  have hd := alertEnded_device s
  have ht := threadAt_alertEnded s
  have hm := alertEnded_mem s
  rw [exec_keystoneProbe_second h hf]
  generalize alertEnded s = a at hd ht hm
  generalize hu : msSetField { a with probeFails := 0 } 0x801 59 1 1 = u
  have hk {α : Type} (p : State → α) (hp : ∀ s n v, p (msPut s n v) = p s) : p u = p { a with probeFails := 0 } := by
    rw [← hu, msSetField_keeps p hp]
  have hul : u.lowering = none := (hk State.lowering fun _ _ _ => rfl).trans ((congrArg Device.lowering hd).trans hl)
  have huv : u.vacate = s.vacate := (hk State.vacate fun _ _ _ => rfl).trans (congrArg Device.vacate hd)
  have hut : u.threads = a.threads := hk State.threads fun _ _ _ => rfl
  have hum : u.mem = s.mem := (hk State.mem fun _ _ _ => rfl).trans hm
  have hup : u.probeFails = 0 := hk State.probeFails fun _ _ _ => rfl
  have hub : (msRaw u 0x801).getLsbD 59 = true := by
    rw [← hu, getLsbD_msSetField _ _ _ _ _ (by decide), if_pos (by decide)]
    rfl
  have hread (t : State) (hb : (msRaw t 0x801).getLsbD 59 = true) : (msRead t 0x800).getLsbD 16 = true := by
    rw [msRead, if_pos rfl, hb, if_pos rfl, BitVec.getLsbD_or]
    simp
  rw [restartWork_idle hul]
  unfold vacateAgain
  cases hv : s.vacate with
  | none =>
    rw [huv, hv]
    refine ⟨u, rfl, hub, hup, ?_, hum, hread u hub, fun _ => huv.trans hv, fun v h => (nomatch h)⟩
    rw [threadAt, hut]
    exact ht
  | some v =>
    rw [huv, hv]
    dsimp only
    generalize hw : msSetField _ 0x813 8 3 1 = w
    have hkw {α : Type} (p : State → α) (hp : ∀ s n v, p (msPut s n v) = p s) :
        p w = p { u with vacate := some { v with phase := 1, gates := gatesOf u v.bays [], expired := [] } } := by
      rw [← hw, msSetField_keeps p hp]
    have hwb : (msRaw w 0x801).getLsbD 59 = true := by
      rw [← hw, msRaw_msSetField_ne (by decide)]
      exact hub
    refine ⟨w, rfl, hwb, ?_, ?_, ?_, hread w hwb, fun h => (nomatch h), fun x hx => ?_⟩
    · exact (hkw State.probeFails fun _ _ _ => rfl).trans hup
    · rw [threadAt, hkw State.threads fun _ _ _ => rfl]
      exact (congrArg _ hut).trans ht
    · exact (hkw State.mem fun _ _ _ => rfl).trans hum
    · obtain rfl := Option.some.inj hx
      refine ⟨_, hkw State.vacate fun _ _ _ => rfl, rfl, rfl, rfl, ?_⟩
      rw [← hw]
      exact msField_msSetField _ (by decide)

end KeystoneProbe

/-! Sensors. -/

theorem contains_sensors {b : Nat} (h : b ∈ bays) : sensors.contains (0x900 + b) = true := by
  rw [List.contains_iff_mem]
  exact List.mem_append_left _ (List.mem_append_left _ (List.mem_map_of_mem h))

theorem exec_sensorUpdate_unarmed {s : State} {b : Nat} (x : BitVec 16) (hb : b ∈ bays) (hs : stageOf s < 3) :
    exec (.sensorUpdate (0x900 + b) x) s = .next (msSetField s (0x900 + b) 0 16 x.toNat) := by
  have hx : exec (.sensorUpdate (0x900 + b) x) s = execSensorUpdate (0x900 + b) x s := rfl
  rw [hx, execSensorUpdate, if_neg (by rw [contains_sensors hb]; decide), if_pos hs]

theorem signed16_eq (v : Word) (lo : Nat) : signed16 v lo = (v.extractLsb' lo 16).toInt := by
  rw [signed16, ← Nat.shiftRight_eq_div_pow]
  rfl

/-- The bits of a sensor's register below its thresholds. -/
theorem sensor_bits (keep : Nat) (a t l : Bool) (x : BitVec 16) :
    let w := BitVec.ofNat 64 (keep * 2 ^ 32 + (if a then 2 ^ 18 else 0) + (if t then 2 ^ 17 else 0) + (if l then 2 ^ 16 else 0) + x.toNat)
    w.extractLsb' 0 16 = x ∧ w.getLsbD 16 = l ∧ w.getLsbD 17 = t := by
  have hx := x.isLt
  refine ⟨BitVec.eq_of_toNat_eq ?_, ?_, ?_⟩
  · rw [BitVec.extractLsb'_toNat, BitVec.toNat_ofNat]
    cases a <;> cases t <;> cases l <;> simp only [if_true, if_false, Bool.false_eq_true] <;> omega
  all_goals
    rw [BitVec.getLsbD_ofNat, Nat.testBit_eq_decide_div_mod_eq]
    cases a <;> cases t <;> cases l <;> simp only [if_true, if_false, Bool.false_eq_true] <;> simp <;> omega

/-- R359: what the throttle registers take from the sensors changes no sensor. -/
theorem msRaw_thrUpdates {n : Nat} (h : n < 0xA00) (l : List Nat) (s : State) : msRaw (l.foldl thrUpdate s) n = msRaw s n := by
  refine foldl_keeps (fun s => msRaw s n) thrUpdate (fun s b => ?_) l s
  have hb : n ≠ bayThr b := by
    unfold bayThr
    omega
  unfold thrUpdate
  exact (msRaw_msSetField_ne hb).trans (msRaw_msSetField_ne hb)

/-- R359: a bay whose sensor has tripped is at level 15. -/
theorem level_thrUpdates {b : Nat} (hb : b < 0x100) (l : List Nat) (s : State) (ht : (msRaw s (0x900 + b)).getLsbD 17 = true)
    (hl : b ∈ l ∨ msField s (0xA00 + b) 4 4 = 15) : msField (l.foldl thrUpdate s) (0xA00 + b) 4 4 = 15 := by
  induction l generalizing s with
  | nil => exact hl.resolve_left (List.not_mem_nil)
  | cons c l ih =>
    refine ih _ ((congrArg (fun v => BitVec.getLsbD v 17) (msRaw_thrUpdates (by omega) [c] s)).trans ht) ?_
    by_cases hc : c = b
    · right
      have htrip : bayTrip s c = true := by
        unfold bayTrip
        rw [Bool.or_eq_true]
        exact .inl (hc ▸ ht)
      rw [thrUpdate, htrip, ← hc]
      exact msField_msSetField _ (by decide)
    · refine hl.imp (fun h => (List.mem_cons.mp h).resolve_left (Ne.symm hc)) fun h => ?_
      have hr : 0xA00 + b ≠ bayThr c := by
        unfold bayThr
        omega
      rw [thrUpdate, msField_msSetField_ne hr, msField_msSetField_ne hr]
      exact h

theorem bays_lt {b : Nat} (h : b ∈ bays) : b < 0x100 := by
  have := mem_upTo.mp (List.mem_of_mem_filter h)
  omega

theorem exec_sensorUpdate {s : State} {b : Nat} (x : BitVec 16) (hb : b ∈ bays) (hs : 3 ≤ stageOf s) :
    ∃ t, exec (.sensorUpdate (0x900 + b) x) s = .next t ∧
      device t = device (bays.foldl thrUpdate (msPut s (0x900 + b) (sensorNext (msRaw s (0x900 + b)) x).1)) := by
  have hx : exec (.sensorUpdate (0x900 + b) x) s = execSensorUpdate (0x900 + b) x s := rfl
  rw [hx, execSensorUpdate, if_neg (by rw [contains_sensors hb]; decide), if_neg (by omega)]
  generalize hr : sensorNext (msRaw s (0x900 + b)) x = r
  refine ⟨_, rfl, ?_⟩
  dsimp only
  split
  · exact (startAlert_device _ _).trans (logEvent_device _ _ _)
  · rfl

theorem sensorUpdate_bits {s : State} {b : Nat} (x : BitVec 16) (hb : b ∈ bays) (hs : 3 ≤ stageOf s) :
    let v := msRaw s (0x900 + b)
    ∃ t, exec (.sensorUpdate (0x900 + b) x) s = .next t ∧ (msRaw t (0x900 + b)).extractLsb' 0 16 = x ∧
      (840 ≤ x.toInt → (msRaw t (0x900 + b)).getLsbD 17 = true ∧ msField t (0xA00 + b) 4 4 = 15) ∧
      (x.toInt < 840 → x.toInt ≤ (v.extractLsb' 32 16).toInt → (msRaw t (0x900 + b)).getLsbD 17 = false) ∧
      (x.toInt < 840 → (v.extractLsb' 32 16).toInt < x.toInt → (msRaw t (0x900 + b)).getLsbD 17 = v.getLsbD 17) ∧
      (v.getLsbD 18 = true → (v.extractLsb' 48 16).toInt ≤ x.toInt → (msRaw t (0x900 + b)).getLsbD 16 = true) := by
  intro v
  have hlt := bays_lt hb
  obtain ⟨t, ht, hd⟩ := exec_sensorUpdate x hb hs
  have hr : msRaw t (0x900 + b) = (sensorNext v x).1 := by
    rw [msRaw_of_device hd (by omega), msRaw_thrUpdates (by omega), msRaw_msPut, if_pos rfl]
  obtain ⟨htemp, hrise, htrip⟩ := sensor_bits (v.toNat / 2 ^ 32)
    (if x.toInt ≤ signed16 v 32 then true else if signed16 v 48 ≤ x.toInt && v.getLsbD 18 then false else v.getLsbD 18)
    (if 840 ≤ x.toInt then true else if x.toInt ≤ signed16 v 32 then false else v.getLsbD 17)
    ((signed16 v 48 ≤ x.toInt && v.getLsbD 18) || v.getLsbD 16) x
  refine ⟨t, ht, ?_, fun h => ?_, fun h hlo => ?_, fun h hlo => ?_, fun ha hhi => ?_⟩
  · rw [hr]
    exact htemp
  · have h17 : (msRaw t (0x900 + b)).getLsbD 17 = true := by
      rw [hr]
      exact htrip.trans (if_pos h)
    refine ⟨h17, ?_⟩
    rw [msField_of_device hd (by omega)]
    refine level_thrUpdates hlt _ _ ?_ (.inl hb)
    rw [msRaw_msPut, if_pos rfl, ← hr]
    exact h17
  · rw [hr]
    exact htrip.trans ((if_neg (by omega)).trans (if_pos (by rw [signed16_eq]; exact hlo)))
  · rw [hr]
    exact htrip.trans ((if_neg (by omega)).trans (if_neg (by rw [signed16_eq]; omega)))
  · rw [hr]
    refine hrise.trans ?_
    rw [signed16_eq, decide_eq_true hhi, ha]
    rfl

/-- Settles O55: each event by its own law; a sensor's register by its bits. -/
theorem watchSteps : Obligations.WatchSteps := by
  unfold Obligations.WatchSteps
  refine ⟨fun s n hw => ⟨exec_heartbeatBeat hw, exec_heartbeatTimeout_silent hw, exec_heartbeatTimeout_early⟩, fun s n eff strn hp => ?_,
    fun s n => exec_probeRetry, fun s h => ⟨exec_keystoneProbe_answers h, exec_keystoneProbe_first h, exec_keystoneProbe_takeover h⟩,
    fun s b x => exec_sensorUpdate_unarmed x, fun s b x hb hs => sensorUpdate_bits x hb hs, fun s t b => ⟨fun ht hc => ?_, fun hb => ?_⟩⟩
  · refine ⟨fun hs => exec_probeReply_answers hp hs true (.inl rfl), fun hs hd => exec_probeReply_answers hp hs false (.inr hd),
      fun hs hd hf => ?_, fun hs hd hf => ?_, fun c hs => exec_probeReply_late hs, exec_probeTimeout_early, fun hs hf => ?_, fun hs hf => ?_⟩
    · rw [exec_probeReply_fails hp hs hd, probeFailed_first hf]
    · rw [exec_probeReply_fails hp hs hd, probeFailed_second hf, Bool.or_true]
    · rw [exec_probeTimeout_late hp hs, probeFailed_first hf]
    · rw [exec_probeTimeout_late hp hs, probeFailed_second (by omega), Bool.or_false]
  · have hx : exec (.throttleApply t) s = execThrottleApply t s := rfl
    rw [hx, execThrottleApply, if_pos (by simp [ht, hc])]
    exact ⟨_, rfl, congrArg Core.eff (coreAt_updCore ..), rfl⟩
  · have hx : exec (.droopStretch b) s = execDroopStretch b s := rfl
    rw [hx, execDroopStretch, if_pos (by simp [hb])]
    exact ⟨_, _, rfl, (find_put ..).trans (if_pos rfl), rfl, rfl⟩

end Sys2Proof.Machine

namespace Sys2Proof.Machine

/-! BAR0: a keystone register, or the MSI-X table. -/

theorem sensors_lt {n : Nat} (h : n ∈ sensors) : n < 0xA00 := by
  simp only [sensors, List.mem_append, List.mem_map, mem_upTo, List.mem_filter] at h
  omega

theorem msAssigned_msix (k : Nat) : msAssigned (0x100000 + k) = false := by
  have hs : sensors.contains (0x100000 + k) = false := by
    rw [Bool.eq_false_iff, ne_eq, List.contains_iff_mem]
    intro h
    have := sensors_lt h
    omega
  have hb : bays.contains (0x100000 + k - 0xA00) = false := by
    rw [Bool.eq_false_iff, ne_eq, List.contains_iff_mem]
    intro h
    have := bays_lt h
    omega
  unfold msAssigned
  rw [hs, hb]
  simp
  omega

theorem execRegisterWrite_hidden {s : State} {p n : Nat} {v : Word} {be : BitVec 8} (h : 2 ≤ p ∨ be = 0 ∨ pcieUp s = false) :
    exec (.registerWrite p n v be) s = .next s := by
  have hx : exec (.registerWrite p n v be) s = execRegisterWrite p n v be s := rfl
  rw [hx, execRegisterWrite, if_pos]
  rcases h with h | h | h <;> simp [h]

section Visible

variable {s : State} {p : Nat} {be : BitVec 8} (hp : p < 2) (hbe : be ≠ 0) (hu : pcieUp s = true)
include hp hbe hu

theorem exec_registerWrite_visible (n : Nat) (v : Word) : exec (.registerWrite p n v be) s = .next
    (if msAssigned n then (if hostMay p n then msWrite s n v (beMask be) (some p) else s)
    else if 0x100000 ≤ n && n < 0x101000 then msixWrite s p (n - 0x100000) v (beMask be) else s) := by
  have hx : exec (.registerWrite p n v be) s = execRegisterWrite p n v be s := rfl
  have hb : (be == 0) = false := beq_eq_false_iff_ne.mpr hbe
  rw [hx, execRegisterWrite, if_neg]
  rw [hu, hb, decide_eq_false (Nat.not_le.mpr hp)]
  decide

end Visible

/-- What a port shows no register for, or its table, leaves the state. -/
theorem exec_registerWrite_ignored {s : State} {p n : Nat} {v : Word} {be : BitVec 8}
    (h : (msAssigned n = true ∧ hostMay p n = false) ∨ (msAssigned n = false ∧ (n < 0x100000 ∨ 0x101000 ≤ n))) :
    exec (.registerWrite p n v be) s = .next s := by
  by_cases hv : p < 2 ∧ be ≠ 0 ∧ pcieUp s = true
  · obtain ⟨hp, hbe, hu⟩ := hv
    rw [exec_registerWrite_visible hp hbe hu]
    rcases h with ⟨ha, hm⟩ | ⟨ha, hn⟩
    · rw [ha, hm, if_pos rfl, if_neg (by decide)]
    · rw [ha, if_neg (by decide), if_neg (by simp; omega)]
  · refine execRegisterWrite_hidden ?_
    by_cases hp : p < 2
    · by_cases hbe : be = 0
      · exact .inr (.inl hbe)
      · exact .inr (.inr (Bool.eq_false_iff.mpr fun hu => hv ⟨hp, hbe, hu⟩))
    · exact .inl (by omega)

/-! The MSI-X table. -/

theorem msixHalf_msixPut (s : State) (p k j : Nat) (v : Word) : msixHalf (msixPut s p k v) p j =
    if j = k then (if k % 2 = 0 then v else v &&& 0x1FFFFFFFF) else msixHalf s p j := by
  unfold msixHalf msixPut
  by_cases h : j = k
  · subst h
    rw [if_pos rfl]
    exact getD_setD_self ..
  · rw [if_neg h]
    exact congrArg (fun o : Option Word => o.getD (msixReset (4096 * p + j))) (find_setD_ne _ _ (by omega) _)

theorem msixTab_msixFlush (s : State) (p vec : Nat) : (msixFlush s p vec).msixTab = s.msixTab := by
  unfold msixFlush
  dsimp only
  split <;> rfl

theorem msixHalf_msixFlush (s : State) (p vec j k : Nat) : msixHalf (msixFlush s p vec) j k = msixHalf s j k := by
  rw [msixHalf, msixTab_msixFlush]
  rfl

theorem exec_registerWrite_msix {s : State} {p k : Nat} {v : Word} (hp : p < 2) (hk : k < 4096) (hu : pcieUp s = true) :
    ∃ t, exec (.registerWrite p (0x100000 + k) v 0xFF) s = .next t ∧
      msixHalf t p k = (if k % 2 = 0 then v else v &&& 0x1FFFFFFFF) := by
  have hm : beMask 0xFF = BitVec.allOnes 64 := by decide
  have hw (x : Word) : (x &&& ~~~BitVec.allOnes 64) ||| (v &&& BitVec.allOnes 64) = v := by
    rw [BitVec.not_allOnes, BitVec.and_zero, BitVec.zero_or, BitVec.and_allOnes]
  rw [exec_registerWrite_visible hp (by decide) hu, msAssigned_msix, if_neg (by decide), if_pos (by simp; omega)]
  refine ⟨_, rfl, ?_⟩
  rw [msixWrite, msixHalf_msixFlush, Nat.add_sub_cancel_left, msixHalf_msixPut, if_pos rfl, hm, hw]

theorem msixUnmask {s : State} {p vec : Nat} (hp : p < 2) (hv : vec < 2048) (hu : pcieUp s = true) :
    exec (.msixUnmask p vec) s = .next (msixWrite s p (2 * vec + 1) 0 0x100000000) := by
  have hx : exec (.msixUnmask p vec) s = execMsixUnmask p vec s := rfl
  rw [hx, execMsixUnmask, if_neg]
  simp [hu]
  omega

/-- The half entry of a vector whose mask bit is cleared. -/
theorem unmasked_half (x : Word) : ((x &&& ~~~0x100000000 ||| 0 &&& 0x100000000) &&& 0x1FFFFFFFF).getLsbD 32 = false ∧
    ((x &&& ~~~0x100000000 ||| 0 &&& 0x100000000) &&& 0x1FFFFFFFF).setWidth 32 = x.setWidth 32 := by
  have hm : ∀ i, i < 32 → (0x100000000 : Word).getLsbD i = false := by decide
  have hk : ∀ i, i < 32 → (0x1FFFFFFFF : Word).getLsbD i = true := by decide
  refine ⟨by simp, BitVec.eq_of_getLsbD_eq fun i hi => ?_⟩
  have h64 : i < 64 := by omega
  simp only [BitVec.getLsbD_setWidth, BitVec.getLsbD_and, BitVec.getLsbD_or, BitVec.getLsbD_not, hm i hi, hk i hi, h64, decide_true,
    Bool.not_false, Bool.and_true, Bool.and_false, Bool.or_false]

theorem exec_msixUnmask {s : State} {p vec : Nat} (hp : p < 2) (hv : vec < 2048) (hu : pcieUp s = true) :
    let k := 2048 * p + vec
    ∃ t, exec (.msixUnmask p vec) s = .next t ∧ msixOpen t p vec = true ∧
      (getD false k s.msixPend = true → t.outHost = s.outHost ++
        [.msix p vec (msixHalf s p (2 * vec)) ((msixHalf s p (2 * vec + 1)).setWidth 32)] ∧ getD false k t.msixPend = false) ∧
      (getD false k s.msixPend = false → t.outHost = s.outHost) := by
  intro k
  obtain ⟨hmask, hdata⟩ := unmasked_half (msixHalf s p (2 * vec + 1))
  rw [msixUnmask hp hv hu, msixWrite, show (2 * vec + 1) / 2 = vec by omega]
  generalize hq : msixPut s p (2 * vec + 1) _ = q
  have hhalf : msixHalf q p (2 * vec + 1) = _ := hq ▸ (msixHalf_msixPut ..).trans ((if_pos rfl).trans (if_neg (by omega)))
  have haddr : msixHalf q p (2 * vec) = msixHalf s p (2 * vec) := hq ▸ (msixHalf_msixPut ..).trans (if_neg (by omega))
  have hout : q.outHost = s.outHost := hq ▸ rfl
  have hpend : q.msixPend = s.msixPend := hq ▸ rfl
  have hopen : msixOpen q p vec = true := by rw [msixOpen, hhalf, hmask]; rfl
  refine ⟨_, rfl, ?_, fun h => ?_, fun h => ?_⟩
  · rw [msixOpen, msixHalf_msixFlush]
    exact hopen
  · rw [msixFlush, if_pos (by rw [hopen, hpend]; exact h)]
    refine ⟨?_, getD_setD_self false false k q.msixPend⟩
    show q.outHost ++ [.msix p vec (msixHalf q p (2 * vec)) ((msixHalf q p (2 * vec + 1)).setWidth 32)] = _
    rw [hout, haddr, hhalf, hdata]
  · rw [msixFlush, if_neg (by rw [hopen, hpend]; simp [h, k])]
    exact hout

end Sys2Proof.Machine

namespace Sys2Proof.Machine

/-! BAR2. -/

/-- The turns that a host's access takes at banks, and the errors that it finds, leave what it answers by. -/
theorem deckRead_frame (s : State) (pa n : Nat) : ∃ c p k e l, discover (deckTurn s pa n) pa n =
    { s with cores := c, poison := p, struck := k, errs := e, lowerQ := l } := by
  unfold deckTurn
  split
  · exact ⟨_, _, _, _, _, discover_sameButErrors (routerTurn s (padOwner pa) pa n) pa n⟩
  · exact ⟨s.cores, _, _, _, _, discover_sameButErrors s pa n⟩

theorem discover_deckTurn_mem (s : State) (pa n : Nat) : (discover (deckTurn s pa n) pa n).mem = s.mem :=
  (discover_mem ..).trans (deckTurn_memory s pa n).1

theorem rangePoison_deckRead (s : State) (pa n : Nat) : rangePoison (discover (deckTurn s pa n) pa n) pa n = rangeBad s pa n := by
  rw [rangePoison_discover]
  unfold deckTurn
  split <;> rfl

theorem any_linePoison (s : State) (pa n : Nat) : ((upTo n).map (fun i => linePoison s (pa + i))).any (fun b => b) = rangePoison s pa n := by
  rw [List.any_map]
  rfl

section Bar2

variable {s : State} {p off pa : Nat} (ha : bar2Addr s p off = some pa)
include ha

theorem exec_bar2Read_unsupported {n : Nat} (h : bar2Takes s pa = false) :
    exec (.bar2Read p off n) s = .next { s with outHost := s.outHost ++ [.cpl p none false] } := by
  have hx : exec (.bar2Read p off n) s = execBar2Read p off n s := rfl
  rw [hx, execBar2Read, ha]
  simp only [h, Bool.not_false, Bool.true_or, if_true]

section Taken

variable {n : Nat} (h1 : bar2Takes s pa = true) (h2 : bar2Takes s (pa + (n - 1)) = true)
include h1 h2

theorem exec_bar2Read_waits (h : bar2Waits s pa = true ∨ abutRoutes s (hostAgent p) pa = false ∨ deckFree s pa n = false) :
    exec (.bar2Read p off n) s = .next s := by
  have hx : exec (.bar2Read p off n) s = execBar2Read p off n s := rfl
  have hc : (bar2Waits s pa || !abutRoutes s (hostAgent p) pa || !deckFree s pa n) = true := by
    rcases h with h | h | h <;> simp [h]
  rw [hx, execBar2Read, ha]
  simp only [h1, h2, hc, Bool.not_true, Bool.or_self, Bool.false_eq_true, if_false, if_true]

theorem exec_bar2Read_data (hw : bar2Waits s pa = false) (hg : gone s pa = false) (hr : abutRoutes s (hostAgent p) pa = true)
    (hf : deckFree s pa n = true) : ∃ t, exec (.bar2Read p off n) s = .next t ∧ t.mem = s.mem ∧
      t.outHost = s.outHost ++ [.cpl p (some (readBytes s pa n)) (rangeBad s pa n)] := by
  have hx : exec (.bar2Read p off n) s = execBar2Read p off n s := rfl
  have hb := rangePoison_deckRead s pa n
  have hl : readBytes (discover (deckTurn s pa n) pa n) pa n = readBytes s pa n :=
    readBytes_of_mem (discover_deckTurn_mem ..) pa n
  obtain ⟨c, q, k, e, l, hd⟩ := deckRead_frame s pa n
  rw [hx, execBar2Read, ha]
  simp only [h1, h2, hw, hg, hr, hf, readRange, Bool.not_true, Bool.or_self, Bool.false_eq_true, if_false]
  rw [any_linePoison, hb, hl, hd]
  exact ⟨_, rfl, rfl, rfl⟩

end Taken

theorem exec_bar2Write_ignored {l : List Byte} (h : bar2Takes s pa = false ∨ bar2Waits s pa = true ∨ abutRoutes s (hostAgent p) pa = false ∨
    aheadMeets s s.nextUid pa l.length = true ∨ deckFree s pa l.length = false) : exec (.bar2Write p off l false) s = .next s := by
  have hx : exec (.bar2Write p off l false) s = execBar2Write p off l false s := rfl
  rw [hx, execBar2Write, ha]
  refine congrArg Host.Outcome.next (if_pos ?_)
  rcases h with h | h | h | h | h <;> simp [h]

theorem exec_bar2Write {l : List Byte} (h1 : bar2Takes s pa = true) (h2 : bar2Takes s (pa + (l.length - 1)) = true)
    (hw : bar2Waits s pa = false) (hg : gone s pa = false) (hr : abutRoutes s (hostAgent p) pa = true) (hf : deckFree s pa l.length = true)
    (he : ¬ aheadMeets s s.nextUid pa l.length = true) :
    exec (.bar2Write p off l false) s = .next (writeClean (deckTurn s pa l.length) pa l) := by
  have hx : exec (.bar2Write p off l false) s = execBar2Write p off l false s := rfl
  rw [hx, execBar2Write, ha]
  refine congrArg Host.Outcome.next ((if_neg ?_).trans (if_neg (by decide)))
  simp [h1, h2, hw, hg, hr, hf, he]

theorem exec_bar2Atomicop_unsupported {op : HostAtomic} {n : Nat} {a b : Word}
    (h : bar2Takes s pa = false ∨ pa % n ≠ 0 ∨ opNew op n a b 0 = none) :
    exec (.bar2Atomicop p off op n a b) s = .next { s with outHost := s.outHost ++ [.cpl p none false] } := by
  have hx : exec (.bar2Atomicop p off op n a b) s = execBar2Atomicop p off op n a b s := rfl
  rw [hx, execBar2Atomicop, ha]
  refine congrArg Host.Outcome.next (if_pos ?_)
  rcases h with h | h | h <;> simp [h]

section Atomic

variable {op : HostAtomic} {a b : Word} (h1 : bar2Takes s pa = true) (hm : pa % 8 = 0) (ho : opNew op 8 a b 0 ≠ none)
include h1 hm ho

theorem exec_bar2Atomicop_early (he : aheadMeets s s.nextUid pa 8 = true) : exec (.bar2Atomicop p off op 8 a b) s = .next s := by
  have hx : exec (.bar2Atomicop p off op 8 a b) s = execBar2Atomicop p off op 8 a b s := rfl
  have hs := Option.isNone_eq_false_iff.mpr (Option.isSome_iff_ne_none.mpr ho)
  rw [hx, execBar2Atomicop, ha]
  refine congrArg Host.Outcome.next ((if_neg ?_).trans (if_pos ?_))
  · simp [h1, hm, hs]
  · simp [he]

theorem exec_bar2Atomicop_performs (hw : bar2Waits s pa = false) (hg : gone s pa = false) (hr : abutRoutes s (hostAgent p) pa = true)
    (hf : deckFree s pa 8 = true) (he : ¬ aheadMeets s s.nextUid pa 8 = true) {v : Nat} (hv : opNew op 8 a b (readLe s pa 8) = some v) :
    exec (.bar2Atomicop p off op 8 a b) s = .next { writeLe (discover (deckTurn s pa 8) pa 8) pa 8 v with
      outHost := s.outHost ++ [.cpl p (some (leBytes 8 (readLe s pa 8))) (rangeBad s pa 8)] } := by
  have hx : exec (.bar2Atomicop p off op 8 a b) s = execBar2Atomicop p off op 8 a b s := rfl
  have hs := Option.isNone_eq_false_iff.mpr (Option.isSome_iff_ne_none.mpr ho)
  have hl : readLe (discover (deckTurn s pa 8) pa 8) pa 8 = readLe s pa 8 :=
    readLe_of_mem (discover_deckTurn_mem ..) pa 8
  have hout : (discover (deckTurn s pa 8) pa 8).outHost = s.outHost := by
    obtain ⟨c, q, k, e, l, hd⟩ := deckRead_frame s pa 8
    rw [hd]
  rw [hx, execBar2Atomicop, ha]
  refine congrArg Host.Outcome.next ((if_neg ?_).trans ((if_neg ?_).trans ((if_neg ?_).trans ?_)))
  · simp [h1, hm, hs]
  · simp [hw, he, hf]
  · simp [hg, hr]
  · simp only [hl, hv, rangePoison_deckRead, hout]

end Atomic

end Bar2

/-- What is read at a place whose number a host or a peer has replaced. -/
theorem performed_frame {s u t : State} {pa n v : Nat} (hu : u.mem = s.mem) (ht : t.mem = (writeLe u pa n v).mem) :
    readLe t pa n = v % 2 ^ (8 * n) ∧ ∀ x, x < pa ∨ pa + n ≤ x → readByte t x = readByte s x :=
  ⟨(readLe_of_mem ht pa n).trans (readLe_writeLe u pa n v), fun x hx => (readByte_of_mem_eq ht x).trans
    ((readByte_writeLe_outside u pa n v x hx).trans (readByte_of_mem_eq hu x))⟩

theorem opNew_eight {op : HostAtomic} {a b : Word} {old v : Nat} (h : (op = .fetchAdd ∧ v = (old + a.toNat) % 2 ^ 64) ∨
    (op = .swap ∧ v = a.toNat) ∨ (op = .cas ∧ v = if old = a.toNat then b.toNat else old)) : opNew op 8 a b old = some v := by
  have ha : a.toNat % 2 ^ (8 * 8) = a.toNat := Nat.mod_eq_of_lt a.isLt
  have hb : b.toNat % 2 ^ (8 * 8) = b.toNat := Nat.mod_eq_of_lt b.isLt
  rcases h with ⟨rfl, rfl⟩ | ⟨rfl, rfl⟩ | ⟨rfl, rfl⟩
  · simp only [opNew, ha]
    rfl
  · simp only [opNew, ha]
    rfl
  · simp only [opNew, ha, hb, if_true]

end Sys2Proof.Machine

namespace Sys2Proof.Machine

/-! Cufort. -/

theorem exec_peerAccessArrival_again {s : State} {p : Peer} {e : Nat × Nat × List (Option Byte) × Bool}
    (h : s.peerSeen.find? (fun e => e.1 == p.dev && e.2.1 == p.seq) = some e) :
    exec (.peerAccessArrival p) s = .next { s with outHost := s.outHost ++ [.peerAns p.dev p.seq e.2.2.1 e.2.2.2] } := by
  have hx : exec (.peerAccessArrival p) s = execPeerAccessArrival p s := rfl
  rw [hx, execPeerAccessArrival, h]

/-- An access is answered, and its answer kept for a duplicate of it. -/
def peerAnswered (s : State) (p : Peer) (b : List (Option Byte)) (err : Bool) : State :=
  { s with peerSeen := s.peerSeen ++ [(p.dev, p.seq, b, err)], outHost := s.outHost ++ [.peerAns p.dev p.seq b err] }

section New

variable {s : State} {p : Peer} (h : s.peerSeen.find? (fun e => e.1 == p.dev && e.2.1 == p.seq) = none)
include h

theorem exec_peerAccessArrival_unserved (ha : peerAddr s p.off = none) :
    exec (.peerAccessArrival p) s = .next (peerAnswered s p [] true) := by
  have hx : exec (.peerAccessArrival p) s = execPeerAccessArrival p s := rfl
  rw [hx, execPeerAccessArrival, h, ha]
  rfl

variable {pa : Nat} (ha : peerAddr s p.off = some pa) (h1 : peerTakes s pa = true) (h2 : peerTakes s (pa + (peerSize p - 1)) = true)
include ha h1 h2

theorem exec_peerAccessArrival : exec (.peerAccessArrival p) s = .next
    (if !stackReady s pa || (p.kind != .load && aheadMeets s s.nextUid pa (peerSize p)) then s
    else if !abutRoutes s (peerAgent s p.dev) pa then (if p.kind = .load then s else peerAnswered s p [] true)
    else if stackFailed s pa && p.kind != .load then peerAnswered s p [] true
    else peerAnswered (peerPerform s p pa).1 p (peerPerform s p pa).2 false) := by
  have hx : exec (.peerAccessArrival p) s = execPeerAccessArrival p s := rfl
  rw [hx, execPeerAccessArrival, h, ha]
  refine congrArg Host.Outcome.next ((if_neg ?_).trans rfl)
  simp [h1, h2]

theorem exec_peerAccessArrival_trains (hr : stackReady s pa = false) : exec (.peerAccessArrival p) s = .next s := by
  rw [exec_peerAccessArrival h ha h1 h2, if_pos (by rw [hr]; rfl)]

variable (hr : stackReady s pa = true) (he : p.kind = .load ∨ aheadMeets s s.nextUid pa (peerSize p) = false)
include hr he

theorem exec_peerAccessArrival_ready : exec (.peerAccessArrival p) s = .next
    (if !abutRoutes s (peerAgent s p.dev) pa then (if p.kind = .load then s else peerAnswered s p [] true)
    else if stackFailed s pa && p.kind != .load then peerAnswered s p [] true
    else peerAnswered (peerPerform s p pa).1 p (peerPerform s p pa).2 false) := by
  rw [exec_peerAccessArrival h ha h1 h2, if_neg]
  rcases he with he | he <;> simp [hr, he]

theorem exec_peerAccessArrival_performs (hu : abutRoutes s (peerAgent s p.dev) pa = true) (hf : stackFailed s pa = false) :
    exec (.peerAccessArrival p) s = .next (peerAnswered (peerPerform s p pa).1 p (peerPerform s p pa).2 false) := by
  rw [exec_peerAccessArrival_ready h ha h1 h2 hr he, if_neg (by rw [hu]; decide), hf, Bool.false_and,
    if_neg Bool.false_ne_true]

end New

theorem zip_replicate {α β : Type} (l : List α) (n : Nat) (b : β) (h : l.length = n) : l.zip (List.replicate n b) = l.map (fun x => (x, b)) := by
  subst h
  induction l with
  | nil => rfl
  | cons x l ih => simp [List.replicate_succ, ih]

theorem peerPerform_load {s : State} {p : Peer} {pa : Nat} (hk : p.kind = .load) (hf : stackFailed s pa = false) :
    peerPerform s p pa = (discover s pa p.len, (upTo p.len).map (fun i => if lineBad s (pa + i) then none else some (readByte s (pa + i)))) := by
  have hb : readBytes (discover s pa p.len) pa p.len = (upTo p.len).map (fun i => readByte s (pa + i)) :=
    (readBytes_of_mem (discover_mem ..) pa p.len).trans (readBytes_eq ..)
  have hp (i : Nat) (hi : i < p.len) : linePoison (discover s pa p.len) (pa + i) = lineBad s (pa + i) := by
    have ho : overlap (64 * ((pa + i) / 64)) 64 pa p.len = true := by
      simp only [overlap, Bool.and_eq_true, decide_eq_true_eq]
      omega
    rw [linePoison_discover, ho, Bool.and_true]
    rfl
  unfold peerPerform
  simp only [hk, readRange, hf, Bool.false_eq_true, if_false, hb, List.zip_map', List.map_map]
  refine congrArg _ (List.map_congr_left fun i hi => ?_)
  simp only [Function.comp, hp i (mem_upTo.mp hi)]

theorem peerPerform_amo {s : State} {p : Peer} {pa : Nat} {op : AmoOp} {ty : Ty} (hk : p.kind = .amo op ty) :
    peerPerform s p pa = (writeLe (discover s pa (peerSize p)) pa (peerSize p) (amoNew op ty (readLe s pa (peerSize p))
      (p.b.toNat % 2 ^ (8 * peerSize p))), (leBytes (peerSize p) (readLe s pa (peerSize p))).map
        (fun b => if rangeBad s pa (peerSize p) then none else some b)) := by
  have hl : readLe (discover s pa (peerSize p)) pa (peerSize p) = readLe s pa (peerSize p) := readLe_of_mem (discover_mem ..) pa _
  unfold peerPerform
  simp only [hk, hl, rangePoison_discover]
  rw [zip_replicate _ _ _ (leBytes_length ..), List.map_map]
  rfl

theorem peerPerform_store {s : State} {p : Peer} {pa : Nat} (hk : p.kind = .store) : peerPerform s p pa = (peerStore s pa p.bytes, []) := by
  unfold peerPerform
  simp only [hk]

/-! A remote store. -/

/-- One byte of a remote store. -/
def peerByte (pa : Nat) (s : State) (e : Nat × PByte) : State := match e.2 with
  | .val b => writeByte s (pa + e.1) b
  | .bad => setLinePoison s (pa + e.1) true
  | .keep => s

/-- The byte at a place once a remote store has come: a clean byte, or what stood there. -/
def storedByte (old : Byte) : Option PByte → Byte
  | some (.val b) => b
  | some .bad => old
  | some .keep => old
  | none => old

theorem peerStore_mem (s : State) (pa : Nat) (l : List PByte) : (peerStore s pa l).mem = (((upTo l.length).zip l).foldl (peerByte pa) s).mem := by
  unfold peerStore
  exact (foldl_keeps State.mem _ (fun s i => by dsimp only; split <;> rfl) _ _).trans rfl

theorem readByte_peerByte (pa : Nat) (s : State) (i x : Nat) (c : PByte) :
    readByte (peerByte pa s (i, c)) x = if x = pa + i then storedByte (readByte s x) (some c) else readByte s x := by
  cases c with
  | val b => exact readByte_writeByte ..
  | bad => exact (ite_self _).symm
  | keep => exact (ite_self _).symm

theorem readByte_peerBytes (pa : Nat) (l : List PByte) (k : Nat) (s : State) (x : Nat) :
    readByte (((List.range' k l.length).zip l).foldl (peerByte pa) s) x =
      if pa + k ≤ x then storedByte (readByte s x) l[x - (pa + k)]? else readByte s x := by
  induction l generalizing k s with
  | nil => exact (ite_self _).symm
  | cons c l ih =>
    rw [List.length_cons, List.range'_succ, List.zip_cons_cons, List.foldl_cons, ih, readByte_peerByte]
    rcases Nat.lt_trichotomy x (pa + k) with h | h | h
    · rw [if_neg (by omega), if_neg (by omega), if_neg (by omega)]
    · rw [if_neg (by omega), if_pos h, if_pos (by omega), h, Nat.sub_self]
      rfl
    · rw [if_pos (by omega), if_neg (by omega), if_pos (by omega), show x - (pa + k) = x - (pa + (k + 1)) + 1 by omega, List.getElem?_cons_succ]

theorem readByte_peerStore (s : State) (pa : Nat) (l : List PByte) (x : Nat) :
    readByte (peerStore s pa l) x = if pa ≤ x then storedByte (readByte s x) l[x - pa]? else readByte s x := by
  rw [readByte_of_mem_eq (peerStore_mem s pa l), upTo, List.range_eq_range', readByte_peerBytes]
  rfl

theorem outHost_peerStore (s : State) (pa : Nat) (l : List PByte) : (peerStore s pa l).outHost = s.outHost := by
  have hb (u : State) (e : Nat × PByte) : (peerByte pa u e).outHost = u.outHost := by
    unfold peerByte
    split <;> rfl
  unfold peerStore
  refine (foldl_keeps State.outHost _ (fun s i => ?_) _ _).trans (foldl_keeps State.outHost (peerByte pa) hb _ _)
  dsimp only
  split <;> rfl

theorem outHost_discover (s : State) (pa n : Nat) : (discover s pa n).outHost = s.outHost := by
  rw [discover_sameButErrors s pa n]

/-! The acknowledgement of a peer. -/

theorem exec_peerAckArrival_none {s : State} {id : Nat} {a : Access} {err : Bool} (ha : accAt s (id / 64) = some a) (h1 : a.kind ≠ .store)
    (h2 : a.kind ≠ .scadd) : exec (.peerAckArrival id err) s = .next s := by
  have hx : exec (.peerAckArrival id err) s = execPeerAckArrival id err s := rfl
  rw [hx, execPeerAckArrival, ha]
  exact congrArg Host.Outcome.next (if_neg (by simp [h1, h2]))

theorem portKey_peer (a : Access) {e : Elem} (h : e.path = .peer) : portKey a e = none := by
  rw [portKey, h]
  rfl

theorem exec_peerAckArrival_store {s : State} {id : Nat} {a : Access} {e : Elem} (ha : accAt s (id / 64) = some a) (hk : a.kind = .store)
    (he : a.elems = [e]) (hi : id % 64 = 0) (hp : e.path = .peer) (hs : e.sent = true) (hd : e.done = false) (hc : e.cut = false)
    (hw : e.w ≠ 0) : exec (.peerAckArrival id false) s = .next (retire (elemDone s a.id 0 0 false) a.id) := by
  have hx : exec (.peerAckArrival id false) s = execPeerAckArrival id false s := rfl
  have hid : id / 64 = a.id := (accAt_id ha).symm
  have h0 : a.elems[0]? = some e := by rw [he]; rfl
  have hans : (answered a 0).filter (fun f => f.2.path.remote) = [(0, e)] := by
    simp [answered, he, hk, packet, upTo, hs, hd, hp, Path.remote]
  have hr : remoteAnswer s a 0 ⟨[], false, false⟩ = elemDone s a.id 0 0 false := by
    unfold remoteAnswer
    simp only [hans, h0, hk]
    rw [if_neg (by simp), if_neg (by simp [hp]), if_neg hw, if_neg (by simp)]
    simp
  have hdone := accAt_elemDone (hid ▸ ha) h0 0 false
  have hready : answerable (elemDone s a.id 0 0 false) (withDone a 0 e 0 false) = true := by
    have hel : (withDone a 0 e 0 false).elems = [{ e with done := true, got := 0, gotP := false }] := by
      rw [withDone, he]
      rfl
    rw [answerable, hel]
    simp only [List.all_cons, List.all_nil, hc, Bool.not_false, Bool.and_true, Bool.true_and]
    rw [Bool.not_eq_true', List.any_eq_false]
    intro b hb
    simp only [responseBefore, hel, List.any_cons, List.any_nil, portKey_peer _ (show ({ e with done := true, got := 0, gotP := false } : Elem).path = .peer from hp)]
    simp
  rw [hx, execPeerAckArrival, ha, hi]
  simp only [hk, if_true, decide_true, Bool.true_or]
  rw [hr, respond, hdone]
  exact congrArg Host.Outcome.next (if_pos hready)

end Sys2Proof.Machine

namespace Sys2Proof.Machine

/-- A change of one access, once it has left, is of none. -/
theorem filter_map_others {l : List Access} {n : Nat} {f : Access → Access} (hf : ∀ a, (f a).id = a.id) :
    (l.map (fun a => if a.id = n then f a else a)).filter (fun b => b.id != n) = l.filter (fun b => b.id != n) := by
  induction l with
  | nil => rfl
  | cons a l ih =>
    rw [List.map_cons, List.filter_cons, List.filter_cons, ih]
    by_cases h : a.id = n
    · simp [h, hf]
    · simp [h]

theorem exec_peerAckArrival_ends {s : State} {id : Nat} {a : Access} {e : Elem} (ha : accAt s (id / 64) = some a) (hk : a.kind = .store)
    (he : a.elems = [e]) (hi : id % 64 = 0) (hp : e.path = .peer) (hs : e.sent = true) (hd : e.done = false) (hc : e.cut = false)
    (hw : e.w ≠ 0) : ∃ t, exec (.peerAckArrival id false) s = .next t ∧ t.mem = s.mem ∧
      t.inflight = s.inflight.filter (fun b => b.id != a.id) := by
  have h0 : a.elems[0]? = some e := by rw [he]; rfl
  have hid : id / 64 = a.id := (accAt_id ha).symm
  refine ⟨_, exec_peerAckArrival_store ha hk he hi hp hs hd hc hw, (retire_mem ..).trans (elemDone_mem ..), ?_⟩
  rw [retire_inflight (accAt_elemDone (hid ▸ ha) h0 0 false)]
  exact filter_map_others fun _ => rfl

theorem leNat_lt (l : List Byte) : leNat l < 256 ^ l.length := by
  induction l with
  | nil => simp [leNat]
  | cons b l ih =>
    have := b.isLt
    simp only [leNat, List.length_cons, pow_succ]
    omega

theorem readLe_lt_pow (s : State) (a n : Nat) : readLe s a n < 256 ^ n := by
  have h := leNat_lt (readBytes s a n)
  rwa [readBytes_eq, List.length_map, List.length_range, ← readBytes_eq] at h

/-- What a peer's access leaves and answers. -/
theorem outHost_peerAnswered {s t : State} (h : t.outHost = s.outHost) (p : Peer) (b : List (Option Byte)) (err : Bool) :
    (peerAnswered t p b err).outHost = s.outHost ++ [.peerAns p.dev p.seq b err] := by
  rw [peerAnswered, h]

theorem writeLe_outHost (s : State) (pa n v : Nat) : (writeLe s pa n v).outHost = s.outHost := by
  have hb : ∀ (l : List Byte) (s : State) (pa : Nat), (writeBytes s pa l).outHost = s.outHost := by
    intro l
    induction l with
    | nil => exact fun _ _ => rfl
    | cons b l ih => exact fun s pa => (ih _ _).trans rfl
  exact hb _ _ _

theorem opNew_lt {op : HostAtomic} {a b : Word} {old v : Nat} (h : (op = .fetchAdd ∧ v = (old + a.toNat) % 2 ^ 64) ∨
    (op = .swap ∧ v = a.toNat) ∨ (op = .cas ∧ v = if old = a.toNat then b.toNat else old)) (ho : old < 256 ^ 8) : v < 2 ^ 64 := by
  have ha := a.isLt
  have hb := b.isLt
  rcases h with ⟨-, rfl⟩ | ⟨-, rfl⟩ | ⟨-, rfl⟩
  · exact Nat.mod_lt _ (by decide)
  · exact ha
  · split <;> omega

section Arrival

variable {s : State} {p : Peer} (h : s.peerSeen.find? (fun e => e.1 == p.dev && e.2.1 == p.seq) = none)
  {pa : Nat} (ha : peerAddr s p.off = some pa) (h1 : peerTakes s pa = true) (h2 : peerTakes s (pa + (peerSize p - 1)) = true)
  (hr : stackReady s pa = true) (he : p.kind = .load ∨ aheadMeets s s.nextUid pa (peerSize p) = false)
  (hu : abutRoutes s (peerAgent s p.dev) pa = true) (hf : stackFailed s pa = false)
include h ha h1 h2 hr he hu hf

theorem exec_peerAccessArrival_load (hk : p.kind = .load) : ∃ t, exec (.peerAccessArrival p) s = .next t ∧ t.mem = s.mem ∧
    t.outHost = s.outHost ++ [.peerAns p.dev p.seq ((upTo p.len).map (fun i =>
      if lineBad s (pa + i) then none else some (readByte s (pa + i)))) false] := by
  rw [exec_peerAccessArrival_performs h ha h1 h2 hr he hu hf, peerPerform_load hk hf]
  exact ⟨_, rfl, discover_mem .., outHost_peerAnswered (outHost_discover ..) ..⟩

theorem exec_peerAccessArrival_amo {op : AmoOp} {ty : Ty} (hk : p.kind = .amo op ty) :
    ∃ t, exec (.peerAccessArrival p) s = .next t ∧ readLe t pa (peerSize p) =
        amoNew op ty (readLe s pa (peerSize p)) (p.b.toNat % 2 ^ (8 * peerSize p)) % 2 ^ (8 * peerSize p) ∧
      t.outHost = s.outHost ++ [.peerAns p.dev p.seq ((leBytes (peerSize p) (readLe s pa (peerSize p))).map
        (fun b => if rangeBad s pa (peerSize p) then none else some b)) false] ∧
      ∀ a, a < pa ∨ pa + peerSize p ≤ a → readByte t a = readByte s a := by
  rw [exec_peerAccessArrival_performs h ha h1 h2 hr he hu hf, peerPerform_amo hk]
  obtain ⟨hn, ho⟩ := performed_frame (t := peerAnswered _ p _ false) (discover_mem s pa (peerSize p)) rfl
  refine ⟨_, rfl, hn, outHost_peerAnswered ?_ .., ho⟩
  exact (writeLe_outHost ..).trans (outHost_discover ..)

theorem exec_peerAccessArrival_store (hk : p.kind = .store) : ∃ t, exec (.peerAccessArrival p) s = .next t ∧
    t.outHost = s.outHost ++ [.peerAns p.dev p.seq [] false] ∧
    ∀ x, readByte t x = if pa ≤ x then storedByte (readByte s x) p.bytes[x - pa]? else readByte s x := by
  rw [exec_peerAccessArrival_performs h ha h1 h2 hr he hu hf, peerPerform_store hk]
  exact ⟨_, rfl, outHost_peerAnswered (outHost_peerStore ..) .., fun x => readByte_peerStore s pa p.bytes x⟩

end Arrival

/-- Settles O59: each event by its own law; a remote store byte by byte. -/
theorem hostAndPeerSteps : Obligations.HostAndPeerSteps := by
  unfold Obligations.HostAndPeerSteps
  refine ⟨fun s p n v be => ⟨fun hp ha hm hb hu => ?_, fun ha hm => exec_registerWrite_ignored (.inl ⟨ha, hm⟩),
      fun ha hn => exec_registerWrite_ignored (.inr ⟨ha, hn⟩), fun k hp hk hb hu => ?_, fun hu => execRegisterWrite_hidden (.inr (.inr hu))⟩,
    fun s p vec hp hv hu => exec_msixUnmask hp hv hu, fun s p off pa l op a b ha => ?_, fun s p => ?_, fun s id a err ha =>
      ⟨exec_peerAckArrival_none ha, fun e hk he hi hp hs hd hc hw _ => exec_peerAckArrival_ends ha hk he hi hp hs hd hc hw⟩,
    fun s id o ho hp hr => ?_, fun s p up => ⟨rfl, fun hp => ?_⟩⟩
  · rw [exec_registerWrite_visible hp hb hu, ha, if_pos rfl, hm, if_pos rfl]
  · rw [hb]
    exact exec_registerWrite_msix hp hk hu
  · refine ⟨?_, ?_, ?_, ?_, fun n hn => ?_, fun he => ?_, ?_, ?_, ?_⟩
    · rintro n ⟨h1, h2, hw, hg, hr, hf⟩
      exact exec_bar2Read_data ha h1 h2 hw hg hr hf
    · exact fun n h => ⟨exec_bar2Read_unsupported ha h, exec_bar2Atomicop_unsupported ha (.inl h), exec_bar2Write_ignored ha (.inl h)⟩
    · exact fun n h1 h2 h => exec_bar2Read_waits ha h1 h2 h
    · rintro (h | h | h)
      · exact exec_bar2Write_ignored ha (.inr (.inl h))
      · exact exec_bar2Write_ignored ha (.inr (.inr (.inl h)))
      · exact exec_bar2Write_ignored ha (.inr (.inr (.inr (.inr h))))
    · exact exec_bar2Atomicop_unsupported ha (.inr hn)
    · exact exec_bar2Write_ignored ha (.inr (.inr (.inr (.inl he))))
    · rintro ⟨h1, h2, hw, hg, hr, hf⟩ he
      exact exec_bar2Write ha h1 h2 hw hg hr hf he
    · rintro ⟨h1, -, -, -, -, -⟩ hm he ho
      exact exec_bar2Atomicop_early ha h1 hm ho he
    · rintro ⟨h1, -, hw, hg, hr, hf⟩ hm he op v hv
      have ho : opNew op 8 a b 0 ≠ none := by
        rcases hv with ⟨rfl, -⟩ | ⟨rfl, -⟩ | ⟨rfl, -⟩ <;> simp [opNew]
      obtain ⟨hn, hx⟩ := performed_frame (pa := pa) (n := 8) (v := v) (t := { writeLe (discover (deckTurn s pa 8) pa 8) pa 8 v with
        outHost := s.outHost ++ [.cpl p (some (leBytes 8 (readLe s pa 8))) (rangeBad s pa 8)] }) (discover_deckTurn_mem s pa 8) rfl
      have hlt : v < 2 ^ (8 * 8) := opNew_lt hv (readLe_lt_pow s pa 8)
      exact ⟨_, exec_bar2Atomicop_performs ha h1 hm ho hw hg hr hf he (opNew_eight hv), hn.trans (Nat.mod_eq_of_lt hlt), rfl, hx⟩
  · refine ⟨fun e h => ⟨_, exec_peerAccessArrival_again h, rfl, rfl⟩, fun h => ⟨fun ha => ⟨_, exec_peerAccessArrival_unserved h ha,
      outHost_peerAnswered rfl .., rfl⟩, fun pa ha h1 h2 => ⟨exec_peerAccessArrival_trains h ha h1 h2, fun hr he => ⟨fun hu => ?_, fun hu hf =>
      ⟨exec_peerAccessArrival_load h ha h1 h2 hr he hu hf, fun op ty => exec_peerAccessArrival_amo h ha h1 h2 hr he hu hf, fun hk => ?_⟩⟩⟩⟩⟩
    · rw [exec_peerAccessArrival_ready h ha h1 h2 hr he, if_pos (by rw [hu]; decide)]
      refine ⟨fun hk => by rw [if_pos hk], fun hk => ?_⟩
      rw [if_neg hk]
      exact ⟨_, rfl, outHost_peerAnswered rfl .., rfl⟩
    · obtain ⟨t, ht, hout, hb⟩ := exec_peerAccessArrival_store h ha h1 h2 hr he hu hf hk
      refine ⟨t, ht, hout, fun i b hi => ?_, fun i hi => ?_, fun x hx => ?_⟩
      · rw [hb, if_pos (by omega), Nat.add_sub_cancel_left, hi]
        rfl
      · rw [hb, if_pos (by omega), Nat.add_sub_cancel_left]
        rcases hi with hi | hi <;> rw [hi] <;> rfl
      · rw [hb]
        split
        · rw [List.getElem?_eq_none (by omega)]
          rfl
        · rfl
  · have hx : exec (.cufortResendTimeout id) s = execCufortResendTimeout id s := rfl
    rw [hx, execCufortResendTimeout, ho]
    simp [hp, hr]
  · have hx : exec (.cufortLinkUpDown p up) s = execCufortLinkUpDown p up s := rfl
    rw [hx, execCufortLinkUpDown, if_pos hp]
    exact ⟨_, rfl, getD_setD_self false up p s.linksUp, rfl⟩

end Sys2Proof.Machine

namespace Sys2Proof.Machine

/-! A write of a keystone register, and a record of the event log. -/

theorem msRaw_msWriteBits_ne {s : State} {n m : Nat} {v mask : Word} (h : m ≠ n) : msRaw (msWriteBits s n v mask) m = msRaw s m := by
  unfold msWriteBits
  exact (msRaw_msPut ..).trans (if_neg h)

/-- A field that a register takes from a whole write. -/
theorem msField_msWriteBits (s : State) {n lo w : Nat} (v : Word) (hn : n ≠ 0x820)
    (hw : ∀ i, i < w → (msRw n).getLsbD (lo + i) = true ∧ (msW1c n).getLsbD (lo + i) = false) :
    msField (msWriteBits s n v (BitVec.allOnes 64)) n lo w = v.toNat / 2 ^ lo % 2 ^ w := by
  refine Nat.eq_of_testBit_eq fun i => ?_
  rw [testBit_msField, Nat.testBit_mod_two_pow, Nat.testBit_div_two_pow]
  by_cases hi : i < w
  · obtain ⟨hr, hc⟩ := hw i hi
    have h64 : lo + i < 64 := BitVec.lt_of_getLsbD hr
    have hraw : msRaw (msWriteBits s n v (BitVec.allOnes 64)) n =
        ((msRaw s n &&& ~~~(msRw n &&& BitVec.allOnes 64)) ||| (v &&& (msRw n &&& BitVec.allOnes 64))) &&&
          ~~~(msW1c n &&& BitVec.allOnes 64 &&& v) := by
      unfold msWriteBits
      rw [msRaw_msPut, if_pos rfl]
      exact if_neg (by simp [hn])
    rw [hraw, BitVec.and_allOnes, BitVec.and_allOnes]
    simp only [BitVec.getLsbD_and, BitVec.getLsbD_or, BitVec.getLsbD_not, hr, hc, h64, decide_true, Bool.not_true, Bool.and_false, Bool.false_or,
      Bool.and_true, Bool.false_and, Bool.not_false]
    rw [Nat.add_comm i lo]
    rfl
  · simp [hi]

/-- The bytes of some words of a record. -/
def eventBytes (l : List Word) : List Byte := l.flatMap (fun w => leBytes 8 w.toNat)

theorem logEvent_mem (s : State) (k : Nat) (l : List Word) : (logEvent s k l).mem =
    (writeClean s (0x3F81000000 + 64 * ((msRaw s 0x818).toNat % 1024))
      (eventBytes ([s.kcyc, BitVec.ofNat 64 k] ++ l ++ List.replicate (6 - l.length) 0))).mem := by
  unfold logEvent
  refine (foldl_keeps State.mem _ (fun s p => ?_) _ _).trans rfl
  dsimp only
  split
  · exact (raiseVector_memory ..).1
  · rfl

theorem logEvent_head (s : State) (k : Nat) (l : List Word) :
    msRaw (logEvent s k l) 0x818 = BitVec.ofNat 64 (((msRaw s 0x818).toNat + 1) % 2 ^ 32) := by
  have hr (u : State) (p v : Nat) : msRaw (raiseVector u p v) 0x818 = msRaw u 0x818 := by
    unfold raiseVector
    split <;> rfl
  unfold logEvent
  refine (foldl_keeps (fun u => msRaw u 0x818) _ (fun u p => ?_) _ _).trans ((msRaw_msPut ..).trans (if_pos rfl))
  dsimp only
  split
  · exact hr ..
  · rfl

theorem readLe_writeClean_part (s : State) (a n v : Nat) (l r : List Byte) :
    readLe (writeClean s a (l ++ (leBytes n v ++ r))) (a + l.length) n = v % 2 ^ (8 * n) := by
  have hb : readBytes (writeClean s a (l ++ (leBytes n v ++ r))) (a + l.length) n = leBytes n v := by
    rw [readBytes_eq]
    refine List.ext_getElem (by simp) fun i h1 h2 => ?_
    have hi : i < n := by simpa using h1
    rw [List.getElem_map, List.getElem_range, Nat.add_assoc, readByte_writeClean_inside _ _ _ _ (by simp; omega),
      List.getElem_append_right (Nat.le_add_right ..), List.getElem_append_left (by simp; omega)]
    congr 1
    omega
  rw [readLe, hb, leNat_leBytes]

theorem length_eventBytes (l : List Word) : (eventBytes l).length = 8 * l.length := by
  induction l with
  | nil => rfl
  | cons w l ih =>
    rw [eventBytes, List.flatMap_cons, List.length_append, leBytes_length, List.length_cons]
    unfold eventBytes at ih
    omega

theorem readLe_eventBytes (s : State) (a : Nat) (l : List Word) (j : Nat) (h : j < l.length) :
    readLe (writeClean s a (eventBytes l)) (a + 8 * j) 8 = l[j].toNat := by
  have hl : eventBytes l = eventBytes (l.take j) ++ (leBytes 8 l[j].toNat ++ eventBytes (l.drop (j + 1))) := by
    conv_lhs => rw [← List.take_append_drop j l, List.drop_eq_getElem_cons h]
    simp only [eventBytes, List.flatMap_append, List.flatMap_cons]
  have hn : 8 * j = (eventBytes (l.take j)).length := by
    rw [length_eventBytes, List.length_take]
    omega
  rw [hl, hn, readLe_writeClean_part]
  exact Nat.mod_eq_of_lt l[j].isLt

/-- R362: a record with one word of data. -/
theorem logEvent_record (s : State) (k : Nat) (x : Word) (hk : k < 2 ^ 64) :
    readLe (logEvent s k [x]) (0x3F81000000 + 64 * ((msRaw s 0x818).toNat % 1024) + 8) 8 = k ∧
      readLe (logEvent s k [x]) (0x3F81000000 + 64 * ((msRaw s 0x818).toNat % 1024) + 16) 8 = x.toNat := by
  have hm := logEvent_mem s k [x]
  refine ⟨(readLe_of_mem hm _ _).trans ((readLe_eventBytes _ _ _ 1 (by simp)).trans ?_),
    (readLe_of_mem hm _ _).trans (readLe_eventBytes _ _ _ 2 (by simp))⟩
  exact (BitVec.toNat_ofNat k 64).trans (Nat.mod_eq_of_lt hk)

/-! The checkpoint service. -/

theorem exec_checkpointRequest (s : State) (v : Word) : exec (.checkpointRequest v) s = .next (ckRequest s v (BitVec.allOnes 64)) := rfl

section Request

variable (s : State) (v : Word)

theorem ckRequest_fields : msField (msWriteBits s 0x830 v (BitVec.allOnes 64)) 0x830 0 2 = v.toNat % 4 ∧
    msField (msWriteBits s 0x830 v (BitVec.allOnes 64)) 0x830 16 8 = v.toNat / 2 ^ 16 % 256 ∧
    msField (msWriteBits s 0x830 v (BitVec.allOnes 64)) 0x830 32 12 = v.toNat / 2 ^ 32 % 4096 := by
  refine ⟨?_, ?_, ?_⟩
  · exact (msField_msWriteBits s v (by decide) (by decide)).trans (by rw [pow_zero, Nat.div_one]; rfl)
  · exact msField_msWriteBits s v (by decide) (by decide)
  · exact msField_msWriteBits s v (by decide) (by decide)

variable {s} (h : msField s 0x831 0 1 = 0)
include h

/-- A request while none runs, by its fields. -/
theorem ckRequest_idle : ckRequest s v (BitVec.allOnes 64) =
    let u := msWriteBits s 0x830 v (BitVec.allOnes 64)
    if v.toNat % 4 = 0 ∨ v.toNat / 2 ^ 16 % 256 < 56 ∨ 144 < v.toNat / 2 ^ 16 % 256 ∨ v.toNat / 2 ^ 32 % 4096 = 0xFFF ∨
      v.toNat / 2 ^ 32 % 4096 = devId s then ckEnd u 2 0
    else if portsUp s < v.toNat / 2 ^ 16 % 256 then ckEnd u 3 0
    else msPut { u with ckpt := some ⟨v.toNat % 4, v.toNat / 2 ^ 16 % 256, v.toNat / 2 ^ 32 % 4096⟩ } 0x831
      (BitVec.ofNat 64 ((msRaw s 0x831).toNat / 2 % 2 * 2 + 1)) := by
  obtain ⟨hw, hn, hd⟩ := ckRequest_fields s v
  have hdev : devId (msWriteBits s 0x830 v (BitVec.allOnes 64)) = devId s := by
    rw [devId, msField, msRaw_msWriteBits_ne (by decide)]
    rfl
  have hp : portsUp (msWriteBits s 0x830 v (BitVec.allOnes 64)) = portsUp s := rfl
  have hr : msRaw (msWriteBits s 0x830 v (BitVec.allOnes 64)) 0x831 = msRaw s 0x831 := msRaw_msWriteBits_ne (by decide)
  unfold ckRequest
  rw [if_neg (by omega)]
  simp only [hw, hn, hd, hdev, hp, hr, Bool.or_eq_true, decide_eq_true_eq, or_assoc]

end Request

end Sys2Proof.Machine

namespace Sys2Proof.Machine

/-! What a checkpoint finds and sends. -/

theorem lineBad_findIn (pa n : Nat) (s : State) (x : Struck) (a : Nat) : lineBad (findIn pa n s x) a = lineBad s a := by
  rw [lineBad, lineBad, linePoison_findIn, isStruck_findIn]
  by_cases h : x = .line (a / 64)
  · cases isStruck s (.line (a / 64)) <;> cases overlap (64 * (a / 64)) 64 pa n <;> simp [h]
  · simp [h]

theorem lineBad_discover (s : State) (pa n a : Nat) : lineBad (discover s pa n) a = lineBad s a := by
  rw [discover_eq]
  exact foldl_keeps (fun s => lineBad s a) _ (fun s x => lineBad_findIn pa n s x a) _ _

/-- A line that some of the ranges cover is poisoned where it was bad. -/
theorem linePoison_discovers {ranges : List (Nat × Nat)} {r : Nat × Nat} {k : Nat} (hr : r ∈ ranges) (h1 : r.1 ≤ k) (h2 : k < r.1 + r.2) (s : State) :
    linePoison (ranges.foldl (fun s r => discover s (64 * r.1) (64 * r.2)) s) (64 * k) = lineBad s (64 * k) := by
  have hk : 64 * k / 64 = k := by omega
  have hmono (l : List (Nat × Nat)) : ∀ u : State, lineBad u (64 * k) = linePoison u (64 * k) →
      linePoison (l.foldl (fun s r => discover s (64 * r.1) (64 * r.2)) u) (64 * k) = lineBad u (64 * k) := by
    induction l with
    | nil => exact fun u h => h.symm
    | cons q l ih =>
      intro u h
      have hq : linePoison (discover u (64 * q.1) (64 * q.2)) (64 * k) = lineBad u (64 * k) := by
        rw [linePoison_discover, h]
        rw [lineBad] at h
        cases hp : linePoison u (64 * k) <;> simp_all
      rw [List.foldl_cons, ih _ ((lineBad_discover ..).trans hq.symm), lineBad_discover]
  induction ranges generalizing s with
  | nil => simp at hr
  | cons q l ih =>
    rw [List.foldl_cons]
    rcases List.mem_cons.mp hr with rfl | hr
    · have ho : overlap (64 * (64 * k / 64)) 64 (64 * r.1) (64 * r.2) = true := by
        simp only [overlap, Bool.and_eq_true, decide_eq_true_eq]
        omega
      have hp : linePoison (discover s (64 * r.1) (64 * r.2)) (64 * k) = lineBad s (64 * k) := by
        rw [linePoison_discover, ho, Bool.and_true]
        rfl
      rw [hmono l _ ((lineBad_discover ..).trans hp.symm), lineBad_discover]
    · rw [ih hr, lineBad_discover]

theorem ckFind_sameButErrors (s : State) (what : Nat) : SameButErrors s (ckFind s what) := by
  unfold ckFind
  generalize ckRanges s what = l
  induction l generalizing s with
  | nil => exact .refl s
  | cons r l ih => exact (discover_sameButErrors ..).trans (ih _)

/-- Every line of a selection lies in one of its ranges. -/
theorem exists_ckRange {s : State} {what n : Nat} (h : ckTakes s what n = true) : ∃ r ∈ ckRanges s what, r.1 ≤ n ∧ n < r.1 + r.2 := by
  unfold ckTakes at h
  unfold ckRanges
  dsimp only at h
  split at h
  next ha =>
    refine ⟨(n / 0x40000000 * 0x1000000000 / 64, 0x40000000), List.mem_append_left _ ?_, ?_, ?_⟩
    · rw [if_pos (by simpa using h)]
      exact List.mem_map_of_mem (mem_upTo.mpr (by omega))
    · dsimp only
      omega
    · dsimp only
      omega
  next ha =>
    simp only [Bool.and_eq_true, decide_eq_true_eq, beq_iff_eq] at h
    obtain ⟨⟨hb, hw⟩, hc⟩ := h
    refine ⟨((0x020000000000 + sliceOf (64 * n) * 0x4000000) / 64, 0x100000), List.mem_append_right _ ?_, ?_, ?_⟩
    · rw [if_pos hw]
      refine List.mem_map_of_mem (List.mem_filter.mpr ⟨mem_upTo.mpr ?_, hc⟩)
      unfold sliceOf
      omega
    · unfold sliceOf
      dsimp only
      omega
    · unfold sliceOf
      dsimp only
      omega

theorem ckTakes_of_deck {s t : State} (h : SameDeck t s) (what n : Nat) : ckTakes t what n = ckTakes s what n := by
  unfold ckTakes homeCapable
  rw [h.classOf_eq]

theorem ckRanges_of_deck {s t : State} (h : SameDeck t s) (what : Nat) : ckRanges t what = ckRanges s what := by
  have hh : homeCapable t = homeCapable s := by
    funext u
    unfold homeCapable
    rw [h.classOf_eq]
  unfold ckRanges
  rw [hh]

/-! The lines of a range. -/

section Lines

variable (s : State) (c : Checkpoint) (ports : List Nat)

/-- A line of the list goes out by itself. -/
theorem mem_ckLines_listed {l : List Nat} {k : Nat} (lo hi : Nat) (h : k ∈ l) : Out.ckpt c.dev (nth 0 ports (Config.ckptPort k % ports.length))
    (64 * k) (readBytes s (64 * k) 64) (linePoison s (64 * k) || stackFailed s (64 * k)) ∈ ckLines s c ports lo hi l := by
  induction l generalizing lo with
  | nil => simp at h
  | cons j l ih =>
    rw [ckLines]
    rcases List.mem_cons.mp h with rfl | h
    · exact List.mem_append_right _ (List.mem_cons_self ..)
    · exact List.mem_append_right _ (List.mem_cons_of_mem _ (ih _ h))

/-- Any other line of a range goes out in a run of blank ones. -/
theorem mem_ckLines_blank {l : List Nat} {n lo hi : Nat} (hs : l.Pairwise (· < ·)) (hn : n ∉ l) (h1 : lo ≤ n) (h2 : n < hi) :
    ∃ a k, a ≤ n ∧ n < a + k ∧ Out.ckptBlank c.dev ports (64 * a) k (stackFailed s (64 * a)) ∈ ckLines s c ports lo hi l := by
  induction l generalizing lo with
  | nil =>
    rw [ckLines, if_pos (by omega)]
    exact ⟨lo, hi - lo, h1, by omega, List.mem_singleton.mpr rfl⟩
  | cons j l ih =>
    rw [List.mem_cons, not_or] at hn
    obtain ⟨hj, hn⟩ := hn
    rw [ckLines]
    by_cases hlt : n < j
    · rw [if_pos (by omega)]
      exact ⟨lo, j - lo, h1, by omega, List.mem_append_left _ (List.mem_singleton.mpr rfl)⟩
    · obtain ⟨a, k, ha, hk, hm⟩ := ih (lo := j + 1) hs.tail hn (by omega)
      exact ⟨a, k, ha, hk, List.mem_append_right _ (List.mem_cons_of_mem _ hm)⟩

end Lines

end Sys2Proof.Machine

namespace Sys2Proof.Machine

/-! The lines that hold a listed byte or poison. -/

theorem pairwise_keys {α : Type} {b : Nat} {m : Map α} (h : keysAbove b m = true) :
    (m.map (fun e => e.1)).Pairwise (· < ·) ∧ ∀ k ∈ m.map (fun e => e.1), b ≤ k := by
  induction m generalizing b with
  | nil => exact ⟨.nil, fun k hk => by simp at hk⟩
  | cons e m ih =>
    obtain ⟨j, x⟩ := e
    simp only [keysAbove, Bool.and_eq_true, decide_eq_true_eq] at h
    obtain ⟨hj, hm⟩ := h
    obtain ⟨hp, hl⟩ := ih hm
    refine ⟨List.pairwise_cons.mpr ⟨fun k hk => hl k hk, hp⟩, fun k hk => ?_⟩
    rcases List.mem_cons.mp hk with rfl | hk
    · exact hj
    · have := hl k hk
      omega

theorem mem_keys_of_find {α : Type} {k : Nat} {m : Map α} (h : find k m ≠ none) : k ∈ m.map (fun e => e.1) := by
  induction m with
  | nil => exact absurd rfl h
  | cons e m ih =>
    obtain ⟨j, x⟩ := e
    rw [find] at h
    by_cases hk : k = j
    · rw [hk]
      exact List.mem_cons_self ..
    · rw [if_neg hk] at h
      exact List.mem_cons_of_mem _ (ih h)

/-- The keys that a list of entries puts into a map. -/
theorem find_foldl_put {α : Type} (key : α → Nat) (l : List α) (k : Nat) : ∀ m : Map Unit,
    find k m ≠ none ∨ k ∈ l.map key → find k (l.foldl (fun m e => put (key e) () m) m) ≠ none := by
  induction l with
  | nil => exact fun m h => h.resolve_right (by simp)
  | cons e l ih =>
    intro m h
    refine ih _ ?_
    rw [find_put]
    by_cases hk : k = key e
    · left
      rw [if_pos hk]
      exact Option.some_ne_none _
    · rw [if_neg hk]
      exact h.imp_right fun h => (List.mem_cons.mp h).resolve_left hk

theorem keysAbove_foldl_put {α : Type} (key : α → Nat) (l : List α) : ∀ m : Map Unit, keysAbove 0 m = true →
    keysAbove 0 (l.foldl (fun m e => put (key e) () m) m) = true := by
  induction l with
  | nil => exact fun m h => h
  | cons e l ih => exact fun m h => ih _ (keysAbove_put () (Nat.zero_le _) h)

theorem listedLines_sorted (s : State) : (listedLines s).Pairwise (· < ·) := by
  unfold listedLines
  exact (pairwise_keys (keysAbove_foldl_put (fun e : Nat × Bool => e.1) _ _
    (keysAbove_foldl_put (fun e : Nat × Byte => e.1 / 64) _ _ rfl))).1

theorem mem_listedLines {s : State} {k : Nat} (h : k ∈ s.poison.map (fun e => e.1) ∨ k ∈ s.mem.map (fun e => e.1 / 64)) : k ∈ listedLines s := by
  unfold listedLines
  exact mem_keys_of_find (find_foldl_put (fun e : Nat × Bool => e.1) _ _ _ (h.symm.imp_left fun h =>
    find_foldl_put (fun e : Nat × Byte => e.1 / 64) _ _ _ (.inr h)))

/-- A line that is not listed is clean and holds blank bytes. -/
theorem unlisted_blank {s : State} {k : Nat} (h : k ∉ listedLines s) :
    linePoison s (64 * k) = false ∧ ∀ i, i < 64 → readByte s (64 * k + i) = blank (64 * k + i) := by
  have hp : find k s.poison = none := by
    by_contra hc
    exact h (mem_listedLines (.inl (mem_keys_of_find hc)))
  refine ⟨?_, fun i hi => ?_⟩
  · rw [linePoison, show 64 * k / 64 = k by omega, getD, hp]
    rfl
  · have hm : find (64 * k + i) s.mem = none := by
      by_contra hc
      obtain ⟨e, he, hk⟩ := List.mem_map.mp (mem_keys_of_find hc)
      exact h (mem_listedLines (.inr (List.mem_map.mpr ⟨e, he, by omega⟩)))
    rw [readByte, hm]
    rfl

/-- R364: what goes out for a line of the selection: the line by itself, or a run of blank ones that it lies in. -/
theorem ckSend_line {s : State} {c : Checkpoint} {n : Nat} (hp : (upPorts s).take c.nport ≠ []) (h : ckTakes s c.what n = true) :
    let ports := (upPorts s).take c.nport
    (∃ p ∈ ports, Out.ckpt c.dev p (64 * n) (readBytes s (64 * n) 64) (linePoison s (64 * n) || stackFailed s (64 * n)) ∈ ckSend s c) ∨
      ∃ lo k, lo ≤ n ∧ n < lo + k ∧ Out.ckptBlank c.dev ports (64 * lo) k (stackFailed s (64 * lo)) ∈ ckSend s c ∧
        linePoison s (64 * n) = false ∧ ∀ i, i < 64 → readByte s (64 * n + i) = blank (64 * n + i) := by
  intro ports
  obtain ⟨r, hr, h1, h2⟩ := exists_ckRange h
  have hin {o : Out} (ho : o ∈ ckLines s c ports r.1 (r.1 + r.2)
      (((listedLines s).filter (ckTakes s c.what)).filter (fun k => r.1 ≤ k && k < r.1 + r.2))) : o ∈ ckSend s c :=
    List.mem_flatMap.mpr ⟨r, hr, ho⟩
  by_cases hl : n ∈ listedLines s
  · left
    have hlen : 0 < ports.length := List.length_pos_iff.mpr hp
    refine ⟨_, ?_, hin (mem_ckLines_listed s c ports r.1 (r.1 + r.2) (k := n) ?_)⟩
    · rw [nth_eq_getD, List.getD_eq_getElem _ _ (Nat.mod_lt _ hlen)]
      exact List.getElem_mem _
    · refine List.mem_filter.mpr ⟨List.mem_filter.mpr ⟨hl, h⟩, ?_⟩
      simp [h1, h2]
  · right
    obtain ⟨hpo, hb⟩ := unlisted_blank hl
    obtain ⟨lo, k, ha, hk, ho⟩ := mem_ckLines_blank s c ports (lo := r.1) (hi := r.1 + r.2)
      (((listedLines_sorted s).filter _).filter _) (fun hm => hl (List.mem_filter.mp (List.mem_filter.mp hm).1).1) h1 h2
    exact ⟨lo, k, ha, hk, hin ho, hpo, hb⟩

/-! The end of a checkpoint. -/

theorem outHost_raiseVector {s : State} {p v : Nat} {o : Out} (h : o ∈ s.outHost) : o ∈ (raiseVector s p v).outHost := by
  unfold raiseVector
  split
  · exact List.mem_append_left _ h
  · exact h

theorem outHost_logEvent {s : State} {k : Nat} {l : List Word} {o : Out} (h : o ∈ s.outHost) : o ∈ (logEvent s k l).outHost := by
  have hw (u : State) (a : Nat) (b : List Byte) : (writeClean u a b).outHost = u.outHost := by
    have hb : ∀ (l : List Byte) (s : State) (pa : Nat), (writeBytes s pa l).outHost = s.outHost := by
      intro l
      induction l with
      | nil => exact fun _ _ => rfl
      | cons b l ih => exact fun s pa => (ih _ _).trans rfl
    unfold writeClean
    refine (foldl_keeps State.outHost _ (fun s i => ?_) _ _).trans (hb ..)
    dsimp only
    split <;> rfl
  have hv (l : List Nat) : ∀ u : State, o ∈ u.outHost → o ∈ (l.foldl (fun s p =>
      let v := (msRaw s (0x804 + p)).toNat
      if v / 2048 % 2 = 1 then raiseVector s p (v % 2048) else s) u).outHost := by
    induction l with
    | nil => exact fun u h => h
    | cons p l ih =>
      refine fun u h => ih _ ?_
      dsimp only
      split
      · exact outHost_raiseVector h
      · exact h
  exact hv _ _ ((hw ..).symm ▸ h)

theorem ckEnd_fields (s : State) {res : Nat} (gib : Nat) (h : res < 8) : msField (ckEnd s res gib) 0x831 0 1 = 0 ∧
    msField (ckEnd s res gib) 0x831 1 1 = 1 ∧ msField (ckEnd s res gib) 0x831 2 3 = res := by
  have hr : msRaw (ckEnd s res gib) 0x831 = BitVec.ofNat 64 (gib * 2 ^ 32 + res * 4 + 2) := by
    rw [ckEnd, msRaw_msPut, if_pos rfl]
  simp only [msField, hr, BitVec.toNat_ofNat]
  refine ⟨?_, ?_, ?_⟩ <;> omega

theorem ckpt_of_device {s t : State} (h : device t = device s) : t.ckpt = s.ckpt := congrArg Device.ckpt h

theorem ckpt_ckEnd (s : State) (res gib : Nat) : (ckEnd s res gib).ckpt = s.ckpt := by
  rw [ckEnd, msPut_ckpt]

theorem outHost_ckEnd (s : State) (res gib : Nat) : (ckEnd s res gib).outHost = s.outHost := by
  rw [ckEnd, msPut_outHost]

/-- R362, R364: what an ended checkpoint leaves. -/
theorem ckpt_logged {s u : State} {res gib : Nat} (hres : res < 8) (hc : u.ckpt = none) (hh : msRaw u 0x818 = msRaw s 0x818) :
    let t := logEvent (ckEnd u res gib) 6 [msRaw (ckEnd u res gib) 0x831]
    t.ckpt = none ∧ msField t 0x831 0 1 = 0 ∧ msField t 0x831 1 1 = 1 ∧ msField t 0x831 2 3 = res ∧
      readLe t (0x3F81000000 + 64 * ((msRaw s 0x818).toNat % 1024) + 8) 8 = 6 ∧
      readLe t (0x3F81000000 + 64 * ((msRaw s 0x818).toNat % 1024) + 16) 8 = (msRaw t 0x831).toNat ∧
      msRaw t 0x818 = BitVec.ofNat 64 (((msRaw s 0x818).toNat + 1) % 2 ^ 32) := by
  have he : msRaw (ckEnd u res gib) 0x818 = msRaw s 0x818 := by rw [ckEnd, msRaw_msPut, if_neg (by decide), hh]
  have hck : (ckEnd u res gib).ckpt = none := (ckpt_ckEnd ..).trans hc
  obtain ⟨h0, h1, h2⟩ := ckEnd_fields u gib hres
  generalize ckEnd u res gib = e at he hck h0 h1 h2 ⊢
  intro t
  have hd : device t = device e := logEvent_device ..
  obtain ⟨hk, hx⟩ := logEvent_record e 6 (msRaw e 0x831) (by decide)
  rw [he] at hk hx
  refine ⟨(ckpt_of_device hd).trans hck, ?_, ?_, ?_, hk, ?_, ?_⟩
  · rw [msField_of_device hd (by decide), h0]
  · rw [msField_of_device hd (by decide), h1]
  · rw [msField_of_device hd (by decide), h2]
  · rw [msRaw_of_device hd (by decide)]
    exact hx
  · exact (logEvent_head ..).trans (by rw [he])

end Sys2Proof.Machine

namespace Sys2Proof.Machine

theorem exec_checkpointEnd_waits {s : State} {c : Checkpoint} (hc : s.ckpt = some c) (h : ckReady s c.what = false) :
    exec (.checkpointEnd 0) s = .next s := by
  have hx : exec (.checkpointEnd 0) s = execCheckpointEnd 0 s := rfl
  rw [hx, execCheckpointEnd, hc]
  exact congrArg Host.Outcome.next ((if_pos rfl).trans (if_pos (by rw [h]; rfl)))

/-- What is found, and what is sent, as a checkpoint completes. -/
def ckSent (s : State) (c : Checkpoint) : State := { ckFind s c.what with
  ckpt := none, outHost := (ckFind s c.what).outHost ++ ckSend (ckFind s c.what) c }

theorem exec_checkpointEnd_done {s : State} {c : Checkpoint} (hc : s.ckpt = some c) (h : ckReady s c.what = true) :
    exec (.checkpointEnd 0) s = .next (logEvent (ckEnd (ckSent s c) 0 (ckGib (ckFind s c.what) c.what)) 6
      [msRaw (ckEnd (ckSent s c) 0 (ckGib (ckFind s c.what) c.what)) 0x831]) := by
  have hx : exec (.checkpointEnd 0) s = execCheckpointEnd 0 s := rfl
  rw [hx, execCheckpointEnd, hc]
  exact congrArg Host.Outcome.next ((if_pos rfl).trans (if_neg (by rw [h]; decide)))

theorem exec_checkpointEnd_failed {s : State} {c : Checkpoint} (hc : s.ckpt = some c) :
    exec (.checkpointEnd 4) s = .next (logEvent (ckEnd (freeWord { s with ckpt := none } 4).1 4 (freeWord { s with ckpt := none } 4).2) 6
      [msRaw (ckEnd (freeWord { s with ckpt := none } 4).1 4 (freeWord { s with ckpt := none } 4).2) 0x831]) := by
  have hx : exec (.checkpointEnd 4) s = execCheckpointEnd 4 s := rfl
  rw [hx, execCheckpointEnd, hc]
  exact congrArg Host.Outcome.next ((if_neg (by decide)).trans (if_pos rfl))

theorem freeWord_frame (n : Nat) (s : State) : ∃ f, (freeWord s n).1 = { s with free := f } := by
  induction n generalizing s with
  | zero => exact ⟨s.free, rfl⟩
  | succ n ih => exact ih { s with free := s.free + 1 }

/-- R364: every line of the selection has gone out as the state held it. -/
theorem ckSent_line {s : State} {c : Checkpoint} {n : Nat} (hp : (upPorts s).take c.nport ≠ []) (h : ckTakes s c.what n = true) :
    let ports := (upPorts s).take c.nport
    (∃ p ∈ ports, Out.ckpt c.dev p (64 * n) (readBytes s (64 * n) 64) (lineBad s (64 * n) || stackFailed s (64 * n)) ∈ (ckSent s c).outHost) ∨
      ∃ lo k, lo ≤ n ∧ n < lo + k ∧ Out.ckptBlank c.dev ports (64 * lo) k (stackFailed s (64 * lo)) ∈ (ckSent s c).outHost ∧
        lineBad s (64 * n) = false ∧ ∀ i, i < 64 → readByte s (64 * n + i) = blank (64 * n + i) := by
  intro ports
  have hf := ckFind_sameButErrors s c.what
  obtain ⟨r, hr, h1, h2⟩ := exists_ckRange h
  have hl : linePoison (ckFind s c.what) (64 * n) = lineBad s (64 * n) := linePoison_discovers hr h1 h2 s
  have hdeck : SameDeck (ckFind s c.what) s := by
    rw [hf]
    exact ⟨rfl, rfl, rfl, rfl⟩
  have hm : (ckFind s c.what).mem = s.mem := by rw [hf]
  have hu : upPorts (ckFind s c.what) = upPorts s := by
    rw [hf]
    rfl
  have hsend := ckSend_line (s := ckFind s c.what) (c := c) (n := n) (by rw [hu]; exact hp) ((ckTakes_of_deck hdeck ..).trans h)
  rw [hu, hl, hdeck.stackFailed_eq, readBytes_of_mem hm] at hsend
  refine hsend.imp ?_ ?_
  · rintro ⟨p, hp, ho⟩
    exact ⟨p, hp, List.mem_append_right _ ho⟩
  · rintro ⟨lo, k, ha, hk, ho, hb, hx⟩
    exact ⟨lo, k, ha, hk, List.mem_append_right _ ho, hb, fun i hi => (readByte_of_mem_eq hm _).symm.trans (hx i hi)⟩

end Sys2Proof.Machine

namespace Sys2Proof.Machine

/-! The evictor: the entry of a page, and its frames. -/

theorem pte_fields {e b f : Nat} (hb : b < 2) (hf : f < 2 ^ 35) :
    (e - e / 2 ^ 10 % 2 * 2 ^ 10 - e / 2 ^ 13 % 2 ^ 35 * 2 ^ 13 + b * 2 ^ 10 + f * 2 ^ 13) % 2 ^ 64 / 2 ^ 10 % 2 = b ∧
      (e - e / 2 ^ 10 % 2 * 2 ^ 10 - e / 2 ^ 13 % 2 ^ 35 * 2 ^ 13 + b * 2 ^ 10 + f * 2 ^ 13) % 2 ^ 64 / 2 ^ 13 % 2 ^ 35 = f := by
  omega

theorem readLe_writePte (s : State) (m : PageMove) (frame : Nat) (mv : Bool) :
    readLe (writePte s m frame mv) m.pte 8 / 2 ^ 10 % 2 = (if mv then 1 else 0) ∧
      readLe (writePte s m frame mv) m.pte 8 / 2 ^ 13 % 2 ^ 35 = frame / 2 ^ 13 % 2 ^ 35 := by
  have h := pte_fields (e := readLe s m.pte 8) (b := if mv then 1 else 0) (f := frame / 2 ^ 13 % 2 ^ 35) (by split <;> omega)
    (Nat.mod_lt _ (Nat.two_pow_pos _))
  have hw : (if mv then 1 else 0) * 2 ^ 10 = (if mv then 2 ^ 10 else 0) := by cases mv <;> rfl
  rw [hw] at h
  rw [writePte, readLe_writeLe]
  exact h

theorem readByte_writePte (s : State) (m : PageMove) (frame : Nat) (mv : Bool) {pa : Nat} (h : pa < m.pte ∨ m.pte + 8 ≤ pa) :
    readByte (writePte s m frame mv) pa = readByte s pa := by
  unfold writePte
  exact readByte_writeLe_outside _ _ _ _ _ h

theorem find_setFrames (l : List Nat) (free : Bool) (m : Map Bool) {f : Nat} (h : f ∈ l) :
    find f (l.foldl (fun m f => put f free m) m) = some free := by
  have hput (l : List Nat) : ∀ m : Map Bool, find f m = some free → find f (l.foldl (fun m f => put f free m) m) = some free := by
    induction l with
    | nil => exact fun m h => h
    | cons g l ih =>
      refine fun m h => ih _ ?_
      rw [find_put]
      split
      · rfl
      · exact h
  induction l generalizing m with
  | nil => simp at h
  | cons g l ih =>
    rw [List.foldl_cons]
    rcases List.mem_cons.mp h with rfl | h
    · exact hput l _ ((find_put ..).trans (if_pos rfl))
    · exact ih _ h

theorem frameFree_setFrames (s : State) {pa n f : Nat} (h : f ∈ framesOf pa n) : frameFree (setFrames s pa n true) f = true := by
  have hf : (setFrames s pa n true).frames = (framesOf pa n).foldl (fun m f => put f true m) s.frames := rfl
  rw [frameFree, hf, find_setFrames _ _ _ h]
  rfl

/-! The trigger. -/

section Trigger

variable {s : State} {c va frame : Nat}

theorem exec_evictorTrigger_resident {e : Nat × ResEntry} (h : residentAt s frame = some e) :
    exec (.evictorTrigger c va frame) s = .next (if belowLimit s 0 then setRes s e.1 { e.2 with st := 4 } else s) := by
  have hx : exec (.evictorTrigger c va frame) s = execEvictorTrigger c va frame s := rfl
  rw [hx, execEvictorTrigger, h]

theorem exec_evictorTrigger_page {pa l a l' : Nat} {e : Word} {g : Graph} (hr : residentAt s frame = none) (hm : s.move = none)
    (hg : graphAt s c = some g) (hw : walk s g.root va = .leaf pa e l)
    (hl : leafAt s va [3, 2, 1, 0] (g.root.toNat / 2 ^ 13 % 2 ^ 35 * 2 ^ 13) = some (a, l')) :
    exec (.evictorTrigger c va frame) s = .next (if e.getLsbD 9 && va / 2 ^ (13 + 10 * l) * 2 ^ (13 + 10 * l) + 2 ^ (13 + 10 * l) ≤ lowWater s c &&
        moveTiers (e.toNat / 2 ^ 13 % 2 ^ 35 * 2 ^ 13) frame (2 ^ (13 + 10 * l)) &&
        belowLimit s (if e.toNat / 2 ^ 13 % 2 ^ 35 * 2 ^ 13 < 0x020000000000 then 1 else 0) &&
        (framesOf frame (2 ^ (13 + 10 * l))).all (frameFree s) then
      { setFrames s frame (2 ^ (13 + 10 * l)) false with
        move := some ⟨a, e.toNat / 2 ^ 13 % 2 ^ 35 * 2 ^ 13, frame, c, va / 2 ^ (13 + 10 * l) * 2 ^ (13 + 10 * l), l, 0, 0⟩ }
      else s) := by
  have hx : exec (.evictorTrigger c va frame) s = execEvictorTrigger c va frame s := rfl
  rw [hx, execEvictorTrigger, hr]
  simp only [hm, hg, hw, hl]

end Trigger

/-! The steps of a move. -/

theorem mem_of_find {α : Type} {k : Nat} {x : α} {m : Map α} (h : find k m = some x) : (k, x) ∈ m := by
  induction m with
  | nil => exact nomatch h
  | cons e m ih =>
    obtain ⟨j, y⟩ := e
    rw [find] at h
    split at h
    next hk =>
      rw [hk, Option.some.inj h]
      exact List.mem_cons_self ..
    next => exact List.mem_cons_of_mem _ (ih h)

theorem removal_roots (s : State) (m : PageMove) :
    let r := m.removal s
    let table (w : Word) : Nat := w.toNat / 2 ^ 13 % 2 ^ 35
    r.va = some m.va ∧ r.ofRoot m.ctx = true ∧ ∀ g, graphAt s m.ctx = some g →
      (∀ c h, graphAt s c = some h → table h.root = table g.root → r.ofRoot c = true) ∧
      (table (msRaw s 0x80A) = table g.root → r.ofRoot ksRoot = true) := by
  refine ⟨rfl, ?_, fun g hg => ⟨fun c h hc ht => ?_, fun ht => ?_⟩⟩
  · exact List.contains_iff_mem.mpr (List.mem_append_left _ (List.mem_cons_self ..))
  · have hmem : (c, h) ∈ s.graphs := mem_of_find hc
    refine List.contains_iff_mem.mpr (List.mem_append_left _ (List.mem_cons_of_mem _ (List.mem_map.mpr ⟨(c, h), ?_, rfl⟩)))
    rw [hg]
    exact List.mem_filter.mpr ⟨hmem, beq_iff_eq.mpr (congrArg some ht)⟩
  · refine List.contains_iff_mem.mpr (List.mem_append_right _ ?_)
    rw [hg, Option.map_some, if_pos (beq_iff_eq.mpr (congrArg some ht))]
    exact List.mem_singleton.mpr rfl

section Move

variable {s : State} {m : PageMove} (hm : s.move = some m)
include hm

theorem exec_evictorPageMove : exec .evictorPageMove s = .next
    (if m.phase = 0 then { writePte s m m.f1 true with move := some { m with phase := 1 } }
    else if m.phase = 1 then { repatch (dropTlbs s (m.removal s)) (m.removal s) with move := some { m with phase := 2, limit := s.nextAcc } }
    else if accessesClear s m.limit (m.removal s) && (chunkPorts s (m.removal s)).isEmpty && stackReady s m.f1 && stackReady s m.f2 then moveCopy s m
    else s) := by
  have hx : exec .evictorPageMove s = execEvictorPageMove s := rfl
  rw [hx, execEvictorPageMove, hm]

theorem exec_evictorPageMove_marks (hp : m.phase = 0) : ∃ t, exec .evictorPageMove s = .next t ∧ t.move = some { m with phase := 1 } ∧
    readLe t m.pte 8 / 2 ^ 10 % 2 = 1 ∧ (∀ pa, pa < m.pte ∨ m.pte + 8 ≤ pa → readByte t pa = readByte s pa) := by
  rw [exec_evictorPageMove hm, if_pos hp]
  have hmem : ({ writePte s m m.f1 true with move := some { m with phase := 1 } } : State).mem = (writePte s m m.f1 true).mem := rfl
  refine ⟨_, rfl, rfl, ?_, fun pa h => ?_⟩
  · rw [readLe_of_mem hmem]
    exact (readLe_writePte s m m.f1 true).1
  · rw [readByte_of_mem_eq hmem]
    exact readByte_writePte s m m.f1 true h

theorem exec_evictorPageMove_drops (hp : m.phase = 1) : exec .evictorPageMove s = .next { repatch (dropTlbs s (m.removal s)) (m.removal s) with
    move := some { m with phase := 2, limit := s.nextAcc } } := by
  rw [exec_evictorPageMove hm, if_neg (by omega), if_pos hp]

variable (hp : 2 ≤ m.phase)
include hp

theorem exec_evictorPageMove_waits (h : accessesClear s m.limit (m.removal s) = false ∨ chunkPorts s (m.removal s) ≠ [] ∨
    stackReady s m.f1 = false ∨ stackReady s m.f2 = false) : exec .evictorPageMove s = .next s := by
  rw [exec_evictorPageMove hm, if_neg (by omega), if_neg (by omega), if_neg]
  rcases h with h | h | h | h <;> simp [h]

theorem exec_evictorPageMove_copies (hi : s.inflight = []) (hs : ∀ c ∈ s.cores, c.2.eng0 = [] ∧ c.2.eng1 = [])
    (h1 : stackReady s m.f1 = true) (h2 : stackReady s m.f2 = true) : exec .evictorPageMove s = .next (moveCopy s m) := by
  have ha : accessesClear s m.limit (m.removal s) = true := by
    rw [accessesClear, hi]
    rfl
  have hc : chunkPorts s (m.removal s) = [] := List.flatMap_eq_nil_iff.mpr fun c hc => by
    obtain ⟨h0, h1⟩ := hs c hc
    simp [cmdsOf, h0, h1]
  rw [exec_evictorPageMove hm, if_neg (by omega), if_neg (by omega), if_pos]
  rw [ha, hc, h1, h2]
  rfl

end Move

/-! The copy of a page. -/

/-- Whether the bytes of a page can no longer be had. -/
def pageLost (s : State) (m : PageMove) : Bool :=
  stackFailed s m.f1 || siteLost s m.f1 (if m.f1 < 0x020000000000 then .hbm else .bonded)

/-- A page with a bad line, or none of its lines left, reads with an error. -/
theorem readRange_bad {s : State} {pa n i : Nat} (lost : Bool) (hi : i < n) (h : lineBad s (pa + i) = true) :
    (readRange s pa n lost).2.2.any (fun b => b) = true := by
  unfold readRange
  cases lost with
  | true =>
    rw [if_pos rfl]
    exact List.any_eq_true.mpr ⟨true, List.mem_replicate.mpr ⟨by omega, rfl⟩, rfl⟩
  | false =>
    rw [if_neg Bool.false_ne_true]
    dsimp only
    rw [any_linePoison, rangePoison_discover]
    exact List.any_eq_true.mpr ⟨i, List.mem_range.mpr hi, h⟩

theorem readRange_outHost (s : State) (pa n : Nat) (lost : Bool) : (readRange s pa n lost).1.outHost = s.outHost := by
  unfold readRange
  cases lost with
  | true =>
    obtain ⟨f, hf⟩ := freeWord_frame n s
    rw [if_pos rfl]
    exact (congrArg State.outHost hf).trans rfl
  | false =>
    rw [if_neg Bool.false_ne_true]
    exact outHost_discover ..

/-- R312: a page with a bad line stays where it is. -/
theorem moveCopy_stays {s : State} {m : PageMove} {i : Nat} (hf : 0x040000000000 ≤ m.f2) (hi : i < 2 ^ (13 + 10 * m.lvl))
    (hb : lineBad s (m.f1 + i) = true) : moveCopy s m =
    { setFrames (writePte (readRange s m.f1 (2 ^ (13 + 10 * m.lvl)) (pageLost s m)).1 m m.f1 false) m.f2 (2 ^ (13 + 10 * m.lvl)) true with
      move := none } := by
  have h := readRange_bad (pageLost s m) hi hb
  unfold moveCopy
  dsimp only
  refine if_pos ?_
  rw [decide_eq_true hf, Bool.true_and]
  exact h

/-- R312: a page that its frame still holds is copied to a frame of the device. -/
theorem moveCopy_moves {s : State} {m : PageMove} (hf : m.f2 < 0x040000000000) (hl : pageLost s m = false) : moveCopy s m =
    { setFrames (writePte (writeRange (discover s m.f1 (2 ^ (13 + 10 * m.lvl))) m.f2 (readBytes s m.f1 (2 ^ (13 + 10 * m.lvl)))
        ((upTo (2 ^ (13 + 10 * m.lvl))).map (fun i => linePoison (discover s m.f1 (2 ^ (13 + 10 * m.lvl))) (m.f1 + i)))) m m.f2 false) m.f1
        (2 ^ (13 + 10 * m.lvl)) true with move := none } := by
  have hn : ¬ 0x040000000000 ≤ m.f2 := by omega
  unfold pageLost at hl
  unfold moveCopy
  simp only [hl, readRange, Bool.false_eq_true, if_false, hn, decide_false, Bool.false_and, readBytes_of_mem (discover_mem ..)]

theorem writeRange_mem (s : State) (pa : Nat) (data : List Byte) (bad : List Bool) : (writeRange s pa data bad).mem = (writeClean s pa data).mem := by
  unfold writeRange
  exact foldl_keeps State.mem (fun s i => setLinePoison s (pa + i) true) (fun _ _ => rfl) _ _

end Sys2Proof.Machine

namespace Sys2Proof.Machine

/-- What a move leaves once the entry names a frame and another is free. -/
theorem moved_frame {u t : State} {m : PageMove} {frame pa n : Nat}
    (ht : t = { setFrames (writePte u m frame false) pa n true with move := none }) :
    t.move = none ∧ t.outHost = u.outHost ∧ readLe t m.pte 8 / 2 ^ 10 % 2 = 0 ∧
      readLe t m.pte 8 / 2 ^ 13 % 2 ^ 35 = frame / 2 ^ 13 % 2 ^ 35 ∧ (∀ f ∈ framesOf pa n, frameFree t f = true) ∧
      ∀ a, a < m.pte ∨ m.pte + 8 ≤ a → readByte t a = readByte u a := by
  obtain ⟨hb, hf⟩ := readLe_writePte u m frame false
  have hx (a : Nat) (h : a < m.pte ∨ m.pte + 8 ≤ a) := readByte_writePte u m frame false h
  have hu : (writePte u m frame false).outHost = u.outHost := by rw [writePte, writeLe_outHost]
  generalize writePte u m frame false = w at ht hb hf hx hu
  have hmem : t.mem = w.mem := by rw [ht]; rfl
  refine ⟨by rw [ht], ?_, ?_, ?_, fun f h => ?_, fun a h => ?_⟩
  · rw [ht]
    exact hu
  · rw [readLe_of_mem hmem]
    exact hb
  · rw [readLe_of_mem hmem]
    exact hf
  · rw [ht]
    exact frameFree_setFrames w h
  · rw [readByte_of_mem_eq hmem]
    exact hx a h

section Copy

variable {s : State} {m : PageMove} (hm : s.move = some m) (hp : 2 ≤ m.phase) (hi : s.inflight = [])
  (hs : ∀ c ∈ s.cores, c.2.eng0 = [] ∧ c.2.eng1 = []) (h1 : stackReady s m.f1 = true)
include hm hp hi hs h1

theorem exec_evictorPageMove_stays (hf : 0x040000000000 ≤ m.f2) (hb : ∃ i, i < 2 ^ (13 + 10 * m.lvl) ∧ lineBad s (m.f1 + i) = true) :
    ∃ t, exec .evictorPageMove s = .next t ∧ t.move = none ∧ t.outHost = s.outHost ∧ readLe t m.pte 8 / 2 ^ 10 % 2 = 0 ∧
      readLe t m.pte 8 / 2 ^ 13 % 2 ^ 35 = m.f1 / 2 ^ 13 % 2 ^ 35 ∧
      ∀ f ∈ framesOf m.f2 (2 ^ (13 + 10 * m.lvl)), frameFree t f = true := by
  obtain ⟨i, hi', hb⟩ := hb
  have h2 : stackReady s m.f2 = true := by
    unfold stackReady
    rw [decide_eq_true (by omega)]
    rfl
  obtain ⟨hmove, hout, hmv, hfr, hfree, -⟩ := moved_frame (moveCopy_stays hf hi' hb)
  exact ⟨_, exec_evictorPageMove_copies hm hp hi hs h1 h2, hmove, hout.trans (readRange_outHost ..), hmv, hfr, hfree⟩

theorem exec_evictorPageMove_moves (h2 : stackReady s m.f2 = true) (hl : stackFailed s m.f1 = false) (hf : m.f2 < 0x040000000000)
    (hd : siteLost s m.f1 (if m.f1 < 0x020000000000 then .hbm else .bonded) = false)
    (ho : m.pte + 8 ≤ m.f2 ∨ m.f2 + 2 ^ (13 + 10 * m.lvl) ≤ m.pte) :
    ∃ t, exec .evictorPageMove s = .next t ∧ t.move = none ∧
      (∀ i, i < 2 ^ (13 + 10 * m.lvl) → readByte t (m.f2 + i) = readByte s (m.f1 + i)) ∧
      readLe t m.pte 8 / 2 ^ 10 % 2 = 0 ∧ readLe t m.pte 8 / 2 ^ 13 % 2 ^ 35 = m.f2 / 2 ^ 13 % 2 ^ 35 ∧
      ∀ f ∈ framesOf m.f1 (2 ^ (13 + 10 * m.lvl)), frameFree t f = true := by
  have hlost : pageLost s m = false := by rw [pageLost, hl, hd]; rfl
  obtain ⟨hmove, -, hmv, hfr, hfree, hb⟩ := moved_frame (moveCopy_moves hf hlost)
  refine ⟨_, exec_evictorPageMove_copies hm hp hi hs h1 h2, hmove, fun i hlt => ?_, hmv, hfr, hfree⟩
  generalize 2 ^ (13 + 10 * m.lvl) = n at *
  have hlen : i < (readBytes s m.f1 n).length := by rw [readBytes_eq]; simpa using hlt
  rw [hb _ (by omega), readByte_of_mem_eq (writeRange_mem ..), readByte_writeClean_inside _ _ _ _ hlen]
  simp [readBytes_eq]

end Copy

theorem checkpointRequests (s : State) (v : Word) :
    let what := v.toNat % 4
    let n := v.toNat / 2 ^ 16 % 256
    let dev := v.toNat / 2 ^ 32 % 4096
    let u := msWriteBits s 0x830 v (BitVec.allOnes 64)
    let bad : Prop := what = 0 ∨ n < 56 ∨ 144 < n ∨ dev = 0xFFF ∨ dev = devId s
    (msField s 0x831 0 1 = 1 → exec (.checkpointRequest v) s = .next (msSetField s 0x831 2 3 1)) ∧
    (msField s 0x831 0 1 = 0 → bad → exec (.checkpointRequest v) s = .next (ckEnd u 2 0)) ∧
    (msField s 0x831 0 1 = 0 → ¬bad → portsUp s < n → exec (.checkpointRequest v) s = .next (ckEnd u 3 0)) ∧
    (msField s 0x831 0 1 = 0 → ¬bad → n ≤ portsUp s → ∃ t, exec (.checkpointRequest v) s = .next t ∧ t.ckpt = some ⟨what, n, dev⟩ ∧
      msField t 0x831 0 1 = 1) := by
  intro what n dev u bad
  refine ⟨fun h => ?_, fun h hb => ?_, fun h hb hp => ?_, fun h hb hp => ?_⟩
  · rw [exec_checkpointRequest, ckRequest, if_pos h]
  · rw [exec_checkpointRequest, ckRequest_idle v h]
    exact congrArg Host.Outcome.next (if_pos hb)
  · rw [exec_checkpointRequest, ckRequest_idle v h]
    exact congrArg Host.Outcome.next ((if_neg hb).trans (if_pos hp))
  · rw [exec_checkpointRequest, ckRequest_idle v h]
    refine ⟨_, congrArg Host.Outcome.next ((if_neg hb).trans (if_neg (Nat.not_lt.mpr hp))), ?_, ?_⟩
    · exact msPut_ckpt ..
    · rw [msField, msRaw_msPut, if_pos rfl, BitVec.toNat_ofNat]
      omega

theorem checkpointEnds {s : State} {c : Checkpoint} (hc : s.ckpt = some c) :
    let logged (t : State) : Prop :=
      let n := (msRaw s 0x818).toNat
      let a := 0x3F81000000 + 64 * (n % 1024)
      readLe t (a + 8) 8 = 6 ∧ readLe t (a + 16) 8 = (msRaw t 0x831).toNat ∧ msRaw t 0x818 = BitVec.ofNat 64 ((n + 1) % 2 ^ 32)
    (ckReady s c.what = false → exec (.checkpointEnd 0) s = .next s) ∧
    (ckReady s c.what = true → ∃ t, exec (.checkpointEnd 0) s = .next t ∧ t.ckpt = none ∧ msField t 0x831 0 1 = 0 ∧
      msField t 0x831 1 1 = 1 ∧ msField t 0x831 2 3 = 0 ∧ logged t ∧
      let ports := (upPorts s).take c.nport
      (ports ≠ [] → ∀ n, ckTakes s c.what n = true →
        (∃ p ∈ ports, Out.ckpt c.dev p (64 * n) (readBytes s (64 * n) 64) (lineBad s (64 * n) || stackFailed s (64 * n)) ∈ t.outHost) ∨
        ∃ lo k, lo ≤ n ∧ n < lo + k ∧ Out.ckptBlank c.dev ports (64 * lo) k (stackFailed s (64 * lo)) ∈ t.outHost ∧
          lineBad s (64 * n) = false ∧ ∀ i, i < 64 → readByte s (64 * n + i) = blank (64 * n + i))) ∧
    (∃ t, exec (.checkpointEnd 4) s = .next t ∧ t.ckpt = none ∧ msField t 0x831 0 1 = 0 ∧ msField t 0x831 1 1 = 1 ∧
      msField t 0x831 2 3 = 4 ∧ logged t) := by
  intro logged
  refine ⟨exec_checkpointEnd_waits hc, fun h => ?_, ?_⟩
  · have hh : msRaw (ckSent s c) 0x818 = msRaw s 0x818 := by
      unfold ckSent
      rw [ckFind_sameButErrors s c.what]
      rfl
    obtain ⟨hck, h0, h1, h2, hl⟩ := ckpt_logged (u := ckSent s c) (gib := ckGib (ckFind s c.what) c.what) (res := 0) (by decide) rfl hh
    refine ⟨_, exec_checkpointEnd_done hc h, hck, h0, h1, h2, hl, fun hp n hn => ?_⟩
    have hout {o : Out} (ho : o ∈ (ckSent s c).outHost) : o ∈ (logEvent (ckEnd (ckSent s c) 0 (ckGib (ckFind s c.what) c.what)) 6
        [msRaw (ckEnd (ckSent s c) 0 (ckGib (ckFind s c.what) c.what)) 0x831]).outHost :=
      outHost_logEvent ((outHost_ckEnd ..).symm ▸ ho)
    refine (ckSent_line hp hn).imp ?_ ?_
    · rintro ⟨p, hp, ho⟩
      exact ⟨p, hp, hout ho⟩
    · rintro ⟨lo, k, ha, hk, ho, hb⟩
      exact ⟨lo, k, ha, hk, hout ho, hb⟩
  · obtain ⟨f, hf⟩ := freeWord_frame 4 { s with ckpt := none }
    have hh : msRaw (freeWord { s with ckpt := none } 4).1 0x818 = msRaw s 0x818 := by rw [hf]; rfl
    obtain ⟨hck, h0, h1, h2, hl⟩ := ckpt_logged (u := (freeWord { s with ckpt := none } 4).1) (gib := (freeWord { s with ckpt := none } 4).2)
      (res := 4) (by decide) (by rw [hf]) hh
    exact ⟨_, exec_checkpointEnd_failed hc, hck, h0, h1, h2, hl⟩

/-- Settles O58: the service and the evictor, each step by its own law. -/
theorem checkpointAndEvictor : Obligations.CheckpointAndEvictor := by
  unfold Obligations.CheckpointAndEvictor
  refine ⟨checkpointRequests, fun s c hc => checkpointEnds hc, fun s c va frame e h => ⟨fun hb => ?_, fun hb => ?_⟩,
    fun s c va frame pa l a l' e g hr hm hg hw hl => ⟨fun hn => ?_, fun hy => ?_⟩, fun s m hm => ⟨exec_evictorPageMove_marks hm,
      removal_roots s m, exec_evictorPageMove_drops hm, fun hp h => ?_, fun hp h => ?_, fun hp hi hs h1 hf hb =>
      exec_evictorPageMove_stays hm hp hi hs h1 hf hb, fun hp hi hs h1 h2 hl hf hd ho _ => exec_evictorPageMove_moves hm hp hi hs h1 h2 hl hf hd ho⟩⟩
  · rw [exec_evictorTrigger_resident h, if_pos hb]
    exact ⟨_, rfl, getD_setD_self (⟨0, 0, 0, 0⟩ : ResEntry) { e.2 with st := 4 } e.1 s.residency, rfl⟩
  · rw [exec_evictorTrigger_resident h, if_neg (by rw [hb]; decide)]
  · rw [exec_evictorTrigger_page hr hm hg hw hl, if_neg]
    simpa only [Bool.and_eq_true, decide_eq_true_eq, List.all_eq_true, and_assoc] using hn
  · rw [exec_evictorTrigger_page hr hm hg hw hl, if_pos]
    simpa only [Bool.and_eq_true, decide_eq_true_eq, List.all_eq_true, and_assoc] using hy
  · exact exec_evictorPageMove_waits hm hp (h.imp_right .inl)
  · exact exec_evictorPageMove_waits hm hp (.inr (.inr h))

end Sys2Proof.Machine

namespace Sys2Proof.Machine

/-! Faults, aborts and the work of a lowering leave the device too. -/

@[simp] theorem abortGraph_device (s : State) (ctx res why : Nat) : device (abortGraph s ctx res why) = device s := by
  unfold abortGraph
  dsimp only
  generalize s.threads.filter (fun e => e.2.graph == some ctx) = l
  have h1 (u : State) (k : Nat) : device (match threadAt u k with
      | none => u
      | some th => releaseFile (dropThread (updCore (discardOps (silenceAll (countRun (unqueue u th.uid) (tileOf k) th) (tileOf k) th.uid)
          (tileOf k) th.uid) (tileOf k) (fun c => { c with copying := c.copying.filter (fun e => e.2 != slotOf k) })) k) (tileOf k) th.uid) =
      device u := by
    cases threadAt u k <;> simp
  have h2 (u : State) (k : Nat) : device (if slotOf k < 14 && !isKs (tileOf k) then fill u (tileOf k) else takeRecord u (tileOf k)) = device u := by
    split <;> simp
  refine (retryRecords_device _).trans ((foldl_device h2 _ _).trans ?_)
  split
  · exact (endGraph_device _ _ _ _).trans ((device_mk ..).trans (foldl_device h1 _ _))
  · rw [updGraph_device, resumeAll_device, dropNames_device, device_mk]
    exact foldl_device h1 _ _

@[simp] theorem takeFault_device (s : State) (k : Nat) (cls : FaultClass) (pc : Word) (n f : Nat) (w : Word) (a : Option (BitVec 53)) (x : Word) :
    device (takeFault s k cls pc n f w a x) = device s := by
  unfold takeFault
  dsimp only
  (repeat' split) <;> simp

@[simp] theorem lentFault_device (lost : Nat) (s : State) (k : Nat) (th : Thread) (i va : Nat) : device (lentFault lost s k th i va) = device s := by
  unfold lentFault
  simp

@[simp] theorem loseLent_device (sudden : Bool) (lost k : Nat) (s : State) (o : Nat) : device (loseLent sudden lost k s o) = device s := by
  unfold loseLent
  refine foldl_device (fun u e => ?_) _ _
  (repeat' split) <;> simp

@[simp] theorem poisonSlice_device (s : State) (t off size : Nat) : device (poisonSlice s t off size) = device s := rfl

@[simp] theorem openWindow_device (s : State) (o : Nat) : device (openWindow s o) = device s := by
  unfold openWindow
  split <;> simp

@[simp] theorem newPartners_device (s : State) (t new : Nat) (sudden : Bool) : device (newPartners s t new sudden) = device s := by
  unfold newPartners
  dsimp only
  rw [foldl_device (fun s e => loseLent_device ..), foldl_device (fun s o => (openWindow_device ..).trans (assignPartner_device ..))]
  (repeat' split) <;> simp

@[simp] theorem asyncFault_device (s : State) (u : Nat) (f : AFault) : device (asyncFault s u f) = device s := by
  unfold asyncFault
  dsimp only
  (repeat' split) <;> simp

@[simp] theorem placePub_device (s : State) (pa : Nat) (p : Pub) : device (placePub s pa p) = device s := by
  unfold placePub
  dsimp only
  refine (foldl_device (fun u i => ?_) _ _).trans (writeClean_device ..)
  split
  · exact foldl_device (fun u k => setLinePoison_device ..) _ _
  · rfl

@[simp] theorem loseInputs_device (s : State) (key : Nat) (th : Thread) (l : List Name) : device (loseInputs s key th l) = device s := by
  unfold loseInputs
  simp [foldl_device, nameLost]

@[simp] theorem copyInputs_device (s : State) (key : Nat) (th : Thread) : device (copyInputs s key th) = device s := by
  unfold copyInputs
  dsimp only
  (repeat' split) <;> simp [foldl_device]

@[simp] theorem preemptThread_device (s : State) (k : Nat) : device (preemptThread s k) = device s := by
  unfold preemptThread
  dsimp only
  (repeat' split) <;> simp

end Sys2Proof.Machine

namespace Sys2Proof.Machine

/-! What a vacate request leaves alone. -/

/-- Two states that differ in what a vacate request decides alone. -/
abbrev SameButVacate (s t : State) : Prop := t = { s with
  ms := t.ms, vacate := t.vacate, excluded := t.excluded, graphs := t.graphs, vacHeld := t.vacHeld, vacAsked := t.vacAsked }

theorem SameButVacate.refl (s : State) : SameButVacate s s := rfl

theorem SameButVacate.trans {s t u : State} (h : SameButVacate s t) (h' : SameButVacate t u) : SameButVacate s u := by
  rw [SameButVacate] at h h' ⊢
  rw [h', h]

theorem msPut_sameButVacate (s : State) (n : Nat) (v : Word) : SameButVacate s (msPut s n v) := rfl

theorem msSetField_sameButVacate (s : State) (n lo w v : Nat) : SameButVacate s (msSetField s n lo w v) := msPut_sameButVacate ..

theorem vacRefuse_sameButVacate (s : State) (r : Nat) : SameButVacate s (vacRefuse s r) :=
  (msSetField_sameButVacate s 0x813 2 3 r).trans (msSetField_sameButVacate _ 0x813 1 1 1)

theorem exclude_sameButVacate (s : State) (w x : Vacate) : SameButVacate s { exclude s w with vacate := some x } := rfl

theorem vacAccept_sameButVacate (s : State) (bs gb : List Nat) (p : Nat) : SameButVacate s (vacAccept s bs gb p) := by
  unfold vacAccept
  exact (exclude_sameButVacate s _ _).trans (msPut_sameButVacate _ _ _)

theorem vacStart_sameButVacate (s : State) (bs gb : List Nat) (p : Nat) : SameButVacate s (vacStart s bs gb p) := by
  unfold vacStart
  split
  · exact vacRefuse_sameButVacate ..
  · exact vacAccept_sameButVacate ..

theorem vacMerge_sameButVacate (s : State) (v : Vacate) (bs gb : List Nat) (p : Nat) : SameButVacate s (vacMerge s v bs gb p) := by
  unfold vacMerge
  dsimp only
  split
  · exact vacRefuse_sameButVacate ..
  · refine SameButVacate.trans ?_ (msSetField_sameButVacate _ 0x813 2 3 0)
    refine SameButVacate.trans ?_ (msSetField_sameButVacate _ 0x813 16 8 _)
    exact SameButVacate.trans (exclude_sameButVacate ..) (msSetField_sameButVacate _ 0x813 8 3 1)

theorem vacHold_sameButVacate (s : State) (bs gb : List Nat) (p : Nat) : SameButVacate s (vacHold s bs gb p) := by
  unfold vacHold
  split
  · rfl
  · split
    · rfl
    · exact vacRefuse_sameButVacate ..

theorem vacDecide_sameButVacate (s : State) (v : Word) (h : Option Nat) : SameButVacate s (vacDecide s v h) := by
  unfold vacDecide
  dsimp only
  split
  · exact vacRefuse_sameButVacate ..
  · split
    · rfl
    · split
      · split
        · exact vacRefuse_sameButVacate ..
        · split
          · exact SameButVacate.trans (t := { s with excluded := _ }) rfl
              ((msSetField_sameButVacate _ 0x813 2 3 0).trans (msSetField_sameButVacate _ 0x813 1 1 1))
          · exact vacStart_sameButVacate ..
      · split
        · exact vacRefuse_sameButVacate ..
        · split
          · exact vacRefuse_sameButVacate ..
          · split
            · exact vacMerge_sameButVacate ..
            · exact vacHold_sameButVacate ..

theorem vacAnswer_sameButVacate (s : State) : SameButVacate s (vacAnswer s) := by
  unfold vacAnswer
  refine SameButVacate.trans (t := { s with vacAsked := [] }) rfl ?_
  generalize { s with vacAsked := [] } = u
  induction s.vacAsked generalizing u with
  | nil => exact .refl u
  | cons e l ih => exact (vacDecide_sameButVacate u e.1 e.2).trans (ih _)

/-! The tables that a lowering loads. -/

theorem emptyCore_device (s : State) (t : Nat) (a : Bool) : ∃ v, device (emptyCore s t a) = device { s with lowVac := v } := by
  unfold emptyCore
  dsimp only
  rw [retryRecords_device, foldl_device discardHandler_device, foldl_device discardHandler_device,
    foldl_device (fun s e => by split <;> simp), foldl_device (f := fun s (e : Nat × Thread) => preemptThread s e.1) (fun s e => preemptThread_device s e.1)]
  exact ⟨_, rfl⟩

theorem lowBegin_tables (n : Nat) (s : State) : (lowBegin n s).live = s.live ∧ (lowBegin n s).epoch = s.epoch := by
  induction n generalizing s with
  | zero => exact ⟨rfl, rfl⟩
  | succ n ih =>
    unfold lowBegin
    split
    next l q hl hq =>
      dsimp only
      split
      · obtain ⟨h1, h2⟩ := ih (if l.req = true then msSetField (msSetField { s with lowerQ := q } 0x811 1 2 1) 0x811 3 1 1 else { s with lowerQ := q })
        rw [h1, h2]
        split
        · simp only [msSetField_live, msSetField_epoch, and_self]
        · exact ⟨rfl, rfl⟩
      · split
        · obtain ⟨v, h⟩ := emptyCore_device (msSetField { s with lowerQ := q, lowering := some l } 0x811 0 1 1) (tileOfSite l.site) l.core
          have h1 := live_of_device h
          have h2 := epoch_of_device h
          simp only [msSetField_live, msSetField_epoch] at h1 h2
          exact ⟨h1, h2⟩
        · simp only [msSetField_live, msSetField_epoch, and_self]
    · exact ⟨rfl, rfl⟩

end Sys2Proof.Machine

namespace Sys2Proof.Machine

theorem lowBegin_busy {s : State} {l : Lowering} (h : s.lowering = some l) (n : Nat) : lowBegin n s = s := by
  cases n with
  | zero => rfl
  | succ n =>
    unfold lowBegin
    rw [h]

theorem lowBegin_empty {s : State} (hl : s.lowering = none) (h : s.lowerQ = []) (n : Nat) : lowBegin n s = s := by
  cases n with
  | zero => rfl
  | succ n =>
    unfold lowBegin
    rw [hl, h]

theorem lowBegin_refused {s : State} {l : Lowering} {q : List Lowering} (hl : s.lowering = none) (h : s.lowerQ = l :: q)
    (ho : loweringOk (classOf s (tileOfSite l.site)) l.cls = false) (n : Nat) : lowBegin (n + 1) s = lowBegin n (if l.req then
      msSetField (msSetField { s with lowerQ := q } 0x811 1 2 1) 0x811 3 1 1 else { s with lowerQ := q }) := by
  rw [lowBegin, hl, h]
  dsimp only
  rw [if_pos]
  rw [Bool.not_eq_true']
  exact ho

theorem lowBegin_starts {s : State} {l : Lowering} {q : List Lowering} (hl : s.lowering = none) (h : s.lowerQ = l :: q)
    (ho : loweringOk (classOf s (tileOfSite l.site)) l.cls = true) (hc : losesCore (classOf s (tileOfSite l.site)) l.cls = false) (n : Nat) :
    lowBegin (n + 1) s = msSetField { s with lowerQ := q, lowering := some l } 0x811 0 1 1 := by
  rw [lowBegin, hl, h]
  dsimp only
  rw [if_neg, if_neg]
  · show ¬ losesCore (classOf s (tileOfSite l.site)) l.cls = true
    rw [hc]
    decide
  · show ¬ (!loweringOk (classOf s (tileOfSite l.site)) l.cls) = true
    rw [ho]
    decide

/-! Requests. -/

section Request

variable (s : State) (v : Word)

theorem classRequest_fields : msField (msWriteBits s 0x810 v (BitVec.allOnes 64)) 0x810 0 15 = v.toNat % 2 ^ 15 ∧
    msField (msWriteBits s 0x810 v (BitVec.allOnes 64)) 0x810 16 2 = v.toNat / 2 ^ 16 % 4 := by
  refine ⟨?_, ?_⟩
  · exact (msField_msWriteBits s v (by decide) (by decide)).trans (by rw [pow_zero, Nat.div_one])
  · exact msField_msWriteBits s v (by decide) (by decide)

theorem classOf_msWriteBits (n t : Nat) (m : Word) : classOf (msWriteBits s n v m) t = classOf s t := rfl

variable {s} (h : msField s 0x811 0 1 = 0)
include h

theorem exec_classLoweringRequest : exec (.classLoweringRequest v) s = .next
    (let u := msWriteBits s 0x810 v (BitVec.allOnes 64)
    let n := v.toNat % 2 ^ 15
    let c := v.toNat / 2 ^ 16 % 4
    if 21504 ≤ n then msSetField u 0x811 1 2 2
    else if !loweringOk (classOf s (tileOfSite n)) c then msSetField u 0x811 1 2 1
    else lowNext (requestLowering u n c (!routerAnswers u n) (coreAnswers u n) true none)) := by
  obtain ⟨hn, hc⟩ := classRequest_fields s v
  have hx : exec (.classLoweringRequest v) s = .next (classRequest s v (BitVec.allOnes 64)) := rfl
  rw [hx, classRequest, if_neg (by omega)]
  simp only [hn, hc]
  rfl

end Request

theorem exec_sliceFailureReport {s : State} {n : Nat} (hn : n < 21504) : exec (.sliceFailureReport n) s =
    .next (if classOf s (tileOfSite n) = 0 then lowNext (requestLowering s n 1 false true false none) else s) := by
  have hx : exec (.sliceFailureReport n) s = execSliceFailureReport n s := rfl
  have hs : decide (n < Config.sites) = true := decide_eq_true hn
  rw [hx, execSliceFailureReport, hs, Bool.true_and]
  congr 1
  by_cases h : classOf s (tileOfSite n) = 0 <;> simp [h]

/-! The end of a lowering. -/

theorem lowRelease_waits {s : State} (h : s.tokens ≠ [] ∨ s.aborts ≠ []) : lowRelease s = s := by
  unfold lowRelease
  split
  · rfl
  · rw [if_neg]
    rcases h with h | h <;> simp [h]

/-- A lowering with its hash units released, its names moved and its record in the log. -/
def lowLogged (s : State) (l : Lowering) : State :=
  logEvent (loseCopies (moveNames (fun u => if u = tileOfSite l.site then !l.sudden else routerUp s u) l.moved (vacAnswer { s with lowering := none }))) 1
    [BitVec.ofNat 64 l.site, BitVec.ofNat 64 l.old, BitVec.ofNat 64 l.cls,
      (loseCopies (moveNames (fun u => if u = tileOfSite l.site then !l.sudden else routerUp s u) l.moved
        (vacAnswer { s with lowering := none }))).epoch.setWidth 64]

/-- The status of the requests once it is done. -/
def lowShown (u : State) (req : Bool) : State :=
  msSetField (if req then msSetField (msSetField u 0x811 3 1 1) 0x811 1 2 0 else msSetField u 0x811 3 1 1) 0x811 0 1 0

theorem lowFinish_eq (s : State) (l : Lowering) : lowFinish s l =
    lowNext ((lowShown (lowLogged s l) l.req).cores.foldl (fun s e => wakeTile s e.1) (lowShown (lowLogged s l) l.req)) := rfl

theorem lowLogged_device (s : State) (l : Lowering) : device (lowLogged s l) = device (vacAnswer { s with lowering := none }) := by
  unfold lowLogged
  rw [logEvent_device, loseCopies_device, moveNames_device]

end Sys2Proof.Machine

namespace Sys2Proof.Machine

/-! The lowerings that wait stay as they are while names move and the log grows. -/

theorem logEvent_lowerQ (s : State) (k : Nat) (l : List Word) : (logEvent s k l).lowerQ = s.lowerQ := by
  rw [logEvent_sameButLog s k l]

theorem makeRoom_lowerQ (t n f : Nat) (s : State) : (makeRoom t n f s).lowerQ = s.lowerQ := by
  induction f generalizing s with
  | zero => rfl
  | succ f ih =>
    unfold makeRoom
    split
    · rfl
    · split
      · exact (ih _).trans rfl
      · dsimp only
        split
        · rfl
        · exact (ih _).trans rfl

theorem moveName_lowerQ (alive : Nat → Bool) (s : State) (h : HomeE) : (moveName alive s h).lowerQ = s.lowerQ := by
  have hl (u : State) (n : Name) : (loseName u n).lowerQ = u.lowerQ := by
    unfold loseName nameLost
    split
    · rfl
    · exact logEvent_lowerQ ..
  have hm (c : Prop) [Decidable c] (u n : Nat) : (if c then freshCopy (makeRoom u n (cacheItems s u) s) u h.pub.name else s).lowerQ = s.lowerQ := by
    split
    · exact (show (freshCopy _ _ _).lowerQ = _ from rfl).trans (makeRoom_lowerQ ..)
    · rfl
  unfold moveName
  dsimp only
  split
  · rfl
  · split
    · exact (hl _ _).trans rfl
    · split
      · exact hm ..
      · split
        · exact (makeRoom_lowerQ ..).trans rfl
        · exact (hl _ _).trans rfl

theorem moveNames_lowerQ (alive : Nat → Bool) (l : List Name) (s : State) : (moveNames alive l s).lowerQ = s.lowerQ := by
  unfold moveNames
  exact foldl_keeps State.lowerQ (moveName alive) (fun s h => moveName_lowerQ alive s h) _ s

section Fields

variable {s t : State} (h : device t = device s)
include h

theorem lowering_of_device : t.lowering = s.lowering := congrArg Device.lowering h

theorem downLinks_of_device : t.downLinks = s.downLinks := congrArg Device.downLinks h

theorem tokens_of_device : t.tokens = s.tokens := congrArg Device.tokens h

theorem aborts_of_device : t.aborts = s.aborts := congrArg Device.aborts h

end Fields

/-! What a lowering leaves once it has finished. -/

section Finish

variable (s : State) (l : Lowering)

theorem vacAnswer_fields (u : State) : (vacAnswer u).live = u.live ∧ (vacAnswer u).epoch = u.epoch ∧ (vacAnswer u).lowering = u.lowering ∧
    (vacAnswer u).downLinks = u.downLinks ∧ (vacAnswer u).lowerQ = u.lowerQ := by
  have h := vacAnswer_sameButVacate u
  refine ⟨?_, ?_, ?_, ?_, ?_⟩ <;> rw [h]

theorem lowLogged_fields : (lowLogged s l).live = s.live ∧ (lowLogged s l).epoch = s.epoch ∧ (lowLogged s l).lowering = none ∧
    (lowLogged s l).downLinks = s.downLinks ∧ (lowLogged s l).lowerQ = s.lowerQ := by
  have hd := lowLogged_device s l
  obtain ⟨h1, h2, h3, h4, h5⟩ := vacAnswer_fields { s with lowering := none }
  refine ⟨(live_of_device hd).trans h1, (epoch_of_device hd).trans h2, (lowering_of_device hd).trans h3, (downLinks_of_device hd).trans h4, ?_⟩
  unfold lowLogged
  rw [logEvent_lowerQ]
  refine Eq.trans ?_ h5
  exact (show (loseCopies _).lowerQ = _ from rfl).trans (moveNames_lowerQ ..)

theorem lowShown_keeps {α : Type} (p : State → α) (hp : ∀ s n v, p (msPut s n v) = p s) (req : Bool) : p (lowShown s req) = p s := by
  unfold lowShown
  rw [msSetField_keeps p hp]
  split
  · rw [msSetField_keeps p hp, msSetField_keeps p hp]
  · rw [msSetField_keeps p hp]

theorem lowShown_status (req : Bool) : msField (lowShown s req) 0x811 0 1 = 0 ∧ msField (lowShown s req) 0x811 3 1 = 1 := by
  unfold lowShown
  refine ⟨msField_msSetField _ (by decide), ?_⟩
  rw [msField_msSetField_apart _ (.inr (by decide)) (by decide)]
  split
  · rw [msField_msSetField_apart _ (.inr (by decide)) (by decide)]
    exact msField_msSetField _ (by decide)
  · exact msField_msSetField _ (by decide)

theorem wakeTiles_device (u : State) : device (u.cores.foldl (fun s (e : Nat × Core) => wakeTile s e.1) u) = device u :=
  foldl_device (f := fun s (e : Nat × Core) => wakeTile s e.1) (fun s e => wakeTile_device s e.1) _ _

theorem wakeTiles_lowerQ (u : State) : (u.cores.foldl (fun s (e : Nat × Core) => wakeTile s e.1) u).lowerQ = u.lowerQ :=
  foldl_keeps State.lowerQ (fun s (e : Nat × Core) => wakeTile s e.1) (fun s e => by obtain ⟨m, h⟩ := wakeTile_eq s e.1; rw [h]) _ _

theorem lowFinish_tables : (lowFinish s l).live = s.live ∧ (lowFinish s l).epoch = s.epoch := by
  obtain ⟨h1, h2, -⟩ := lowLogged_fields s l
  rw [lowFinish_eq, lowNext]
  obtain ⟨e1, e2⟩ := lowBegin_tables (((lowShown (lowLogged s l) l.req).cores.foldl (fun s (e : Nat × Core) => wakeTile s e.1)
    (lowShown (lowLogged s l) l.req)).lowerQ.length + 1) ((lowShown (lowLogged s l) l.req).cores.foldl (fun s (e : Nat × Core) => wakeTile s e.1)
    (lowShown (lowLogged s l) l.req))
  have hd := wakeTiles_device (lowShown (lowLogged s l) l.req)
  refine ⟨e1.trans ((live_of_device hd).trans ?_), e2.trans ((epoch_of_device hd).trans ?_)⟩
  · exact (lowShown_keeps _ State.live (fun _ _ _ => rfl) _).trans h1
  · exact (lowShown_keeps _ State.epoch (fun _ _ _ => rfl) _).trans h2

theorem lowFinish_last (hq : s.lowerQ = []) : (lowFinish s l).lowering = none ∧ (lowFinish s l).downLinks = s.downLinks ∧
    msField (lowFinish s l) 0x811 0 1 = 0 ∧ msField (lowFinish s l) 0x811 3 1 = 1 := by
  obtain ⟨-, -, h3, h4, h5⟩ := lowLogged_fields s l
  have hd := wakeTiles_device (lowShown (lowLogged s l) l.req)
  have hl := (lowering_of_device hd).trans ((lowShown_keeps _ State.lowering (fun _ _ _ => rfl) _).trans h3)
  have hw := (wakeTiles_lowerQ _).trans ((lowShown_keeps (lowLogged s l) State.lowerQ (fun _ _ _ => rfl) l.req).trans (h5.trans hq))
  obtain ⟨hs, hf⟩ := lowShown_status (lowLogged s l) l.req
  rw [lowFinish_eq, lowNext, lowBegin_empty hl hw]
  refine ⟨hl, (downLinks_of_device hd).trans ((lowShown_keeps _ State.downLinks (fun _ _ _ => rfl) _).trans h4), ?_, ?_⟩
  · rw [msField_of_device hd (by decide), hs]
  · rw [msField_of_device hd (by decide), hf]

/-- R48, step 4: the entry is written, and the partners follow. -/
def tablesLoaded : State :=
  newPartners { s with live := setD 0 l.site (BitVec.ofNat 2 l.cls) s.live, epoch := s.epoch + 1, lowVac := none } (tileOfSite l.site) l.cls l.sudden

/-- The core of a site that loses it. -/
def siteCleared : State :=
  if losesCore (classOf s (tileOfSite l.site)) l.cls || l.cls = 3 then clearCore (tablesLoaded s l) (tileOfSite l.site) l.cls
  else tablesLoaded s l

theorem siteCleared_device : device (siteCleared s l) =
    device { s with live := setD 0 l.site (BitVec.ofNat 2 l.cls) s.live, epoch := s.epoch + 1, lowVac := none } := by
  unfold siteCleared
  split
  · exact (clearCore_device ..).trans (newPartners_device ..)
  · exact newPartners_device ..

/-- Beside them a lowering sends the tokens of a sudden one, and logs the names that are lost. -/
theorem lowTables_eq : ∃ toks ev lw, lowTables s l = { (ev : List (Nat × Nat)).foldl (fun s e => logEvent s 4 [BitVec.ofNat 64 e.2])
    (if l.sudden then noteOlds { siteCleared s l with tokens := toks } else siteCleared s l) with lowering := lw } := ⟨_, _, _, rfl⟩

theorem lowTables_fields : (lowTables s l).live = setD 0 l.site (BitVec.ofNat 2 l.cls) s.live ∧ (lowTables s l).epoch = s.epoch + 1 := by
  obtain ⟨toks, ev, lw, h⟩ := lowTables_eq s l
  have hd := siteCleared_device s l
  have h1 : (siteCleared s l).live = setD 0 l.site (BitVec.ofNat 2 l.cls) s.live := (live_of_device hd).trans rfl
  have h2 : (siteCleared s l).epoch = s.epoch + 1 := (epoch_of_device hd).trans rfl
  generalize siteCleared s l = p at h h1 h2
  have hlogs (u : State) : device (ev.foldl (fun s e => logEvent s 4 [BitVec.ofNat 64 e.2]) u) = device u :=
    foldl_device (f := fun s (e : Nat × Nat) => logEvent s 4 [BitVec.ofNat 64 e.2]) (fun s e => logEvent_device ..) _ _
  have hold : ∀ u : State, (if l.sudden then noteOlds { u with tokens := toks } else u).live = u.live ∧
      (if l.sudden then noteOlds { u with tokens := toks } else u).epoch = u.epoch := by
    intro u
    split <;> exact ⟨rfl, rfl⟩
  obtain ⟨hl, he⟩ := hold p
  generalize (if l.sudden then noteOlds { p with tokens := toks } else p) = q at h hl he
  have hq := hlogs q
  generalize ev.foldl (fun s e => logEvent s 4 [BitVec.ofNat 64 e.2]) q = r at h hq
  rw [h]
  exact ⟨(live_of_device hq).trans (hl.trans h1), (epoch_of_device hq).trans (he.trans h2)⟩

end Finish

end Sys2Proof.Machine

namespace Sys2Proof.Machine

/-! The steps of a lowering. -/

theorem lowRelease_tables (s : State) : (lowRelease s).live = s.live ∧ (lowRelease s).epoch = s.epoch := by
  unfold lowRelease
  split
  · exact ⟨rfl, rfl⟩
  · split
    · exact lowFinish_tables ..
    · exact ⟨rfl, rfl⟩

theorem classRequest_starts {s : State} {u : State} {l : Lowering} (hu : u.lowering = none) (hq : u.lowerQ = []) (hl : u.live = s.live)
    (hm : u.mem = s.mem) (ho : loweringOk (classOf s (tileOfSite l.site)) 1 = true) (hc : l.cls = 1) :
    let go := lowNext { u with lowerQ := u.lowerQ ++ [l] }
    go.lowering = some l ∧ msField go 0x811 0 1 = 1 ∧ go.live = s.live ∧ go.mem = s.mem := by
  have hclass : classOf { u with lowerQ := u.lowerQ ++ [l] } (tileOfSite l.site) = classOf s (tileOfSite l.site) := by
    unfold classOf
    rw [← hl]
  have hgo : lowNext { u with lowerQ := u.lowerQ ++ [l] } = msSetField { u with lowerQ := [], lowering := some l } 0x811 0 1 1 := by
    rw [lowNext]
    refine lowBegin_starts (s := { u with lowerQ := u.lowerQ ++ [l] }) (q := []) hu (by rw [hq]; rfl) ?_ ?_ _
    · rw [hclass, hc]
      exact ho
    · rw [hclass, hc]
      simp [losesCore]
  intro go
  have hg : go = msSetField { u with lowerQ := [], lowering := some l } 0x811 0 1 1 := hgo
  rw [hg]
  refine ⟨msSetField_keeps State.lowering (fun _ _ _ => rfl) .., msField_msSetField _ (by decide), ?_, ?_⟩
  · exact (msSetField_live ..).trans hl
  · exact (msSetField_keeps State.mem (fun _ _ _ => rfl) ..).trans hm

theorem exec_loweringRouterDrained (s : State) : exec .loweringRouterDrained s = execLoweringRouterDrained s := rfl

theorem exec_loweringRouterDrained_refuses {s : State} {l : Lowering} (hl : s.lowering = none) (hq : s.lowerQ = [l])
    (ho : loweringOk (classOf s (tileOfSite l.site)) l.cls = false) (hr : l.req = true) :
    ∃ t, exec .loweringRouterDrained s = .next t ∧ t.lowering = none ∧ t.lowerQ = [] ∧ msField t 0x811 1 2 = 1 ∧
      msField t 0x811 3 1 = 1 ∧ t.live = s.live := by
  have hk {α : Type} (p : State → α) (hp : ∀ s n v, p (msPut s n v) = p s) :
      p (msSetField (msSetField { s with lowerQ := [] } 0x811 1 2 1) 0x811 3 1 1) = p { s with lowerQ := [] } :=
    (msSetField_keeps p hp ..).trans (msSetField_keeps p hp ..)
  have hf1 : msField (msSetField (msSetField { s with lowerQ := [] } 0x811 1 2 1) 0x811 3 1 1) 0x811 1 2 = 1 :=
    (msField_msSetField_apart _ (.inl (by decide)) (by decide)).trans (msField_msSetField _ (by decide))
  have hf2 : msField (msSetField (msSetField { s with lowerQ := [] } 0x811 1 2 1) 0x811 3 1 1) 0x811 3 1 = 1 := msField_msSetField _ (by decide)
  have hn : lowNext s = msSetField (msSetField { s with lowerQ := [] } 0x811 1 2 1) 0x811 3 1 1 := by
    rw [lowNext, lowBegin_refused hl hq ho, if_pos hr]
    exact lowBegin_empty ((hk State.lowering fun _ _ _ => rfl).trans hl) (hk State.lowerQ fun _ _ _ => rfl) _
  rw [exec_loweringRouterDrained, execLoweringRouterDrained, hn]
  generalize msSetField (msSetField { s with lowerQ := [] } 0x811 1 2 1) 0x811 3 1 1 = t at hk hf1 hf2
  have ht : t.lowering = none := (hk State.lowering fun _ _ _ => rfl).trans hl
  refine ⟨t, ?_, ht, hk State.lowerQ fun _ _ _ => rfl, hf1, hf2, hk State.live fun _ _ _ => rfl⟩
  dsimp only
  rw [ht]

section Busy

variable {s : State} {l : Lowering} (hl : s.lowering = some l)
include hl

theorem exec_loweringRouterDrained_busy : exec .loweringRouterDrained s = .next
    (if !l.tables && (match s.lowVac with
      | none => true
      | some v => v.phase == 5) && (l.sudden || routerEmpty s (tileOfSite l.site)) then lowRelease (lowTables s l) else s) := by
  rw [exec_loweringRouterDrained, execLoweringRouterDrained, lowNext, lowBegin_busy hl]
  simp only [hl] <;> cases s.lowVac <;> rfl

theorem exec_loweringRouterDrained_waits (h : (∃ v, s.lowVac = some v ∧ v.phase ≠ 5) ∨ l.tables = true ∨
    (l.sudden = false ∧ routerEmpty s (tileOfSite l.site) = false)) : exec .loweringRouterDrained s = .next s := by
  rw [exec_loweringRouterDrained_busy hl, if_neg]
  rcases h with ⟨v, hv, hp⟩ | h | ⟨h1, h2⟩
  · simp [hv, hp]
  · simp [h]
  · simp [h1, h2]

theorem exec_loweringRouterDrained_loads (ht : l.tables = false) (hv : ∀ v, s.lowVac = some v → v.phase = 5)
    (hr : l.sudden = true ∨ routerEmpty s (tileOfSite l.site) = true) :
    ∃ t, exec .loweringRouterDrained s = .next t ∧ getD 0 l.site t.live = BitVec.ofNat 2 l.cls ∧ t.epoch = s.epoch + 1 ∧
      ∀ n, n ≠ l.site → getD 0 n t.live = getD 0 n s.live := by
  have hm : (match s.lowVac with
      | none => true
      | some v => v.phase == 5) = true := by
    cases h : s.lowVac with
    | none => rfl
    | some v => exact beq_iff_eq.mpr (hv v h)
  obtain ⟨h1, h2⟩ := lowRelease_tables (lowTables s l)
  obtain ⟨e1, e2⟩ := lowTables_fields s l
  rw [exec_loweringRouterDrained_busy hl, hm, ht, if_pos (by rcases hr with hr | hr <;> simp [hr])]
  refine ⟨_, rfl, ?_, h2.trans e2, fun n hn => ?_⟩
  · rw [h1, e1]
    exact getD_setD_self (0 : BitVec 2) _ l.site s.live
  · rw [h1, e1, getD_setD, if_neg hn]

end Busy

/-! Tokens and aborts. -/

theorem exec_resetToken_link {s : State} {i u d : Nat} {cuts late : List Cut} (h : s.tokens[i]? = some (.link u d cuts late)) :
    exec (.resetToken i) s = .next (lowRelease { s with
      downLinks := (u, d) :: s.downLinks.filter (fun l => l != (u, d)),
      tokens := dropNth s.tokens i ++ cuts.map .up, aborts := s.aborts ++ late }) := by
  have hx : exec (.resetToken i) s = execResetToken i s := rfl
  rw [hx, execResetToken, h]

theorem exec_resetToken_passes {s : State} {i r : Nat} {c : Cut} {l : List Nat} (h : s.tokens[i]? = some (.up c)) (hp : c.path = r :: l) :
    exec (.resetToken i) s = .next (lowRelease { s with tokens := dropNth s.tokens i ++ [.up { c with path := l }] }) := by
  have hx : exec (.resetToken i) s = execResetToken i s := rfl
  rw [hx, execResetToken, h]
  simp only [hp]

theorem exec_resetToken_ends {s : State} {i : Nat} {c : Cut} (h : s.tokens[i]? = some (.up c)) (hp : c.path = []) :
    exec (.resetToken i) s = .next (lowRelease (cutAt { s with tokens := dropNth s.tokens i } c)) := by
  have hx : exec (.resetToken i) s = execResetToken i s := rfl
  rw [hx, execResetToken, h]
  simp only [hp]

theorem exec_abortFlit_passes {s : State} {i r : Nat} {c : Cut} {l : List Nat} (h : s.aborts[i]? = some c) (hp : c.path = r :: l) :
    exec (.abortFlit i) s = .next (lowRelease { s with aborts := dropNth s.aborts i ++ [{ c with path := l }] }) := by
  have hx : exec (.abortFlit i) s = execAbortFlit i s := rfl
  rw [hx, execAbortFlit, h]
  simp only [hp]

theorem exec_abortFlit_ends {s : State} {i : Nat} {c : Cut} (h : s.aborts[i]? = some c) (hp : c.path = []) :
    exec (.abortFlit i) s = .next (lowRelease (abortAt { s with aborts := dropNth s.aborts i } c)) := by
  have hx : exec (.abortFlit i) s = execAbortFlit i s := rfl
  rw [hx, execAbortFlit, h]
  simp only [hp]

/-- A link that is reset last ends its lowering. -/
theorem lowRelease_last {v : State} {l : Lowering} (ht : v.tokens = []) (ha : v.aborts = []) (hl : v.lowering = some l) (hb : l.tables = true)
    (hq : v.lowerQ = []) : (lowRelease v).lowering = none ∧ (lowRelease v).downLinks = v.downLinks ∧
      msField (lowRelease v) 0x811 0 1 = 0 ∧ msField (lowRelease v) 0x811 3 1 = 1 := by
  have h : lowRelease v = lowFinish v l := by
    unfold lowRelease
    rw [hl]
    exact if_pos (by rw [hb, ht, ha]; rfl)
  rw [h]
  exact lowFinish_last v l hq

theorem dropNth_ne_nil {α : Type} {l : List α} (i : Nat) (h : 2 ≤ l.length) : dropNth l i ≠ [] := by
  match l, i with
  | a :: b :: l, 0 => simp [dropNth]
  | a :: b :: l, n + 1 => simp [dropNth]

/-- The elements of an access after a change of those that a packet carried. -/
def cutElems (f : Elem → Elem) (l : List Nat) (a : Access) : Access :=
  { a with elems := ((upTo a.elems.length).zip a.elems).map (fun x => if l.contains x.1 then f x.2 else x.2) }

theorem cutElems_length (f : Elem → Elem) (l : List Nat) (a : Access) : (cutElems f l a).elems.length = a.elems.length := by
  simp [cutElems, upTo]

theorem cutElems_getElem {f : Elem → Elem} {l : List Nat} {a : Access} {j : Nat} {e g : Elem} (h : a.elems[j]? = some e) (hj : j ∈ l)
    (hg : (cutElems f l a).elems[j]? = some g) : g = f e := by
  have hjl : j < a.elems.length := (List.getElem?_eq_some_iff.mp h).1
  have hz : ((upTo a.elems.length).zip a.elems)[j]? = some (j, e) := by
    rw [List.getElem?_zip_eq_some]
    exact ⟨List.getElem?_range hjl, h⟩
  rw [cutElems, List.getElem?_map, hz] at hg
  have := Option.some.inj hg
  exact this.symm.trans (if_pos (List.contains_iff_mem.mpr hj))

theorem cutAt_eq {s : State} {c : Cut} {a : Access} (h : accAt s c.id = some a) :
    cutAt s c = updAcc s c.id (cutElems (fun e => { e with cut := true }) c.elems) := by
  rw [cutAt, h]
  rfl

theorem abortAt_eq {s : State} {c : Cut} {a : Access} (h : accAt s c.id = some a) :
    abortAt s c = updAcc s c.id (cutElems (fun e => if e.done || e.sent then { e with cut := true } else { e with sent := true }) c.elems) := by
  rw [abortAt, h]
  refine congrArg (updAcc s c.id) (funext fun b => ?_)
  unfold cutElems
  congr 1
  refine List.map_congr_left fun x _ => ?_
  cases c.elems.contains x.1 <;> rfl

theorem cutChunk_inflight (s : State) (num : Nat) : (cutChunk s num).inflight = s.inflight := by
  unfold cutChunk
  split <;> rfl

/-- Settles O54: requests, the order of R48, and the resets of R50. -/
theorem loweringSteps : Obligations.LoweringSteps := by
  unfold Obligations.LoweringSteps
  refine ⟨fun s v h => ?_, fun s l hl hq ho hr => exec_loweringRouterDrained_refuses hl hq ho hr, fun s n hn => ?_, fun s l hl => ?_,
    fun s i u d cuts late h => ?_, fun s i c h hn => ?_, fun s i c h hn => ?_⟩
  · refine ⟨fun hn => ?_, fun hn ho => ?_, fun hn ho => ⟨?_, fun hc hl hq => ?_⟩⟩
    · rw [exec_classLoweringRequest v h]
      exact congrArg Host.Outcome.next (if_pos hn)
    · rw [exec_classLoweringRequest v h]
      exact congrArg Host.Outcome.next ((if_neg (Nat.not_le.mpr hn)).trans (if_pos (by rw [ho]; rfl)))
    · rw [exec_classLoweringRequest v h]
      exact congrArg Host.Outcome.next ((if_neg (Nat.not_le.mpr hn)).trans (if_neg (by rw [ho]; decide)))
    · obtain ⟨h1, h2, h3, h4⟩ := classRequest_starts (s := s) (u := msWriteBits s 0x810 v (BitVec.allOnes 64))
        (l := ⟨v.toNat % 2 ^ 15, v.toNat / 2 ^ 16 % 4, !routerAnswers (msWriteBits s 0x810 v (BitVec.allOnes 64)) (v.toNat % 2 ^ 15),
          coreAnswers (msWriteBits s 0x810 v (BitVec.allOnes 64)) (v.toNat % 2 ^ 15), true, none, false, 0, []⟩)
        hl hq rfl rfl (hc ▸ ho) hc
      refine ⟨h1.trans ?_, h2, h3, h4⟩
      rw [hc]
  · refine ⟨fun hc => ?_, fun hc => ?_⟩
    · rw [exec_sliceFailureReport hn, if_pos hc]
    · rw [exec_sliceFailureReport hn, if_neg hc]
  · exact ⟨fun hv => exec_loweringRouterDrained_waits hl (.inl hv), fun _ h1 h2 => exec_loweringRouterDrained_waits hl (.inr (.inr ⟨h1, h2⟩)),
      fun ht => exec_loweringRouterDrained_waits hl (.inr (.inl ht)), fun ht hv hr => exec_loweringRouterDrained_loads hl ht hv hr⟩
  · refine ⟨fun hw => ?_, fun l ht ha hl hb hq => ?_⟩
    · rw [exec_resetToken_link h, lowRelease_waits hw]
    · rw [exec_resetToken_link h]
      obtain ⟨h1, h2, h3, h4⟩ := lowRelease_last ht ha hl hb hq
      refine ⟨_, rfl, h1, ?_, h3, h4⟩
      rw [h2]
      exact List.mem_cons_self ..
  · have hkeep : dropNth s.tokens i ≠ [] ∨ s.aborts ≠ [] := hn.imp_left (dropNth_ne_nil i)
    refine ⟨fun r l hp => ?_, fun hp a ha => ?_⟩
    · rw [exec_resetToken_passes h hp, lowRelease_waits (.inl (by simp))]
    · have ha' : accAt { s with tokens := dropNth s.tokens i } c.id = some a := ha
      rw [exec_resetToken_ends h hp, cutAt_eq ha', lowRelease_waits hkeep]
      refine ⟨_, _, rfl, rfl, accAt_updAcc (fun _ => rfl) ha', cutElems_length .., fun j e he hj => ?_⟩
      have hjl : j < a.elems.length := by
        rw [← cutElems_length (fun e => { e with cut := true }) c.elems]
        exact (List.getElem?_eq_some_iff.mp he).1
      rw [cutElems_getElem (List.getElem?_eq_getElem hjl) hj he]
  · have hkeep : dropNth s.aborts i ≠ [] ∨ s.tokens ≠ [] := hn.imp_left (dropNth_ne_nil i)
    refine ⟨fun r l hp => ?_, fun hp => ?_⟩
    · rw [exec_abortFlit_passes h hp, lowRelease_waits (.inr (by simp))]
    · cases ha : accAt s c.id with
      | none =>
        have he : abortAt { s with aborts := dropNth s.aborts i } c = cutChunk { s with aborts := dropNth s.aborts i } c.id := by
          rw [abortAt, show accAt { s with aborts := dropNth s.aborts i } c.id = none from ha]
        have hd := cutChunk_device { s with aborts := dropNth s.aborts i } c.id
        rw [exec_abortFlit_ends h hp, he, lowRelease_waits (by rw [tokens_of_device hd, aborts_of_device hd]; exact hkeep.symm)]
        refine ⟨_, rfl, (cutChunk_memory ..).1, aborts_of_device hd, fun a ha _ => ?_, fun a b h => nomatch h⟩
        rw [cutChunk_inflight]
        exact ha
      | some a =>
        have ha' : accAt { s with aborts := dropNth s.aborts i } c.id = some a := ha
        rw [exec_abortFlit_ends h hp, abortAt_eq ha', lowRelease_waits hkeep.symm]
        refine ⟨_, rfl, rfl, rfl, fun b hb hne => ?_, fun a' b h1 h2 j e f he hf hj hd => ?_⟩
        · exact List.mem_map.mpr ⟨b, hb, if_neg hne⟩
        · obtain rfl := Option.some.inj h1
          obtain rfl := Option.some.inj (h2.symm.trans (accAt_updAcc (fun _ => rfl) ha'))
          rw [cutElems_getElem he hj hf, hd]
          cases hs : e.sent <;> simp

end Sys2Proof.Machine

namespace Sys2Proof.Machine

/-! What falls through to a pier. -/

theorem resOf_setRes (s : State) (tid : Nat) (r : ResEntry) : resOf (setRes s tid r) tid = r :=
  getD_setD_self (⟨0, 0, 0, 0⟩ : ResEntry) r tid s.residency

theorem SameDeck.attached_eq {s t : State} (h : SameDeck s t) : attached s = attached t := by
  have hr : reachAgent s = reachAgent t := by
    funext x a
    rw [reachAgent, reachAgent, h.routeToAgent_eq, h.exitTile_eq, h.route_eq]
  funext x
  rw [attached, attached, hr]

theorem SameDeck.homeExcluded_eq {s t : State} (h : SameDeck s t) : homeExcluded s = homeExcluded t := by
  have hst : stageOf s = stageOf t := by
    rw [stageOf_eq_msField, stageOf_eq_msField, msField, msField, h.msRaw_eq]
  funext x
  simp only [homeExcluded, stageOut, homeCapable, hst, h.classOf_eq, h.attached_eq]

theorem SameDeck.homeNow_eq {s t : State} (h : SameDeck s t) (hg : s.graphs = t.graphs) : homeNow s = homeNow t := by
  funext n
  unfold homeNow homeOf graphAt
  rw [h.homeExcluded_eq, hg]

theorem homeNow_takeMsg (s : State) (i : Nat) (n : Name) : homeNow (takeMsg s i) n = homeNow s n := by
  have h : SameDeck (takeMsg s i) s := ⟨rfl, rfl, rfl, rfl⟩
  rw [h.homeNow_eq rfl]

section Subscription

variable {s : State} {i a : Nat} {q : Sub} {n : Name} (h : s.net[i]? = some (.pierSub q n a))
include h

theorem exec_pierSubscriptionArrival_waits (ht : toPier s n a = false) : exec (.pierSubscriptionArrival i) s = .next s := by
  have hx : exec (.pierSubscriptionArrival i) s = execPierSubscriptionArrival i s := rfl
  rw [hx, execPierSubscriptionArrival, h]
  exact congrArg Host.Outcome.next (if_pos (by rw [ht]; rfl))

theorem exec_pierSubscriptionArrival {tn : Tensor} (hn : homeNow s n ≠ none) (ht : toPier s n a = true)
    (hg : (graphAt s (nameCtx n)).bind (fun g => pierTensor g (nameTid n)) = some tn) :
    exec (.pierSubscriptionArrival i) s = .next (if (resOf s tn.tid).st = 2 ∨ (resOf s tn.tid).st = 3 then
      { setRes (takeMsg s i) tn.tid { resOf s tn.tid with refc := (resOf s tn.tid).refc + 1 } with
        net := (takeMsg s i).net ++ [.pierRead n a (resOf s tn.tid).bbase true] }
    else { takeMsg s i with net := (takeMsg s i).net ++ [.pierRead n a tn.base false] }) := by
  have hx : exec (.pierSubscriptionArrival i) s = execPierSubscriptionArrival i s := rfl
  have hg' : (graphAt (takeMsg s i) (nameCtx n)).bind (fun g => pierTensor g (nameTid n)) = some tn := hg
  have hr : resOf (takeMsg s i) tn.tid = resOf s tn.tid := rfl
  have hs : (homeNow (takeMsg s i) n).isNone = false := by
    rw [homeNow_takeMsg]
    exact Option.isNone_eq_false_iff.mpr (Option.isSome_iff_ne_none.mpr hn)
  rw [hx, execPierSubscriptionArrival, h]
  simp only [ht, hs, hg', hr, Bool.not_true, Bool.false_eq_true, if_false]
  simp only [Bool.or_eq_true, decide_eq_true_eq]

end Subscription

/-! What a pier reads. -/

theorem sendPub_net (s : State) (p : Pub) (t u : Nat) (l : List Nat) (scp : Nat) {g : Graph} (hg : graphAt s (nameCtx p.name) = some g) :
    (sendPub s p t u l scp).net = s.net ++ [.pub p t u l scp g.stage] := by
  have hs : ((graphAt (markExit s p.name) (nameCtx p.name)).map (fun g => g.stage)).getD 0 = g.stage := by
    unfold markExit updGraph
    split_ifs with h
    · rw [hg]
      rfl
    · rw [hg]
      dsimp only
      rw [graphAt, find_put, if_pos rfl]
      dsimp only [Option.map_some, Option.getD_some]
      split_ifs <;> rfl
  have hn : (markExit s p.name).net = s.net := by
    unfold markExit updGraph
    split_ifs
    · rfl
    · rw [hg]
  unfold sendPub
  dsimp only
  rw [hs, hn]

/-- One element that a pier reads of a tile. -/
def tileStep (s : State) (base w : Nat) (bonded : Bool) (r : State × List Byte × List Bool) (o : Nat) : State × List Byte × List Bool :=
  let a := base + o
  let q := readRange r.1 a w (stackFailed s a || (bonded && siteLost s a .bonded))
  (q.1, r.2.1 ++ q.2.1, r.2.2 ++ q.2.2)

theorem tileRead_eq (s : State) (tn : Tensor) (coords base : Nat) (bonded : Bool) :
    tileRead s tn coords base bonded = (tileElems tn coords).foldl (tileStep s base (fmtBytes tn.fmt) bonded) (s, [], []) := by
  rw [tileRead]
  unfold tileStep
  dsimp only

/-- Reading changes what is known of errors, and draws free values. -/
def SameButRead (s t : State) : Prop :=
  t = { s with poison := t.poison, struck := t.struck, errs := t.errs, lowerQ := t.lowerQ, free := t.free }

theorem SameButRead.trans {s t u : State} (h : SameButRead s t) (h' : SameButRead t u) : SameButRead s u := by
  unfold SameButRead at *
  rw [h', h]

theorem readRange_sameButRead (s : State) (pa n : Nat) (lost : Bool) : SameButRead s (readRange s pa n lost).1 := by
  unfold readRange
  cases lost with
  | true =>
    obtain ⟨f, hf⟩ := freeWord_frame n s
    rw [if_pos rfl]
    dsimp only
    rw [hf]
    rfl
  | false =>
    have h : SameButErrors s (discover s pa n) := discover_sameButErrors s pa n
    rw [if_neg Bool.false_ne_true]
    dsimp only
    rw [h]
    rfl

theorem tileRead_sameButRead (s : State) (tn : Tensor) (coords base : Nat) (bonded : Bool) :
    SameButRead s (tileRead s tn coords base bonded).1 := by
  have hfold (l : List Nat) (r : State × List Byte × List Bool) :
      SameButRead r.1 (l.foldl (tileStep s base (fmtBytes tn.fmt) bonded) r).1 := by
    induction l generalizing r with
    | nil => exact rfl
    | cons o l ih => exact (readRange_sameButRead ..).trans (ih _)
  exact hfold _ _

section Read

variable {s : State} {base w : Nat} {l : List Nat} (hl : ∀ o ∈ l, stackFailed s (base + o) = false)
include hl

theorem tileStep_found {r : State × List Byte × List Bool} {o : Nat} (ho : o ∈ l) :
    tileStep s base w false r o = (discover r.1 (base + o) w, r.2.1 ++ readBytes (discover r.1 (base + o) w) (base + o) w,
      r.2.2 ++ (upTo w).map (fun i => linePoison (discover r.1 (base + o) w) (base + o + i))) := by
  unfold tileStep
  dsimp only
  rw [hl o ho]
  rfl

theorem tileStep_keeps {r : State × List Byte × List Bool} {o : Nat} (hmem : r.1.mem = s.mem)
    (hb : ∀ pa, lineBad r.1 pa = lineBad s pa) (ho : o ∈ l) :
    (tileStep s base w false r o).1.mem = s.mem ∧
      ∀ pa, lineBad (tileStep s base w false r o).1 pa = lineBad s pa := by
  rw [tileStep_found hl ho]
  refine ⟨?_, fun pa => ?_⟩
  · rw [discover_sameButErrors]
    exact hmem
  · exact (lineBad_discover ..).trans (hb pa)

theorem tileFold_data (l' : List Nat) (hsub : ∀ o ∈ l', o ∈ l) {r : State × List Byte × List Bool} 
    (hmem : r.1.mem = s.mem) (hb : ∀ pa, lineBad r.1 pa = lineBad s pa) :
    (l'.foldl (tileStep s base w false) r).2.1 = r.2.1 ++ l'.flatMap (fun o => readBytes s (base + o) w) := by
  induction l' generalizing r with
  | nil => exact (List.append_nil _).symm
  | cons o l' ih =>
    have ho := hsub o List.mem_cons_self
    obtain ⟨h2, h3⟩ := tileStep_keeps (w := w) hl hmem hb ho
    rw [List.foldl_cons, ih (fun o h => hsub o (List.mem_cons_of_mem _ h)) h2 h3, List.flatMap_cons, ← List.append_assoc]
    congr 1
    have hd : (discover r.1 (base + o) w).mem = s.mem := by
      rw [discover_sameButErrors]
      exact hmem
    rw [tileStep_found hl ho]
    exact congrArg _ (readBytes_of_mem hd _ _)

theorem tileFold_clean (l' : List Nat) (hsub : ∀ o ∈ l', o ∈ l) (hclean : ∀ o ∈ l', rangeBad s (base + o) w = false)
    {r : State × List Byte × List Bool} (hmem : r.1.mem = s.mem) (hb : ∀ pa, lineBad r.1 pa = lineBad s pa)
    (hr : ∀ x ∈ r.2.2, x = false) : ∀ x ∈ (l'.foldl (tileStep s base w false) r).2.2, x = false := by
  induction l' generalizing r with
  | nil => exact hr
  | cons o l' ih =>
    have ho := hsub o List.mem_cons_self
    obtain ⟨h2, h3⟩ := tileStep_keeps (w := w) hl hmem hb ho
    refine ih (fun o h => hsub o (List.mem_cons_of_mem _ h)) (fun o h => hclean o (List.mem_cons_of_mem _ h)) h2 h3 ?_
    rw [tileStep_found hl ho]
    intro x hx
    rcases List.mem_append.mp hx with hx | hx
    · exact hr x hx
    · obtain ⟨i, hi, rfl⟩ := List.mem_map.mp hx
      have hbad : lineBad r.1 (base + o + i) = false := by
        rw [hb]
        exact Bool.eq_false_iff.mpr (List.any_eq_false.mp (hclean o List.mem_cons_self) i (List.mem_range.mpr (mem_upTo.mp hi)))
      rw [← lineBad_discover r.1 (base + o) w, lineBad, Bool.or_eq_false_iff] at hbad
      exact hbad.1

end Read

theorem mapOf_clean {bad : List Bool} (h : ∀ x ∈ bad, x = false) : mapOf bad = 0 := by
  have hf (l : List Nat) : l.foldl (fun (m : Word) i =>
      if ((bad.drop (256 * i)).take 256).any (fun b => b) then m ||| (1#64 <<< i) else m) 0 = 0 := by
    induction l with
    | nil => rfl
    | cons i l ih =>
      have ha : ((bad.drop (256 * i)).take 256).any (fun b => b) = false :=
        List.any_eq_false.mpr fun x hx => by
          rw [h x (List.mem_of_mem_drop (List.mem_of_mem_take hx))]
          exact Bool.false_ne_true
      rw [List.foldl_cons, if_neg (Bool.eq_false_iff.mp ha), ih]
  exact hf _

section PierRead

variable {s : State} {i a base : Nat} {n : Name} {g : Graph} {tn : Tensor}

theorem exec_pierTileReadDone_hbm (h : s.net[i]? = some (.pierRead n a base false)) (hg : graphAt s (nameCtx n) = some g)
    (ht : pierTensor g (nameTid n) = some tn) (hr : stackReady s base = true) :
    let r := tileRead (takeMsg s i) tn (nameCoords n) base false
    exec (.pierTileReadDone i) s = .next (sendPub r.1 (pierPub g tn n r.2.1 r.2.2) (pierNode a) r.1.nextUid [] 0) := by
  have hx : exec (.pierTileReadDone i) s = execPierTileReadDone i s := rfl
  intro r
  rw [hx, execPierTileReadDone, h]
  simp only [hg, ht, hr]
  rfl

theorem exec_pierTileReadDone_bonded (h : s.net[i]? = some (.pierRead n a base true)) (hg : graphAt s (nameCtx n) = some g)
    (ht : pierTensor g (nameTid n) = some tn) :
    let pas := (tileElems tn (nameCoords n)).map (fun o => base + o)
    let r := tileRead (takeMsg s i) tn (nameCoords n) base true
    let t := setRes r.1 tn.tid { resOf r.1 tn.tid with refc := (resOf r.1 tn.tid).refc - 1 }
    (pierReaches s a pas = false → exec (.pierTileReadDone i) s = .next s) ∧
    (pierReaches s a pas = true →
      exec (.pierTileReadDone i) s = .next (sendPub t (pierPub g tn n r.2.1 r.2.2) (pierNode a) t.nextUid [] 0)) := by
  have hx : exec (.pierTileReadDone i) s = execPierTileReadDone i s := rfl
  intro pas r t
  rw [hx, execPierTileReadDone, h]
  simp only [hg, ht]
  refine ⟨fun hp => ?_, fun hp => ?_⟩
  · refine congrArg Host.Outcome.next ((if_neg (by simp)).trans (if_pos ?_))
    rw [hp]
    rfl
  · refine congrArg Host.Outcome.next ((if_neg (by simp)).trans (if_neg ?_))
    rw [hp]
    simp

end PierRead

end Sys2Proof.Machine

namespace Sys2Proof.Machine

/-! A fill copies the pages of its tensor. -/

theorem readRange_found (s : State) (pa n : Nat) : ∃ bad, readRange s pa n false = (discover s pa n, readBytes s pa n, bad) := by
  rw [← readBytes_of_mem (discover_mem s pa n)]
  exact ⟨_, rfl⟩

theorem writeRange_device (s : State) (pa : Nat) (data : List Byte) (bad : List Bool) : device (writeRange s pa data bad) = device s := by
  unfold writeRange
  rw [foldl_device (f := fun s i => setLinePoison s (pa + i) true) (fun _ _ => rfl), writeClean_device]

/-- A page of a fill. -/
def pageStep (src dst n : Nat) (s : State) : State :=
  let r := readRange s (src + 8192 * n) 8192 (stackFailed s (src + 8192 * n))
  writeRange r.1 (dst + 8192 * n) r.2.1 r.2.2

theorem copyPages_step (s : State) (src dst n : Nat) : copyPages s src dst (n + 1) = pageStep src dst n (copyPages s src dst n) := by
  delta copyPages
  rfl

/-- A page of a fill, where its frame is not lost. -/
theorem copyPages_succ {s : State} {src dst n : Nat} {u : State} (hu : copyPages s src dst n = u)
    (hl : stackFailed u (src + 8192 * n) = false) : ∃ bad, copyPages s src dst (n + 1) =
      writeRange (discover u (src + 8192 * n) 8192) (dst + 8192 * n) (readBytes u (src + 8192 * n) 8192) bad := by
  obtain ⟨bad, hr⟩ := readRange_found u (src + 8192 * n) 8192
  refine ⟨bad, ?_⟩
  rw [copyPages_step, hu, pageStep, hl, hr]

theorem copyPages_ms {s : State} {src dst : Nat} (n : Nat) (hl : ∀ i, i < n → stackFailed s (src + 8192 * i) = false) (k : Nat)
    (hk : k ≠ 0x818) : msRaw (copyPages s src dst n) k = msRaw s k := by
  induction n generalizing k with
  | zero => rfl
  | succ n ih =>
    have ih := ih (fun i hi => hl i (Nat.lt_succ_of_lt hi))
    obtain ⟨bad, hb⟩ := copyPages_succ (s := s) (dst := dst) rfl (by
      rw [stackFailed, ih 0x801 (by decide), ← stackFailed]
      exact hl n (Nat.lt_succ_self n))
    rw [hb, msRaw_of_device (writeRange_device ..) hk, ← ih k hk, discover_sameButErrors (copyPages s src dst n)]
    rfl

/-- What the pages of a fill hold after it, their sources all below their places. -/
theorem copyPages_readByte {s : State} {src dst : Nat} (n : Nat) (hl : ∀ i, i < n → stackFailed s (src + 8192 * i) = false)
    (hb : src + 8192 * n ≤ dst) :
    (∀ i, i < 8192 * n → readByte (copyPages s src dst n) (dst + i) = readByte s (src + i)) ∧
      ∀ pa, pa < dst ∨ dst + 8192 * n ≤ pa → readByte (copyPages s src dst n) pa = readByte s pa := by
  induction n with
  | zero => exact ⟨fun i hi => absurd hi (by omega), fun pa _ => rfl⟩
  | succ n ih =>
    have hl' : ∀ i, i < n → stackFailed s (src + 8192 * i) = false := fun i hi => hl i (Nat.lt_succ_of_lt hi)
    obtain ⟨hin, hout⟩ := ih hl' (by omega)
    obtain ⟨bad, hc⟩ := copyPages_succ (s := s) (dst := dst) rfl (by
      rw [stackFailed, copyPages_ms n hl' 0x801 (by decide), ← stackFailed]
      exact hl n (Nat.lt_succ_self n))
    generalize copyPages s src dst n = u at hin hout hc
    rw [hc]
    have hlen : (readBytes u (src + 8192 * n) 8192).length = 8192 := by
      rw [readBytes_eq, List.length_map, List.length_range]
    have hd (pa : Nat) : readByte (discover u (src + 8192 * n) 8192) pa = readByte u pa := by
      rw [discover_sameButErrors u]
      rfl
    have hw (pa : Nat) : readByte (writeRange (discover u (src + 8192 * n) 8192) (dst + 8192 * n)
        (readBytes u (src + 8192 * n) 8192) bad) pa =
        readByte (writeClean (discover u (src + 8192 * n) 8192) (dst + 8192 * n) (readBytes u (src + 8192 * n) 8192)) pa := by
      rw [readByte, writeRange_mem]
      rfl
    have hside {pa : Nat} (h : pa < dst + 8192 * n ∨ dst + 8192 * n + 8192 ≤ pa) :
        readByte (writeRange (discover u (src + 8192 * n) 8192) (dst + 8192 * n) (readBytes u (src + 8192 * n) 8192) bad) pa =
          readByte u pa := by
      rw [hw, readByte_writeClean_outside _ _ _ _ (by rw [hlen]; exact h), hd]
    refine ⟨fun i hi => ?_, fun pa h => ?_⟩
    · by_cases h : i < 8192 * n
      · rw [hside (by omega), hin i h]
      · obtain ⟨j, rfl⟩ := Nat.exists_eq_add_of_le (Nat.not_lt.mp h)
        rw [← Nat.add_assoc, hw, readByte_writeClean_inside _ _ _ j (by rw [hlen]; omega)]
        simp only [readBytes_eq, List.getElem_map, List.getElem_range]
        rw [hout _ (by omega), Nat.add_assoc]
    · rw [hside (by omega), hout pa (by omega)]

/-! The end of a residency request (Table 16.7). -/

theorem resOf_resEnd (s : State) (v tid : Nat) : resOf (resEnd s v) tid = resOf s tid := by
  rw [resOf, resEnd, msPut_residency]
  rfl

theorem msRaw_resEnd (s : State) (v : Nat) : msRaw (resEnd s v) 0x816 = BitVec.ofNat 64 (4 * v + 2) := by
  rw [resEnd, msRaw_msPut, if_pos rfl, Nat.mul_comm]

section Request

variable {s : State} {tn : Tensor} {op st : Nat} {k : Nat → ResEntry → State} (hp : msField s 0x816 0 1 = 1)
  (ht : registered s (resTid s) = some tn) (ho : resOp s = op)
include hp ht ho

theorem resRequest_wrongState (hst : (resOf s (resTid s)).st ≠ st) : resRequest s op st k = resEnd s 1 := by
  unfold resRequest
  dsimp only
  rw [hp, ho, ht]
  simp [hst]

theorem resRequest_goes (hst : (resOf s (resTid s)).st = st) : resRequest s op st k = k (resTid s) (resOf s (resTid s)) := by
  unfold resRequest
  dsimp only
  rw [hp, ho, ht]
  simp [hst]

end Request

end Sys2Proof.Machine

namespace Sys2Proof.Machine

/-! The steps of the piers, for `Obligations.PierSteps`. -/

theorem pierSubscription_arrives {s : State} {i a : Nat} {q : Sub} {n : Name} {tn : Tensor}
    (h : s.net[i]? = some (.pierSub q n a)) (hn : homeNow s n ≠ none) (ht : toPier s n a = true)
    (hg : (graphAt s (nameCtx n)).bind (fun g => pierTensor g (nameTid n)) = some tn) :
    let r := resOf s tn.tid
    ((r.st = 2 ∨ r.st = 3) → ∃ t, exec (.pierSubscriptionArrival i) s = .next t ∧ resOf t tn.tid = { r with refc := r.refc + 1 } ∧
      t.net = (takeMsg s i).net ++ [.pierRead n a r.bbase true]) ∧
    (r.st ≠ 2 → r.st ≠ 3 → ∃ t, exec (.pierSubscriptionArrival i) s = .next t ∧ t.residency = s.residency ∧
      t.net = (takeMsg s i).net ++ [.pierRead n a tn.base false]) := by
  have hx := exec_pierSubscriptionArrival h hn ht hg
  refine ⟨fun hst => ?_, fun h2 h3 => ?_⟩
  · exact ⟨_, hx.trans (congrArg _ (if_pos hst)), resOf_setRes .., rfl⟩
  · exact ⟨_, hx.trans (congrArg _ (if_neg (not_or.mpr ⟨h2, h3⟩))), rfl, rfl⟩

theorem pierTile_fromHbm {s : State} {i a base : Nat} {n : Name} {g : Graph} {tn : Tensor}
    (h : s.net[i]? = some (.pierRead n a base false)) (hg : graphAt s (nameCtx n) = some g)
    (ht : pierTensor g (nameTid n) = some tn) (hr : stackReady s base = true)
    (hl : ∀ o ∈ tileElems tn (nameCoords n), stackFailed s (base + o) = false) :
    ∃ t p, exec (.pierTileReadDone i) s = .next t ∧ t.mem = s.mem ∧
      t.net = (takeMsg s i).net ++ [.pub p (pierNode a) s.nextUid [] 0 g.stage] ∧
      p.name = n ∧ p.fmt = tn.fmt ∧ p.wp = whollyBad p.data.length p.pmap ∧
      ((∀ o ∈ tileElems tn (nameCoords n), rangeBad s (base + o) (fmtBytes tn.fmt) = false) → p.pmap = 0) ∧
      p.data = (tileElems tn (nameCoords n)).flatMap (fun o => readBytes s (base + o) (fmtBytes tn.fmt)) := by
  have hx := exec_pierTileReadDone_hbm h hg ht hr
  have hu := tileRead_sameButRead (takeMsg s i) tn (nameCoords n) base false
  have hd : SameDeck (takeMsg s i) s := ⟨rfl, rfl, rfl, rfl⟩
  have hl' : ∀ o ∈ tileElems tn (nameCoords n), stackFailed (takeMsg s i) (base + o) = false := by
    rw [hd.stackFailed_eq]
    exact hl
  have hdata : (tileRead (takeMsg s i) tn (nameCoords n) base false).2.1 =
      (tileElems tn (nameCoords n)).flatMap (fun o => readBytes (takeMsg s i) (base + o) (fmtBytes tn.fmt)) := by
    rw [tileRead_eq]
    exact tileFold_data hl' _ (fun _ h => h) rfl (fun _ => rfl)
  have hbad (hclean : ∀ o ∈ tileElems tn (nameCoords n), rangeBad (takeMsg s i) (base + o) (fmtBytes tn.fmt) = false) :
      ∀ x ∈ (tileRead (takeMsg s i) tn (nameCoords n) base false).2.2, x = false := by
    rw [tileRead_eq]
    exact tileFold_clean hl' _ (fun _ h => h) hclean rfl (fun _ => rfl) (fun x hx => absurd hx List.not_mem_nil)
  have hbytes (pa k : Nat) : readBytes (takeMsg s i) pa k = readBytes s pa k := readBytes_of_mem (s := s) (t := takeMsg s i) rfl pa k
  generalize tileRead (takeMsg s i) tn (nameCoords n) base false = r at hx hu hdata hbad
  obtain ⟨u, data, bad⟩ := r
  dsimp only at hx hu hdata hbad
  have hgu : graphAt u (nameCtx n) = some g := by
    rw [hu]
    exact hg
  have hun : u.nextUid = s.nextUid := by rw [hu]; rfl
  have hnet : u.net = (takeMsg s i).net := by rw [hu]
  have hmem : u.mem = s.mem := by rw [hu]; rfl
  refine ⟨_, pierPub g tn n data bad, hx, ?_, ?_, rfl, rfl, rfl, fun hc => mapOf_clean (hbad hc), ?_⟩
  · obtain ⟨gs, st, hf⟩ := sendPub_frame u (pierPub g tn n data bad) (pierNode a) u.nextUid [] 0
    rw [hf]
    exact hmem
  · rw [sendPub_net u (pierPub g tn n data bad) (pierNode a) u.nextUid [] 0 hgu, hnet, hun]
  · simp only [hbytes] at hdata
    exact hdata

theorem pierTile_fromBonded {s : State} {i a base : Nat} {n : Name} {g : Graph} {tn : Tensor}
    (h : s.net[i]? = some (.pierRead n a base true)) (hg : graphAt s (nameCtx n) = some g)
    (ht : pierTensor g (nameTid n) = some tn)
    (hp : pierReaches s a ((tileElems tn (nameCoords n)).map (fun o => base + o)) = true) :
    ∃ t p, exec (.pierTileReadDone i) s = .next t ∧
      t.net = (takeMsg s i).net ++ [.pub p (pierNode a) s.nextUid [] 0 g.stage] ∧ p.name = n ∧ p.fmt = tn.fmt ∧
      resOf t tn.tid = { resOf s tn.tid with refc := (resOf s tn.tid).refc - 1 } := by
  have hx := (exec_pierTileReadDone_bonded h hg ht).2 hp
  have hu := tileRead_sameButRead (takeMsg s i) tn (nameCoords n) base true
  generalize tileRead (takeMsg s i) tn (nameCoords n) base true = r at hx hu
  obtain ⟨u, data, bad⟩ := r
  dsimp only at hx hu
  have hres : resOf u tn.tid = resOf s tn.tid := by rw [hu]; rfl
  have hset := resOf_setRes u tn.tid { resOf u tn.tid with refc := (resOf u tn.tid).refc - 1 }
  have hgu : graphAt (setRes u tn.tid { resOf u tn.tid with refc := (resOf u tn.tid).refc - 1 }) (nameCtx n) = some g := by
    rw [hu]
    exact hg
  have hun : (setRes u tn.tid { resOf u tn.tid with refc := (resOf u tn.tid).refc - 1 }).nextUid = s.nextUid := by rw [hu]; rfl
  have hnet : (setRes u tn.tid { resOf u tn.tid with refc := (resOf u tn.tid).refc - 1 }).net = (takeMsg s i).net := by rw [hu]; rfl
  generalize setRes u tn.tid { resOf u tn.tid with refc := (resOf u tn.tid).refc - 1 } = v at *
  refine ⟨_, pierPub g tn n data bad, hx, ?_, rfl, rfl, ?_⟩
  · rw [sendPub_net v (pierPub g tn n data bad) (pierNode a) v.nextUid [] 0 hgu, hnet, hun]
  · obtain ⟨gs, st, hf⟩ := sendPub_frame v (pierPub g tn n data bad) (pierNode a) v.nextUid [] 0
    rw [hf]
    rw [hres] at hset
    exact hset

theorem pierReaches_one {s : State} {a pa : Nat} (hc : homeCapable s (sliceOf pa) = true) : pierReaches s a [pa] = true ↔
    (deckRoute s (.agent a) (.tile (sliceOf pa))).isSome = true ∧ (deckRoute s (.tile (sliceOf pa)) (.agent a)).isSome = true := by
  rw [pierReaches, List.foldl_cons, List.foldl_nil, insertNat, List.all_cons, List.all_nil, hc, Bool.not_true, Bool.false_or,
    Bool.and_true, Bool.and_eq_true]

section Request

variable {s : State} {tn : Tensor} (hp : msField s 0x816 0 1 = 1) (ht : registered s (resTid s) = some tn)
include hp ht

theorem residencyFill_starts (ho : resOp s = 1) (hst : (resOf s (resTid s)).st = 0)
    (hf : ∀ i, i < resPages s → pageFree s (resBase s + 8192 * i) = true) :
    exec .residencyFill s = .next (resEnd (setRes s (resTid s) ⟨1, 0, resBase s, resPages s⟩) 0) := by
  have ha : (upTo (resPages s)).all (fun i => pageFree s (resBase s + 8192 * i)) = true :=
    List.all_eq_true.mpr fun i hi => hf i (mem_upTo.mp hi)
  exact congrArg Host.Outcome.next ((resRequest_goes hp ht ho hst).trans (if_pos ha))

theorem residencyFill_taken (ho : resOp s = 1) (hst : (resOf s (resTid s)).st = 0)
    (hf : ∃ i, i < resPages s ∧ pageFree s (resBase s + 8192 * i) = false) : exec .residencyFill s = .next (resEnd s 3) := by
  have ha : ¬ (upTo (resPages s)).all (fun i => pageFree s (resBase s + 8192 * i)) = true := by
    obtain ⟨i, hi, h⟩ := hf
    intro ha
    exact Bool.false_ne_true (h.symm.trans (List.all_eq_true.mp ha i (mem_upTo.mpr hi)))
  exact congrArg Host.Outcome.next ((resRequest_goes hp ht ho hst).trans (if_neg ha))

end Request

theorem fillComplete_ends {s : State} {tid : Nat} {tn : Tensor} (h1 : (resOf s tid).st = 1) (ht : registered s tid = some tn)
    (hr : stackReady s tn.base = true)
    (hp : pierReaches s (tn.base / 2 ^ 36) ((upTo (resOf s tid).npg).map (fun i => (resOf s tid).bbase + 8192 * i)) = true) :
    exec (.fillComplete tid) s = .next (setRes (copyPages s tn.base (resOf s tid).bbase (resOf s tid).npg) tid
      { resOf s tid with st := 2 }) := by
  have hx : exec (.fillComplete tid) s = execFillComplete tid s := rfl
  rw [hx, execFillComplete]
  rw [h1, ht]
  exact congrArg Host.Outcome.next ((if_neg (by decide)).trans (if_pos (by rw [hr, hp]; rfl)))

theorem fillComplete_waits {s : State} {tid : Nat} {tn : Tensor} (h1 : (resOf s tid).st = 1) (ht : registered s tid = some tn)
    (hp : pierReaches s (tn.base / 2 ^ 36) ((upTo (resOf s tid).npg).map (fun i => (resOf s tid).bbase + 8192 * i)) = false) :
    exec (.fillComplete tid) s = .next s := by
  have hx : exec (.fillComplete tid) s = execFillComplete tid s := rfl
  rw [hx, execFillComplete]
  rw [h1, ht]
  exact congrArg Host.Outcome.next ((if_neg (by decide)).trans (if_neg (by rw [hp, Bool.and_false]; exact Bool.false_ne_true)))

/-- Settles O53: a tile read from HBM goes element by element, and a fill copies page by page, the sources below their places. -/
theorem pierSteps : Obligations.PierSteps := by
  unfold Obligations.PierSteps
  refine ⟨?_, ?_, ?_, fun s a pa hc => pierReaches_one hc, ?_, ?_⟩
  · intro s i a q n tn h hn
    exact ⟨exec_pierSubscriptionArrival_waits h, fun ht hg => pierSubscription_arrives h hn ht hg⟩
  · intro s i a base n g tn h hg ht hr hl
    exact pierTile_fromHbm h hg ht hr hl
  · intro s i a base n g tn h hg ht
    exact ⟨(exec_pierTileReadDone_bonded h hg ht).1, pierTile_fromBonded h hg ht⟩
  · intro s tn hp ht r ends
    have stays {i : Instr} {v : Nat} (hx : exec i s = .next (resEnd s v)) : ends i r v :=
      ⟨_, hx, resOf_resEnd .., msRaw_resEnd ..⟩
    have becomes {i : Instr} {e : ResEntry} (hx : exec i s = .next (resEnd (setRes s (resTid s) e) 0)) : ends i e 0 :=
      ⟨_, hx, (resOf_resEnd ..).trans (resOf_setRes ..), msRaw_resEnd ..⟩
    refine ⟨fun ho hst hf => becomes (residencyFill_starts hp ht ho hst hf), fun ho hst hf => stays (residencyFill_taken hp ht ho hst hf),
      fun ho hst => becomes ?_, fun ho hst => becomes ?_, fun ho hst => becomes ?_, fun ho hst => stays ?_, fun ho hst => stays ?_,
      fun ho hst => stays ?_, fun ho hst => stays ?_⟩
    · exact congrArg Host.Outcome.next (resRequest_goes hp ht ho hst)
    · exact congrArg Host.Outcome.next (resRequest_goes hp ht ho hst)
    · exact congrArg Host.Outcome.next (resRequest_goes hp ht ho hst)
    · exact congrArg Host.Outcome.next (resRequest_wrongState hp ht ho hst)
    · exact congrArg Host.Outcome.next (resRequest_wrongState hp ht ho hst)
    · exact congrArg Host.Outcome.next (resRequest_wrongState hp ht ho hst)
    · exact congrArg Host.Outcome.next (resRequest_wrongState hp ht ho hst)
  · intro s tid tn r
    refine ⟨fun h1 ht hr hl hb hp => ⟨_, fillComplete_ends h1 ht hr hp, resOf_setRes .., ?_⟩, fun h1 ht hp => fillComplete_waits h1 ht hp,
      fun h4 h0 => ⟨_, congrArg Host.Outcome.next (if_pos ?_), resOf_setRes .., rfl⟩, fun h4 h0 => congrArg Host.Outcome.next (if_neg ?_)⟩
    · exact copyPages_readByte r.npg hl hb
    · exact Bool.and_eq_true_iff.mpr ⟨decide_eq_true h4, decide_eq_true h0⟩
    · exact fun h => h0 (of_decide_eq_true (Bool.and_eq_true_iff.mp h).2)

end Sys2Proof.Machine

namespace Sys2Proof.Machine

/-! What leaves a tile's matching store as it is. -/

theorem store_updCore (s : State) (k t : Nat) {f : Core → Core} (hf : ∀ c, (f c).store = c.store) :
    (coreAt (updCore s k f) t).store = (coreAt s t).store := by
  rw [updCore, coreAt_setCore]
  split_ifs with h
  · rw [hf, h]
  · rfl

theorem updHome_cores (s : State) (n : Name) (f : HomeE → HomeE) : (updHome s n f).cores = s.cores := rfl

theorem consume_cores (s : State) (p : Pub) : (consume s p).cores = s.cores := by
  unfold consume retireDone
  (repeat' split) <;> rfl

theorem store_makeRoom (t n fuel : Nat) (s : State) (k : Nat) : (coreAt (makeRoom t n fuel s) k).store = (coreAt s k).store := by
  induction fuel generalizing s with
  | zero => rfl
  | succ fuel ih =>
    unfold makeRoom
    split
    · rfl
    · split
      · exact (ih _).trans (store_updCore _ _ _ fun _ => rfl)
      · dsimp only
        split
        · rfl
        · rw [ih, coreAt_of_cores (updHome_cores ..)]

theorem askPiers_cores (t : Nat) (s : State) (id : Ident) : (askPiers t s id).cores = s.cores := by
  unfold askPiers
  split <;> rfl

theorem store_fireIdent (t : Nat) (s : State) (id : Ident) (k : Nat) : (coreAt (fireIdent t s id) k).store = (coreAt s k).store := by
  unfold fireIdent
  split
  · rfl
  · dsimp only
    split
    · refine (store_updCore _ _ _ ?_).trans (congrArg Core.store (coreAt_of_cores (updGraph_cores ..) k))
      exact fun _ => rfl
    · rfl

theorem store_makeResident (s : State) (t j : Nat) (e : Ident × Word) (k : Nat) :
    (coreAt (makeResident s t j e) k).store = (coreAt s k).store := by
  unfold makeResident
  dsimp only
  split
  · rfl
  · split
    · exact store_updCore _ _ _ fun _ => rfl
    · refine (store_updCore _ _ _ fun c => ?_).trans ?_
      · split_ifs <;> rfl
      · split_ifs <;> rfl

theorem store_fill (s : State) (t k : Nat) : (coreAt (fill s t) k).store = (coreAt s k).store := by
  have hf (n : Nat) (s : State) : (coreAt (fillSlots t n s) k).store = (coreAt s k).store := by
    induction n generalizing s with
    | zero => rfl
    | succ n ih =>
      unfold fillSlots
      split
      · rfl
      · split
        · rfl
        · dsimp only
          split
          · rfl
          · rw [ih, store_makeResident, store_updCore _ _ _ fun c => by split_ifs <;> rfl]
  unfold fill
  split
  · rfl
  · exact hf 14 s

theorem store_fireReady (s : State) (t k : Nat) : (coreAt (fireReady s t) k).store = (coreAt s k).store := by
  rw [fireReady, store_fill]
  exact foldl_keeps (fun s => (coreAt s k).store) _ (fun s id => store_fireIdent t s id k) _ _

/-- Entries that come to a tile stand behind those that it holds. -/
theorem store_enter (s : State) (t : Nat) (p : Pub) (l : List MEntry) : (coreAt (enter s t p l) t).store = (coreAt s t).store ++ l := by
  unfold enter
  extract_lets c fresh tag s1 s2 s3
  have h1 : (coreAt s1 t).store = (coreAt s t).store := by
    show (coreAt (if _ then s else _) t).store = _
    split
    · rfl
    · exact store_makeRoom ..
  have h2 : (coreAt s2 t).store = (coreAt s t).store ++ l := by
    rw [← h1]
    show (coreAt (updCore s1 t _) t).store = _
    rw [coreAt_updCore]
  have h3 : s3.cores = s2.cores := foldl_keeps State.cores _ (fun s m => consume_cores s m.pub) l s2
  rw [store_fireReady, ← h2, ← coreAt_of_cores h3]
  exact foldl_keeps (fun s => (coreAt s t).store) _ (fun s id => by rw [coreAt_of_cores (askPiers_cores t s id)]) _ _

end Sys2Proof.Machine

namespace Sys2Proof.Machine

/-! The steps of a delivery and of an instance's inputs, for `Obligations.DeliverySteps`. -/

section Template

variable {s : State} {i t u : Nat} {p : Pub} (h : s.net[i]? = some (.deliver p t .template u)) (hd : delivered s p t u = true)
include h hd

theorem publicationDelivery_tileScopeWaits (hl : newEntries s t p ≠ []) (ha : accepts s t p (newEntries s t p).length = false)
    (hp : p.scope = 0) : exec (.publicationDelivery i) s = .next s := by
  have hx : exec (.publicationDelivery i) s = execPublicationDelivery i s := rfl
  rw [hx, execPublicationDelivery, h]
  simp only [hd, ha, hp]
  simp [hl]

theorem publicationDelivery_defers (hl : newEntries s t p ≠ []) (ha : accepts s t p (newEntries s t p).length = false)
    (hp : p.scope ≠ 0) : exec (.publicationDelivery i) s = .next { updCore (takeMsg s i) t (fun c => { c with deferring := true }) with
      net := (takeMsg s i).net ++ [.defer p.name t] } := by
  have hx : exec (.publicationDelivery i) s = execPublicationDelivery i s := rfl
  rw [hx, execPublicationDelivery, h]
  simp only [hd, ha, hp]
  simp [hl, updCore, setCore]

theorem publicationDelivery_enters (ha : newEntries s t p = [] ∨ accepts s t p (newEntries s t p).length = true) :
    exec (.publicationDelivery i) s = .next (enter (updCore (takeMsg s i) t (fun c => { c with anys := noteAny s t p })) t p
      (newEntries s t p)) := by
  have hx : exec (.publicationDelivery i) s = execPublicationDelivery i s := rfl
  have hc : (!(newEntries s t p).isEmpty && !accepts s t p (newEntries s t p).length) = false := by
    rcases ha with ha | ha <;> simp [ha]
  rw [hx, execPublicationDelivery, h]
  simp only [hd, hc]
  rfl

end Template

theorem publicationDelivery_stays {s : State} {i t r : Nat} {p : Pub} {o : SubOf} (h : s.net[i]? = some (.deliver p t o r))
    (hd : delivered s p t r = false) : exec (.publicationDelivery i) s = .next s := by
  have hx : exec (.publicationDelivery i) s = execPublicationDelivery i s := rfl
  rw [hx, execPublicationDelivery, h]
  cases o with
  | template => exact congrArg Host.Outcome.next (if_pos (by rw [hd]; rfl))
  | thread u n => rfl
  | command u e n => rfl

theorem dynamicDelivery_stays {s : State} {i t r : Nat} {p : Pub} {o : SubOf} (h : s.net[i]? = some (.deliver p t o r))
    (hd : delivered s p t r = false) : exec (.dynamicDelivery i) s = .next s := by
  have hx : exec (.dynamicDelivery i) s = execDynamicDelivery i s := rfl
  rw [hx, execDynamicDelivery, h]
  cases o with
  | template => rfl
  | thread u n => exact congrArg Host.Outcome.next (if_pos (by rw [hd]; rfl))
  | command u e n => exact congrArg Host.Outcome.next (if_pos (by rw [hd]; rfl))

theorem dynamicDelivery_toThread {s : State} {i t u n r k : Nat} {p : Pub} (h : s.net[i]? = some (.deliver p t (.thread u n) r))
    (hd : delivered s p t r = true) (hk : keyOfUid s u = some k) (ht : tileOf k = t) :
    exec (.dynamicDelivery i) s = .next (consume (leaveHome (updThread (takeMsg s i) k (fun th => { th with dyn := th.dyn.map (fun d =>
      if d.seq == n && d.got.isNone then { d with got := some p } else d) })) p t (.thread u n)) p) := by
  have hx : exec (.dynamicDelivery i) s = execDynamicDelivery i s := rfl
  have hk' : keyOfUid (takeMsg s i) u = some k := hk
  rw [hx, execDynamicDelivery, h]
  refine congrArg Host.Outcome.next ((if_neg (by rw [hd]; exact Bool.false_ne_true)).trans ?_)
  simp only [hk', ht]
  simp

/-- A command that a delivery is for takes it as its source (R293). -/
def takeSource (p : Pub) (u e n : Nat) (c : Cmd) : Cmd :=
  if c.uid == u && c.eng == e && c.seq == n && c.src.isNone then { c with src := some p } else c

theorem takeSource_takes {p : Pub} {u e n : Nat} {c : Cmd} (h : c.uid = u ∧ c.eng = e ∧ c.seq = n ∧ c.src = none) :
    takeSource p u e n c = { c with src := some p } := by
  obtain ⟨hu, he, hn, hs⟩ := h
  exact if_pos (by rw [hu, he, hn, hs]; simp)

theorem takeSource_keeps {p : Pub} {u e n : Nat} {c : Cmd} (h : ¬(c.uid = u ∧ c.eng = e ∧ c.seq = n ∧ c.src = none)) :
    takeSource p u e n c = c := by
  refine if_neg fun hc => h ?_
  simp only [Bool.and_eq_true, beq_iff_eq, Option.isNone_iff_eq_none] at hc
  obtain ⟨⟨⟨hu, he⟩, hn⟩, hs⟩ := hc
  exact ⟨hu, he, hn, hs⟩

theorem takeSource_at {p : Pub} {u e n : Nat} {l : List Cmd} {j : Nat} {c : Cmd} (h : l[j]? = some c) :
    (c.uid = u ∧ c.eng = e ∧ c.seq = n ∧ c.src = none → (l.map (takeSource p u e n))[j]? = some { c with src := some p }) ∧
      (¬(c.uid = u ∧ c.eng = e ∧ c.seq = n ∧ c.src = none) → (l.map (takeSource p u e n))[j]? = some c) := by
  rw [List.getElem?_map, h]
  exact ⟨fun ht => congrArg some (takeSource_takes ht), fun ht => congrArg some (takeSource_keeps ht)⟩

theorem dynamicDelivery_toCommand {s : State} {i t u e n r : Nat} {p : Pub} (h : s.net[i]? = some (.deliver p t (.command u e n) r))
    (hd : delivered s p t r = true) : exec (.dynamicDelivery i) s = .next (consume (leaveHome (updCore (takeMsg s i) t (fun c =>
      { c with eng0 := c.eng0.map (takeSource p u e n), eng1 := c.eng1.map (takeSource p u e n) })) p t (.command u e n)) p) := by
  have hx : exec (.dynamicDelivery i) s = execDynamicDelivery i s := rfl
  rw [hx, execDynamicDelivery, h]
  exact congrArg Host.Outcome.next (if_neg (by rw [hd]; exact Bool.false_ne_true))

/-! An instance whose one input is copied. -/

theorem inputCopyDone_waits {s : State} {k : Nat} {th : Thread} (ht : threadAt s k = some th) (hb : inputsFree s (tileOf k) th = false) :
    exec (.inputCopyDone k) s = .next s := by
  have hx : exec (.inputCopyDone k) s = execInputCopyDone k s := rfl
  rw [hx, execInputCopyDone, ht]
  exact congrArg Host.Outcome.next (if_neg (by rw [hb, Bool.and_false]; exact Bool.false_ne_true))

theorem inputCopyDone_copies {s : State} {k : Nat} {th : Thread} (ht : threadAt s k = some th) (hc : copyPending s k th = true)
    (hb : inputsFree s (tileOf k) th = true) : exec (.inputCopyDone k) s = .next (copyInputs s k th) := by
  have hx : exec (.inputCopyDone k) s = execInputCopyDone k s := rfl
  rw [hx, execInputCopyDone, ht]
  exact congrArg Host.Outcome.next (if_pos (by rw [hc, hb]; rfl))

theorem copyInputs_one {s : State} {k : Nat} {th : Thread} {x : Input} (hi : th.inputs = [x])
    (hl : headerLost s (tileOf k) x.pub.name = false ∨ (pierOf s x.pub.name).isSome = true) (hb : x.bad = false) :
    copyInputs s k th = setThread (updCore (placePub (routerTurn s (tileOf k) (padBase (tileOf k) + x.off) (32 + x.pub.data.length))
      (padBase (tileOf k) + x.off) (readCopy s (tileOf k) x.pub)) (tileOf k) (fun c =>
        { c with copying := c.copying.filter (fun e => e != (identOf th, slotOf k)) })) k { th with status := .ready } := by
  have hlost : lostInputs s (tileOf k) th = [] := by
    unfold lostInputs
    rw [hi]
    rcases hl with hl | hl
    · simp [hl]
    · simp [Option.isSome_iff_ne_none.mp hl]
  have hbad : th.inputs.find? (fun x => x.bad) = none := by
    rw [hi]
    simp [hb]
  unfold copyInputs
  dsimp only
  rw [hlost, hbad, hi]
  rfl

/-- Settles O52: an entry leaves the store of its tile only at its own end, so what a delivery brings stands behind it, and the one
input of an instance is one publication placed in the scratchpad. -/
theorem deliverySteps : Obligations.DeliverySteps := by
  unfold Obligations.DeliverySteps
  refine ⟨?_, ?_, ?_, ?_, ?_, ?_⟩
  · intro s i t u p h hd l
    refine ⟨publicationDelivery_tileScopeWaits h hd, fun hl ha hp => ⟨_, publicationDelivery_defers h hd hl ha hp, rfl, ?_, ?_⟩,
      fun ha => ⟨_, publicationDelivery_enters h hd ha, ?_, ?_⟩⟩
    · exact congrArg Core.deferring (coreAt_updCore (takeMsg s i) t (fun c => { c with deferring := true }))
    · exact store_updCore (takeMsg s i) t t (f := fun c => { c with deferring := true }) fun _ => rfl
    · exact (enter_memory ..).1
    · refine (store_enter ..).trans ?_
      rw [coreAt_updCore]
      rfl
  · intro s i t u n r k p h hd hk ht
    exact dynamicDelivery_toThread h hd hk ht
  · intro s i t u e n r p h hd takes
    have hc := coreAt_updCore (takeMsg s i) t (fun c =>
      { c with eng0 := c.eng0.map (takeSource p u e n), eng1 := c.eng1.map (takeSource p u e n) })
    refine ⟨_, _, _, dynamicDelivery_toCommand h hd, rfl, hc, List.length_map .., List.length_map .., fun k hk => ?_,
      fun j c hj => takeSource_at hj, fun j c hj => takeSource_at hj⟩
    rw [updCore, coreAt_setCore, if_neg hk]
    rfl
  · intro s i t r p o h hd
    exact ⟨publicationDelivery_stays h hd, dynamicDelivery_stays h hd⟩
  · intro s k th ht _ hb
    exact inputCopyDone_waits ht hb
  · intro s k th x ht hc hi hb hl hx _ a p
    have he := copyInputs_one hi hl hx
    have hr (b : Nat) : readByte (copyInputs s k th) b =
        readByte (placePub (routerTurn s (tileOf k) a (32 + x.pub.data.length)) a p) b := by
      rw [he]
      exact readByte_of_mem_eq rfl b
    refine ⟨_, { th with status := .ready }, inputCopyDone_copies ht hc hb, ?_, rfl, rfl, fun i hi => ?_, fun i hi => ?_, fun pa h => ?_⟩
    · rw [he, threadAt_setThread, if_pos rfl]
    · rw [hr, readByte_placePub_header _ _ _ hi]
    · rw [hr, readByte_placePub_data _ _ p hi]
    · rw [hr, readByte_placePub_outside _ _ p h]
      exact readByte_of_mem_eq (routerTurn_memory ..).1 pa

end Sys2Proof.Machine

namespace Sys2Proof.Machine

/-! What leaves the graphs as they are. -/

theorem discover_graphs (s : State) (pa n : Nat) : (discover s pa n).graphs = s.graphs := by
  rw [discover_sameButErrors s pa n]

theorem writeClean_graphs (s : State) (pa : Nat) (l : List Byte) : (writeClean s pa l).graphs = s.graphs := by
  rw [writeClean_sameButLog s pa l]

theorem loseName_graphs (s : State) (n : Name) : (loseName s n).graphs = s.graphs := by
  unfold loseName nameLost
  split_ifs
  · rfl
  · rw [logEvent_sameButLog s]

theorem walkFound_graphs (s : State) (w : Walk) : (walkFound s w).graphs = s.graphs := by
  unfold walkFound
  split
  · exact discover_graphs ..
  all_goals rfl

theorem patchFound_graphs (s : State) (sp : Space) (pat : BitVec 256) : (patchFound s sp pat).graphs = s.graphs := by
  unfold patchFound
  split
  · exact foldl_keeps State.graphs _ (fun _ _ => walkFound_graphs ..) _ _
  · rfl

theorem patchGens_graphs (s : State) (ctx t k : Nat) (g : Graph) (tm : Template) : (patchGens s ctx t k g tm).graphs = s.graphs := by
  unfold patchGens
  exact foldl_keeps State.graphs _ (fun s (e : Nat × BitVec 256) => patchFound_graphs s ⟨t, 0, ctx, g.root, true⟩ e.2) _ _

theorem hostTmpl_graphs (s : State) (t : Nat) (tm : Template) : (hostTmpl s t tm).graphs = s.graphs := by
  unfold hostTmpl writeText
  exact (writeClean_graphs ..).trans (writeClean_graphs ..)

theorem spreadHandlers_graphs (s : State) (g : Graph) (tiles : List Nat) : (spreadHandlers s g tiles).graphs = s.graphs := by
  have hh (s : State) (t : Nat) : (hostHandlers s g t).graphs = s.graphs := by
    unfold hostHandlers
    split
    · rfl
    · refine foldl_keeps State.graphs _ (fun s h => ?_) _ _
      unfold writeText
      exact (writeClean_graphs ..).trans (writeClean_graphs ..)
  exact foldl_keeps State.graphs _ hh _ _

theorem readTile_graphs (s : State) (t : Nat) (f : Name → Bool) : (readTile s t f).graphs = s.graphs := by
  unfold readTile
  dsimp only
  split
  · rfl
  · exact foldl_keeps State.graphs loseName loseName_graphs _ _

theorem tileAnswers_graphs (s : State) (g : Graph) (ctx t : Nat) : (tileAnswers s g ctx t).graphs = s.graphs := by
  unfold tileAnswers
  exact readTile_graphs ..

theorem requestWake_graphs (s : State) (b : Nat) : (requestWake s b).graphs = s.graphs := by
  unfold requestWake
  split <;> rfl

theorem startWakes_graphs (s : State) : (startWakes s).graphs = s.graphs := by
  refine foldl_keeps State.graphs _ (fun s _ => ?_) _ _
  split
  · rfl
  · split <;> rfl

theorem makeResident_graphs (s : State) (t j : Nat) (e : Ident × Word) : (makeResident s t j e).graphs = s.graphs := by
  unfold makeResident
  dsimp only
  split
  · rfl
  · split
    · rfl
    · split_ifs <;> rfl

theorem fill_graphs (s : State) (t : Nat) : (fill s t).graphs = s.graphs := by
  have hf (n : Nat) (s : State) : (fillSlots t n s).graphs = s.graphs := by
    induction n generalizing s with
    | zero => rfl
    | succ n ih =>
      unfold fillSlots
      split
      · rfl
      · split
        · rfl
        · dsimp only
          split
          · rfl
          · exact (ih _).trans (makeResident_graphs ..)
  unfold fill
  split
  · rfl
  · exact hf 14 s

theorem resumeAll_graphs (s : State) : (resumeAll s).graphs = s.graphs :=
  foldl_keeps State.graphs (fun s (e : Nat × Core) => { updCore s e.1 (fun c => { c with deferring := false }) with net := s.net ++ [.resume e.1] })
    (fun _ _ => rfl) _ _

theorem sendPub_graphs (s : State) {p : Pub} (hp : namePlane p.name ≠ 0) (t u : Nat) (l : List Nat) (scp : Nat) :
    (sendPub s p t u l scp).graphs = s.graphs := by
  have hm : markExit s p.name = s := if_pos (by simpa using hp)
  unfold sendPub
  rw [hm]

theorem namePlane_mkName (t c x i : Nat) {p : Nat} (hp : p < 256) : namePlane (mkName t c x i p) = p := by
  rw [namePlane, nameField, mkName, BitVec.toNat_ofNat]
  omega

theorem raiseVector_graphs (s : State) (p v : Nat) : (raiseVector s p v).graphs = s.graphs := by
  unfold raiseVector
  split_ifs <;> rfl

theorem completeLaunch_graphs (s : State) (handle : Nat) (parent : Option Nat) (host : Option (Nat × Nat)) (r : List Byte)
    (g : Option (Nat × Graph)) (res why : Nat) : (completeLaunch s handle parent host r g res why).graphs = s.graphs := by
  have hp (c : Nat) : namePlane (launchName handle c) ≠ 0 := by
    rw [launchName, namePlane_mkName _ _ _ _ (by decide)]
    decide
  unfold completeLaunch
  extract_lets data pub s1 s2
  have h1 : s1.graphs = s.graphs := by
    show State.graphs (match parent with
      | some p => _
      | none => _) = _
    cases parent with
    | none => exact sendPub_graphs s (p := pub _) (hp _) ..
    | some p =>
      dsimp only
      split_ifs
      · exact sendPub_graphs s (p := pub _) (hp _) ..
      · rfl
  rcases host with _ | ⟨port, slot⟩
  · exact h1
  · have h2 : (match find (1024 * port + slot) s1.slots with
        | some l => if l.handle.toNat = handle && l.acc = 0 then
          { s1 with slots := put (1024 * port + slot) { l with ended := true, cpl := data } s1.slots } else s1
        | none => s1).graphs = s1.graphs := by
      split
      · split_ifs <;> rfl
      · rfl
    refine Eq.trans ?_ (h2.trans h1)
    show State.graphs (if _ then raiseVector _ _ _ else _) = _
    split_ifs
    · exact raiseVector_graphs ..
    · rfl

theorem graphAt_endGraph (s : State) (c res why : Nat) : graphAt (endGraph s c res why) c = none := by
  unfold endGraph
  split
  next h => exact h
  next g h =>
    dsimp only
    rw [graphAt, completeLaunch_graphs, resumeAll_graphs]
    exact (find_del ..).trans (if_pos rfl)

theorem clearStage_graphs (s : State) (c : Nat) (g : Graph) : (clearStage s c g).graphs = s.graphs := by
  unfold clearStage
  exact resumeAll_graphs ..

/-! The tasks without inputs fire, and their graph stays as it is but for the fired ones. -/

/-- A graph as a stage loads it, however many of its instances have fired. -/
def Loaded (s : State) (c : Nat) (g : Graph) : Prop := ∃ fired n, graphAt s c = some { g with firedIds := fired, ninst := n }

theorem Loaded.of_graphs {s t : State} {c : Nat} {g : Graph} (h : Loaded s c g) (he : t.graphs = s.graphs) : Loaded t c g := by
  unfold Loaded graphAt at *
  rw [he]
  exact h

theorem Loaded.atCursor {s : State} {c : Nat} {g : Graph} (h : Loaded s c g) (p : Placed) : Loaded (atCursor c s p) c g := by
  obtain ⟨fired, n, hg⟩ := h
  unfold Machine.atCursor
  rw [hg]
  dsimp only
  split
  · refine ⟨fired ++ [⟨c, p.tmpl, p.inst, BitVec.ofNat 24 (c * 65536)⟩], n + 1, ?_⟩
    unfold updGraph
    rw [hg]
    exact (find_put ..).trans (if_pos rfl)
  · exact ⟨fired, n, hg⟩

theorem Loaded.foldl {β : Type} {f : State → β → State} {c : Nat} {g : Graph} (hf : ∀ s b, Loaded s c g → Loaded (f s b) c g) (l : List β)
    {s : State} (h : Loaded s c g) : Loaded (l.foldl f s) c g := by
  induction l generalizing s with
  | nil => exact h
  | cons b l ih => exact ih (hf s b h)

theorem distribute_loaded (s : State) (c : Nat) (g : Graph) (pl : List Placed) :
    Loaded (distribute s c g pl) c { g with placed := pl, running := true, firedIds := [] } := by
  unfold distribute
  extract_lets tiles g1 s1 s2 s3 s4 s5 s6 s7
  have h1 : Loaded s1 c g1 := ⟨g1.firedIds, g1.ninst, (find_put ..).trans (if_pos rfl)⟩
  have h2 : s2.graphs = s1.graphs := foldl_keeps State.graphs _ (fun s (e : Nat × Template) =>
    foldl_keeps State.graphs _ (fun s t => (patchGens_graphs ..).trans (hostTmpl_graphs ..)) _ s) _ s1
  have h4 : s4.graphs = s1.graphs := (spreadHandlers_graphs s2 g1 tiles).trans h2
  have h5 : s5.graphs = s4.graphs := foldl_keeps State.graphs _ (fun s t => tileAnswers_graphs s g1 c t) tiles s4
  have h6 : Loaded s6 c g1 := .foldl (fun s p h => h.atCursor p) pl (h1.of_graphs (h5.trans h4))
  have h7 : s7.graphs = s6.graphs := foldl_keeps State.graphs _ (fun s t => requestWake_graphs ..) tiles s6
  exact h6.of_graphs ((foldl_keeps State.graphs fill fill_graphs tiles _).trans ((startWakes_graphs s7).trans h7))

end Sys2Proof.Machine

namespace Sys2Proof.Machine

/-! The steps of a launch, for `Obligations.LaunchSteps`. -/

theorem filter_slot {k len : Nat} (hk : k < 1024) (hl : len = 64) :
    (upTo 1024).filter (fun j => 64 * k ≤ 64 * j && 64 * j + 64 ≤ 64 * k + len) = [k] := by
  have hf : (fun j => decide (64 * k ≤ 64 * j) && decide (64 * j + 64 ≤ 64 * k + len)) = (fun j => j == k) := by
    funext j
    rw [Bool.eq_iff_iff]
    simp only [Bool.and_eq_true, decide_eq_true_eq, beq_iff_eq]
    omega
  rw [hf, List.filter_beq, List.count_eq_one_of_mem (l := upTo 1024) List.nodup_range (mem_upTo.mpr hk)]
  rfl

section Window

variable {s : State} {p k : Nat} {r : List Byte}

theorem exec_launchWindowWrite (hp : p < 2) (hk : k < 1024) (hr : r.length = 64) (hu : pcieUp s = true) :
    exec (.launchWindowWrite p (64 * k) r) s = .next (hostLaunch s p k r) := by
  have hx : exec (.launchWindowWrite p (64 * k) r) s = execLaunchWindowWrite p (64 * k) r s := rfl
  have hd : (r.drop (64 * k - 64 * k)).take 64 = r := by
    rw [Nat.sub_self, List.drop_zero, List.take_of_length_le (by omega)]
  rw [hx, execLaunchWindowWrite, if_pos (by rw [hu, decide_eq_true hp]; rfl), filter_slot hk hr, List.foldl_cons, List.foldl_nil, hd]

theorem find_setSlot (s : State) (p k : Nat) (l : LaunchSlot) : find (1024 * p + k) (setSlot s p k l).slots = some l :=
  (find_put ..).trans (if_pos rfl)

theorem hostLaunch_malformed (hm : recMalformed r = true) : hostLaunch s p k r = setSlot s p k ⟨true, false, 0, 3, []⟩ := if_pos hm

theorem hostLaunch_full (hm : recMalformed r = false) (hn : poolNext s = none) : hostLaunch s p k r = setSlot s p k ⟨true, false, 0, 1, []⟩ := by
  rw [hostLaunch, if_neg (by rw [hm]; exact Bool.false_ne_true), hn]

theorem hostLaunch_enters {id : Nat} (hm : recMalformed r = false) (hn : poolNext s = some id) (hz : recZero r = false) :
    hostLaunch s p k r = { setSlot s p k ⟨true, false, BitVec.ofNat 32 (poolHandle s id), 0, []⟩ with
      lastId := id, poolSeq := s.poolSeq + 1, pool := put id ⟨r, none, 1, recPrio r, s.poolSeq, some (p, k), some p, 0, false, false⟩ s.pool } := by
  rw [hostLaunch, if_neg (by rw [hm]; exact Bool.false_ne_true), hn]
  exact poolTake_enters _ id hz none 1 (some (p, k)) (some p) 0

end Window

theorem leNat_slotView {l : LaunchSlot} (ha : l.acc < 4) : leNat ((slotView l).take 8) =
    l.acc + l.handle.toNat * 2 ^ 16 + (if l.ended then 2 ^ 62 else 0) + (if l.done then 2 ^ 63 else 0) := by
  have ht : (slotView l).take 8 = leBytes 8 (l.acc + l.handle.toNat * 2 ^ 16 + (if l.ended then 2 ^ 62 else 0) + (if l.done then 2 ^ 63 else 0)) := by
    rw [slotView, List.append_assoc]
    exact List.take_left' (leBytes_length ..)
  rw [ht, leNat_leBytes, Nat.mod_eq_of_lt]
  have hh := l.handle.isLt
  split_ifs <;> omega

section Admission

variable {s : State} {id c : Nat} {r : PoolRec} (hn : nextLaunch s = some (id, r)) (hc : freeCtx s = some c)
include hn hc

theorem exec_admission_early (hs : stageOf s < 4) : exec .admission s = .next s := by
  have hx : exec .admission s = execAdmission s := rfl
  rw [hx, execAdmission, hn, hc]
  exact congrArg Host.Outcome.next (if_pos hs)

theorem exec_admission_reads {im : Image} {bad : List Nat} (hs : 4 ≤ stageOf s)
    (hp : parseImage ⟨s, c, (newGraph s (poolHandle s id) r).root⟩ (recBase r.record) (poolHandle s id) 65536 = .ok (im, bad)) :
    exec .admission s = .next (sendPub { s with
      pool := put id { r with taken := true } s.pool, graphs := put c (newGraph s (poolHandle s id) r) s.graphs, sinks := del c s.sinks }
      (launchPub { newGraph s (poolHandle s id) r with image := some im } c) Config.ks 0 [] 0) := by
  have hx : exec .admission s = execAdmission s := rfl
  rw [hx, execAdmission, hn, hc]
  refine congrArg Host.Outcome.next ((if_neg (Nat.not_lt.mpr hs)).trans ?_)
  dsimp only
  rw [hp]

end Admission

theorem freeCtx_lt {s : State} {c : Nat} (h : freeCtx s = some c) : c < 256 := mem_upTo.mp (List.mem_of_find?_eq_some h)

theorem admission_publishes {s : State} {id c : Nat} {r : PoolRec} {im : Image} {bad : List Nat} (hn : nextLaunch s = some (id, r))
    (hc : freeCtx s = some c) (hs : 4 ≤ stageOf s)
    (hp : parseImage ⟨s, c, (newGraph s (poolHandle s id) r).root⟩ (recBase r.record) (poolHandle s id) 65536 = .ok (im, bad)) :
    ∃ t, exec .admission s = .next t ∧ graphAt t c = some (newGraph s (poolHandle s id) r) ∧ find id t.pool = some { r with taken := true } ∧
      t.net = s.net ++ [.pub (launchPub { newGraph s (poolHandle s id) r with image := some im } c) Config.ks 0 [] 0 0] ∧
      sinkSeq t c = 0 ∧ t.mem = s.mem := by
  refine ⟨_, exec_admission_reads hn hc hs hp, ?_⟩
  generalize hg : newGraph s (poolHandle s id) r = g
  generalize hq : launchPub { g with image := some im } c = q
  have hname : q.name = mkName (0xFF0000 + g.launch % 65536) 0 c (g.launch / 65536) 3 := by rw [← hq]; rfl
  have hstage : g.stage = 0 := by rw [← hg]; rfl
  have hfind : graphAt { s with pool := put id { r with taken := true } s.pool, graphs := put c g s.graphs, sinks := del c s.sinks } c = some g :=
    (find_put ..).trans (if_pos rfl)
  have hpl : namePlane q.name ≠ 0 := by
    rw [hname, namePlane_mkName _ _ _ _ (by decide)]
    decide
  have hctx : nameCtx q.name = c := by
    rw [hname, nameCtx_mkName, Nat.mod_eq_of_lt (freeCtx_lt hc)]
  have hpool : find id (put id { r with taken := true } s.pool) = some { r with taken := true } := (find_put ..).trans (if_pos rfl)
  have hsink : getD 0 c (del c s.sinks) = 0 := by
    rw [getD, find_del, if_pos rfl]
    rfl
  have hnet := sendPub_net (g := g) { s with pool := put id { r with taken := true } s.pool, graphs := put c g s.graphs, sinks := del c s.sinks }
    q Config.ks 0 [] 0 (by rw [hctx]; exact hfind)
  have hgr := sendPub_graphs { s with pool := put id { r with taken := true } s.pool, graphs := put c g s.graphs, sinks := del c s.sinks }
    hpl Config.ks 0 [] 0
  obtain ⟨gs, st, hf⟩ := sendPub_frame { s with pool := put id { r with taken := true } s.pool, graphs := put c g s.graphs, sinks := del c s.sinks }
    q Config.ks 0 [] 0
  rw [hstage] at hnet
  refine ⟨?_, ?_, hnet, ?_, ?_⟩
  · rw [graphAt, hgr]
    exact hfind
  · rw [hf]
    exact hpool
  · rw [hf]
    exact hsink
  · rw [hf]

section Load

variable {s : State} {c : Nat} {g : Graph} (hg : graphAt s c = some g) (hr : g.running = false) (he : g.ending = none)
  (hh : hashHeld s = false)
include hg hr he hh

theorem exec_stageLoad_waits (hq : graphQuiet s c = false) : exec (.stageLoad c) s = .next (flushOf (fun a => a.who.ctx == c) s) := by
  have hx : exec (.stageLoad c) s = execStageLoad c s := rfl
  rw [hx, execStageLoad, hg]
  exact congrArg Host.Outcome.next ((if_neg (by rw [hr, he, hh]; exact Bool.false_ne_true)).trans (if_pos (by rw [hq]; rfl)))

/-- What a stage's load does, once nothing of its graph is under way. -/
theorem exec_stageLoad (hq : graphQuiet s c = true) : exec (.stageLoad c) s = .next
    (match parseImage ⟨s, c, g.root⟩ (recBase g.record) g.launch g.stage with
      | .error (.why w) => { abortGraph s c 1 w with fetched := [] }
      | .error (.marred pa n) => { abortGraph (discover s pa n) c 1 1 with fetched := [] }
      | .error (.need pa p) => askBlock s pa p
      | .error .wait => s
      | .ok (im, bad) =>
        let g := { g with image := some im, earlier := g.earlier ++ g.placed, placed := [], barred := barredNow s g }
        match checkStage s g c bad with
        | .error w => { abortGraph s c 1 w with fetched := [] }
        | .ok pl => if textFree s (textsOf s g pl (tilesOf pl)) then distribute s c g pl else s) := by
  have hx : exec (.stageLoad c) s = execStageLoad c s := rfl
  rw [hx, execStageLoad, hg]
  refine congrArg Host.Outcome.next ((if_neg (by rw [hr, he, hh]; exact Bool.false_ne_true)).trans
    ((if_neg (by rw [hq]; exact Bool.false_ne_true)).trans ?_))
  rfl

end Load

section End

variable {s : State} {c : Nat} {g : Graph} (hg : graphAt s c = some g)
include hg

theorem exec_stageEnd_aborted {res why : Nat} (he : g.ending = some (res, why)) : exec (.stageEnd c) s = .next
    (if graphQuiet s c then endGraph s c res why else flushOf (fun a => a.who.ctx == c) s) := by
  have hx : exec (.stageEnd c) s = execStageEnd c s := rfl
  rw [hx, execStageEnd, hg]
  dsimp only
  rw [he]

variable (he : g.ending = none)
include he

theorem exec_stageEnd_goesOn (ho : stageOver s c g = false) : exec (.stageEnd c) s = .next s := by
  have hx : exec (.stageEnd c) s = execStageEnd c s := rfl
  rw [hx, execStageEnd, hg]
  dsimp only
  rw [he]
  exact congrArg Host.Outcome.next (if_pos (by rw [ho]; rfl))

variable {im : Image} (hi : g.image = some im)
include hi

theorem exec_stageEnd_nextStage (ho : stageOver s c g = true) (hl : g.stage + 1 < im.stages.length) : exec (.stageEnd c) s = .next
    (updGraph (clearStage s c g) c (fun g => { g with stage := g.stage + 1, running := false })) := by
  have hx : exec (.stageEnd c) s = execStageEnd c s := rfl
  have hlast : ¬ im.stages.length ≤ g.stage + 1 := by omega
  rw [hx, execStageEnd, hg]
  dsimp only
  rw [he, hi, ho]
  dsimp only [Option.map_some, Option.getD_some]
  exact congrArg Host.Outcome.next ((if_neg (by decide)).trans ((if_neg (by simp [hlast])).trans (if_neg hlast)))

theorem exec_stageEnd_lastStage (ho : stageOver s c g = true) (hl : im.stages.length ≤ g.stage + 1) (hq : graphQuiet s c = true)
    (hh : handled s c = false) : exec (.stageEnd c) s = .next (endGraph (clearStage s c g) c 0 0) := by
  have hx : exec (.stageEnd c) s = execStageEnd c s := rfl
  rw [hx, execStageEnd, hg]
  dsimp only
  rw [he, hi, ho, hq, hh]
  dsimp only [Option.map_some, Option.getD_some]
  exact congrArg Host.Outcome.next ((if_neg (by decide)).trans ((if_neg (by simp)).trans (if_pos hl)))

theorem stageEnd_nextStage (ho : stageOver s c g = true) (hl : g.stage + 1 < im.stages.length) :
    ∃ t h, exec (.stageEnd c) s = .next t ∧ graphAt t c = some h ∧ h.stage = g.stage + 1 ∧ h.running = false ∧ t.mem = s.mem := by
  have hcl : graphAt (clearStage s c g) c = some g := by
    rw [graphAt, clearStage_graphs]
    exact hg
  refine ⟨_, { g with stage := g.stage + 1, running := false }, exec_stageEnd_nextStage hg he hi ho hl, ?_, rfl, rfl, ?_⟩
  · rw [updGraph, hcl]
    exact (find_put ..).trans (if_pos rfl)
  · exact (updGraph_memory ..).1.trans (clearStage_memory ..).1

end End

/-- Settles O50: nothing but the end of a graph takes its entry from its context, and what a stage's load distributes leaves the
graph as loaded but for the tasks that fire at once. -/
theorem launchSteps : Obligations.LaunchSteps := by
  unfold Obligations.LaunchSteps
  refine ⟨?_, ?_, ?_, ?_, ?_, ?_, ?_⟩
  · intro s p k r hp hk hr hu view
    have hx := exec_launchWindowWrite hp hk hr hu
    refine ⟨fun hm => ?_, fun hm hn => ?_, fun id hm hn hz => ?_⟩
    · rw [hostLaunch_malformed hm] at hx
      exact ⟨_, hx, find_setSlot .., rfl⟩
    · rw [hostLaunch_full hm hn] at hx
      exact ⟨_, hx, find_setSlot .., rfl⟩
    · rw [hostLaunch_enters hm hn hz] at hx
      exact ⟨_, hx, find_setSlot .., (find_put ..).trans (if_pos rfl), rfl⟩
  · intro s p k hu
    refine ⟨_, congrArg Host.Outcome.next (if_pos hu), fun l hl ha => ?_⟩
    rw [hl]
    exact leNat_slotView ha
  · intro s id c r im bad hn hc g
    exact ⟨exec_admission_early hn hc, fun hs hp => admission_publishes hn hc hs hp⟩
  · intro s c g hg hr he hq hh src now
    have hx := exec_stageLoad hg hr he hh hq
    refine ⟨fun pa n hp => ?_, fun w hp => ?_, fun im bad w hp hc => ?_, fun im bad pl hp hc hf => ?_⟩
    · rw [hx, hp]
    · rw [hx, hp]
    · rw [hx, hp]
      dsimp only
      rw [hc]
    · obtain ⟨fired, n, hd⟩ := distribute_loaded s c (now im) pl
      refine ⟨_, _, hx.trans ?_, hd, rfl, rfl, rfl, rfl⟩
      rw [hp]
      dsimp only
      rw [hc]
      exact congrArg Host.Outcome.next (if_pos hf)
  · intro s c g hg res why he
    have hx := exec_stageEnd_aborted hg he
    refine ⟨fun hq => ⟨hx.trans (congrArg Host.Outcome.next (if_pos hq)), graphAt_endGraph ..⟩, fun hq => ?_⟩
    exact hx.trans (congrArg Host.Outcome.next (if_neg (by rw [hq]; exact Bool.false_ne_true)))
  · intro s c g hg hr he hh hq
    exact exec_stageLoad_waits hg hr he hh hq
  · intro s c g im hg hi he
    exact ⟨exec_stageEnd_goesOn hg he, stageEnd_nextStage hg he hi,
      fun ho hl hq hh => ⟨_, exec_stageEnd_lastStage hg he hi ho hl hq hh, graphAt_endGraph ..⟩⟩

end Sys2Proof.Machine

namespace Sys2Proof.Machine

/-! What a vacate request asks for (Table 16.6). -/

/-- A field of a request. -/
def vacWord (v : Word) (lo w : Nat) : Nat := v.toNat / 2 ^ lo % 2 ^ w

/-- A request whose command or region is malformed. -/
def vacWrong (v : Word) : Prop :=
  vacWord v 20 2 = 0 ∨ vacWord v 20 2 = 3 ∨ vacWord v 8 4 < vacWord v 0 4 ∨ vacWord v 12 4 < vacWord v 4 4

/-- The bays that a request gates. -/
def vacGates (v : Word) : List Nat := if vacWord v 22 1 = 1 then vacBays v else []

section Decide

variable {s : State} {v : Word} {host : Option Nat}

theorem vacDecide_wrong (h : vacWrong v) : vacDecide s v host = vacRefuse s 2 := by
  refine if_pos ?_
  simpa [vacWrong, vacWord, or_assoc] using h

variable (h : ¬vacWrong v)
include h

theorem vacDecide_eq : vacDecide s v host =
    if vacWord v 20 2 = 1 && hashHeld s then { s with vacAsked := s.vacAsked ++ [(v, host)] }
    else match s.vacate with
      | none =>
        if outsidePart s host (vacBays v) then vacRefuse s 5
        else if vacWord v 20 2 = 2 then
          msSetField (msSetField { s with excluded := s.excluded.filter (fun b => !(vacBays v).contains b) } 0x813 2 3 0) 0x813 1 1 1
        else vacStart s (vacBays v) (vacGates v) (vacWord v 16 3)
      | some r =>
        if vacWord v 20 2 = 2 || vacWord v 16 3 ≤ r.prio then vacRefuse s 1
        else if outsidePart s host (vacBays v) then vacRefuse s 5
        else if r.phase ≤ 3 then vacMerge s r (vacBays v) (vacGates v) (vacWord v 16 3)
        else vacHold s (vacBays v) (vacGates v) (vacWord v 16 3) := by
  refine if_neg ?_
  simpa [vacWrong, vacWord, or_assoc] using h

theorem vacDecide_asked (h1 : vacWord v 20 2 = 1) (hh : hashHeld s = true) :
    vacDecide s v host = { s with vacAsked := s.vacAsked ++ [(v, host)] } := by
  rw [vacDecide_eq h, if_pos (by rw [h1, hh]; rfl)]

theorem vacDecide_outside (hh : vacWord v 20 2 = 1 → hashHeld s = false) (hv : s.vacate = none)
    (ho : outsidePart s host (vacBays v) = true) : vacDecide s v host = vacRefuse s 5 := by
  rw [vacDecide_eq h, if_neg (by simpa using hh), hv]
  exact if_pos ho

theorem vacDecide_starts (h1 : vacWord v 20 2 = 1) (hh : hashHeld s = false) (hv : s.vacate = none)
    (ho : outsidePart s host (vacBays v) = false) : vacDecide s v host = vacStart s (vacBays v) (vacGates v) (vacWord v 16 3) := by
  rw [vacDecide_eq h, if_neg (by rw [hh]; simp), hv, h1]
  dsimp only
  rw [ho]
  rfl

theorem vacDecide_merges {r : Vacate} (h1 : vacWord v 20 2 = 1) (hh : hashHeld s = false) (hv : s.vacate = some r)
    (hp : r.prio < vacWord v 16 3) (ho : outsidePart s host (vacBays v) = false) (h3 : r.phase ≤ 3) :
    vacDecide s v host = vacMerge s r (vacBays v) (vacGates v) (vacWord v 16 3) := by
  rw [vacDecide_eq h, if_neg (by rw [hh]; simp), hv]
  dsimp only
  rw [if_neg (by simp [h1, hp]), ho, if_neg Bool.false_ne_true, if_pos h3]

theorem vacDecide_releases (h2 : vacWord v 20 2 = 2) (hv : s.vacate = none) (ho : outsidePart s host (vacBays v) = false) :
    vacDecide s v host =
      msSetField (msSetField { s with excluded := s.excluded.filter (fun b => !(vacBays v).contains b) } 0x813 2 3 0) 0x813 1 1 1 := by
  rw [vacDecide_eq h, if_neg (by rw [h2]; simp), hv]
  dsimp only
  rw [ho, if_neg Bool.false_ne_true, if_pos h2]

theorem vacDecide_busy {r : Vacate} (h2 : vacWord v 20 2 = 2) (hv : s.vacate = some r) : vacDecide s v host = vacRefuse s 1 := by
  rw [vacDecide_eq h, if_neg (by rw [h2]; simp), hv]
  dsimp only
  rw [if_pos (by rw [h2]; simp)]

end Decide

/-! A request as its register keeps it. -/

theorem vacWord_written (s : State) (v : Word) {lo w : Nat} (h : lo + w ≤ 19 ∨ 20 ≤ lo ∧ lo + w ≤ 23) :
    vacWord (msRaw (msWriteBits s 0x812 v (BitVec.allOnes 64)) 0x812) lo w = vacWord v lo w := by
  have hm : ∀ i, i < 23 → i ≠ 19 → (msRw 0x812).getLsbD i = true ∧ (msW1c 0x812).getLsbD i = false := by decide
  exact msField_msWriteBits s v (by decide) fun i hi => hm (lo + i) (by omega) (by omega)

section Written

variable (s : State) (v : Word)

theorem vacBays_eq : vacBays v = bays.filter (fun b => vacWord v 0 4 ≤ b % 16 && b % 16 ≤ vacWord v 8 4 && vacWord v 4 4 ≤ b / 16 &&
    b / 16 ≤ vacWord v 12 4) := rfl

theorem vacBays_written : vacBays (msRaw (msWriteBits s 0x812 v (BitVec.allOnes 64)) 0x812) = vacBays v := by
  rw [vacBays_eq, vacBays_eq, vacWord_written s v (.inl (by decide)), vacWord_written s v (.inl (by decide)),
    vacWord_written s v (.inl (by decide)), vacWord_written s v (.inl (by decide))]

theorem vacGates_written : vacGates (msRaw (msWriteBits s 0x812 v (BitVec.allOnes 64)) 0x812) = vacGates v := by
  rw [vacGates, vacGates, vacBays_written, vacWord_written s v (.inr (by decide))]

theorem vacWrong_written : vacWrong (msRaw (msWriteBits s 0x812 v (BitVec.allOnes 64)) 0x812) ↔ vacWrong v := by
  rw [vacWrong, vacWrong, vacWord_written s v (.inr (by decide)), vacWord_written s v (.inl (by decide)),
    vacWord_written s v (.inl (by decide)), vacWord_written s v (.inl (by decide)), vacWord_written s v (.inl (by decide))]

theorem outsidePart_written (host : Option Nat) (bs : List Nat) :
    outsidePart (msWriteBits s 0x812 v (BitVec.allOnes 64)) host bs = outsidePart s host bs := by
  cases host with
  | none => rfl
  | some p =>
    unfold outsidePart
    simp only [msRaw_msWriteBits_ne (n := 0x812) (m := 0x806) (by decide), msRaw_msWriteBits_ne (n := 0x812) (m := 0x807) (by decide)]

theorem hashHeld_written : hashHeld (msWriteBits s 0x812 v (BitVec.allOnes 64)) = hashHeld s := rfl

theorem vacate_written : (msWriteBits s 0x812 v (BitVec.allOnes 64)).vacate = s.vacate := rfl

theorem exec_vacateRequest (host : Option Nat) (h : vacWord v 20 2 ≠ 2) : exec (.vacateRequest v host) s =
    .next (vacDecide (msWriteBits s 0x812 v (BitVec.allOnes 64)) (msRaw (msWriteBits s 0x812 v (BitVec.allOnes 64)) 0x812) host) :=
  congrArg Host.Outcome.next (if_neg h)

theorem exec_vacateRelease (host : Option Nat) (h : vacWord v 20 2 = 2) : exec (.vacateRelease v host) s =
    .next (vacDecide (msWriteBits s 0x812 v (BitVec.allOnes 64)) (msRaw (msWriteBits s 0x812 v (BitVec.allOnes 64)) 0x812) host) :=
  congrArg Host.Outcome.next (if_pos h)

end Written

/-! What an accepted request leaves. -/

theorem mem_join {a b : List Nat} {x : Nat} (h : x ∈ b) : x ∈ join a b := by
  unfold join
  by_cases ha : x ∈ a
  · exact List.mem_append_left _ ha
  · exact List.mem_append_right _ (List.mem_filter.mpr ⟨h, by simpa using ha⟩)

theorem vacAccept_starts (s : State) (bs gb : List Nat) (p : Nat) : ∃ w, (vacAccept s bs gb p).vacate = some w ∧ w.bays = bs ∧
    w.phase = 1 ∧ w.prio = p ∧ (∀ b ∈ bs, b ∈ (vacAccept s bs gb p).excluded) ∧ msField (vacAccept s bs gb p) 0x813 0 1 = 1 ∧
    (vacAccept s bs gb p).mem = s.mem := by
  refine ⟨⟨bs, gb, [], p, 1, gatesOf s bs [], [], []⟩, rfl, rfl, rfl, rfl, fun b hb => mem_join (a := s.excluded) hb, ?_, rfl⟩
  rw [msField, vacAccept, msRaw_msPut, if_pos rfl, BitVec.toNat_ofNat]
  omega

theorem vacMerge_joins (s : State) {v : Vacate} {bs gb : List Nat} {p : Nat}
    (hc : vacCheck s { v with bays := join v.bays bs, gateBays := join v.gateBays gb, prio := p } = none) :
    ∃ w, (vacMerge s v bs gb p).vacate = some w ∧ w.bays = join v.bays bs ∧ w.phase = 1 ∧ w.prio = p ∧
      (∀ b ∈ bs, b ∈ (vacMerge s v bs gb p).excluded) ∧ msField (vacMerge s v bs gb p) 0x813 2 3 = 0 ∧
      msField (vacMerge s v bs gb p) 0x813 8 3 = 1 ∧ (vacMerge s v bs gb p).mem = s.mem := by
  let w : Vacate := { v with bays := join v.bays bs, gateBays := join v.gateBays gb, prio := p, phase := 1, gates := gatesOf s bs v.gates }
  have he : ∃ u : State, u.vacate = some { v with bays := join v.bays bs, gateBays := join v.gateBays gb, prio := p, phase := 1, gates := gatesOf s bs v.gates } ∧
      u.excluded = join s.excluded (join v.bays bs) ∧ u.mem = s.mem ∧ vacMerge s v bs gb p =
        msSetField (msSetField (msSetField u 0x813 8 3 1) 0x813 16 8 (join v.bays bs).length) 0x813 2 3 0 := by
    unfold vacMerge
    dsimp only
    rw [hc]
    exact ⟨{ exclude s w with vacate := some w }, rfl, rfl, rfl, rfl⟩
  obtain ⟨u, hv, hx, hm, he⟩ := he
  rw [he]
  have hk {α : Type} (p : State → α) (hp : ∀ s n v, p (msPut s n v) = p s) :
      p (msSetField (msSetField (msSetField u 0x813 8 3 1) 0x813 16 8 (join v.bays bs).length) 0x813 2 3 0) = p u :=
    (msSetField_keeps p hp ..).trans ((msSetField_keeps p hp ..).trans (msSetField_keeps p hp ..))
  refine ⟨_, (hk State.vacate fun _ _ _ => rfl).trans hv, rfl, rfl, rfl, fun b hb => ?_, ?_, ?_, (hk State.mem fun _ _ _ => rfl).trans hm⟩
  · rw [hk State.excluded fun _ _ _ => rfl, hx]
    exact mem_join (mem_join hb)
  · exact msField_msSetField _ (by decide)
  · rw [msField_msSetField_apart _ (.inr (by decide)) (by decide), msField_msSetField_apart _ (.inl (by decide)) (by decide)]
    exact msField_msSetField _ (by decide)

end Sys2Proof.Machine

namespace Sys2Proof.Machine

/-! A request to vacate a region, and to release one (Table 16.6). -/

section Request

variable {s : State} {v : Word} {host : Option Nat}

theorem vacWrong_of_command {v : Word} (h : vacWord v 20 2 = 1 ∨ vacWord v 20 2 = 2)
    (hw : ¬(vacWord v 8 4 < vacWord v 0 4 ∨ vacWord v 12 4 < vacWord v 4 4)) : ¬vacWrong v := by
  rw [vacWrong]
  omega

theorem vacateRequest_wrong (h : vacWord v 20 2 ≠ 2) (hw : vacWrong v) :
    exec (.vacateRequest v host) s = .next (vacRefuse (msWriteBits s 0x812 v (BitVec.allOnes 64)) 2) := by
  rw [exec_vacateRequest s v host h, vacDecide_wrong ((vacWrong_written s v).mpr hw)]

variable (h1 : vacWord v 20 2 = 1) (hw : ¬(vacWord v 8 4 < vacWord v 0 4 ∨ vacWord v 12 4 < vacWord v 4 4))
include h1 hw

theorem vacateRequest_right : exec (.vacateRequest v host) s =
      .next (vacDecide (msWriteBits s 0x812 v (BitVec.allOnes 64)) (msRaw (msWriteBits s 0x812 v (BitVec.allOnes 64)) 0x812) host) ∧
    vacWord (msRaw (msWriteBits s 0x812 v (BitVec.allOnes 64)) 0x812) 20 2 = 1 ∧
    ¬vacWrong (msRaw (msWriteBits s 0x812 v (BitVec.allOnes 64)) 0x812) := by
  refine ⟨exec_vacateRequest s v host (by omega), (vacWord_written s v (.inr (by decide))).trans h1, ?_⟩
  rw [vacWrong_written]
  exact vacWrong_of_command (.inl h1) hw

theorem vacateRequest_asked (hh : hashHeld s = true) : exec (.vacateRequest v host) s =
    .next { msWriteBits s 0x812 v (BitVec.allOnes 64) with vacAsked := (msWriteBits s 0x812 v (BitVec.allOnes 64)).vacAsked ++
      [(msRaw (msWriteBits s 0x812 v (BitVec.allOnes 64)) 0x812, host)] } := by
  obtain ⟨hx, h1', hw'⟩ := vacateRequest_right (s := s) (host := host) h1 hw
  rw [hx, vacDecide_asked hw' h1' ((hashHeld_written s v).trans hh)]

variable (hh : hashHeld s = false)
include hh

theorem vacateRequest_outside (hv : s.vacate = none) (ho : outsidePart s host (vacBays v) = true) :
    exec (.vacateRequest v host) s = .next (vacRefuse (msWriteBits s 0x812 v (BitVec.allOnes 64)) 5) := by
  obtain ⟨hx, h1', hw'⟩ := vacateRequest_right (s := s) (host := host) h1 hw
  rw [hx, vacDecide_outside hw' (fun _ => (hashHeld_written s v).trans hh) ((vacate_written s v).trans hv)]
  rw [vacBays_written, outsidePart_written]
  exact ho

theorem vacateRequest_starts (hv : s.vacate = none) (ho : outsidePart s host (vacBays v) = false) : exec (.vacateRequest v host) s =
    .next (vacStart (msWriteBits s 0x812 v (BitVec.allOnes 64)) (vacBays v) (vacGates v) (vacWord v 16 3)) := by
  obtain ⟨hx, h1', hw'⟩ := vacateRequest_right (s := s) (host := host) h1 hw
  rw [hx, vacDecide_starts hw' h1' ((hashHeld_written s v).trans hh) ((vacate_written s v).trans hv),
    vacBays_written, vacGates_written, vacWord_written s v (.inl (by decide))]
  rw [vacBays_written, outsidePart_written]
  exact ho

theorem vacateRequest_merges {r : Vacate} (hv : s.vacate = some r) (hp : r.prio < vacWord v 16 3)
    (ho : outsidePart s host (vacBays v) = false) (h3 : r.phase ≤ 3) : exec (.vacateRequest v host) s =
    .next (vacMerge (msWriteBits s 0x812 v (BitVec.allOnes 64)) r (vacBays v) (vacGates v) (vacWord v 16 3)) := by
  obtain ⟨hx, h1', hw'⟩ := vacateRequest_right (s := s) (host := host) h1 hw
  rw [hx, vacDecide_merges hw' h1' ((hashHeld_written s v).trans hh) ((vacate_written s v).trans hv)
      (by rw [vacWord_written s v (.inl (by decide))]; exact hp) _ h3,
    vacBays_written, vacGates_written, vacWord_written s v (.inl (by decide))]
  rw [vacBays_written, outsidePart_written]
  exact ho

end Request

section Release

variable {s : State} {v : Word} {host : Option Nat} (h2 : vacWord v 20 2 = 2)
  (hw : ¬(vacWord v 8 4 < vacWord v 0 4 ∨ vacWord v 12 4 < vacWord v 4 4))
include h2 hw

theorem vacateRelease_right : exec (.vacateRelease v host) s =
      .next (vacDecide (msWriteBits s 0x812 v (BitVec.allOnes 64)) (msRaw (msWriteBits s 0x812 v (BitVec.allOnes 64)) 0x812) host) ∧
    vacWord (msRaw (msWriteBits s 0x812 v (BitVec.allOnes 64)) 0x812) 20 2 = 2 ∧
    ¬vacWrong (msRaw (msWriteBits s 0x812 v (BitVec.allOnes 64)) 0x812) := by
  refine ⟨exec_vacateRelease s v host h2, (vacWord_written s v (.inr (by decide))).trans h2, ?_⟩
  rw [vacWrong_written]
  exact vacWrong_of_command (.inr h2) hw

theorem vacateRelease_busy (hv : s.vacate ≠ none) :
    exec (.vacateRelease v host) s = .next (vacRefuse (msWriteBits s 0x812 v (BitVec.allOnes 64)) 1) := by
  obtain ⟨hx, h2', hw'⟩ := vacateRelease_right (s := s) (host := host) h2 hw
  obtain ⟨r, hr⟩ := Option.ne_none_iff_exists'.mp hv
  rw [hx, vacDecide_busy hw' h2' ((vacate_written s v).trans hr)]

theorem vacateRelease_admits (hv : s.vacate = none) (ho : outsidePart s host (vacBays v) = false) :
    ∃ t, exec (.vacateRelease v host) s = .next t ∧ t.excluded = s.excluded.filter (fun b => !(vacBays v).contains b) ∧
      msField t 0x813 1 1 = 1 ∧ msField t 0x813 2 3 = 0 := by
  obtain ⟨hx, h2', hw'⟩ := vacateRelease_right (s := s) (host := host) h2 hw
  rw [vacDecide_releases hw' h2' ((vacate_written s v).trans hv) (by rw [vacBays_written, outsidePart_written]; exact ho), vacBays_written] at hx
  refine ⟨_, hx, ?_, msField_msSetField _ (by decide), ?_⟩
  · exact (msSetField_keeps State.excluded (fun _ _ _ => rfl) ..).trans (msSetField_keeps State.excluded (fun _ _ _ => rfl) ..)
  · rw [msField_msSetField_apart _ (.inr (by decide)) (by decide)]
    exact msField_msSetField _ (by decide)

end Release

theorem vacStart_checked {s : State} {bs gb : List Nat} {p : Nat} :
    (∀ r, vacCheck s ⟨bs, gb, [], p, 1, [], [], []⟩ = some r → vacStart s bs gb p = vacRefuse s r) ∧
      (vacCheck s ⟨bs, gb, [], p, 1, [], [], []⟩ = none → vacStart s bs gb p = vacAccept s bs gb p) := by
  refine ⟨fun r h => ?_, fun h => ?_⟩
  · rw [vacStart, h]
  · rw [vacStart, h]

/-! The grace of a graph on a tile. -/

section Grace

variable {s : State} {v : Vacate} {g : Graph} {c t : Nat} {w : Word} (hv : s.vacate = some v) (hg : graphAt s c = some g)
  (he : (c, t) ∉ v.expired) (hw : find t v.gates = some w)
include hv hg he hw

theorem graceExpiry_early (h : ((coreAt s t).cyc - w).toNat < g.grace) : exec (.graceExpiry c t) s = .next s := by
  have hx : exec (.graceExpiry c t) s = execGraceExpiry c t s := rfl
  rw [hx, execGraceExpiry, hv, hg]
  dsimp only
  rw [if_neg (by simpa using he), hw]
  exact congrArg Host.Outcome.next (if_pos h)

theorem graceExpiry_expires (h : g.grace ≤ ((coreAt s t).cyc - w).toNat) : exec (.graceExpiry c t) s =
    .next (expireOn { s with vacate := some { v with expired := v.expired ++ [(c, t)] } } c t
      (((v.expired ++ [(c, t)]).filter (fun e => e.1 == c)).map (fun e => e.2))) := by
  have hx : exec (.graceExpiry c t) s = execGraceExpiry c t s := rfl
  rw [hx, execGraceExpiry, hv, hg]
  dsimp only
  rw [if_neg (by simpa using he), hw]
  exact congrArg Host.Outcome.next (if_neg (Nat.not_lt.mpr h))

end Grace

end Sys2Proof.Machine

namespace Sys2Proof.Machine

/-! A thread's save begins. -/

theorem flushPort_saved (u : Nat) (w : Who) (p : Bool) (s : State) (port : Nat) : (flushPort u w p s port).saved = s.saved := by
  unfold flushPort
  split <;> rfl

theorem flushOf_saved (p : Access → Bool) (s : State) : (flushOf p s).saved = s.saved :=
  foldl_keeps State.saved (fun s (a : Access) => [0, 1].foldl (flushPort a.uid a.who a.psink) s)
    (fun _ a => foldl_keeps State.saved (flushPort a.uid a.who a.psink) (flushPort_saved a.uid a.who a.psink) [0, 1] _) _ _

theorem vacPhase_saved (s : State) (ph : Nat) : (vacPhase s ph).saved = s.saved := by
  unfold vacPhase
  split
  · rfl
  · exact msSetField_keeps State.saved (fun _ _ _ => rfl) ..

/-- What a thread's save begins with. -/
def newSave (s : State) (k b : Nat) (th : Thread) : Saved :=
  { th := th, acc := none, cmds := [], extents := [], addr := areaBase (savePier s (tileOf k)) + 0x10000 * b,
    blocks := imageBlocks s (tileOf k) th, from_ := tileOf k, to_ := none, complete := false }

/-- The save of a thread begins. -/
def saveBegins (s : State) (k b : Nat) (th : Thread) : State :=
  flushOf (fun a => a.uid == th.uid) { s with saved := s.saved ++ [newSave s k b th] }

section Begin

variable {s : State} {k b : Nat} {th : Thread} (ht : threadAt s k = some th) (hn : saveNext s (bayOf (tileOf k)) = some k)
  (hs : ∀ v ∈ s.saved, v.complete = true ∨ bayOf v.from_ ≠ bayOf (tileOf k)) (hq : (coreAt s (tileOf k)).mq = [])
  (hi : ∀ a ∈ s.inflight, a.uid ≠ th.uid ∨ a.dst = .none)
  (hb : areaFind s (savePier s (tileOf k)) (imageBlocks s (tileOf k) th) = some b)
include ht hn hs hq hi hb

theorem exec_threadSave : exec (.threadSave k) s = .next
    (if lowMoves (saveBegins s k b th) (tileOf k) th then saveBegins s k b th else vacPhase (saveBegins s k b th) 2) := by
  have hx : exec (.threadSave k) s = execThreadSave k s := rfl
  have h1 : (saveNext s (bayOf (tileOf k)) != some k || s.saved.any (fun v => !v.complete && bayOf v.from_ == bayOf (tileOf k))) = false := by
    rw [hn, Bool.or_eq_false_iff]
    refine ⟨by simp, List.any_eq_false.mpr fun v hv => ?_⟩
    rcases hs v hv with h | h <;> simp [h]
  have h2 : ((holdsFile s (tileOf k) th && !(coreAt s (tileOf k)).mq.isEmpty) ||
      s.inflight.any (fun a => a.uid == th.uid && a.dst != .none)) = false := by
    rw [hq, Bool.or_eq_false_iff]
    refine ⟨by simp, List.any_eq_false.mpr fun a ha => ?_⟩
    rcases hi a ha with h | h <;> simp [h]
  rw [hx, execThreadSave, ht]
  dsimp only
  rw [h1, if_neg Bool.false_ne_true, h2, if_neg Bool.false_ne_true, hb]
  rfl

theorem threadSave_begins : ∃ t v, exec (.threadSave k) s = .next t ∧ t.saved = s.saved ++ [v] ∧ v.th = th ∧ v.complete = false ∧
    v.from_ = tileOf k ∧ v.addr = areaBase (savePier s (tileOf k)) + 0x10000 * b ∧ v.to_ = none ∧ t.mem = s.mem := by
  refine ⟨_, newSave s k b th, exec_threadSave ht hn hs hq hi hb, ?_, rfl, rfl, rfl, rfl, rfl, ?_⟩
  · have h : (saveBegins s k b th).saved = _ := flushOf_saved ..
    split_ifs
    · exact h
    · exact (vacPhase_saved ..).trans h
  · have h : (saveBegins s k b th).mem = s.mem := (flushOf_memory ..).1
    split_ifs
    · exact h
    · exact (vacPhase_memory ..).1.trans h

end Begin

/-! A thread's save ends. -/

theorem threadAt_updThread_none {s : State} {k j : Nat} {f : Thread → Thread} (h : threadAt s k = none) : threadAt (updThread s j f) k = none := by
  rw [threadAt_updThread]
  split_ifs with hj
  · rw [← hj, h]
    rfl
  · exact h

theorem threadAt_wakeTile_none {s : State} {t k : Nat} (h : threadAt s k = none) : threadAt (wakeTile s t) k = none := by
  unfold wakeTile
  generalize threadsOn s t = l
  induction l generalizing s with
  | nil => exact h
  | cons e l ih =>
    refine ih ?_
    dsimp only
    split
    · exact threadAt_updThread_none h
    · exact h

theorem releaseFile_saved (s : State) (t u : Nat) : (releaseFile s t u).saved = s.saved := by
  unfold releaseFile
  dsimp only
  split <;> rfl

theorem releaseFile_threads (s : State) (t u : Nat) : (releaseFile s t u).threads = s.threads := by
  unfold releaseFile
  dsimp only
  split <;> rfl

theorem wakeTile_saved (s : State) (t : Nat) : (wakeTile s t).saved = s.saved := by
  obtain ⟨m, h⟩ := wakeTile_eq s t
  rw [h]

theorem readRange_saved (s : State) (pa n : Nat) (lost : Bool) : (readRange s pa n lost).1.saved = s.saved := by
  rw [readRange_sameButRead s pa n lost]

theorem readExtents_saved (s : State) (t : Nat) (l : List (Nat × Nat)) : (readExtents s t l).1.saved = s.saved := by
  induction l generalizing s with
  | nil => rfl
  | cons e l ih => exact (ih _).trans (readRange_saved ..)

theorem writeRange_saved (s : State) (pa : Nat) (data : List Byte) (bad : List Bool) : (writeRange s pa data bad).saved = s.saved := by
  unfold writeRange
  refine (foldl_keeps State.saved (fun s i => setLinePoison s (pa + i) true) (fun _ _ => rfl) _ _).trans ?_
  rw [writeClean_sameButLog s pa]

/-- The slot of a thread, once all of its image is written. -/
def slotFreed (s : State) (k : Nat) (th : Thread) (m : List Msg) (w : Saved) : State :=
  let s := { s with saved := s.saved.map (fun x => if x.th.uid = th.uid then w else x), net := s.net ++ m }
  let s := unqueue (dropThread s k) th.uid
  let s := updCore s (tileOf k) (fun c => { c with
    eng0 := c.eng0.filter (fun d => d.uid != th.uid), eng1 := c.eng1.filter (fun d => d.uid != th.uid) })
  let s := wakeTile (releaseFile s (tileOf k) th.uid) (tileOf k)
  if lowMoves s (tileOf k) th then s else msSetField s 0x813 24 24 (msField s 0x813 24 24 + 1)

theorem slotFreed_threadAt (s : State) (k : Nat) (th : Thread) (m : List Msg) (w : Saved) : threadAt (slotFreed s k th m w) k = none := by
  unfold slotFreed
  extract_lets s1 s2 s3 s4
  have h2 : threadAt s2 k = none := (threadAt_dropThread s1 k k).trans (if_pos rfl)
  have h3 : threadAt s3 k = none := h2
  have h4 : threadAt s4 k = none := threadAt_wakeTile_none (by
    rw [threadAt, releaseFile_threads]
    exact h3)
  split_ifs
  · exact h4
  · rw [threadAt, msSetField_keeps State.threads fun _ _ _ => rfl]
    exact h4

theorem slotFreed_saved (s : State) (k : Nat) (th : Thread) (m : List Msg) (w : Saved) :
    (slotFreed s k th m w).saved = s.saved.map (fun x => if x.th.uid = th.uid then w else x) := by
  unfold slotFreed
  extract_lets s1 s2 s3 s4
  have h4 : s4.saved = s1.saved := (wakeTile_saved ..).trans ((releaseFile_saved ..).trans rfl)
  split_ifs
  · exact h4
  · exact (msSetField_keeps State.saved (fun _ _ _ => rfl) ..).trans h4

theorem saveThread_eq (s : State) (k : Nat) (th : Thread) (v : Saved) : ∃ u m w, saveThread s k th v = slotFreed u k th m w ∧
    u.saved = s.saved ∧ w.complete = true ∧ w.th.uid = th.uid ∧ w.th.regs = th.regs ∧ w.th.pc = th.pc := by
  unfold saveThread
  extract_lets t s1 c cmds th'
  have hs1 : s1.saved = s.saved := by
    show State.saved (if _ then _ else _) = _
    split_ifs <;> rfl
  have hs2 : (readExtents s1 t (extentsOf s1 th)).1.saved = s.saved := (readExtents_saved ..).trans hs1
  generalize readExtents s1 t (extentsOf s1 th) = r at hs2
  obtain ⟨s2, ext⟩ := r
  let w : Saved := { v with
    th := th', acc := if c.holder = some th.uid then some (c.acc, c.ob, c.obBad) else none, cmds := cmds, extents := ext, complete := true }
  refine ⟨writeRange s2 v.addr (imageBytes w (ownRecord th)).1 (imageBytes w (ownRecord th)).2, withdrawOpen t th cmds, w, ?_,
    (writeRange_saved ..).trans hs2, rfl, rfl, rfl, rfl⟩
  unfold slotFreed
  rfl

section End

variable {s : State} {u k : Nat} {th : Thread} {v : Saved} (hf : s.saved.find? (fun v => v.th.uid == u && !v.complete) = some v)
  (hk : keyOfUid s u = some k) (ht : threadAt s k = some th) (hi : ∀ a ∈ s.inflight, a.uid ≠ u)
  (hc : threadCmds s (tileOf k) u = []) (hr : stackReady s v.addr = true) (he : extentsFree s (tileOf k) (extentsOf s th) = true)
include hf hk ht hi hc hr he

theorem exec_saveComplete : exec (.saveComplete u) s = .next (saveThread s k th v) := by
  have hx : exec (.saveComplete u) s = execSaveComplete u s := rfl
  have hbusy : (s.inflight.any (fun a => a.uid == u && (a.dst != .none || a.elems.any (fun e => !e.done))) ||
      (threadCmds s (tileOf k) u).any (fun c => !c.chunks.isEmpty)) = false := by
    rw [hc, Bool.or_eq_false_iff]
    exact ⟨List.any_eq_false.mpr fun a ha => by simp [hi a ha], rfl⟩
  rw [hx, execSaveComplete, hf, hk]
  dsimp only
  rw [ht]
  dsimp only
  rw [hbusy, if_neg Bool.false_ne_true, hr, he]
  exact congrArg Host.Outcome.next (if_neg (by decide))

theorem saveComplete_ends (hu : th.uid = u) : ∃ t x, exec (.saveComplete u) s = .next t ∧ threadAt t k = none ∧ x ∈ t.saved ∧ x.th.uid = u ∧
    x.complete = true ∧ x.th.regs = th.regs ∧ x.th.pc = th.pc := by
  obtain ⟨w, m, x, hs, hsv, hcomp, huid, hregs, hpc⟩ := saveThread_eq s k th v
  have hvu : v.th.uid = th.uid := by
    have := List.find?_some hf
    simp only [Bool.and_eq_true, beq_iff_eq] at this
    rw [this.1, hu]
  refine ⟨_, x, (exec_saveComplete hf hk ht hi hc hr he).trans (congrArg _ hs), slotFreed_threadAt .., ?_, huid.trans hu, hcomp, hregs, hpc⟩
  rw [slotFreed_saved, hsv]
  exact List.mem_map.mpr ⟨v, List.mem_of_find?_eq_some hf, if_pos hvu⟩

end End

end Sys2Proof.Machine

namespace Sys2Proof.Machine

/-! The phases of a vacate (R341 to R346). -/

theorem vacate_of_device {s t : State} (h : device t = device s) : t.vacate = s.vacate := congrArg Device.vacate h

theorem vacHeld_of_device {s t : State} (h : device t = device s) : t.vacHeld = s.vacHeld := congrArg Device.vacHeld h

theorem writeText_device (s : State) (t c l d : Nat) (text : List Byte) : device (writeText s t c l d text) = device s := by
  unfold writeText
  exact (writeClean_device ..).trans ((routerTurn_device ..).trans ((writeClean_device ..).trans (routerTurn_device ..)))

theorem spreadHandlers_device (s : State) (g : Graph) (tiles : List Nat) : device (spreadHandlers s g tiles) = device s := by
  have hh (s : State) (t : Nat) : device (hostHandlers s g t) = device s := by
    unfold hostHandlers
    split
    · rfl
    · exact foldl_device (fun _ _ => writeText_device ..) _ _
  exact foldl_device hh _ _

theorem moveGraph_device (s : State) (v : Vacate) (lost : Bool) (ctx : Nat) (g : Graph) : device (moveGraph s v lost ctx g) = device s := by
  unfold moveGraph
  extract_lets moves new s1 fresh s2 s3 s4 free g1 s5 old subs s6 tiles s7
  have h1 : device s1 = device s := foldl_device (fun s x => by
    split
    · rfl
    · exact writeText_device ..) moves s
  have h2 : device s2 = device s1 := by
    show device (if _ then _ else _) = _
    split
    · rfl
    · exact spreadHandlers_device ..
  have h4 : device s4 = device s2 := (foldl_device (fun _ _ => moveOne_device ..) moves s3).trans (redirect_device ..)
  have h7 : device s7 = device s4 := foldl_device (f := fun s t => requestWake s (bayOf t)) (fun _ _ => requestWake_device ..) tiles s6
  exact (foldl_device (fun _ _ => fireReady_device ..) tiles _).trans ((startWakes_device s7).trans (h7.trans (h4.trans (h2.trans h1))))

theorem rehome_device (s : State) (v : Vacate) (lost : Bool) : device (rehome s v lost) = device s := by
  refine (resumeAll_device ..).trans (foldl_device (fun s e => ?_) _ _)
  split
  · rfl
  · split
    · exact moveGraph_device ..
    · rfl

section Phase

variable {s : State} {v : Vacate} (hv : s.vacate = some v)
include hv

theorem vacPhase_eq (ph : Nat) : vacPhase s ph = msSetField { s with vacate := some { v with phase := ph } } 0x813 8 3 ph := by
  rw [vacPhase, hv]

theorem vacPhase_vacate (ph : Nat) : (vacPhase s ph).vacate = some { v with phase := ph } := by
  rw [vacPhase_eq hv]
  exact msSetField_keeps State.vacate (fun _ _ _ => rfl) ..

theorem vacPhase_field {ph : Nat} (hp : ph < 8) : msField (vacPhase s ph) 0x813 8 3 = ph := by
  rw [vacPhase_eq hv, msField_msSetField _ (by decide)]
  exact Nat.mod_eq_of_lt hp

theorem vacPhase_otherField (ph : Nat) {lo w : Nat} (h : lo + w ≤ 8 ∨ 11 ≤ lo) (hx : lo + w ≤ 64) :
    msField (vacPhase s ph) 0x813 lo w = msField s 0x813 lo w := by
  rw [vacPhase_eq hv, msField_msSetField_apart _ h.symm.symm hx]
  rfl

end Phase

theorem vacPhase_stillSaved (s : State) (v : Vacate) (ph : Nat) : stillSaved (vacPhase s ph) { v with phase := ph } = stillSaved s v := by
  unfold stillSaved
  rw [vacPhase_saved]
  rfl

/-- What ms.vacst reads once a vacate has ended. -/
def vacDoneWord (v : Vacate) (saves : Nat) : Word := BitVec.ofNat 64 (2 + v.bays.length * 2 ^ 16 + saves * 2 ^ 24)

theorem vacDoneWord_fields {v : Vacate} {n : Nat} (hl : v.bays.length < 256) (hn : n < 2 ^ 24) :
    (vacDoneWord v n).toNat / 2 ^ 0 % 2 ^ 1 = 0 ∧ (vacDoneWord v n).toNat / 2 ^ 1 % 2 ^ 1 = 1 ∧ (vacDoneWord v n).toNat / 2 ^ 24 % 2 ^ 24 = n := by
  have hr : (vacDoneWord v n).toNat = 2 + v.bays.length * 2 ^ 16 + n * 2 ^ 24 := by
    rw [vacDoneWord, BitVec.toNat_ofNat]
    omega
  rw [hr]
  omega

/-- The end of a vacate that no other one waits behind. -/
theorem vacFinish_eq {s : State} (hh : s.vacHeld = none) (v : Vacate) : ∃ (u : State) (l : List Word),
    vacFinish s v = logEvent (msPut u 0x813 (vacDoneWord v (msField s 0x813 24 24))) 6 l ∧ u.vacate = none := by
  have hF : ∃ F, vacFinish = F ∧ ∀ (s : State) (v : Vacate), s.vacHeld = none → ∃ (u : State) (l : List Word) (t : State), F s v = t ∧
      t = logEvent (msPut u 0x813 (vacDoneWord v (msField s 0x813 24 24))) 6 l ∧ u.vacate = none := by
    refine ⟨_, by delta vacFinish; rfl, fun s v hh => ?_⟩
    beta_reduce
    extract_lets s1 s2 s3 s4
    have h2 : s2.vacHeld = none ∧ s2.vacate = none := ⟨hh, rfl⟩
    have e3 : s3 = msPut s2 0x813 (vacDoneWord v (msField s2 0x813 24 24)) := rfl
    have e4 : ∃ l, s4 = logEvent s3 6 l := ⟨_, rfl⟩
    have hr : s2.ms = s.ms := rfl
    clear_value s4 s3 s2
    obtain ⟨l, rfl⟩ := e4
    have h3 : s3.vacHeld = none := by
      rw [e3, msPut_vacHeld]
      exact h2.1
    have h4 : (logEvent s3 6 l).vacHeld = none := (vacHeld_of_device (logEvent_device s3 6 l)).trans h3
    rw [msField, msRaw, hr, ← msRaw, ← msField] at e3
    refine ⟨s2, l, logEvent s3 6 l, ?_, congrArg (logEvent · 6 l) e3, h2.2⟩
    generalize logEvent s3 6 l = t at h4
    rw [h4]
  obtain ⟨F, rfl, hF⟩ := hF
  obtain ⟨u, l, t, ht, he, hu⟩ := hF s v hh
  exact ⟨u, l, ht.trans he, hu⟩

theorem vacFinish_ends {s : State} {v : Vacate} (hh : s.vacHeld = none) (hl : v.bays.length < 256) :
    (vacFinish s v).vacate = none ∧ msField (vacFinish s v) 0x813 0 1 = 0 ∧ msField (vacFinish s v) 0x813 1 1 = 1 ∧
      msField (vacFinish s v) 0x813 24 24 = msField s 0x813 24 24 := by
  obtain ⟨u, l, he, hu⟩ := vacFinish_eq hh v
  obtain ⟨h0, h1, h24⟩ := vacDoneWord_fields (n := msField s 0x813 24 24) hl (Nat.mod_lt _ (by decide))
  generalize vacDoneWord v (msField s 0x813 24 24) = x at he h0 h1 h24
  have hd := logEvent_device (msPut u 0x813 x) 6 l
  have hr : msRaw (vacFinish s v) 0x813 = x := by
    rw [he, msRaw_of_device hd (by decide), msRaw_msPut, if_pos rfl]
  refine ⟨?_, ?_, ?_, ?_⟩
  · have h : (logEvent (msPut u 0x813 x) 6 l).vacate = (msPut u 0x813 x).vacate := vacate_of_device hd
    rw [he, h, msPut_vacate, hu]
  · rw [msField, hr, h0]
  · rw [msField, hr, h1]
  · rw [msField, hr, h24]

end Sys2Proof.Machine

namespace Sys2Proof.Machine

/-! The steps of a vacate after its saves (R344 to R347). -/

section Rehome

variable {s : State} {v : Vacate} (hl : s.lowVac = none) (hv : s.vacate = some v)

theorem rehomePhase_held (hh : hashHeld s = true) : exec .rehomePhase s = .next s := congrArg Host.Outcome.next (if_pos hh)

include hl hv

theorem exec_rehomePhase (hh : hashHeld s = false) : exec .rehomePhase s = .next
    (if v.phase < 3 && rehomeReady s v && textFree s (rehomeTexts s v) then vacPhase (rehome s v false) 3 else s) := by
  have hx : exec .rehomePhase s = execRehomePhase s := rfl
  rw [hx, execRehomePhase, hh, if_neg Bool.false_ne_true, hl]
  dsimp only
  rw [hv]

theorem rehomePhase_waits (h : rehomeReady s v = false ∨ textFree s (rehomeTexts s v) = false) : exec .rehomePhase s = .next s := by
  cases hh : hashHeld s with
  | true => exact rehomePhase_held hh
  | false =>
    rw [exec_rehomePhase hl hv hh, if_neg]
    rcases h with h | h <;> simp [h]

theorem rehomePhase_moves (hh : hashHeld s = false) (hp : v.phase < 3) (hr : rehomeReady s v = true) (ht : textFree s (rehomeTexts s v) = true) :
    ∃ t w, exec .rehomePhase s = .next t ∧ t.vacate = some w ∧ w.phase = 3 ∧ w.bays = v.bays ∧ msField t 0x813 8 3 = 3 := by
  have hv' : (rehome s v false).vacate = some v := (vacate_of_device (rehome_device s v false)).trans hv
  refine ⟨_, { v with phase := 3 }, (exec_rehomePhase hl hv hh).trans (congrArg Host.Outcome.next (if_pos ?_)), vacPhase_vacate hv' 3, rfl, rfl,
    vacPhase_field hv' (by decide)⟩
  rw [hr, ht, decide_eq_true hp]
  rfl

theorem exec_foldPhase : exec .foldPhase s = .next
    (if v.phase = 3 then foldAll (vacPhase s 4) v else if v.phase = 4 then vacDone (vacPhase s 5) else vacDone s) := by
  have hx : exec .foldPhase s = execFoldPhase s := rfl
  rw [hx, execFoldPhase, hl]
  dsimp only
  rw [hv]

theorem foldPhase_folds (hp : v.phase = 3) :
    ∃ t w, exec .foldPhase s = .next t ∧ t.vacate = some w ∧ w.phase = 4 ∧ w.bays = v.bays ∧ msField t 0x813 8 3 = 4 := by
  refine ⟨_, { v with phase := 4 }, (exec_foldPhase hl hv).trans (congrArg Host.Outcome.next (if_pos hp)), ?_, rfl, rfl, ?_⟩
  · exact (vacate_of_device (foldAll_device ..)).trans (vacPhase_vacate hv 4)
  · exact (msField_of_device (foldAll_device ..) (by decide) 8 3).trans (vacPhase_field hv (by decide))

end Rehome

theorem vacDone_waits {s : State} {v : Vacate} (hv : s.vacate = some v) (hs : stillSaved s v = true) : vacDone s = s := by
  rw [vacDone, hv]
  dsimp only
  rw [hs]
  exact if_neg (by simp)

theorem vacDone_ends {s : State} {v : Vacate} (hv : s.vacate = some v) (h4 : 4 ≤ v.phase) (hs : stillSaved s v = false) (hh : s.vacHeld = none) :
    vacDone s = vacFinish s v := by
  rw [vacDone, hv]
  dsimp only
  rw [hs, hh]
  exact if_pos (by simp [h4])

section Fold

variable {s : State} {v : Vacate} (hl : s.lowVac = none) (hv : s.vacate = some v)
include hl hv

theorem foldPhase_waits (hp : v.phase = 4) (hs : stillSaved s v = true) :
    ∃ t w, exec .foldPhase s = .next t ∧ t.vacate = some w ∧ w.phase = 5 ∧ w.bays = v.bays ∧ t.mem = s.mem := by
  have hd : vacDone (vacPhase s 5) = vacPhase s 5 := vacDone_waits (vacPhase_vacate hv 5) ((vacPhase_stillSaved s v 5).trans hs)
  refine ⟨vacPhase s 5, { v with phase := 5 }, ?_, vacPhase_vacate hv 5, rfl, rfl, (vacPhase_memory s 5).1⟩
  rw [exec_foldPhase hl hv, if_neg (by omega), if_pos hp, hd]

theorem foldPhase_ends (hp : v.phase = 4 ∨ v.phase = 5) (hs : stillSaved s v = false) (hh : s.vacHeld = none) (hb : v.bays.length < 256) :
    ∃ t, exec .foldPhase s = .next t ∧ t.vacate = none ∧ msField t 0x813 0 1 = 0 ∧ msField t 0x813 1 1 = 1 ∧
      msField t 0x813 24 24 = msField s 0x813 24 24 := by
  rcases hp with hp | hp
  · have hh' : (vacPhase s 5).vacHeld = none := by
      rw [vacPhase_eq hv, msSetField_keeps State.vacHeld fun _ _ _ => rfl]
      exact hh
    have hd : vacDone (vacPhase s 5) = vacFinish (vacPhase s 5) { v with phase := 5 } :=
      vacDone_ends (vacPhase_vacate hv 5) (by simp) ((vacPhase_stillSaved s v 5).trans hs) hh'
    obtain ⟨h1, h2, h3, h4⟩ := vacFinish_ends (v := { v with phase := 5 }) hh' hb
    refine ⟨vacFinish (vacPhase s 5) { v with phase := 5 }, ?_, h1, h2, h3, h4.trans (vacPhase_otherField hv 5 (.inr (by decide)) (by decide))⟩
    rw [exec_foldPhase hl hv, if_neg (by omega), if_pos hp, hd]
  · refine ⟨vacFinish s v, ?_, vacFinish_ends hh hb⟩
    rw [exec_foldPhase hl hv, if_neg (by omega), if_neg (by omega), vacDone_ends hv (by omega) hs hh]

end Fold

end Sys2Proof.Machine

namespace Sys2Proof.Machine

/-! The image of a saved thread (Table 15.3). -/

theorem find_none_of_keys {α : Type} {m : Map α} {k : Nat} (h : ∀ e ∈ m, e.1 ≠ k) : find k m = none := by
  induction m with
  | nil => rfl
  | cons e m ih =>
    obtain ⟨j, a⟩ := e
    rw [find, if_neg fun hk => h (j, a) List.mem_cons_self hk.symm]
    exact ih fun e he => h e (List.mem_cons_of_mem _ he)

theorem find_filter {α : Type} (p : Nat × α → Bool) {m : Map α} (hm : m.Pairwise (fun x y => x.1 < y.1)) (k : Nat) :
    find k (m.filter p) = (find k m).filter (fun a => p (k, a)) := by
  induction m with
  | nil => rfl
  | cons e m ih =>
    obtain ⟨j, a⟩ := e
    obtain ⟨hj, hm⟩ := List.pairwise_cons.mp hm
    have ih := ih hm
    by_cases hk : k = j
    · subst hk
      have hn : find k (m.filter p) = none :=
        find_none_of_keys fun e he => (Nat.ne_of_lt (hj e (List.mem_of_mem_filter he))).symm
      by_cases hp : p (k, a) = true
      · rw [List.filter_cons_of_pos hp, find, find, if_pos rfl, if_pos rfl, Option.filter_some, if_pos hp]
      · rw [List.filter_cons_of_neg hp, hn, find, if_pos rfl, Option.filter_some, if_neg hp]
    · by_cases hp : p (j, a) = true
      · rw [List.filter_cons_of_pos hp, find, find, if_neg hk, if_neg hk, ih]
      · rw [List.filter_cons_of_neg hp, ih, find, if_neg hk]

theorem zip_upTo_sorted {α : Type} (l : List α) : ((upTo l.length).zip l).Pairwise (fun x y => x.1 < y.1) := by
  rw [← List.pairwise_map (f := Prod.fst) (R := fun x y => x < y), List.map_fst_zip (by simp [upTo])]
  exact List.pairwise_lt_range

theorem find_zip_upTo {α : Type} (l : List α) (i : Nat) : find i ((upTo l.length).zip l) = l[i]? := by
  have h (a i : Nat) (l : List α) : find (a + i) ((List.range' a l.length).zip l) = l[i]? := by
    induction l generalizing a i with
    | nil => rfl
    | cons b l ih =>
      rw [List.length_cons, List.range'_succ, List.zip_cons_cons, find]
      cases i with
      | zero => exact if_pos rfl
      | succ i =>
        have he : a + (i + 1) = a + 1 + i := by omega
        rw [if_neg (by omega), he, ih]
        rfl
  have := h 0 i l
  rwa [Nat.zero_add, ← List.range_eq_range'] at this

/-- What a listed map holds of a key other than 0, where 0 is left out. -/
theorem getD_listed_filter {α : Type} [DecidableEq α] (d : α) (l : List α) {i : Nat} (hi : i ≠ 0) :
    getD d i ((listed d l).filter (fun e => e.1 != 0)) = l[i]?.getD d := by
  rw [listed, List.filter_filter, getD, find_filter _ (zip_upTo_sorted l), find_zip_upTo]
  cases l[i]? with
  | none => rfl
  | some a =>
    rw [Option.filter_some]
    by_cases ha : a = d
    · subst ha
      simp
    · simp [ha, hi]

theorem splitTable_getElem? (w : Nat) {n i : Nat} (hi : i < n) (l : List Byte) : (splitTable w n l)[i]? = some ((l.drop (w * i)).take w) := by
  induction n generalizing i l with
  | zero => exact absurd hi (Nat.not_lt_zero i)
  | succ n ih =>
    cases i with
    | zero => rfl
    | succ i =>
      rw [splitTable, List.getElem?_cons_succ, ih (Nat.lt_of_succ_lt_succ hi), List.drop_drop, Nat.mul_succ, Nat.add_comm w]

theorem splitFlags_length (w n : Nat) (l : List Bool) : (Stored.cells.splitFlags w n l).length = n := by
  induction n generalizing l with
  | zero => rfl
  | succ n ih => rw [Stored.cells.splitFlags, List.length_cons, ih]

theorem cells_getElem? (x : Stored) (o w : Nat) {n i : Nat} (hi : i < n) : ∃ c, (x.cells o w n)[i]? = some c ∧
    c.bytes = (((x.bytes.drop o).take (w * n)).drop (w * i)).take w := by
  have hb : i < (Stored.cells.splitFlags w n (x.part o (w * n)).bad).length := by
    rw [splitFlags_length]
    exact hi
  refine ⟨⟨(((x.bytes.drop o).take (w * n)).drop (w * i)).take w, (Stored.cells.splitFlags w n (x.part o (w * n)).bad)[i]⟩, ?_, rfl⟩
  have hz : ((splitTable w n (x.part o (w * n)).bytes).zip (Stored.cells.splitFlags w n (x.part o (w * n)).bad))[i]? =
      some ((((x.bytes.drop o).take (w * n)).drop (w * i)).take w, (Stored.cells.splitFlags w n (x.part o (w * n)).bad)[i]) :=
    List.getElem?_zip_eq_some.mpr ⟨splitTable_getElem? w hi _, List.getElem?_eq_getElem hb⟩
  rw [Stored.cells, List.getElem?_map, hz]
  rfl

theorem readBytes_part (s : State) (a : Nat) {m o n : Nat} (h : o + n ≤ m) (r : List Byte) :
    ((readBytes s a m ++ r).drop o).take n = readBytes s (a + o) n := by
  rw [readBytes_eq, readBytes_eq]
  refine List.ext_getElem ?_ fun i h1 h2 => ?_
  · simp only [List.length_take, List.length_drop, List.length_append, List.length_map, List.length_range]
    omega
  · simp only [List.length_map, List.length_range] at h2
    simp only [List.getElem_take, List.getElem_drop]
    rw [List.getElem_append_left (by simp only [List.length_map, List.length_range]; omega)]
    simp only [List.getElem_map, List.getElem_range, Nat.add_assoc]

theorem leNat_append (l r : List Byte) : leNat (l ++ r) = leNat l + 256 ^ l.length * leNat r := by
  induction l with
  | nil => simp [leNat]
  | cons b l ih =>
    rw [List.cons_append, leNat, leNat, ih, List.length_cons, Nat.pow_succ, Nat.mul_comm _ 256, Nat.mul_add, Nat.mul_assoc, Nat.add_assoc]

theorem readLe_split (s : State) (a m n : Nat) : readLe s a (m + n) = readLe s a m + 256 ^ m * readLe s (a + m) n := by
  have hb : readBytes s a (m + n) = readBytes s a m ++ readBytes s (a + m) n := by
    simp only [readBytes_eq, List.range_add, List.map_append, List.map_map]
    congr 1
    exact List.map_congr_left fun i _ => by rw [Function.comp_apply, Nat.add_assoc]
  have hl : (readBytes s a m).length = m := by
    rw [readBytes_eq, List.length_map, List.length_range]
  rw [readLe, hb, leNat_append, hl]
  rfl

/-- A number within a longer one. -/
theorem readLe_within (s : State) (a : Nat) {k n r m : Nat} (hm : m ≤ 8 * n) :
    readLe s a (k + (n + r)) / 2 ^ (8 * k) % 2 ^ m = readLe s (a + k) n % 2 ^ m := by
  have h256 (j : Nat) : 256 ^ j = 2 ^ (8 * j) := by
    rw [Nat.pow_mul]
  have hA : readLe s a k < 2 ^ (8 * k) := h256 k ▸ readLe_lt_pow s a k
  have hB : readLe s (a + k) n < 256 ^ n := readLe_lt_pow s (a + k) n
  have hd : 2 ^ m ∣ 256 ^ n := by
    rw [h256]
    exact Nat.pow_dvd_pow 2 hm
  rw [readLe_split, readLe_split, h256 k, Nat.add_mul_div_left _ _ (Nat.two_pow_pos _), Nat.div_eq_of_lt hA, Nat.zero_add,
    ← Nat.mod_mod_of_dvd _ hd, Nat.add_mul_mod_self_left, Nat.mod_eq_of_lt hB]

/-! What the start of an image gives. -/

/-- An image whose first bytes stand in memory. -/
def ImageAt (s : State) (a n : Nat) (x : Stored) : Prop := ∃ r, x.bytes = readBytes s a n ++ r

theorem bits_length (x : Stored) (o n : Nat) (h : o + n ≤ x.bytes.length) : (x.bits o n).length = 8 * n := by
  rw [Stored.bits, Stored.part, List.length_flatMap]
  simp only [List.length_map, upTo, List.length_range]
  rw [List.map_const', List.sum_replicate, List.length_take, List.length_drop, Nat.min_eq_left (by omega), smul_eq_mul, Nat.mul_comm]

section Image

variable {s : State} {a N : Nat} {x : Stored} (hx : ImageAt s a N x)
include hx

theorem field_of_imageAt {o n : Nat} (h : o + n ≤ N) : x.field o n = readLe s (a + o) n := by
  obtain ⟨r, hr⟩ := hx
  rw [Stored.field, Stored.part, hr, readBytes_part s a h]
  rfl

theorem cell_of_imageAt {o w n i : Nat} (h : o + w * n ≤ N) (hi : i < n) :
    ∃ c, (x.cells o w n)[i]? = some c ∧ c.val = readLe s (a + o + w * i) w := by
  obtain ⟨r, hr⟩ := hx
  obtain ⟨c, hc, hb⟩ := cells_getElem? x o w hi
  have hw : w * i + w ≤ w * n := by
    rw [← Nat.mul_succ]
    exact Nat.mul_le_mul_left w hi
  refine ⟨c, hc, ?_⟩
  have hpart := readBytes_part s (a + o) hw []
  rw [List.append_nil] at hpart
  rw [Stored.val, hb, hr, readBytes_part s a h, hpart]
  rfl

theorem header_of_imageAt (hN : 64 ≤ N) : x.header = readLe s a 64 := field_of_imageAt hx (o := 0) (by omega)

theorem fz_of_imageAt (hN : 64 ≤ N) (hz : readLe s (a + 6) 1 / 2 % 2 = 0) : x.fz = false := by
  have h := readLe_within s a (k := 6) (n := 1) (r := 57) (m := 8) (by decide)
  rw [Stored.fz, header_of_imageAt hx hN]
  have h49 : readLe s a 64 / 2 ^ 49 % 2 = 0 := by
    have hdiv : readLe s a 64 / 2 ^ 49 = readLe s a 64 / 2 ^ 48 / 2 := by
      rw [Nat.div_div_eq_div_mul, ← Nat.pow_succ]
    have h48 : readLe s a 64 / 2 ^ 48 % 256 = readLe s (a + 6) 1 % 256 := h
    generalize readLe s a 64 / 2 ^ 48 = y at hdiv h48
    rw [hdiv]
    omega
  rw [h49]
  rfl

theorem pc_of_imageAt (hN : 64 ≤ N) : x.header / 2 ^ 144 % 2 ^ 22 = readLe s (a + 18) 4 % 2 ^ 22 := by
  rw [header_of_imageAt hx hN]
  exact readLe_within s a (k := 18) (n := 4) (r := 42) (m := 22) (by decide)

theorem rdS_of_imageAt (hN : 0x308 ≤ N) (r : Regs) {i : SReg} (hi : i ≠ 0) :
    ((regsOf r x).rdS i).val.toNat = readLe s (a + 0x80 + 8 * i.toNat) 8 := by
  have hlt : i.toNat < 64 := i.isLt
  have h0 : i.toNat ≠ 0 := fun h => hi (BitVec.eq_of_toNat_eq h)
  obtain ⟨c, hc, hv⟩ := cell_of_imageAt hx (o := 0x80) (w := 8) (n := 64) (by omega) hlt
  have hlen : 0x300 + 8 ≤ x.bytes.length := by
    obtain ⟨q, hq⟩ := hx
    rw [hq, List.length_append, readBytes_eq, List.length_map, List.length_range]
    omega
  have hb : i.toNat < (x.bits 0x300 8).length := by
    rw [bits_length x _ _ hlen]
    exact hlt
  have hz : ((x.cells 0x80 8 64).zip (x.bits 0x300 8))[i.toNat]? = some (c, (x.bits 0x300 8)[i.toNat]) :=
    List.getElem?_zip_eq_some.mpr ⟨hc, List.getElem?_eq_getElem hb⟩
  have hs : (regsOf r x).s = (listed SVal.zero (((x.cells 0x80 8 64).zip (x.bits 0x300 8)).map
    (fun e => (⟨BitVec.ofNat 64 e.1.val, e.2 || e.1.dirty⟩ : SVal)))).filter (fun e => e.1 != 0) := rfl
  have hc8 : c.val < 2 ^ 64 := by
    rw [hv]
    exact readLe_lt_pow s _ 8
  rw [Regs.rdS, if_neg hi, hs, getD_listed_filter _ _ h0, List.getElem?_map, hz, Option.map_some, Option.getD_some, BitVec.toNat_ofNat,
    Nat.mod_eq_of_lt hc8, hv]

end Image

end Sys2Proof.Machine

namespace Sys2Proof.Machine

/-! A saved thread is restored (R347). -/

/-- The rest of an image, once its first `n` bytes are read. -/
def imageRest (v : Saved) (n : Nat) (r : State × List Byte × List Bool) : State × Stored :=
  let q := readRange r.1 (v.addr + n) (imageSize (Stored.mx ⟨r.2.1, r.2.2⟩) (Stored.extents ⟨r.2.1, r.2.2⟩) - n) false
  (q.1, ⟨r.2.1 ++ q.2.1, r.2.2 ++ q.2.2⟩)

theorem readImage_eq (s : State) (v : Saved) : readImage s v = imageRest v 0x2E00 (readRange s v.addr 0x2E00 false) := by
  delta readImage
  generalize (0x2E00 : Nat) = n
  rfl

theorem imageRest_found (s : State) (v : Saved) (n : Nat) : ImageAt s v.addr n (imageRest v n (readRange s v.addr n false)).2 ∧
    SameButRead s (imageRest v n (readRange s v.addr n false)).1 := by
  have hsr := readRange_sameButRead s v.addr n false
  obtain ⟨bad, hr⟩ := readRange_found s v.addr n
  rw [hr] at hsr ⊢
  exact ⟨⟨_, rfl⟩, hsr.trans (readRange_sameButRead ..)⟩

theorem readImage_found {s w : State} {v : Saved} {x : Stored} (h : readImage s v = (w, x)) : ImageAt s v.addr 0x2E00 x ∧ SameButRead s w := by
  have hf := imageRest_found s v 0x2E00
  rw [← readImage_eq, h] at hf
  exact hf

/-! What the end of a vacate leaves to the threads. -/

/-- What a step leaves as it is where it changes no thread and no save. -/
def SameThreads (s t : State) : Prop := t.threads = s.threads ∧ t.saved = s.saved

theorem SameThreads.trans {s t u : State} (h : SameThreads s t) (h' : SameThreads t u) : SameThreads s u :=
  ⟨h'.1.trans h.1, h'.2.trans h.2⟩

theorem SameThreads.foldl {β : Type} {f : State → β → State} (hf : ∀ s b, SameThreads s (f s b)) (l : List β) (s : State) :
    SameThreads s (l.foldl f s) :=
  ⟨foldl_keeps State.threads f (fun s b => (hf s b).1) l s, foldl_keeps State.saved f (fun s b => (hf s b).2) l s⟩

theorem SameButRead.sameThreads {s t : State} (h : SameButRead s t) : SameThreads s t := by
  unfold SameButRead at h
  rw [h]
  exact ⟨rfl, rfl⟩

theorem SameButVacate.sameThreads {s t : State} (h : SameButVacate s t) : SameThreads s t := by
  rw [h]
  exact ⟨rfl, rfl⟩

theorem msPut_sameThreads (s : State) (n : Nat) (v : Word) : SameThreads s (msPut s n v) := ⟨rfl, rfl⟩

theorem logEvent_sameThreads (s : State) (k : Nat) (l : List Word) : SameThreads s (logEvent s k l) := by
  rw [logEvent_sameButLog s k l]
  exact ⟨rfl, rfl⟩

theorem vacFinish_sameThreads (s : State) (v : Vacate) : SameThreads s (vacFinish s v) := by
  have hF : ∃ F, vacFinish = F ∧ ∀ s v, ∃ t, F s v = t ∧ SameThreads s t := by
    refine ⟨_, by delta vacFinish; rfl, fun s v => ?_⟩
    beta_reduce
    extract_lets s1 s2 s3 s4
    have h2 : SameThreads s s2 := ⟨rfl, rfl⟩
    have e3 : ∃ w, s3 = msPut s2 0x813 w := ⟨_, rfl⟩
    have e4 : ∃ l, s4 = logEvent s3 6 l := ⟨_, rfl⟩
    clear_value s4 s3 s2
    obtain ⟨l, rfl⟩ := e4
    obtain ⟨w, rfl⟩ := e3
    have h := (h2.trans (msPut_sameThreads s2 0x813 w)).trans (logEvent_sameThreads _ 6 l)
    generalize logEvent _ 6 l = t at h
    split
    · exact ⟨_, rfl, h⟩
    · exact ⟨_, rfl, SameThreads.trans (t := { t with vacHeld := none }) h (vacStart_sameButVacate ..).sameThreads⟩
  obtain ⟨F, rfl, hF⟩ := hF
  obtain ⟨t, ht, h⟩ := hF s v
  rw [ht]
  exact h

theorem vacDone_sameThreads (s : State) : SameThreads s (vacDone s) := by
  unfold vacDone
  split
  · exact ⟨rfl, rfl⟩
  · split_ifs
    · exact vacFinish_sameThreads ..
    · exact ⟨rfl, rfl⟩

theorem vacPhase_sameThreads (s : State) (ph : Nat) : SameThreads s (vacPhase s ph) := by
  unfold vacPhase
  split
  · exact ⟨rfl, rfl⟩
  · exact (msSetField_sameButVacate _ 0x813 8 3 ph).sameThreads

theorem resumePhase_sameThreads (s : State) : SameThreads s (resumePhase s) := by
  unfold resumePhase
  split
  · exact ⟨rfl, rfl⟩
  · split_ifs
    · exact vacPhase_sameThreads ..
    · exact ⟨rfl, rfl⟩

/-! What a restore writes. -/

theorem routerTurn_sameThreads (s : State) (t pa n : Nat) : SameThreads s (routerTurn s t pa n) := ⟨rfl, rfl⟩

theorem updCore_sameThreads (s : State) (t : Nat) (f : Core → Core) : SameThreads s (updCore s t f) := ⟨rfl, rfl⟩

theorem discover_sameThreads (s : State) (pa n : Nat) : SameThreads s (discover s pa n) := by
  have h : SameButErrors s (discover s pa n) := discover_sameButErrors s pa n
  unfold SameButErrors at h
  rw [h]
  exact ⟨rfl, rfl⟩

theorem writeRange_sameThreads (s : State) (pa : Nat) (data : List Byte) (bad : List Bool) : SameThreads s (writeRange s pa data bad) := by
  unfold writeRange
  refine .trans ?_ (.foldl (f := fun s i => setLinePoison s (pa + i) true) (fun _ _ => ⟨rfl, rfl⟩) _ _)
  rw [writeClean_sameButLog s pa]
  exact ⟨rfl, rfl⟩

theorem writeExtent_sameThreads (s : State) (t : Nat) (e : Nat × List Byte × List Bool) : SameThreads s (writeExtent s t e) :=
  (routerTurn_sameThreads s t _ _).trans (writeRange_sameThreads ..)

theorem patchFound_sameThreads (s : State) (sp : Space) (pat : BitVec 256) : SameThreads s (patchFound s sp pat) := by
  unfold patchFound
  split
  · refine .foldl (fun t p => ?_) _ _
    unfold walkFound
    split
    · exact discover_sameThreads ..
    all_goals exact ⟨rfl, rfl⟩
  · exact ⟨rfl, rfl⟩

theorem restoreCmds_sameThreads (s : State) (k : Nat) (th : Thread) (l : List Cmd) : SameThreads s (restoreCmds s k th l) := by
  unfold restoreCmds
  extract_lets t sp
  clear_value sp
  refine .foldl (fun s c => ?_) l s
  exact (patchFound_sameThreads s sp c.pat).trans (updCore_sameThreads ..)

theorem restartCmds_sameThreads (s : State) (t u : Nat) (l : List AFault) : SameThreads s (restartCmds s t u l) := ⟨rfl, rfl⟩

theorem threadAt_wakeTile_ready {s : State} {t k : Nat} {th : Thread} (h : threadAt s k = some th) (hr : th.status = .ready) :
    threadAt (wakeTile s t) k = some th := by
  have hup : ∀ (s : State) (j : Nat), threadAt s k = some th → threadAt (setStatus s j .ready) k = some th := by
    intro s j h
    rw [setStatus, threadAt_updThread]
    split_ifs with hj
    · rw [← hj, h]
      exact congrArg some (by rw [← hr])
    · exact h
  unfold wakeTile
  generalize threadsOn s t = l
  induction l generalizing s with
  | nil => exact h
  | cons e l ih =>
    refine ih ?_
    dsimp only
    split
    · exact hup s _ h
    · exact h

end Sys2Proof.Machine

namespace Sys2Proof.Machine

/-! A thread that its image does not freeze resumes as its image is (R347). -/

theorem resumeThread_fields {s : State} {k : Nat} {th : Thread} (ht : threadAt s k = some th) (hh : th.held = []) (pc : Word) : ∃ v,
    threadAt (resumeThread s k pc) k = some v ∧ v.uid = th.uid ∧ v.status = .ready ∧ v.regs = th.regs ∧ v.pc = pc ∧ v.fault = none ∧
      (resumeThread s k pc).saved = s.saved := by
  unfold resumeThread
  rw [ht]
  dsimp only
  rw [hh]
  exact ⟨_, (threadAt_setThread s k k _).trans (if_pos rfl), rfl, rfl, rfl, rfl, rfl, rfl⟩

theorem restoreInto_resumes (s : State) (k : Nat) {v : Saved} {x : Stored} (hz : x.fz = false) (hh : v.th.held = []) : ∃ th,
    threadAt (restoreInto s k v x) k = some th ∧ th.uid = v.th.uid ∧ th.status = .ready ∧ th.regs = (threadOf v.th x).regs ∧
      th.pc = (threadOf v.th x).pc ∧ th.fault = none ∧ ∀ y ∈ (restoreInto s k v x).saved, y.th.uid ≠ v.th.uid := by
  unfold restoreInto
  extract_lets t cmds got th s1 s2 f s3 s4 s5 s6
  have h1 : threadAt s1 k = some th := (threadAt_setThread ..).trans (if_pos rfl)
  have h4 : SameThreads s1 s4 := ((SameThreads.foldl (fun s e => writeExtent_sameThreads s t e) _ s1).trans (updCore_sameThreads s2 t _)).trans
    (restoreCmds_sameThreads s3 k th cmds)
  have h5 : threadAt s5 k = some th := by
    rw [← h1, threadAt, threadAt]
    exact congrArg (find k) h4.1
  have hs5 : ∀ y ∈ s5.saved, y.th.uid ≠ v.th.uid := fun y hy => by
    have huid : th.uid = v.th.uid := rfl
    rw [← huid]
    simpa using (List.mem_filter.mp hy).2
  have h6 : s6 = updThread (resumeThread s5 k th.pc) k (fun x => { x with pass := th.pass }) := if_neg (by rw [hz]; exact Bool.false_ne_true)
  have hheld : th.held = [] := hh
  obtain ⟨r, hr, huid, hst, hregs, hpc, hfault, hrs⟩ := resumeThread_fields h5 hheld th.pc
  have ht6 : threadAt s6 k = some { r with pass := th.pass } := by
    rw [h6, threadAt_updThread, if_pos rfl, hr]
    rfl
  have hw := threadAt_wakeTile_ready (t := t) ht6 hst
  have hd := vacDone_sameThreads (wakeTile s6 t)
  have hs6 : s6.saved = s5.saved := by
    rw [h6, ← hrs]
    unfold updThread
    split <;> rfl
  refine ⟨{ r with pass := th.pass }, ?_, huid, hst, hregs, hpc, hfault, ?_⟩
  · rw [threadAt, hd.1]
    exact hw
  · rw [hd.2, wakeTile_saved, hs6]
    exact hs5

section Restore

variable {s w : State} {u k : Nat} {v : Saved} {x : Stored} (hf : s.saved.find? (fun v => v.th.uid == u && v.complete) = some v)
  (hk : keyOfUid s u = some k) (ht : v.to_ = some (tileOf k)) (hx : readImage s v = (w, x))
  (hr : cmdRoom s (tileOf k) (cmdsOfImage v.cmds x) = true) (hi : inRegion s (tileOf k) = false) (hs : stackReady s v.addr = true)
  (he : extentsFree s (tileOf k) x.extents = true)
include hf hk ht hx hr hi hs he

theorem exec_restoreThread : exec (.restoreThread u) s = .next (restoreInto (resumePhase w) k v x) := by
  have hx' : exec (.restoreThread u) s = execRestoreThread u s := rfl
  rw [hx', execRestoreThread, hf, hk]
  dsimp only
  rw [hx]
  dsimp only
  rw [ht, hr, hi, hs, he]
  exact congrArg Host.Outcome.next (if_pos (by simp))

theorem restoreThread_restores (hz : readLe s (v.addr + 6) 1 / 2 % 2 = 0) (hh : v.th.held = []) :
    ∃ t th, exec (.restoreThread u) s = .next t ∧ threadAt t k = some th ∧ th.uid = v.th.uid ∧ th.status = .ready ∧
      th.regs = (threadOf v.th x).regs ∧ th.pc.toNat = readLe s (v.addr + 18) 4 % 2 ^ 22 ∧ th.fault = none ∧
      (∀ i : SReg, i ≠ 0 → (th.regs.rdS i).val.toNat = readLe s (v.addr + 0x80 + 8 * i.toNat) 8) ∧
      ∀ y ∈ t.saved, y.th.uid ≠ v.th.uid := by
  have himg := (readImage_found hx).1
  obtain ⟨th, h1, h2, h3, h4, h5, h6, h7⟩ := restoreInto_resumes (resumePhase w) k (v := v) (fz_of_imageAt himg (by decide) hz) hh
  refine ⟨_, th, exec_restoreThread hf hk ht hx hr hi hs he, h1, h2, h3, h4, ?_, h6, fun i hi => ?_, h7⟩
  · have hpc : (threadOf v.th x).pc = BitVec.ofNat 64 (x.header / 2 ^ 144 % 2 ^ 22) := rfl
    rw [h5, hpc, pc_of_imageAt himg (by decide), BitVec.toNat_ofNat]
    exact Nat.mod_eq_of_lt (Nat.lt_trans (Nat.mod_lt _ (by decide)) (by decide))
  · have hreg : (threadOf v.th x).regs.rdS i = (regsOf v.th.regs x).rdS i := rfl
    rw [h4, hreg, rdS_of_imageAt himg (by decide) _ hi]

end Restore

/-- Settles O57: a request is what its register keeps of it, a phase changes nothing that a later one reads but its own number, and an
image is read back field by field. -/
theorem vacateSteps : Obligations.VacateSteps := by
  unfold Obligations.VacateSteps
  refine ⟨?_, ?_, ?_, ?_, ?_, ?_⟩
  · intro s v host u f bs wrong
    have hv : vacCheck u ⟨bs, if f 22 1 = 1 then bs else [], [], f 16 3, 1, [], [], []⟩ =
      vacCheck u ⟨vacBays v, vacGates v, [], vacWord v 16 3, 1, [], [], []⟩ := rfl
    refine ⟨fun h => ?_, fun h1 hw hh => vacateRequest_asked h1 hw hh, fun h1 hw hh hn ho => vacateRequest_outside h1 hw hh hn ho,
      fun h1 hw hh hn ho r hc => ?_, fun h1 hw hh hn ho hc => ?_, fun r h1 hw hh hn hp ho h3 hc => ?_,
      fun h2 hw hn ho => vacateRelease_admits h2 hw hn ho, fun h2 hn hw => vacateRelease_busy h2 hw hn⟩
    · have h' : vacWord v 20 2 = 0 ∨ vacWord v 20 2 = 3 ∨ (vacWord v 20 2 = 1 ∧
        (vacWord v 8 4 < vacWord v 0 4 ∨ vacWord v 12 4 < vacWord v 4 4)) := h
      exact vacateRequest_wrong (by omega) (by rw [vacWrong]; omega)
    · exact (vacateRequest_starts h1 hw hh hn ho).trans (congrArg _ (vacStart_checked.1 r hc))
    · obtain ⟨w, h⟩ := vacAccept_starts u (vacBays v) (vacGates v) (vacWord v 16 3)
      exact ⟨_, w, (vacateRequest_starts h1 hw hh hn ho).trans (congrArg _ (vacStart_checked.2 hc)), h⟩
    · obtain ⟨w, h⟩ := vacMerge_joins u (v := r) (bs := vacBays v) (gb := vacGates v) (p := vacWord v 16 3) hc
      exact ⟨_, w, vacateRequest_merges h1 hw hh hn hp ho h3, h⟩
  · intro s v g c t w hv hg he hw
    exact ⟨graceExpiry_early hv hg he hw, graceExpiry_expires hv hg he hw⟩
  · intro s k b th ht hn hs hq hi hb
    exact threadSave_begins ht hn hs hq hi hb
  · intro s u k th v hf hk ht hu hi hc hr he
    exact saveComplete_ends hf hk ht hi hc hr he hu
  · intro s v hl hv
    exact ⟨rehomePhase_held, fun hh hp hr ht => rehomePhase_moves hl hv hh hp hr ht, fun _ h => rehomePhase_waits hl hv h,
      foldPhase_folds hl hv, foldPhase_waits hl hv, foldPhase_ends hl hv⟩
  · intro s w u k v x hf hk ht hx hr hi hs he hz hh
    exact restoreThread_restores hf hk ht hx hr hi hs he hz hh

end Sys2Proof.Machine

namespace Sys2Proof.Machine

/-! What a home holds (R75, R76). -/

theorem updHome_names (s : State) (n : Name) {f : HomeE → HomeE} (hf : ∀ h, (f h).pub.name = h.pub.name) :
    (updHome s n f).homes.map (fun h => h.pub.name) = s.homes.map (fun h => h.pub.name) := by
  rw [updHome, List.map_map]
  refine List.map_congr_left fun h _ => ?_
  rw [Function.comp_apply]
  split_ifs
  · exact hf h
  · rfl

theorem makeRoom_names (t n fuel : Nat) (s : State) :
    (makeRoom t n fuel s).homes.map (fun h => h.pub.name) = s.homes.map (fun h => h.pub.name) := by
  induction fuel generalizing s with
  | zero => rfl
  | succ fuel ih =>
    unfold makeRoom
    split
    · rfl
    · split
      · exact ih _
      · dsimp only
        split
        · rfl
        · refine (ih _).trans (updHome_names s _ ?_)
          exact fun h => rfl

theorem heldAt_eq_none {s : State} {n : Name} : heldAt s n = none ↔ n ∉ s.homes.map (fun h => h.pub.name) := by
  rw [heldAt, List.find?_eq_none]
  simp

theorem heldAt_updHome (s : State) (n k : Name) {f : HomeE → HomeE} (hf : ∀ h, (f h).pub.name = h.pub.name) :
    heldAt (updHome s n f) k = (heldAt s k).map (fun h => if h.pub.name == n then f h else h) := by
  rw [heldAt, updHome, List.find?_map, heldAt]
  congr 1
  refine congrArg (fun p => s.homes.find? p) (funext fun h => ?_)
  rw [Function.comp_apply]
  split_ifs
  · rw [hf]
  · rfl

theorem readCopy_of_clean {s : State} {t : Nat} {p : Pub} (h : ∀ i, isStruck s (.block t p.name i) = false) : readCopy s t p = p := by
  have hf (l : List Nat) (m : Word) : l.foldl (fun m i => if isStruck s (.block t p.name i) then m ||| (1#64 <<< i) else m) m = m := by
    induction l with
    | nil => rfl
    | cons i l ih => rw [List.foldl_cons, if_neg (by rw [h i]; exact Bool.false_ne_true), ih]
  rw [readCopy, hf]

theorem isStruck_freshCopy (s : State) (t : Nat) (n : Name) (i : Nat) : isStruck (freshCopy s t n) (.block t n i) = false := by
  refine List.any_eq_false.mpr fun e he => ?_
  obtain ⟨_, hk⟩ := List.mem_filter.mp he
  by_cases hb : e.2 = .block t n i
  · rw [hb] at hk
    simp only [beq_self_eq_true, Bool.and_self, Bool.true_and, Bool.not_eq_true'] at hk
    have hk' : decide ((freshCopy s t n).sched.length ≤ e.1) = false := hk
    simp [hk']
  · simp [hb]

/-! Going down the tree of a name leaves what homes hold and what is struck. -/

/-- What a step leaves as it is where it changes no home and finds no error. -/
structure SameHomes (s t : State) : Prop where
  homes : t.homes = s.homes
  struck : t.struck = s.struck
  sched : t.sched = s.sched

theorem SameHomes.trans {s t u : State} (h : SameHomes s t) (h' : SameHomes t u) : SameHomes s u :=
  ⟨h'.homes.trans h.homes, h'.struck.trans h.struck, h'.sched.trans h.sched⟩

theorem SameHomes.foldl {β : Type} {f : State → β → State} (hf : ∀ s b, SameHomes s (f s b)) (l : List β) (s : State) :
    SameHomes s (l.foldl f s) :=
  ⟨foldl_keeps State.homes f (fun s b => (hf s b).homes) l s, foldl_keeps State.struck f (fun s b => (hf s b).struck) l s,
    foldl_keeps State.sched f (fun s b => (hf s b).sched) l s⟩

theorem SameHomes.isStruck {s t : State} (h : SameHomes s t) (x : Struck) : isStruck t x = isStruck s x := by
  rw [Machine.isStruck, Machine.isStruck, h.struck, h.sched]

theorem SameHomes.heldAt {s t : State} (h : SameHomes s t) (n : Name) : heldAt t n = heldAt s n := by
  rw [Machine.heldAt, Machine.heldAt, h.homes]

theorem reportScope_sameHomes (s : State) (q : Sub) : SameHomes s (reportScope s q) := by
  unfold reportScope
  split
  · exact ⟨rfl, rfl, rfl⟩
  · unfold updOwner
    split
    · unfold updThread
      split <;> exact ⟨rfl, rfl, rfl⟩
    · exact ⟨rfl, rfl, rfl⟩
  · exact ⟨rfl, rfl, rfl⟩

theorem freeSubs_sameHomes (s : State) (l : List Sub) : SameHomes s (freeSubs s l) := by
  exact .foldl (f := fun s q => freeKey s q.key q.routers) (fun _ _ => ⟨rfl, rfl, rfl⟩) l s

theorem sendDown_sameHomes (s : State) (h : HomeE) : SameHomes s (sendDown s h) := by
  unfold sendDown
  extract_lets p mine bad ok s1 direct below tree gone left s2
  exact (SameHomes.foldl reportScope_sameHomes bad s).trans (.trans (t := s2) ⟨rfl, rfl, rfl⟩ (freeSubs_sameHomes ..))

/-- Retiring a publication leaves it as it is, where no error struck it. -/
theorem heldAt_retireDone {s : State} {h : HomeE} (hh : heldAt s h.pub.name = some h) (hs : ∀ i, isStruck s (.block h.site h.pub.name i) = false) :
    ∃ pl, heldAt (retireDone s h.pub.name) h.pub.name = some { h with place := pl } := by
  unfold retireDone
  rw [hh]
  dsimp only
  split_ifs
  · refine ⟨retirePlace s h.site h.pub, ?_⟩
    rw [heldAt_updHome s _ _ (by exact fun _ => rfl), hh, Option.map_some, beq_self_eq_true, if_pos rfl, readCopy_of_clean hs]
  · exact ⟨h.place, hh⟩

theorem homeKeep_first {s : State} {p : Pub} (t src stage : Nat) (hn : heldAt s p.name = none) :
    ∃ pl, heldAt (homeKeep s p t src stage) p.name = some ⟨p, stage, t, src, pl, 0, []⟩ := by
  unfold homeKeep
  rw [hn]
  dsimp only
  rw [if_neg (by simp)]
  have hr : heldAt (freshCopy (makeRoom t p.size (cacheItems s t) s) t p.name) p.name = none := by
    rw [heldAt_eq_none] at hn ⊢
    rw [← makeRoom_names t p.size (cacheItems s t) s] at hn
    exact hn
  have hst := isStruck_freshCopy (makeRoom t p.size (cacheItems s t) s) t p.name
  generalize freshCopy (makeRoom t p.size (cacheItems s t) s) t p.name = u at hr hst
  generalize he : (⟨p, stage, t, src, .cache, 0, []⟩ : HomeE) = e
  have hd := sendDown_sameHomes { u with homes := u.homes ++ [e] } e
  have hp : e.pub = p := by rw [← he]
  have hsite : e.site = t := by rw [← he]
  have hheld : heldAt (sendDown { u with homes := u.homes ++ [e] } e) p.name = some e := by
    rw [hd.heldAt, heldAt, List.find?_append, ← heldAt, hr, Option.none_or, List.find?_cons_of_pos (by rw [hp, beq_self_eq_true])]
  have hclean (i : Nat) : isStruck (sendDown { u with homes := u.homes ++ [e] } e) (.block e.site e.pub.name i) = false := by
    rw [hd.isStruck, hp, hsite]
    exact hst i
  generalize sendDown { u with homes := u.homes ++ [e] } e = w at hheld hclean
  rw [← hp] at hheld ⊢
  obtain ⟨pl, h⟩ := heldAt_retireDone hheld hclean
  refine ⟨pl, ?_⟩
  rw [h, ← he]

/-! A publication arrives (R65, R66, R75). -/

theorem tilePublish_holds (s : State) (p : Pub) (t stage : Nat) :
    (∃ q ∈ (coreAt (tilePublish s p t stage) t).tilePubs, q.1.name = p.name) ∧
      ((∀ q ∈ (coreAt s t).tilePubs, q.1.name ≠ p.name) → (p, stage) ∈ (coreAt (tilePublish s p t stage) t).tilePubs) := by
  unfold tilePublish
  split_ifs with h
  · obtain ⟨q, hq, hn⟩ := List.any_eq_true.mp h
    have hn' : q.1.name = p.name := by simpa using hn
    exact ⟨⟨q, hq, hn'⟩, fun hno => absurd hn' (hno q hq)⟩
  · extract_lets s1 s2
    have h2 : (coreAt s2 t).tilePubs = (coreAt s1 t).tilePubs ++ [(p, stage)] :=
      congrArg Core.tilePubs (coreAt_updCore s1 t (fun c => { c with tilePubs := c.tilePubs ++ [(p, stage)] }))
    have hm : (p, stage) ∈ (coreAt s2 t).tilePubs := by
      rw [h2]
      exact List.mem_append_right _ List.mem_cons_self
    exact ⟨⟨(p, stage), hm, rfl⟩, fun _ => hm⟩

section Arrival

variable {s : State} {i t u scp stage : Nat} {p : Pub} {after : List Nat} (hm : s.net[i]? = some (.pub p t u after scp stage))
include hm

theorem publicationArrival_held (hp : p.scope ≠ 0) (hh : hashHeld s = true) (hs : stagePast s p.name stage = false) :
    exec (.publicationArrival i) s = .next s := by
  have hx : exec (.publicationArrival i) s = execPublicationArrival i s := rfl
  rw [hx, execPublicationArrival, hm]
  dsimp only
  rw [hs, hh]
  by_cases hw : (after.any (stillOpen s scp) || !inOrder s i) = true
  · exact congrArg Host.Outcome.next (if_pos hw)
  · exact congrArg Host.Outcome.next ((if_neg hw).trans ((if_neg Bool.false_ne_true).trans ((if_neg hp).trans (if_pos rfl))))

variable (ha : after.any (stillOpen s scp) = false) (ho : inOrder s i = true)
include ha ho

theorem publicationArrival_late (hs : stagePast s p.name stage = true) : exec (.publicationArrival i) s = .next (takeMsg s i) := by
  have hx : exec (.publicationArrival i) s = execPublicationArrival i s := rfl
  rw [hx, execPublicationArrival, hm]
  dsimp only
  rw [ha, ho, hs]
  rfl

variable (hs : stagePast s p.name stage = false)
include hs

theorem publicationArrival_tile (hp : p.scope = 0) : exec (.publicationArrival i) s = .next (tilePublish (takeMsg s i) p t stage) := by
  have hx : exec (.publicationArrival i) s = execPublicationArrival i s := rfl
  rw [hx, execPublicationArrival, hm]
  dsimp only
  rw [ha, ho, hs]
  exact congrArg Host.Outcome.next (if_pos hp)

theorem publicationArrival_home (hp : p.scope ≠ 0) (hh : hashHeld s = false) {h : Nat} (hn : homeNow s p.name = some h)
    (hc : carried s t h = true) : exec (.publicationArrival i) s = .next (homeKeep (takeMsg s i) p h t stage) := by
  have hx : exec (.publicationArrival i) s = execPublicationArrival i s := rfl
  rw [hx, execPublicationArrival, hm]
  dsimp only
  rw [ha, ho, hs, hh, hn]
  exact congrArg Host.Outcome.next ((if_neg hp).trans (if_pos hc))

end Arrival

theorem homeKeep_held {s : State} {p : Pub} (t src stage : Nat) (h : heldAt s p.name ≠ none) : homeKeep s p t src stage = s :=
  if_pos (Option.isSome_iff_ne_none.mpr h)

theorem of_stagePast {s : State} {c st : Nat} {g : Graph} {n : Name} (hg : graphAt s c = some g) (hn : nameCtx n = c)
    (h : stagePast s n st = true) : st < g.stage ∧ nameTid n < 0xFF0000 ∧ ∀ j, st < j → ∀ im, g.image = some im → j < im.stages.length →
      ∀ e ∈ stageTmpls g j, ∀ d ∈ e.2.subs, d.tid ≠ nameTid n := by
  rw [stagePast, hn, hg, Option.any_some] at h
  simp only [Bool.and_eq_true, decide_eq_true_eq, Bool.not_eq_true'] at h
  obtain ⟨⟨h1, h2⟩, h3⟩ := h
  refine ⟨h1, h2, fun j hj im hi hl e he d hd hdn => ?_⟩
  have hsub : laterSubscribes g st n = true := by
    refine List.any_eq_true.mpr ⟨j, mem_upTo.mpr (by rw [hi]; exact hl), ?_⟩
    rw [Bool.and_eq_true]
    exact ⟨decide_eq_true hj, List.any_eq_true.mpr ⟨e, he, List.any_eq_true.mpr ⟨d, hd, by rw [hdn, beq_self_eq_true]⟩⟩⟩
  rw [h3] at hsub
  exact Bool.false_ne_true hsub

end Sys2Proof.Machine

namespace Sys2Proof.Machine

/-! A subscription arrives (R73 to R75, R77). -/

section Subscription

variable {s : State} {i h : Nat} {q : Sub} (hm : s.net[i]? = some (.sub q))
include hm

theorem subscriptionArrival_held (hh : hashHeld s = true) : exec (.subscriptionArrival i) s = .next s := by
  have hx : exec (.subscriptionArrival i) s = execSubscriptionArrival i s := rfl
  rw [hx, execSubscriptionArrival, hm]
  exact congrArg Host.Outcome.next (if_pos (by rw [hh, Bool.or_true]))

variable (ho : inOrder s i = true) (hh : hashHeld s = false) (hn : homeNow s q.name = some h) (hc : carried s q.tile h = true)
include ho hh hn hc

/-- What a subscription does that reaches its home: the copies on its way answer it, or the home does. -/
theorem exec_subscriptionArrival :
    let u := takeMsg s i
    let path := subRoute u q.tile h
    let met := (cachedFor u q path).filter (fun x => !q.seen.contains x.1.name)
    exec (.subscriptionArrival i) s = .next (if q.of_ != .template then
        (match met with
        | p :: _ => { u with net := u.net ++ [.deliver p.1 q.tile q.of_ p.2] }
        | [] => homeAnswer u q path)
      else homeAnswer { u with net := u.net ++ (if q.anyIter then met else []).map (fun x => Msg.deliver x.1 q.tile q.of_ x.2) }
        { q with seen := q.seen ++ (if q.anyIter then met else []).map (fun x => x.1.name) } path) := by
  have hx : exec (.subscriptionArrival i) s = execSubscriptionArrival i s := rfl
  intro u path met
  rw [hx, execSubscriptionArrival, hm]
  dsimp only
  rw [ho, hh, hn]
  exact congrArg Host.Outcome.next ((if_neg (by decide)).trans (if_neg (by rw [hc]; exact Bool.false_ne_true)))

theorem subscriptionArrival_answered :
    let u := takeMsg s i
    let path := subRoute u q.tile h
    let met := (cachedFor u q path).filter (fun x => !q.seen.contains x.1.name)
    (q.of_ ≠ .template → ∀ p r l, met = (p, r) :: l →
      exec (.subscriptionArrival i) s = .next { u with net := u.net ++ [.deliver p q.tile q.of_ r] }) ∧
    (q.of_ = .template → q.anyIter = true → exec (.subscriptionArrival i) s =
      .next (homeAnswer { u with net := u.net ++ met.map (fun x => Msg.deliver x.1 q.tile q.of_ x.2) }
        { q with seen := q.seen ++ met.map (fun x => x.1.name) } path)) ∧
    ((∀ r ∈ path, ∀ p ∈ (coreAt s r).cache, q.takes p.name = false) →
      exec (.subscriptionArrival i) s = .next (homeAnswer u q path)) := by
  intro u path met
  have hx := exec_subscriptionArrival hm ho hh hn hc
  refine ⟨fun ht p r l hl => ?_, fun ht ha => ?_, fun hno => ?_⟩
  · rw [hx]
    refine congrArg Host.Outcome.next ((if_pos (by simpa using ht)).trans ?_)
    have hl' : (cachedFor (takeMsg s i) q (subRoute (takeMsg s i) q.tile h)).filter (fun x => !q.seen.contains x.1.name) = (p, r) :: l := hl
    rw [hl']
  · rw [hx]
    refine congrArg Host.Outcome.next ((if_neg (by simp [ht])).trans ?_)
    rw [if_pos ha]
  · have hnil : (cachedFor (takeMsg s i) q (subRoute (takeMsg s i) q.tile h)).filter (fun x => !q.seen.contains x.1.name) = [] := by
      have hcached (l : List Nat) (hl : ∀ r ∈ l, ∀ p ∈ (coreAt s r).cache, q.takes p.name = false) (a : List (Pub × Nat)) :
          l.foldl (fun (r : List (Pub × Nat)) t => r ++ (((coreAt (takeMsg s i) t).cache.filter (fun p => q.takes p.name &&
            !(q.scope < p.width) && !headerLost (takeMsg s i) t p.name && !r.any (fun x => x.1.name == p.name))).map
              (fun p => (readCopy (takeMsg s i) t p, t)))) a = a := by
        induction l with
        | nil => rfl
        | cons r l ih =>
          have hr : (coreAt (takeMsg s i) r).cache.filter (fun p => q.takes p.name && !(q.scope < p.width) &&
              !headerLost (takeMsg s i) r p.name && !a.any (fun x => x.1.name == p.name)) = [] :=
            List.filter_eq_nil_iff.mpr fun p hp => by
              rw [hl r List.mem_cons_self p hp]
              simp
          rw [List.foldl_cons, hr, List.map_nil, List.append_nil]
          exact ih fun x hx => hl x (List.mem_cons_of_mem _ hx)
      rw [cachedFor, hcached _ hno]
      rfl
    rw [hx, hnil]
    refine congrArg Host.Outcome.next ?_
    by_cases ht : q.of_ = .template
    · rw [if_neg (by simp [ht]), ite_self, List.map_nil, List.map_nil, List.append_nil, List.append_nil]
    · rw [if_pos (by simpa using ht)]

end Subscription

/-! A subscription that waits at its home is recorded on its route (R73, R74). -/

theorem nmt_nmtAdd (s : State) (t : Nat) (key : NameKey) (port k : Nat) (h : k ≠ t) : (coreAt (nmtAdd s t key port) k).nmt = (coreAt s k).nmt := by
  rw [nmtAdd, updCore, coreAt_setCore, if_neg h]

/-- A router records a port under a key. -/
def Records (s : State) (r : Nat) (key : NameKey) : Prop := ∃ e ∈ (coreAt s r).nmt, e.1 = key ∧ e.2 ≠ []

theorem nmtAdd_records (s : State) (t : Nat) (key : NameKey) (port : Nat) : Records (nmtAdd s t key port) t key := by
  unfold Records nmtAdd
  rw [coreAt_updCore]
  dsimp only
  split_ifs with h
  · obtain ⟨e, he, hk⟩ := List.any_eq_true.mp h
    refine ⟨_, List.mem_map.mpr ⟨e, he, rfl⟩, ?_⟩
    split_ifs with hc
    · exact ⟨by simpa using hk, by simp⟩
    · refine ⟨by simpa using hk, fun hnil => hc ?_⟩
      rw [hnil, hk]
      rfl
  · exact ⟨(key, [port]), List.mem_append_right _ List.mem_cons_self, rfl, List.cons_ne_nil port []⟩

theorem nmtAdd_keeps {s : State} {t r : Nat} {key : NameKey} {port : Nat} (h : Records s r key) : Records (nmtAdd s t key port) r key := by
  by_cases hr : r = t
  · exact hr ▸ nmtAdd_records ..
  · unfold Records
    rw [nmt_nmtAdd _ _ _ _ _ hr]
    exact h

theorem Records.room {s : State} {r : Nat} {key : NameKey} (h : Records s r key) : nmtRoom s r key = true := by
  obtain ⟨e, he, hk, _⟩ := h
  rw [nmtRoom, List.any_eq_true.mpr ⟨e, he, by rw [hk, beq_self_eq_true]⟩, Bool.true_or]

theorem nmtRoom_of_nmt {s t : State} {r : Nat} (h : (coreAt t r).nmt = (coreAt s r).nmt) (key : NameKey) : nmtRoom t r key = nmtRoom s r key := by
  rw [nmtRoom, nmtRoom, h]

/-- One router of a route records a port, where it has room. -/
def nmtStep (s : State) (key : NameKey) (prev r : Nat) : State := if nmtRoom s r key then nmtAdd s r key (portTo r prev) else s

theorem nmtPath_cons (s : State) (key : NameKey) (prev r : Nat) (l : List Nat) :
    nmtPath s key prev (r :: l) = nmtPath (nmtStep s key prev r) key r l := rfl

theorem nmt_nmtStep {s : State} {key : NameKey} {prev r k : Nat} (h : k ≠ r ∨ nmtRoom s r key = false) :
    (coreAt (nmtStep s key prev r) k).nmt = (coreAt s k).nmt := by
  unfold nmtStep
  split_ifs with hr
  · rcases h with h | h
    · exact nmt_nmtAdd _ _ _ _ _ h
    · rw [hr] at h
      exact absurd h.symm Bool.false_ne_true
  · rfl

theorem nmtStep_keeps {s : State} {key : NameKey} {prev r k : Nat} (h : Records s k key) : Records (nmtStep s key prev r) k key := by
  unfold nmtStep
  split_ifs
  · exact nmtAdd_keeps h
  · exact h

theorem nmtStep_frame (s : State) (key : NameKey) (prev r : Nat) : (nmtStep s key prev r).homes = s.homes ∧ (nmtStep s key prev r).subs = s.subs := by
  unfold nmtStep
  split_ifs <;> exact ⟨rfl, rfl⟩

theorem nmtPath_frame (s : State) (key : NameKey) (prev : Nat) (l : List Nat) :
    (nmtPath s key prev l).homes = s.homes ∧ (nmtPath s key prev l).subs = s.subs := by
  induction l generalizing s prev with
  | nil => exact ⟨rfl, rfl⟩
  | cons r l ih =>
    obtain ⟨h1, h2⟩ := ih (nmtStep s key prev r) r
    obtain ⟨h3, h4⟩ := nmtStep_frame s key prev r
    exact ⟨h1.trans h3, h2.trans h4⟩

theorem nmt_nmtPath {s : State} {key : NameKey} {prev k : Nat} {l : List Nat} (h : k ∉ l ∨ nmtRoom s k key = false) :
    (coreAt (nmtPath s key prev l) k).nmt = (coreAt s k).nmt := by
  induction l generalizing s prev with
  | nil => rfl
  | cons r l ih =>
    have hs : (coreAt (nmtStep s key prev r) k).nmt = (coreAt s k).nmt := by
      refine nmt_nmtStep ?_
      by_cases hk : k = r
      · exact .inr (hk ▸ h.resolve_left (by rw [hk]; simp))
      · exact .inl hk
    rw [nmtPath_cons, ih, hs]
    rcases h with h | h
    · exact .inl fun hm => h (List.mem_cons_of_mem _ hm)
    · exact .inr (by rw [nmtRoom_of_nmt hs, h])

theorem nmtPath_keeps {s : State} {key : NameKey} {prev k : Nat} {l : List Nat} (h : Records s k key) : Records (nmtPath s key prev l) k key := by
  induction l generalizing s prev with
  | nil => exact h
  | cons r l ih => exact ih (nmtStep_keeps h)

theorem nmtPath_records {s : State} {key : NameKey} {prev k : Nat} {l : List Nat} (hk : k ∈ l) (h : nmtRoom s k key = true) :
    Records (nmtPath s key prev l) k key := by
  induction l generalizing s prev with
  | nil => exact absurd hk List.not_mem_nil
  | cons r l ih =>
    rw [nmtPath_cons]
    by_cases hr : k = r
    · refine nmtPath_keeps ?_
      rw [nmtStep, ← hr, if_pos h]
      exact nmtAdd_records ..
    · refine ih ((List.mem_cons.mp hk).resolve_left hr) ?_
      rw [nmtRoom_of_nmt (nmt_nmtStep (.inl hr)), h]

theorem Records.ports {s : State} {r : Nat} {q : Sub} (h : Records s r q.key) : nmtPorts s r q.name ≠ [] := by
  obtain ⟨e, he, hk, hp⟩ := h
  have hc : keyCovers e.1 q.name = true := by
    rw [hk, keyCovers, Sub.key]
    split_ifs <;> simp_all
  obtain ⟨x, hx⟩ := List.exists_mem_of_ne_nil _ hp
  exact List.ne_nil_of_mem (List.mem_flatMap.mpr ⟨e, List.mem_filter.mpr ⟨he, hc⟩, hx⟩)

theorem recordSub_records (s : State) (q : Sub) (l : List Nat) :
    let v := recordSub s q l
    v.mem = s.mem ∧ v.homes = s.homes ∧ (∀ r, r ∉ l → (coreAt v r).nmt = (coreAt s r).nmt) ∧
    (∀ r ∈ l, nmtRoom s r q.key = true → nmtPorts v r q.name ≠ []) ∧
    (∀ r ∈ l, nmtRoom s r q.key = false → (coreAt v r).nmt = (coreAt s r).nmt) ∧
    ∃ x, v.subs = s.subs ++ [x] ∧ x = { q with direct := x.direct, routers := x.routers } ∧
      (∀ r, r ∈ x.routers ↔ r ∈ l ∧ nmtRoom s r q.key = true) ∧ (x.direct = true ↔ ∃ r ∈ l, nmtRoom s r q.key = false) := by
  intro v
  obtain ⟨hh, hs⟩ := nmtPath_frame s q.key q.tile l
  refine ⟨(recordSub_memory ..).1, hh, fun r hr => nmt_nmtPath (.inl hr), fun r hr hroom => ?_, fun r _ hroom => nmt_nmtPath (.inr hroom),
    { q with direct := (l.filter (fun r => nmtRoom s r q.key)).length != l.length, routers := l.filter (fun r => nmtRoom s r q.key) },
    congrArg (· ++ [_]) hs, rfl, fun r => List.mem_filter, ?_⟩
  · exact (nmtPath_records (prev := q.tile) hr hroom).ports
  · show ((l.filter (fun r => nmtRoom s r q.key)).length != l.length) = true ↔ _
    rw [bne_iff_ne, ne_eq, List.length_filter_eq_length_iff]
    simp

end Sys2Proof.Machine

namespace Sys2Proof.Machine

/-! A copy goes down its tree (R73, R77). -/

theorem passes_takeMsg (s : State) (i r u : Nat) (n : Name) : passes (takeMsg s i) r u n = passes s r u n := by
  have hd : SameDeck (takeMsg s i) s := ⟨rfl, rfl, rfl, rfl⟩
  have hp : nmtPorts (takeMsg s i) r n = nmtPorts s r n := rfl
  rw [passes, passes, hd.routerUp_eq, hd.linkTo_eq, hp]

theorem keepCopy_frame (s : State) (r : Nat) (p : Pub) : (keepCopy s r p).homes = s.homes ∧ (keepCopy s r p).net = s.net := by
  unfold keepCopy
  split_ifs <;> exact ⟨rfl, rfl⟩

/-- What a router sends of a copy: on to the next routers that it may pass it to, and its own copy to every other receiver. -/
def copySends (s : State) (p : Pub) (r : Nat) (dests : List Receiver) : List Msg :=
  ((nextRouters dests).filter (fun u => passes s r u p.name)).map (fun u => Msg.copy p u (receiversBy dests u)) ++
    ((dests.filter (fun x => x.path.isEmpty)) ++ ((nextRouters dests).filter (fun u => !passes s r u p.name)).flatMap (receiversBy dests)).map
      (fun x => Msg.deliver p x.tile x.of_ r)

theorem exec_multicastCopy {s : State} {i r : Nat} {p : Pub} {dests : List Receiver} (h : s.net[i]? = some (.copy p r dests)) :
    ∃ t, exec (.multicastCopy i) s = .next t ∧ t.mem = s.mem ∧ t.homes = s.homes ∧ t.net = (takeMsg s i).net ++ copySends s p r dests := by
  have hx : exec (.multicastCopy i) s = execMulticastCopy i s := rfl
  have hp : (fun u => passes (takeMsg s i) r u p.name) = (fun u => passes s r u p.name) := funext fun u => passes_takeMsg ..
  rw [hx, execMulticastCopy, h]
  dsimp only
  rw [hp, List.partition_eq_filter_filter]
  dsimp only [Function.comp_def]
  refine ⟨_, rfl, ?_⟩
  split_ifs
  · exact ⟨(keepCopy_memory ..).1, (keepCopy_frame ..).1, (keepCopy_frame ..).2.trans (List.append_assoc ..)⟩
  · exact ⟨rfl, rfl, List.append_assoc ..⟩

theorem multicastCopy_sends {s : State} {i r : Nat} {p : Pub} {dests : List Receiver} (h : s.net[i]? = some (.copy p r dests)) :
    ∃ t l, exec (.multicastCopy i) s = .next t ∧ t.mem = s.mem ∧ t.homes = s.homes ∧ t.net = (takeMsg s i).net ++ l ∧
      (∀ x ∈ dests, x.path = [] → Msg.deliver p x.tile x.of_ r ∈ l) ∧
      ∀ u ∈ nextRouters dests, (passes s r u p.name = true → Msg.copy p u (receiversBy dests u) ∈ l) ∧
        (passes s r u p.name = false → ∀ x ∈ receiversBy dests u, Msg.deliver p x.tile x.of_ r ∈ l) := by
  obtain ⟨t, hx, hm, hh, hn⟩ := exec_multicastCopy h
  refine ⟨t, _, hx, hm, hh, hn, fun x hx hp => ?_, fun u hu => ⟨fun hp => ?_, fun hp x hx => ?_⟩⟩
  · exact List.mem_append_right _ (List.mem_map.mpr ⟨x, List.mem_append_left _ (List.mem_filter.mpr ⟨hx, by rw [hp]; rfl⟩), rfl⟩)
  · exact List.mem_append_left _ (List.mem_map.mpr ⟨u, List.mem_filter.mpr ⟨hu, hp⟩, rfl⟩)
  · exact List.mem_append_right _ (List.mem_map.mpr ⟨x, List.mem_append_right _
      (List.mem_flatMap.mpr ⟨u, List.mem_filter.mpr ⟨hu, by rw [hp]; rfl⟩, hx⟩), rfl⟩)

/-! A router frees an entry (R74). -/

theorem nameMatchFree_frees {s : State} {i r : Nat} {key : NameKey} (h : s.net[i]? = some (.free key r))
    (hc : ∀ p x l, Msg.copy p x l ∈ s.net → keyCovers key p.name = false)
    (hd : ∀ p x o u, Msg.deliver p x o u ∈ s.net → keyCovers key p.name = false) (hs : ∀ q ∈ s.subs, q.key = key → r ∉ q.routers) :
    exec (.nameMatchFree i) s = .next (updCore (takeMsg s i) r (fun c => { c with nmt := c.nmt.filter (fun e => e.1 != key) })) := by
  have hx : exec (.nameMatchFree i) s = execNameMatchFree i s := rfl
  have hw : (s.net.any (fun m => match m with
      | .copy p _ _ => keyCovers key p.name
      | .deliver p _ _ _ => keyCovers key p.name
      | _ => false)) ≠ true := by
    intro hany
    obtain ⟨m, hm, hk⟩ := List.any_eq_true.mp hany
    split at hk
    · exact Bool.false_ne_true ((hc _ _ _ hm).symm.trans hk)
    · exact Bool.false_ne_true ((hd _ _ _ _ hm).symm.trans hk)
    · exact Bool.false_ne_true hk
  have hsub : (s.subs.any (fun q => q.key == key && q.routers.contains r)) ≠ true := by
    intro hany
    obtain ⟨q, hq, hk⟩ := List.any_eq_true.mp hany
    rw [Bool.and_eq_true, beq_iff_eq] at hk
    exact hs q hq hk.1 (by simpa using hk.2)
  rw [hx, execNameMatchFree, h]
  exact congrArg Host.Outcome.next ((if_neg hw).trans (if_neg hsub))

theorem nameMatchFree_steps {s : State} {i r : Nat} {key : NameKey} (h : s.net[i]? = some (.free key r))
    (hc : ∀ p x l, Msg.copy p x l ∈ s.net → keyCovers key p.name = false)
    (hd : ∀ p x o u, Msg.deliver p x o u ∈ s.net → keyCovers key p.name = false) (hs : ∀ q ∈ s.subs, q.key = key → r ∉ q.routers) :
    ∃ t, exec (.nameMatchFree i) s = .next t ∧ t.mem = s.mem ∧ (∀ e ∈ (coreAt t r).nmt, e.1 ≠ key) ∧
      (∀ e ∈ (coreAt s r).nmt, e.1 ≠ key → e ∈ (coreAt t r).nmt) ∧ ∀ x, x ≠ r → (coreAt t x).nmt = (coreAt s x).nmt := by
  have hn : (coreAt (updCore (takeMsg s i) r (fun c => { c with nmt := c.nmt.filter (fun e => e.1 != key) })) r).nmt =
      (coreAt s r).nmt.filter (fun e => e.1 != key) := by
    rw [coreAt_updCore]
    rfl
  refine ⟨_, nameMatchFree_frees h hc hd hs, rfl, fun e he => ?_, fun e he hk => ?_, fun x hx => ?_⟩
  · rw [hn] at he
    simpa using (List.mem_filter.mp he).2
  · rw [hn]
    exact List.mem_filter.mpr ⟨he, by simpa using hk⟩
  · rw [updCore, coreAt_setCore, if_neg hx]
    rfl

/-! A drop, a withdrawal and a defer reach the home (R72, R78, R84). -/

/-- A tile without its publications of a name. -/
def withoutTilePubs (n : Name) (c : Core) : Core := { c with tilePubs := c.tilePubs.filter (fun p => p.1.name != n) }

section Drop

variable {s : State} {i t u h : Nat} {n : Name} (hm : s.net[i]? = some (.drop n t u)) (ho : inOrder s i = true) (ht : toHome s t n = true)
  (hh : homeNow (updCore (takeMsg s i) t (withoutTilePubs n)) n = some h)
include hm ho ht hh

theorem exec_dropArrival : exec (.dropArrival i) s = .next { updCore (takeMsg s i) t (withoutTilePubs n) with
    homes := s.homes.filter (fun h => h.pub.name != n),
    cores := (updCore (takeMsg s i) t (withoutTilePubs n)).cores.map (fun e => (e.1, forget n e.2)) } := by
  have hx : exec (.dropArrival i) s = execDropArrival i s := rfl
  rw [hx, execDropArrival, hm]
  refine congrArg Host.Outcome.next ((if_neg (by rw [ho, ht]; decide)).trans ?_)
  have hh' : homeNow (updCore (takeMsg s i) t (fun c => { c with tilePubs := c.tilePubs.filter (fun p => p.1.name != n) })) n = some h := hh
  dsimp only
  rw [hh']
  rfl

theorem dropArrival_frees : ∃ v, exec (.dropArrival i) s = .next v ∧ v.mem = s.mem ∧ heldAt v n = none ∧
    (∀ p ∈ (coreAt v t).tilePubs, p.1.name ≠ n) ∧
      (∀ c ∈ v.cores, (∀ p ∈ c.2.cache, p.name ≠ n) ∧ ∀ p ∈ c.2.anys, p.name ≠ n) ∧ (∀ k, k ≠ n → heldAt v k = heldAt s k) := by
  refine ⟨_, exec_dropArrival hm ho ht hh, rfl, ?_, fun p hp => ?_, fun c hc => ?_, fun k hk => ?_⟩
  · rw [heldAt, List.find?_eq_none]
    intro x hx
    simpa using (List.mem_filter.mp hx).2
  · have hc : ∀ m : Map Core, (getD Core.reset t (m.map (fun e => (e.1, forget n e.2)))).tilePubs = (getD Core.reset t m).tilePubs := by
      intro m
      rw [getD, find_map, getD]
      cases find t m <;> rfl
    have hp' : p ∈ (coreAt (updCore (takeMsg s i) t (withoutTilePubs n)) t).tilePubs := by
      rw [coreAt, ← hc]
      exact hp
    rw [coreAt_updCore] at hp'
    simpa using (List.mem_filter.mp hp').2
  · obtain ⟨e, _, rfl⟩ := List.mem_map.mp hc
    exact ⟨fun p hp => by simpa using (List.mem_filter.mp hp).2, fun p hp => by simpa using (List.mem_filter.mp hp).2⟩
  · rw [heldAt, List.find?_filter, heldAt]
    refine congrArg (fun p => s.homes.find? p) (funext fun x => ?_)
    by_cases hx : x.pub.name = k
    · simp [hx, hk]
    · simp [hx]

end Drop

theorem freeSubs_subs (s : State) (l : List Sub) : (freeSubs s l).subs = s.subs :=
  foldl_keeps State.subs (fun s (q : Sub) => freeKey s q.key q.routers) (fun _ _ => rfl) l s

theorem unsubArrival_withdraws {s : State} {i t : Nat} {n : Name} {o : SubOf} (hm : s.net[i]? = some (.unsub n t o))
    (ho : inOrder s i = true) (ht : toHome s t n = true) : ∃ v, exec (.unsubArrival i) s = .next v ∧ v.mem = s.mem ∧
      v.subs = s.subs.filter (fun q => !(q.of_ == o && q.tile == t && q.name == n)) := by
  have hx : exec (.unsubArrival i) s = execUnsubArrival i s := rfl
  rw [hx, execUnsubArrival, hm]
  refine ⟨_, congrArg Host.Outcome.next (if_neg (by rw [ho, ht]; decide)), (freeSubs_memory ..).1, freeSubs_subs ..⟩

theorem deferMessage_holds {s : State} {i t : Nat} {n : Name} (hm : s.net[i]? = some (.defer n t)) (ho : inOrder s i = true)
    (ht : toHome s t n = true) : exec (.deferMessage i) s = .next (updHome (takeMsg s i) n (fun h => { h with deferred := h.deferred ++ [t] })) := by
  have hx : exec (.deferMessage i) s = execDeferMessage i s := rfl
  rw [hx, execDeferMessage, hm]
  exact congrArg Host.Outcome.next (if_pos (by rw [ho, ht]; rfl))

section Held

variable {s : State} {i t u : Nat} {n : Name} {o : SubOf} (hh : hashHeld s = true)
include hh

theorem toHome_held : toHome s t n = false := by
  rw [toHome, hh]
  rfl

theorem dropArrival_held (hm : s.net[i]? = some (.drop n t u)) : exec (.dropArrival i) s = .next s := by
  have hx : exec (.dropArrival i) s = execDropArrival i s := rfl
  rw [hx, execDropArrival, hm]
  exact congrArg Host.Outcome.next (if_pos (by rw [toHome_held hh]; simp))

theorem unsubArrival_held (hm : s.net[i]? = some (.unsub n t o)) : exec (.unsubArrival i) s = .next s := by
  have hx : exec (.unsubArrival i) s = execUnsubArrival i s := rfl
  rw [hx, execUnsubArrival, hm]
  exact congrArg Host.Outcome.next (if_pos (by rw [toHome_held hh]; simp))

theorem deferMessage_held (hm : s.net[i]? = some (.defer n t)) : exec (.deferMessage i) s = .next s := by
  have hx : exec (.deferMessage i) s = execDeferMessage i s := rfl
  rw [hx, execDeferMessage, hm]
  exact congrArg Host.Outcome.next (if_neg (by rw [toHome_held hh]; simp))

end Held

/-! A resume releases what the homes held (R84, R262). -/

theorem loseName_homes (s : State) (n : Name) : (loseName s n).homes = s.homes := by
  unfold loseName nameLost
  split_ifs
  · rfl
  · rw [logEvent_sameButLog s]

theorem mem_readHomes {s : State} {sel : HomeE → Bool} {x : HomeE} : x ∈ (readHomes s sel).homes ↔
    x ∈ s.homes ∧ ∀ h ∈ s.homes, sel h = true → headerLost s h.site h.pub.name = true → x.pub.name ≠ h.pub.name := by
  have hf (l : List HomeE) (s : State) : x ∈ (l.foldl (fun s h =>
      loseName { s with homes := s.homes.filter (fun x => x.pub.name != h.pub.name) } h.pub.name) s).homes ↔
      x ∈ s.homes ∧ ∀ h ∈ l, x.pub.name ≠ h.pub.name := by
    induction l generalizing s with
    | nil => simp
    | cons h l ih =>
      rw [List.foldl_cons, ih, loseName_homes, List.mem_filter]
      simp only [List.mem_cons, forall_eq_or_imp, bne_iff_ne, ne_eq]
      tauto
  rw [readHomes, hf]
  simp only [List.mem_filter, Bool.and_eq_true, and_imp]

theorem readHomes_clean {s : State} {sel : HomeE → Bool} (h : ∀ x ∈ s.homes, headerLost s x.site x.pub.name = false) : readHomes s sel = s := by
  have hl : s.homes.filter (fun h => sel h && headerLost s h.site h.pub.name) = [] :=
    List.filter_eq_nil_iff.mpr fun x hx => by simp [h x hx]
  rw [readHomes, hl]
  rfl

/-- What a resume releases. -/
def resumed (u : State) (t : Nat) : State :=
  { u with homes := u.homes.map (fun h => { h with deferred := h.deferred.filter (fun u => u != t) }),
           net := u.net ++ (u.homes.filter (fun h => h.deferred.contains t)).map (fun h => Msg.deliver (h.read u) t .template h.site) }

section Resume

variable {s : State} {i t : Nat} (hm : s.net[i]? = some (.resume t)) (ho : inOrder s i = true)
  (ht : ∀ h ∈ s.homes, t ∈ h.deferred → toHome s t h.pub.name = true)
include hm ho ht

theorem exec_resumeMessage : exec (.resumeMessage i) s = .next (resumed (readHomes (takeMsg s i) (fun h => h.deferred.contains t)) t) := by
  have hx : exec (.resumeMessage i) s = execResumeMessage i s := rfl
  have hall : (s.homes.filter (fun h => h.deferred.contains t)).all (fun h => toHome s t h.pub.name) = true :=
    List.all_eq_true.mpr fun h hh => ht h (List.mem_filter.mp hh).1 (by simpa using (List.mem_filter.mp hh).2)
  rw [hx, execResumeMessage, hm]
  exact congrArg Host.Outcome.next (if_neg (by rw [ho, hall]; decide))

theorem resumeMessage_releases : ∃ v, exec (.resumeMessage i) s = .next v ∧ (∀ h ∈ v.homes, t ∉ h.deferred) ∧
    ((∀ h ∈ s.homes, headerLost s h.site h.pub.name = false) → v.mem = s.mem ∧ ∀ h ∈ s.homes, t ∈ h.deferred →
      Msg.deliver (h.read s) t .template h.site ∈ v.net) ∧
    ∀ h ∈ s.homes, t ∈ h.deferred → headerLost s h.site h.pub.name = true → ∀ x ∈ v.homes, x.pub.name ≠ h.pub.name := by
  refine ⟨_, exec_resumeMessage hm ho ht, fun h hh => ?_, fun hc => ?_, fun h hh hd hl x hx => ?_⟩
  · obtain ⟨y, _, rfl⟩ := List.mem_map.mp hh
    simp
  · have hc' : ∀ x ∈ (takeMsg s i).homes, headerLost (takeMsg s i) x.site x.pub.name = false := hc
    rw [readHomes_clean hc']
    refine ⟨rfl, fun h hh hd => List.mem_append_right _ (List.mem_map.mpr ⟨h, List.mem_filter.mpr ⟨hh, by simpa using hd⟩, rfl⟩)⟩
  · obtain ⟨y, hy, rfl⟩ := List.mem_map.mp hx
    exact (mem_readHomes.mp hy).2 h hh (by simpa using hd) hl

end Resume

/-- Settles O51: what moves down a tree leaves what homes hold and what is struck, so the first publication of a name stands as it
came; the routers of a route each decide by their own entries alone. -/
theorem homeSteps : Obligations.HomeSteps := by
  unfold Obligations.HomeSteps
  refine ⟨?_, ?_, ?_, ?_, ?_, ?_, ?_, ?_, ?_, ?_, ?_⟩
  · intro s i t u scp stage p after hm ha ho
    refine ⟨publicationArrival_late hm ha ho, fun hs => ⟨fun hp hh => publicationArrival_held hm hp hh hs,
      fun h hp hh hn hc => ⟨fun hheld => ?_, fun hnone => ?_⟩, fun hp => ?_⟩⟩
    · exact (publicationArrival_home hm ha ho hs hp hh hn hc).trans (congrArg _ (homeKeep_held (s := takeMsg s i) h t stage hheld))
    · obtain ⟨pl, hk⟩ := homeKeep_first (s := takeMsg s i) h t stage hnone
      exact ⟨_, _, publicationArrival_home hm ha ho hs hp hh hn hc, hk, rfl, rfl, rfl, rfl, (homeKeep_memory ..).1⟩
    · exact ⟨_, publicationArrival_tile hm ha ho hs hp, tilePublish_holds (takeMsg s i) p t stage⟩
  · intro s c st g n hg hn h
    exact of_stagePast hg hn h
  · intro s i h q hm ho hh hn hc
    exact subscriptionArrival_answered hm ho hh hn hc
  · exact recordSub_records
  · intro s i r p dests h
    exact multicastCopy_sends h
  · intro s i r key h hc hd hs
    exact nameMatchFree_steps h hc hd hs
  · intro s i t u h n hm ho ht hh
    exact dropArrival_frees hm ho ht hh
  · intro s i t n o hm ho ht
    exact unsubArrival_withdraws hm ho ht
  · intro s i t n hm ho ht
    exact deferMessage_holds hm ho ht
  · intro s i t hm ho ht
    exact resumeMessage_releases hm ho ht
  · intro s i t u scp stage p after n q hh
    exact ⟨fun hm hp hs => publicationArrival_held hm hp hh hs, fun hm => subscriptionArrival_held hm hh, fun hm => dropArrival_held hh hm,
      fun hm => unsubArrival_held hh hm, fun hm => deferMessage_held hh hm⟩

end Sys2Proof.Machine

namespace Sys2Proof.Machine

/-! A stream engine dispatches a command and starts a chunk (R284, R289). -/

theorem streamSteps_asleep {s : State} {t : Nat} (h : asleep s t = true) (e n : Nat) :
    exec (.streamDispatch t) s = .next s ∧ exec (.streamChunkStart t e) s = .next s ∧ exec (.streamChunkDone t e n) s = .next s :=
  ⟨congrArg Host.Outcome.next (if_pos h), congrArg Host.Outcome.next (if_pos h), congrArg Host.Outcome.next (if_pos h)⟩

section Dispatch

variable {s : State} {t : Nat} (ha : asleep s t = false)
include ha

theorem streamDispatch_idle (hd : dispatchable s t = none) : exec (.streamDispatch t) s = .next s := by
  have hx : exec (.streamDispatch t) s = execStreamDispatch t s := rfl
  rw [hx, execStreamDispatch, ha, hd]
  rfl

theorem exec_streamDispatch {c : Cmd} (hd : dispatchable s t = some c) : exec (.streamDispatch t) s = .next (startCmd s t c) := by
  have hx : exec (.streamDispatch t) s = execStreamDispatch t s := rfl
  rw [hx, execStreamDispatch, ha, hd]
  rfl

theorem streamDispatch_starts {c : Cmd} (hd : dispatchable s t = some c) :
    (patE c.pat ≠ 0 → exec (.streamDispatch t) s = .next (putCmd s t { c with running := true })) ∧
      (patE c.pat = 0 → exec (.streamDispatch t) s = .next (dropFile (publishStream (removeCmd s t c) t c 0 none 0) t c.uid)) := by
  rw [exec_streamDispatch ha hd, startCmd]
  exact ⟨fun h => congrArg Host.Outcome.next (if_neg h), fun h => congrArg Host.Outcome.next (if_pos h)⟩

end Dispatch

theorem elemsAt_fault {s s' : State} {t : Nat} {c : Cmd} {l : List Nat} {f : Nat} {cls : FaultClass} {x : Option (Nat × Path)}
    (h : elemsAt s t c l = (s', some (f, cls), x)) : f ∈ l := by
  induction l generalizing s s' x cls with
  | nil =>
    rw [elemsAt, Prod.mk.injEq, Prod.mk.injEq] at h
    exact absurd h.2.1 (by simp)
  | cons e l ih =>
    rw [elemsAt] at h
    rcases he : elemAt s t c e with ⟨u, r⟩
    rw [he] at h
    cases r with
    | fault cl pa =>
      simp only [Prod.mk.injEq, Option.some.injEq] at h
      rw [← h.2.1.1]
      exact List.mem_cons_self
    | wait =>
      simp only [Prod.mk.injEq] at h
      exact absurd h.2.1 (by simp)
    | ok pa p =>
      rcases hl : elemsAt u t c l with ⟨w, g, y⟩
      simp only [hl] at h
      cases g with
      | none => cases y <;> simp at h
      | some g =>
        obtain ⟨g, cl⟩ := g
        simp only [Prod.mk.injEq, Option.some.injEq] at h
        obtain ⟨_, ⟨rfl, _⟩, _⟩ := h
        exact List.mem_cons_of_mem _ (ih hl)

/-- A chunk as it starts. -/
def newChunk (s : State) (t : Nat) (c : Cmd) (n pa : Nat) (p : Path) (f : Option (Nat × FaultClass)) : Chunk :=
  { id := c.next, num := s.nextAcc, n := n, pa := pa, path := p, data := List.replicate (n * (if c.out then c.ws else c.pw)) 0,
    bad := List.replicate (n * (if c.out then c.ws else c.pw)) false, waiting := false, sent := false, cut := false,
    src := [], dst := [], left := 0,
    leaves := if c.port == .hname || (portOb c.port).isSome then [] else chunkLeaves s t c [patA c.pat c.next, patA c.pat (c.next + n - 1)],
    flt := f }

/-- The elements of the next chunk of a command. -/
def chunkElems (c : Cmd) : List Nat := (upTo (chunkLen c c.next 127 1)).map (fun i => c.next + i)

theorem chunkStart_fault {s s' : State} {t : Nat} {c : Cmd} {f : Nat × FaultClass} {x : Option (Nat × Path)}
    (h : elemsAt s t c (chunkElems c) = (s', some f, x)) : chunkStart s t c = putCmd { s' with nextAcc := s'.nextAcc + 1 } t
      { c with next := c.next + chunkLen c c.next 127 1, chunks := c.chunks ++ [newChunk s' t c (chunkLen c c.next 127 1) 0 .own (some f)] } := by
  have h' : elemsAt s t c ((upTo (chunkLen c c.next 127 1)).map (fun i => c.next + i)) = (s', some f, x) := h
  rw [chunkStart]
  dsimp only
  rw [h']
  rfl

theorem chunkStart_ok {s s' : State} {t : Nat} {c : Cmd} {pa : Nat} {p : Path} (h : elemsAt s t c (chunkElems c) = (s', none, some (pa, p))) :
    chunkStart s t c = if chunkWaits s' t c p pa || !chunkRoutes s' t c p pa then s' else
      putCmd (fetchChunk { s' with nextAcc := s'.nextAcc + 1 } t c (newChunk s' t c (chunkLen c c.next 127 1) pa p none)).1 t
        { c with next := c.next + chunkLen c c.next 127 1, chunks := c.chunks ++
          [(fetchChunk { s' with nextAcc := s'.nextAcc + 1 } t c (newChunk s' t c (chunkLen c c.next 127 1) pa p none)).2] } := by
  have h' : elemsAt s t c ((upTo (chunkLen c c.next 127 1)).map (fun i => c.next + i)) = (s', none, some (pa, p)) := h
  rw [chunkStart]
  dsimp only
  rw [h']
  rfl

theorem fetchChunk_frame (s : State) (t : Nat) (c : Cmd) (k : Chunk) : ∃ o f, ∃ d : Chunk, (fetchChunk s t c k).1 = { s with outHost := o, free := f } ∧
    (fetchChunk s t c k).2 = { k with data := d.data, bad := d.bad, waiting := d.waiting, sent := d.sent, src := d.src } := by
  unfold fetchChunk
  dsimp only
  split_ifs
  · exact ⟨s.outHost, s.free, k, rfl, rfl⟩
  · cases c.src with
    | none => exact ⟨s.outHost, s.free, k, rfl, rfl⟩
    | some q => exact ⟨s.outHost, s.free, k.whole t c ((upTo (srcLen c k)).map (fun i => pubByte q (k.pa + i)))
        ((upTo (srcLen c k)).map (fun i => pubBad q (k.pa + i))), rfl, rfl⟩
  · unfold requestChunk
    dsimp only
    split_ifs
    · obtain ⟨f, hf⟩ := freeWord_frame (srcLen c k) s
      exact ⟨s.outHost, f, { k.whole t c (leBytes (srcLen c k) (freeWord s (srcLen c k)).2) (List.replicate (srcLen c k) true) with sent := true }, hf, rfl⟩
    · exact ⟨_, s.free, { k with waiting := true, sent := true }, rfl, rfl⟩
    · exact ⟨_, s.free, { k with waiting := true, sent := true }, rfl, rfl⟩
  · exact ⟨s.outHost, s.free, k, rfl, rfl⟩

theorem fetchChunk_later {s : State} {t : Nat} {c : Cmd} {k : Chunk} (h : c.out = true ∨ (c.port ≠ .hname ∧ k.path.remote = false)) :
    fetchChunk s t c k = (s, k) := by
  unfold fetchChunk
  dsimp only
  rcases h with h | ⟨hp, hr⟩
  · exact if_pos h
  · split_ifs with h1 h2 h3
    · rfl
    · exact absurd (by simpa using h2) hp
    · rw [hr] at h3
      exact absurd h3 Bool.false_ne_true
    · rfl

theorem fetchChunk_copy {s : State} {t : Nat} {c : Cmd} {k : Chunk} {q : Pub} (ho : c.out = false) (hp : c.port = .hname) (hs : c.src = some q) :
    fetchChunk s t c k = (s, k.whole t c ((upTo (srcLen c k)).map (fun i => pubByte q (k.pa + i)))
      ((upTo (srcLen c k)).map (fun i => pubBad q (k.pa + i)))) := by
  unfold fetchChunk
  dsimp only
  rw [if_neg (by rw [ho]; exact Bool.false_ne_true), if_pos (by rw [hp]; rfl), hs]

theorem allRead_whole (t : Nat) (c : Cmd) (k : Chunk) (data : List Byte) (bad : List Bool) : allRead t c (k.whole t c data bad) = true := by
  refine List.all_eq_true.mpr fun j hj => ?_
  have hs : (k.whole t c data bad).src = upTo (wordsIn (srcBase t c (k.whole t c data bad)) (srcLen c (k.whole t c data bad))) := rfl
  rw [hs]
  simpa using hj

theorem fetchChunk_host {s : State} {t : Nat} {c : Cmd} {k : Chunk} (ho : c.out = false) (hp : c.port ≠ .hname) (hk : k.path = .host) :
    fetchChunk s t c k = ({ s with outHost := s.outHost ++ [.hostRead (hostAddr k.pa).1 (hostAddr k.pa).2 (srcLen c k) (64 * k.num)] },
      { k with waiting := true, sent := true }) := by
  unfold fetchChunk requestChunk
  dsimp only
  rw [if_neg (by rw [ho]; exact Bool.false_ne_true), if_neg (by simpa using hp), hk]
  rfl

theorem fetchChunk_peer {s : State} {t : Nat} {c : Cmd} {k : Chunk} (ho : c.out = false) (hp : c.port ≠ .hname) (hk : k.path = .peer)
    (hd : devId s ≠ 0xFFF) : fetchChunk s t c k = ({ s with outHost := s.outHost ++
      [.peerReq (k.pa / 2 ^ 35 % 4096) (k.pa % 2 ^ 35) (64 * k.num) .load (List.replicate (srcLen c k) .keep)] },
        { k with waiting := true, sent := true }) := by
  unfold fetchChunk requestChunk
  dsimp only
  rw [if_neg (by rw [ho]; exact Bool.false_ne_true), if_neg (by simpa using hp), hk]
  refine (if_pos rfl).trans (if_neg ?_)
  simpa using hd

section Start

variable {s s' : State} {t e : Nat} {c : Cmd} (ha : asleep s t = false) (hr : runningCmd s t e = some c) (hh : c.held = none)
  (hc : c.cancelled = false) (hp : cmdPreempted s c = false) (hn : c.next < patE c.pat) (hl : c.chunks.length < 16) (hf : chunkFree s t c = true)
include ha hr hh hc hp hn hl hf

theorem exec_streamChunkStart : exec (.streamChunkStart t e) s = .next (chunkStart s t c) := by
  have hx : exec (.streamChunkStart t e) s = execStreamChunkStart t e s := rfl
  rw [hx, execStreamChunkStart, ha, hr]
  refine congrArg Host.Outcome.next ((if_neg Bool.false_ne_true).trans (if_neg ?_))
  rw [hh, hc, hp, hf, decide_eq_false (Nat.not_le.mpr hn), decide_eq_false (Nat.not_le.mpr hl)]
  decide

theorem streamChunkStart_fault {f : Nat} {cls : FaultClass} {x : Option (Nat × Path)}
    (he : elemsAt s t c (chunkElems c) = (s', some (f, cls), x)) : f ∈ chunkElems c ∧ ∃ k, exec (.streamChunkStart t e) s =
      .next (putCmd { s' with nextAcc := s'.nextAcc + 1 } t
        { c with next := c.next + chunkLen c c.next 127 1, chunks := c.chunks ++ [k] }) ∧ k.id = c.next ∧ k.flt = some (f, cls) := by
  refine ⟨elemsAt_fault he, newChunk s' t c (chunkLen c c.next 127 1) 0 .own (some (f, cls)), ?_, rfl, rfl⟩
  rw [exec_streamChunkStart ha hr hh hc hp hn hl hf, chunkStart_fault he]

variable {pa : Nat} {p : Path} (he : elemsAt s t c (chunkElems c) = (s', none, some (pa, p)))
include he

theorem streamChunkStart_waits (hw : chunkWaits s' t c p pa = true ∨ chunkRoutes s' t c p pa = false) :
    exec (.streamChunkStart t e) s = .next s' := by
  rw [exec_streamChunkStart ha hr hh hc hp hn hl hf, chunkStart_ok he]
  refine congrArg Host.Outcome.next (if_pos ?_)
  rcases hw with hw | hw <;> simp [hw]

variable (hw : chunkWaits s' t c p pa = false) (hro : chunkRoutes s' t c p pa = true)
include hw hro

theorem streamChunkStart_ok : ∃ k v, exec (.streamChunkStart t e) s = .next (putCmd v t
      { c with next := c.next + chunkLen c c.next 127 1, chunks := c.chunks ++ [k] }) ∧
    fetchChunk { s' with nextAcc := s'.nextAcc + 1 } t c (newChunk s' t c (chunkLen c c.next 127 1) pa p none) = (v, k) := by
  refine ⟨_, _, ?_, rfl⟩
  rw [exec_streamChunkStart ha hr hh hc hp hn hl hf, chunkStart_ok he]
  exact congrArg Host.Outcome.next (if_neg (by rw [hw, hro]; decide))

theorem streamChunkStart_starts : ∃ k v, exec (.streamChunkStart t e) s = .next (putCmd v t
      { c with next := c.next + chunkLen c c.next 127 1, chunks := c.chunks ++ [k] }) ∧
    v = { s' with nextAcc := s'.nextAcc + 1, outHost := v.outHost, free := v.free } ∧
    k.id = c.next ∧ k.flt = none ∧ k.num = s'.nextAcc ∧ k.n = chunkLen c c.next 127 1 ∧ k.pa = pa ∧ k.path = p ∧ k.cut = false ∧ k.dst = [] ∧
    ((c.out = true ∨ (c.port ≠ .hname ∧ p.remote = false)) → k.src = [] ∧ k.waiting = false ∧ v.outHost = s'.outHost) ∧
    (∀ q, c.out = false → c.port = .hname → c.src = some q → k.waiting = false ∧ v.outHost = s'.outHost ∧ allRead t c k = true ∧
      k.data = (upTo (chunkLen c c.next 127 1 * c.pw)).map (fun i => pubByte q (pa + i)) ∧
      k.bad = (upTo (chunkLen c c.next 127 1 * c.pw)).map (fun i => pubBad q (pa + i))) ∧
    (c.out = false → c.port ≠ .hname → p = .host → k.waiting = true ∧
      v.outHost = s'.outHost ++ [.hostRead (hostAddr pa).1 (hostAddr pa).2 (chunkLen c c.next 127 1 * c.pw) (64 * k.num)]) ∧
    (c.out = false → c.port ≠ .hname → p = .peer → devId s' ≠ 0xFFF → k.waiting = true ∧
      v.outHost = s'.outHost ++ [.peerReq (pa / 2 ^ 35 % 4096) (pa % 2 ^ 35) (64 * k.num) .load
        (List.replicate (chunkLen c c.next 127 1 * c.pw) .keep)]) := by
  obtain ⟨k, v, hx, hk⟩ := streamChunkStart_ok ha hr hh hc hp hn hl hf he hw hro
  refine ⟨k, v, hx, ?_⟩
  generalize chunkLen c c.next 127 1 = n at hk ⊢
  have hlen : c.out = false → srcLen c (newChunk s' t c n pa p none) = n * c.pw := fun ho => by
    rw [srcLen, if_neg (by rw [ho]; exact Bool.false_ne_true)]
    rfl
  obtain ⟨o, f, d, h1, h2⟩ := fetchChunk_frame { s' with nextAcc := s'.nextAcc + 1 } t c (newChunk s' t c n pa p none)
  rw [hk] at h1 h2
  dsimp only at h1 h2
  refine ⟨?_, ?_, ?_, ?_, ?_, ?_, ?_, ?_, ?_, fun hl => ?_, fun q ho hport hsrc => ?_, fun ho hport hpath => ?_, fun ho hport hpath hdev => ?_⟩
  · rw [h1]
  iterate 8
    · rw [h2]
      rfl
  · rw [fetchChunk_later hl, Prod.mk.injEq] at hk
    obtain ⟨rfl, rfl⟩ := hk
    exact ⟨rfl, rfl, rfl⟩
  · rw [fetchChunk_copy ho hport hsrc, Prod.mk.injEq, hlen ho] at hk
    obtain ⟨rfl, rfl⟩ := hk
    exact ⟨rfl, rfl, allRead_whole .., rfl, rfl⟩
  · rw [fetchChunk_host ho hport hpath, Prod.mk.injEq, hlen ho] at hk
    obtain ⟨rfl, rfl⟩ := hk
    exact ⟨rfl, rfl⟩
  · have hdev' : devId { s' with nextAcc := s'.nextAcc + 1 } ≠ 0xFFF := hdev
    rw [fetchChunk_peer ho hport hpath hdev', Prod.mk.injEq, hlen ho] at hk
    obtain ⟨rfl, rfl⟩ := hk
    exact ⟨rfl, rfl⟩

end Start

end Sys2Proof.Machine

namespace Sys2Proof.Machine

/-! A chunk that comes back (R289, R295). -/

theorem pick_of_find {α β : Type} {f : α → Option β} {l : List α} {a : α} {b : β} (h : l.find? (fun x => (f x).isSome) = some a)
    (hb : f a = some b) : pick f l = some b := by
  induction l with
  | nil => exact absurd h (by simp)
  | cons x l ih =>
    rw [List.find?_cons] at h
    rw [pick]
    cases hx : f x with
    | none =>
      rw [hx] at h
      exact ih h
    | some y =>
      rw [hx] at h
      obtain rfl : x = a := Option.some.inj h
      rw [hx] at hb
      exact hb

theorem flushCmd_outHost (s : State) (t : Nat) (c : Cmd) : (flushCmd s t c).outHost = s.outHost := by
  unfold flushCmd
  split
  · rfl
  · dsimp only
    split
    · refine foldl_keeps State.outHost _ (fun s port => ?_) _ _
      unfold flushPort
      split <;> rfl
    · rfl

section Done

variable {s : State} {t e n : Nat} {c : Cmd} {k : Chunk}
  (hp : pick (fun c => (c.chunks.find? (fun k => k.id == n)).map (fun k => (c, k))) (engOf (coreAt s t) e) = some (c, k))
  (ha : asleep s t = false)
include hp ha

theorem exec_streamChunkDone : exec (.streamChunkDone t e n) s = .next (chunkDone s t c k) := by
  have hx : exec (.streamChunkDone t e n) s = execStreamChunkDone t e n s := rfl
  rw [hx, execStreamChunkDone, ha, hp]
  rfl

theorem streamChunkDone_fault {d : Chunk} {f : Nat} {cls : FaultClass} (hd : c.chunks.find? (fun x => x.flt.isSome) = some d)
    (hf : d.flt = some (f, cls)) (hk : k.flt.isSome = true) : exec (.streamChunkDone t e n) s = .next (holdCmd s t { c with
      held := some ⟨cls, some (BitVec.ofNat 53 (patA c.pat f)), 0⟩, chunks := c.chunks.filter (fun x => x.flt.isNone) }) := by
  rw [exec_streamChunkDone hp ha, chunkDone, if_pos hk, findFault, pick_of_find hd hf]

variable (hf : k.flt = none) (hw : k.waiting = false) (hc : k.cut = false) (hl : writeLost s t c k = false)
include hf hw hc hl

/-- What a chunk does that has come back without a fault, and whose write is not lost. -/
theorem exec_streamChunkDone_back : exec (.streamChunkDone t e n) s = .next
    (if c.out && k.path.remote && k.sent then chunkEnd s t c k
    else if c.out && k.path.remote then (if allRead t c k then sendChunk s t c k else s)
    else if !allWritten t c k then s
    else if c.out && !(portOb c.port).isSome && (answerRoute s t k.path k.pa).isNone then chunkEnd (lostChunk s c k) t c k
    else chunkEnd s t c k) := by
  rw [exec_streamChunkDone hp ha, chunkDone, hf, hw, hc, hl]
  rfl

theorem streamChunkDone_unread (ho : c.out = true) (hr : k.path.remote = true) (hs : k.sent = false) (hall : allRead t c k = false) :
    exec (.streamChunkDone t e n) s = .next s := by
  rw [exec_streamChunkDone_back hp ha hf hw hc hl, ho, hr, hs, hall]
  rfl

theorem streamChunkDone_sends (ho : c.out = true) (hr : k.path = .host) (hs : k.sent = false) (hall : allRead t c k = true) :
    ∃ u, exec (.streamChunkDone t e n) s = .next u ∧ u.mem = s.mem ∧
      u.outHost = s.outHost ++ [.hostWrite (hostAddr k.pa).1 (hostAddr k.pa).2
        (((convertBytes c k.data k.bad).1.zip (convertBytes c k.data k.bad).2).map (fun x => if x.2 then none else some x.1)) (64 * k.num)] := by
  have hx : exec (.streamChunkDone t e n) s = .next (sendChunk s t c k) := by
    rw [exec_streamChunkDone_back hp ha hf hw hc hl, ho, hr, hs, hall]
    rfl
  have hsend : sendChunk s t c k = flushCmd (putChunk { s with outHost := s.outHost ++ [.hostWrite (hostAddr k.pa).1 (hostAddr k.pa).2
      (((convertBytes c k.data k.bad).1.zip (convertBytes c k.data k.bad).2).map (fun e => if e.2 then none else some e.1)) (64 * k.num)] }
        t c { k with sent := true, waiting := true, left := s.nextAcc }) t c := by
    rw [sendChunk]
    exact if_pos (by rw [hr]; rfl)
  refine ⟨_, hx, ?_, ?_⟩
  · rw [hsend]
    exact (flushCmd_memory ..).1
  · rw [hsend, flushCmd_outHost]
    rfl

theorem streamChunkDone_unwritten (ho : c.out = false ∨ k.path.remote = false) (hall : allWritten t c k = false) :
    exec (.streamChunkDone t e n) s = .next s := by
  have h : (c.out && k.path.remote) = false := by
    rcases ho with h | h <;> rw [h] <;> simp
  rw [exec_streamChunkDone_back hp ha hf hw hc hl, h, hall]
  rfl

theorem streamChunkDone_ends (hr : c.out = false ∨ (portOb c.port).isSome = true ∨ (answerRoute s t k.path k.pa).isSome = true)
    (ho : c.out = false ∨ k.path.remote = false) (hall : allWritten t c k = true) :
    exec (.streamChunkDone t e n) s = .next (chunkEnd s t c k) := by
  have h : (c.out && k.path.remote) = false := by
    rcases ho with h | h <;> rw [h] <;> simp
  have hroute : (c.out && !(portOb c.port).isSome && (answerRoute s t k.path k.pa).isNone) = false := by
    rcases hr with h | h | h
    · rw [h]
      rfl
    · rw [h, Bool.not_true, Bool.and_false]
      rfl
    · rw [Option.isNone_eq_false_iff.mpr h, Bool.and_false]
  rw [exec_streamChunkDone_back hp ha hf hw hc hl, h, hall, hroute]
  rfl

end Done

/-! What a chunk converts (R287). -/

theorem length_flatMap_const {α β : Type} {f : α → List β} {v : Nat} {l : List α} (hf : ∀ a ∈ l, (f a).length = v) :
    (l.flatMap f).length = l.length * v := by
  induction l with
  | nil => rw [List.flatMap_nil, List.length_nil, List.length_nil, Nat.zero_mul]
  | cons a l ih =>
    rw [List.flatMap_cons, List.length_append, hf a List.mem_cons_self, ih fun b hb => hf b (List.mem_cons_of_mem _ hb), List.length_cons]
    ring

theorem take_drop_flatMap {α β : Type} {f : α → List β} {v : Nat} {l : List α} (hf : ∀ a ∈ l, (f a).length = v) {i : Nat} {a : α}
    (ha : l[i]? = some a) : ((l.flatMap f).drop (v * i)).take v = f a := by
  induction l generalizing i with
  | nil => exact absurd ha (by simp)
  | cons b l ih =>
    have hb := hf b List.mem_cons_self
    rw [List.flatMap_cons]
    cases i with
    | zero =>
      obtain rfl : b = a := Option.some.inj ha
      rw [Nat.mul_zero, List.drop_zero, List.take_left' hb]
    | succ i =>
      have hd : v * (i + 1) = (f b).length + v * i := by
        rw [hb, Nat.mul_succ, Nat.add_comm]
      rw [hd, ← List.drop_drop, List.drop_left]
      exact ih (fun x hx => hf x (List.mem_cons_of_mem _ hx)) ha

end Sys2Proof.Machine

namespace Sys2Proof.Machine

/-- One converted element: its bytes, whether they are poisoned, and their number. -/
def convertedElem (c : Cmd) (src : List Byte) (bad : List Bool) (i : Nat) : List Byte × Bool × Nat :=
  let w := if c.out then c.ws else c.pw
  let x := leNat ((src.drop (w * i)).take w)
  let p := c.poison || ((bad.drop (w * i)).take w).any (fun b => b)
  if !c.cv then ((src.drop (w * i)).take w, p, w)
  else if c.out then
    let r := convert c.ty .f32 (Mode.ofCode c.mode) 0 false false x
    (leBytes c.pw r.bits, p || r.poison, c.pw)
  else (leBytes 4 (convert .f32 c.ty .rne 0 false false x).bits, p, 4)

theorem convertBytes_eq (c : Cmd) (src : List Byte) (bad : List Bool) : convertBytes c src bad =
    ((upTo (src.length / (if c.out then c.ws else c.pw))).flatMap (fun i => (convertedElem c src bad i).1),
      (upTo (src.length / (if c.out then c.ws else c.pw))).flatMap
        (fun i => List.replicate (convertedElem c src bad i).2.2 (convertedElem c src bad i).2.1)) := by
  unfold convertBytes
  dsimp only
  rw [List.flatMap_map, List.flatMap_map]
  rfl

theorem ws_eq_pw {c : Cmd} (h : c.cv = false) : c.ws = c.pw := by
  rw [Cmd.ws, Cmd.pw, h]
  rfl

theorem ws_eq_four {c : Cmd} (h : c.cv = true) : c.ws = 4 := by
  rw [Cmd.ws, h]
  rfl

section Converted

variable {c : Cmd} {src : List Byte} {bad : List Bool} {n i : Nat} (hl : src.length = n * (if c.out then c.ws else c.pw)) (hi : i < n)
include hl hi

theorem length_element : ((src.drop ((if c.out then c.ws else c.pw) * i)).take (if c.out then c.ws else c.pw)).length =
    (if c.out then c.ws else c.pw) := by
  generalize (if c.out then c.ws else c.pw) = w at hl ⊢
  have h : w * i + w ≤ n * w := by
    calc w * i + w = (i + 1) * w := by ring
      _ ≤ n * w := Nat.mul_le_mul_right w hi
  rw [List.length_take, List.length_drop, hl]
  omega

theorem convertedElem_length : (convertedElem c src bad i).1.length = (if c.out then c.pw else c.ws) ∧
    (convertedElem c src bad i).2.2 = (if c.out then c.pw else c.ws) := by
  have hlen := length_element hl hi
  unfold convertedElem
  dsimp only
  cases hcv : c.cv with
  | false =>
    rw [ws_eq_pw hcv, ite_self] at hlen ⊢
    exact ⟨hlen, rfl⟩
  | true =>
    cases ho : c.out with
    | true => exact ⟨leBytes_length .., rfl⟩
    | false =>
      rw [ws_eq_four hcv]
      exact ⟨leBytes_length .., rfl⟩

omit hl hi in
theorem convertedElem_value : leNat (convertedElem c src bad i).1 =
    (if c.cv = false then leNat ((src.drop ((if c.out then c.ws else c.pw) * i)).take (if c.out then c.ws else c.pw)) else
      if c.out then (convert c.ty .f32 (Mode.ofCode c.mode) 0 false false
        (leNat ((src.drop ((if c.out then c.ws else c.pw) * i)).take (if c.out then c.ws else c.pw)))).bits %
          2 ^ (8 * (if c.out then c.pw else c.ws))
      else (convert .f32 c.ty .rne 0 false false
        (leNat ((src.drop ((if c.out then c.ws else c.pw) * i)).take (if c.out then c.ws else c.pw)))).bits % 2 ^ 32) := by
  unfold convertedElem
  dsimp only
  cases c.cv with
  | false => rfl
  | true =>
    cases c.out with
    | true => exact leNat_leBytes ..
    | false => exact leNat_leBytes 4 _

omit hl hi in
theorem convertedElem_bad : (convertedElem c src bad i).2.1 =
    (c.poison || ((bad.drop ((if c.out then c.ws else c.pw) * i)).take (if c.out then c.ws else c.pw)).any (fun b => b) ||
      (c.cv && c.out && (convert c.ty .f32 (Mode.ofCode c.mode) 0 false false
        (leNat ((src.drop ((if c.out then c.ws else c.pw) * i)).take (if c.out then c.ws else c.pw)))).poison)) := by
  unfold convertedElem
  dsimp only
  cases c.cv with
  | false => exact (Bool.or_false _).symm
  | true =>
    cases c.out with
    | true => rfl
    | false => exact (Bool.or_false _).symm

end Converted

theorem nth_of_take_drop {α : Type} {d x : α} {l : List α} {o v y : Nat} (h : (l.drop o).take v = List.replicate v x) (hy : y < v) :
    nth d l (o + y) = x := by
  have hg : ((l.drop o).take v)[y]? = some x := by
    rw [h, List.getElem?_replicate, if_pos hy]
  rw [List.getElem?_take_of_lt hy, List.getElem?_drop] at hg
  rw [nth_eq_getD, List.getD_eq_getElem?_getD, hg, Option.getD_some]

/-- R287: what a chunk converts, element by element. -/
theorem convertBytes_elements {c : Cmd} {src : List Byte} {bad : List Bool} {n : Nat} (hw : 0 < (if c.out then c.ws else c.pw))
    (hl : src.length = n * (if c.out then c.ws else c.pw)) :
    (convertBytes c src bad).1.length = n * (if c.out then c.pw else c.ws) ∧
    (convertBytes c src bad).2.length = n * (if c.out then c.pw else c.ws) ∧ ∀ i, i < n →
      (((convertBytes c src bad).1.drop ((if c.out then c.pw else c.ws) * i)).take (if c.out then c.pw else c.ws) =
        (convertedElem c src bad i).1) ∧
      ∀ y, y < (if c.out then c.pw else c.ws) →
        nth false (convertBytes c src bad).2 ((if c.out then c.pw else c.ws) * i + y) = (convertedElem c src bad i).2.1 := by
  have hn : src.length / (if c.out then c.ws else c.pw) = n := by
    rw [hl, Nat.mul_div_cancel _ hw]
  have hmem {i : Nat} (hi : i ∈ upTo n) : i < n := List.mem_range.mp hi
  have h1 : ∀ i ∈ upTo n, (convertedElem c src bad i).1.length = (if c.out then c.pw else c.ws) := fun i hi =>
    (convertedElem_length hl (hmem hi)).1
  have h2 : ∀ i ∈ upTo n, (List.replicate (convertedElem c src bad i).2.2 (convertedElem c src bad i).2.1).length =
      (if c.out then c.pw else c.ws) := fun i hi => by
    rw [List.length_replicate]
    exact (convertedElem_length hl (hmem hi)).2
  have hlen : (upTo n).length = n := List.length_range
  rw [convertBytes_eq, hn]
  refine ⟨(length_flatMap_const h1).trans (by rw [hlen]), (length_flatMap_const h2).trans (by rw [hlen]), fun i hi => ?_⟩
  have hget : (upTo n)[i]? = some i := List.getElem?_range hi
  refine ⟨take_drop_flatMap h1 hget, fun y hy => nth_of_take_drop ?_ hy⟩
  refine (take_drop_flatMap h2 hget).trans ?_
  rw [(convertedElem_length hl hi).2]

theorem streamSteps_converts {c : Cmd} {src : List Byte} {bad : List Bool} {n : Nat} (hw : 0 < (if c.out then c.ws else c.pw))
    (hl : src.length = n * (if c.out then c.ws else c.pw)) :
    let w := if c.out then c.ws else c.pw
    let v := if c.out then c.pw else c.ws
    let r := convertBytes c src bad
    r.1.length = n * v ∧ r.2.length = n * v ∧ ∀ i, i < n →
      let x := leNat ((src.drop (w * i)).take w)
      let narrow := convert c.ty .f32 (Mode.ofCode c.mode) 0 false false x
      leNat ((r.1.drop (v * i)).take v) = (if c.cv = false then x else if c.out then narrow.bits % 2 ^ (8 * v)
        else (convert .f32 c.ty .rne 0 false false x).bits % 2 ^ 32) ∧
      ∀ y, y < v → nth false r.2 (v * i + y) =
        (c.poison || ((bad.drop (w * i)).take w).any (fun b => b) || (c.cv && c.out && narrow.poison)) := by
  obtain ⟨h1, h2, h3⟩ := convertBytes_elements (bad := bad) hw hl
  refine ⟨h1, h2, fun i hi => ?_⟩
  obtain ⟨hval, hbad⟩ := h3 i hi
  refine ⟨?_, fun y hy => (hbad y hy).trans convertedElem_bad⟩
  rw [hval]
  exact convertedElem_value

/-- The commands of a tile publish their tails. -/
theorem tailPublish_tails (s : State) (t : Nat) : ∃ u, exec (.tailPublish t) s = .next u ∧ u.mem = s.mem ∧
    (∀ c ∈ (coreAt s t).eng0 ++ (coreAt s t).eng1, (t, c.ord, c.graph, tailOf c) ∈ u.tails) ∧
    ∀ x, x.1 ≠ t → (x ∈ u.tails ↔ x ∈ s.tails) := by
  refine ⟨_, rfl, rfl, fun c hc => List.mem_append_right _ (List.mem_map.mpr ⟨c, hc, rfl⟩), fun x hx => ?_⟩
  constructor
  · intro h
    rcases List.mem_append.mp h with h | h
    · exact (List.mem_filter.mp h).1
    · obtain ⟨d, _, rfl⟩ := List.mem_map.mp h
      exact absurd rfl hx
  · intro h
    exact List.mem_append_left _ (List.mem_filter.mpr ⟨h, by simpa using hx⟩)

end Sys2Proof.Machine

namespace Sys2Proof.Machine

/-! A word of a chunk at its bank or at its port (R246, R247, R293). -/

/-- A state that differs in its cores alone, and there not in the operand buffers. -/
def SameButBanks (s u : State) : Prop := u = { s with cores := u.cores } ∧ ∀ t, (coreAt u t).ob = (coreAt s t).ob

theorem sameButBanks_refl (s : State) : SameButBanks s s := ⟨rfl, fun _ => rfl⟩

theorem sameButBanks_turn (s : State) (tile : Nat) (f : Core → Map Nat) : SameButBanks s (updCore s tile (fun x => { x with bankRR := f x })) := by
  refine ⟨rfl, fun t => ?_⟩
  rw [updCore, coreAt_setCore]
  split_ifs with h
  · rw [h]
  · rfl

/-- Where a word of a chunk has its instant: at its port, or where a bank serves it. -/
theorem exec_wordServed {s : State} {i : Instr} {id tile bank q t j : Nat} {bad : Bool} {c : Cmd} {k : Chunk}
    (h : (i = .accessAtOwningPoint id j bad ∧ accAt s id = none ∧ chunkAt s id = some (t, c, k) ∧ asleep s t = false ∧ offBank c k j = true) ∨
      (i = .bankServe tile bank bad ∧ asleep s tile = false ∧ nextRequest s tile bank = some (q, .part t c k j))) :
    ∃ u, SameButBanks s u ∧ exec i s = .next (serveChunk u t c k j) := by
  rcases h with ⟨rfl, ha, hc, hw, ho⟩ | ⟨rfl, hw, hn⟩
  · refine ⟨s, sameButBanks_refl s, ?_⟩
    have hx : exec (.accessAtOwningPoint id j bad) s = execAccessAtOwningPoint id j bad s := rfl
    rw [hx, execAccessAtOwningPoint, ha, hc]
    dsimp only
    rw [hw, ho]
    exact congrArg Host.Outcome.next ((if_neg Bool.false_ne_true).trans (if_pos rfl))
  · refine ⟨_, sameButBanks_turn s tile (fun x => setD 5 bank q x.bankRR), ?_⟩
    have hx : exec (.bankServe tile bank bad) s = execBankServe tile bank bad s := rfl
    rw [hx, execBankServe, hw, hn]
    exact congrArg Host.Outcome.next (if_neg Bool.false_ne_true)

section Same

variable {s u : State} (h : SameButBanks s u)
include h

theorem SameButBanks.sameDeck : SameDeck u s := by
  rw [h.1]
  exact ⟨rfl, rfl, rfl, rfl⟩

theorem SameButBanks.mem_eq : u.mem = s.mem := by
  rw [h.1]

theorem SameButBanks.inflight_eq : u.inflight = s.inflight := by
  rw [h.1]

theorem SameButBanks.lineBad_eq (pa : Nat) : lineBad u pa = lineBad s pa := by
  rw [h.1]
  rfl

theorem SameButBanks.coreEnd_eq : coreEnd u = coreEnd s := by
  rw [h.1]
  rfl

theorem SameButBanks.placeEnd_eq : placeEnd u = placeEnd s := by
  rw [h.1]
  rfl

theorem SameButBanks.portGone_eq (k : Chunk) : portGone u k = portGone s k := by
  rw [h.1]
  rfl

theorem SameButBanks.requestRoute_eq (t : Nat) (p : Path) (pa : Nat) : requestRoute u t p pa = requestRoute s t p pa := by
  rw [requestRoute, requestRoute, h.placeEnd_eq, h.coreEnd_eq, h.sameDeck.deckLink_eq]

theorem SameButBanks.answerRoute_eq (t : Nat) (p : Path) (pa : Nat) : answerRoute u t p pa = answerRoute s t p pa := by
  rw [answerRoute, answerRoute, h.placeEnd_eq, h.coreEnd_eq, h.sameDeck.deckLink_eq]

theorem SameButBanks.canRead_eq (t : Nat) (c : Cmd) (k : Chunk) (j : Nat) : canRead u t c k j = canRead s t c k j := by
  rw [canRead, canRead, chunkRoutes, chunkRoutes, h.requestRoute_eq, h.answerRoute_eq, h.portGone_eq]

theorem SameButBanks.writeLost_eq (t : Nat) (c : Cmd) (k : Chunk) : writeLost u t c k = writeLost s t c k := by
  have hd : devId u = devId s := by
    rw [h.1]
    rfl
  rw [writeLost, writeLost, h.requestRoute_eq, h.portGone_eq, hd]

theorem SameButBanks.canWrite_eq (t : Nat) (c : Cmd) (k : Chunk) (j : Nat) : canWrite u t c k j = canWrite s t c k j := by
  have hh : writeHeld u t c k = writeHeld s t c k := by
    rw [writeHeld, writeHeld, aheadMeets, aheadMeets, h.inflight_eq]
  rw [canWrite, canWrite, hh, h.writeLost_eq]

end Same

/-- What a read finds in its own range: each byte of a bad line is poisoned. -/
theorem linePoison_discover_inside (s : State) {pa n i : Nat} (hi : i < n) : linePoison (discover s pa n) (pa + i) = lineBad s (pa + i) := by
  have ho : overlap (64 * ((pa + i) / 64)) 64 pa n = true := by
    rw [overlap, Bool.and_eq_true, decide_eq_true_eq, decide_eq_true_eq]
    omega
  rw [linePoison_discover, ho, Bool.and_true, lineBad]

theorem readRange_finds (s : State) (pa n : Nat) : readRange s pa n false =
    (discover s pa n, readBytes s pa n, (upTo n).map (fun x => lineBad s (pa + x))) := by
  rw [readRange, if_neg Bool.false_ne_true]
  dsimp only
  rw [readBytes_of_mem (discover_mem s pa n)]
  refine congrArg (fun l => (_, _, l)) (List.map_congr_left fun i hi => linePoison_discover_inside s (List.mem_range.mp hi))

theorem serveChunk_reads {s : State} {t j : Nat} {c : Cmd} {k : Chunk} (hj : j < 64) (hr : canRead s t c k j = true)
    (hl : c.out = true ∨ portGone s k = false) : ∃ v d, serveChunk s t c k j = putChunk v t c d ∧ v.mem = s.mem ∧ v.inflight = s.inflight ∧
      d = { k with
        data := overlay k.data (readBytes s (wordPart (srcBase t c k) (srcLen c k) j).1 (wordPart (srcBase t c k) (srcLen c k) j).2)
          ((wordPart (srcBase t c k) (srcLen c k) j).1 - srcBase t c k)
        bad := overlay k.bad ((upTo (wordPart (srcBase t c k) (srcLen c k) j).2).map (fun x =>
          lineBad s ((wordPart (srcBase t c k) (srcLen c k) j).1 + x))) ((wordPart (srcBase t c k) (srcLen c k) j).1 - srcBase t c k)
        src := j :: k.src } := by
  have hlost : (!c.out && portGone s k) = false := by
    rcases hl with h | h <;> rw [h]
    · rfl
    · exact Bool.and_false _
  refine ⟨_, _, ?_, discover_mem s (wordPart (srcBase t c k) (srcLen c k) j).1 (wordPart (srcBase t c k) (srcLen c k) j).2,
    discover_inflight .., rfl⟩
  rw [serveChunk, if_pos hj, readWord, hr, hlost]
  dsimp only
  rw [readRange_finds]
  rfl

/-! What a word of a chunk writes. -/

theorem linePoison_foldl_setLinePoison (key : Nat → Nat) (b : Bool) (l : List Nat) (s : State) (a : Nat) :
    linePoison (l.foldl (fun s i => setLinePoison s (key i) b) s) a = if a / 64 ∈ l.map (fun i => key i / 64) then b else linePoison s a := by
  induction l generalizing s with
  | nil => rfl
  | cons i l ih =>
    rw [List.foldl_cons, ih, linePoison_setLinePoison, List.map_cons]
    by_cases h1 : a / 64 ∈ l.map (fun i => key i / 64)
    · simp [h1]
    · simp [h1]

theorem linePoison_writeRange {bad : List Bool} {i : Nat} (s : State) (pa : Nat) (data : List Byte) (h : nth false bad i = true) :
    linePoison (writeRange s pa data bad) (pa + i) = true := by
  have hi : i < bad.length := by
    by_contra hn
    rw [nth_eq_getD, List.getD_eq_getElem?_getD, List.getElem?_eq_none (Nat.not_lt.mp hn)] at h
    exact absurd h Bool.false_ne_true
  rw [writeRange, linePoison_foldl_setLinePoison (fun i => pa + i) true]
  exact if_pos (List.mem_map.mpr ⟨i, List.mem_filter.mpr ⟨List.mem_range.mpr hi, h⟩, rfl⟩)

theorem readByte_writeRange (s : State) (pa : Nat) (data : List Byte) (bad : List Bool) (a : Nat) :
    readByte (writeRange s pa data bad) a = readByte (writeClean s pa data) a := by
  rw [readByte, readByte, writeRange_mem]

/-- A chunk that leaves its last word clean leaves a line with a bad byte of its own poisoned. -/
theorem linePoison_filled {s : State} {t : Nat} {c : Cmd} {k : Chunk} {bad : List Bool} {x : Nat} (hp : c.out = false ∨ portOb c.port = none)
    (hb : nth false bad x = true) (h : linePoison s (dstBase t c k + x) = true) :
    linePoison (filled s t c k bad) (dstBase t c k + x) = true := by
  have hport : (if c.out then portOb c.port else none) = none := by
    rcases hp with h | h <;> rw [h]
    · rfl
    · exact ite_self none
  unfold filled
  dsimp only
  rw [hport]
  refine (linePoison_foldl_setLinePoison (fun g => 64 * g) false _ s _).trans ((if_neg fun hm => ?_).trans h)
  obtain ⟨g, hg, hk⟩ := List.mem_map.mp hm
  obtain ⟨hwhole, hclean⟩ := List.mem_filter.mp hg
  obtain ⟨i, hi, hin⟩ := List.mem_filterMap.mp hwhole
  have hgi : dstBase t c k ≤ 64 * g := by
    split_ifs at hin with hle
    obtain rfl := Option.some.inj hin
    omega
  have hx : ((bad.drop (64 * g - dstBase t c k)).take 64)[x - (64 * g - dstBase t c k)]? = some true := by
    rw [List.getElem?_take_of_lt (by omega), List.getElem?_drop, Nat.add_sub_cancel' (by omega)]
    rw [nth_eq_getD, List.getD_eq_getElem?_getD] at hb
    cases hv : bad[x]? with
    | none => rw [hv] at hb; exact absurd hb Bool.false_ne_true
    | some b => rw [hv] at hb; exact congrArg some hb
  have hany : ((bad.drop (64 * g - dstBase t c k)).take 64).any (fun b => b) = true :=
    List.any_eq_true.mpr ⟨true, List.mem_of_getElem? hx, rfl⟩
  rw [hany] at hclean
  exact absurd hclean (by decide)

section Write

variable {s : State} {t j : Nat} {c : Cmd} {k : Chunk} (hj : 64 ≤ j) (hw : canWrite s t c k (j - 64) = true)
include hj hw

/-- A word written: the chunk notes it, and with its last word the lines it filled are clean. -/
theorem serveChunk_writes : serveChunk s t c k j =
    (let r := convertBytes c k.data k.bad
    let p := wordPart (dstBase t c k) (dstLen c k) (j - 64)
    let o := p.1 - dstBase t c k
    let u := match (if c.out then portOb c.port else none) with
      | some b => writeOb s t b p.1 ((r.1.drop o).take p.2) ((r.2.drop o).take p.2)
      | none => writeRange s p.1 ((r.1.drop o).take p.2) ((r.2.drop o).take p.2)
    let d := { k with dst := (j - 64) :: k.dst }
    putChunk (if allWritten t c d then filled u t c d r.2 else u) t c d) := by
  rw [serveChunk, if_neg (Nat.not_lt.mpr hj), writeWord]
  refine (if_neg ?_).trans rfl
  rw [hw]
  decide

end Write

end Sys2Proof.Machine

namespace Sys2Proof.Machine

theorem le_wordPart (base len j : Nat) : base ≤ (wordPart base len j).1 := by
  unfold wordPart
  dsimp only
  split_ifs with h
  · exact Nat.le_refl base
  · exact Nat.not_lt.mp h

theorem filled_mem (s : State) (t : Nat) (c : Cmd) (k : Chunk) (bad : List Bool) : (filled s t c k bad).mem = s.mem := by
  unfold filled
  dsimp only
  cases (if c.out then portOb c.port else none) with
  | none => exact foldl_keeps State.mem (fun s g => setLinePoison s (64 * g) false) (fun _ _ => rfl) _ _
  | some b => rfl

theorem updCore_ob (s : State) (t : Nat) {f : Core → Core} (hf : ∀ x, (f x).ob = x.ob) :
    (coreAt (updCore s t f) t).ob = (coreAt s t).ob := by
  rw [coreAt_updCore, hf]

theorem filled_ob {s : State} {t b : Nat} {c : Cmd} {k : Chunk} {bad : List Bool} (ho : c.out = true) (hp : portOb c.port = some b) :
    (coreAt (filled s t c k bad) t).ob = (coreAt s t).ob := by
  unfold filled
  dsimp only
  rw [ho, if_pos rfl, hp]
  exact updCore_ob { s with struck := _ } t fun _ => rfl

theorem putChunk_ob (s : State) (t : Nat) (c : Cmd) (k : Chunk) : (coreAt (putChunk s t c k) t).ob = (coreAt s t).ob := by
  rw [putChunk, putCmd, coreAt_updCore, setEng]
  split_ifs <;> rfl

theorem linePoison_putChunk (s : State) (t : Nat) (c : Cmd) (k : Chunk) (a : Nat) : linePoison (putChunk s t c k) a = linePoison s a := rfl

/-- The part of the converted bytes that a word holds. -/
theorem nth_part {α : Type} (d : α) (l : List α) {o n x : Nat} (h : x < n) : nth d ((l.drop o).take n) x = nth d l (o + x) := by
  rw [nth_eq_getD, nth_eq_getD, List.getD_eq_getElem?_getD, List.getD_eq_getElem?_getD, List.getElem?_take_of_lt h, List.getElem?_drop]

theorem length_part {α : Type} (l : List α) {o n x : Nat} (h : x < n) (hl : o + x < l.length) : x < ((l.drop o).take n).length := by
  rw [List.length_take, List.length_drop]
  omega

section Write

variable {s : State} {t j : Nat} {c : Cmd} {k : Chunk} (hj : 64 ≤ j) (hw : canWrite s t c k (j - 64) = true)
include hj hw

theorem serveChunk_writesMemory (hp : c.out = false ∨ portOb c.port = none) :
    let dst := wordPart (dstBase t c k) (dstLen c k) (j - 64)
    let r := convertBytes c k.data k.bad
    let o := dst.1 - dstBase t c k
    (∀ x, x < dst.2 → o + x < r.1.length → readByte (serveChunk s t c k j) (dst.1 + x) = nth 0 r.1 (o + x)) ∧
      (∀ x, x < dst.2 → nth false r.2 (o + x) = true → linePoison (serveChunk s t c k j) (dst.1 + x) = true) ∧
      ∀ pa, pa < dst.1 ∨ dst.1 + dst.2 ≤ pa → readByte (serveChunk s t c k j) pa = readByte s pa := by
  have hport : (if c.out then portOb c.port else none) = none := by
    rcases hp with h | h <;> rw [h]
    · rfl
    · exact ite_self none
  have hbase := le_wordPart (dstBase t c k) (dstLen c k) (j - 64)
  have hS := serveChunk_writes hj hw
  dsimp only at hS ⊢
  rw [hport] at hS
  dsimp only at hS
  generalize wordPart (dstBase t c k) (dstLen c k) (j - 64) = dst at hbase hS ⊢
  generalize convertBytes c k.data k.bad = r at hS ⊢
  have hbyte (pa : Nat) : readByte (serveChunk s t c k j) pa = readByte (writeClean s dst.1 ((r.1.drop (dst.1 - dstBase t c k)).take dst.2)) pa := by
    rw [← readByte_writeRange s dst.1 _ ((r.2.drop (dst.1 - dstBase t c k)).take dst.2), hS]
    refine readByte_of_mem_eq ?_ pa
    refine (putChunk_memory ..).1.trans ?_
    split_ifs
    · exact filled_mem ..
    · rfl
  refine ⟨fun x hx hlen => ?_, fun x hx hbad => ?_, fun pa hpa => ?_⟩
  · rw [hbyte, readByte_writeClean_inside _ _ _ x (length_part _ hx hlen), ← nth_part 0 r.1 hx, nth_eq_getD,
      List.getD_eq_getElem _ _ (length_part _ hx hlen)]
  · have hpart : nth false ((r.2.drop (dst.1 - dstBase t c k)).take dst.2) x = true := by rw [nth_part false r.2 hx, hbad]
    have hline := linePoison_writeRange s dst.1 ((r.1.drop (dst.1 - dstBase t c k)).take dst.2) hpart
    have hat : dst.1 + x = dstBase t c k + (dst.1 - dstBase t c k + x) := by omega
    rw [hS, linePoison_putChunk]
    split_ifs
    · rw [hat] at hline ⊢
      exact linePoison_filled (k := { k with dst := (j - 64) :: k.dst }) hp hbad hline
    · exact hline
  · rw [hbyte, readByte_writeClean_outside]
    rcases hpa with h | h
    · exact Or.inl h
    · refine Or.inr (Nat.le_trans ?_ h)
      exact Nat.add_le_add_left (List.length_take_le ..) _

omit hj hw in
/-- The bytes of a buffer after a run of them is written. -/
theorem getD_foldl_zip (base : Nat) (data : List Byte) (i : Nat) (m : Map Byte) (y : Nat) :
    getD 0 y (((List.range' i data.length).zip data).foldl (fun m e => setD 0 (base + e.1) e.2 m) m) =
      if base + i ≤ y ∧ y < base + i + data.length then nth 0 data (y - base - i) else getD 0 y m := by
  induction data generalizing i m with
  | nil => exact (if_neg (by simp)).symm
  | cons b data ih =>
    rw [List.length_cons, List.range'_succ, List.zip_cons_cons, List.foldl_cons, ih, getD_setD]
    by_cases hy : y = base + i
    · subst hy
      rw [if_neg (by omega), if_pos rfl, if_pos (by omega), Nat.add_sub_cancel_left, Nat.sub_self]
      rfl
    · rw [if_neg hy]
      by_cases hin : base + (i + 1) ≤ y ∧ y < base + (i + 1) + data.length
      · have hs : y - base - i = (y - base - (i + 1)) + 1 := by omega
        rw [if_pos hin, if_pos (by omega), hs]
        rfl
      · rw [if_neg hin, if_neg (by omega)]

omit hj hw in
theorem writeOb_ob (s : State) (t b o : Nat) (data : List Byte) (bad : List Bool) (y : Nat) :
    getD 0 y (coreAt (writeOb s t b o data bad) t).ob =
      if 18432 * b + o ≤ y ∧ y < 18432 * b + o + data.length then nth 0 data (y - (18432 * b + o)) else getD 0 y (coreAt s t).ob := by
  rw [writeOb, coreAt_updCore]
  dsimp only
  rw [upTo, List.range_eq_range']
  exact getD_foldl_zip (18432 * b + o) data 0 (coreAt s t).ob y

theorem serveChunk_writesBuffer {b : Nat} (ho : c.out = true) (hp : portOb c.port = some b) :
    let dst := wordPart (dstBase t c k) (dstLen c k) (j - 64)
    let r := convertBytes c k.data k.bad
    let o := dst.1 - dstBase t c k
    (serveChunk s t c k j).mem = s.mem ∧
      (∀ x, x < dst.2 → o + x < r.1.length →
        getD 0 (18432 * b + dst.1 + x) (coreAt (serveChunk s t c k j) t).ob = nth 0 r.1 (o + x)) ∧
      ∀ y, y < 18432 * b + dst.1 ∨ 18432 * b + dst.1 + dst.2 ≤ y →
        getD 0 y (coreAt (serveChunk s t c k j) t).ob = getD 0 y (coreAt s t).ob := by
  have hS := serveChunk_writes hj hw
  dsimp only at hS ⊢
  rw [ho, if_pos rfl, hp] at hS
  dsimp only at hS
  generalize wordPart (dstBase t c k) (dstLen c k) (j - 64) = dst at hS ⊢
  generalize convertBytes c k.data k.bad = r at hS ⊢
  have hob (y : Nat) := writeOb_ob s t b dst.1 ((r.1.drop (dst.1 - dstBase t c k)).take dst.2) ((r.2.drop (dst.1 - dstBase t c k)).take dst.2) y
  have hcore : (coreAt (serveChunk s t c k j) t).ob = (coreAt (writeOb s t b dst.1 ((r.1.drop (dst.1 - dstBase t c k)).take dst.2)
      ((r.2.drop (dst.1 - dstBase t c k)).take dst.2)) t).ob := by
    rw [hS, putChunk_ob]
    split_ifs
    · exact filled_ob ho hp
    · rfl
  refine ⟨?_, fun x hx hlen => ?_, fun y hy => ?_⟩
  · rw [hS]
    refine (putChunk_memory ..).1.trans ?_
    split_ifs
    · exact filled_mem ..
    · rfl
  · have hin := length_part r.1 hx hlen
    rw [hcore, hob, if_pos (by omega), Nat.add_sub_cancel_left, nth_part 0 r.1 hx]
  · have hlen : ((r.1.drop (dst.1 - dstBase t c k)).take dst.2).length ≤ dst.2 := List.length_take_le ..
    rw [hcore, hob, if_neg (by omega)]

end Write

/-- Settles O49: each event of a stream engine by its own case, the words of a chunk through `serveChunk` where they have their instant, and
the conversion element by element. -/
theorem streamSteps : Obligations.StreamSteps := by
  unfold Obligations.StreamSteps
  refine ⟨fun s t e n h => streamSteps_asleep h e n, fun s t ha => ⟨streamDispatch_idle ha, fun c hd => streamDispatch_starts ha hd⟩,
    fun s s' t e c ha hr hh hc hp hn hl hf => ⟨fun f cls x he => streamChunkStart_fault ha hr hh hc hp hn hl hf he,
      fun pa p he hw hro => streamChunkStart_starts ha hr hh hc hp hn hl hf he hw hro,
      fun pa p he hw => streamChunkStart_waits ha hr hh hc hp hn hl hf he hw⟩,
    fun s t e n c k hp ha => ⟨fun d f cls hd hf hk => streamChunkDone_fault hp ha hd hf hk, fun hf hw hc hl =>
      ⟨streamChunkDone_unread hp ha hf hw hc hl, streamChunkDone_sends hp ha hf hw hc hl, streamChunkDone_unwritten hp ha hf hw hc hl,
        streamChunkDone_ends hp ha hf hw hc hl⟩⟩,
    fun s i id tile bank q t j bad c k h => ?_, fun c src bad n hw hl => streamSteps_converts hw hl, tailPublish_tails⟩
  obtain ⟨u, hu, hx⟩ := exec_wordServed h
  refine ⟨fun hj hr hl => ?_, fun hj hw hp => ?_, fun b hj hw ho hp => ?_⟩
  · rw [← hu.canRead_eq] at hr
    rw [← hu.portGone_eq] at hl
    obtain ⟨v, d, hv, hm, hi, hd⟩ := serveChunk_reads hj hr hl
    refine ⟨v, d, hx.trans (congrArg Host.Outcome.next hv), hm.trans hu.mem_eq, hi.trans hu.inflight_eq, ?_⟩
    rw [hd, readBytes_of_mem hu.mem_eq]
    simp only [hu.lineBad_eq]
  · rw [← hu.canWrite_eq] at hw
    obtain ⟨h1, h2, h3⟩ := serveChunk_writesMemory hj hw hp
    exact ⟨_, hx, h1, h2, fun pa hpa => (h3 pa hpa).trans (readByte_of_mem_eq hu.mem_eq pa)⟩
  · rw [← hu.canWrite_eq] at hw
    obtain ⟨h1, h2, h3⟩ := serveChunk_writesBuffer hj hw ho hp
    exact ⟨_, hx, h1.trans hu.mem_eq, h2, fun y hy => (h3 y hy).trans (by rw [hu.2])⟩

end Sys2Proof.Machine

namespace Sys2Proof.Machine

/-! How an opened bundle runs (R112, R155, R314, R316). -/

section Bundle

variable {run : Instr → State → Result} {src : Regs}

/-- A chain of states, each of which the next syllable of a list makes of the one before. -/
def Chained (run : Instr → State → Result) (src : Regs) (m : List (Nat × Instr)) (c : Nat → State) : Prop :=
  ∀ j e, m[j]? = some e → runSyllable run src (c j) e = .next (c (j + 1))

theorem Chained.tail {e : Nat × Instr} {m : List (Nat × Instr)} {c : Nat → State} (h : Chained run src (e :: m) c) :
    Chained run src m (fun j => c (j + 1)) := fun j x hx => h (j + 1) x hx

theorem runAll_chained {m : List (Nat × Instr)} {c : Nat → State} (h : Chained run src m c) : runAll run src m (c 0) = .next (c m.length) := by
  induction m generalizing c with
  | nil => rfl
  | cons e m ih =>
    rw [runAll, h 0 e rfl]
    exact ih h.tail

theorem runThrough_chained {m : List (Nat × Instr)} {c : Nat → State} (h : Chained run src m c)
    (hgo : ∀ j, 0 < j → j ≤ m.length → (c j).issue.flow = .go) : runThrough run src m (c 0) = some (.next (c m.length)) := by
  induction m generalizing c with
  | nil => rfl
  | cons e m ih =>
    rw [runThrough, h 0 e rfl]
    refine (if_pos (hgo 1 Nat.one_pos (Nat.succ_le_succ (Nat.zero_le _)))).trans ?_
    exact ih h.tail fun j hj hl => hgo (j + 1) (Nat.succ_pos j) (Nat.succ_le_succ hl)

variable {s r : State} {l : List (Nat × Instr)} {e : Nat × Instr}

theorem endsWith_of_next (hr : runSyllable run s.issue.src s e = .next r) (f : Flow) : endsWith run s f e = (r.issue.flow == f) := by
  rw [endsWith, hr]

/-- A syllable ends with one flow. -/
theorem endsWith_apart {f g : Flow} (h : endsWith run s f e = true) (hfg : f ≠ g) : endsWith run s g e = false := by
  unfold endsWith at h
  split at h
  next t ht =>
    rw [endsWith, ht]
    exact beq_eq_false_iff_ne.mpr fun hg => hfg ((beq_iff_eq.mp h).symm.trans hg)
  next => exact absurd h Bool.false_ne_true

theorem runOpened_lacks (h : l.find? (lacksEntry run s) = some e) : runOpened run s l = runSyllable run s.issue.src s e := by
  rw [runOpened, h]

theorem find?_eq_none_of_false {α : Type} {p : α → Bool} {l : List α} (h : ∀ a ∈ l, p a = false) : l.find? p = none :=
  List.find?_eq_none.mpr fun a ha => by rw [h a ha]; exact Bool.false_ne_true

theorem find?_of_split {α : Type} {p : α → Bool} {a b : List α} {x : α} (hx : p x = true) (ha : ∀ y ∈ a, p y = false) :
    (a ++ x :: b).find? p = some x := by
  rw [List.find?_append, find?_eq_none_of_false ha, List.find?_cons_of_pos hx]
  rfl

theorem find?_and {α : Type} {p q : α → Bool} {l : List α} (h : ∀ a ∈ l, p a = true → q a = false) : l.find? (fun a => p a && q a) = none := by
  refine find?_eq_none_of_false fun a ha => ?_
  cases hp : p a with
  | false => rfl
  | true => exact h a ha hp

/-- R316: of several syllables that freeze, a multiply's fault is the first, and the first of all where no multiply freezes. -/
theorem firstFault_of_split {a b : List (Nat × Instr)} (hf : endsWith run s .freeze e = true)
    (h : if isMultiply e.2 then ∀ x ∈ a, isMultiply x.2 = true → endsWith run s .freeze x = false
      else (∀ x ∈ a, endsWith run s .freeze x = false) ∧ ∀ x ∈ a ++ e :: b, isMultiply x.2 = true → endsWith run s .freeze x = false) :
    firstFault run s (a ++ e :: b) = some e := by
  unfold firstFault
  dsimp only
  cases hm : isMultiply e.2 with
  | true =>
    rw [hm, if_pos rfl] at h
    have hfind : (a ++ e :: b).find? (fun e => isMultiply e.2 && endsWith run s .freeze e) = some e :=
      find?_of_split (by rw [hm, hf]; rfl) fun y hy => by
        cases hy' : isMultiply y.2 with
        | false => rfl
        | true => exact h y hy hy'
    rw [hfind]
  | false =>
    rw [hm, if_neg Bool.false_ne_true] at h
    rw [find?_and h.2]
    exact find?_of_split hf h.1

theorem firstFault_none (h : ∀ e ∈ l, endsWith run s .freeze e = false) : firstFault run s l = none := by
  unfold firstFault
  dsimp only
  rw [find?_and fun e he _ => h e he]
  exact find?_eq_none_of_false h

variable (hl : ∀ e ∈ l, lacksEntry run s e = false)
include hl

section Fault

variable (hf : firstFault run s l = some e)
include hf

/-- R316: the first fault freezes, unless a syllable before it has still to be checked. -/
theorem runOpened_freezes (hu : ¬(isMultiply e.2 = false ∧ ∃ x ∈ l.filter (endsWith run s .wait), x.1 < e.1 ∧ checks x.2 = true)) :
    runOpened run s l = runSyllable run s.issue.src s e := by
  have hw : (l.filter (endsWith run s .wait)).any (fun x => x.1 < e.1 && !isMultiply e.2 && checks x.2) = false := by
    refine List.any_eq_false.mpr fun x hx hc => hu ?_
    simp only [Bool.and_eq_true, decide_eq_true_eq, Bool.not_eq_true'] at hc
    obtain ⟨⟨hlt, hm⟩, hck⟩ := hc
    exact ⟨hm, x, hx, hlt, hck⟩
  rw [runOpened, find?_eq_none_of_false hl, hf]
  exact if_neg (by rw [hw]; exact Bool.false_ne_true)

theorem runOpened_checksFirst (hu : isMultiply e.2 = false ∧ ∃ x ∈ l.filter (endsWith run s .wait), x.1 < e.1 ∧ checks x.2 = true) :
    runOpened run s l = runAll run s.issue.src (l.filter (endsWith run s .wait)) s := by
  obtain ⟨hm, x, hx, hlt, hck⟩ := hu
  have hw : (l.filter (endsWith run s .wait)).any (fun x => x.1 < e.1 && !isMultiply e.2 && checks x.2) = true :=
    List.any_eq_true.mpr ⟨x, hx, by rw [decide_eq_true hlt, hm, hck]; rfl⟩
  rw [runOpened, find?_eq_none_of_false hl, hf]
  exact if_pos hw

end Fault

theorem runOpened_waits (hf : ∀ e ∈ l, endsWith run s .freeze e = false) (hw : l.filter (endsWith run s .wait) ≠ []) :
    runOpened run s l = runAll run s.issue.src (l.filter (endsWith run s .wait)) s := by
  rw [runOpened, find?_eq_none_of_false hl, firstFault_none hf]
  exact if_neg (by simpa using hw)

/-- R112, R155: all its syllables take effect, that of class C last, and the bundle has committed. -/
theorem runOpened_commits {c : Nat → State} {th : Thread} (hgo : ∀ e ∈ l, endsWith run s .go e = true) (hth : threadAt s s.issue.key = some th)
    (hc : Chained run s.issue.src (l.filter (fun e => !isControl s e) ++ l.filter (isControl s)) c) (h0 : c 0 = s)
    (hall : ∀ j, 0 < j → j ≤ (l.filter (fun e => !isControl s e) ++ l.filter (isControl s)).length → (c j).issue.flow = .go) :
    runOpened run s l =
      .next (committed (c (l.filter (fun e => !isControl s e) ++ l.filter (isControl s)).length) s.issue.key th.uid) := by
  have hf : ∀ e ∈ l, endsWith run s .freeze e = false := fun e he => endsWith_apart (hgo e he) (by decide)
  have hw : l.filter (endsWith run s .wait) = [] := List.filter_eq_nil_iff.mpr fun e he => by
    rw [endsWith_apart (hgo e he) (by decide : Flow.go ≠ .wait)]
    exact Bool.false_ne_true
  have hrun := runThrough_chained hc hall
  rw [h0] at hrun
  rw [runOpened, find?_eq_none_of_false hl, firstFault_none hf, hw, hrun, hth]
  rfl

end Bundle

end Sys2Proof.Machine

namespace Sys2Proof.Machine

/-! An issue cycle opens the bundle of the thread that it selects. -/

theorem yieldsOver_issue (l : List Nat) (s : State) : (yieldsOver l s).issue = s.issue :=
  foldl_keeps State.issue _ (fun s k => updThread_issue s k _) l s

/-- The end of a wait of YIELD leaves every thread its uid. -/
theorem threadAt_yieldsOver {s : State} {k : Nat} {th : Thread} (l : List Nat) (h : threadAt s k = some th) :
    ∃ x, threadAt (yieldsOver l s) k = some x ∧ x.uid = th.uid := by
  induction l generalizing s th with
  | nil => exact ⟨th, h, rfl⟩
  | cons j l ih =>
    rw [yieldsOver, List.foldl_cons]
    by_cases hj : k = j
    · obtain ⟨x, hx, hu⟩ := ih (s := updThread s j fun th => if th.status = .waiting .yield then { th with status := .ready } else th)
        (th := if th.status = .waiting .yield then { th with status := .ready } else th) (by
          rw [threadAt_updThread, if_pos hj, ← hj, h]
          rfl)
      refine ⟨x, hx, hu.trans ?_⟩
      split_ifs <;> rfl
    · exact ih (by rw [threadAt_updThread, if_neg hj, h])

theorem endsWith_of_src {run : Instr → State → Result} {s : State} {src : Regs} {e : Nat × Instr} (h : s.issue.src = src) (f : Flow) :
    endsWith run s f e = match runSyllable run src s e with
      | .next t => t.issue.flow == f
      | _ => false := by
  subst h
  rfl

theorem lacksEntry_of_src {run : Instr → State → Result} {s : State} {src : Regs} {k : Nat} {e : Nat × Instr} (h : s.issue.src = src)
    (hk : s.issue.key = k) : lacksEntry run s e = match runSyllable run src s e with
      | .next t => (threadAt t k).any (fun th => th.status == .waiting .operand)
      | _ => false := by
  subst h hk
  rfl

theorem runAll_from {run : Instr → State → Result} {src : Regs} {s : State} {m : List (Nat × Instr)} {c : Nat → State}
    (h : c 0 = s ∧ Chained run src m c) : runAll run src m s = .next (c m.length) := by
  rw [← h.1]
  exact runAll_chained h.2

section Opened

variable {s : State} {t k : Nat} {l : List Instr}

theorem stepWith_issueCycle (h : s.sched = .issueCycle t :: l) : step s = runBundle exec (exec (.issueCycle t) { s with sched := l }) := by
  have hn : nextStep exec s = (.issueCycle t, { s with sched := l }) := by
    rw [nextStep, h]
    rfl
  rw [step, stepWith, hn]

theorem runBundle_opened {o : State} {m : List (Nat × Instr)} (h : o.issue.todo = m) (hm : m ≠ []) :
    runBundle exec (.next o) = closeIssue (runOpened exec { o with issue := { o.issue with todo := [] } } m) := by
  subst h
  rw [runBundle]
  cases ht : o.issue.todo with
  | nil => exact absurd ht hm
  | cons e m => rfl

end Opened

/-- Settles O1: the step opens the bundle that is selected, and the bundle runs: it lacks an entry, or its first fault freezes it, or it
waits, or all of it commits. -/
theorem stepRunsTheDecodedInstruction : Obligations.StepRunsTheDecodedInstruction := by
  intro s t k l th ws is hsched hawake u y v hsup hsel hport hstall hnext his f o₁ o run ends wants control through closed order waits unchecked
  have hsrc : o₁.issue.src = th.regs := congrArg Issue.src (yieldsOver_issue ..)
  have hkey : o₁.issue.key = k := congrArg Issue.key (yieldsOver_issue ..)
  have hwords : o₁.issue.words = ws := congrArg Issue.words (yieldsOver_issue ..)
  have htodo : o₁.issue.todo = is := congrArg Issue.todo (yieldsOver_issue ..)
  obtain ⟨x, hx, huid⟩ : ∃ x, threadAt o₁ k = some x ∧ x.uid = th.uid := by
    obtain ⟨x, hx, hu⟩ := threadAt_yieldsOver (s := openWords f k th ws is none (keep v k th is) (some (threadsOn (yieldsOver y u) t, (coreAt u t).last)))
      (k := k) y ((threadAt_setThread ..).trans (if_pos rfl))
    exact ⟨x, hx, hu⟩
  have hstep : step s = closeIssue (runOpened exec o is) := by
    have hcycle : exec (.issueCycle t) { s with sched := l } = .next o₁ := by
      rw [issueCycle_awake (s := { s with sched := l }) hawake, if_neg (by rw [hsup]; exact Bool.false_ne_true),
        issueOn_opens hsel hport hstall, openBundle, hnext]
    rw [stepWith_issueCycle hsched, hcycle]
    exact runBundle_opened htodo his
  have hrun : run = runSyllable exec o.issue.src := funext fun x => funext fun e =>
    congrArg (fun r => exec e.2 { x with issue := { x.issue with src := r, idx := e.1, flow := .go } }) hsrc.symm
  have hends : ends = fun e fl => endsWith exec o fl e :=
    funext fun e => funext fun fl => (endsWith_of_src (run := exec) (s := o) (e := e) hsrc fl).symm
  have hwants : wants = lacksEntry exec o := funext fun e => (lacksEntry_of_src (run := exec) (s := o) (e := e) hsrc hkey).symm
  have hcontrol : control = isControl o := funext fun e => congrArg (fun w => wordCls (nth 0 w e.1) == 5) hwords.symm
  have hkey : o.issue.key = k := hkey
  have hx : threadAt o o.issue.key = some x := by rw [hkey]; exact hx
  rw [hstep, ← hkey, ← huid]
  clear_value run ends wants control
  subst hrun hwants hcontrol hends
  clear hsrc hwords htodo hstep hkey
  clear_value o
  refine ⟨fun e r hw hr => ?_, fun hw => ?_⟩
  · rw [runOpened_lacks hw, hr]
    rfl
  · refine ⟨fun a e b r hsplit hr hfl hfirst => ?_, fun hf hne c hc => ?_, fun hgo c hc hall => ?_⟩
    · have hfreeze : endsWith exec o .freeze e = true := (endsWith_of_next hr .freeze).trans (beq_iff_eq.mpr hfl)
      have hfault : firstFault exec o is = some e := by
        rw [hsplit] at hfirst ⊢
        exact firstFault_of_split hfreeze hfirst
      refine ⟨fun hu => ?_, fun hu c hc => ?_⟩
      · rw [runOpened_freezes hw hfault hu, hr]
        rfl
      · rw [runOpened_checksFirst hw hfault hu, runAll_from hc]
        rfl
    · rw [runOpened_waits hw hf hne, runAll_from hc]
      rfl
    · rw [runOpened_commits hw hgo hx hc.2 hc.1 hall]
      rfl

end Sys2Proof.Machine
